-- ==== Sys2Proof/Word.lean ====
section
/-!
DEFINITION. The word types of the module and their plainest arithmetic.
Registers are 64 bits wide and little-endian, bit 0 the least significant (R4).
-/
namespace Sys2Proof

abbrev Byte := BitVec 8
abbrev W16 := BitVec 16
abbrev W32 := BitVec 32
abbrev W64 := BitVec 64

/-- A core ID: field in [20:15], block in [14:6], core in [5:0] (R15). -/
abbrev CoreId := BitVec 21

/-- A bounded index of one of the 48 fields (also of a herder, a reduction engine, a warden). -/
abbrev FieldIx := Fin 48

/-- A bounded index of one of the 64 ports: 0-47 peer links, 48-63 bellows ports (R294). -/
abbrev PortIx := Fin 64

end Sys2Proof
end

