-- ==== Sys2Proof/Syntax.lean ====
section
/-!
DEFINITION. The commands of the module: one constructor per row of spec/opcode_table.json, in the table's order.
A command is a step of spec/95_what_each_step_holds.md: a BAR0 write, a mailbox command, an instruction of a core, a
message that a unit takes, or an event of the module's own clockwork. The operand types that the rows need stand first.
-/
namespace Sys2Proof

/-- The fields of a core's instruction word below class and operation (R82). -/
structure Ins where
  tok : BitVec 3 := 0
  dst : BitVec 5 := 0
  srcA : BitVec 5 := 0
  srcB : BitVec 5 := 0
  mod : BitVec 4 := 0
  imm : BitVec 32 := 0
  deriving DecidableEq, Repr

/-- Integer ALU operations of class SCL. The manual names no operation (R84 withholds the encodings), so `other`
stands for an operation code outside the usual ones. -/
inductive AluOp where
  | add | sub | mul | and | or | xor | shl | shr | sar | other (code : BitVec 6)
  deriving DecidableEq, Repr

/-- The compares of the vector unit (R101). -/
inductive CmpOp where
  | eq | lt | le | ne
  deriving DecidableEq, Repr

/-- The descriptor fields that SET may build: every field of R57 but fmt (R61). -/
inductive DscField where
  | base | rowStride | rows | cols | sideBase | sideStride | blkAxis
  deriving DecidableEq, Repr

/-- A result record of 24 B (R46). -/
structure ResultRec where
  qp : BitVec 16
  sqIndex : BitVec 32
  result : BitVec 64
  deriving DecidableEq, Repr

/-- A LOGITS payload (R146): header fields and the raw logits, as codes of the stated format. -/
structure LogitsMsg where
  token : BitVec 17
  layer : BitVec 8
  first : BitVec 14
  format : BitVec 2
  values : List (BitVec 32)
  deriving DecidableEq, Repr

/-- A SORT_JOB payload (R177). -/
structure SortJobMsg where
  src : BitVec 64
  dst : BitVec 64
  scratch : BitVec 64
  count : BitVec 32
  flags : BitVec 32
  tag : BitVec 64
  deriving DecidableEq, Repr

/-- A GRAD payload (R234): header and the 16-bit values. -/
structure GradMsg where
  bucket : BitVec 16
  step : BitVec 32
  segment : BitVec 20
  offset : BitVec 24
  values : List (BitVec 16)
  deriving DecidableEq, Repr

/-- A CONTRIB or RESULT message (R239): header and FP32 values. -/
structure ReduceMsg where
  backup : Bool
  group : BitVec 8
  bucket : BitVec 16
  step : BitVec 32
  shard : BitVec 12
  member : BitVec 12
  offset : BitVec 24
  values : List (BitVec 32)
  deriving DecidableEq, Repr

/-- The identity of a GRAD_OUT, as GRAD_ACK and STREAM_ERR repeat it (R302). -/
structure GradOutId where
  tag : BitVec 64
  step : BitVec 32
  bucket : BitVec 16
  shard : BitVec 12
  whole : Bool
  deriving DecidableEq, Repr

/-- What a STREAM_ERR answers: a FILL_REQ or a GRAD_OUT (R302). -/
inductive StreamErrOf where
  | fill (context : BitVec 6) (slot : BitVec 8) (layer : BitVec 8) (fillSeq : BitVec 8)
  | grad (id : GradOutId)
  deriving DecidableEq, Repr

/-- The header fields of a frame without sequence number that carries acknowledgement and credit, and its CRC as received
(R298, R300). -/
structure IdleFrame where
  ack : BitVec 12
  creditVc : Fin 4
  credit : BitVec 8
  crc : BitVec 32
  deriving DecidableEq, Repr

/-- A HELLO frame: the fields of its payload (R297), and its header and CRC (R298). -/
structure HelloMsg where
  versions : BitVec 32
  role : BitVec 8
  port : BitVec 8
  node : BitVec 16
  rank : BitVec 16
  retiring : Bool
  resume : Bool
  nextExpected : BitVec 12
  buffers : List (BitVec 16)
  serial : BitVec 64
  /-- Half the measured round trip of the HELLO exchange, in ns (R297). -/
  delayNs : BitVec 32
  head : IdleFrame
  deriving DecidableEq, Repr

/-- A DATA frame as it arrives at a receiver (R298). -/
structure DataFrame where
  seq : BitVec 12
  ack : BitVec 12
  vc : Fin 4
  som : Bool
  eom : Bool
  creditVc : Fin 4
  credit : BitVec 8
  payload : List Byte
  /-- The CRC as received. -/
  crc : BitVec 32
  deriving DecidableEq, Repr

/-- A SYNC frame (R308), with the arrival time at the receiver. -/
structure SyncFrame where
  stroke : BitVec 64
  boundary : BitVec 64
  departure : BitVec 64
  s : BitVec 8
  late : Bool
  halted : Bool
  arrival : BitVec 64
  head : IdleFrame
  deriving DecidableEq, Repr

/-- What a span engine waits for when SPN_CFG.timeout runs out (R313, R316, R317): the answer of a request by its tag, the answer
of a sweep by its rank and epoch, or a fence by its core and its place in issue order. -/
inductive SpanDue where
  | request (tag : BitVec 32)
  | sweep (rank : BitVec 16) (epoch : BitVec 32)
  | fence (c : BitVec 21) (order : Nat)
  deriving DecidableEq, Repr

/-- A SPAN_REQ as a target takes it (R301, R302, R310). -/
structure SpanReqMsg where
  srcRank : BitVec 16
  destRank : BitVec 16
  ttl : BitVec 4
  gen : BitVec 8
  address : BitVec 64
  op : BitVec 4
  flag : Bool
  reissue : Bool
  size : BitVec 12
  tag : BitVec 32
  engine : BitVec 7
  data : List Byte
  operand : BitVec 64
  compare : BitVec 64
  firstIssue : BitVec 64
  deriving DecidableEq, Repr

/-- An ACT or ATTN message from a peer link (R301, R307). -/
structure PeerMsg where
  srcRank : BitVec 16
  stroke : BitVec 2
  dest : BitVec 21
  destEndpoint : Bool
  channel : BitVec 4
  payload : List Byte
  deriving DecidableEq, Repr

/-- What an ATTN message carries (R199). -/
inductive AttnPart where
  | rows (sequence : BitVec 16) (layerSlot : BitVec 8) (head : BitVec 6) (position : BitVec 24) (bytes : List Byte)
  | partialOf (token : BitVec 17) (head : BitVec 10) (layerSlot : BitVec 8) (member : BitVec 10) (bytes : List Byte)
  | absent (token : BitVec 17) (layerSlot : BitVec 8) (member : BitVec 10)
  deriving DecidableEq, Repr

/-- The two words of a tongs request and the queue input it enters by (R281). -/
structure TongsReq where
  input : Fin 5
  w0 : BitVec 64
  w1 : BitVec 64
  deriving DecidableEq, Repr

/-- What a link does to the bits of one flit on its way to the next router: data and CRC bits that flip (R117, R119;
DESIGN CHOICE, log 220). -/
structure FlitNoise where
  flit : Nat
  data : BitVec 512
  crc : BitVec 16
  deriving DecidableEq, Repr

/-- What strikes a bonded memory line on its way to the port: flips in its data, in its stored code and in the line number that
it is read at (R323; DESIGN CHOICE, log 223). -/
structure LineNoise where
  data : BitVec 512
  code : BitVec 16
  address : BitVec 29
  deriving DecidableEq, Repr

/-- Noise on the line of a transfer that is named. -/
structure LineStrike where
  line : BitVec 29
  noise : LineNoise
  deriving DecidableEq, Repr

/-- What a warden's detection report says was found (R323-R328, R330, R340). -/
inductive Detection where
  /-- A CRC error in a core's SRAM or program store, signalled by its error symbol (R56). -/
  | sramCrc (core : CoreId) (addr : BitVec 16)
  /-- A core lost its heartbeats: `boundary` says whether the boundary heartbeat (R324) or three periodic ones (R79). -/
  | coreDead (core : CoreId) (boundary : Bool)
  /-- A flit error at a router port, with the beat and stroke bits of the message header (R120, R325). -/
  | flit (field : FieldIx) (block : Fin 396) (core : Fin 64) (express : Bool) (port : BitVec 3)
      (beat : BitVec 12) (stroke : BitVec 2)
  /-- A bonded memory line of a read issued in an uncommitted beat (R326). -/
  | memLine (field : FieldIx) (wafer : Bool) (line : BitVec 29)
  deriving DecidableEq, Repr

/-- A message of a neighbour test (R408): tester, tested core, whether the tester reports a failure. -/
structure TestReport where
  tester : CoreId
  subject : CoreId
  failed : Bool
  deriving DecidableEq, Repr

/-- The commands of the module, one per row of spec/opcode_table.json. -/
inductive Instr where
  | powerGood
  | fieldTestDone (f : FieldIx) (wardenOk clockOk : Bool) (rings : BitVec 18) (scanFailed : List CoreId)
      (reports : List TestReport) (marchFailed : List CoreId)
  | flashMounted
  | logsRecovered
  | powerLoss
  | functionLevelReset
  | busMasterEnableChange (on : Bool)
  | registerWrite (off : BitVec 24) (width : Nat) (value : W64)
  | strokeBoundary
  | beatBoundary (measured : Nat)
  | beatCommit
  | intake
  | beatTaskTrigger
  | stkCfgWrite (value : W64)
  | admitBillet (tag : W32) (params : List Byte)
  | retireBillet (tag : W32) (params : List Byte)
  | version (tag : W32) (params : List Byte)
  | loadBase (tag : W32) (context : Byte) (source : W64)
  | loadAdapter (tag : W32) (context : Byte) (adapter : W16) (source : W64)
  | dropAdapter (tag : W32) (context : Byte) (adapter : W16)
  | loadWeightsEnd
  | epochCommit (tag : W32) (params : List Byte)
  | epochDrop (tag : W32) (params : List Byte)
  | logRead (tag : W32) (params : List Byte)
  | selfTest (tag : W32) (params : List Byte)
  | scrub (tag : W32) (params : List Byte)
  | scrubComplete
  | attest (tag : W32) (params : List Byte)
  | attestComplete
  | fwUpdate (tag : W32) (params : List Byte)
  | fwUpdateComplete
  | fwMinVersionRaise
  | pldmFwUpdate (image : List Byte)
  | mctpControl (eid : Byte)
  | pace (value : W64)
  | health
  | ppsEdge (tod : Option W64)
  | timeHoldover
  | sync (p : PortIx) (fr : SyncFrame)
  | stretchSyncResend
  | syncLost
  | syncRestored
  | resultRecord (records : List ResultRec)
  | trailNotice (eventId arrival : W64) (serial : BitVec 58) (h : FieldIx)
  | deferralNotice (eventId arrival : W64)
  | nop (c : CoreId) (i : Ins)
  | br (c : CoreId) (i : Ins)
  | brz (c : CoreId) (i : Ins)
  | brnz (c : CoreId) (i : Ins)
  | wait (c : CoreId) (i : Ins)
  | endTask (c : CoreId) (i : Ins)
  | scalarAlu (c : CoreId) (op : AluOp) (i : Ins)
  | li (c : CoreId) (i : Ins)
  | csrr (c : CoreId) (i : Ins)
  | csrw (c : CoreId) (i : Ins)
  | set (c : CoreId) (fld : DscField) (fromScalar : Bool) (i : Ins)
  | setf (c : CoreId) (i : Ins)
  | addb (c : CoreId) (i : Ins)
  | ldd (c : CoreId) (i : Ins)
  | std (c : CoreId) (i : Ins)
  | mma (c : CoreId) (i : Ins)
  | mmaComplete (c : CoreId)
  | clr (c : CoreId) (i : Ins)
  | drain (c : CoreId) (i : Ins)
  | load (c : CoreId) (i : Ins)
  | tov (c : CoreId) (i : Ins)
  | accComplete (c : CoreId)
  | vecAdd (c : CoreId) (i : Ins)
  | vecMul (c : CoreId) (i : Ins)
  | vecFma (c : CoreId) (i : Ins)
  | vecMin (c : CoreId) (i : Ins)
  | vecMax (c : CoreId) (i : Ins)
  | vecCompare (c : CoreId) (op : CmpOp) (i : Ins)
  | vecSelect (c : CoreId) (i : Ins)
  | hsum (c : CoreId) (i : Ins)
  | hmax (c : CoreId) (i : Ins)
  | exp (c : CoreId) (i : Ins)
  | rcp (c : CoreId) (i : Ins)
  | rsq (c : CoreId) (i : Ins)
  | vld (c : CoreId) (i : Ins)
  | vst (c : CoreId) (i : Ins)
  | cvt (c : CoreId) (i : Ins)
  | send (c : CoreId) (i : Ins)
  | chan (c : CoreId) (i : Ins)
  | bld (c : CoreId) (i : Ins)
  | bst (c : CoreId) (i : Ins)
  | vportTransferComplete (c : CoreId) (strike : LineStrike)
  | lineReread (f : FieldIx) (wafer : Bool) (line : BitVec 29) (noise : LineNoise)
  | spn (c : CoreId) (i : Ins)
  | trig (c : CoreId) (i : Ins)
  | coreMessageArrival (c : CoreId)
  | heartbeat (c : CoreId)
  | missedHeartbeats (reporter neighbour : CoreId)
  | boundaryHeartbeatMiss (reporter neighbour : CoreId)
  | fabricMessageHop (msg : Nat) (noise : FlitNoise)
  | arbDecision (f : FieldIx) (kind : Fin 6) (inst : Fin 396)
  | arbStarve (f : FieldIx) (kind : Fin 6) (inst : Fin 396) (input : BitVec 7)
  | arbWatchdog (f : FieldIx) (kind : Fin 6) (inst : Fin 396)
  | slotTableCommit (f : FieldIx)
  | fldArbSlotAccess (f : FieldIx) (write : Option W64)
  | tstUnlock (key : W32)
  | tstInjArm (value : W64)
  | tstCredExpire
  | routeSwitch
  | logits (h : FieldIx) (m : LogitsMsg)
  | tokenSettle (h : FieldIx) (layer : BitVec 8)
  | layerClose (h : FieldIx) (layer : BitVec 8)
  | flag (h : FieldIx) (token : BitVec 17) (mask : W16) (values : List W32)
  | sortJob (h : FieldIx) (source : CoreId) (j : SortJobMsg)
  | sortComplete (h : FieldIx)
  | sortAbort (h : FieldIx)
  | biasCommit (h : FieldIx) (layer : BitVec 8)
  | kvOpen (seq : W16) (stroke : BitVec 36)
  | kvEdit (seq : W16) (stroke : BitVec 36)
  | kvCommit (seq : W16) (stroke : BitVec 36)
  | kvAbandon (seq : W16) (stroke : BitVec 36)
  | kvPreempt (seq : W16) (stroke : BitVec 36)
  | kvResume (seq : W16) (stroke : BitVec 36)
  | kvClose (seq : W16) (stroke : BitVec 36)
  | kvPrio (seq : W16) (value : Byte) (stroke : BitVec 36)
  | commitPrepared (seq : W16)
  | shadowSyncDone (seq : W16)
  | lookup (seq : W16) (count : BitVec 17)
  | insert (seq : W16) (count : BitVec 17)
  | prefixOpComplete
  | redStepOpen (stroke : BitVec 36)
  | redStepClose (stroke : BitVec 36)
  | lscaleWrite (value : W64)
  | grad (e : FieldIx) (m : GradMsg)
  | contrib (e : FieldIx) (m : ReduceMsg)
  | result (e : FieldIx) (m : ReduceMsg)
  | shardReduced (e : FieldIx) (seq : W64)
  | resultWriteAck (e : FieldIx) (seq : W64)
  | completionPost (e : FieldIx)
  | redEngAbort (e : FieldIx) (seq : W64)
  | session (p : PortIx) (context : BitVec 6) (session : W32) (offset : BitVec 41) (last : Bool) (data : List Byte)
  | chunk (p : PortIx) (slot fillSeq : Byte) (chunk : W32) (piece : BitVec 10) (data : List Byte)
  | fillTimeout (slot : Byte)
  | streamErr (p : PortIx) (of : StreamErrOf) (code : BitVec 3)
  | gradAck (p : PortIx) (id : GradOutId)
  | prefetch (q : Fin 96) (r : TongsReq)
  | move (q : Fin 96) (r : TongsReq)
  | evict (q : Fin 96) (r : TongsReq)
  | clone (q : Fin 96) (r : TongsReq)
  | release (q : Fin 96) (r : TongsReq)
  | place (q : Fin 96) (r : TongsReq)
  | moveCopyDone (q : Fin 96) (page : BitVec 31)
  | flashUncorrectable (logicalPage : W32)
  | linkEnable (p : PortIx)
  | linkDisable (p : PortIx)
  | linkRetire (p : PortIx)
  | linkRetireCancel (p : PortIx)
  | linkLock (p : PortIx)
  | trainingTimeout (p : PortIx)
  | hello (p : PortIx) (m : HelloMsg)
  | lossOfLock (p : PortIx)
  | fecUncorrectable (p : PortIx) (sixteenInMs : Bool)
  | retrainTimeout (p : PortIx)
  | downRetry (p : PortIx)
  | dataFrame (p : PortIx) (fr : DataFrame)
  | nakFrame (p : PortIx) (next : BitVec 12) (fr : IdleFrame)
  | idleFrame (p : PortIx) (fr : IdleFrame)
  | ackTimer (p : PortIx)
  | replayTimeout (p : PortIx)
  | spanReq (p : PortIx) (m : SpanReqMsg)
  | spanRsp (engine : Fin 96) (tag : W32) (status : BitVec 4) (data : List Byte) (old : W64)
  | sweep (engine : Fin 96) (rank : W16) (epoch : W32)
  | flagStoreRelease (c : CoreId)
  | spanTimeout (engine : Fin 96) (due : SpanDue)
  | act (p : PortIx) (m : PeerMsg)
  | attn (p : PortIx) (m : PeerMsg) (part : AttnPart)
  | event (p : PortIx) (srcRank : W16) (entry : List Byte)
  | sqDoorbell (q : W16) (value : W64)
  | cqDoorbell (q : W16) (value : W64)
  | sqEntryTake (q : W16)
  | qpcCfgWrite (q : W16) (value : W64)
  | tableCommit (stroke : BitVec 36)
  | tableLoadDone
  | bcastData (p : PortIx) (tree : W16) (offset : BitVec 40) (last : Bool) (data : List Byte)
  | bcastAck (tree : W16) (child : W16) (offset : BitVec 40)
  | bcastReport (tree : W16) (child : W16) (rank : W16)
  | treeChildLost (tree : W16) (child : W16)
  | faultReport (d : Detection)
  | wardenAck (f : FieldIx)
  | beatReplay
  | wardenStatus (f : FieldIx)
  | wardenLinkLoss (f : FieldIx)
  | gwekuWatchdog
  | gwekuRestartDone
  | refetchTimeout (page : BitVec 31)
  | logCopy (trail : Bool)
  | spillRefill (trail : Bool)
  | fltRingTailWrite (value : W64)
  | fltTrailTailWrite (value : W64)
  | telemetryRecord (bytes : List Byte)
  | hearthTick (powers : List Nat)
  | thermalStepExit
  | deepParkTimer (f : FieldIx)
  | parkWithdraw (f : FieldIx)
  | thmPark (f : BitVec 6) (stroke : BitVec 36)
  | thmDeepPark (f : BitVec 6) (stroke : BitVec 36)
  | thmUnpark (f : BitVec 6) (stroke : BitVec 36)
  | rampComplete (f : FieldIx)
  | thmCfgWrite (value : W64)
  | sensorSample (readings : List Int)
  | sensorSuspect (f : FieldIx) (pair : Fin 4)
  | coolantSample (inlet outlet flow : W16)
  | coolantTelemetry
  | flowStop (samples : List W16)
  | junctionBackstop
  | pwrShed (key : W32)
  | shedRecord
  | retentionTimeout
  | flowReturn
  | tmkCfgWrite (u : Fin 32) (value : W64)
  | tmkDataWrite (u : Fin 32) (width : Nat) (value : W64)
  | tmkValueWrite (u : Fin 32) (value : W64)
  | tmkStatusWrite (u : Fin 32) (value : W64)
  | resultWindowRead (u : Fin 32) (final : Bool)
  | bar4Read (off : BitVec 36) (len : Nat)
  | bar4Write (off : BitVec 36) (data : List Byte)
  | coreLoss (c : CoreId)
  | fieldClockLoss (f : FieldIx)
  | badOpcode (tag : W32) (opcode : W16)
  | closeDone (seq : W16)
  | treeArmed (tree : Fin 16)
  deriving DecidableEq, Repr

end Sys2Proof
end

