-- ==== Sys2Proof/Config.lean ====
section
/-!
DEFINITION. What an implementation fixes and the manual leaves open: free values, as opaque constants that no proof can
evaluate. Each names the rule that leaves it open; the assumption log has one row for each.
-/
namespace Sys2Proof.Config

/-- The vendor ID that PCI-SIG assigns (R370). -/
opaque vendorId : W16

/-- Physical node number set by the tray position straps (R12, R321). -/
opaque strapsNode : W16

/-- Displacement in ulp of a special-function result from the base value, chosen by the implementation within the error
that R71, R102 and R148 allow: function code (0 EXP, 1 RCP, 2 RSQ, 3 sigmoid, 4 softmax term) and operand. -/
opaque ulpOffset : Nat → W32 → Nat

/-- Result of an integer ALU operation that the manual does not name (R84). -/
opaque aluOther : BitVec 6 → W32 → W32 → W32

/-- The signature that the module key makes over a message (R409, R416). -/
opaque slhSign : List Byte → List Byte

/-- The verdict of admission step 11 on a billet's programs: whether some beat holds a synchronous slow-tier access
(R35), asked of programs that hold a transfer of class MEM. The encodings that would show it are withheld (R84). -/
opaque syncSlowTier : List Byte → Bool

/-- Which keys, serial, wafer identifiers and certificate a module holds (R405, R406, R409, R416), and the signature that
its factory part carries, whose place is not laid out. -/
opaque firmwareKey : List Byte
opaque factoryKey : List Byte
opaque moduleKey : List Byte
opaque moduleSerial : List Byte
opaque waferIds : List Byte
opaque moduleCert : List Byte
opaque factorySig : List Byte → List Byte

/-- The factory defect map that a factory part holds, whose layout is not stated (R406, R409): failed masks and spare masks,
each by block. -/
opaque factoryFailed : List Byte → List (Nat × W64)
opaque factorySpare : List Byte → List (Nat × W64)

/-- What a scan of a field's 18 rings shows when it unparks from a deep park, by draw: the state of the silicon (R363). -/
opaque ringScan : Nat → BitVec 18

/-- Magic and version of the defect map's header, whose values are not stated (R409). -/
opaque mapHead : List Byte

/-- The key, security version, build serial, body and signature places of a firmware image are not laid out in the
manual (R405): the decoded header of an image, as (security version, build serial, signature). -/
opaque fwHeader : List Byte → Nat × W64 × List Byte

/-- The owner part of the configuration: its owner key, publisher keys and signature (R406). -/
opaque ownerPart : List Byte → List Byte × List (List Byte) × List Byte

/-- What scratch and an ended job's dst hold after a sort (R177): undefined bytes, by draw and offset. -/
opaque sortUndefined : Nat → Nat → Byte

/-- What an ATTEST that was interrupted leaves in its buffer (R416), by draw and offset. -/
opaque attestUndefined : Nat → Nat → Byte

/-- What a routing slot word holds where no expert was chosen: an EMPTY slot, or a slot of a token whose logits came late
(R147, R155, R174), by draw and slot number. -/
opaque noExpertSlot : Nat → Nat → W64

/-- Which of two steps in use a micro-batch's lost stash line belongs to, by draw (R221). -/
opaque stashStep : Nat → Bool

/-- What a load from a span address of another rank returns: its bytes and its status, by draw and address. The memory of
another module is no part of this one (R373, R260, R38). -/
opaque remoteByte : Nat → Nat → Byte
opaque remoteStatus : Nat → Nat → Nat

/-- full_stroke of a completion record of an instance that was never full (R246), by draw. -/
opaque noFullStroke : Nat → W64

/-- Measured input voltage, current and power, three samples a tick by draw, which the module reports and does not act on
(R347). -/
opaque inputSample : Nat → W16

end Sys2Proof.Config
end

