-- ==== Sys2Proof/Machine/NMap.lean ====
section
/-!
DEFINITION. Sparse maps as plain data: a list of (key, value) pairs with strictly rising keys in which no entry equals
the default, so that equal maps are equal lists. Memory, register files and the per-unit states are such maps.
-/
namespace Sys2Proof.Machine

/-- A sparse map from Nat. What an unlisted key reads as is the default that each use names. -/
abbrev NMap (V : Type) := List (Nat × V)

/-- The value at a key, or the default. -/
def nget {V : Type} (d : V) : NMap V → Nat → V
  | [], _ => d
  | (k, v) :: m, q => if k = q then v else nget d m q

/-- Insert or replace at a key, keeping the keys rising. -/
def ninsert {V : Type} (q : Nat) (x : V) : NMap V → NMap V
  | [] => [(q, x)]
  | (k, v) :: m =>
    if q < k then (q, x) :: (k, v) :: m
    else if q = k then (q, x) :: m
    else (k, v) :: ninsert q x m

/-- Drop a key. -/
def nerase {V : Type} (q : Nat) : NMap V → NMap V
  | [] => []
  | (k, v) :: m => if k = q then nerase q m else (k, v) :: nerase q m

/-- Write a value: writing the default removes the entry. -/
def nput {V : Type} [DecidableEq V] (d : V) (m : NMap V) (q : Nat) (x : V) : NMap V :=
  if x = d then nerase q m else ninsert q x m

/-- Every key rises and no value is the default. -/
def nwf {V : Type} [DecidableEq V] (d : V) : NMap V → Bool
  | [] => true
  | (_, v) :: [] => decide (v ≠ d)
  | (k, v) :: (k', v') :: m => decide (v ≠ d) && decide (k < k') && nwf d ((k', v') :: m)

/-- Write consecutive values from a key. -/
def nputList {V : Type} [DecidableEq V] (d : V) (m : NMap V) (q : Nat) : List V → NMap V
  | [] => m
  | x :: xs => nputList d (nput d m q x) (q + 1) xs

/-- Read `n` consecutive values from a key. -/
def ngetList {V : Type} (d : V) (m : NMap V) (q : Nat) : Nat → List V
  | 0 => []
  | n + 1 => nget d m q :: ngetList d m (q + 1) n

end Sys2Proof.Machine
end

