-- ==== Sys2Proof/Machine/Bits.lean ====
section
/-!
DEFINITION. Bytes and bit fields: little-endian packing (R4), bit ranges, and the check codes of R56, R119, R298, R323
and R399.
-/
namespace Sys2Proof.Machine

/-- Bits [hi:lo] of a number. -/
def bits (v hi lo : Nat) : Nat := (v >>> lo) % 2 ^ (hi + 1 - lo)

/-- One bit of a number. -/
def bit (v n : Nat) : Bool := v.testBit n

/-- A Boolean as a bit. -/
def b2n (b : Bool) : Nat := if b then 1 else 0

/-- The `n` bytes of a number, least significant first. -/
def leBytes : Nat → Nat → List Byte
  | 0, _ => []
  | n + 1, v => BitVec.ofNat 8 v :: leBytes n (v / 256)

/-- The number that bytes spell, least significant first. -/
def leNat : List Byte → Nat
  | [] => 0
  | b :: bs => b.toNat + 256 * leNat bs

/-- The bytes at an offset of a list; bytes past its end read zero. -/
def sub (bs : List Byte) (off n : Nat) : List Byte :=
  let t := (bs.drop off).take n
  t ++ List.replicate (n - t.length) 0

/-- A little-endian number of `n` bytes at an offset of a list. -/
def at' (bs : List Byte) (off n : Nat) : Nat := leNat (sub bs off n)

/-- Pad or cut a list of bytes to a length. -/
def padTo (n : Nat) (bs : List Byte) : List Byte := sub bs 0 n

/-- Saturating addition below 2^w. -/
def satAdd (w a b : Nat) : Nat := min (a + b) (2 ^ w - 1)

/-- Saturating increment of a register. -/
def satInc {w : Nat} (v : BitVec w) : BitVec w := if v = BitVec.allOnes w then v else v + 1

/-- Whether every byte of a list is zero. -/
def zeros (bs : List Byte) : Bool := bs.all (· == 0)

/-- Beats with their numbers. -/
def numbered {α : Type} (xs : List α) : List (Nat × α) := (List.range xs.length).zip xs

/-! ## Check codes -/

/-- One bit step of a reflected CRC register. -/
def crcStepR (poly v : Nat) : Nat := if v % 2 = 1 then (v / 2) ^^^ poly else v / 2

/-- `n` bit steps of a reflected CRC register. -/
def crcStepsR (poly : Nat) : Nat → Nat → Nat
  | 0, v => v
  | n + 1, v => crcStepsR poly n (crcStepR poly v)

/-- Feed one byte to a reflected CRC register. -/
def crcByteR (poly v : Nat) (b : Byte) : Nat := crcStepsR poly 8 (v ^^^ b.toNat)

/-- One bit step of an unreflected CRC register of `w` bits. -/
def crcStepL (w poly v : Nat) : Nat :=
  if v.testBit (w - 1) then ((v * 2) ^^^ poly) % 2 ^ w else (v * 2) % 2 ^ w

/-- `n` bit steps of an unreflected CRC register. -/
def crcStepsL (w poly : Nat) : Nat → Nat → Nat
  | 0, v => v
  | n + 1, v => crcStepsL w poly n (crcStepL w poly v)

/-- Feed one byte to an unreflected CRC register of `w` bits. -/
def crcByteL (w poly v : Nat) (b : Byte) : Nat := crcStepsL w poly 8 (v ^^^ (b.toNat <<< (w - 8)))

/-- Reversed polynomials of CRC-32C and CRC-32/IEEE 802.3 (R399). -/
def polyC : Nat := 0x82F63B78
def polyIeee : Nat := 0xEDB88320
def polyEcma : Nat := 0x42F0E1EBA9EA3693

/-- CRC-32C of a list of bytes (R298, R389). -/
def crc32c (bs : List Byte) : Nat := (bs.foldl (crcByteR polyC) 0xFFFFFFFF) ^^^ 0xFFFFFFFF

/-- The bonded memory code: CRC-16, polynomial 0x8BB7, over the line and its 32-bit address (R323). -/
def crcLine (line : List Byte) (addr : Nat) : Nat :=
  (line ++ leBytes 4 addr).foldl (crcByteL 16 0x8BB7) 0

end Sys2Proof.Machine
end

