-- ==== Sys2Proof/Machine/Float.lean ====
section
/-!
DEFINITION. Number formats and arithmetic: exact decoding, rounding to a format's grid, and the FP32 arithmetic of the
anvil, the vector unit, the herders and the reduction engines (R92-R111).
-/
namespace Sys2Proof.Machine

/-- An exact value: NaN, an infinity, or ± m · 2^e; a zero keeps its sign (R92, R93). -/
inductive Val where
  | nan
  | inf (neg : Bool)
  | fin (neg : Bool) (m : Nat) (e : Int)
  deriving DecidableEq, Repr

/-- How a format spends its top exponent (R92). -/
inductive TopExp where
  | ieee | e4m3 | finite
  deriving DecidableEq, Repr

/-- A floating element format: exponent bits, mantissa bits, bias, and its special encodings (R92). -/
structure FloatFmt where
  eb : Nat
  mb : Nat
  bias : Nat
  top : TopExp
  deriving DecidableEq, Repr

def fmtF32 : FloatFmt := ⟨8, 23, 127, .ieee⟩
def fmtF16 : FloatFmt := ⟨5, 10, 15, .ieee⟩
def fmtBF16 : FloatFmt := ⟨8, 7, 127, .ieee⟩
def fmtE4M3 : FloatFmt := ⟨4, 3, 7, .e4m3⟩
def fmtE5M2 : FloatFmt := ⟨5, 2, 15, .ieee⟩
def fmtE3M2 : FloatFmt := ⟨3, 2, 3, .finite⟩
def fmtE2M3 : FloatFmt := ⟨2, 3, 1, .finite⟩
def fmtE2M1 : FloatFmt := ⟨2, 1, 1, .finite⟩

/-- Exponent of the lowest mantissa bit of a format's subnormals. -/
def FloatFmt.smin (f : FloatFmt) : Int := 1 - (f.bias : Int) - f.mb

/-- Decode a code of a floating format exactly (R92, R93). -/
def FloatFmt.decode (f : FloatFmt) (code : Nat) : Val :=
  let neg := code.testBit (f.eb + f.mb)
  let ex := (code >>> f.mb) % 2 ^ f.eb
  let ma := code % 2 ^ f.mb
  let num := if ex = 0 then Val.fin neg ma f.smin
    else Val.fin neg (2 ^ f.mb + ma) (f.smin + (ex : Int) - 1)
  match f.top with
  | .ieee => if ex = 2 ^ f.eb - 1 then (if ma = 0 then .inf neg else .nan) else num
  | .e4m3 => if ex = 2 ^ f.eb - 1 ∧ ma = 2 ^ f.mb - 1 then .nan else num
  | .finite => num

/-- m · 2^(e - k) for k at most e. -/
def alignTo (k : Int) (m : Nat) (e : Int) : Nat := m <<< (e - k).toNat

/-- Signed value scaled to exponent k, for k at most the value's exponent. -/
def Val.scaled (k : Int) : Val → Int
  | .fin neg m e => if neg then -(alignTo k m e : Int) else alignTo k m e
  | _ => 0

/-- The exponent of a finite value. -/
def Val.expo : Val → Int
  | .fin _ _ e => e
  | _ => 0

def Val.isNan : Val → Bool
  | .nan => true
  | _ => false

def Val.isFinite : Val → Bool
  | .fin _ _ _ => true
  | _ => false

def Val.isZero : Val → Bool
  | .fin _ 0 _ => true
  | _ => false

def Val.neg? : Val → Bool
  | .fin n _ _ => n
  | .inf n => n
  | .nan => false

/-- The value with its sign cleared. -/
def Val.abs : Val → Val
  | .fin _ m e => .fin false m e
  | .inf _ => .inf false
  | .nan => .nan

/-- Order of two finite values, as exact numbers. -/
def finLt (a b : Val) : Bool :=
  let k := min a.expo b.expo
  decide (a.scaled k < b.scaled k)

def finEq (a b : Val) : Bool :=
  let k := min a.expo b.expo
  decide (a.scaled k = b.scaled k)

/-- How a value is rounded: to nearest even, or stochastically with a 16-bit draw (R108, R109). -/
inductive Rnd where
  | rne
  | sr (u : Nat)
  deriving DecidableEq, Repr

/-- m / 2^d rounded to an integer, with the draw of R109 where the rounding is stochastic. -/
def roundShift (r : Rnd) (m d : Nat) : Nat :=
  let q := m >>> d
  let rem := m % 2 ^ d
  match r with
  | .rne => if 2 * rem > 2 ^ d ∨ (2 * rem = 2 ^ d ∧ d ≠ 0 ∧ q % 2 = 1) then q + 1 else q
  | .sr u => if u < (rem * 65536) >>> d then q + 1 else q

/-- m · 2^e rounded to an integer. -/
def roundInt (r : Rnd) (m : Nat) (e : Int) : Nat :=
  if e ≥ 0 then m <<< e.toNat else roundShift r m (-e).toNat

/-- The grid exponent of a magnitude in a format: normal numbers keep mb bits below the leading one, subnormals the
format's lowest bit. -/
def FloatFmt.grid (f : FloatFmt) (m : Nat) (e : Int) : Int :=
  if m = 0 then f.smin else max ((m.log2 : Int) + e - f.mb) f.smin

/-- The unsigned code of a magnitude rounded to a format's grid, with no regard to its largest value. -/
def FloatFmt.roundCode (f : FloatFmt) (r : Rnd) (m : Nat) (e : Int) : Nat :=
  let s := f.grid m e
  let q := roundInt r m (e - s)
  let up := (s - f.smin).toNat
  if s = f.smin ∧ q < 2 ^ f.mb then q else (up + 1) * 2 ^ f.mb + (q - 2 ^ f.mb)

/-- Round an exact magnitude with its sign to FP32 (R99): magnitudes past the largest finite value become infinite. -/
def roundF32 (r : Rnd) (neg : Bool) (m : Nat) (e : Int) : W32 :=
  let c := min (fmtF32.roundCode r m e) 0x7F800000
  BitVec.ofNat 32 (b2n neg * 2 ^ 31 + c)

/-- The canonical quiet NaN (R100). -/
def qnan : W32 := 0x7FC00000

/-- An infinity and a zero of FP32. -/
def infF32 (neg : Bool) : W32 := BitVec.ofNat 32 (b2n neg * 2 ^ 31 + 0x7F800000)
def zeroF32 (neg : Bool) : W32 := BitVec.ofNat 32 (b2n neg * 2 ^ 31)

/-- The value of an FP32 code, and the FP32 code of an exact value (rounded to nearest even). -/
def f32val (x : W32) : Val := fmtF32.decode x.toNat
def f32of : Val → W32
  | .nan => qnan
  | .inf n => infF32 n
  | .fin n m e => roundF32 .rne n m e

/-- Product of two exact values (R99): NaN factors and infinity times zero are NaN. -/
def vmul (a b : Val) : Val :=
  match a, b with
  | .nan, _ => .nan
  | _, .nan => .nan
  | .inf n, .inf n' => .inf (n != n')
  | .inf n, .fin n' m _ => if m = 0 then .nan else .inf (n != n')
  | .fin n m _, .inf n' => if m = 0 then .nan else .inf (n != n')
  | .fin n m e, .fin n' m' e' => .fin (n != n') (m * m') (e + e')

/-- Exact sum of two values: infinity less infinity is NaN, and a zero sum is −0 only of two negative zeros. -/
def vadd (a b : Val) : Val :=
  match a, b with
  | .nan, _ => .nan
  | _, .nan => .nan
  | .inf n, .inf n' => if n = n' then .inf n else .nan
  | .inf n, .fin _ _ _ => .inf n
  | .fin _ _ _, .inf n => .inf n
  | .fin n m e, .fin n' m' e' =>
    let k := min e e'
    let t : Int := (Val.fin n m e).scaled k + (Val.fin n' m' e').scaled k
    if t = 0 then .fin (m == 0 && m' == 0 && n && n') 0 k else .fin (decide (t < 0)) t.natAbs k

/-- FP32 addition, multiplication and fused multiply-add, each rounded once (R99, R101). -/
def fadd (x y : W32) : W32 := f32of (vadd (f32val x) (f32val y))
def fmul (x y : W32) : W32 := f32of (vmul (f32val x) (f32val y))
def ffma (x y z : W32) : W32 := f32of (vadd (vmul (f32val x) (f32val y)) (f32val z))
def fneg (x : W32) : W32 := x ^^^ 0x80000000
def fsub (x y : W32) : W32 := fadd x (fneg y)

/-- The order of FP32 values: less, equal (both zeros are equal), false where either is NaN (R101). -/
def flt (x y : W32) : Bool :=
  match f32val x, f32val y with
  | .nan, _ => false
  | _, .nan => false
  | .inf n, .inf n' => n && !n'
  | .inf n, .fin _ _ _ => n
  | .fin _ _ _, .inf n' => !n'
  | a, b => finLt a b

def feq (x y : W32) : Bool :=
  match f32val x, f32val y with
  | .nan, _ => false
  | _, .nan => false
  | .inf n, .inf n' => n == n'
  | .inf _, .fin _ _ _ => false
  | .fin _ _ _, .inf _ => false
  | a, b => finEq a b

def fle (x y : W32) : Bool := flt x y || feq x y

/-- MIN and MAX: NaN if either is NaN, −0 below +0 (R101). -/
def fmin (x y : W32) : W32 :=
  if (f32val x).isNan || (f32val y).isNan then qnan
  else if feq x y then (if (f32val x).neg? then x else y) else if flt x y then x else y
def fmax (x y : W32) : W32 :=
  if (f32val x).isNan || (f32val y).isNan then qnan
  else if feq x y then (if (f32val x).neg? then y else x) else if flt x y then y else x

/-- Exact sum of a chunk of products, rounded once (R65, R99): a NaN or infinities of both signs give NaN, infinities of
one sign that infinity, and a zero sum is −0 only if every product is −0. -/
def chunkSum (ps : List Val) : W32 :=
  if ps.any Val.isNan then qnan
  else
    let pos := ps.any fun p => p == .inf false
    let neg := ps.any fun p => p == .inf true
    if pos && neg then qnan
    else if pos then infF32 false
    else if neg then infF32 true
    else
      let k := ps.foldl (fun k p => min k p.expo) 0
      let t : Int := ps.foldl (fun t p => t + p.scaled k) 0
      if t = 0 then zeroF32 (!ps.isEmpty && ps.all fun p => p.isZero && p.neg?)
      else roundF32 .rne (decide (t < 0)) t.natAbs k

/-! ## Narrowing (R104) -/

/-- The unsigned code of a format's largest finite value. -/
def FloatFmt.maxCode (f : FloatFmt) : Nat :=
  match f.top with
  | .ieee => (2 ^ f.eb - 1) * 2 ^ f.mb - 1
  | .e4m3 => 2 ^ (f.eb + f.mb) - 2
  | .finite => 2 ^ (f.eb + f.mb) - 1

/-- The format's largest finite value. -/
def FloatFmt.maxVal (f : FloatFmt) : Val := f.decode f.maxCode

/-- A code with its sign. -/
def FloatFmt.signed (f : FloatFmt) (neg : Bool) (c : Nat) : Nat := b2n neg * 2 ^ (f.eb + f.mb) + c

/-- Conversion of a finite value to a format that saturates. -/
def FloatFmt.narrowSat (f : FloatFmt) (r : Rnd) (neg : Bool) (m : Nat) (e : Int) : Nat :=
  if finLt f.maxVal (.fin false m e) then f.signed neg f.maxCode
  else f.signed neg (min (f.roundCode r m e) f.maxCode)

/-- Conversion of a finite value to a format with infinities: past the largest finite value the result is the infinity
where round-to-nearest would leave the grid, and the largest finite value otherwise, under both roundings (R104). -/
def FloatFmt.narrowInf (f : FloatFmt) (r : Rnd) (neg : Bool) (m : Nat) (e : Int) : Nat :=
  let infCode := (2 ^ f.eb - 1) * 2 ^ f.mb
  if finLt f.maxVal (.fin false m e) then
    f.signed neg (if f.roundCode .rne m e > f.maxCode then infCode else f.maxCode)
  else f.signed neg (f.roundCode r m e)

/-- Conversion to a two's complement integer of `w` bits, saturating; NaN gives 0 (R104). -/
def narrowInt (w : Nat) (r : Rnd) : Val → Nat
  | .nan => 0
  | .inf neg => if neg then 2 ^ (w - 1) else 2 ^ (w - 1) - 1
  | .fin neg m e =>
    let q := roundInt r m e
    if neg then (2 ^ w - min q (2 ^ (w - 1))) % 2 ^ w else min q (2 ^ (w - 1) - 1)

/-- FP32 to FP16, BF16, E4M3 and E5M2 (R104). -/
def toF16 (r : Rnd) : Val → Nat
  | .nan => 0x7E00
  | .inf n => fmtF16.signed n 0x7C00
  | .fin n m e => fmtF16.narrowInf r n m e
def toBF16 (r : Rnd) : Val → Nat
  | .nan => 0x7FC0
  | .inf n => fmtBF16.signed n 0x7F80
  | .fin n m e => fmtBF16.narrowInf r n m e
def toE4M3 (r : Rnd) : Val → Nat
  | .nan => 0x7F
  | .inf _ => 0x7F
  | .fin n m e => fmtE4M3.narrowSat r n m e
def toE5M2 (r : Rnd) : Val → Nat
  | .nan => 0x7F
  | .inf n => fmtE5M2.signed n 0x7C
  | .fin n m e => fmtE5M2.narrowInf r n m e

/-- FP32 to BF16, round-to-nearest-even (R151, R173). -/
def bf16 (x : W32) : W16 := BitVec.ofNat 16 (toBF16 .rne (f32val x))
/-- BF16 to FP32. -/
def ofBF16 (x : W16) : W32 := f32of (fmtBF16.decode x.toNat)
/-- An FP16 code as FP32. -/
def ofF16 (x : W16) : W32 := f32of (fmtF16.decode x.toNat)

/-! ## Special functions (R71, R102) -/

/-- Move an FP32 magnitude code by a displacement, staying between zero and the largest finite value. -/
def ulpMove (c : Nat) (d : Int) : Nat := (min (max ((c : Int) + d) 0) 0x7F7FFFFF).toNat

/-- A code of function `fn` at operand x whose value lies within `b` ulp of the exact magnitude m 2^e (R71, R102): which one is the
implementation's choice, a free value. From a code that is exact, `b` codes down and up; from the code below a magnitude between two
codes, one fewer down. -/
def ulpNear (fn b : Nat) (x : W32) (m : Nat) (e : Int) : Nat :=
  let low := fmtF32.roundCode (.sr 65535) m e
  let n := Config.ulpOffset fn x
  ulpMove low (if finEq (fmtF32.decode low) (.fin false m e) then ((n % (2 * b + 1) : Nat) : Int) - b else ((n % (2 * b) : Nat) : Int) + 1 - b)

/-- Fixed point of the exponential: 2^96 units. -/
def expScale : Nat := 2 ^ 96

/-- ln 2 in units of 2^-96. -/
def ln2Fix : Nat := 54916777467707473351141471128

/-- e^r for 0 ≤ r < 1 in units of 2^-96, by its series. -/
def expSeries (r : Nat) : Nat :=
  ((List.range 40).foldl (fun (t, acc) n => let t' := t * r / expScale / (n + 1); (t', acc + t')) (expScale, expScale)).2

/-- e^x of a finite x as an exact magnitude m · 2^e, to about 90 bits. -/
def expFin (neg : Bool) (m : Nat) (e : Int) : Nat × Int :=
  let a : Int := if e ≥ -96 then (m <<< (e + 96).toNat : Nat) else (m >>> (-96 - e).toNat : Nat)
  let x : Int := if neg then -a else a
  let k := x / (ln2Fix : Int)
  let r := (x - k * (ln2Fix : Int)).toNat
  (expSeries r, k - 96)

/-- EXP: within two ulp of the exact value, and the special results
(R71, R102). `fn` names the unit that computes it. -/
def expF32 (fn : Nat) (x : W32) : W32 :=
  match f32val x with
  | .nan => qnan
  | .inf true => 0
  | .inf false => infF32 false
  | .fin neg m e =>
    -- x at or below -103.98 gives +0; x above 88.72 gives an infinity
    if neg && !finLt (.fin false m e) expLow then 0
    else if !neg && finLt expHigh (.fin false m e) then infF32 false
    else
      let (p, k) := expFin neg m e
      BitVec.ofNat 32 (ulpNear fn 2 x p k)
where
  /-- 103.98 and 88.72, as multiples of 2^-30. -/
  expLow : Val := .fin false (10398 * 2 ^ 30 / 100) (-30)
  expHigh : Val := .fin false (8872 * 2 ^ 30 / 100) (-30)

/-- RCP (R71, R102). -/
def rcpF32 (x : W32) : W32 :=
  match f32val x with
  | .nan => qnan
  | .inf n => zeroF32 n
  | .fin n m e =>
    if m = 0 then infF32 n
    else
      -- 1 / (m 2^e) = (2^100 / m) 2^(-100 - e), with a sticky bit
      let q := 2 ^ 100 / m
      let q' := 2 * q + (if 2 ^ 100 % m = 0 then 0 else 1)
      let k := -101 - e
      if finLt fmtF32.maxVal (.fin false q' k) then infF32 n
      else BitVec.ofNat 32 (b2n n * 2 ^ 31 + ulpNear 1 1 x q' k)

/-- FP32 division, rounded to nearest even (R150). -/
def fdiv (x y : W32) : W32 :=
  match f32val x, f32val y with
  | .nan, _ => qnan
  | _, .nan => qnan
  | .inf _, .inf _ => qnan
  | .inf a, .fin b _ _ => infF32 (a != b)
  | .fin a _ _, .inf b => zeroF32 (a != b)
  | .fin a m e, .fin b m' e' =>
    if m' = 0 then (if m = 0 then qnan else infF32 (a != b))
    else if m = 0 then zeroF32 (a != b)
    else
      let n := m * 2 ^ 160
      let q := 2 * (n / m') + (if n % m' = 0 then 0 else 1)
      roundF32 .rne (a != b) q (e - e' - 161)

/-- σ(c) = 1 / (1 + e^(−c)) within two ulp (R148): beyond ±110 the exact value lies between 0 and the least subnormal, or between
1 and the code below it. -/
def sigmoidF32 (c : W32) : W32 :=
  match f32val c with
  | .nan => qnan
  | .inf true => 0
  | .inf false => 0x3F800000
  | .fin neg m e =>
    let far := finLt (.fin false 110 0) (.fin false m e)
    let (m, e) : Nat × Int :=
      if far then (if neg then (1, -400) else (2 ^ 400 - 1, -400))
      else
        -- 1 / (1 + p 2^k) with the denominator in units of 2^-k or of 1
        let (p, k) := expFin (!neg) m e
        let d := if k < 0 then 2 ^ (-k).toNat + p else 1 + p * 2 ^ k.toNat
        let up : Nat := if k < 0 then (-k).toNat else 0
        (2 ^ (up + 400) / d, -400)
    BitVec.ofNat 32 (ulpNear 3 2 c m e)

/-- Integer square root by bits, from bit `n` down. -/
def isqrt : Nat → Nat → Nat → Nat
  | 0, _, r => r
  | n + 1, x, r => if (r + 2 ^ n) * (r + 2 ^ n) ≤ x then isqrt n x (r + 2 ^ n) else isqrt n x r

/-- RSQ (R71, R102). -/
def rsqF32 (x : W32) : W32 :=
  match f32val x with
  | .nan => qnan
  | .inf true => qnan
  | .inf false => 0
  | .fin n m e =>
    if m = 0 then infF32 n
    else if n then qnan
    else
      -- 1 / sqrt (m 2^e): make the exponent even, then sqrt (2^200 / m') 2^(-100 - e'/2)
      let odd := e % 2 ≠ 0
      let m' := if odd then 2 * m else m
      let e' := if odd then e - 1 else e
      let q := 2 ^ 200 / m'
      let r := isqrt 101 q 0
      let sticky := if 2 ^ 200 % m' = 0 ∧ r * r = q then 0 else 1
      BitVec.ofNat 32 (ulpNear 2 1 x (2 * r + sticky) (-101 - e' / 2))

/-! ## The generator of stochastic rounding (R111) -/

/-- The generator's state after a seed is written. -/
def srSeedState (w : W32) : W64 := w ++ (w ^^^ 0x9E3779B9)

/-- One step of the generator. -/
def srStep (s : W64) : W64 :=
  let s := s ^^^ (s <<< 13)
  let s := s ^^^ (s >>> 7)
  s ^^^ (s <<< 17)

/-- The 16-bit draw that a stepped state shows. -/
def srDraw (s : W64) : Nat := (s >>> 48).toNat

end Sys2Proof.Machine
end

