-- ==== Sys2Proof/Machine/Keccak.lean ====
section
/-!
DEFINITION. SHAKE256 (FIPS 202), by which the module takes billet digests (R386), chunk roots (R254, R256) and
measurements (R416). The round constants and rotation offsets are computed from their definitions in FIPS 202: no table.
-/
namespace Sys2Proof.Machine

/-- A Keccak state is a flat list of 25 lanes, lane (x, y) at place x + 5 y, each coordinate taken modulo 5. -/
def sponge.at' (a : List W64) (x y : Nat) : W64 := a.getD (x % 5 + 5 * (y % 5)) 0

/-- A state given lane by lane. -/
def sponge.build (f : Nat → Nat → W64) : List W64 :=
  (List.range 5).flatMap fun y => (List.range 5).map fun x => f x y

/-- FIPS 202 section 3.2.1: each lane takes the parities of the column before and of the column after, turned by one bit. -/
def sponge.theta (a : List W64) : List W64 :=
  let parity (x : Nat) : W64 := (List.range 5).foldl (fun p y => p ^^^ sponge.at' a x y) 0
  sponge.build fun x y => sponge.at' a x y ^^^ parity (x + 4) ^^^ (parity (x + 1)).rotateLeft 1

/-- Sections 3.2.2 and 3.2.3 together: along the walk (x, y) to (y, 2 x + 3 y) from (1, 0), the lane at the t-th place turns
by (t + 1) (t + 2) / 2 bits and moves on to the next place. Lane (0, 0) stays as it is. -/
def sponge.walk (a : List W64) : Nat → Nat → Nat → Nat → List W64 → List W64
  | 0, _, _, _, out => out
  | n + 1, t, x, y, out =>
    let y' := (2 * x + 3 * y) % 5
    sponge.walk a n (t + 1) y y' (out.set (y + 5 * y') ((sponge.at' a x y).rotateLeft ((t + 1) * (t + 2) / 2 % 64)))

/-- Section 3.2.4: a lane changes where the next one is clear and the one after it set. -/
def sponge.chi (a : List W64) : List W64 :=
  sponge.build fun x y => sponge.at' a x y ^^^ (sponge.at' a (x + 2) y &&& ~~~ sponge.at' a (x + 1) y)

/-- Section 3.2.5: the seven bits that the register of x^8 + x^6 + x^5 + x^4 + 1 gives a round, bit j at place 2^j - 1; the
register after them stands beside. -/
def sponge.roundBits : Nat → Nat → Nat → W64 → W64 × Nat
  | 0, _, r, w => (w, r)
  | n + 1, j, r, w =>
    sponge.roundBits n (j + 1) (if 2 * r < 256 then 2 * r else 2 * r ^^^ 0x171)
      (if r % 2 = 1 then w ^^^ BitVec.twoPow 64 (2 ^ j - 1) else w)

/-- `n` rounds of Keccak-p from register value `r`. -/
def sponge.rounds : Nat → Nat → List W64 → List W64
  | 0, _, a => a
  | n + 1, r, a =>
    let b := sponge.theta a
    let c := sponge.chi (sponge.walk b 24 0 1 0 b)
    let (k, r') := sponge.roundBits 7 0 r 0
    sponge.rounds n r' (c.modify 0 (· ^^^ k))

/-- The permutation between two blocks: 24 rounds from register value 1. -/
def sponge.permute (a : List W64) : List W64 := sponge.rounds 24 1 a

/-- Take the 136 B blocks of a padded message, `n` of them, into a state. -/
def sponge.take : Nat → List Byte → List W64 → List W64
  | 0, _, a => a
  | n + 1, bs, a =>
    let mixed := sponge.build fun x y =>
      let at8 := 8 * (x + 5 * y)
      sponge.at' a x y ^^^ (if at8 < 136 then BitVec.ofNat 64 (Machine.at' bs at8 8) else 0)
    sponge.take n (bs.drop 136) (sponge.permute mixed)

/-- `n` bytes of SHAKE256, n at most 136: the message closes with the suffix 1111 and a first padding bit (one byte 0x1F), and
the last bit of its last block is the second padding bit. -/
def shake256 (n : Nat) (bs : List Byte) : List Byte :=
  let blocks := bs.length / 136 + 1
  let last := 136 * blocks - 1
  let padded := (bs ++ [0x1F] ++ List.replicate (last - bs.length) 0).modify last (· ||| 0x80)
  let a := sponge.take blocks padded (List.replicate 25 0)
  ((a.take 17).flatMap fun w => leBytes 8 w.toNat).take n

end Sys2Proof.Machine
end

