-- ==== Sys2Proof/Machine/BilletTypes.lean ====
section
/-!
DEFINITION. A billet as the module holds it after reading it: one structure per section (R37), with the fields that the
section's own chapter gives it.
-/
namespace Sys2Proof.Machine

/-- A beat descriptor (R30). -/
structure Beat where
  worst : Nat
  post : Bool
  intake : Bool
  reserve : Bool
  length : Nat
  deriving DecidableEq, Repr

/-- The stroke section (R30, R45). -/
structure StrokeSec where
  period : Nat
  bare : Bool
  intakeCap : Nat
  beats : List Beat
  intakeChannel : Nat
  coreCount : Nat
  intakeCores : List Nat
  deriving DecidableEq, Repr

/-- An image of the core section (R89). -/
structure Image where
  instrCount : Nat
  taskCount : Nat
  routeSet : Nat
  tasks : List W64
  instrs : List W64
  /-- Format list: instruction index, format of A, format of B. -/
  formats : List (Nat × Nat × Nat)
  /-- Initialisation records: SRAM address and bytes. -/
  inits : List (Nat × List Byte)
  /-- Every record of the image lies inside the section. -/
  inside : Bool
  deriving DecidableEq, Repr

/-- An alternate placement entry (R91). -/
structure Alt where
  failed : Nat
  spare : Nat
  detour : Nat
  deriving DecidableEq, Repr

/-- The core section (R88, R89). -/
structure CoreSec where
  imageCount : Nat
  /-- Core map: core ID and image index, in map order. -/
  map : List (Nat × Nat)
  images : List Image
  alts : List Alt
  inside : Bool
  deriving DecidableEq, Repr

/-- A detour set (R130). -/
structure Detour where
  park : Bool
  field : Nat
  /-- Core ID, route index, new route entry. -/
  entries : List (Nat × Nat × W64)
  deriving DecidableEq, Repr

/-- The fabric section (R130). -/
structure FabricSec where
  routeSets : List (List W64)
  detours : List Detour
  fieldDetour : List Nat
  inside : Bool
  deriving DecidableEq, Repr

/-- An arbiter entry (R138). -/
structure ArbEntry where
  field : Nat
  kind : Nat
  inst : Nat
  fixed : Bool
  slots : List Byte
  thresh : Nat
  threshRecs : List (Nat × Nat)
  deriving DecidableEq, Repr

structure ArbSec where
  entries : List ArbEntry
  inside : Bool
  deriving DecidableEq, Repr

/-- A layer descriptor of the herder section (R162). -/
structure Layer where
  layer : Nat
  k : Nat
  e : Nat
  score : Nat
  normalise : Bool
  biasMode : Bool
  autoBias : Bool
  logitFormat : Nat
  stash : Bool
  g : Nat
  t : Nat
  terms : Nat
  routeScale : W32
  capShare : Nat
  overflow : Nat
  nextDepth : Nat
  shared : Nat
  spillCap : Nat
  defer : Bool
  capture : Bool
  subDepth : Nat
  maxDefer : Nat
  tokenChannel : Nat
  expertChannel : Nat
  deferSlots : Nat
  pfMax : Nat
  pfThreshold : Nat
  routeBeat : Nat
  biasStep : W32
  biasLimit : W32
  tableOff : Nat
  succOff : Nat
  stashOff : Nat
  reservedZero : Bool
  deriving DecidableEq, Repr

/-- A flag table entry (R170). -/
structure FlagDef where
  threshold : W32
  atMost : Bool
  enable : Bool
  deriving DecidableEq, Repr

/-- The herder section (R161). -/
structure HerderSec where
  layers : List Layer
  flags : List FlagDef
  flagCount : Nat
  layerCount : Nat
  extMax : Nat
  stagingOff : Nat
  stagingSlots : Nat
  tokenCap : Nat
  tokenOff : Nat
  /-- 48 x 48 waypoints, herder-major; 0xFFFFFFFF none. -/
  waypoints : List Nat
  inside : Bool
  deriving DecidableEq, Repr

/-- A layer entry of the KV section (R189). -/
structure KvLayer where
  layer : Nat
  capture : Bool
  attendBeat : Nat
  mergeBeat : Nat
  deriving DecidableEq, Repr

/-- The KV section (R189). -/
structure KvSec where
  a : Nat
  kvHeads : Nat
  group : Nat
  headDim : Nat
  kFmt : Nat
  vFmt : Nat
  pFmt : Nat
  frames : Nat
  parts : Nat
  placement : Nat
  members : Nat
  member : Nat
  stride : Nat
  scale : W32
  seqTokens : Nat
  walkBeat : Nat
  maxLen : Nat
  itemsCap : Nat
  layers : List KvLayer
  /-- Slice map: the field of each (local head, local page). -/
  slices : List Byte
  /-- Per field: attention, merge and root core lists. -/
  coreLists : List (List Nat × List Nat × List Nat)
  ranks : List Nat
  lenOff : Nat
  workOff : Nat
  inside : Bool
  deriving DecidableEq, Repr

/-- A gradient product list entry (R228). -/
structure GradProduct where
  instr : Nat
  gradIsB : Bool
  image : Nat
  deriving DecidableEq, Repr

/-- The backward section (R228). -/
structure BwdSec where
  arrangement : Nat
  fp16 : Bool
  stochastic : Bool
  segCount : Nat
  slotCount : Nat
  stepOff : Nat
  maskOff : Nat
  slotOff : Nat
  products : List GradProduct
  maskInit : List Byte
  reservedZero : Bool
  inside : Bool
  deriving DecidableEq, Repr

/-- Bytes of one copy of the mask (R222). -/
def BwdSec.maskBytes (b : BwdSec) : Nat := ((b.segCount + 7) / 8 + 63) / 64 * 64

/-- Bytes of the slot table with its release lines (R227). -/
def BwdSec.slotBytes (b : BwdSec) : Nat := if b.slotCount = 0 then 0 else 0x1000 + 64 * b.slotCount

/-- A bucket descriptor (R231). -/
structure Bucket where
  values : Nat
  engine : Nat
  group : Nat
  shardMode : Bool
  bellows : Bool
  port : Nat
  notify : Bool
  channel : Nat
  dest : W64
  notifyCore : Nat
  deriving DecidableEq, Repr

/-- A reduction group (R232): this module's member index and per member the primary and backup ranks. -/
structure RedGroup where
  self : Nat
  members : List (Nat × Nat)
  deriving DecidableEq, Repr

/-- The reduction section (R230). -/
structure RedSec where
  buckets : List Bucket
  groups : List RedGroup
  deadline : Nat
  areaOff : Nat
  cplOff : Nat
  cplEntries : Nat
  bucketCount : Nat
  groupCount : Nat
  inside : Bool
  deriving DecidableEq, Repr

/-- A tensor list entry (R258). -/
structure TensorDef where
  id : Nat
  tier : Nat
  field : Nat
  wafer : Bool
  written : Bool
  pages : Nat
  tileCount : Nat
  tileFirst : Nat
  deriving DecidableEq, Repr

/-- A tile record (R258). -/
structure Tile where
  tensor : Nat
  fmt : Nat
  blkAxis : Bool
  rowStride : Nat
  row0 : Nat
  col0 : Nat
  rows : Nat
  cols : Nat
  destOff : Nat
  sideOff : Nat
  sideStride : Nat
  deriving DecidableEq, Repr

/-- A fill schedule entry (R270). -/
structure FillDef where
  slot : Nat
  layer : Nat
  port : Nat
  deriving DecidableEq, Repr

/-- The weight section (R258). -/
structure WgtSec where
  tensorCount : Nat
  tensors : List TensorDef
  tiles : List Tile
  adapterTensors : Nat
  ctxOff : Nat
  dtOff : Nat
  dtSize : Nat
  trainMask : W64
  bindOff : Nat
  fills : List FillDef
  inside : Bool
  /-- Every reserved bit of the section is 0 (R88, R258). -/
  reservedZero : Bool
  deriving DecidableEq, Repr

/-- Tiles of a listed tensor. -/
def WgtSec.tilesOf (g : WgtSec) (d : TensorDef) : List Tile := (g.tiles.drop d.tileFirst).take d.tileCount

/-- Rows and columns that a tensor's tiles reach: its edges. -/
def tileRows (ts : List Tile) : Nat := ts.foldl (fun n t => max n (t.row0 + t.rows)) 0
def tileCols (ts : List Tile) : Nat := ts.foldl (fun n t => max n (t.col0 + t.cols)) 0

/-- Lines of a tile, positions along a line, and where they start in the tensor (R60). -/
def Tile.lines (t : Tile) : Nat := if t.blkAxis then t.cols else t.rows
def Tile.extent (t : Tile) : Nat := if t.blkAxis then t.rows else t.cols
def Tile.line0 (t : Tile) : Nat := if t.blkAxis then t.col0 else t.row0
def Tile.pos0 (t : Tile) : Nat := if t.blkAxis then t.row0 else t.col0

/-- Tensors of the base, and of an adapter, in list order (R258). -/
def WgtSec.baseDefs (g : WgtSec) : List TensorDef := g.tensors.filter fun d => decide (d.id < g.tensorCount)
def WgtSec.adapterDefs (g : WgtSec) : List TensorDef :=
  g.tensors.filter fun d => decide (g.tensorCount ≤ d.id) && decide (d.id < g.tensorCount + g.adapterTensors)

/-- A plan entry of the tongs section (R292). -/
structure PlanEntry where
  first : Nat
  count : Nat
  tier : Nat
  field : Nat
  wafer : Nat
  fixed : Bool
  cls : Nat
  deriving DecidableEq, Repr

/-- The tongs section (R292). -/
structure TngSec where
  plan : List PlanEntry
  /-- 96 pools, region (f, w) at 2f + w: first frame and frame count. -/
  pools : List (Nat × Nat)
  resOff : Nat
  homeOff : Nat
  homePages : Nat
  inside : Bool
  deriving DecidableEq, Repr

/-- A restore record (R332). -/
structure Restore where
  beat : Nat
  kind : Nat
  target : Nat
  count : Nat
  word1 : W64
  deriving DecidableEq, Repr

/-- The recovery section (R332). -/
structure RecSec where
  imageCount : Nat
  lists : List (List Restore)
  /-- Restore base of each core map entry, in map order. -/
  bases : List Nat
  inside : Bool
  deriving DecidableEq, Repr

/-- A rotation set (R358). -/
structure RotSet where
  members : List Nat
  memberCount : Nat
  phases : Nat
  initial : Nat
  minStrokes : Nat
  idle : List Nat
  deriving DecidableEq, Repr

/-- The thermal section (R358). -/
structure ThmSec where
  sets : List RotSet
  setCount : Nat
  powers : List Nat
  phaseOff : Nat
  inside : Bool
  deriving DecidableEq, Repr

/-- A billet, section by section (R37). -/
structure Billet where
  stroke : StrokeSec
  core : CoreSec
  fabric : FabricSec
  arbiter : Option ArbSec
  herder : Option HerderSec
  kv : Option KvSec
  backward : Option BwdSec
  reduction : Option RedSec
  weight : Option WgtSec
  tongs : TngSec
  recovery : Option RecSec
  thermal : Option ThmSec
  deriving DecidableEq, Repr

/-- A billet the module has admitted: where it lies, its digest, and its activation stroke (R40, R431). -/
structure Loaded where
  addr : Nat
  length : Nat
  activation : Nat
  digest : List Byte
  img : Billet
  deriving DecidableEq, Repr

end Sys2Proof.Machine
end

