-- ==== Sys2Proof/Machine/CoreTypes.lean ====
section
/-!
DEFINITION. What a core, the fabric and an arbiter hold (R53, R78, R118, R131-R141).
-/
namespace Sys2Proof.Machine

/-- A tensor descriptor, 128 bits (R57). -/
abbrev Desc := BitVec 128

/-- A queued MMA with the operands it captured at issue (R62, R64). -/
structure MmaOp where
  a : Desc
  b : Desc
  transA : Bool
  transB : Bool
  acc : Bool
  kc : Nat
  m : Nat
  n : Nat
  ro : Nat
  co : Nat
  tok : Nat
  deriving DecidableEq, Repr

/-- The operations of the accumulator unit (R67). -/
inductive AccKind where
  | clr | drain (stochastic : Bool) | load | tov
  deriving DecidableEq, Repr

/-- An accumulator operation in progress (R67). -/
structure AccOp where
  kind : AccKind
  desc : Desc
  reg : Nat
  m : Nat
  n : Nat
  ro : Nat
  co : Nat
  tok : Nat
  deriving DecidableEq, Repr

/-- A transfer through the vertical port in progress (R84). -/
structure PortOp where
  store : Bool
  desc : Desc
  wafer : Bool
  line : Nat
  /-- Stroke and beat of issue, by which a line error is judged (R326). -/
  stroke : Nat
  beat : Nat
  reread : Bool
  tok : Nat
  deriving DecidableEq, Repr

/-- A receive channel (R78). -/
structure Chan where
  bound : Bool := false
  start : Nat := 0
  len : Nat := 0
  wp : Nat := 0
  count : Nat := 0
  deriving DecidableEq, Repr

/-- A ready task and the cycle of its trigger (R75). -/
structure Ready where
  task : Nat
  cycle : Nat
  deriving DecidableEq, Repr

/-- One core (R53): its architectural state, its queues and what its neighbours and station know of it. -/
structure CoreState where
  sram : NMap Byte := []
  prog : List W64 := []
  tasks : List W64 := []
  formats : List (Nat × Nat × Nat) := []
  sregs : NMap W32 := []
  dregs : NMap Desc := []
  /-- Lane l of vector register v stands at 16 v + l. -/
  vregs : NMap W32 := []
  /-- acc[row][col] stands at 32 row + col. -/
  acc : NMap W32 := []
  /-- The transpose buffer, entry (row, col) at 32 row + col (R68). -/
  transpose : NMap W32 := []
  toks : NMap Nat := []
  ready : List Ready := []
  taskPend : NMap Nat := []
  running : Option Nat := none
  pc : Nat := 0
  chans : NMap Chan := []
  routes : NMap W64 := []
  routesShadow : NMap W64 := []
  srSeed : W32 := 0
  /-- Never zero (R111): before a seed is written it holds what SR_SEED 0 gives. -/
  srState : W64 := 0x9E3779B9
  anvil : List MmaOp := []
  accQ : List AccOp := []
  portQ : List PortOp := []
  /-- Lines that the vertical port has moved for the head of portQ and what follows it, and the cycle of the last (R131). -/
  portMoved : Nat := 0
  portLast : Nat := 0
  /-- Loaded from the core map of the running billet (R89). -/
  mapped : Bool := false
  image : Nat := 0
  /-- Gated by a park, or not mapped (R361, R79). -/
  gated : Bool := false
  /-- Issues nothing: a CRC mismatch, a program error, a halt (R56, R87, R340). -/
  stopped : Bool := false
  /-- Sends an error symbol in place of its next heartbeat (R79). -/
  errSym : Bool := false
  /-- Has failed for good and answers nothing (R330). -/
  dead : Bool := false
  /-- Cycle in which it failed (R322). -/
  diedAt : Nat := 0
  /-- Heartbeats missed in a row from each neighbour, by core ID (R79). -/
  missed : NMap Nat := []
  /-- Last beat (stroke, beat) whose boundary heartbeat was seen from each neighbour is kept by the warden; this is the
  cycle of this core's last heartbeat (R79). -/
  lastBeatSent : Nat := 0
  deriving DecidableEq, Repr

/-- Flits of one message in one input buffer of a router (R125): grid place (core grid on the local plane, block grid on the
express plane), input port (0 N, 1 S, 2 E, 3 W, 4 local or block bus) and phase, which with the class names the virtual
channel (R117). -/
structure FBuf where
  x : Nat
  y : Nat
  port : Nat
  phase : Nat
  flits : Nat
  deriving DecidableEq, Repr

/-- A message of the fabric (R118, R121) with the places of its flits. -/
structure FMsg where
  dest : Nat
  destEndpoint : Bool
  waypoint : Option Nat
  yFirst : Bool
  express : Bool
  channel : Nat
  source : Nat
  sourceEndpoint : Bool
  beat : Nat
  stroke : Nat
  epoch : Nat
  kind : Nat
  payload : List Byte
  /-- Class of its virtual channels: request or response (R117). -/
  response : Bool := false
  /-- The token that counts until its injection (R85); 0 none. -/
  tok : Nat := 0
  /-- Flits that still stand at the source. -/
  waiting : Nat
  /-- Buffers that hold its flits, the head's router first. -/
  bufs : List FBuf := []
  /-- Flits that have left the fabric at the destination. -/
  ejected : Nat := 0
  /-- Cycle from which its head moves on: the latency of the last hop (R114, R115). -/
  ready : Nat := 0
  poisoned : Bool := false
  /-- A router absorbs what is left of it (R120). -/
  absorbed : Bool := false
  arrived : Bool := false
  deriving DecidableEq, Repr

/-- A raised request at an arbiter input (R132, R134): its transfers, those that have moved, the resource cycles of its
current wait and whether this wait is flagged. -/
structure ArbReq where
  count : Nat
  progress : Nat := 0
  waited : Nat := 0
  flagged : Bool := false
  deriving DecidableEq, Repr

/-- A tenure that a decision gave: the input, the time at which its data phase starts, in 1/125 of a core cycle, and the
transfers it has moved. -/
structure Tenure where
  input : Nat
  start : Nat
  moved : Nat := 0
  deriving DecidableEq, Repr

/-- One arbiter (R131-R137, R141). -/
structure Arb where
  fixed : Bool := false
  slots : List Byte := [0xFF]
  shadow : NMap Byte := []
  shadowCount : Byte := 0
  commit : Bool := false
  commitErr : Bool := false
  /-- Tenures granted, the latest first: the latest whose data phase has started holds the resource, one above it waits for
  that holder's last transfer (R132). -/
  tenures : List Tenure := []
  /-- Core cycle in which the holder last moved a transfer, or its data phase began, for the watchdog (R140). -/
  lastMove : Nat := 0
  reqs : NMap ArbReq := []
  /-- Inputs in order of their last grant, most recent first (R133). -/
  lru : List Nat := []
  grants : NMap Nat := []
  wait : NMap Nat := []
  longest : NMap Nat := []
  thresh : NMap Nat := []
  /-- Grants counted for TST_ARB.every_n (R143). -/
  perturbed : Nat := 0
  deriving DecidableEq, Repr

/-- Field states of FLD_STATUS (R27). -/
inductive FldState where
  | off | test | ready | parked | deepParked | faulted
  deriving DecidableEq, Repr

/-- Park states of THM_FIELD (R368). -/
inductive ParkState where
  | on | parking | parked | deepParking | deepParked | unparking
  deriving DecidableEq, Repr

/-- One field: FLD registers (R27, R141) and its power and thermal node (R349-R363). -/
structure Field where
  shortBlocks : Nat := 0
  ringsOk : BitVec 18 := 0
  /-- The routers are under test for an unpark (R363). -/
  ringTest : Bool := false
  gwekuLink : Bool := false
  state : FldState := .off
  selAutoinc : Bool := false
  selSlot : Byte := 0
  selInput : BitVec 7 := 0
  selInst : BitVec 9 := 0
  selKind : BitVec 3 := 0
  starveCount : W32 := 0
  starveInput : BitVec 7 := 0
  starveInst : BitVec 9 := 0
  starveKind : BitVec 3 := 0
  starveFlag : Bool := false
  wdogCount : W32 := 0
  wdogHolder : BitVec 7 := 0
  wdogInst : BitVec 9 := 0
  wdogKind : BitVec 3 := 0
  wdogBit : Bool := false
  wdogLimit : Byte := 0x10
  fabBlock : BitVec 9 := 0
  fabPlane : Bool := false
  fabPort : BitVec 3 := 0
  fabFlag : Bool := false
  fabExpress : BitVec 24 := 0
  fabLocal : BitVec 24 := 0
  /-- Missing warden status words in a row (R341). -/
  statusMissing : Nat := 0
  -- power and thermal
  coreOn : Bool := false
  powerW : Nat := 0
  /-- Node rise d in units of 2^-16 K (R355). -/
  rise : Int := 0
  /-- Forecast in units of 1/16 degree (R355). -/
  forecast : Int := 0
  park : ParkState := .on
  parkedByDriver : Bool := false
  /-- Ballast power, ramp target and whether a ramp is in progress (R349, R350). -/
  ballast : Nat := 0
  target : Nat := 0
  ramping : Bool := false
  /-- Eight sensor readings in 1/16 degree: 0-3 logic, 4-5 memory wafer 0, 6-7 memory wafer 1 (R353). -/
  sensors : List (Int × Bool) := []
  suspects : BitVec 4 := 0
  /-- Hearth asked this field to stay idle and parked (R360). -/
  deepTest : Bool := false
  deriving DecidableEq, Repr

/-- The TST block (R142, R143). -/
structure Tst where
  unlocked : Bool := false
  /-- The first key was the last BAR0 write. -/
  armedKey : Bool := false
  discarded : BitVec 24 := 0
  injections : W32 := 0
  arb : W64 := 0
  bp : W64 := 0
  lat : W64 := 0
  cred : W64 := 0
  /-- TST_INJ without the arm bit. -/
  inj : W64 := 0
  injArm : Bool := false
  /-- Items still to corrupt. -/
  injLeft : Nat := 0
  deriving DecidableEq, Repr

end Sys2Proof.Machine
end

