-- ==== Sys2Proof/Machine/UnitTypes.lean ====
section
/-!
DEFINITION. What the herders, the attention and key-value engine, the reduction engines, the weight contexts and the tongs
hold (R144-R293).
-/
namespace Sys2Proof.Machine

/-! ## Herders -/

/-- A scored token at a layer: the ranked list with keys, the gates of the chosen slots, the margins (R149-R151). -/
structure Scored where
  ranked : List (Nat × W32)
  gates : List W32
  margin12 : W16
  marginK : W16
  nanLogit : Bool
  deriving DecidableEq, Repr

/-- The slot outcomes (R155). -/
inductive SlotOut where
  | routed | substituted | nextChoice | spilled | dropped | empty
  deriving DecidableEq, Repr

/-- A settled slot (R155). -/
structure Slot where
  chosen : Nat
  used : Nat
  out : SlotOut
  key : W32
  gate : W32
  deriving DecidableEq, Repr

/-- A routing entry of a trail record (R174). -/
structure RouteEntry where
  layer : Nat
  deferred : Bool
  inputLate : Bool
  nanLogit : Bool
  margin12 : W16
  marginK : W16
  defers : Nat
  slots : List Slot
  /-- The draw of the free values of its slots without an expert. -/
  draw : Nat
  /-- The layer has trail capture: the entry goes into the record's extension (R162). -/
  captured : Bool := true
  deriving DecidableEq, Repr

/-- A token's entry in the token table (R144), with the stroke whose table held it: a deferred token keeps it, and two tokens
of one index are told apart by it. -/
structure TokenEntry where
  token : Nat
  eventId : W64
  arrival : W64
  sequence : Nat
  herder : Nat
  context : Nat
  position : Nat
  home : Nat
  adapter : Nat
  origin : Nat := 0
  deriving DecidableEq, Repr

/-- A token of the deferral pool (R154). -/
structure Pooled where
  layer : Nat
  stroke : Nat
  entry : TokenEntry
  scored : Scored
  defers : Nat
  deriving DecidableEq, Repr

/-- What the herder keeps of a token until its trail record is written or until the post beat in which it had no crossing
(R172): `slot` is the staging slot it has taken, none while it has settled no captured layer; `routing` are the entries of all
its layers, ascending; `emitted` is the beat that writes its record, until that beat commits. -/
structure Staging where
  entry : TokenEntry
  slot : Option Nat := none
  routing : List RouteEntry := []
  arrivalStroke : Nat := 0
  deferStrokes : Nat := 0
  complete : Bool := false
  emitted : Option (Nat × Nat) := none
  deriving DecidableEq, Repr

/-- A sort job in a herder's queue (R177). -/
structure SortJob where
  source : Nat
  src : Nat
  dst : Nat
  scratch : Nat
  count : Nat
  signed : Bool
  descending : Bool
  channel : Nat
  tag : W64
  deriving DecidableEq, Repr

/-- A dispatch list entry (R157). -/
structure Dispatch where
  token : Nat
  home : Nat
  remote : Bool
  gate : W32
  deriving DecidableEq, Repr

/-- One herder (R144-R180). Keys of the maps: `Hw.tokKey` of a layer and a token, and
`le layer expert = layer * 2^14 + expert`. -/
structure Herder where
  -- registers
  state : BitVec 2 := 0
  lastLayer : Byte := 0
  sorting : Bool := false
  sortAbort : Bool := false
  biasCommitErr : Bool := false
  biasCommit : Bool := false
  biasLayer : Byte := 0
  tokens : W64 := 0
  subst : W64 := 0
  deferCnt : W64 := 0
  nextCnt : W64 := 0
  spillCnt : W64 := 0
  dropCnt : W64 := 0
  trailCnt : W64 := 0
  pfCnt : W64 := 0
  errCount : W32 := 0
  errLayer : Byte := 0
  errToken : BitVec 17 := 0
  errCode : BitVec 4 := 0
  errFlag : Bool := false
  sortJobs : BitVec 30 := 0
  sortDone : BitVec 29 := 0
  sortPass : BitVec 5 := 0
  recId : BitVec 58 := 0
  -- routing state
  /-- Logits taken: per (layer, token) a map from expert to FP32. -/
  logits : NMap (NMap W32) := []
  scored : List (Nat × Scored) := []
  /-- Tokens whose logits came late at a layer (R147). -/
  late : List Nat := []
  settled : List Nat := []
  /-- Slots routed per (layer, expert) in the stroke (R153). -/
  counts : NMap Nat := []
  /-- Places of the shared expert taken by spills, per layer. -/
  spills : NMap Nat := []
  /-- Next position per (layer, expert) (R157). -/
  positions : NMap Nat := []
  pool : List Pooled := []
  /-- Tokens that were deferred into this stroke, as re-entering (layer, token). -/
  reenter : List Pooled := []
  dispatch : NMap (List Dispatch) := []
  /-- Used experts of settled slots at the open layer, for prediction (R166). -/
  usedExperts : NMap (List Nat) := []
  demand : NMap (List Nat) := []
  closed : List Nat := []
  /-- Deferred tokens that have re-entered in this stroke and go on through later layers. -/
  guests : List Pooled := []
  staging : List Staging := []
  /-- Flag values held, key token * 16 + flag (R170). -/
  flagVals : NMap (Option W32) := []
  /-- The flags of this stroke have been evaluated (R171). -/
  evaluated : Bool := false
  /-- The two layer buffers: layer number and expert table as loaded, the newer first (R163). -/
  bufs : List (Nat × List Nat) := []
  /-- Biases, by layer, that this stroke's closes have replaced: what a load of the layer reads in this stroke (R164, R167). -/
  replaced : NMap (List Nat) := []
  /-- Remap list (failed core, spare) (R168). -/
  remap : List (Nat × Nat) := []
  sortQ : List SortJob := []
  /-- Trail records written in an uncommitted beat: stroke, beat, bytes (R175). -/
  trailOut : List (Nat × Nat × List Byte) := []
  deriving DecidableEq, Repr

/-! ## Attention and key-value cache -/

/-- The sequence operations of KVP_OP (R182, R209). -/
inductive KvOpKind where
  | open' | edit | commit | abandon | preempt | resume | close | prio
  deriving DecidableEq, Repr

/-- A queued sequence operation (R182). -/
structure KvOp where
  seq : Nat
  kind : KvOpKind
  value : Byte
  stroke : Nat
  deriving DecidableEq, Repr

/-- A commit in preparation or prepared (R187). -/
structure KvPend where
  seq : Nat
  prepared : Bool
  /-- Pool indices that the commit brings in and removes. -/
  added : List Nat
  removed : List Nat
  /-- Indices or frames did not cover it: it is tried again at every boundary. -/
  short : Bool := false
  deriving DecidableEq, Repr

/-- A number of partials that a merge or root core should expect for a token and a head, at a level of the merge (R193, R196). -/
structure Expect where
  core : Nat
  token : Nat
  head : Nat
  level : Nat
  count : Nat
  deriving DecidableEq, Repr

/-- A copy-on-write substitution (R188, R204). -/
structure KvCow where
  seq : Nat
  entryIx : Nat
  oldPage : Nat
  newPage : Nat
  copied : Bool
  deriving DecidableEq, Repr

/-- A lookup or insert in progress (R202, R203). -/
structure PfxOp where
  insert : Bool
  seq : Nat
  count : Nat
  matched : Nat
  full : Bool
  deriving DecidableEq, Repr

/-- The KVP block and the walkers' state (R181-R209). -/
structure Kv where
  autoPreempt : Bool := false
  protect : Byte := 0
  highWater : BitVec 20 := 0
  lowWater : BitVec 20 := 0
  seqBase : W64 := 0
  poolBase : W64 := 0
  poolSize : W32 := 0
  meta' : W64 := 0
  opLost : W32 := 0
  pfxSeq : W16 := 0
  pfxCount : BitVec 17 := 0
  pfxOpCode : BitVec 2 := 0
  pfxIds : W64 := 0
  resMatched : BitVec 17 := 0
  resStatus : BitVec 3 := 0
  resDone : Bool := false
  pfxB : BitVec 5 := 0x0A
  pfxEnable : Bool := false
  pfxBase : W64 := 0
  pfxGroup : W64 := 0
  salt : W64 := 0
  deferCnt : W64 := 0
  nopageCnt : W64 := 0
  cowCnt : W64 := 0
  preemptCnt : W64 := 0
  pfxFull : W64 := 0
  opQueue : List KvOp := []
  /-- Sequences whose OPEN fills its page tables. -/
  opening : List Nat := []
  commits : List KvPend := []
  cows : List KvCow := []
  /-- Sequences not FREE. -/
  live : List Nat := []
  /-- PREEMPT operations that wait on outstanding. -/
  preemptWait : List Nat := []
  /-- Pages pinned by the walkers for the stroke (R192). -/
  pins : List Nat := []
  pfxBusy : Option PfxOp := none
  /-- Length table entries that the walk of the stroke admitted: sequence, first token, count, base length (R191). -/
  walked : List (Nat × Nat × Nat × Nat) := []
  /-- Partials to be expected (R193). -/
  expect : List Expect := []
  /-- Length table entries whose tokens the walk of the stroke deferred: sequence, first token, count, base length (R191, R199). -/
  absent : List (Nat × Nat × Nat × Nat) := []
  /-- Partials received in the stroke: token, layer slot, member, head; an ABSENT one has no head (R199). -/
  partials : List (Nat × Nat × Nat × Option Nat) := []
  /-- Tokens that the walk or the merge returned to the intake in this stroke. -/
  returned : List Nat := []
  /-- Tokens of FREE or CLOSING sequences in this stroke: event identifier and arrival (R183). -/
  closedToks : List (Nat × W64 × W64) := []
  /-- The free list of pool indices, the next to be given first; every index from `fresh` on stands behind it (R185). -/
  freeList : List Nat := []
  fresh : Nat := 0
  /-- Indices whose count has fallen to 0: they join the list once their frames are free, at the next boundary (R185). -/
  freeing : List Nat := []
  /-- Fields that the last reclaim left below low_water (R205). -/
  shortFields : List Nat := []
  /-- Pages of a pre-emption that a full tongs queue has not taken yet: queue and pages (R206). -/
  swaps : List (Nat × List Nat) := []
  /-- Frames retired until the next self-test, as tier 1 locations (R338). -/
  retired : List W64 := []
  /-- The KV section last activated: the geometry that live sequences keep (R189). -/
  sec : Option KvSec := none
  deriving DecidableEq, Repr

/-! ## Backward pass and reduction -/

/-- Step entry states (R213). -/
inductive StepSt where
  | free | open' | closing | closed
  deriving DecidableEq, Repr

/-- A step entry (R214). -/
structure StepEnt where
  step : Nat := 0
  exp : Byte := 0
  state : StepSt := .free
  /-- Strokes whose boundary opened the step and moved it to CLOSING, by which a token's step is found (R215). -/
  opened : Nat := 0
  shutAt : Option Nat := none
  skip : Bool := false
  stashLost : Bool := false
  nonfinite : W32 := 0
  lost : W32 := 0
  deriving DecidableEq, Repr

/-- The backward registers and the two step entries (R213-R229). -/
structure Bwd where
  clean : W16 := 0
  interval : W16 := 0x07D0
  dynamic : Bool := false
  maxExp : Byte := 0x18
  minExp : Byte := 0xF0
  exp : Byte := 0
  lost : Byte := 0
  closeErr : Bool := false
  openErr : Bool := false
  newest : W32 := 0
  none : Bool := true
  resStep : W32 := 0
  resNonfinite : W32 := 0
  flLost : W32 := 0
  flExp : Byte := 0
  flSkip : Bool := false
  masked : W64 := 0
  mismatch : W64 := 0
  stashLost : W64 := 0
  /-- Queued operations: true OPEN, false CLOSE, with the stroke named. -/
  queue : List (Bool × Nat) := []
  e0 : StepEnt := {}
  e1 : StepEnt := {}
  nextStep : Nat := 0
  deriving DecidableEq, Repr

/-- A value entered in a beat that has not committed (R237). -/
structure Entered where
  stroke : Nat
  beat : Nat
  pos : Nat
  nonfinite : Bool
  masked : Bool
  deriving DecidableEq, Repr

/-- A bucket instance (R235-R245). -/
structure Inst where
  bucket : Nat
  step : Nat
  seq : Nat
  /-- Buffer of the engine's area; none for an instance that FAILED when it should open (R233, R244). -/
  buf : Option Nat
  /-- Local values by position; listed positions are marked. -/
  vals : NMap (Option W32) := []
  uncommitted : List Entered := []
  full : Option Nat := none
  /-- Primary and backup copies as they arrive: member to values by offset. -/
  prim : NMap (NMap (Option W32)) := []
  back : NMap (NMap (Option W32)) := []
  /-- Slots filled: member to the chosen shard values. -/
  slots : NMap (Option (List W32)) := []
  pastDeadline : Bool := false
  late : Bool := false
  backups : Nat := 0
  sum : Option (List W32) := none
  /-- Result values by position in the bucket. -/
  res : NMap (Option W32) := []
  /-- The result has been sent to its destination. -/
  delivered : Bool := false
  complete : Bool := false
  /-- 0 OK, 2 FAILED, 3 ABORTED; late makes OK read BUCKET_LATE (R246). -/
  status : Nat := 0
  doneStroke : Nat := 0
  abort : Bool := false
  streamErrs : Nat := 0
  resendAt : Option Nat := Option.none
  deriving DecidableEq, Repr

/-- A reduction engine (R230-R249). -/
structure Engine where
  nextPost : W64 := 0
  cplHead : W32 := 0
  cplTail : W32 := 0
  doneCnt : W64 := 0
  lateCnt : W64 := 0
  backupCnt : W64 := 0
  dropCnt : W64 := 0
  failCnt : W64 := 0
  errCount : W32 := 0
  errBucket : W16 := 0
  errCode : BitVec 4 := 0
  errFlag : Bool := false
  insts : List Inst := []
  deriving DecidableEq, Repr

/-! ## Weights -/

/-- Slot states of a context (R266). -/
inductive SlotSt where
  | free | preparing | prepared | current | draining
  deriving DecidableEq, Repr

/-- The image of one tensor: its pages run from `first` (R261). -/
structure Img where
  tensor : Nat
  first : Nat
  count : Nat
  deriving DecidableEq, Repr

/-- An adapter in a slot: number, package_id, root, source address, images, and the pages of its own descriptor table
(R260, R264). -/
structure AdapterRef where
  number : Nat
  packageId : List Byte
  root : List Byte
  source : Nat
  images : List Img
  table : Img
  deriving DecidableEq, Repr

/-- A slot of a context (R263, R266). -/
structure CtxSlot where
  epoch : W64 := 0
  refs : Nat := 0
  state : SlotSt := .free
  /-- Package identity, root and source of the base or stream session, none when absent. -/
  packageId : List Byte := []
  root : List Byte := []
  source : Nat := 0
  stream : Bool := false
  /-- Images of the base, which other slots may share (R265). -/
  images : List Img := []
  adapters : List AdapterRef := []
  /-- Leaf list, tensor table and body length of a stream session (R318). -/
  leaves : List (List Byte) := []
  table : List Byte := []
  bodyLen : Nat := 0
  deriving DecidableEq, Repr

/-- A context (R263, R267). -/
structure Ctx where
  slots : NMap CtxSlot := []
  current : Option Nat := none
  pendingSlot : Nat := 0
  commitStroke : Nat := 0
  commitPending : Bool := false
  nextEpoch : Nat := 1
  deriving DecidableEq, Repr

/-- Weight slot states (R227). -/
inductive WslotSt where
  | empty | filling | usable | failed
  deriving DecidableEq, Repr

/-- A weight slot under STREAMED (R227, R270, R271). -/
structure Wslot where
  layer : Nat := 0
  state : WslotSt := .empty
  fillSeq : Byte := 0
  epoch : W64 := 0
  /-- Place in the fill schedule from which this slot's next fill is sought. -/
  pos : Nat := 0
  /-- Context and context slot whose session fills it, while a fill runs. -/
  session : Option (Nat × Nat) := none
  /-- Pieces received of chunks not yet whole: chunk, then piece to bytes. -/
  pieces : NMap (NMap (Option (List Byte))) := []
  /-- Chunks verified in this fill. -/
  verified : NMap (Option (List Byte)) := []
  filled : Bool := false
  failures : Nat := 0
  /-- A STREAM_ERR has come for the fill (R318). -/
  err : Bool := false
  /-- Images of the layer that it holds, and the context slot whose table they are entered in. -/
  images : List Img := []
  entered : Option (Nat × Nat) := none
  /-- A fill has been requested at the last boundary (R270). -/
  asked : Bool := false
  deriving DecidableEq, Repr

/-- A load in progress (R260). -/
structure WLoad where
  context : Nat
  op : Nat
  adapter : Nat
  source : Nat
  slot : Nat
  deriving DecidableEq, Repr

/-- A streamed session in progress (R318): stream bytes received by offset. -/
structure Session where
  context : Nat
  id : Nat
  bytes : NMap Byte
  slot : Nat
  deriving DecidableEq, Repr

/-- Contexts, weight slots, bindings and sessions (R250-R272). -/
structure Wgt where
  ctxs : NMap Ctx := []
  wslots : NMap Wslot := []
  /-- Binding of each bound sequence: (context, slot) (R268). -/
  bindSeq : NMap (Option (Nat × Nat)) := []
  /-- Bindings of the step entries 0 and 1: (context, slot), one per training context (R268). -/
  bindStep : NMap (List (Nat × Nat)) := []
  sessions : List Session := []
  /-- The weight section last activated or loaded under: its geometry holds while slots live (R266). -/
  sec : Option WgtSec := none
  deriving DecidableEq, Repr

/-! ## Tongs -/

/-- Page states (R278). -/
inductive PageSt where
  | unmapped | home | moving | lost
  deriving DecidableEq, Repr

/-- A home table entry (R276). -/
structure Home where
  state : PageSt := .unmapped
  tier : Nat := 0
  fixed : Bool := false
  destTier : Nat := 0
  cls : Nat := 0
  pinned : Bool := false
  lent : Bool := false
  borrower : W16 := 0
  location : W64 := 0
  deriving DecidableEq, Repr

/-- What an order does to its page (R281). -/
inductive OrdKind where
  | move | evict (retire : Bool) | clone (src : Nat) | place
  deriving DecidableEq, Repr

/-- Phases of an order (R279, R283, R284, R286): waiting for room, copying in a round with the pieces written meanwhile,
copied clean, held for a boundary, or accepted and waiting for its expert's residency change to be written. -/
inductive OrdPhase where
  | wait | copying (round : Nat) (dirty : List Nat) | clean (round : Nat) | held | accepted
  deriving DecidableEq, Repr

/-- One page's order in a tongs queue (R281). `req` groups the pages of one request, which is one order of the queue;
`expert` names the expert of a PREFETCH. -/
structure Order where
  queue : Nat
  req : Nat
  input : Nat
  page : Nat
  kind : OrdKind
  destTier : Nat
  destField : Nat
  destWafer : Nat
  location : W64
  phase : OrdPhase
  expert : Option (Nat × Nat)
  /-- Pieces of the round of the copy that are still to be copied, the next first (R279). -/
  todo : List Nat := []
  deriving DecidableEq, Repr

/-- A driver request whose pages are still open (R284, R293): id, tag, pages left, first status other than OK. -/
structure DrvReq where
  id : Nat
  tag : W16
  /-- Page and status of each page that has ended with a status other than OK. -/
  bad : List (Nat × Nat)
  left : List Nat
  deriving DecidableEq, Repr

/-- The tongs (R273-R293). -/
structure Tng where
  homes : NMap Home := []
  /-- Orders of all queues, in order of arrival. -/
  orders : List Order := []
  /-- The tongs section last activated: frame pools, home table and residency map. -/
  sec : Option TngSec := none
  /-- Residency changes decided and not yet written: queue, layer, expert, usable (R283). -/
  changes : List (Nat × Nat × Nat × Bool) := []
  dropped : W32 := 0
  lost : Bool := false
  hostBase : W64 := 0
  hostPages : W32 := 0
  nbrSel : BitVec 4 := 0
  nbr : NMap W64 := []
  pin : W64 := 0
  req0 : W64 := 0
  reqTag : W16 := 0
  reqStatus : BitVec 4 := 0
  reqDone : Bool := false
  moveCnt : W64 := 0
  pinnedCnt : W64 := 0
  abandonCnt : W64 := 0
  lostCnt : W64 := 0
  shortCnt : W64 := 0
  reqs : List DrvReq := []
  nextReq : Nat := 0
  /-- Releases that take effect at the next boundary: page and request. -/
  releases : List (Nat × Nat) := []
  merges : Nat := 0
  /-- Pages of the plan that were MOVING at activation and are still to come under it (R40). -/
  planDue : List Nat := []
  deriving DecidableEq, Repr

end Sys2Proof.Machine
end

