-- ==== Sys2Proof/Machine/LinkTypes.lean ====
section
/-!
DEFINITION. What the ports, the span engines, the fault path, the host attachment, the flash and the hearth hold
(R294-R424).
-/
namespace Sys2Proof.Machine

/-! ## Ports -/

/-- Port states (R296), in the order of their codes. -/
inductive PortSt where
  | disabled | training | negotiating | up | retraining | retiring | down | failed
  deriving DecidableEq, Repr

/-- A Leash message as it is sent or held (R301). -/
structure LMsg where
  kind : Nat
  destRank : W16
  srcRank : W16
  ttl : Nat
  gen : Byte
  vc : Nat
  /-- Word 1 below gen: destination and source with their kinds. -/
  word1 : Nat := 0
  /-- Bits [1:0] of the source's stroke number. -/
  stroke : Nat := 0
  /-- Words 2-3 as one number (R302). -/
  specific : Nat
  payload : List Byte
  deriving DecidableEq, Repr

/-- A DATA frame in the replay buffer (R299). -/
structure TxFrame where
  seq : Nat
  vc : Nat
  som : Bool
  eom : Bool
  payload : List Byte
  deriving DecidableEq, Repr

/-- One port (R294-R300, R320, R333). -/
structure Port where
  enable : Bool := false
  retire : Bool := false
  syncMember : Bool := false
  state : PortSt := .disabled
  partnerRetiring : Bool := false
  partnerRole : BitVec 2 := 0
  version : Byte := 0
  node : W16 := 0
  rank : W16 := 0
  partnerPort : BitVec 6 := 0
  partnerSerial : W64 := 0
  delayNs : W32 := 0
  fecCorrected : BitVec 40 := 0
  fecUncorrectable : BitVec 24 := 0
  errCrc : W32 := 0
  errReplays : W32 := 0
  retrains : W32 := 0
  downs : W16 := 0
  -- sender
  txNext : BitVec 12 := 0
  replay : List TxFrame := []
  resends : Nat := 0
  /-- How many of the newest replay frames are still to be sent again (R299, R300). -/
  again : Nat := 0
  txCredit : NMap Nat := []
  outQ : List LMsg := []
  /-- Messages that have yet to come through the egress arbiter (R131, R303): input, transfers left, message. -/
  egress : List (Nat × Nat × LMsg) := []
  /-- Messages bound for this port that wait for their beat to commit (R333): stroke, beat, message. -/
  held : List (Nat × Nat × LMsg) := []
  -- receiver
  rxNext : BitVec 12 := 0
  nakOut : Bool := false
  sinceAck : Nat := 0
  lastAckSent : BitVec 12 := 0
  /-- Credits owed to the partner per channel. -/
  creditsDue : NMap Nat := []
  /-- Payload of the message being assembled per channel. -/
  assembly : NMap (List Byte) := []
  /-- Whole messages taken and not yet delivered (vc, bytes). -/
  inbox : List (Nat × List Byte) := []
  /-- Inbound messages delivered in an uncommitted beat, kept for a replay (R333). -/
  kept : List (Nat × Nat × FMsg) := []
  /-- IDLE, NAK, SYNC and HELLO frames sent, as bytes, latest first (R298). -/
  ctrlOut : List (List Byte) := []
  forwarded : Bool := false
  deriving DecidableEq, Repr

/-! ## Span engines -/

/-- A span request of a core, from issue to completion (R310-R317). -/
structure SpanReq where
  core : Nat
  /-- Issue number of the core's engine, which orders requests. -/
  order : Nat
  tok : Nat
  cmdAddr : Nat
  op : Nat
  flag : Bool
  address : Nat
  localAddr : Nat
  size : Nat
  operand : W64
  compare : W64
  data : List Byte
  stroke : Nat
  beat : Nat
  /-- Taken up by the engine: its beat has committed (R311). -/
  taken : Bool := false
  left : Bool := false
  tag : Nat := 0
  firstIssue : W64 := 0
  epoch : Nat := 0
  gen : Byte := 0
  port : Nat := 0
  /-- The rank that it was sent to: its address's, or the lender's of its page (R291). -/
  via : W16 := 0
  reissued : Bool := false
  deriving DecidableEq, Repr

/-- A fence in progress (R317): requests it still covers by order number, worst status so far. -/
structure Fence where
  core : Nat
  order : Nat
  tok : Nat
  cmdAddr : Nat
  covers : List Nat
  worst : Nat
  deriving DecidableEq, Repr

/-- A sweep awaited (R316). -/
structure Sweep where
  rank : Nat
  epoch : Nat
  deriving DecidableEq, Repr

/-- One span engine (R309-R317). -/
structure SpanEng where
  reqs : List SpanReq := []
  fences : List Fence := []
  sweeps : List Sweep := []
  nextOrder : Nat := 0
  tagCtr : W32 := 0
  deriving DecidableEq, Repr

/-- A journal entry (R314). -/
structure JEntry where
  src : W16
  engine : Nat
  tag : W32
  result : W64
  arrival : W64
  deriving DecidableEq, Repr

/-- A rank and forwarding table generation: the 384 KiB as bytes (R304). -/
abbrev Tables := NMap Byte

/-- The SPN block (R304-R321). -/
structure Spn where
  rank : W16 := 0xFFFF
  timeout : BitVec 11 := 0x014
  tblBase : W64 := 0
  tblStroke : BitVec 36 := 0
  commit : Bool := false
  loading : Bool := false
  loaded : Bool := false
  epoch : W32 := 0
  gen : Byte := 0
  tables : Bool := false
  journalBase : W64 := 0
  young : W32 := 0
  deadCnt : W64 := 0
  unknownCnt : W64 := 0
  reissueCnt : W64 := 0
  dropCnt : W64 := 0
  skewCnt : W64 := 0
  active : Tables := []
  previous : Tables := []
  shadowCopy : Tables := []
  engines : NMap SpanEng := []
  journal : List JEntry := []
  /-- Entries ever made, whose count modulo the journal's size gives an entry's place. -/
  jCount : Nat := 0
  /-- Arrival of the last evicted entry; none before the first eviction. -/
  horizon : Option W64 := none
  /-- A port went DOWN and its destinations fail over: the epoch steps at the next beat boundary (R316). -/
  failover : Bool := false
  /-- Pages of tier 3 whose lender has answered TARGET_DEAD (R288). -/
  deadLoans : List Nat := []
  deriving DecidableEq, Repr

/-! ## Faults -/

/-- Outcomes of a fault record (R342). -/
inductive Outc where
  | recovered | reported | inProgress | uncontained
  deriving DecidableEq, Repr

/-- A fault record (R342). -/
structure FaultRec where
  marks : Nat
  serial : Nat
  time : W64
  stroke : Nat
  beat : Nat
  cls : Nat
  outcome : Outc
  location : W32
  address : W64
  routeEpoch : W64
  recoveryNs : Nat
  detail : Nat
  starts : Nat
  related : Option Nat
  data : List Byte
  deriving DecidableEq, Repr

/-- A remap that a recovery carries out (R330): the core that died, the core whose work is taken over, the spare and the
detour set. -/
structure Remap where
  dead : Nat
  original : Nat
  spare : Nat
  detour : Nat
  deriving DecidableEq, Repr

/-- A recovery in progress (R327-R334): the beat to be replayed, whether it is still held, the records that its end
closes, and the remaps it needs. -/
structure Recovery where
  stroke : Nat
  beat : Nat
  /-- Cycle of the failure, from which the interruption is counted (R322). -/
  failedAt : Nat
  /-- The replay has not started: every core is stopped and the next boundary is held (R327). -/
  hold : Bool
  records : List FaultRec
  remaps : List Remap
  /-- A refetch is awaited before the replay: its page (R337). -/
  page : Option Nat
  deriving DecidableEq, Repr

/-- Boundary actions (R23): what the Gweku waits for. -/
inductive BAct where
  | remap (r : Remap) | park (f : Nat) | deepPark (f : Nat) | unpark (f : Nat)
  deriving DecidableEq, Repr

/-- A boundary action in progress (R23, R25). -/
structure BAction where
  act : BAct
  wardens : List Nat
  rails : List Nat
  awaits : List Nat
  started : Bool
  byDriver : Bool
  /-- Gweku cycle of its request (R25). -/
  asked : Nat := 0
  deriving DecidableEq, Repr

/-- The FLT block, rings and the recovery control (R322-R346). -/
structure Flt where
  uncontained : Bool := false
  gwekuRestarted : Bool := false
  ringBase : W64 := 0
  head : W32 := 0
  valid : W32 := 0
  tail : W32 := 0
  flashed : W32 := 0
  trailPage : BitVec 31 := 0
  tHead : W64 := 0
  tValid : W64 := 0
  tTail : W64 := 0
  tFlashed : W64 := 0
  telBase : W64 := 0
  telSize : BitVec 5 := 0
  telEnable : Bool := false
  telHead : W32 := 0
  telTail : BitVec 26 := 0
  telDrop : NMap Nat := []
  replayCnt : W64 := 0
  remapCnt : W64 := 0
  lastOutcome : BitVec 2 := 0
  lastClass : Byte := 0
  lastNs : W32 := 0
  nextSerial : Nat := 0
  /-- High and full condition of the fault path and of the trail path. -/
  highFault : Bool := false
  highTrail : Bool := false
  fullFault : Bool := false
  fullTrail : Bool := false
  /-- Records held in the Gweku after the log is full (R343). -/
  heldRecs : List FaultRec := []
  recovery : Option Recovery := none
  /-- Starts of the current beat, 1-4 (R328). -/
  starts : Nat := 1
  /-- Starts of the beat that has ended and not committed. -/
  prevStarts : Nat := 1
  /-- Detections within the attempts at a beat, each with the stroke and the beat first (R328): cores by error symbol,
  watchdog holders by arbiter, router ports by place. -/
  seenSym : List (Nat × Nat × Nat) := []
  seenHolder : List (Nat × Nat × Nat × Nat) := []
  seenPort : List (Nat × Nat × Nat) := []
  /-- Dead cores waiting to enter the defect map (R332). -/
  pending : List Nat := []
  declared : List Nat := []
  /-- Remaps in force: original core, spare (R330). -/
  remaps : List (Nat × Nat) := []
  /-- Detour sets in force and armed (R127, R128). -/
  detoursOn : List Nat := []
  detoursArmed : List Nat := []
  withdrawArmed : List Nat := []
  actions : List BAction := []
  /-- Drops since the last summary per priority, with first and last times (R345). -/
  dropsNow : NMap Nat := []
  dropFirst : W64 := 0
  dropLast : W64 := 0
  summaryAt : W64 := 0
  /-- Recovery interruptions of the current work stroke, in cycles (R34). -/
  interrupt : Nat := 0
  /-- Issue stopped by an uncontained fault (R340). -/
  stopAll : Bool := false
  /-- Bonded memory lines that failed in a start of a beat: stroke, beat, line of the module; a line that stands twice
  returns its data as read (R221, R326). -/
  badLines : List (Nat × Nat × Nat) := []
  /-- Pages being refetched, with the serials of their PAGE_LOST records (R337, R342). -/
  refetch : List (Nat × Nat) := []
  deriving DecidableEq, Repr

/-! ## Flash -/

/-- A firmware image in the boot area (R405). -/
structure FwImage where
  bytes : List Byte := []
  deriving DecidableEq, Repr

/-- What flash holds and power loss does not take (R289, R405, R406, R409, R343). -/
structure Flash where
  imageA : FwImage := {}
  imageB : FwImage := {}
  minSvn : Nat := 0
  /-- The factory part and the owner part of the configuration (R406). -/
  factory : List Byte := []
  owner : List Byte := []
  ownerKeyDigest : List Byte := []
  /-- Failed and spare masks per block, absent as shipped (R17, R409). -/
  failed : NMap W64 := []
  spare : NMap W64 := []
  mapSerial : W64 := 0
  mapSig : List Byte := []
  mapTime : W64 := 0
  shedMarker : Nat := 0
  /-- Fault log: position and the 128 B of the record. -/
  faultLog : List (Nat × List Byte) := []
  /-- Trail log: stream offset and record bytes. -/
  trailLog : List (Nat × List Byte) := []
  /-- Ends of the logs, as recovered at bring-up (R410). -/
  faultFlashed : W32 := 0
  trailFlashed : W64 := 0
  /-- Times the media key of each context was replaced: home area, trail region, system area. -/
  keysHome : Nat := 0
  keysTrail : Nat := 0
  keysSystem : Nat := 0
  deriving DecidableEq, Repr

/-! ## Host attachment -/

/-- Mailbox states (R383). -/
inductive MbxSt where
  | offline | idle | running | busy
  deriving DecidableEq, Repr

/-- A long operation in progress (R385, R412). -/
inductive LongOp where
  | loadWeights (w : WLoad)
  | selfTest (left : List Nat) (level1 : Bool)
  | scrub (scope : Nat)
  | attest (nonce : List Byte) (addr len : Nat)
  | fwUpdate (image : Option (List Byte)) (owner : Bool) (activate : Bool)
  deriving DecidableEq, Repr

/-- The MBX block (R381-R387). -/
structure Mbx where
  state : MbxSt := .offline
  done : Bool := false
  version : Byte := 0
  opcode : W16 := 0
  lastRefused : Byte := 0
  refused : W16 := 0
  progDone : W32 := 0
  progTotal : W32 := 0
  winErr : Bool := false
  winStatus : BitVec 3 := 0
  winBase : BitVec 28 := 0xFFFF000
  cmdBuf : NMap Byte := []
  rspBuf : List Byte := []
  long : Option LongOp := none
  tag : W32 := 0
  /-- A Gweku restart has ended a command that is still to be answered NOT_READY (R385). -/
  interrupted : Bool := false
  deriving DecidableEq, Repr

/-- A message sent to the host through MSI-X (R376). -/
structure MsixMsg where
  addr : W64
  data : W32
  deriving DecidableEq, Repr

/-- Power states of the function (R370). -/
inductive PowerSt where
  | d0 | d3hot
  deriving DecidableEq, Repr

/-- Extended and ordinary capabilities that the function lists (R370). -/
inductive PciCap where
  | pciExpress | powerManagement | msix | aer | deviceSerial | dataLink | phy16 | phy32 | phy64 | laneMargining
  deriving DecidableEq, Repr

/-- What configuration space shows of the function and holds for it (R369-R371): identity, capabilities, the sizes of BAR0, BAR2
and BAR4, the payload and request sizes in bytes, and the power state. The vendor ID, which PCI-SIG assigns, is Config.vendorId.
Sizes stand at reset as the bus's own specification has them (PRESUMED, log 215). -/
structure Pci where
  deviceId : W16 := 0x5748
  classCode : BitVec 24 := 0x120000
  revision : Byte := 0x21
  caps : List PciCap := [.pciExpress, .powerManagement, .msix, .aer, .deviceSerial, .dataLink, .phy16, .phy32, .phy64, .laneMargining]
  barSizes : List Nat := [2 ^ 24, 2 ^ 20, 2 ^ 36]
  maxPayload : Nat := 128
  maxReadRequest : Nat := 512
  power : PowerSt := .d0
  deriving DecidableEq, Repr

/-- The EVT block and MSI-X (R374, R376-R380). -/
structure Evt where
  flags : BitVec 44 := 0
  mask : BitVec 44 := 0
  ringQp : W16 := 0
  ringCause : BitVec 5 := 0
  cnt : NMap Nat := []
  vec : NMap (BitVec 11) := []
  busMaster : Bool := false
  /-- MSI-X table, four DWORDs per entry; absent reads as the reset value (R376). -/
  table : NMap W32 := []
  pba : NMap Bool := []
  sent : List MsixMsg := []
  deriving DecidableEq, Repr

/-- A completion entry (R394). -/
structure Cpl where
  sqIndex : W32
  status : Nat
  marks : Nat
  stroke : Nat
  result : W64
  trailSerial : W32
  trailHerder : Nat
  deriving DecidableEq, Repr

/-- Queue pair q (R388-R397). -/
structure Qp where
  sqBase : W64 := 0
  cqBase : W64 := 0
  enable : Bool := false
  irq : Bool := false
  sqLog : BitVec 5 := 0
  cqLog : BitVec 5 := 0
  vector : BitVec 11 := 0
  aliveInit : W16 := 0
  sqHead : W32 := 0
  sqTail : W32 := 0
  cqTail : W32 := 0
  cqHead : W32 := 0
  errRepeat : Bool := false
  errGap : Bool := false
  errCrc : Bool := false
  errKind : Bool := false
  errDoorbell : Bool := false
  gapSize : W16 := 0
  errCount : BitVec 21 := 0
  inCnt : W64 := 0
  outCnt : W64 := 0
  expected : W16 := 0
  /-- Arrival stamp and stroke of entries covered by a doorbell and not yet taken, and the intakes that they have missed:
  (index, time, stroke, defers). -/
  stamps : List (Nat × W64 × Nat × Nat) := []
  waiting : List Cpl := []
  /-- QPC_ERR.cpl_full: a completion found its ring full, and some still wait (R396). -/
  cplFull : Bool := false
  /-- Stroke in which the vector was last sent (R397). -/
  irqStroke : Option Nat := none
  deriving DecidableEq, Repr

/-- Where an event came from (R45). -/
structure Ev where
  arrival : W64
  arrivalStroke : Nat
  qp : Option Nat
  rank : W16
  sqIndex : W32
  gap : Bool
  defers : Nat
  deferred : Bool
  entry : List Byte
  /-- Order of arrival among events of one stamp. -/
  ord : Nat
  /-- Stroke whose intake took it last. -/
  took : Nat := 0
  /-- Its queue pair was disabled since: the completion that it is owed is discarded (R388). -/
  muted : Bool := false
  deriving DecidableEq, Repr

/-- The event unit (R45, R46). -/
structure EvUnit where
  /-- Events of earlier strokes waiting for an intake, in order. -/
  deferred : List Ev := []
  /-- Events that arrived and were checked, waiting for the intake of the following stroke. -/
  fresh : List Ev := []
  /-- Events taken and owed (R46). -/
  owed : List Ev := []
  /-- Events taken in this stroke: stroke event index to event. -/
  taken : List Ev := []
  /-- The stroke whose intake has been carried out. -/
  takenFor : Option Nat := none
  /-- Result records, trail notices and deferral notices of the strokes not yet completed, each with the stroke and beat in which
  it came. -/
  results : List ((Nat × Nat) × Nat × W32 × W64) := []
  trails : List ((Nat × Nat) × W64 × W64 × Nat × Nat) := []
  deferrals : List ((Nat × Nat) × W64 × W64) := []
  /-- Tokens that a walk or a merge returned to the intake: stroke, event identifier, arrival (R191, R199). -/
  back : List (Nat × W64 × W64) := []
  /-- A late stroke whose post beat has committed: its completions wait for the end of its work (R43). -/
  postDue : Option Nat := none
  nextOrd : Nat := 0
  deriving DecidableEq, Repr

/-- A write waiting in a touchmark unit (R400). -/
inductive TmkIn where
  | byte (b : Byte)
  | cfg (v : W64)
  | value (v : W64)
  deriving DecidableEq, Repr

/-- A touchmark unit (R399-R402). -/
structure Tmk where
  alg : BitVec 2 := 0
  init : Bool := false
  value : W64 := 0
  rdEarly : Bool := false
  count : W32 := 0
  queue : List TmkIn := []
  deriving DecidableEq, Repr

/-- A message up the controller tree (R418, R421). -/
inductive TreeMsg where
  | health (ready : W64) (state : Nat) (step : Nat) (uncontained : Bool) (serial : Nat)
  | rampNotice (start : W64) (deltaW : Int) (durationMs : Nat)
  | treeReport (tree : W16) (rank : W16)
  deriving DecidableEq, Repr

/-- What a tree member knows of a child (R421). -/
structure Child where
  rank : W16
  sent : Nat
  acked : Nat
  lost : Bool
  deriving DecidableEq, Repr

/-- The GLB block (R8, R417-R424). -/
structure Glb where
  time : Bool := false
  defectMap : Bool := false
  /-- The map has changed in the update that is under way (R409). -/
  mapOpen : Bool := false
  logs : Bool := false
  flash : Bool := false
  gweku : Bool := false
  field : BitVec 48 := 0
  svn : W16 := 0
  ownerSet : Bool := false
  retained : Bool := false
  mapSource : Bool := false
  fallback : Bool := false
  image : BitVec 2 := 0
  paceRate : BitVec 24 := 0
  paceBurst : W16 := 0x0040
  paceEnable : Bool := false
  /-- Level of the token bucket in units of 1/2400 B, which starts full (R419). -/
  paceLevel : Nat := 64 * 2 ^ 20 * 2400
  treeBase : W64 := 0
  discarded : W16 := 0
  eid : Byte := 0
  up : List TreeMsg := []
  /-- Children of each tree entry and the contiguous bytes received. -/
  children : NMap (List Child) := []
  received : NMap Nat := []
  /-- The firmware restarts, and the cycle at which that began (R341). -/
  restarting : Bool := false
  restartAt : Nat := 0
  /-- An image that PLDM has delivered and that is being written (R415). -/
  pldm : Option (List Byte) := none
  deriving DecidableEq, Repr

/-! ## Strokes -/

/-- Stroke states (R41). -/
inductive StkState where
  | idle | armed | running | late | halted | shed
  deriving DecidableEq, Repr

/-- The STK block and the stroke generator (R28-R52). -/
structure Stk where
  syncTol : Byte := 0x19
  lateLimit : BitVec 7 := 0x10
  syncMode : BitVec 2 := 0
  syncLink : BitVec 6 := 0
  bare : Bool := false
  period : BitVec 18 := 0x04E2
  stretchNext : BitVec 6 := 0x10
  stretchCur : BitVec 6 := 0x10
  lateDepth : Nat := 0
  syncOk : Bool := true
  state : StkState := .idle
  num : W64 := 0
  origin : W64 := 0
  time : W64 := 0
  /-- Fraction of a nanosecond, in twelfths: a core cycle is 5/12 ns. -/
  frac : Nat := 0
  /-- Error still to be slewed out, in ns (R47). -/
  slew : Int := 0
  /-- Cycles since the last slew step of one ns. -/
  slewPhase : Nat := 0
  tsOffset : W32 := 0
  holdover : Bool := false
  locked : Bool := false
  todValid : Bool := false
  ppsPresent : Bool := false
  lateCnt : W64 := 0
  overrunCnt : W64 := 0
  deferCnt : W64 := 0
  admStatus : Byte := 0
  admField : BitVec 6 := 0
  admBeat : BitVec 12 := 0
  admReason : W16 := 0
  postDiscarded : W32 := 0
  postNoResult : W32 := 0
  /-- The stroke whose work is being done and the beat of it in progress, none when the stroke's work has ended. -/
  workStroke : Nat := 0
  beat : Nat := 0
  working : Bool := false
  beatStart : Nat := 0
  /-- The beat that has ended and not yet committed (R324). -/
  uncommitted : Option (Nat × Nat) := none
  /-- Cycle of each boundary B(n) still needed. -/
  bounds : NMap Nat := []
  /-- Carried recovery delay, in cycles (R34). -/
  carried : Nat := 0
  /-- The largest excess of measured over declared cycles in the stroke: beat, measured, declared (R39). -/
  excess : Option (Nat × Nat × Nat) := none
  /-- Cycles of reserve used in the work stroke. -/
  reserveUsed : Nat := 0
  /-- Halt at the next boundary: for late_limit, or for an uncontained fault. -/
  haltNext : Bool := false
  haltUncontained : Bool := false
  /-- The loaded billet has been halted and starts no further beat (R34, R340). -/
  workHalted : Bool := false
  retireAt : Option Nat := none
  /-- Largest s that SYNC frames of the group named, by the stroke that the frames began (R51, R308). -/
  groupS : NMap Nat := []
  /-- Last stroke whose work has ended (R33). -/
  ended : Nat := 0
  /-- A beat of the work stroke is in progress, reserve beats included. -/
  inBeat : Bool := false
  /-- What the end of the work stroke does to herders and walkers is still to be done. -/
  endDue : Bool := false
  /-- Strokes already counted late, or whose BARE overrun is recorded (R34). -/
  lateDone : List Nat := []
  overDone : List Nat := []
  /-- The billet was retired at a boundary and its last beat has not committed (R324). -/
  closing : Bool := false
  /-- Carried delay, last stroke ended and stroke late, before the last work end, while its beat may still be replayed. -/
  savedCarry : Nat := 0
  /-- Interruptions that the last work end added to it. -/
  savedInterrupt : Nat := 0
  /-- Last SYNC frame on the followed link: stroke, boundary, s; and the period it shows for the sync group in units
  (R38, R308). -/
  lastSync : Option (Nat × Int × Nat) := none
  groupPeriod : Option Nat := none
  /-- Last stroke whose end herders and sequences have seen. -/
  endRun : Nat := 0
  /-- The beat tasks of the beat in progress have been triggered (R74). -/
  triggered : Bool := false
  /-- STK_TIME at the boundary that began the current stroke. -/
  boundTime : W64 := 0
  deriving DecidableEq, Repr

/-! ## Hearth -/

/-- PWR and THM (R347-R368). -/
structure Pwr where
  memOn : BitVec 24 := 0
  rampExceeded : Bool := false
  shed : Nat := 0
  volts : W16 := 0
  amps : W16 := 0
  power : W16 := 0
  rampCount : W32 := 0
  /-- Fields whose ramps wait, in order (R349). -/
  rampQ : List (Nat × Nat) := []
  deepEnable : Bool := true
  park : BitVec 7 := 0x5C
  stretch : BitVec 7 := 0x59
  rotate : BitVec 7 := 0x55
  policy : BitVec 2 := 0
  policyNext : BitVec 2 := 0
  /-- Steps in force, latest first (R356). -/
  steps : List Nat := []
  hottest : BitVec 6 := 0
  forecast : Int := 0
  inlet : W16 := 0
  outlet : W16 := 0
  flow : W16 := 0
  valid : Bool := false
  flowHist : List Nat := []
  selField : BitVec 6 := 0
  selSensor : BitVec 3 := 0
  prkDone : Bool := false
  prkStatus : BitVec 2 := 0
  prkStroke : BitVec 36 := 0
  prkOp : BitVec 2 := 0
  prkField : BitVec 6 := 0
  rCond : W16 := 0x3E80
  rConv : W16 := 0x5DC0
  cF : W16 := 0x00FA
  qNom : W16 := 0x02D0
  suspectFlag : Bool := false
  phasesCnt : W32 := 0
  parksCnt : W16 := 0
  haltsCnt : Byte := 0
  shedsCnt : Byte := 0
  /-- The module's own s (R357). -/
  ownS : Nat := 16
  /-- Phase, stroke and cycle of the last step of each rotation set (R359). -/
  phases : NMap (Nat × Nat × Nat) := []
  recordsSecured : Bool := false
  flowReturned : Bool := false
  /-- The loss of the tray's telemetry has been reported and no reading has come since (R354). -/
  coolantLost : Bool := false
  /-- Declared power that runs on each field, in W: what its ballast stands in for when work stops (R350). -/
  working : NMap Nat := []
  deriving DecidableEq, Repr

end Sys2Proof.Machine
end

