-- ==== Sys2Proof/Machine/State.lean ====
section
/-!
DEFINITION. The state of the module: every register, table, queue and mode that the manual gives it, the memories
behind its span and host addresses, and the queue of commands that wait. State.reset is the module after power-good.
-/
namespace Sys2Proof.Machine

/-- Why a step stops with a fault. The module's own faults are records and halts, which are next states; the model has
no stop of this kind, so nothing raises `unreachable` (safe: no step answers it). -/
inductive Fault where
  /-- Raised by no meaning; it stands so that the type has a name to print (safe). -/
  | unreachable
  deriving DecidableEq, Repr

/-- Why a step is refused. -/
inductive Refusal where
  /-- Raised by an arm of exec whose command has no meaning yet (safe: nothing is proved of it). -/
  | notModelled (mnemonic : String)
  deriving DecidableEq, Repr

/-- What a beat boundary records: cores and herders as they stood, and the route epoch in force (R80, R129, R167). -/
structure Snap where
  stroke : Nat
  beat : Nat
  epoch : W64
  cores : NMap CoreState
  herders : NMap Herder
  deriving DecidableEq, Repr

/-- The module beside its touchmark units. Unit states are sparse maps by unit number; an absent unit is in its reset
state. -/
structure Hw where
  glb : Glb := {}
  mbx : Mbx := {}
  stk : Stk := {}
  pci : Pci := {}
  evt : Evt := {}
  evu : EvUnit := {}
  armed : Option Loaded := none
  running : Option Loaded := none
  /-- The billet whose activation stroke has come while the last beat of the one before it has not committed (R40). -/
  incoming : Option Loaded := none
  cores : NMap CoreState := []
  /-- Snapshots of the beats that have not committed, latest first (R80, R167). -/
  snaps : List Snap := []
  fabric : List FMsg := []
  routeEpoch : W64 := 0
  arbs : NMap Arb := []
  flds : NMap Field := []
  tst : Tst := {}
  herders : NMap Herder := []
  kv : Kv := {}
  bwd : Bwd := {}
  engines : NMap Engine := []
  wgt : Wgt := {}
  tng : Tng := {}
  ports : NMap Port := []
  spn : Spn := {}
  flt : Flt := {}
  flash : Flash := {}
  pwr : Pwr := {}
  qps : NMap Qp := []
  /-- Bytes behind span offsets of this module: the direct window and the migrating range (R274). -/
  mem : NMap Byte := []
  /-- Host memory by IOVA. -/
  hostMem : NMap Byte := []
  /-- Data of the last read that the module answered to the host (BAR4, result windows, slot accesses). -/
  readData : List Byte := []
  /-- Free values drawn so far: the model's own field; each draw names values that no other draw names. -/
  draws : Nat := 0
  /-- Core cycles since power-good: the model's clock. -/
  now : Nat := 0
  deriving DecidableEq, Repr

/-- The state. The touchmark units stand apart, since no other unit reads or writes them (R398-R402). -/
structure State where
  hw : Hw := {}
  tmks : NMap Tmk := []
  /-- Commands that wait, first in first out. -/
  pending : List Instr := []
  deriving DecidableEq, Repr

/-- The module right after reset: every field at the value the manual or the assumption log names. -/
def State.reset : State := {}

end Sys2Proof.Machine
end

