-- ==== Sys2Proof/Machine/Ops.lean ====
section
/-!
DEFINITION. The named operations that the commands share: access to units, memory, events and interrupts, fault records.
-/
namespace Sys2Proof.Machine

/-! ## Access by the driver (R142, R403) -/

/-- The function is in D0: in D3hot it takes no memory request and sends none (R370; what the bus's specification requires there
is PRESUMED, log 215). -/
def Hw.inD0 (s : Hw) : Bool := decide (s.pci.power = .d0)

/-- BAR0 and BAR2 take accesses once the firmware has come to run; a restart of the Gweku does not take them back. -/
def Hw.barOpen (s : Hw) : Bool := (s.glb.gweku || s.glb.restarting) && s.inD0

/-- The function may send requests of its own (R370, R374). -/
def Hw.mayMaster (s : Hw) : Bool := s.evt.busMaster && s.inD0

/-- A BAR0 write: discarded until the firmware runs (R403), and between the two keys of TST_UNLOCK it breaks the sequence
(R142). -/
def Hw.bar0 (s : Hw) (k : Hw → Hw) : Hw :=
  if s.barOpen then k { s with tst := { s.tst with armedKey := false } } else s

/-- A BAR2 write: discarded until the firmware runs (R403). -/
def Hw.bar2 (s : Hw) (k : Hw → Hw) : Hw := if s.barOpen then k s else s

/-! ## Units -/

def Hw.core (s : Hw) (c : Nat) : CoreState := nget {} s.cores c
def Hw.setCore (s : Hw) (c : Nat) (x : CoreState) : Hw := { s with cores := nput {} s.cores c x }
def Hw.fld (s : Hw) (f : Nat) : Field := nget {} s.flds f
def Hw.setFld (s : Hw) (f : Nat) (x : Field) : Hw := { s with flds := nput {} s.flds f x }
def Hw.herder (s : Hw) (h : Nat) : Herder := nget {} s.herders h
def Hw.setHerder (s : Hw) (h : Nat) (x : Herder) : Hw := { s with herders := nput {} s.herders h x }
def Hw.engine (s : Hw) (e : Nat) : Engine := nget {} s.engines e
def Hw.setEngine (s : Hw) (e : Nat) (x : Engine) : Hw := { s with engines := nput {} s.engines e x }
def Hw.port (s : Hw) (p : Nat) : Port := nget {} s.ports p
def Hw.setPort (s : Hw) (p : Nat) (x : Port) : Hw := { s with ports := nput {} s.ports p x }
def Hw.qp (s : Hw) (q : Nat) : Qp := nget {} s.qps q
def Hw.setQp (s : Hw) (q : Nat) (x : Qp) : Hw := { s with qps := nput {} s.qps q x }
def Hw.spanEng (s : Hw) (e : Nat) : SpanEng := nget {} s.spn.engines e
def Hw.setSpanEng (s : Hw) (e : Nat) (x : SpanEng) : Hw :=
  { s with spn := { s.spn with engines := nput {} s.spn.engines e x } }
def Hw.home (s : Hw) (p : Nat) : Home := nget {} s.tng.homes p

/-- Change one core, one field, one herder, one port. -/
def Hw.onCore (s : Hw) (c : Nat) (f : CoreState → CoreState) : Hw := s.setCore c (f (s.core c))
def Hw.onFld (s : Hw) (n : Nat) (f : Field → Field) : Hw := s.setFld n (f (s.fld n))
def Hw.onHerder (s : Hw) (h : Nat) (f : Herder → Herder) : Hw := s.setHerder h (f (s.herder h))
def Hw.onPort (s : Hw) (p : Nat) (f : Port → Port) : Hw := s.setPort p (f (s.port p))
def Hw.onEngine (s : Hw) (e : Nat) (f : Engine → Engine) : Hw := s.setEngine e (f (s.engine e))
def Hw.onQp (s : Hw) (q : Nat) (f : Qp → Qp) : Hw := s.setQp q (f (s.qp q))

/-! ## Core IDs (R15, R17) -/

def coreField (c : Nat) : Nat := bits c 20 15
def coreBlock (c : Nat) : Nat := bits c 14 6
def coreIndex (c : Nat) : Nat := bits c 5 0
def mkCore (f b k : Nat) : Nat := f * 2 ^ 15 + b * 2 ^ 6 + k

/-- A core ID that names a core: field below 48, block below 396 (R15). -/
def coreOk (c : Nat) : Bool := decide (c < 2 ^ 21) && decide (coreField c < 48) && decide (coreBlock c < 396)

/-- The key of a core's block: field * 512 + block. -/
def blockKey (c : Nat) : Nat := coreField c * 512 + coreBlock c

/-- The two spare cores of a block as shipped, 62 and 63 (R17). -/
def spareShipped : W64 := 0xC000000000000000

/-- Marked failed in the defect map. -/
def Hw.isFailed (s : Hw) (c : Nat) : Bool := (nget 0 s.flash.failed (blockKey c)).getLsbD (coreIndex c)
/-- Marked spare in the defect map. -/
def Hw.isSpare (s : Hw) (c : Nat) : Bool := (nget spareShipped s.flash.spare (blockKey c)).getLsbD (coreIndex c)
/-- In the pending list of dead cores (R332). -/
def Hw.isPendingDead (s : Hw) (c : Nat) : Bool := s.flt.pending.contains c
/-- Active (R17): working and not a spare; a core of the pending list does not count as active (R330). -/
def Hw.isActive (s : Hw) (c : Nat) : Bool :=
  coreOk c && !s.isFailed c && !s.isSpare c && !s.isPendingDead c

/-- The fields a running or armed billet names by its core map. -/
def Billet.fields (b : Billet) : List Nat := (b.core.map.map fun e => coreField e.1).eraseDups

/-! ## Stroke state -/

def StkState.code : StkState → Nat
  | .idle => 0 | .armed => 1 | .running => 2 | .late => 3 | .halted => 4 | .shed => 5

/-- A billet runs: RUNNING or LATE. -/
def Hw.runs (s : Hw) : Bool := decide (s.stk.state = .running) || decide (s.stk.state = .late)

/-- A billet's work is under way: it runs, or the beat in progress at a halt or a retirement runs to its end (R34,
R324). -/
def Hw.live (s : Hw) : Bool := s.runs || s.stk.inBeat

/-- The stroke state is IDLE. -/
def Hw.idle (s : Hw) : Bool := decide (s.stk.state = .idle)

/-! ## Memory -/

/-- Read and write bytes behind span offsets. -/
def Hw.memRead (s : Hw) (off n : Nat) : List Byte := ngetList 0 s.mem off n
def Hw.memWrite (s : Hw) (off : Nat) (bs : List Byte) : Hw := { s with mem := nputList 0 s.mem off bs }
def Hw.memNat (s : Hw) (off n : Nat) : Nat := leNat (s.memRead off n)

/-- Read and write bytes of host memory. -/
def Hw.hostRead (s : Hw) (a n : Nat) : List Byte := ngetList 0 s.hostMem a n
def Hw.hostWrite (s : Hw) (a : Nat) (bs : List Byte) : Hw := { s with hostMem := nputList 0 s.hostMem a bs }

/-- Memory is in its canonical form: rising addresses, no entry equal to what an unlisted address reads as. -/
def Memory.wf (m : NMap Byte) : Bool := nwf 0 m

/-- Bytes of a region (R274). -/
def regionBytes : Nat := 0x800000000

/-- Span offset of a bonded memory offset in a field, wafer 0 unless said otherwise (R274). -/
def bonded (f w off : Nat) : Nat := (2 * f + w) * regionBytes + off

/-- Start of the migrating range and bytes of a page (R274). -/
def migBase : Nat := 0x800000000000
def pageBytes : Nat := 0x10000
def pageOff (p : Nat) : Nat := migBase + p * pageBytes
def pageOf (off : Nat) : Nat := (off - migBase) / pageBytes

/-- The memory regions of a field are unreachable: it is deep-parked, or is being so (R362). -/
def Hw.deepOff (s : Hw) (f : Nat) : Bool :=
  decide ((s.fld f).state = .deepParked) || decide ((s.fld f).park = .deepParking)

/-- Write a structure that every one of the 48 fields keeps a copy of (R164, R214); a deep-parked field is skipped until
it unparks (R362). -/
def Hw.memWriteAll (s : Hw) (off : Nat) (bs : List Byte) : Hw :=
  (List.range 48).foldl (fun s f => if s.deepOff f then s else s.memWrite (bonded f 0 off) bs) s

/-- Forget `n` bytes from an offset: they read as unwritten memory again. -/
def memClear (m : NMap Byte) (off n : Nat) : NMap Byte :=
  m.filter fun e => decide (e.1 < off) || decide (off + n ≤ e.1)
def Hw.memErase (s : Hw) (off n : Nat) : Hw := { s with mem := memClear s.mem off n }

/-- Copy `n` bytes within the span memory. -/
def Hw.memCopy (s : Hw) (src dst n : Nat) : Hw :=
  let es := s.mem.filter fun e => decide (src ≤ e.1) && decide (e.1 < src + n)
  { s with mem := es.foldl (fun m e => nput 0 m (e.1 - src + dst) e.2) (memClear s.mem dst n) }

/-! ## Interrupts and event flags (R374, R376-R380) -/

/-- DWORD `i` of MSI-X table entry `v`: address low and high, data, vector control, which resets to masked. -/
def Hw.msixDword (s : Hw) (v i : Nat) : W32 := nget (if i = 3 then 1 else 0) s.evt.table (4 * v + i)

/-- Send an interrupt message, or hold it in the pending bit array while it cannot go (R374, R376). -/
def Hw.fireVector (s : Hw) (v : Nat) : Hw :=
  if s.mayMaster && !(s.msixDword v 3).getLsbD 0 then
    { s with evt := { s.evt with
        sent := s.evt.sent ++ [{ addr := s.msixDword v 1 ++ s.msixDword v 0, data := s.msixDword v 2 }] } }
  else { s with evt := { s.evt with pba := nput false s.evt.pba v true } }

/-- Send every held vector that may now go (R374, R376). -/
def Hw.firePending (s : Hw) : Hw :=
  s.evt.pba.foldl (fun s e =>
    if s.mayMaster && !(s.msixDword e.1 3).getLsbD 0 then
      { s with evt := { s.evt with pba := nput false s.evt.pba e.1 false } }.fireVector e.1
    else s) s

/-- Set an event flag: its counter adds one at every set, its vector is sent when the flag goes from 0 to 1 and its mask
bit is 1 (R378, R379). -/
def Hw.raise (s : Hw) (n : Nat) : Hw :=
  let was := s.evt.flags.getLsbD n
  let s := { s with evt := { s.evt with
    flags := s.evt.flags ||| BitVec.ofNat 44 (2 ^ n)
    cnt := nput 0 s.evt.cnt n ((nget 0 s.evt.cnt n + 1) % 2 ^ 64) } }
  if !was && s.evt.mask.getLsbD n then s.fireVector (nget 0 s.evt.vec n).toNat else s

/-! ## Fault records (R342, R343) -/

/-- The location word (R342). -/
def locCore (c : Nat) : W32 := BitVec.ofNat 32 c
def locBlock (f b : Nat) : W32 := BitVec.ofNat 32 (2 ^ 29 + f * 512 + b)
def locField (f : Nat) : W32 := BitVec.ofNat 32 (2 * 2 ^ 29 + f)
def locPort (p : Nat) : W32 := BitVec.ofNat 32 (3 * 2 ^ 29 + p)
def locArb (kind field inst input : Nat) : W32 :=
  BitVec.ofNat 32 (4 * 2 ^ 29 + input * 2 ^ 18 + inst * 2 ^ 9 + field * 2 ^ 3 + kind)
def locEndpoint (e : Nat) : W32 := BitVec.ofNat 32 (5 * 2 ^ 29 + e)
def locModule : W32 := BitVec.ofNat 32 (6 * 2 ^ 29)

/-- Class-specific data: the values that the class names, in order, 8 B each (DESIGN CHOICE, log 6). -/
def dat (vs : List Nat) : List Byte := vs.flatMap (leBytes 8)

/-- What a unit hands to the fault path. -/
structure RecIn where
  cls : Nat
  outcome : Outc := .reported
  loc : W32 := locModule
  /-- Stroke of detection: STK_NUM unless the record names another. -/
  stroke : Option Nat := none
  beat : Nat := 0
  address : Nat := 0
  detail : Nat := 0
  data : List Byte := []
  ns : Nat := 0
  related : Option Nat := none

def Outc.code : Outc → Nat
  | .recovered => 0 | .reported => 1 | .inProgress => 2 | .uncontained => 3

/-- The 128 B of a record with its CRC (R342). -/
def FaultRec.bytes (r : FaultRec) : List Byte :=
  let head := leBytes 4 128 ++ leBytes 2 1 ++ leBytes 2 r.marks ++ leBytes 8 r.serial ++ leBytes 8 r.time.toNat
    ++ leBytes 8 r.stroke ++ leBytes 2 r.beat ++ leBytes 1 r.cls ++ leBytes 1 r.outcome.code
    ++ leBytes 4 r.location.toNat ++ leBytes 8 r.address.toNat ++ leBytes 8 r.routeEpoch.toNat
    ++ leBytes 4 r.recoveryNs ++ leBytes 2 r.detail ++ leBytes 2 r.starts
    ++ leBytes 8 (r.related.getD (2 ^ 64 - 1)) ++ padTo 48 r.data ++ leBytes 4 0
  head ++ leBytes 4 (crc32c (head ++ leBytes 4 0))

/-- Ring and log sizes, in records for the fault path and in bytes for the trail path (R343). -/
def faultRing : Nat := 2 ^ 19
def faultLogSize : Nat := 2 ^ 23
def trailRing : Nat := 2 ^ 36
def trailLogSize : Nat := 2 ^ 41

/-- A recovery holds its beat: no core issues and the next boundary waits (R327). -/
def Flt.held (x : Flt) : Bool := x.recovery.any (·.hold)

/-- Records past the driver's tail on each path. -/
def Flt.faultFill (x : Flt) : Nat := (x.head - x.tail).toNat
def Flt.trailFill (x : Flt) : Nat := (x.tHead - x.tTail).toNat

/-- Judge the high condition of both paths: LOG_HIGH is raised each time a path's condition starts to hold (R343). -/
def Hw.judgeHigh (s : Hw) : Hw :=
  let hf := decide (s.flt.faultFill > faultLogSize / 2)
  let ht := decide (s.flt.trailFill > trailLogSize / 2)
  let s1 := if hf && !s.flt.highFault then s.raise 33 else s
  let s2 := if ht && !s1.flt.highTrail then s1.raise 33 else s1
  { s2 with flt := { s2.flt with highFault := hf, highTrail := ht } }

/-- Write a record to the fault ring where valid equals head and room is left; otherwise it is spilled to the log
(R343). -/
def Hw.commitRecord (s : Hw) (r : FaultRec) : Hw :=
  let x := s.flt
  let far := max (x.head - x.tail).toNat (x.head - x.flashed).toNat
  if decide (x.valid = x.head) && decide (far + 1 ≤ faultRing) then
    { s.memWrite (x.ringBase.toNat + (x.head.toNat % faultRing) * 128) r.bytes with
      flt := { x with head := x.head + 1, valid := x.valid + 1 } }
  else
    { s with flt := { x with head := x.head + 1, flashed := if x.flashed = x.head then x.head + 1 else x.flashed }
             flash := { s.flash with faultLog := (x.head.toNat % faultLogSize, r.bytes) ::
               s.flash.faultLog.filter fun e => decide (e.1 ≠ x.head.toNat % faultLogSize) } }

/-- Hold a record in the Gweku once the log is full: up to 4,096, beyond that it adds to the starts of a held record
(R343). -/
def holdRecord (held : List FaultRec) (r : FaultRec) : List FaultRec :=
  if held.length < 4096 then held ++ [r]
  else
    let i := match held.findIdx? fun h => decide (h.cls = r.cls) && decide (h.location = r.location) with
      | some i => i
      | none => (held.findIdx? fun h => decide (h.cls = r.cls)).getD 0
    held.modify i fun h => { h with starts := satAdd 16 h.starts 1, marks := h.marks ||| 8 }

/-- Form a fault record; its serial and marks are set when it is written (R342). -/
def Hw.formRecord (s : Hw) (i : RecIn) : FaultRec :=
  { marks := 0, serial := 0, time := s.stk.time, stroke := i.stroke.getD s.stk.num.toNat, beat := i.beat
    cls := i.cls, outcome := i.outcome, location := i.loc, address := BitVec.ofNat 64 i.address
    routeEpoch := s.routeEpoch, recoveryNs := i.ns, detail := i.detail, starts := s.flt.starts
    related := i.related, data := i.data }

/-- Write a formed record: it takes the next serial and is committed, spilled or held (R342, R343). It carries the TEST
mark while the TST block is unlocked (R142). -/
def Hw.emitRecord (s : Hw) (r : FaultRec) : Hw :=
  let r := { r with serial := s.flt.nextSerial,
                    marks := b2n (decide (s.stk.state = .late)) + 2 * b2n s.tst.unlocked + 4 * b2n s.stk.holdover }
  let s := { s with flt := { s.flt with nextSerial := s.flt.nextSerial + 1 } }
  let s := if r.recoveryNs = 0 then s else { s with flt := { s.flt with
    lastOutcome := BitVec.ofNat 2 r.outcome.code, lastClass := BitVec.ofNat 8 r.cls
    lastNs := BitVec.ofNat 32 r.recoveryNs } }
  if s.flt.fullFault then { s with flt := { s.flt with heldRecs := holdRecord s.flt.heldRecs r } }
  else s.commitRecord r

/-- Form and write a fault record. -/
def Hw.writeRecord (s : Hw) (i : RecIn) : Hw := s.emitRecord (s.formRecord i)

/-- Close the records of a recovery that an uncontained fault prevents: each gets a final record that names it
(R340, R342), and remaps not yet complete are given up. -/
def Hw.closeRecovery (s : Hw) (by' : Nat) : Hw :=
  match s.flt.recovery with
  | none => s
  | some v =>
    let s := v.records.foldl (fun s r => s.emitRecord { r with outcome := .uncontained, related := some by' }) s
    { s with flt := { s.flt with recovery := none, actions := s.flt.actions.filter fun a => match a.act with
      | .remap _ => false
      | _ => true } }

/-- What an uncontained fault does beside its record: the flag, the register bit, the stop of all issue and the halt at
the next boundary (R340). -/
def Hw.stopUncontained (s : Hw) (serial : Nat) : Hw :=
  let s := (s.closeRecovery serial).raise 32
  let s := { s with flt := { s.flt with uncontained := true } }
  if s.live then
    { s with flt := { s.flt with stopAll := true }
             stk := { s.stk with haltNext := s.runs, haltUncontained := s.runs } }
  else s

/-- A path reaching its full limit writes LOG_FULL as an uncontained fault (R343): log 0 fault, 1 trail. -/
def Hw.judgeFull (s : Hw) : Hw :=
  let ff := decide (s.flt.faultFill ≥ faultLogSize - faultRing)
  let ft := decide (s.flt.trailFill ≥ trailLogSize - trailRing)
  let full (s : Hw) (log fill : Nat) : Hw :=
    let n := s.flt.nextSerial
    ((s.writeRecord { cls := 0x30, outcome := .uncontained, data := dat [log, fill] }).stopUncontained n).raise 34
  let s1 := if ff && !s.flt.fullFault then full s 0 s.flt.faultFill else s
  let s2 := if ft && !s1.flt.fullTrail then full s1 1 s1.flt.trailFill else s1
  { s2 with flt := { s2.flt with fullFault := ff, fullTrail := ft } }

/-- Write a fault record and judge the log's limits. -/
def Hw.record (s : Hw) (i : RecIn) : Hw := ((s.writeRecord i).judgeHigh).judgeFull

/-- Raise an uncontained fault: its record, and the halt (R340). -/
def Hw.uncontain (s : Hw) (i : RecIn) : Hw :=
  let n := s.flt.nextSerial
  ((s.writeRecord { i with outcome := .uncontained }).stopUncontained n).judgeHigh.judgeFull

/-- Abandoned work writes a record of class WORK_ABANDONED with the kind and identity of the work (R40). -/
def Hw.abandonWork (s : Hw) (kind : Nat) (ids : List Nat) : Hw :=
  s.record { cls := 0x09, data := dat (kind :: ids) }

/-! ## Outcomes -/

/-- What a meaning answers. -/
abbrev Out := Host.Outcome State Fault Refusal

/-- A meaning that acts on the module beside its touchmark units and its queue. -/
def State.act (s : State) (k : Hw → Hw) : Out := .next { s with hw := k s.hw }

end Sys2Proof.Machine
end

