-- ==== Sys2Proof/Machine/Operands.lean ====
section
/-!
DEFINITION. Operands of the core's instructions: register spaces (R83), tensor descriptors (R57-R60), elements of the SRAM
with their side data, format pairs (R98) and narrowing into a descriptor (R104-R110).
-/
namespace Sys2Proof.Machine

/-! ## Registers (R53, R83) -/

/-- s0 reads zero and ignores writes (R53). -/
def CoreState.sreg (x : CoreState) (n : Nat) : W32 := if n = 0 then 0 else nget 0 x.sregs n
def CoreState.setS (x : CoreState) (n : Nat) (v : W32) : CoreState :=
  if n = 0 then x else { x with sregs := nput 0 x.sregs n v }
def CoreState.dreg (x : CoreState) (n : Nat) : Desc := nget 0 x.dregs n
def CoreState.setD (x : CoreState) (n : Nat) (v : Desc) : CoreState := { x with dregs := nput 0 x.dregs n v }

/-- Lane `l` of a vector source: v0-v15, or a scalar register broadcast to all lanes for codes 16-31 (R83). -/
def CoreState.vlane (x : CoreState) (src l : Nat) : W32 :=
  if src < 16 then nget 0 x.vregs (16 * src + l) else x.sreg (src - 16)
def CoreState.setLane (x : CoreState) (dst l : Nat) (v : W32) : CoreState :=
  { x with vregs := nput 0 x.vregs (16 * dst + l) v }

/-- Write 16 lanes, leaving those masked off by s15 as they were where the masked bit is set (R70). -/
def CoreState.setVec (x : CoreState) (dst : Nat) (masked : Bool) (f : Nat → W32) : CoreState :=
  (List.range 16).foldl (fun y l => if masked && !(x.sreg 15).getLsbD l then y else y.setLane dst l (f l)) x

def CoreState.accAt (x : CoreState) (row col : Nat) : W32 := nget 0 x.acc (32 * row + col)
def CoreState.setAcc (x : CoreState) (row col : Nat) (v : W32) : CoreState :=
  { x with acc := nput 0 x.acc (32 * row + col) v }

/-! ## Descriptors (R57) -/

def dBase (d : Desc) : Nat := bits d.toNat 15 0
def dStride (d : Desc) : Nat := bits d.toNat 31 16
def dRows (d : Desc) : Nat := bits d.toNat 47 32
def dCols (d : Desc) : Nat := bits d.toNat 63 48
def dSide (d : Desc) : Nat := bits d.toNat 79 64
def dSideStride (d : Desc) : Nat := bits d.toNat 95 80
def dFmt (d : Desc) : Nat := bits d.toNat 100 96
def dAxis (d : Desc) : Bool := bit d.toNat 101

/-- Bits of an element of each format code (R59). -/
def fmtBits (f : Nat) : Nat := [32, 16, 16, 8, 8, 8, 8, 6, 6, 4, 8, 8, 4, 4].getD f 32

/-- MX formats, codes 5 to 10, hold one E8M0 byte per 32 positions (R59, R60). -/
def isMx (f : Nat) : Bool := decide (5 ≤ f) && decide (f ≤ 10)
def isLq4 (f : Nat) : Bool := decide (f = 13)

/-- A descriptor that an instruction may use: reserved bits zero, rows and cols not zero, a listed format (R57). -/
def dValid (d : Desc) : Bool :=
  decide (d.toNat < 2 ^ 102) && decide (dRows d ≠ 0) && decide (dCols d ≠ 0) && decide (dFmt d < 14)

/-- Base and row stride are multiples of 32 B, as the anvil and the drains need (R58). -/
def dAligned (d : Desc) : Bool := decide (dBase d % 32 = 0) && decide (dStride d % 32 = 0)

/-- Bytes of the SRAM. -/
def sramSize : Nat := 0xC000

/-- First bit of element (r, c) in the SRAM (R58). -/
def elemBit (d : Desc) (r c : Nat) : Nat := dBase d * 8 + r * dStride d * 8 + c * fmtBits (dFmt d)

/-- Line and position along it of element (r, c) (R60). -/
def lineOf (d : Desc) (r c : Nat) : Nat := if dAxis d then c else r
def posOf (d : Desc) (r c : Nat) : Nat := if dAxis d then r else c

/-- Address of the scale byte of a position of a line (R60). -/
def scaleAddr (d : Desc) (line pos : Nat) : Nat :=
  dSide d + line * dSideStride d
    + (if isLq4 (dFmt d) then pos / 256 * 24 + 16 + pos % 256 / 32 else pos / 32)

/-- Address of the codebook of a position of a line (R60). -/
def bookAddr (d : Desc) (line pos : Nat) : Nat := dSide d + line * dSideStride d + pos / 256 * 24

/-- Elements (0, 0) to (rows − 1, cols − 1) and their side data lie inside the SRAM (R58). -/
def dInSram (d : Desc) (rows cols : Nat) : Bool :=
  rows = 0 || cols = 0 ||
  (decide ((elemBit d (rows - 1) (cols - 1) + fmtBits (dFmt d) - 1) / 8 < sramSize) &&
   decide ((elemBit d 0 (cols - 1) + fmtBits (dFmt d) - 1) / 8 < sramSize) &&
   (!(isMx (dFmt d) || isLq4 (dFmt d)) ||
    decide (scaleAddr d (lineOf d (rows - 1) (cols - 1)) (posOf d (rows - 1) (cols - 1)) < sramSize)))

/-! ## Elements (R58-R60, R92-R95) -/

/-- `w` bits of the SRAM from a bit address. -/
def sramBits (m : NMap Byte) (a w : Nat) : Nat :=
  (leNat (ngetList 0 m (a / 8) ((w + 7) / 8 + 1)) >>> (a % 8)) % 2 ^ w

/-- Write `w` bits of the SRAM at a bit address: a read-modify-write of the bytes it touches (R56). -/
def sramPut (m : NMap Byte) (a w v : Nat) : NMap Byte :=
  let n := (a % 8 + w + 7) / 8
  let old := leNat (ngetList 0 m (a / 8) n)
  let mask := (2 ^ w - 1) <<< (a % 8)
  let new := (old ^^^ (old &&& mask)) ||| ((v % 2 ^ w) <<< (a % 8))
  nputList 0 m (a / 8) (leBytes n new)

/-- Two's complement of a code of `w` bits. -/
def intVal (w code : Nat) (e : Int) : Val :=
  if code ≥ 2 ^ (w - 1) then .fin true (2 ^ w - code) e else .fin false code e

/-- The value of an element's own code, before its scale (R92, R95). -/
def codeVal (f code : Nat) : Val :=
  match f with
  | 0 => fmtF32.decode code
  | 1 => fmtF16.decode code
  | 2 => fmtBF16.decode code
  | 3 | 5 => fmtE4M3.decode code
  | 4 | 6 => fmtE5M2.decode code
  | 7 => fmtE3M2.decode code
  | 8 => fmtE2M3.decode code
  | 9 => fmtE2M1.decode code
  | 10 => intVal 8 code (-6)
  | 11 => intVal 8 code 0
  | 12 => intVal 4 code 0
  | _ => .nan

/-- A value times a scale byte; the byte 0xFF is NaN whatever the value (R94). -/
def scaleVal (b : Nat) (v : Val) : Val :=
  if b = 0xFF then .nan
  else match v with
    | .fin n m e => .fin n m (e + (b : Int) - 127)
    | v => v

/-- The value of element (r, c) with its scale and codebook applied (R60, R95). -/
def elemVal (m : NMap Byte) (d : Desc) (r c : Nat) : Val :=
  let f := dFmt d
  let code := sramBits m (elemBit d r c) (fmtBits f)
  let line := lineOf d r c
  let pos := posOf d r c
  if isLq4 f then
    scaleVal (nget 0 m (scaleAddr d line pos)).toNat (fmtE4M3.decode (nget 0 m (bookAddr d line pos + code)).toNat)
  else if isMx f then scaleVal (nget 0 m (scaleAddr d line pos)).toNat (codeVal f code)
  else codeVal f code

/-- Put a code into element (r, c). -/
def elemPut (m : NMap Byte) (d : Desc) (r c code : Nat) : NMap Byte :=
  sramPut m (elemBit d r c) (fmtBits (dFmt d)) code

/-! ## Format pairs (R96-R98) -/

/-- Row of a format in the table of R98. -/
def fmtRow (f : Nat) : Nat :=
  match f with
  | 0 => 0
  | 1 | 2 => 1
  | 3 | 4 | 5 | 6 | 7 => 2
  | 8 => 3
  | 10 | 11 => 4
  | 9 | 12 => 5
  | _ => 6

/-- The pair is admitted (R98). -/
def pairOk (a b : Nat) : Bool :=
  decide (a < 14) && decide (b < 14) &&
  !(fmtRow a == 2 && fmtRow b == 4) && !(fmtRow a == 4 && fmtRow b == 2) &&
  !(fmtRow a == 6 && fmtRow b == 4) && !(fmtRow a == 4 && fmtRow b == 6)

/-! ## Narrowing into a descriptor (R104-R110) -/

/-- A code of an FP32 target keeps a NaN canonical (R100). -/
def canonF32 (x : W32) : W32 := if (f32val x).isNan then qnan else x

/-- A target that a value is narrowed to by itself: FP32, FP16, BF16, E4M3, E5M2, INT8, INT4. -/
def narrowCode (f : Nat) (r : Rnd) (x : W32) : Nat :=
  match f with
  | 0 => (canonF32 x).toNat
  | 1 => toF16 r (f32val x)
  | 2 => toBF16 r (f32val x)
  | 3 => toE4M3 r (f32val x)
  | 4 => toE5M2 r (f32val x)
  | 11 => narrowInt 8 r (f32val x)
  | _ => narrowInt 4 r (f32val x)

/-- Exponent of the largest power of two of an MX element format (R105). -/
def mxEmax (f : Nat) : Int := match f with
  | 5 => 8
  | 6 => 15
  | 7 => 4
  | 8 => 2
  | 9 => 2
  | _ => 0

/-- Element format of an MX code. -/
def mxElem (f : Nat) : FloatFmt := match f with
  | 5 => fmtE4M3
  | 6 => fmtE5M2
  | 7 => fmtE3M2
  | 8 => fmtE2M3
  | _ => fmtE2M1

/-- The code of y in an MX element format, which saturates (R104, R105). -/
def mxCode (f : Nat) (r : Rnd) (y : Val) : Nat :=
  match y with
  | .fin n m e => if f = 10 then narrowInt 8 r (.fin n m (e + 6)) else (mxElem f).narrowSat r n m e
  | _ => 0

/-- Greatest magnitude of a list of finite values. -/
def maxAbs (vs : List Val) : Val := vs.foldl (fun a v => if finLt a v.abs then v.abs else a) (.fin false 0 0)

/-- floor (log2 v) of a positive finite value. -/
def floorLog2 : Val → Int
  | .fin _ m e => (m.log2 : Int) + e
  | _ => 0

/-- y = x / 2^e. -/
def divPow (x : Val) (e : Int) : Val :=
  match x with
  | .fin n m k => .fin n m (k - e)
  | v => v

/-- The scale byte and codes of an MX block (R105). -/
def mxBlock (f : Nat) (rs : List Rnd) (xs : List Val) : Nat × List Nat :=
  if xs.any fun x => !x.isFinite then (0xFF, xs.map fun _ => 0)
  else
    let amax := maxAbs xs
    let e0 : Int := if amax.isZero then -127 else floorLog2 amax - mxEmax f
    let e := min (max e0 (-127)) 127
    ((e + 127).toNat, (xs.zip rs).map fun p => mxCode f p.2 (divPow p.1 e))

/-- Smallest e with amax ≤ cmax · 2^e (R106). -/
def lqScale (amax cmax : Val) : Int :=
  let e := floorLog2 amax - floorLog2 cmax
  if finLt (divPow cmax (-e)) amax then e + 1
  else if finLt (divPow cmax (-(e - 1))) amax then e else e - 1

/-- Distance of two finite values, as a value. -/
def vdist (a b : Val) : Val := (vadd a (match b with | .fin n m e => .fin (!n) m e | v => v)).abs

/-- The lowest index of a codebook at least distance from y (R106). -/
def lqNearest (c : List Val) (y : Val) : Nat :=
  ((List.range c.length).foldl (fun (best : Option (Nat × Val)) j =>
    let v := c.getD j .nan
    if !v.isFinite then best
    else match best with
      | none => some (j, vdist v y)
      | some (_, d) => if finLt (vdist v y) d then some (j, vdist v y) else best) none).map (·.1) |>.getD 0

/-- Lowest index of a finite entry equal to v. -/
def lqIndex (c : List Val) (v : Val) : Nat := (c.findIdx? fun w => w.isFinite && finEq w v).getD 0

/-- floor ((y − a) / (b − a) · 65536) for a < y < b. -/
def lqProb (a b y : Val) : Nat :=
  let k := min (min a.expo b.expo) y.expo
  ((y.scaled k - a.scaled k) * 65536 / (b.scaled k - a.scaled k)).toNat

/-- Stochastic selection of a codebook entry (R109). -/
def srSelect (c : List Val) (u : Nat) (y : Val) : Nat :=
  let fs := c.filter Val.isFinite
  if fs.any fun v => finEq v y then lqIndex c y
  else
    let below := fs.filter fun v => finLt v y
    let above := fs.filter fun v => finLt y v
    let top (l : List Val) := l.foldl (fun a v => if finLt a v then v else a) (l.headD .nan)
    let low (l : List Val) := l.foldl (fun a v => if finLt v a then v else a) (l.headD .nan)
    if below.isEmpty then lqIndex c (low fs)
    else if above.isEmpty then lqIndex c (top fs)
    else if u < lqProb (top below) (low above) y then lqIndex c (low above) else lqIndex c (top below)

/-- The scale byte and codes of an LQ4 block against a codebook (R106). -/
def lqBlock (c : List Val) (rs : List Rnd) (xs : List Val) : Nat × List Nat :=
  if xs.any fun x => !x.isFinite then (0xFF, xs.map fun _ => 0)
  else
    let amax := maxAbs xs
    let cmax := maxAbs (c.filter Val.isFinite)
    let e0 : Int := if amax.isZero then -127 else lqScale amax cmax
    let e := min (max e0 (-127)) 127
    ((e + 127).toNat, (xs.zip rs).map fun p =>
      match p.2 with
      | .rne => lqNearest c (divPow p.1 e)
      | .sr u => srSelect c u (divPow p.1 e))

/-- The roundings of `n` values in draw order, and the generator after them (R110): round-to-nearest consumes no draw. -/
def roundings (stoch : Bool) : Nat → W64 → List Rnd × W64
  | 0, g => ([], g)
  | n + 1, g =>
    if stoch then
      let g' := srStep g
      let (rs, g'') := roundings stoch n g'
      (.sr (srDraw g') :: rs, g'')
    else
      let (rs, g'') := roundings stoch n g
      (.rne :: rs, g'')

/-! ## Payload bytes of a descriptor -/

/-- Bytes of one row of a descriptor's elements. -/
def rowBytes (d : Desc) : Nat := (dCols d * fmtBits (dFmt d) + 7) / 8

/-- Bytes that a descriptor names, row after row (PRESUMED, log 11). -/
def descBytes (m : NMap Byte) (d : Desc) : List Byte :=
  (List.range (dRows d)).flatMap fun r => ngetList 0 m (dBase d + r * dStride d) (rowBytes d)

/-- Write the rows of a descriptor from bytes. -/
def putDescBytes (m : NMap Byte) (d : Desc) (bs : List Byte) : NMap Byte :=
  (List.range (dRows d)).foldl (fun m r => nputList 0 m (dBase d + r * dStride d) (sub bs (r * rowBytes d) (rowBytes d))) m

end Sys2Proof.Machine
end

