-- ==== Sys2Proof/Machine/Flags.lean ====
section
/-!
DEFINITION. Flag computations: the lane masks of compares (R70, R101), and the derived status bits of the registers that
show a condition rather than a stored bit.
-/
namespace Sys2Proof.Machine

/-- A compare of two FP32 lanes: ordered, false on a NaN, but not-equal true (R101). -/
def compareLane (op : CmpOp) (a b : W32) : Bool :=
  match op with
  | .eq => feq a b
  | .lt => flt a b
  | .le => fle a b
  | .ne => !feq a b

/-- The 16-bit lane mask of a compare (R70). -/
def laneMask (f : Nat → Bool) : W32 :=
  BitVec.ofNat 32 ((List.range 16).foldl (fun n l => n + (b2n (f l)) <<< l) 0)

end Sys2Proof.Machine
end

