-- ==== Sys2Proof/Machine/Issue.lean ====
section
/-!
DEFINITION. Issue of a core's instructions: when a core issues, program errors (R87), tokens (R85), tasks (R73-R75),
SRAM check errors (R56) and injections (R143).
-/
namespace Sys2Proof.Machine

/-! ## Injections (R143) -/

/-- An armed injection of a target corrupts the check value of the next item checked at its location: the state after the
item, where it is hit. `loc` is the item's TST_INJ.location, bits [22:2]. -/
def Hw.injHit (s : Hw) (target loc : Nat) : Option Hw :=
  if s.tst.unlocked && s.tst.injArm && decide (bits s.tst.inj.toNat 1 0 = target)
      && decide (bits s.tst.inj.toNat 22 2 = loc) then
    let left := s.tst.injLeft - 1
    some { s with tst := { s.tst with injLeft := left, injArm := decide (left ≠ 0), injections := s.tst.injections + 1 } }
  else none

/-! ## Tasks (R73-R75) -/

def CoreState.task (x : CoreState) (t : Nat) : Nat := (x.tasks.getD t 0).toNat
def taskValid (w : Nat) : Bool := bit w 9
def taskKind (w : Nat) : Nat := bits w 11 10
def taskParam (w : Nat) : Nat := bits w 23 12
def taskPrio (w : Nat) : Nat := bits w 25 24
def taskEntry (w : Nat) : Nat := bits w 8 0

/-- Ready task a runs before b: priority, then trigger cycle, then index (R75). -/
def CoreState.before (x : CoreState) (a b : Ready) : Bool :=
  let pa := taskPrio (x.task a.task)
  let pb := taskPrio (x.task b.task)
  decide (pa > pb) || (decide (pa = pb) && (decide (a.cycle < b.cycle) || (decide (a.cycle = b.cycle) && decide (a.task < b.task))))

/-- The ready task that runs next. -/
def CoreState.best (x : CoreState) : Option Ready :=
  x.ready.foldl (fun b r => match b with
    | none => some r
    | some q => if x.before r q then some r else some q) none

/-- Start the next ready task of a core that runs none (R75). -/
def CoreState.dispatch (x : CoreState) : CoreState :=
  match x.running, x.best with
  | none, some r => { x with running := some r.task, pc := taskEntry (x.task r.task),
                             ready := x.ready.filter fun q => decide (q.task ≠ r.task) }
  | _, _ => x

/-- Trigger a task: none where its pending count would reach 16 (R75). It starts by `dispatch`, once every trigger of its cycle
is in. -/
def CoreState.trigger (x : CoreState) (now t : Nat) : Option CoreState :=
  if decide (x.running = some t) || x.ready.any (fun r => decide (r.task = t)) then
    if nget 0 x.taskPend t ≥ 15 then none
    else some { x with taskPend := nput 0 x.taskPend t (nget 0 x.taskPend t + 1) }
  else some { x with ready := x.ready ++ [{ task := t, cycle := now }] }

/-- The running task ends; a pending count runs it once more (R75), as a task triggered in the cycle of its END (the manual names
no trigger cycle for such a run: DESIGN CHOICE, log 187). -/
def CoreState.endTask (x : CoreState) (now : Nat) : CoreState :=
  match x.running with
  | none => x
  | some t =>
    let x := { x with running := none }
    let x := if nget 0 x.taskPend t > 0 then
        { x with taskPend := nput 0 x.taskPend t (nget 0 x.taskPend t - 1), ready := x.ready ++ [{ task := t, cycle := now }] }
      else x
    x.dispatch

/-! ## Program errors (R87) -/

/-- A program error stops the core and is an uncontained fault with the core, the instruction index and the code. -/
def Hw.programError (s : Hw) (c code : Nat) : Hw :=
  let pc := (s.core c).pc
  (s.onCore c fun x => { x with stopped := true }).uncontain
    { cls := 0x07, loc := locCore c, beat := s.stk.beat, address := pc, detail := code, data := dat [code] }

/-- Trigger tasks of a core in one cycle: a pending count of 16 is a program error (R75, R87 code 0x09); then the ready task that
comes first starts where none runs. -/
def Hw.triggerTasks (s : Hw) (c : Nat) (ts : List Nat) : Hw :=
  match ts.foldl (fun (x : Option CoreState) t => x.bind fun x => x.trigger s.now t) (some (s.core c)) with
  | some x => s.setCore c x.dispatch
  | none => s.programError c 0x09

/-! ## SRAM check errors (R56) -/

/-- A CRC mismatch: the data is discarded, the core stops issuing and signals the error in place of its next heartbeat. -/
def CoreState.crcError (x : CoreState) : CoreState := { x with stopped := true, errSym := true }

/-- Read the core's SRAM: an injected check error stops the core (R56, R143), otherwise the read's effect follows. -/
def Hw.sramChecked (s : Hw) (c : Nat) (k : Hw → Hw) : Hw :=
  match s.injHit 0 c with
  | some s' => s'.onCore c CoreState.crcError
  | none => k s

/-! ## Issue -/

/-- The core issues: it is mapped and on, its field is not FAULTED, it runs a task, has not stopped, and the billet's work runs
(R27, R33, R80, R340). -/
def Hw.canIssue (s : Hw) (c : Nat) : Bool :=
  let x := s.core c
  x.mapped && decide ((s.fld (coreField c)).state ≠ .faulted) && !x.gated && !x.stopped && !x.dead && x.running.isSome && s.live && !s.flt.stopAll && !s.flt.held

/-- An instruction word of a class with its fields at the places of R82, its operation bits zero. -/
def insWord (cls : Nat) (i : Ins) : W64 :=
  BitVec.ofNat 64 (cls * 2 ^ 60 + i.tok.toNat * 2 ^ 51 + i.dst.toNat * 2 ^ 46 + i.srcA.toNat * 2 ^ 41 + i.srcB.toNat * 2 ^ 36
    + i.mod.toNat * 2 ^ 32 + i.imm.toNat)

/-- The operation bits [59:54] of a word, whose meaning within a class the manual withholds (R84): the command names the
operation (log 11). -/
def opBits : W64 := 0x0FC0000000000000

/-- The program store's word at the instruction counter; a word that the image does not fill is zero (log 188). -/
def CoreState.word (x : CoreState) : W64 := x.prog.getD x.pc 0

/-- The core fetches its next instruction, `i` of class `cls` as the fetch read it. A word of a reserved class is program error
0x01 (R83); a fetch that did not read what the program store holds fails the word's CRC, and is handled as a mismatch in the
SRAM (R56). -/
def Hw.fetch (s : Hw) (c cls : Nat) (i : Ins) (k : Hw → Hw) : Hw :=
  if s.canIssue c then
    let w := (s.core c).word
    if bits w.toNat 63 60 ≥ 12 then s.programError c 0x01
    else if w &&& ~~~ opBits = insWord cls i then k s
    else s.onCore c CoreState.crcError
  else s

/-- What an instruction answers: it is done, it goes to another instruction, it waits, or it is a program error. -/
inductive Issue where
  | done (x : CoreState)
  | jump (x : CoreState) (pc : Nat)
  | wait
  | error (code : Nat)

/-- Carry out what an instruction answers. -/
def Hw.answer (s : Hw) (c : Nat) (o : Issue) : Hw := match o with
  | .done x => s.setCore c { x with pc := (x.pc + 1) % 512 }
  | .jump x pc => s.setCore c { x with pc := pc % 512 }
  | .wait => s
  | .error e => s.programError c e

/-- Issue an instruction that acts on its core alone. -/
def Hw.issue (s : Hw) (c cls : Nat) (i : Ins) (f : CoreState → Issue) : Hw :=
  s.fetch c cls i fun s => s.answer c (f (s.core c))

/-- Issue an instruction that reads the SRAM, or writes less than whole words of it: a check error stops the core in place of
its effect (R56). -/
def Hw.issueRead (s : Hw) (c cls : Nat) (i : Ins) (f : CoreState → Issue) : Hw :=
  s.fetch c cls i fun s => match f (s.core c) with
    | .done x => s.sramChecked c fun s => s.answer c (.done x)
    | o => s.answer c o

/-- The instruction counter moves past the instruction. -/
def CoreState.next (x : CoreState) : CoreState := { x with pc := (x.pc + 1) % 512 }

/-- The fields of an instruction word that an operation uses; every other field must be zero (R83). -/
structure Use where
  tok : Bool := false
  dst : Bool := false
  srcA : Bool := false
  srcB : Bool := false
  mod : Nat := 0
  imm : Nat := 0

/-- Every field that the operation does not use is zero (R83). -/
def insClean (i : Ins) (u : Use) : Bool :=
  (u.tok || i.tok == 0) && (u.dst || i.dst == 0) && (u.srcA || i.srcA == 0) && (u.srcB || i.srcB == 0)
    && (i.mod &&& ~~~ BitVec.ofNat 4 u.mod == 0) && (i.imm &&& ~~~ BitVec.ofNat 32 u.imm == 0)

/-- A register code names a scalar register. -/
def isS (r : BitVec 5) : Bool := decide (r.toNat < 16)

/-- Guard an instruction by its unused fields (code 0x01) and its register spaces (code 0x02). -/
def guarded (i : Ins) (u : Use) (regsOk : Bool) (k : Issue) : Issue :=
  if !insClean i u then .error 0x01 else if !regsOk then .error 0x02 else k

/-! ## Tokens (R85) -/

/-- An issue that would raise a token's count above 255 waits. -/
def CoreState.tokFull (x : CoreState) (t : Nat) : Bool := decide (t ≠ 0) && decide (nget 0 x.toks t ≥ 255)
def CoreState.tokAdd (x : CoreState) (t : Nat) : CoreState :=
  if t = 0 then x else { x with toks := nput 0 x.toks t (nget 0 x.toks t + 1) }
def CoreState.tokDone (x : CoreState) (t : Nat) : CoreState :=
  if t = 0 then x else { x with toks := nput 0 x.toks t (nget 0 x.toks t - 1) }

/-! ## Interlocks (R66, R85) -/

/-- Two accumulator regions share an element. -/
def regionsMeet (ro co m n ro' co' m' n' : Nat) : Bool :=
  decide (ro < ro' + m') && decide (ro' < ro + m) && decide (co < co' + n') && decide (co' < co + n)

/-- A queued MMA writes elements of a region (R66). -/
def CoreState.mmaMeets (x : CoreState) (ro co m n : Nat) : Bool :=
  x.anvil.any fun o => regionsMeet ro co m n o.ro o.co o.m o.n

/-- A queued accumulator operation touches elements of a region. -/
def CoreState.accMeets (x : CoreState) (ro co m n : Nat) : Bool :=
  x.accQ.any fun o => regionsMeet ro co m n o.ro o.co o.m o.n

/-- A vector register is still owed by a TOV (R85). -/
def CoreState.owesV (x : CoreState) (r : Nat) : Bool :=
  x.accQ.any fun o => decide (o.kind = .tov) && decide (o.reg = r)

/-! ## Results in the SRAM that are still owed (R85) -/

/-- A core's span engine: block mod 2 of its field (R309). -/
def engineOf (c : Nat) : Nat := coreField c * 2 + coreBlock c % 2

/-- Bytes of the SRAM, by start and length, that the first `rows` rows and `cols` columns of a descriptor take. -/
def descSpans (d : Desc) (rows cols : Nat) : List (Nat × Nat) :=
  (List.range rows).map fun r => (elemBit d r 0 / 8, (elemBit d r cols + 7) / 8 - elemBit d r 0 / 8)

/-- Bytes that asynchronous instructions of a core have still to write: drains, loads from bonded memory, and what a span request
writes at its completion (R67, R84, R310). -/
def Hw.owed (s : Hw) (c : Nat) : List (Nat × Nat) :=
  let x := s.core c
  (x.accQ.flatMap fun o => match o.kind with
    | .drain _ => descSpans o.desc o.m o.n
    | _ => [])
  ++ (x.portQ.flatMap fun o => if o.store then [] else descSpans o.desc (dRows o.desc) (dCols o.desc))
  ++ ((s.spanEng (engineOf c)).reqs.flatMap fun r =>
    if r.core ≠ c then []
    else (r.cmdAddr + 13, 1) :: (if r.op = 0 then [(r.localAddr, r.size)] else if r.op = 1 then [] else [(r.cmdAddr + 16, 8)]))

/-- Some byte that is read is still owed. -/
def spansMeet (owed reads : List (Nat × Nat)) : Bool :=
  owed.any fun a => reads.any fun b => decide (a.1 < b.1 + b.2) && decide (b.1 < a.1 + a.2)

/-- A piece of the SRAM covers whole 64-bit words: a write of it reads none of them first (R56). -/
def wholeSpan (p : Nat × Nat) : Bool := decide (p.1 % 8 = 0) && decide (p.2 % 8 = 0)

end Sys2Proof.Machine
end

