-- ==== Sys2Proof/Machine/CoreVec.lean ====
section
/-!
DEFINITION. The vector unit, its special functions, its loads and stores, and conversion (R70-R72, R100-R110).
-/
namespace Sys2Proof.Machine

/-- Fields of a vector word with two sources and the masked bit (R83). -/
def useVec : Use := { dst := true, srcA := true, srcB := true, mod := 0x8 }
def useVec1 : Use := { dst := true, srcA := true, mod := 0x8 }

/-- The masked bit (R83). -/
def masked (i : Ins) : Bool := i.mod.getLsbD 3

/-- A lane-wise operation of two sources: it waits for a TOV that still owes one of its registers (R70, R85). -/
def vecOp (c : CoreId) (i : Ins) (s : Hw) (f : W32 → W32 → W32 → W32) : Hw :=
  s.issue c.toNat 5 i fun x => guarded i useVec (isS i.dst)
    (if x.owesV i.dst.toNat || x.owesV i.srcA.toNat || x.owesV i.srcB.toNat then .wait
     else .done (x.setVec i.dst.toNat (masked i) fun l =>
       f (x.vlane i.srcA.toNat l) (x.vlane i.srcB.toNat l) (x.vlane i.dst.toNat l)))

/-- A special function of one source, lane by lane. -/
def vecOp1 (c : CoreId) (i : Ins) (s : Hw) (f : W32 → W32) : Hw :=
  s.issue c.toNat 6 i fun x => guarded i useVec1 (isS i.dst)
    (if x.owesV i.dst.toNat || x.owesV i.srcA.toNat then .wait
     else .done (x.setVec i.dst.toNat (masked i) fun l => f (x.vlane i.srcA.toNat l)))

/-- Vector add, multiply, fused multiply-add into dst, minimum and maximum (R101). -/
def execVecAdd (c : CoreId) (i : Ins) (s : State) : Out := s.act fun s => (vecOp c i s fun a b _ => fadd a b)
def execVecMul (c : CoreId) (i : Ins) (s : State) : Out := s.act fun s => (vecOp c i s fun a b _ => fmul a b)
def execVecFma (c : CoreId) (i : Ins) (s : State) : Out := s.act fun s => (vecOp c i s fun a b d => ffma a b d)
def execVecMin (c : CoreId) (i : Ins) (s : State) : Out := s.act fun s => (vecOp c i s fun a b _ => fmin a b)
def execVecMax (c : CoreId) (i : Ins) (s : State) : Out := s.act fun s => (vecOp c i s fun a b _ => fmax a b)

/-- A compare writes a 16-bit lane mask to the scalar dst (R70, R101). Its destination has no lanes: under the masked bit the
bits of masked-off lanes stay as they were (DESIGN CHOICE, log 190). -/
def execVecCompare (c : CoreId) (op : CmpOp) (i : Ins) (s : State) : Out :=
  s.act fun s => (s.issue c.toNat 5 i fun x => guarded i useVec (isS i.dst)
    (if x.owesV i.srcA.toNat || x.owesV i.srcB.toNat then .wait
     else .done (x.setS i.dst.toNat (laneMask fun l =>
       if masked i && !(x.sreg 15).getLsbD l then (x.sreg i.dst.toNat).getLsbD l
       else compareLane op (x.vlane i.srcA.toNat l) (x.vlane i.srcB.toNat l)))))

/-- Vector select: lane by lane src_a where the mask bit of the scalar that imm [3:0] names is 1, src_b otherwise, a NaN canonical (R70, R100;
place of the mask PRESUMED, log 11). -/
def execVecSelect (c : CoreId) (i : Ins) (s : State) : Out :=
  s.act fun s => (s.issue c.toNat 5 i fun x => guarded i { useVec with imm := 0xF } (isS i.dst)
    (if x.owesV i.dst.toNat || x.owesV i.srcA.toNat || x.owesV i.srcB.toNat then .wait
     else .done (x.setVec i.dst.toNat (masked i) fun l =>
       canonF32 (if (x.sreg i.imm.toNat).getLsbD l then x.vlane i.srcA.toNat l else x.vlane i.srcB.toNat l))))

/-- Reduce 16 lanes in the fixed pair order (R72). -/
def pairTree (f : W32 → W32 → W32) (v : Nat → W32) : W32 :=
  let p (k : Nat) := f (v (2 * k)) (v (2 * k + 1))
  f (f (f (p 0) (p 1)) (f (p 2) (p 3))) (f (f (p 4) (p 5)) (f (p 6) (p 7)))

/-- A horizontal reduction into lane 0 (R72). Under the masked bit all sixteen input lanes are reduced, and s15 bit 0 admits the
one destination lane (DESIGN CHOICE, log 191). -/
def horizontal (c : CoreId) (i : Ins) (s : Hw) (f : W32 → W32 → W32) : Hw :=
  s.issue c.toNat 5 i fun x => guarded i useVec1 (isS i.dst)
    (if x.owesV i.dst.toNat || x.owesV i.srcA.toNat then .wait
     else if masked i && !(x.sreg 15).getLsbD 0 then .done x
     else .done (x.setLane i.dst.toNat 0 (pairTree f fun l => x.vlane i.srcA.toNat l)))

def execHsum (c : CoreId) (i : Ins) (s : State) : Out := s.act fun s => (horizontal c i s fadd)
def execHmax (c : CoreId) (i : Ins) (s : State) : Out := s.act fun s => (horizontal c i s fmax)

/-- The special functions (R71, R102). -/
def execExp (c : CoreId) (i : Ins) (s : State) : Out := s.act fun s => (vecOp1 c i s (expF32 0))
def execRcp (c : CoreId) (i : Ins) (s : State) : Out := s.act fun s => (vecOp1 c i s rcpF32)
def execRsq (c : CoreId) (i : Ins) (s : State) : Out := s.act fun s => (vecOp1 c i s rsqF32)

/-! ## Vector load, store and conversion -/

/-- Row and column of the l-th element from (r, c) along the descriptor's axis (R107). -/
def alongAxis (d : Desc) (rc : W32) (l : Nat) : Nat × Nat :=
  let r := rc.toNat % 65536
  let c := rc.toNat / 65536
  if dAxis d then (r + l, c) else (r, c + l)

/-- Sixteen elements from (r, c) lie inside the SRAM. -/
def lineInSram (d : Desc) (rc : W32) (n : Nat) : Bool :=
  (List.range n).all fun l =>
    let p := alongAxis d rc l
    decide ((elemBit d p.1 p.2 + fmtBits (dFmt d) - 1) / 8 < sramSize)

/-- Bytes that `n` elements along the axis stand in. -/
def lineSpans (d : Desc) (rc : W32) (n : Nat) : List (Nat × Nat) :=
  (List.range n).map fun l =>
    let p := alongAxis d rc l
    (elemBit d p.1 p.2 / 8, (elemBit d p.1 p.2 % 8 + fmtBits (dFmt d) + 7) / 8)

/-- VLD loads 16 elements of the descriptor src_a from the row and column in the scalar src_b, widened exactly to FP32;
MX formats and LQ4 are program error 0x04 (R70, R103; place of the operands PRESUMED, log 11). It waits for elements that are
still owed (R85). -/
def execVld (c : CoreId) (i : Ins) (s : State) : Out :=
  s.act fun s => (s.issueRead c.toNat 7 i fun x =>
      let d := x.dreg i.srcA.toNat
      let rc := x.sreg i.srcB.toNat
      guarded i useVec (isS i.dst && isS i.srcB)
        (if !dValid d || isMx (dFmt d) || isLq4 (dFmt d) then .error 0x04
         else if !lineInSram d rc 16 then .error 0x03
         else if x.owesV i.dst.toNat || spansMeet (s.owed c.toNat) (lineSpans d rc 16) then .wait
         else .done (x.setVec i.dst.toNat (masked i) fun l =>
           f32of (elemVal x.sram d (alongAxis d rc l).1 (alongAxis d rc l).2))))

/-- Write lanes of a vector as elements of a format without side data; masked-off lanes are left unwritten (R70, R107). -/
def putLanes (x : CoreState) (d : Desc) (rc : W32) (m : Bool) (codes : List Nat) : NMap Byte :=
  ((List.range 16).zip codes).foldl (fun sr e =>
    if m && !(x.sreg 15).getLsbD e.1 then sr
    else elemPut sr d (alongAxis d rc e.1).1 (alongAxis d rc e.1).2 e.2) x.sram

/-- The written elements cover whole 64-bit words; otherwise the write reads its words first (R56). -/
def wholeWords (d : Desc) (rc : W32) (m : Bool) : Bool :=
  let a := elemBit d (rc.toNat % 65536) (rc.toNat / 65536)
  !m && !dAxis d && decide (a % 64 = 0) && decide (16 * fmtBits (dFmt d) % 64 = 0)

/-- Issue an instruction that writes the SRAM: where it does not cover whole words, it reads them first and meets their check
values (R56). -/
def Hw.issueWrite (s : Hw) (c cls : Nat) (i : Ins) (whole : Bool) (f : CoreState → Issue) : Hw :=
  if whole then s.issue c cls i f else s.issueRead c cls i f

/-- VST stores 16 FP32 lanes of src_a to the descriptor dst at the row and column in the scalar src_b; narrowing is
done only by CVT (R70; place of the operands PRESUMED, log 11). -/
def execVst (c : CoreId) (i : Ins) (s : State) : Out :=
  s.act fun s => (
      let d := (s.core c.toNat).dreg i.dst.toNat
      let rc := (s.core c.toNat).sreg i.srcB.toNat
      s.issueWrite c.toNat 7 i (wholeWords d rc (masked i)) fun x =>
      guarded i useVec (isS i.srcB)
        (if !dValid d || decide (dFmt d ≠ 0) then .error 0x04
         else if !lineInSram d rc 16 then .error 0x03
         else if x.owesV i.srcA.toNat then .wait
         else
           let codes := (List.range 16).map fun l => (x.vlane i.srcA.toNat l).toNat
           .done { x with sram := putLanes x d rc (masked i) codes }))

/-- Formats a CVT converts to value by value: FP32, FP16, BF16, E4M3, E5M2, INT8, INT4 (R107). -/
def plainFmt (f : Nat) : Bool := decide (f ≤ 4) || decide (f = 11) || decide (f = 12)

/-- The 32 positions of a block: lanes 0-15 of src_a, then of src_a + 1 (R107). -/
def blockLanes' (x : CoreState) (src : Nat) : List W32 :=
  (List.range 32).map fun p => x.vlane (src + p / 16) (p % 16)

/-- The codebook of a block's record (R60, R106). -/
def codebook (x : CoreState) (d : Desc) (line pos : Nat) : List Val :=
  (List.range 16).map fun j => fmtE4M3.decode (nget 0 x.sram (bookAddr d line pos + j)).toNat

/-- A block conversion: scale byte and codes, and the generator after its 32 draws (R105, R106, R110). -/
def blockCvt (x : CoreState) (d : Desc) (rc : W32) (src : Nat) (stoch : Bool) : CoreState :=
  let (rs, g) := roundings stoch 32 x.srState
  let xs := (blockLanes' x src).map f32val
  let p0 := alongAxis d rc 0
  let line := lineOf d p0.1 p0.2
  let pos := posOf d p0.1 p0.2
  let (scale, codes) := if isLq4 (dFmt d) then lqBlock (codebook x d line pos) rs xs else mxBlock (dFmt d) rs xs
  let sram := ((List.range 32).zip codes).foldl (fun sr e =>
    elemPut sr d (alongAxis d rc e.1).1 (alongAxis d rc e.1).2 e.2) x.sram
  { x with sram := nput 0 sram (scaleAddr d line pos) (BitVec.ofNat 8 scale), srState := g }

/-- Conversion of 16 lanes; masked-off lanes are left unwritten but consume their draw (R107, R110). -/
def laneCvt (x : CoreState) (d : Desc) (rc : W32) (src : Nat) (stoch m : Bool) : CoreState :=
  let (rs, g) := roundings stoch 16 x.srState
  let codes := ((List.range 16).zip rs).map fun e => narrowCode (dFmt d) e.2 (x.vlane src e.1)
  { x with sram := putLanes x d rc m codes, srState := g }

/-- CVT converts lanes, or a block with its scale, into the descriptor dst at the row and column in src_b (R107):
an odd src_a of a block is error 0x02, a position that is not a multiple of 32 or a codebook without a finite non-zero
entry 0x04, the masked bit on a block 0x01. A codebook that is still owed is waited for (R85). -/
def execCvt (c : CoreId) (i : Ins) (s : State) : Out :=
  s.act fun s => (
      let d := (s.core c.toNat).dreg i.dst.toNat
      let rc := (s.core c.toNat).sreg i.srcB.toNat
      let block := isMx (dFmt d) || isLq4 (dFmt d)
      let p0 := alongAxis d rc 0
      let pos := posOf d p0.1 p0.2
      s.issueWrite c.toNat 8 i (!block && wholeWords d rc (masked i)) fun x =>
      guarded i { useVec with mod := 0x9 } (isS i.srcB)
        (if !dValid d then .error 0x04
         else if block && masked i then .error 0x01
         else if block && decide (i.srcA.toNat % 2 = 1) then .error 0x02
         else if block && decide (pos % 32 ≠ 0) then .error 0x04
         else if !lineInSram d rc (if block then 32 else 16) ||
             (block && decide (scaleAddr d (lineOf d p0.1 p0.2) pos ≥ sramSize)) then .error 0x03
         else if isLq4 (dFmt d) && spansMeet (s.owed c.toNat) [(bookAddr d (lineOf d p0.1 p0.2) pos, 16)] then .wait
         else if isLq4 (dFmt d) && !(codebook x d (lineOf d p0.1 p0.2) pos).any
             (fun v => v.isFinite && !v.isZero) then .error 0x04
         else if x.owesV i.srcA.toNat || (block && x.owesV (i.srcA.toNat + 1)) then .wait
         else if block then .done (blockCvt x d rc i.srcA.toNat (i.mod.getLsbD 0))
         else .done (laneCvt x d rc i.srcA.toNat (i.mod.getLsbD 0) (masked i))))

end Sys2Proof.Machine
end

