-- ==== Sys2Proof/Machine/Fabric.lean ====
section
/-!
DEFINITION. The fabric: places and endpoints (R16, R116), route entries (R122), injection (R77, R118), hops (R120, R121),
arrival at a core (R78), and raised arbiter requests (R131, R132).
-/
namespace Sys2Proof.Machine

/-! ## Places (R14, R16, R116) -/

/-- Grid column and row of a core (R16). -/
def coreX (c : Nat) : Nat := coreField c % 8 * 176 + coreBlock c % 22 * 8 + coreIndex c % 8
def coreY (c : Nat) : Nat := coreField c / 8 * 144 + coreBlock c / 22 * 8 + coreIndex c / 8

/-- The core at a grid place. -/
def coreAt (x y : Nat) : Nat :=
  mkCore (y / 144 * 8 + x / 176) (y % 144 / 8 * 22 + x % 176 / 8) (y % 8 * 8 + x % 8)

/-- A place on the core grid. -/
def onGrid (x y : Int) : Bool := decide (0 ≤ x) && decide (x < 1408) && decide (0 ≤ y) && decide (y < 864)

/-- The local-mesh neighbours of a core (R16). -/
def neighbours (c : Nat) : List Nat :=
  let x : Int := coreX c
  let y : Int := coreY c
  ([(x, y - 1), (x, y + 1), (x + 1, y), (x - 1, y)].filter fun p => onGrid p.1 p.2).map fun p =>
    coreAt p.1.toNat p.2.toNat

/-- Block grid column and row of a block of a field. -/
def blockX (f b : Nat) : Nat := f % 8 * 22 + b % 22
def blockY (f b : Nat) : Nat := f / 8 * 18 + b / 22

/-- Field and block at a place of the block grid. -/
def blockAt (x y : Nat) : Nat × Nat := (y / 18 * 8 + x / 22, y % 18 * 22 + x % 22)

/-- Block at which a unit of a field is attached (R116). -/
def unitBlock (u : Nat) : Nat := [207, 208, 209, 210, 186, 187, 230, 231, 232].getD u 207

def endpointField (e : Nat) : Nat := e / 16
def endpointUnit (e : Nat) : Nat := e % 16
def mkEndpoint (f u : Nat) : Nat := f * 16 + u

/-- Fields that carry two port sites (R19, R116). -/
def twoSites (f : Nat) : Bool := (decide (8 ≤ f) && decide (f ≤ 15)) || (decide (32 ≤ f) && decide (f ≤ 39))

/-- An endpoint that exists (R116). -/
def endpointOk (e : Nat) : Bool :=
  decide (endpointField e < 48) &&
  (decide (endpointUnit e < 7) || (decide (endpointUnit e = 7) && twoSites (endpointField e)) || decide (e = 8))

/-- The port behind a port-site endpoint: unit 6 is the bellows port in a field with two sites, and the peer link is
then unit 7 (R19, R116). -/
def endpointPort (e : Nat) : Option Nat :=
  let f := endpointField e
  let bellows := 48 + (if f < 16 then f - 8 else f - 24)
  if endpointUnit e = 6 then some (if twoSites f then bellows else f)
  else if endpointUnit e = 7 ∧ twoSites f then some f
  else none

/-- The endpoint of a peer link's site. -/
def peerSite (p : Nat) : Nat := mkEndpoint p (if twoSites p then 7 else 6)

/-- Field of a port's site (R19). -/
def portField (p : Nat) : Nat := if p < 48 then p else if p < 56 then p - 40 else p - 24

/-- Instance of a port's egress arbiter in its field (R19, R131). -/
def portSite (p : Nat) : Nat := if p < 48 ∧ twoSites p then 1 else 0

/-! ## Arbiter requests (R131, R132) -/

/-- Key of an arbiter. -/
def arbKey (f kind inst : Nat) : Nat := f * 65536 + kind * 512 + inst

def Hw.arb (s : Hw) (k : Nat) : Arb := nget {} s.arbs k
def Hw.setArb (s : Hw) (k : Nat) (a : Arb) : Hw := { s with arbs := nput {} s.arbs k a }

/-- The wait of a request in the resource cycle in which it is raised: no transfer of it moves yet (R132, R136). -/
def Arb.waits (a : Arb) (i : Nat) (r : ArbReq) : Arb :=
  { a with reqs := ninsert i { r with waited := r.waited + 1 } a.reqs
           wait := nput 0 a.wait i (satAdd 64 (nget 0 a.wait i) 1)
           longest := nput 0 a.longest i (min (2 ^ 32 - 1) (max (nget 0 a.longest i) (r.waited + 1))) }

/-- A requester raises its request with a transfer count of 1-256; while one is raised, the input's next request waits
behind it and its transfers add to it. -/
def Hw.arbRaise (s : Hw) (f kind inst input count : Nat) : Hw :=
  let k := arbKey f kind inst
  let a := s.arb k
  let n := max count 1
  match a.reqs.find? fun e => decide (e.1 = input) with
  | some (_, r) => s.setArb k { a with reqs := ninsert input { r with count := r.count + n } a.reqs }
  | none => s.setArb k (a.waits input { count := n })

/-- A requester has `n` transfers still to move, as after what it would have sent is discarded or restored (R129, R140). -/
def Hw.arbSet (s : Hw) (f kind inst input n : Nat) : Hw :=
  let k := arbKey f kind inst
  let a := s.arb k
  if n = 0 then
    if a.reqs.isEmpty then s
    else s.setArb k { a with reqs := nerase input a.reqs, tenures := a.tenures.filter fun t => decide (t.input ≠ input) }
  else match a.reqs.find? fun e => decide (e.1 = input) with
    | none => s.arbRaise f kind inst input n
    | some (_, r) => s.setArb k { a with reqs := ninsert input { r with count := r.progress + n } a.reqs }

/-- Bonded memory traffic of a unit goes through the vertical port of its own block: the port's express input for `n` lines,
and for a read the port's responses back into the express router (R115, R116, R131). -/
def Hw.portVisit (s : Hw) (f block n : Nat) (read : Bool) : Hw :=
  let s := s.arbRaise f 0 block 64 n
  if read then s.arbRaise f 1 block 64 n else s

/-! ## Route entries (R122) -/

/-- Twelve-bit two's complement. -/
def sext12 (n : Nat) : Int := if n ≥ 2048 then (n : Int) - 4096 else n

/-- Where a route entry leads from a core: destination, and whether it is an endpoint; none for dest_mode 3 or a place
off the grid (R122, R123). -/
def routeDest (c : Nat) (w : Nat) : Option (Nat × Bool) :=
  match bits w 1 0 with
  | 0 => some (bits w 22 2, false)
  | 1 =>
    let x := (coreX c : Int) + sext12 (bits w 13 2)
    let y := (coreY c : Int) + sext12 (bits w 25 14)
    if onGrid x y then some (coreAt x.toNat y.toNat, false) else none
  | 2 => some (bits w 12 2, true)
  | _ => none

/-- Position of a message's source on its plane. -/
def startPlace (source : Nat) (endpoint express : Bool) : Nat × Nat :=
  if endpoint then (blockX (endpointField source) (unitBlock (endpointUnit source)),
                    blockY (endpointField source) (unitBlock (endpointUnit source)))
  else if express then (blockX (coreField source) (coreBlock source), blockY (coreField source) (coreBlock source))
  else (coreX source, coreY source)

/-- Position of a message's destination on its plane; on the local plane an endpoint's is core 0 of its block. -/
def destPlace (dest : Nat) (endpoint express : Bool) : Nat × Nat :=
  if endpoint then
    let f := endpointField dest
    let b := unitBlock (endpointUnit dest)
    if express then (blockX f b, blockY f b) else (coreX (mkCore f b 0), coreY (mkCore f b 0))
  else startPlace dest false express

/-- Position of a waypoint block on a plane; on the local plane its core 0 (DESIGN CHOICE, log 12). -/
def wayPlace (w : Nat) (express : Bool) : Nat × Nat :=
  if express then (blockX (w / 512) (w % 512), blockY (w / 512) (w % 512))
  else (coreX (mkCore (w / 512) (w % 512) 0), coreY (mkCore (w / 512) (w % 512) 0))

/-- Numbers between two, either way. -/
def between (a b : Nat) : List Nat := (List.range (max a b - min a b + 1)).map (min a b + ·)

/-- Fields on the path from field to field that is X then Y, or Y then X (R121). -/
def pathFields (yFirst : Bool) (a b : Nat) : List Nat :=
  let row := if yFirst then b / 8 else a / 8
  let col := if yFirst then a % 8 else b % 8
  ((between (a % 8) (b % 8)).map fun x => row * 8 + x) ++ ((between (a / 8) (b / 8)).map fun y => y * 8 + col)

/-- Fields that a core's route entry leads through, past its waypoint to its destination. -/
def routeFields (c w : Nat) : List Nat := match routeDest c w with
  | none => [coreField c]
  | some (d, ep) =>
    let to' := if ep then endpointField d else coreField d
    if bit w 28 then pathFields (bit w 27) (coreField c) (bits w 43 38) ++ pathFields (bit w 27) (bits w 43 38) to'
    else pathFields (bit w 27) (coreField c) to'

/-- Flits of a message on each plane. -/
def flitsOf (express : Bool) (l : Nat) : Nat := if express then 1 + (l - 48 + 63) / 64 else 1 + (l + 15) / 16

/-- Flits of a message. -/
def FMsg.size (m : FMsg) : Nat := flitsOf m.express m.payload.length

/-- A message of an endpoint to a core or endpoint, on the express plane, X then Y (R45, R118). -/
def unitMsg (s : Hw) (src dest : Nat) (destEndpoint : Bool) (channel kind : Nat) (payload : List Byte) : FMsg :=
  { dest := dest, destEndpoint := destEndpoint, waypoint := none, yFirst := false, express := true, channel := channel,
    source := src, sourceEndpoint := true, beat := s.stk.beat, stroke := s.stk.workStroke,
    epoch := s.routeEpoch.toNat % 256, kind := kind, payload := payload, waiting := flitsOf true payload.length }

/-- An endpoint sends a message. -/
def Hw.unitSend (s : Hw) (src dest : Nat) (destEndpoint : Bool) (channel kind : Nat) (payload : List Byte) : Hw :=
  { s with fabric := s.fabric ++ [unitMsg s src dest destEndpoint channel kind payload] }

/-- A core's message on a route entry, all of it at the source (R77, R118, R122); a response where `response` says so
(R117), and `tok` counts until it is injected (R85). -/
def coreMsg (s : Hw) (c w channel kind : Nat) (response : Bool) (tok : Nat) (payload : List Byte) : Option FMsg :=
  (routeDest c w).map fun (dest, ep) =>
    { dest := dest, destEndpoint := ep, waypoint := if bit w 28 then some (bits w 43 29) else none, yFirst := bit w 27,
      express := bit w 26, channel := channel, source := c, sourceEndpoint := false, beat := s.stk.beat,
      stroke := s.stk.workStroke, epoch := s.routeEpoch.toNat % 256, kind := kind, payload := payload, response := response
      tok := tok, waiting := flitsOf (bit w 26) payload.length }

/-- A core's message joins those that wait at the core's network interface; on the express plane its request is raised at
the block's injection arbiter (R115, R131). -/
def Hw.injectMsg (s : Hw) (c w channel kind : Nat) (response : Bool) (tok : Nat) (payload : List Byte) : Hw :=
  match coreMsg s c w channel kind response tok payload with
  | none => s
  | some m =>
    let s := { s with fabric := s.fabric ++ [m] }
    if m.express then s.arbRaise (coreField c) 1 (coreBlock c) (coreIndex c) m.size else s

/-- SEND injects the bytes of the descriptor src_a on route entry imm [7:0], to receive channel imm [11:8], as a message
of kind imm [15:12] and of class mod [0] (R77, R117, R118; place of the operands PRESUMED, log 11); a payload above 4,096 B is
program error 0x08. Its token counts until the injection. -/
def execSend (c : CoreId) (i : Ins) (s : State) : Out :=
  s.act fun s => (s.fetch c.toNat 9 i fun s =>
      let x := s.core c.toNat
      let d := x.dreg i.srcA.toNat
      if !insClean i { tok := true, srcA := true, mod := 1, imm := 0xFFFF } then s.programError c.toNat 0x01
      else if !dValid d then s.programError c.toNat 0x04
      else if !dInSram d (dRows d) (dCols d) then s.programError c.toNat 0x03
      else if dRows d * rowBytes d > 4096 then s.programError c.toNat 0x08
      else if x.tokFull i.tok.toNat then s
      else s.sramChecked c.toNat fun s =>
        let w := (nget 0 x.routes (i.imm.toNat % 256)).toNat
        (s.onCore c.toNat fun x => (x.tokAdd i.tok.toNat).next).injectMsg c.toNat w (bits i.imm.toNat 11 8)
          (bits i.imm.toNat 15 12) (bit i.mod.toNat 0) i.tok.toNat (descBytes x.sram d))

/-- CHAN binds receive channel imm [3:0] to the region whose start and length the scalars src_a and src_b hold, with its
write pointer at the start and no message counted (R78; place of the operands PRESUMED, log 11). -/
def execChan (c : CoreId) (i : Ins) (s : State) : Out :=
  s.act fun s => (s.issue c.toNat 9 i fun x => guarded i { srcA := true, srcB := true, imm := 0xF } (isS i.srcA && isS i.srcB)
    (let start := (x.sreg i.srcA.toNat).toNat
     let len := (x.sreg i.srcB.toNat).toNat
     if start + len > sramSize then .error 0x03
     else .done { x with chans := nput {} x.chans i.imm.toNat { bound := true, start := start, len := len } }))

/-! ## Flits and their check (R114, R117-R119) -/

/-- The message header of a head flit (R118). -/
def FMsg.header (m : FMsg) : Nat :=
  m.dest % 2 ^ 21 + b2n m.destEndpoint * 2 ^ 21 + m.waypoint.getD 0 % 2 ^ 15 * 2 ^ 22 + b2n m.waypoint.isSome * 2 ^ 37
    + b2n m.yFirst * 2 ^ 38 + b2n m.express * 2 ^ 39 + m.channel % 16 * 2 ^ 40 + (m.payload.length + 4095) % 4096 * 2 ^ 44
    + m.source % 2 ^ 21 * 2 ^ 56 + b2n m.sourceEndpoint * 2 ^ 77 + m.beat % 4096 * 2 ^ 78 + m.stroke % 4 * 2 ^ 90
    + m.epoch % 256 * 2 ^ 92 + m.kind % 16 * 2 ^ 100

/-- Bytes of payload before flit `i`, and the bytes that the flit carries. -/
def FMsg.span (m : FMsg) (i : Nat) : Nat × Nat :=
  if m.express then (if i = 0 then (0, 48) else (48 + 64 * (i - 1), 64)) else (if i = 0 then (0, 0) else (16 * (i - 1), 16))

/-- The data bits of flit `i`: on the express plane the head flit carries payload above the header. -/
def FMsg.flit (m : FMsg) (i : Nat) : Nat :=
  let data := at' m.payload (m.span i).1 (m.span i).2
  if i = 0 then m.header + data * 2 ^ 128 else data

/-- The type field beside flit `i`: 1 head, 2 body, 3 tail (R117). -/
def FMsg.flitType (m : FMsg) (i : Nat) : Nat := if i = 0 then 1 else if i + 1 = m.size then 3 else 2

/-- Virtual channel of a message in a phase: class in bit 1, phase in bit 0 (R117). -/
def FMsg.vc (m : FMsg) (phase : Nat) : Nat := 2 * b2n m.response + phase

/-- The CRC-16 of a flit: polynomial 0x1021 from 0xFFFF over the data bits, least significant first, then the type and the vc
field (R119; these two least significant bit first as well, DEDUCED, log 185). -/
def flitCrc (express : Bool) (data type vc : Nat) : BitVec 16 :=
  let low (n v : Nat) : List Bool := (List.range n).map v.testBit
  (low (if express then 512 else 128) data ++ low 2 type ++ low 2 vc).foldl
    (fun r b => if r.getLsbD 15 != b then (r <<< 1) ^^^ 0x1021 else r <<< 1) 0xFFFF

/-- A flit passes its check where the CRC over the bits that arrive is the CRC that arrives with them. -/
def FMsg.flitOk (m : FMsg) (i phase : Nat) (z : FlitNoise) : Bool :=
  let crc (d : Nat) := flitCrc m.express d (m.flitType i) (m.vc phase)
  decide (z.flit ≠ i) || decide (crc (m.flit i ^^^ z.data.toNat % 2 ^ (if m.express then 512 else 128)) = crc (m.flit i) ^^^ z.crc)

/-- A message as its flits now spell it, where bits of flit `i` changed and its check did not show it. -/
def FMsg.changed (m : FMsg) (z : FlitNoise) : FMsg :=
  let v := m.flit z.flit ^^^ z.data.toNat
  let (off, n) := m.span z.flit
  let h := v % 2 ^ 128
  let m := if z.flit = 0 then
      { m with dest := if bit h 21 then bits h 10 0 else bits h 20 0, destEndpoint := bit h 21
               waypoint := if bit h 37 then some (bits h 36 22) else none, yFirst := bit h 38, channel := bits h 43 40
               source := bits h 76 56, sourceEndpoint := bit h 77, beat := bits h 89 78
               stroke := m.stroke - m.stroke % 4 + bits h 91 90, epoch := bits h 99 92, kind := bits h 103 100 }
    else m
  let data := leBytes n (if z.flit = 0 then v / 2 ^ 128 else v)
  { m with payload := padTo m.payload.length (m.payload.take off ++ data ++ m.payload.drop (off + n)) }

/-! ## Buffers and credits (R125) -/

/-- The same input buffer of the same router. -/
def FBuf.same (a b : FBuf) : Bool :=
  decide (a.x = b.x) && decide (a.y = b.y) && decide (a.port = b.port) && decide (a.phase = b.phase)

/-- Flits that one message has in a buffer. -/
def FMsg.inBuf (m : FMsg) (b : FBuf) : Nat := ((m.bufs.filter b.same).map (·.flits)).sum

/-- Messages that share the virtual channels of one. -/
def FMsg.shares (m o : FMsg) : Bool := decide (m.express = o.express) && decide (m.response = o.response)

/-- Field, block and core of a place on a plane. -/
def placeOf (express : Bool) (x y : Nat) : Nat × Nat × Nat :=
  if express then ((blockAt x y).1, (blockAt x y).2, 0)
  else (coreField (coreAt x y), coreBlock (coreAt x y), coreIndex (coreAt x y))

/-- TST_BP withholds the credits of a router's input port in this cycle (R143). -/
def Hw.bpHolds (s : Hw) (express : Bool) (b : FBuf) : Bool :=
  let t := s.tst.bp.toNat
  let (f, blk, k) := placeOf express b.x b.y
  s.tst.unlocked && bit t 63 && decide (bits t 5 0 = f) && decide (bits t 14 6 = blk) && (express || decide (bits t 20 15 = k))
    && decide (bit t 21 = express) && decide (bits t 24 22 = b.port) && (bit t 29 || decide (s.now % 16 < bits t 28 25))

/-- Credits for a buffer of message `m`'s virtual channel: a local router buffers 4 flits per virtual channel and input port, an
express router 8 (R125). A credit is back as soon as its flit has left the buffer: how long its return takes is timing (log 222). `others`
are the messages beside `m`, and `b.flits` what `m` holds there. -/
def Hw.credits (s : Hw) (others : List FMsg) (m : FMsg) (b : FBuf) : Nat :=
  if s.bpHolds m.express b then 0
  else (if m.express then 8 else 4) - ((others.filter m.shares).map (·.inBuf b)).sum - b.flits

/-- The buffer at which a message enters the fabric: its own router's local port, or the block bus (R115). -/
def FMsg.entry (m : FMsg) : FBuf :=
  let p := startPlace m.source m.sourceEndpoint m.express
  { x := p.1, y := p.2, port := 4, phase := if m.waypoint.isSome then 0 else 1, flits := 0 }

/-- The place a message makes for from a buffer, and its phase on the way: the waypoint on phase 0, from there the destination
on phase 1 (R121). -/
def FMsg.aim (m : FMsg) (b : FBuf) : (Nat × Nat) × Nat := match m.waypoint with
  | some w => if b.phase = 0 ∧ (b.x, b.y) ≠ wayPlace w m.express then (wayPlace w m.express, 0)
      else (destPlace m.dest m.destEndpoint m.express, 1)
  | none => (destPlace m.dest m.destEndpoint m.express, 1)

/-- One step along a coordinate. -/
def towards (a b : Nat) : Nat := if a < b then a + 1 else if b < a then a - 1 else a

/-- The next place by dimension order (R121). -/
def hopPlace (yFirst : Bool) (p t : Nat × Nat) : Nat × Nat :=
  if yFirst then (if p.2 ≠ t.2 then (p.1, towards p.2 t.2) else (towards p.1 t.1, p.2))
  else (if p.1 ≠ t.1 then (towards p.1 t.1, p.2) else (p.1, towards p.2 t.2))

/-- Input port at which a router takes a message that moved from one place to another: 0 N, 1 S, 2 E, 3 W, 4 local. -/
def inPort (x y x' y' : Nat) : Nat :=
  if y < y' then 0 else if y' < y then 1 else if x' < x then 2 else if x < x' then 3 else 4

/-- The buffer that a message's head takes next from a buffer; none at the destination. -/
def FMsg.nextBuf (m : FMsg) (b : FBuf) : Option FBuf :=
  let (t, phase) := m.aim b
  if (b.x, b.y) = t then none
  else
    let p := hopPlace m.yFirst (b.x, b.y) t
    some { x := p.1, y := p.2, port := inPort b.x b.y p.1 p.2, phase := phase, flits := 0 }

/-- Another message stands before message `n` in its head's buffer: its head has left the buffer while flits of it are there,
or came into it earlier. Messages are listed in the order in which their heads last moved. -/
def Hw.isBehind (s : Hw) (n : Nat) (m : FMsg) (b : FBuf) : Bool :=
  (numbered s.fabric).any fun e => decide (e.1 ≠ n) && m.shares e.2 && (match e.2.bufs with
    | [] => false
    | h :: rest => (h.same b && decide (e.1 < n)) || rest.any fun k => k.same b && decide (k.flits ≠ 0))

/-- A head may enter a buffer of a link only once the tail of the message before it has: body flits name no message. The block
bus keeps its sources apart (log 186). -/
def Hw.mayEnter (s : Hw) (n : Nat) (m : FMsg) (b : FBuf) : Bool :=
  decide (b.port = 4) || !(numbered s.fabric).any fun e => decide (e.1 ≠ n) && m.shares e.2 && e.2.bufs.any b.same
    && decide ((e.2.bufs.dropWhile fun k => !k.same b).tail.any (fun k => decide (k.flits ≠ 0)) ∨ e.2.waiting ≠ 0)

/-- A message at its source may enter the fabric: no earlier one of the same source and plane waits there (R124). -/
def Hw.firstWaits (s : Hw) (n : Nat) (m : FMsg) : Bool :=
  !(numbered s.fabric).any fun e => decide (e.1 < n) && decide (e.2.source = m.source)
    && decide (e.2.sourceEndpoint = m.sourceEndpoint) && decide (e.2.express = m.express) && decide (e.2.waiting ≠ 0)

/-- Flits close up behind the head: each buffer takes what the one behind it holds, as far as it has credits. -/
def closeUp (room : FBuf → Nat) (a : FBuf) : List FBuf → List FBuf
  | [] => [a]
  | b :: rest =>
    let k := min b.flits (room a)
    { a with flits := a.flits + k } :: closeUp room { b with flits := b.flits - k } rest

/-- Cycles of a hop: local 3, express 4, and 4 on the block bus (R114, R115). -/
def FMsg.latency (m : FMsg) : Nat := if m.express then 4 else 3

/-- Take `k` flits from the source into the buffer at which the message enters. -/
def FMsg.injected (m : FMsg) (k : Nat) : FMsg :=
  let bufs := match m.bufs.getLast? with
    | none => [{ m.entry with flits := k }]
    | some b => m.bufs.dropLast ++ [{ b with flits := b.flits + k }]
  { m with bufs := bufs, waiting := m.waiting - k }

/-- Flits go to the express router through the injection arbiter: a core's on the express plane (R115). -/
def FMsg.byArbiter (m : FMsg) : Bool := m.express && !m.sourceEndpoint

/-- The head of message `n` moves on: out of the fabric at its destination, or into the next router against credits. -/
def Hw.headStep (s : Hw) (n : Nat) (m : FMsg) : FMsg := match m.bufs with
  | [] => m
  | b :: rest =>
    if s.now < m.ready || s.isBehind n m b then m
    else match m.nextBuf b with
      | none => { m with ejected := m.ejected + b.flits, bufs := { b with flits := 0 } :: rest }
      | some t =>
        let k := min b.flits (s.credits (s.fabric.eraseIdx n) m t)
        if k = 0 || !s.mayEnter n m t then m
        else { m with bufs := { t with flits := k } :: { b with flits := b.flits - k } :: rest, ready := s.now + m.latency }

/-- One move of message `n`: its head, the flits behind it, and those that its source still holds. -/
def Hw.moved (s : Hw) (n : Nat) (m : FMsg) : FMsg :=
  let room := s.credits (s.fabric.eraseIdx n) m
  let m := s.headStep n m
  let m := match m.bufs with
    | [] => m
    | a :: rest => { m with bufs := closeUp room a rest }
  let m := if m.byArbiter || m.waiting = 0 || !s.firstWaits n m then m
    else
      let k := min m.waiting (room (m.bufs.getLast?.getD m.entry))
      if k = 0 then m else { m.injected k with ready := if m.bufs.isEmpty then s.now + m.latency else m.ready }
  if m.waiting ≠ 0 then m
  else { m with bufs := match m.bufs with
    | [] => []
    | a :: rest => a :: (rest.reverse.dropWhile fun b => decide (b.flits = 0)).reverse }

/-- Where a flit stands. -/
def FMsg.standsIn (m : FMsg) (i : Nat) : Option FBuf :=
  if i < m.ejected then none
  else (m.bufs.foldl (fun (r : Nat × Option FBuf) b => match r.2 with
    | some b => (r.1, some b)
    | none => if i < r.1 + b.flits then (r.1, some b) else (r.1 + b.flits, none)) (m.ejected, none)).2

/-- The flits that a move brought past a check, with the place of the check: into a router, or on the express plane out over
the block bus, which checks at unpacking as it does at packing (R119). -/
def received (m m' : FMsg) : List (Nat × FBuf) :=
  (List.range m.size).filterMap fun i => match m'.standsIn i, m.standsIn i with
    | some b, some a => if a.same b then none else some (i, b)
    | some b, none => some (i, b)
    | none, _ => if m.express ∧ m.ejected ≤ i ∧ i < m'.ejected then m.bufs.head?.map fun b => (i, { b with port := 4 }) else none

/-- A router's error counts and captures (R120, R141). -/
def fabErr (x : Field) (block port : Nat) (express : Bool) : Field :=
  { x with fabBlock := BitVec.ofNat 9 block, fabPlane := express, fabPort := BitVec.ofNat 3 port, fabFlag := true,
           fabExpress := if express then satInc x.fabExpress else x.fabExpress,
           fabLocal := if express then x.fabLocal else satInc x.fabLocal }

/-- The routers check the flits they received: a head flit that fails is absorbed with what follows it, another is poisoned and
forwarded; an injected error counts as a failed check (R119, R120, R143). -/
def Hw.checkFlits (z : FlitNoise) : List (Nat × FBuf) → Hw → FMsg → Hw × FMsg
  | [], s, m => (s, m)
  | (i, b) :: rest, s, m =>
    let (f, blk, k) := placeOf m.express b.x b.y
    let loc := f * 512 + blk + b.port * 2 ^ 15 + b2n m.express * 2 ^ 18
    let hit := if m.express || decide (bits s.tst.inj.toNat 36 31 = k) then s.injHit 1 loc else none
    let s := hit.getD s
    if hit.isSome || !m.flitOk i b.phase z then
      let s := (s.onFld f fun x => fabErr x blk b.port m.express).raise 5
      if i = 0 then (s, { m with absorbed := true }) else s.checkFlits z rest { m with poisoned := true }
    else s.checkFlits z rest (if z.flit = i ∧ z.data ≠ 0 then m.changed z else m)

/-- The token of a SEND counts down once its message is injected (R85). -/
def Hw.sendDone (s : Hw) (before after : FMsg) : Hw :=
  if before.waiting ≠ 0 ∧ after.waiting = 0 ∧ !before.sourceEndpoint then s.onCore before.source fun x => x.tokDone before.tok else s

/-- No bit of a flit is changed on the way. -/
def FlitNoise.none : FlitNoise := { flit := 0, data := 0, crc := 0 }

/-- The injection arbiter's holder, a core, has one flit of its first waiting message taken over the block bus into the express
router; none where no flit of it can move (R115, R125, R132). -/
def Hw.expressInject (s : Hw) (c : Nat) : Option Hw :=
  match s.fabric.findIdx? fun m => m.byArbiter && decide (m.source = c) && decide (m.waiting ≠ 0) with
  | none => none
  | some n => (s.fabric[n]?).bind fun m =>
    if m.absorbed then
      let m' := { m with waiting := m.waiting - 1 }
      let s := s.sendDone m m'
      some { s with fabric := if m'.waiting = 0 then s.fabric.eraseIdx n else s.fabric.set n m' }
    else if s.credits (s.fabric.eraseIdx n) m (m.bufs.getLast?.getD m.entry) = 0 then none
    else
      let m' := m.injected 1
      let m' := if m.bufs.isEmpty then { m' with ready := s.now + m.latency } else m'
      let (s, m') := (s.sendDone m m').checkFlits FlitNoise.none (received m m') m'
      let m' := if m'.absorbed then { m' with bufs := [] } else m'
      let out := s.fabric.eraseIdx n
      some { s with fabric := if m'.absorbed && decide (m'.waiting = 0) then out
                              else if m.bufs.isEmpty then out ++ [m'] else s.fabric.set n m' }

/-! ## Arrival at a core (R78) -/

/-- The first message that has arrived for a core. -/
def Hw.arrivedFor (s : Hw) (c : Nat) : Option Nat :=
  s.fabric.findIdx? fun m => m.arrived && !m.destEndpoint && decide (m.dest = c)

/-- Arrival tasks of a channel whose count has reached theirs (R74). -/
def CoreState.arrivalTasks (x : CoreState) (ch count : Nat) : List Nat :=
  (List.range 32).filter fun t =>
    let w := x.task t
    taskValid w && decide (taskKind w = 1) && decide (bits w 15 12 = ch) && decide (bits w 23 16 ≤ count)
      && decide (bits w 23 16 ≠ 0)

/-- A core writes a message's payload at the channel's write pointer and counts it; arrival tasks whose count it reaches are
triggered, which clears the count (R74, R78). -/
def Hw.receive (s : Hw) (c : Nat) (m : FMsg) : Hw :=
  let x := s.core c
  let ch := nget {} x.chans m.channel
  let count := ch.count + 1
  let ts := x.arrivalTasks m.channel count
  let ch' := { ch with wp := ch.wp + m.payload.length, count := if ts.isEmpty then count else 0 }
  (s.setCore c { x with sram := nputList 0 x.sram (ch.start + ch.wp) m.payload, chans := nput {} x.chans m.channel ch' }).triggerTasks
    c ts

/-- A core takes a message: its payload is written at the channel's write pointer and counted (R78), after a read of the words
that it covers in part (R56). A message that does not fit is program error 0x08, also where its channel is not bound, which has no
space left (DESIGN CHOICE, log 192), and one whose place lies outside the SRAM is 0x03 (R54). A poisoned one writes and counts
nothing (R120); a gated core, as one without an image is (R89), a stopped interface of a dead core included, takes nothing. -/
def execCoreMessageArrival (c : CoreId) (s : State) : Out :=
  s.act fun s => (match s.arrivedFor c.toNat with
    | none => s
    | some n =>
      match s.fabric[n]? with
      | none => s
      | some m =>
        let s := { s with fabric := s.fabric.eraseIdx n }
        let x := s.core c.toNat
        let ch := nget {} x.chans m.channel
        let len := m.payload.length
        if m.poisoned || x.dead || x.gated || !x.mapped then s
        else if !ch.bound || decide (ch.wp + len > ch.len) then s.programError c.toNat 0x08
        else if ch.start + ch.wp + len > sramSize then s.programError c.toNat 0x03
        else if wholeSpan (ch.start + ch.wp, len) then s.receive c.toNat m
        else s.sramChecked c.toNat fun s => s.receive c.toNat m)

end Sys2Proof.Machine
end

