-- ==== Sys2Proof/Machine/Recover.lean ====
section
/-!
DEFINITION. Recovery as every detection starts it: the beat it names (R325), the hold (R327), the start limit and the
escalations (R328), core death and the choice of a spare (R330), boundary actions (R23-R26).
-/
namespace Sys2Proof.Machine

/-! ## The beat that a detection names -/

/-- The beat in progress. -/
def Hw.curBeat (s : Hw) : Nat × Nat := (s.stk.workStroke, s.stk.beat)

/-- A beat that has not committed: the one in progress or the one before it (R324). -/
def Hw.uncommittedBeat (s : Hw) (b : Nat × Nat) : Bool :=
  decide (b = s.curBeat) || decide (s.stk.uncommitted = some b)

/-- Times that a beat has been started. -/
def Hw.startsOf (s : Hw) (b : Nat × Nat) : Nat := if b = s.curBeat then s.flt.starts else s.flt.prevStarts

/-- The earlier of two beats. -/
def earlier (a b : Nat × Nat) : Nat × Nat := if a.1 < b.1 ∨ (a.1 = b.1 ∧ a.2 ≤ b.2) then a else b

/-! ## Opening a recovery (R327-R329) -/

/-- A detection that names a beat, of a failure in cycle `failed`: it joins the hold in progress, or opens a recovery, or stops the replay in progress;
the one that would require a fifth start is uncontained (R328, R329). With no billet running there is nothing to replay,
and it is only reported. -/
def Hw.openRecovery (s : Hw) (b : Nat × Nat) (i : RecIn) (failed : Nat) : Hw :=
  let i := { i with beat := b.2 }
  if !s.live then s.record i
  else if s.flt.stopAll then s.record { i with outcome := .uncontained }
  else
    let r := s.formRecord i
    match s.flt.recovery with
    | some v =>
      let n := earlier (v.stroke, v.beat) b
      if s.startsOf n ≥ 4 then s.uncontain i
      else
        { s with flt := { s.flt with recovery := some { v with stroke := n.1, beat := n.2, hold := true,
                                                               failedAt := min v.failedAt failed, records := v.records ++ [r] } } }
    | none =>
      if s.startsOf b ≥ 4 then s.uncontain i
      else { s with flt := { s.flt with recovery := some { stroke := b.1, beat := b.2, failedAt := failed, hold := true,
                                                           records := [r], remaps := [], page := none } } }

/-! ## Boundary actions (R23, R25, R26) -/

/-- Two actions conflict if they share a warden or a rail group. -/
def BAction.conflicts (a b : BAction) : Bool :=
  a.wardens.any (fun f => b.wardens.contains f) || a.rails.any (fun r => b.rails.contains r)

/-- The action is in one field: its warden carries it out alone (R24). -/
def BAction.inField (a : BAction) : Bool := decide (a.wardens.length ≤ 1) && a.rails.isEmpty

/-- A warden can be reached by a boundary order: its link is up and the Gweku is not restarting (R26, R341). -/
def Hw.reaches (s : Hw) (f : Nat) : Bool := (s.fld f).gwekuLink && !s.glb.restarting

/-- Orders of an action reach every warden that it needs: an in-field action needs none of the Gweku. -/
def Hw.orders (s : Hw) (a : BAction) : Bool := a.inField || a.wardens.all s.reaches

/-- Start every action that conflicts with none before it and whose orders arrive, in the order of their requests. -/
def startActions (orders : BAction → Bool) (as : List BAction) : List BAction :=
  as.foldl (fun done a =>
    if a.started || done.any (a.conflicts ·) || !orders a then done ++ [a]
    else done ++ [{ a with started := true, awaits := a.wardens }]) []

/-- The lowest field that an action involves. -/
def BAction.lowest (a : BAction) : Nat := a.wardens.foldl min (a.rails.foldl (fun m r => min m (2 * r)) 48)

/-- A request of this cycle that a lower field of the same cycle overtakes: one that has not started, or a remap that no
warden has acknowledged. -/
def BAction.movable (a : BAction) (now : Nat) : Bool :=
  decide (a.asked = now) && (!a.started || (match a.act with
    | .remap _ => decide (a.awaits = a.wardens)
    | _ => false))

/-- A request takes its place behind those before it; requests of one cycle stand by the lowest field they involve (R25). -/
def placeAction (now : Nat) (as : List BAction) (a : BAction) : List BAction :=
  let behind (b : BAction) : Bool := b.movable now && decide (a.lowest < b.lowest)
  (as.filter fun b => !behind b) ++ { a with asked := now } :: (as.filter behind).map fun b => { b with started := false, awaits := [] }

/-- An action is asked for: it starts at once unless it conflicts with one before it. -/
def Hw.addAction (s : Hw) (a : BAction) : Hw :=
  { s with flt := { s.flt with actions := startActions s.orders (placeAction s.now s.flt.actions a) } }

/-! ## Core death (R330) -/

/-- The core whose work a core does: its own, or, for a spare in use, the work of the original core. -/
def Hw.workOf (s : Hw) (c : Nat) : Nat :=
  match s.flt.remaps.find? fun r => decide (r.2 = c) with
  | some r => r.1
  | none => c

/-- The alternate placement table of the running billet. -/
def Hw.alts (s : Hw) : List Alt := match s.running with
  | some l => l.img.core.alts
  | none => []

/-- A spare that a remap may use: a working core, not dead, not in use by an earlier remap. -/
def Hw.spareOk (s : Hw) (c : Nat) : Bool :=
  coreOk c && !s.isFailed c && !s.isPendingDead c && !s.flt.declared.contains c
    && !s.flt.remaps.any (fun r => decide (r.2 = c))
    && !(s.flt.recovery.any fun v => v.remaps.any fun r => decide (r.spare = c))

/-- The first alternate placement entry that a warden may take. -/
def Hw.altFor (s : Hw) (work : Nat) : Option Alt :=
  s.alts.find? fun a => decide (a.failed = work) && s.spareOk a.spare

/-- Detour set `n` of the running billet. -/
def Hw.detour (s : Hw) (n : Nat) : Option Detour := match s.running with
  | some l => l.img.fabric.detours[n]?
  | none => none

/-- Every field on the old or new route of each entry that a detour set changes (R24, R127). -/
def Hw.setFields (s : Hw) (n : Nat) : List Nat := match s.detour n with
  | some d => (d.entries.flatMap fun e =>
      let x := s.core e.1
      routeFields e.1 e.2.2.toNat ++ (if x.mapped then routeFields e.1 (nget 0 x.routes e.2.1).toNat else [])).eraseDups
  | none => []

/-- Fields whose wardens a remap concerns: the core's own, those of its mesh neighbours, and every field on an old or new
route of the detour set (R23, R24). -/
def Hw.remapFields (s : Hw) (c set : Nat) : List Nat :=
  (coreField c :: (neighbours c).map coreField ++ s.setFields set).eraseDups

/-- A core is dead: it enters the pending list; outside the core map, or with no billet running, it is reported; otherwise
a spare takes over its work, or the fault is uncontained (R330, R332). `kind` tells how it was found. -/
def Hw.coreDead (s : Hw) (c kind : Nat) (b : Nat × Nat) (reporters : List Nat) : Hw :=
  if s.flt.declared.contains c then s
  else
    let work := s.workOf c
    let failed := if (s.core c).dead then (s.core c).diedAt else s.now
    let mapped := s.live && (s.core c).mapped
    let alt := s.altFor work
    let s := s.onCore c fun x => { x with stopped := true }
    let s := { s with flt := { s.flt with declared := s.flt.declared ++ [c]
                                          pending := if s.flt.pending.contains c then s.flt.pending else s.flt.pending ++ [c] } }
    let i : RecIn := { cls := 0x04, loc := locCore c, beat := b.2, data := dat (kind :: reporters) }
    if !mapped then s.record i
    else match alt with
      | none => s.uncontain { i with detail := 1 }
      | some a =>
        let r : Remap := { dead := c, original := work, spare := a.spare, detour := a.detour }
        let ac : BAction := { act := .remap r, wardens := s.remapFields c a.detour, rails := [], awaits := [],
                              started := false, byDriver := false }
        if !s.orders ac then s.uncontain i
        else
          let s := s.openRecovery b i failed
          match s.flt.recovery with
          | none => s
          | some v => { s with flt := { s.flt with recovery := some { v with remaps := v.remaps ++ [r] } } }.addAction ac

end Sys2Proof.Machine
end

