-- ==== Sys2Proof/Machine/Egress.lean ====
section
/-!
DEFINITION. What a port has to send: messages cut into frames (R298, R301), and their way out by credit and replay room (R299, R300).
-/
namespace Sys2Proof.Machine

/-- A port carries traffic: UP or RETIRING (R296). -/
def Port.carries (x : Port) : Bool := decide (x.state = .up) || decide (x.state = .retiring)

/-- The bytes of a message: header words 0-3 and payload (R301). -/
def LMsg.bytes (m : LMsg) : List Byte :=
  let w0 := m.destRank.toNat + m.srcRank.toNat * 2 ^ 16 + m.kind * 2 ^ 32 + m.ttl % 16 * 2 ^ 40 + m.stroke % 4 * 2 ^ 44
    + m.payload.length * 2 ^ 46
  leBytes 8 w0 ++ leBytes 8 (m.word1 % 2 ^ 44 + m.gen.toNat * 2 ^ 44) ++ leBytes 16 m.specific ++ m.payload

/-- Cut bytes into frame payloads of at most 256 B, in 16 B units (R298). -/
def framesOf : Nat → List Byte → List (List Byte)
  | 0, _ => []
  | n + 1, bs => if bs.isEmpty then [] else
      let c := bs.take 256
      padTo ((c.length + 15) / 16 * 16) c :: framesOf n (bs.drop 256)

/-- The DATA frames of a message from a sequence number on (R298, R301). -/
def msgFrames (m : LMsg) (seq : Nat) : List TxFrame :=
  let fs := framesOf 20 m.bytes
  (List.range fs.length).map fun i =>
    { seq := (seq + i) % 4096, vc := m.vc, som := decide (i = 0), eom := decide (i + 1 = fs.length),
      payload := fs.getD i [] }

/-- Send again frames that a resend has named, the oldest first: each takes a credit of its channel, and the next waits until
there is one (R299, R300). -/
def Port.sendAgain : Nat → Port → Port
  | 0, x => x
  | n + 1, x => match x.replay[x.replay.length - x.again]? with
    | none => { x with again := 0 }
    | some f =>
      if nget 0 x.txCredit f.vc = 0 then x
      else Port.sendAgain n { x with again := x.again - 1, errReplays := BitVec.ofNat 32 (satAdd 32 x.errReplays.toNat 1)
                                     txCredit := nput 0 x.txCredit f.vc (nget 0 x.txCredit f.vc - 1) }

/-- Send the first waiting message of a channel that has credit and replay room; at most 2,047 frames stay
unacknowledged (R299, R300). -/
def Port.pumpOne (x : Port) : Port :=
  let fits (m : LMsg) : Bool :=
    let n := (32 + m.payload.length + 255) / 256
    decide (n ≤ nget 0 x.txCredit m.vc) && decide (x.replay.length + n ≤ 2047)
  -- the first message of each channel may go; a later one of the same channel may not pass it
  let firsts := (List.range x.outQ.length).filter fun i =>
    match x.outQ[i]? with
    | none => false
    | some m => !(x.outQ.take i).any fun q => decide (q.vc = m.vc)
  match firsts.find? fun i => (x.outQ[i]?).any fits with
  | none => x
  | some i =>
    match x.outQ[i]? with
    | none => x
    | some m =>
      let fs := msgFrames m x.txNext.toNat
      { x with outQ := x.outQ.eraseIdx i, replay := x.replay ++ fs, txNext := x.txNext + BitVec.ofNat 12 fs.length
               txCredit := nput 0 x.txCredit m.vc (nget 0 x.txCredit m.vc - fs.length) }

/-- Send as many waiting messages as credit and room allow, after the frames that are to be sent again. -/
def Port.pump (x : Port) : Port :=
  if x.carries then
    let x := x.sendAgain x.again
    if x.again = 0 then (List.range x.outQ.length).foldl (fun x _ => x.pumpOne) x else x
  else x

/-- A transfer of an input of the egress arbiter: the oldest message of that input is through with its last one, and leaves as
credit allows (R131, R303). -/
def Port.passed (input : Nat) (x : Port) : Port :=
  match x.egress.find? fun e => decide (e.1 = input) with
  | none => x
  | some (_, n, m) =>
    let i := x.egress.findIdx fun e => decide (e.1 = input)
    if n ≤ 1 then Port.pump { x with egress := x.egress.eraseIdx i, outQ := x.outQ ++ [m] }
    else { x with egress := x.egress.set i (input, n - 1, m) }

end Sys2Proof.Machine
end

