-- ==== Sys2Proof/Machine/Arbiter.lean ====
section
/-!
DEFINITION. The common arbiter (R131-R141) and the test registers (R142, R143).
-/
namespace Sys2Proof.Machine

/-! ## Kinds (R131) -/

/-- Length of a transfer of a kind, in 1/125 of a core cycle: a port cycle of 1.2 GHz, a core cycle, 256 B at the port's
line rate, 4 KiB of the tongs (R131). -/
def arbLen (kind : Nat) : Nat := [250, 125, 384, 125, 125, 38400].getD kind 125

/-- Arbitration period in transfers. -/
def arbPeriod (kind : Nat) : Nat := [8, 4, 16, 8, 8, 16].getD kind 8

/-- Inputs of a kind. -/
def arbInputs (kind : Nat) : Nat := [65, 65, 6, 4, 4, 5].getD kind 0

/-- Instances of a kind in a field. -/
def arbInstances (f kind : Nat) : Nat :=
  match kind with
  | 0 => 396 | 1 => 396 | 2 => if twoSites f then 2 else 1 | 3 => 1 | 4 => 1 | 5 => 2 | _ => 0

/-- An arbiter that exists. -/
def arbExists (f kind inst : Nat) : Bool := decide (f < 48) && decide (kind < 6) && decide (inst < arbInstances f kind)

/-! ## The data phase (R132, R134-R136, R139) -/

/-- Time of the last stroke boundary, from which periods are counted, in 1/125 of a core cycle. -/
def Hw.arbOrigin (s : Hw) : Nat := nget 0 s.stk.bounds s.stk.num.toNat * 125

/-- The resource cycle of a core cycle, from the last stroke boundary on. -/
def Hw.arbCycle (s : Hw) (kind now : Nat) : Nat := (now * 125 - s.arbOrigin) / arbLen kind

/-- The tenure in its data phase at a time: the latest that has started (R132). -/
def Arb.holderAt (a : Arb) (time : Nat) : Option Tenure := a.tenures.find? fun t => decide (t.start ≤ time)

/-- TST_CRED withholds a port's credits (R143, R300). -/
def Hw.withholds (s : Hw) (p : Nat) : Bool :=
  s.tst.unlocked && s.tst.cred.getLsbD 63 && decide (bits s.tst.cred.toNat 5 0 = p)

/-- Block at which a field-level resource is attached (R116). -/
def arbBlock (kind inst : Nat) : Nat := match kind with
  | 2 => unitBlock (6 + inst)
  | 3 => unitBlock 0
  | 4 => unitBlock 1
  | 5 => unitBlock (4 + inst)
  | _ => inst

/-- The express router's block bus at a block, whose credits the express side of a resource needs. -/
def busOf (f block : Nat) : FBuf := { x := blockX f block, y := blockY f block, port := 4, phase := 1, flits := 0 }

/-- Lines of a core's vertical port transfers. -/
def portLines (q : List PortOp) : Nat := (q.map fun o => (dRows o.desc * rowBytes o.desc + 63) / 64).sum

/-- A piece of a page is copied through a tongs queue's arbiter: of the oldest order of that input whose round has pieces left
(R131, R279). -/
def Hw.pieceCopied (s : Hw) (queue input : Nat) : Hw :=
  match s.tng.orders.find? fun o => decide (o.queue = queue) && decide (o.input = input) && !o.todo.isEmpty with
  | none => s
  | some o => { s with tng := { s.tng with orders := s.tng.orders.map fun q => if q = o then { o with todo := o.todo.tail } else q } }

/-- One transfer of an arbiter's holder: none where the resource stalls it or the holder moves no data, since nothing checks
that it does (R132, R139): a core without a transfer or dead, a link without a credit or whose credits TST_BP withholds, a Leash
port that carries no frame. -/
def Hw.arbMove (s : Hw) (f kind inst input : Nat) : Option Hw :=
  let bus := if s.bpHolds true (busOf f (arbBlock kind inst)) then none else some s
  match kind with
  | 0 => if input = 64 then bus
      else
        let c := mkCore f inst input
        let x := s.core c
        if x.dead || decide (portLines x.portQ ≤ x.portMoved) then none
        else some (s.setCore c { x with portMoved := x.portMoved + 1, portLast := s.now })
  | 1 => if input = 64 then bus else s.expressInject (mkCore f inst input)
  | 2 => match endpointPort (mkEndpoint f (6 + inst)) with
      | some p => if (s.port p).carries then bus.map fun s => s.onPort p (Port.passed input) else none
      | none => none
  | 5 => bus.map fun s => s.pieceCopied (2 * f + inst) input
  | _ => bus

/-- A request's state after one of its transfers: done after the last (R132, R134). -/
def Arb.took (a : Arb) (i now : Nat) : Arb :=
  let r := nget { count := 0 } a.reqs i
  let ts := a.tenures.map fun t => if t.input = i then { t with moved := t.moved + 1 } else t
  if r.progress + 1 ≥ r.count then
    { a with lastMove := now, reqs := nerase i a.reqs, tenures := ts.filter fun t => decide (t.input ≠ i) }
  else { a with lastMove := now, tenures := ts
                reqs := ninsert i { r with progress := r.progress + 1, waited := 0, flagged := false } a.reqs }

/-- An arbiter at the start of a resource cycle: the holder moves one transfer unless the resource stalls it, earlier tenures
are over, and every other raised request waits (R132, R136). -/
def Hw.arbStep (s : Hw) (k : Nat) : Hw :=
  let f := k / 65536
  let kind := k / 512 % 128
  let time := s.now * 125
  let a := s.arb k
  let a : Arb := { a with tenures := (a.tenures.filter fun t => decide (time < t.start)) ++ (a.holderAt time).toList }
  match a.holderAt time with
  | none => s.setArb k (a.reqs.foldl (fun a e => a.waits e.1 e.2) a)
  | some h =>
    let begins := decide (h.moved = 0) && decide (time < h.start + arbLen kind)
    match s.arbMove f kind (k % 512) h.input with
    | none => s.setArb k (a.reqs.foldl (fun a e => a.waits e.1 e.2) (if begins then { a with lastMove := s.now } else a))
    | some s' =>
      s'.setArb k ((a.reqs.filter fun e => decide (e.1 ≠ h.input)).foldl (fun a e => a.waits e.1 e.2) (a.took h.input s.now))

/-- Every arbiter in use for which a resource cycle starts with this core cycle. -/
def Hw.arbTick (s : Hw) : Hw :=
  s.arbs.foldl (fun s e =>
    let kind := e.1 / 512 % 128
    if e.2.reqs.isEmpty || decide (s.arbCycle kind s.now = s.arbCycle kind (s.now - 1)) then s else s.arbStep e.1) s

/-! ## Decisions (R132-R135) -/

/-- Owner of a period: slot table entry, none where it is 0xFF (R133). -/
def Arb.owner (a : Arb) (period : Nat) : Option Nat :=
  let b := a.slots.getD (period % a.slots.length) 0xFF
  if b = 0xFF then none else some b.toNat

/-- Inputs that still request after cycle `d + 1`: those raised, less the one whose last transfer is in it (R132). -/
def Arb.inputs (a : Arb) (ending : Option Nat) : List Nat :=
  (a.reqs.map (·.1)).filter fun i => decide (some i ≠ ending)

/-- The least recently granted of some inputs; inputs never granted come first, ties go to the lowest (R133). -/
def Arb.leastRecent (a : Arb) (is : List Nat) : Option Nat :=
  match is.find? fun i => !a.lru.contains i with
  | some i => some i
  | none => a.lru.reverse.find? fun i => is.contains i

/-- The owner that takes the resource from any other input in cycle `d` of SLOT ranking: of the period that begins two cycles
later, or of the period of `d`, where it requests (R133, R134). -/
def Arb.revoker (a : Arb) (kind d : Nat) (is : List Nat) : Option Nat :=
  let p := arbPeriod kind
  let next := if (d + 2) % p = 0 then (a.owner ((d + 2) / p)).filter is.contains else none
  match next with
  | some o => some o
  | none => (a.owner (d / p)).filter is.contains

/-- The winner of a decision in cycle `d` (R133, R135). -/
def Arb.winner (a : Arb) (kind d : Nat) (is : List Nat) (holder : Option Nat) : Option Nat :=
  if a.fixed then is.foldl (fun b i => some (max (b.getD 0) i)) none
  else match (a.revoker kind d is).filter fun o => decide (some o ≠ holder) with
    | some o => some o
    | none => a.leastRecent (is.filter fun i => decide (some i ≠ holder))

/-- Extra cycles that TST_ARB puts before a grant of an input (R143). -/
def Hw.arbDelay (s : Hw) (f kind inst i : Nat) (n : Nat) : Nat :=
  let t := s.tst.arb.toNat
  let every := bits t 40 33
  if s.tst.unlocked && bit t 63 && decide (bits t 5 0 = f) && decide (bits t 8 6 = kind) && decide (bits t 17 9 = inst)
      && (decide (bits t 24 18 = 0x7F) || decide (bits t 24 18 = i)) && (decide (every ≤ 1) || decide (n % every = 0))
  then bits t 32 25 else 0

/-- Grant an input: its data phase starts in cycle `d + 2` (R132, R136). -/
def Arb.grant (a : Arb) (start i : Nat) : Arb :=
  { a with tenures := { input := i, start := start } :: a.tenures.filter fun t => decide (t.start < start)
           lru := i :: a.lru.filter fun j => decide (j ≠ i)
           grants := nput 0 a.grants i (satAdd 64 (nget 0 a.grants i) 1), perturbed := a.perturbed + 1 }

/-- Whether the tenure granted last ends after cycle `d + 1`: its request is then done, or a FIXED tenure has then had its P
transfers (R132, R133, R135). `moves` says whether it moves a transfer in cycle `d + 1`. -/
def Arb.ends (a : Arb) (kind : Nat) (t : Tenure) (moves : Bool) : Option (Option Nat) :=
  let r := nget { count := 0 } a.reqs t.input
  if r.progress + b2n moves ≥ r.count then some (some t.input)
  else if a.fixed && decide (t.moved + b2n moves ≥ arbPeriod kind) then some none
  else none

/-- A decision in the resource cycle of the present time (R132-R135). -/
def Hw.arbDecide (s : Hw) (f kind inst : Nat) : Hw :=
  let k := arbKey f kind inst
  let a := s.arb k
  let d := s.arbCycle kind s.now
  let give (o : Option Nat) : Hw := match o with
    | none => s
    | some i => s.setArb k (a.grant (s.arbOrigin + (d + 2 + s.arbDelay f kind inst i (a.perturbed + 1)) * arbLen kind) i)
  match a.tenures with
  | [] => give (a.winner kind d (a.inputs none) none)
  | t :: _ =>
    let moves := decide (t.start ≤ s.arbOrigin + (d + 1) * arbLen kind) && (s.arbMove f kind inst t.input).isSome
    match a.ends kind t moves with
    | some ending => give (a.winner kind d (a.inputs ending) ending)
    | none => if a.fixed then s else give ((a.revoker kind d (a.inputs none)).filter fun o => decide (o ≠ t.input))

/-- An arbiter decides (R132). -/
def execArbDecision (f : FieldIx) (kind : Fin 6) (inst : Fin 396) (s : State) : Out :=
  s.act fun s => (if arbExists f.val kind.val inst.val then s.arbDecide f.val kind.val inst.val else s)

/-- An input's wait exceeds its threshold: flagged once per wait, captured where FLD_STARVE holds no flag, and ARB_STARVE
is raised; no grant changes (R136). -/
def execArbStarve (f : FieldIx) (kind : Fin 6) (inst : Fin 396) (input : BitVec 7) (s : State) : Out :=
  s.act fun s => (let k := arbKey f.val kind.val inst.val
    let a := s.arb k
    match a.reqs.find? fun e => decide (e.1 = input.toNat) with
    | none => s
    | some (i, r) =>
      if r.flagged || decide (nget 0 a.thresh i = 0) || decide (r.waited ≤ nget 0 a.thresh i) then s
      else
        let s := s.setArb k { a with reqs := ninsert i { r with flagged := true } a.reqs }
        let s := s.onFld f.val fun x =>
          let x := { x with starveCount := satInc x.starveCount }
          if x.starveFlag then x
          else { x with starveFlag := true, starveInput := input, starveInst := BitVec.ofNat 9 inst.val
                        starveKind := BitVec.ofNat 3 kind.val }
        s.raise 6)

/-- The core behind an arbiter input, where the input is a core's (R131). -/
def arbCore (f kind inst input : Nat) : Option Nat :=
  if kind ≤ 1 ∧ input < 64 then some (mkCore f inst input) else none

/-- The watchdog of a resource bites where its holder has moved no transfer for FLD_WDOG.limit x 256 core cycles: the arbiter is reset, the bite is captured and recorded, and the current beat is
replayed; the same holder twice within the attempts at one beat is declared dead if it is a core, and is otherwise an
uncontained fault (R140, R328). -/
def execArbWatchdog (f : FieldIx) (kind : Fin 6) (inst : Fin 396) (s : State) : Out :=
  s.act fun s => (let k := arbKey f.val kind.val inst.val
    let a := s.arb k
    match (a.holderAt (s.now * 125)).filter fun _ => decide (a.lastMove + (s.fld f.val).wdogLimit.toNat * 256 ≤ s.now) with
    | none => s
    | some t =>
      let h := t.input
      let progress := (nget { count := 0 } a.reqs h).progress
      let s := s.setArb k { a with tenures := [], reqs := [] }
      let s := s.onFld f.val fun x =>
        { x with wdogCount := satInc x.wdogCount, wdogBit := true, wdogKind := BitVec.ofNat 3 kind.val
                 wdogInst := BitVec.ofNat 9 inst.val, wdogHolder := BitVec.ofNat 7 h }
      let s := s.raise 7
      let i : RecIn := { cls := 0x06, loc := locArb kind.val f.val inst.val h, data := dat [progress] }
      if s.flt.seenHolder.contains (s.stk.workStroke, s.stk.beat, k, h) then
        match arbCore f.val kind.val inst.val h with
        | some c => (s.openRecovery s.curBeat i a.lastMove).coreDead c 3 s.curBeat []
        | none => s.uncontain { i with beat := s.stk.beat }
      else
        let s := { s with flt := { s.flt with seenHolder := (s.stk.workStroke, s.stk.beat, k, h) :: s.flt.seenHolder } }
        s.openRecovery s.curBeat i a.lastMove)

/-! ## Slot tables (R137, R141) -/

/-- The arbiter that FLD_ARB_SEL of a field selects, if it exists. -/
def Hw.selArb (s : Hw) (f : Nat) : Option Nat :=
  let x := s.fld f
  if arbExists f x.selKind.toNat x.selInst.toNat then some (arbKey f x.selKind.toNat x.selInst.toNat) else none

/-- Whether FLD_ARB_SEL selects an arbiter and one of its inputs; otherwise FLD_ARB_CTL, FLD_ARB_SLOT and the counters
read zero and writes to them are discarded (R141). -/
def Hw.selOk (s : Hw) (f : Nat) : Bool :=
  (s.selArb f).isSome && decide ((s.fld f).selInput.toNat < arbInputs (s.fld f).selKind.toNat)

/-- FLD_ARB_CTL.commit is set: the shadow is copied at the next stroke boundary (R137). -/
def execSlotTableCommit (f : FieldIx) (s : State) : Out :=
  s.act fun s => (s.bar0 fun s => match s.selArb f.val with
    | some k => if s.selOk f.val then s.setArb k { s.arb k with commit := true } else s
    | none => s)

/-- The shadow table of an arbiter: entries never written read 0xFF. -/
def Arb.shadowSlots (a : Arb) : List Byte :=
  (List.range (a.shadowCount.toNat + 1)).map fun i => nget (0xFF : Byte) a.shadow i

/-- At a stroke boundary a requested commit copies the shadow, or is discarded on a FIXED arbiter (R137). -/
def Arb.boundary (a : Arb) : Arb :=
  if !a.commit then a
  else if a.fixed then { a with commit := false, commitErr := true }
  else { a with commit := false, slots := a.shadowSlots }

/-- An access to FLD_ARB_SLOT: the byte of the selected arbiter's shadow table, and the step of the selected slot (R141). -/
def Hw.slotAccess (s : Hw) (f : Nat) (write : Option W64) : Hw :=
    let x := s.fld f
    let slot := x.selSlot.toNat
    let s := match s.selArb f with
      | some k =>
        if s.selOk f then
          match write with
          | none => { s with readData := leBytes 8 (nget (0xFF : Byte) (s.arb k).shadow slot).toNat }
          | some v => s.setArb k { s.arb k with shadow := nput 0xFF (s.arb k).shadow slot (v.setWidth 8) }
        else if write.isNone then { s with readData := leBytes 8 0 } else s
      | none => if write.isNone then { s with readData := leBytes 8 0 } else s
    if x.selAutoinc then s.onFld f fun x => { x with selSlot := x.selSlot + 1 } else s

/-- The fault-free access to FLD_ARB_SLOT: a read answers the shadow entry, a write changes it; with autoinc each access
advances the slot by one, modulo 256 (R141). -/
def execFldArbSlotAccess (f : FieldIx) (write : Option W64) (s : State) : Out :=
  s.act fun s => (match write with
    | some v => s.bar0 fun s => s.slotAccess f.val (some v)
    | none => if s.barOpen then s.slotAccess f.val none else { s with readData := leBytes 8 0 })

/-! ## Activation (R135, R138) -/

/-- Instances that an entry names in a field. -/
def entryInstances (f kind inst : Nat) : List Nat :=
  if inst = 511 then List.range (arbInstances f kind) else [inst]

/-- The arbiter that an entry sets: counts and requests start afresh at activation. -/
def entryArb (e : ArbEntry) : Arb :=
  let base := (List.range (arbInputs e.kind)).foldl (fun m i => nput 0 m i e.thresh) []
  { fixed := e.fixed, slots := e.slots
    thresh := e.threshRecs.foldl (fun m t => nput 0 m t.1 t.2) base }

/-- An arbiter at activation: what is configured and counted is the new billet's; the shadow table is the driver's and stays, and
so do the requests and tenures that units and unfinished work of the old billet hold. -/
def Arb.renewed (o a : Arb) : Arb :=
  { a with shadow := o.shadow, shadowCount := o.shadowCount, commit := o.commit, commitErr := o.commitErr
           reqs := o.reqs, tenures := o.tenures, lastMove := o.lastMove }

/-- At activation every arbiter takes its default, then the entries apply in order (R138), and FLD_STARVE counts anew (R141). -/
def Hw.activateArbs (s : Hw) (sec : Option ArbSec) : Hw :=
  let fresh : NMap Arb := s.arbs.foldl (fun m e => nput {} m e.1 (e.2.renewed {})) []
  let s := (List.range 48).foldl (fun s f => s.onFld f fun x => { x with starveCount := 0 }) { s with arbs := fresh }
  match sec with
  | none => s
  | some a => a.entries.foldl (fun s e =>
      let fs := if e.field = 63 then List.range 48 else [e.field]
      fs.foldl (fun s f => (entryInstances f e.kind e.inst).foldl (fun s i =>
        let k := arbKey f e.kind i
        s.setArb k ((s.arb k).renewed (entryArb e))) s) s) s

/-! ## Test registers (R142, R143) -/

/-- Locking the TST block disables every perturbation and disarms every injection. -/
def Tst.lock (t : Tst) : Tst :=
  { t with unlocked := false, armedKey := false, arb := t.arb &&& 0x7FFFFFFFFFFFFFFF, bp := t.bp &&& 0x7FFFFFFFFFFFFFFF
           lat := t.lat &&& 0x7FFFFFFFFFFFFFFF, cred := t.cred &&& 0x7FFFFFFFFFFFFFFF, injArm := false, injLeft := 0 }

/-- A write of a key to TST_UNLOCK (R142). -/
def execTstUnlock (key : W32) (s : State) : Out :=
  s.act fun s => (if !s.barOpen then s else { s with tst :=
    if key = 0x7E570A11 then { s.tst with armedKey := true }
    else if key = 0x11A0757E then
      if s.tst.armedKey then { s.tst with armedKey := false, unlocked := true } else s.tst
    else s.tst.lock })

/-- A write to another TST register while the block is locked is discarded and counted. -/
def Tst.discard (t : Tst) : Tst := { t with discarded := satInc t.discarded }

/-- A write of TST_INJ: it is stored, a count of 0 reads as 1, and arm arms it (R143). -/
def execTstInjArm (value : W64) (s : State) : Out :=
  s.act fun s => (s.bar0 fun s => if !s.tst.unlocked then { s with tst := s.tst.discard }
    else
      let v := value &&& 0x1FFFFFFFFF
      let arm := value.getLsbD 63
      { s with tst := { s.tst with inj := v, injArm := s.tst.injArm || arm,
                                   injLeft := if arm then max 1 (bits value.toNat 30 23) else s.tst.injLeft } })

/-- The withheld credits of TST_CRED return after its cycles: en clears (R143). -/
def execTstCredExpire (s : State) : Out :=
  s.act fun s => { s with tst := { s.tst with cred := s.tst.cred &&& 0x7FFFFFFFFFFFFFFF } }

end Sys2Proof.Machine
end

