-- ==== Sys2Proof/Machine/SpanMem.lean ====
section
/-!
DEFINITION. Access to the module's own span range (R274, R275, R278, R279, R288, R291): statuses, loads, stores and the
atomics with their journal (R310, R312, R314).
-/
namespace Sys2Proof.Machine

/-- Span statuses (R312): 0 OK, 1 TARGET_DEAD, 2 OUTCOME_UNKNOWN, 3 NO_HOME, 4 PAGE_LOST, 5 BAD_REQUEST. -/
abbrev SpanStatus := Nat

/-- End of the direct window. -/
def directEnd : Nat := 0x030000000000

/-- A direct-window access touches the frame pool that the billet declares in its region (R275). -/
def Hw.inPool (s : Hw) (off n : Nat) : Bool :=
  match s.tng.sec with
  | none => false
  | some sec =>
    let r := off / regionBytes
    let (first, count) := sec.pools.getD r (0, 0)
    let a := off % regionBytes
    decide (a < (first + count) * pageBytes) && decide (first * pageBytes < a + n)

/-- Status of an access of `n` bytes at an offset by a source rank; the bytes lie in one page. -/
def Hw.spanStatus (s : Hw) (src : Nat) (off n : Nat) : SpanStatus :=
  if off + n ≤ directEnd then (if s.inPool off n then 3 else 0)
  else if off < migBase then 3
  else
    let h := s.home (pageOf off)
    if h.state = .unmapped then 3
    else if h.state = .lost then 4
    else if h.lent && decide (h.borrower.toNat ≠ src) then 3
    else 0

/-- The byte at an offset lies in a region of a deep-parked field (R362). -/
def Hw.regionOff (s : Hw) (off : Nat) : Bool :=
  if off < directEnd then s.deepOff (off / (2 * regionBytes))
  else
    let h := s.home (pageOf off)
    decide (off ≥ migBase) && decide (h.state ≠ .unmapped) && decide (h.tier = 1) && s.deepOff (bits h.location.toNat 5 0)

/-- Field and memory wafer of the bonded memory that an offset's bytes lie in, where they do (R18, R275, R276). -/
def Hw.bondedPlace (s : Hw) (off : Nat) : Option (Nat × Nat) :=
  if off < directEnd then some (off / (2 * regionBytes), off / regionBytes % 2)
  else
    let h := s.home (pageOf off)
    if off < migBase ∨ h.tier ≠ 1 ∨ h.state = .unmapped ∨ h.state = .lost then none
    else some (bits h.location.toNat 5 0, bits h.location.toNat 6 6)

/-- An access to bonded memory by a unit whose endpoint block for wafer 0 is `block`, and for wafer 1 the next: its lines pass
that block's vertical port (R116, R131; the block is a DESIGN CHOICE, log 184). -/
def Hw.unitTraffic (s : Hw) (block off n : Nat) (read : Bool) : Hw := match s.bondedPlace off with
  | some (f, w) => s.portVisit f (block + w) ((n + 63) / 64) read
  | none => s

/-- An access inside a frame pool writes a record of class NO_HOME with its source and kind (R275). -/
def Hw.noHome (s : Hw) (src off n access : Nat) : Hw :=
  if decide (off + n ≤ directEnd) && s.inPool off n then
    s.record { cls := 0x16, address := off, data := dat [src, access] }
  else s

/-- A 4 KiB piece of a page (R279). -/
def pieceOf (off : Nat) : Nat := off % pageBytes / 4096

/-- The page that an order reads. -/
def Order.source (o : Order) : Option Nat := match o.kind with
  | .move => some o.page
  | .evict _ => some o.page
  | .clone src => some src
  | .place => none

/-- Pieces of an order's page are written: those already copied in the round are dirty, and a copy that had ended goes into a
further round for them, unless its four rounds are over (R279). -/
def Order.dirty (ps : List Nat) (o : Order) : Order := match o.phase with
  | .copying r d => { o with phase := .copying r (d ++ ps.filter fun p => !d.contains p && !o.todo.contains p) }
  | .clean r => if r < 4 then { o with phase := .copying (r + 1) [], todo := ps } else { o with phase := .copying (r + 1) ps }
  | _ => o

/-- A copy that had ended, and that a store takes into a further round. -/
def Order.reopens (o : Order) : Bool := match o.phase with
  | .clean r => decide (r < 4)
  | _ => false

/-- Raise the transfers of `n` pieces of an order's copy at its queue's arbiter, on the input it came through, and of 64 lines a
piece at the vertical ports that a bonded source is read and a bonded destination written through (R131, R279, R281). -/
def Hw.raisePieces (s : Hw) (o : Order) (n : Nat) : Hw :=
  let s := s.arbRaise (o.queue / 2) 5 (o.queue % 2) o.input n
  let s := match o.source with
    | some p => s.unitTraffic 186 (pageOff p) (4096 * n) true
    | none => s
  if o.destTier = 1 then s.portVisit o.destField (186 + o.destWafer) (64 * n) false else s

/-- A store or atomic to a page under copy marks the pieces that it writes dirty (R279; pieces are copied in ascending order:
DESIGN CHOICE, log 14). -/
def Hw.markDirty (s : Hw) (off n : Nat) : Hw :=
  if off < migBase then s
  else
    let ps := (List.range (pieceOf (off + n - 1) + 1 - pieceOf off)).map (pieceOf off + ·)
    let hit (o : Order) : Bool := decide (o.source = some (pageOf off))
    let again := s.tng.orders.filter fun o => hit o && o.reopens
    let s := { s with tng := { s.tng with orders := s.tng.orders.map fun o => if hit o then o.dirty ps else o } }
    again.foldl (fun s o => s.raisePieces o ps.length) s

/-- A load of `n` bytes within one page: data, or all-ones with the status (R275, R288, R312). -/
def Hw.spanLoad (s : Hw) (src off n : Nat) : Hw × List Byte × SpanStatus :=
  let st := s.spanStatus src off n
  if st = 0 then (s.unitTraffic 209 off n true, s.memRead off n, 0)
  else (s.noHome src off n 0, List.replicate n 0xFF, st)

/-- A store of bytes within one page; a failing store is discarded (R275, R288). -/
def Hw.spanStore (s : Hw) (src off : Nat) (bs : List Byte) : Hw × SpanStatus :=
  let st := s.spanStatus src off bs.length
  if st = 0 then (((s.unitTraffic 209 off bs.length false).markDirty off bs.length).memWrite off bs, 0)
  else (s.noHome src off bs.length 1, st)

/-- Cut a range into parts that each lie in one page: offset and length. -/
def pageParts : Nat → Nat → Nat → List (Nat × Nat)
  | 0, _, _ => []
  | fuel + 1, off, n =>
    if n = 0 then []
    else
      let k := min n (pageBytes - off % pageBytes)
      (off, k) :: pageParts fuel (off + k) (n - k)

/-- A load of any length, part by part; the status is the first that is not OK. -/
def Hw.spanLoadAny (s : Hw) (src off n : Nat) : Hw × List Byte × SpanStatus :=
  (pageParts (n / pageBytes + 2) off n).foldl (fun (s, bs, st) p =>
    let (s', b, st') := s.spanLoad src p.1 p.2
    (s', bs ++ b, if st = 0 then st' else st)) (s, [], 0)

/-- A store of any length, part by part. -/
def Hw.spanStoreAny (s : Hw) (src off : Nat) (bs : List Byte) : Hw × SpanStatus :=
  (pageParts (bs.length / pageBytes + 2) off bs.length).foldl (fun (s, st) p =>
    let (s', st') := s.spanStore src p.1 (sub bs (p.1 - off) p.2)
    (s', if st = 0 then st' else st)) (s, 0)

/-! ## Atomics (R310, R314) -/

/-- Signed value of a 64-bit word. -/
def sval (x : W64) : Int := x.toInt

/-- The new word of an atomic (R310). -/
def atomicNew (op : Nat) (old operand compare : W64) : W64 :=
  match op with
  | 2 => old + operand
  | 3 => if sval operand < sval old then operand else old
  | 4 => if sval operand > sval old then operand else old
  | 5 => if operand < old then operand else old
  | 6 => if operand > old then operand else old
  | 7 => operand
  | 8 => if old = compare then operand else old
  | _ => old

/-- The new word of an atomic, FADD an FP32 sum in the low half (R310). -/
def atomicResult (op : Nat) (old operand compare : W64) : W64 :=
  if op = 9 then (fadd (old.setWidth 32) (operand.setWidth 32)).setWidth 64 else atomicNew op old operand compare

/-- Bytes that an atomic works on: FADD an FP32 word, every other a 64-bit word. -/
def atomicBytes (op : Nat) : Nat := if op = 9 then 4 else 8

/-- Bytes of a journal entry (R314): source rank, engine, tag, result, arrival; the place of each is not laid out, so
they stand in this order (DESIGN CHOICE, log 15). -/
def JEntry.bytes (e : JEntry) : List Byte :=
  padTo 32 (leBytes 2 e.src.toNat ++ leBytes 2 e.engine ++ leBytes 4 e.tag.toNat ++ leBytes 8 e.result.toNat
    ++ leBytes 8 e.arrival.toNat)

def journalMax : Nat := 1048576

/-- Enter an atomic's result in the journal, evicting the oldest entry when it is full: the horizon moves to its arrival
and a young one is counted (R314). -/
def Hw.journalInsert (s : Hw) (e : JEntry) : Hw :=
  let x := s.spn
  let x := if x.journal.length < journalMax then x
    else match x.journal with
      | [] => x
      | o :: rest => { x with journal := rest, horizon := some o.arrival,
                              young := if (s.stk.time - o.arrival).toNat < 10000000 then satInc x.young else x.young }
  { s with spn := { x with journal := x.journal ++ [e], jCount := x.jCount + 1 } }.memWrite
    (x.journalBase.toNat + x.jCount % journalMax * 32) e.bytes

/-- What an atomic asks of its target. -/
structure AtomicReq where
  src : W16
  engine : Nat
  tag : W32
  firstIssue : W64
  op : Nat
  off : Nat
  operand : W64
  compare : W64

/-- The target handles an atomic, new or re-issued: a recorded result is returned and not applied again, one older than
the horizon is OUTCOME_UNKNOWN, any other is applied and recorded (R314). -/
def Hw.atomicApply (s : Hw) (a : AtomicReq) : Hw × W64 × SpanStatus :=
  match s.spn.journal.find? fun e => decide (e.src = a.src) && decide (e.engine = a.engine) && decide (e.tag = a.tag) with
  | some e => (s, e.result, 0)
  | none =>
    if s.spn.horizon.any fun h => decide (a.firstIssue < h + 1000000) then (s, 0, 2)
    else
      let n := atomicBytes a.op
      let st := s.spanStatus a.src.toNat a.off n
      if st ≠ 0 then (s.noHome a.src.toNat a.off n 2, BitVec.allOnes 64, st)
      else
        let old : W64 := BitVec.ofNat 64 (s.memNat a.off n)
        let new : W64 := atomicResult a.op old a.operand a.compare
        let s := (s.unitTraffic 209 a.off n true).unitTraffic 209 a.off n false
        let s := (s.markDirty a.off n).memWrite a.off (leBytes n new.toNat)
        let s := s.journalInsert { src := a.src, engine := a.engine, tag := a.tag, result := old, arrival := s.stk.time }
        (s, old, 0)

end Sys2Proof.Machine
end

