-- ==== Sys2Proof/Machine/Leash.lean ====
section
/-!
DEFINITION. Leash: ports and their states (R296), HELLO (R297), frames, replay and credits (R298-R300), messages (R301,
R302), translation and forwarding (R304, R305).
-/
namespace Sys2Proof.Machine

/-! ## Frames as bytes (R297, R298, R308) -/

/-- Frame type codes (R298). -/
def frData : Nat := 0
def frIdle : Nat := 1
def frNak : Nat := 2
def frSync : Nat := 3
def frHello : Nat := 4

/-- The 12 B header of a frame; `len` in 16 B units (R298). -/
def frameHead (seq ack type vc len : Nat) (som eom : Bool) (creditVc credit : Nat) : List Byte :=
  leBytes 12 (seq % 4096 + ack % 4096 * 2 ^ 12 + type * 2 ^ 24 + vc * 2 ^ 28 + len * 2 ^ 30 + b2n som * 2 ^ 35 + b2n eom * 2 ^ 36
    + creditVc * 2 ^ 37 + credit % 256 * 2 ^ 39)

/-- The CRC of a frame: CRC-32C over header and payload (R298). -/
def frameCrc (head payload : List Byte) : BitVec 32 := BitVec.ofNat 32 (crc32c (head ++ payload))

/-- A whole frame: header, payload, CRC (R298). -/
def frameBytes (head payload : List Byte) : List Byte := head ++ payload ++ leBytes 4 (frameCrc head payload).toNat

/-- A frame without sequence number; a NAK names the next expected number in the seq field and a SYNC or HELLO frame is alone in its
message, with som and eom 0 (R298-R300; DESIGN CHOICE where R298 leaves the use of a field open, log 216). -/
def ctrlHead (type seq : Nat) (f : IdleFrame) (payload : List Byte) : List Byte :=
  frameHead seq f.ack.toNat type 0 (payload.length / 16) false false f.creditVc.val f.credit.toNat

/-- The payload of a HELLO frame (R297). -/
def helloPayload (m : HelloMsg) : List Byte :=
  leBytes 4 m.versions.toNat ++ [m.role, m.port] ++ leBytes 2 m.node.toNat ++ leBytes 2 m.rank.toNat
    ++ [BitVec.ofNat 8 (b2n m.retiring + 2 * b2n m.resume), 0] ++ leBytes 2 m.nextExpected.toNat ++ [0, 0]
    ++ padTo 8 (m.buffers.flatMap fun b => leBytes 2 b.toNat) ++ leBytes 8 m.serial.toNat ++ List.replicate 32 0

/-- The payload of a SYNC frame (R308). -/
def syncPayload (stroke boundary departure s : Nat) (late halted : Bool) : List Byte :=
  leBytes 8 stroke ++ leBytes 8 boundary ++ leBytes 8 departure ++ [BitVec.ofNat 8 s, BitVec.ofNat 8 (b2n late + 2 * b2n halted)]
    ++ List.replicate 6 0

end Sys2Proof.Machine

namespace Sys2Proof

/-- The CRC of a received DATA frame passes (R298). -/
def DataFrame.crcOk (f : DataFrame) : Bool :=
  f.crc == Machine.frameCrc (Machine.frameHead f.seq.toNat f.ack.toNat Machine.frData f.vc.val (f.payload.length / 16) f.som f.eom
    f.creditVc.val f.credit.toNat) f.payload

/-- The CRC of a received frame without sequence number passes: its type, the seq field and the payload (R298). -/
def IdleFrame.crcOk (f : IdleFrame) (type seq : Nat) (payload : List Byte) : Bool :=
  f.crc == Machine.frameCrc (Machine.ctrlHead type seq f payload) payload

/-- The CRC of a received HELLO frame passes (R297, R298). -/
def HelloMsg.crcOk (m : HelloMsg) : Bool := m.head.crcOk Machine.frHello 0 (Machine.helloPayload m)

/-- The CRC of a received SYNC frame passes (R298, R308). -/
def SyncFrame.crcOk (f : SyncFrame) : Bool := f.head.crcOk Machine.frSync 0
  (Machine.syncPayload f.stroke.toNat f.boundary.toNat f.departure.toNat f.s.toNat f.late f.halted)

end Sys2Proof

namespace Sys2Proof.Machine

/-! ## Sending (R298-R301) -/

/-- A port takes frames: in NEGOTIATING and RETRAINING only HELLO (R296, R297). -/
def Port.listens (x : Port) : Bool := x.carries || decide (x.state = .negotiating) || decide (x.state = .retraining)

/-- The bytes of a DATA frame of the replay buffer at a transmission: it carries the acknowledgement of that moment (R298). -/
def Port.dataBytes (x : Port) (f : TxFrame) : List Byte :=
  frameBytes (frameHead f.seq (x.rxNext - 1).toNat frData f.vc (f.payload.length / 16) f.som f.eom 0 0) f.payload

/-- LEGR input of a message of this module: 1 span engines, 2 reduction engines, 4 control, 3 herders, 5 cores (R131, R303). -/
def legrInput (m : LMsg) : Nat :=
  let k := m.kind
  let unit (u : Nat) : Bool := bit m.word1 43 && decide (bits m.word1 25 22 = u)
  if k = 5 ∨ k = 11 ∨ unit 1 then 2 else if k ≤ 2 then 1 else if k = 9 ∨ k = 7 then 4
  else if unit 0 then 3 else 5

/-- Virtual channel of a message kind (R302). -/
def kindVc (kind : Nat) : Nat := [0, 1, 0, 2, 2, 2, 2, 2, 2, 1, 2, 2, 1, 1].getD kind 2

/-- Transfers of a message, which are its frames (R131, R301). -/
def LMsg.frames (m : LMsg) : Nat := (32 + m.payload.length + 255) / 256

/-- Hand a message to a port: it waits for the egress arbiter at an input, and leaves behind it as credit allows (R131, R303). -/
def Hw.sendPortAt (s : Hw) (p input : Nat) (m : LMsg) : Hw :=
  (s.onPort p fun x => { x with egress := x.egress ++ [(input, m.frames, m)] }).arbRaise (portField p) 2 (portSite p) input m.frames

/-- Hand a message of this module to a port. -/
def Hw.sendPort (s : Hw) (p : Nat) (m : LMsg) : Hw := s.sendPortAt p (legrInput m) m

/-! ## Port states (R296) -/

/-- A port starts over: nothing held, sequence numbers from 0. -/
def Port.clear (x : Port) : Port :=
  { x with txNext := 0, replay := [], resends := 0, again := 0, txCredit := [], rxNext := 0, nakOut := false, sinceAck := 0,
           lastAckSent := 0, creditsDue := [], assembly := [] }

/-- A port leaves for DISABLED (R296, R375, R365). -/
def Port.disable (x : Port) : Port :=
  { x.clear with enable := false, state := .disabled, version := 0, outQ := [], egress := [], forwarded := false }

/-- A port leaves for DISABLED, and no message waits at its egress arbiter. -/
def Hw.disablePort (s : Hw) (p : Nat) : Hw :=
  (List.range 6).foldl (fun s i => s.arbSet (portField p) 2 (portSite p) i 0) (s.onPort p Port.disable)

/-- A port enters RETRAINING: LINK_RETRAIN is raised and recorded with its cause (R296, R342). -/
def Hw.retrain (s : Hw) (p cause : Nat) : Hw :=
  ((s.onPort p fun x => { x with state := .retraining, version := 0, retrains := x.retrains + 1, resends := 0 }).raise 25).record
    { cls := 0x20, loc := locPort p, data := dat [cause] }

/-- A port goes DOWN: its replay buffer is discarded, LINK_DOWN is raised and recorded, and the span epoch will step if
it carried forwarded traffic (R296, R299, R316). -/
def Hw.portDown (s : Hw) (p : Nat) : Hw :=
  let x := s.port p
  let s := s.setPort p { x.clear with state := .down, version := 0, downs := x.downs + 1, forwarded := false }
  let s := { s with spn := { s.spn with failover := s.spn.failover || x.forwarded } }
  (s.raise 26).record { cls := 0x21, loc := locPort p, data := dat [x.partnerSerial.toNat] }

/-- LNK_CTL.enable written 1 (R296). -/
def execLinkEnable (p : PortIx) (s : State) : Out :=
  s.act fun s => (s.bar0 fun s => s.onPort p.val fun x =>
    { x with enable := true, state := if x.state = .disabled then .training else x.state })

/-- LNK_CTL.enable written 0 (R296). -/
def execLinkDisable (p : PortIx) (s : State) : Out := s.act fun s => (s.bar0 fun s => s.disablePort p.val)

/-- An optical module on a port receives laser enable only while LNK_CTL.enable is 1 (R295). -/
def Port.laser (x : Port) : Bool := x.enable

/-- A frame without sequence number leaves a port. -/
def Port.sendCtrl (x : Port) (type seq : Nat) (f : IdleFrame) (payload : List Byte) : Port :=
  { x with ctrlOut := frameBytes (ctrlHead type seq f payload) payload :: x.ctrlOut }

/-- The HELLO that a port sends: version 1 alone, its role and place, and the receive buffers it offers (R297, R300). -/
def Hw.ownHello (s : Hw) (p : Nat) (resume : Bool) : HelloMsg :=
  let x := s.port p
  { versions := 1, role := if p < 48 then 0 else 1, port := BitVec.ofNat 8 p, node := Config.strapsNode, rank := s.spn.rank
    retiring := x.retire, resume := resume, nextExpected := if resume then x.rxNext else 0, buffers := [256, 256, 512, 32]
    serial := BitVec.ofNat 64 (leNat (sub Config.moduleSerial 0 8)), delayNs := 0
    head := { ack := 0, creditVc := 0, credit := 0, crc := 0 } }

/-- A port sends its HELLO (R297). -/
def Hw.sendHello (s : Hw) (p : Nat) (resume : Bool) : Hw :=
  let m := s.ownHello p resume
  s.onPort p fun x => x.sendCtrl frHello 0 m.head (helloPayload m)

/-- LNK_CTL.retire written 1: an UP port announces RETIRING to its partner in a further HELLO (R296, R297; that the announcement is a
HELLO is DEDUCED, log 216). -/
def execLinkRetire (p : PortIx) (s : State) : Out :=
  s.act fun s => (s.bar0 fun s =>
    let up : Bool := decide ((s.port p.val).state = .up)
    let s := s.onPort p.val fun x => { x with retire := true, state := if up then .retiring else x.state }
    if up then s.sendHello p.val false else s)

/-- LNK_CTL.retire written 0: a RETIRING port returns to UP and says so (R296). -/
def execLinkRetireCancel (p : PortIx) (s : State) : Out :=
  s.act fun s => (s.bar0 fun s =>
    let was : Bool := decide ((s.port p.val).state = .retiring)
    let s := s.onPort p.val fun x => { x with retire := false, state := if was then .up else x.state }
    if was then s.sendHello p.val false else s)

/-- PMA lock and FEC alignment on all 8 lanes: a port in training negotiates, and HELLO goes out there and after lock in
RETRAINING (R296, R297). -/
def execLinkLock (p : PortIx) (s : State) : Out :=
  s.act fun s => (match (s.port p.val).state with
    | .training => (s.onPort p.val fun x => { x with state := .negotiating }).sendHello p.val false
    | .retraining => s.sendHello p.val true
    | _ => s)

/-- 100 ms without lock (R296). -/
def execTrainingTimeout (p : PortIx) (s : State) : Out :=
  s.act fun s => (s.onPort p.val fun x => { x with state := if x.state = .training then .failed else x.state })

/-- Loss of lock moves an UP port to RETRAINING (R296): cause 0. -/
def execLossOfLock (p : PortIx) (s : State) : Out :=
  s.act fun s => (if (s.port p.val).state = .up then s.retrain p.val 0 else s)

/-- An uncorrectable codeword is counted; 16 within 1 ms start a retrain (R295, R296): cause 1. -/
def execFecUncorrectable (p : PortIx) (sixteenInMs : Bool) (s : State) : Out :=
  s.act fun s => (let s := s.onPort p.val fun x => { x with fecUncorrectable := satInc x.fecUncorrectable }
    if sixteenInMs && decide ((s.port p.val).state = .up) then s.retrain p.val 1 else s)

/-- 5 ms of retraining without resume (R296). -/
def execRetrainTimeout (p : PortIx) (s : State) : Out :=
  s.act fun s => (if (s.port p.val).state = .retraining then s.portDown p.val else s)

/-- 1 s after DOWN with enable 1 (R296). -/
def execDownRetry (p : PortIx) (s : State) : Out :=
  s.act fun s => (s.onPort p.val fun x =>
    { x with state := if x.state = .down ∧ x.enable then .training else x.state })

/-! ## Acknowledgement and credit (R299, R300) -/

/-- Frames up to and including `ack` are acknowledged (R299). -/
def dropAcked (ack : BitVec 12) (fs : List TxFrame) : List TxFrame :=
  fs.filter fun f => decide ((ack - BitVec.ofNat 12 f.seq).toNat ≥ 2048)

/-- Take the acknowledgement and credit that a frame carries, and send what they free (R299, R300). -/
def Port.takeAck (x : Port) (ack : BitVec 12) (vc credit : Nat) : Port :=
  let rest := dropAcked ack x.replay
  Port.pump { x with replay := rest, resends := if rest.length < x.replay.length then 0 else x.resends,
                     again := min x.again rest.length, txCredit := nput 0 x.txCredit vc (nget 0 x.txCredit vc + credit) }

/-- Frames are sent again from the oldest one held, as credit allows (R299, R300). -/
def Port.resend (x : Port) : Port :=
  Port.sendAgain x.replay.length { x with resends := x.resends + 1, again := x.replay.length }

/-- Eight consecutive resends of a frame without progress move the port to RETRAINING: cause 2 (R299). -/
def Hw.resendPort (s : Hw) (p : Nat) : Hw :=
  if (s.port p).replay.isEmpty then s
  else
    let s := s.onPort p Port.resend
    if decide ((s.port p).resends ≥ 8) && decide ((s.port p).state = .up) then s.retrain p 2 else s

/-- The channel that owes the partner most credits. -/
def dueVc (x : Port) : Nat :=
  (List.range 4).foldl (fun b v => if nget 0 x.creditsDue v > nget 0 x.creditsDue b then v else b) 0

/-- The receiver sends a frame that carries its acknowledgement, and credits it owes unless they are withheld. -/
def Hw.sendAck (s : Hw) (p : Nat) : Hw :=
  let hold := s.withholds p
  s.onPort p fun x =>
    let v := dueVc x
    let n := if hold then 0 else min 255 (nget 0 x.creditsDue v)
    let f : IdleFrame := { ack := x.rxNext - 1, creditVc := Fin.ofNat 4 v, credit := BitVec.ofNat 8 n, crc := 0 }
    Port.sendCtrl { x with sinceAck := 0, lastAckSent := x.rxNext - 1
                           creditsDue := nput 0 x.creditsDue v (nget 0 x.creditsDue v - n) } frIdle 0 f []

/-- The receiver sends a NAK naming the next expected number, once until that number arrives (R299). -/
def Port.nak (x : Port) : Port :=
  if x.nakOut then x else Port.sendCtrl { x with nakOut := true } frNak x.rxNext.toNat
    { ack := x.rxNext - 1, creditVc := 0, credit := 0, crc := 0 } []

/-- Credits of frames that were discarded or have left the receive buffer are owed to the partner (R300). -/
def Port.owe (x : Port) (vc n : Nat) : Port :=
  if n = 0 then x else { x with creditsDue := nput 0 x.creditsDue vc (nget 0 x.creditsDue vc + n) }

/-- Frames that bytes of a message fill (R301). -/
def frameCount (bs : List Byte) : Nat := (bs.length + 255) / 256

/-! ## HELLO (R297) -/

/-- A frame without sequence number that fails its CRC is discarded whole and counted (R298, R320). -/
def Hw.badFrame (s : Hw) (p : Nat) : Hw := s.onPort p fun x => { x with errCrc := x.errCrc + 1 }

/-- The role that a port accepts: peer links role 0, bellows ports role 2. -/
def roleOk (p : Nat) (role : Byte) : Bool := if p < 48 then role = 0 else role = 2

/-- What a port keeps of its partner. -/
def Port.partner (x : Port) (m : HelloMsg) : Port :=
  { x with partnerRetiring := m.retiring, partnerRole := m.role.setWidth 2, node := m.node, rank := m.rank,
           partnerPort := m.port.setWidth 6, partnerSerial := m.serial, delayNs := m.delayNs }

/-- A HELLO frame negotiates version and roles, or resumes a retrained link from the partner's next expected frame
(R296, R297, R299). -/
def execHello (p : PortIx) (m : HelloMsg) (s : State) : Out :=
  s.act fun s => (let x := s.port p.val
    if !m.crcOk then (if x.listens then s.badFrame p.val else s)
    else match x.state with
    | .negotiating =>
      if m.versions.getLsbD 0 && roleOk p.val m.role then
        s.setPort p.val (Port.pump { (x.clear.partner m) with
          state := .up, version := 1
          txCredit := (List.range 4).foldl (fun c v => nput 0 c v (m.buffers.getD v 0).toNat) [] })
      else s.setPort p.val { x with state := .failed }
    | .retraining =>
      if m.serial ≠ x.partnerSerial then s.portDown p.val
      else if m.resume then
        let y := (x.partner m).takeAck (m.nextExpected - 1) 0 0
        s.setPort p.val (Port.pump (Port.resend { y with state := .up, version := 1, resends := 0 }))
      else s
    | .up | .retiring => s.setPort p.val { x with partnerRetiring := m.retiring }
    | _ => s)

/-! ## Translation (R304, R305) -/

/-- The tables of a generation: the active one, or the one active immediately before (R304). -/
def Hw.tablesOf (s : Hw) (gen : Byte) : Option Tables :=
  if !s.spn.tables then none
  else if gen = s.spn.gen then some s.spn.active
  else if gen + 1 = s.spn.gen ∧ !s.spn.previous.isEmpty then some s.spn.previous
  else none

/-- Rank table entry (R304): node, valid, dead. -/
def rankEntry (t : Tables) (rank : W16) : Nat × Bool × Bool :=
  let w := leNat (ngetList 0 t (4 * rank.toNat) 4)
  (bits w 15 0, bit w 16, bit w 17)

/-- Forwarding table entry (R304): primary link if valid, alternate link if valid. -/
def forwardEntry (t : Tables) (node : Nat) : Option Nat × Option Nat :=
  let w := leNat (ngetList 0 t (0x40000 + 2 * node) 2)
  (if bit w 6 then some (bits w 5 0) else none, if bit w 14 then some (bits w 13 8) else none)

/-- The link towards a node: the primary while it is UP or RETIRING, otherwise the alternate (R305). -/
def Hw.linkTo (s : Hw) (t : Tables) (node : Nat) : Option Nat :=
  let (pri, alt) := forwardEntry t node
  let ok (q : Option Nat) : Option Nat := q.filter fun q => decide (q < 48) && (s.port q).carries
  (ok pri).or (ok alt)

/-- What becomes of a message at a peer-link ingress (R304, R305). -/
inductive Ingress where
  | own
  | forward (port : Nat)
  | dead
  | drop (recorded : Bool)
  deriving DecidableEq, Repr

/-- Judge a message at ingress: generation, rank entry, own node, hops left and a usable link. A SPAN_REQ whose rank
entry is invalid or dead is answered at once (R305). -/
def Hw.ingress (s : Hw) (kind : Nat) (dest : W16) (gen : Byte) (ttl : Nat) : Ingress :=
  match s.tablesOf gen with
  | none => .drop false
  | some t =>
    let (node, valid, dead) := rankEntry t dest
    if kind = 0 ∧ (!valid ∨ dead) then .dead
    else if !valid then .drop true
    else if node = Config.strapsNode.toNat then .own
    else if ttl = 0 then .drop true
    else match s.linkTo t node with
      | some q => .forward q
      | none => .drop true

/-- Discard a message at ingress: counted, and for the causes of R305 recorded as LEASH_DROP and flagged. -/
def Hw.leashDrop (s : Hw) (p : Nat) (recorded : Bool) (header : List Byte) : Hw :=
  let s := { s with spn := { s.spn with dropCnt := s.spn.dropCnt + 1 } }
  if recorded then (s.raise 29).record { cls := 0x22, loc := locPort p, data := padTo 32 header } else s

/-- Forward a message, its hops counted down, in arrival order (R305). -/
def Hw.forward (s : Hw) (q : Nat) (m : LMsg) : Hw :=
  (s.onPort q fun x => { x with forwarded := true }).sendPortAt q 1 { m with ttl := m.ttl - 1 }

/-- Read a message back from its bytes (R301). -/
def parseLMsg (vc : Nat) (bs : List Byte) : LMsg :=
  let w0 := at' bs 0 8
  let w1 := at' bs 8 8
  { kind := bits w0 39 32, destRank := BitVec.ofNat 16 w0, srcRank := BitVec.ofNat 16 (bits w0 31 16),
    ttl := bits w0 43 40, gen := BitVec.ofNat 8 (bits w1 51 44), vc := vc, word1 := w1 % 2 ^ 44,
    stroke := bits w0 45 44, specific := at' bs 16 16, payload := sub bs 32 (bits w0 58 46) }

/-- Kinds valid on a port: 0-7 on peer links, the inbound kinds 8, 10, 12, 13 on bellows ports (R302, R318). -/
def kindOk (p kind : Nat) : Bool :=
  if p < 48 then decide (kind ≤ 7) else decide (kind = 8) || decide (kind = 10) || decide (kind = 12) || decide (kind = 13)

/-- A whole message has arrived: an invalid kind is discarded; a peer message for another node is forwarded; a message
for this module stands in the port's buffer until its own command takes it, and its credits are owed when it leaves (R300, R302,
R305). -/
def Hw.takeMessage (s : Hw) (p vc : Nat) (bs : List Byte) : Hw :=
  let m := parseLMsg vc bs
  let left (s : Hw) : Hw := s.onPort p fun x => x.owe vc (frameCount bs)
  if !kindOk p m.kind then
    let s := (left s).leashDrop p false bs
    if p ≥ 48 then s.raise 31 else s
  else if p ≥ 48 then s.onPort p fun x => { x with inbox := x.inbox ++ [(vc, bs)] }
  else match s.ingress m.kind m.destRank m.gen m.ttl with
    | .drop r => (left s).leashDrop p r bs
    | .forward q => (left s).forward q m
    | _ => s.onPort p fun x => { x with inbox := x.inbox ++ [(vc, bs)] }

/-- The first whole message of a kind, with what else it must show, leaves a port's buffer: its credits are owed (R300). -/
def Port.popMsg (x : Port) (kind : Nat) (is : List Byte → Bool) : Port :=
  match x.inbox.findIdx? fun e => decide (at' e.2 4 1 = kind) && is e.2 with
  | some i => match x.inbox[i]? with
    | some e => Port.owe { x with inbox := x.inbox.eraseIdx i } e.1 (frameCount e.2)
    | none => x
  | none => x

/-- A port's own command takes the first whole message of its kind that stands in the port. -/
def Hw.popInbox (s : Hw) (p kind : Nat) : Hw := s.onPort p fun x => x.popMsg kind fun _ => true

/-- A command that names no port takes the first such message of the peer links. -/
def Hw.popAny (s : Hw) (kind : Nat) (is : List Byte → Bool) : Hw :=
  match (List.range 48).find? fun p => (s.port p).inbox.any fun e => decide (at' e.2 4 1 = kind) && is e.2 with
  | some p => s.onPort p fun x => x.popMsg kind is
  | none => s

/-! ## Frames (R298-R300) -/

/-- A DATA frame: accepted in sequence, or discarded with a NAK; a message is whole at its last frame (R299-R301). -/
def execDataFrame (p : PortIx) (fr : DataFrame) (s : State) : Out :=
  s.act fun s => (if !(s.port p.val).carries then s
    else
      let hit := s.injHit 3 (p.val)
      let s := hit.getD s
      if !fr.crcOk || hit.isSome then
        s.onPort p.val fun x => ({ x with errCrc := x.errCrc + 1 }.owe fr.vc.val 1).nak
      else
        let s := s.onPort p.val fun x => x.takeAck fr.ack fr.creditVc.val fr.credit.toNat
        if fr.seq ≠ (s.port p.val).rxNext then s.onPort p.val fun x => (x.owe fr.vc.val 1).nak
        else
          let old := nget [] (s.port p.val).assembly fr.vc.val
          let whole := (if fr.som then [] else old) ++ fr.payload
          let s := s.onPort p.val fun x =>
            Port.owe { x with rxNext := x.rxNext + 1, nakOut := false, sinceAck := x.sinceAck + 1
                              assembly := nput [] x.assembly fr.vc.val (if fr.eom then [] else whole) } fr.vc.val
              (if fr.som then frameCount old else 0)
          let s := if (s.port p.val).sinceAck ≥ 64 then s.sendAck p.val else s
          if fr.eom then s.takeMessage p.val fr.vc.val whole else s)

/-- A NAK: frames before the named one are acknowledged and the rest are sent again (R299). -/
def execNakFrame (p : PortIx) (next : BitVec 12) (fr : IdleFrame) (s : State) : Out :=
  s.act fun s => (if !(s.port p.val).carries then s
    else if !fr.crcOk frNak next.toNat [] then s.badFrame p.val
    else (s.onPort p.val fun x => x.takeAck (next - 1) fr.creditVc.val fr.credit.toNat).resendPort p.val)

/-- An IDLE frame carries acknowledgement and credit (R300). -/
def execIdleFrame (p : PortIx) (fr : IdleFrame) (s : State) : Out :=
  s.act fun s => (if !(s.port p.val).carries then s
    else if !fr.crcOk frIdle 0 [] then s.badFrame p.val
    else s.onPort p.val fun x => x.takeAck fr.ack fr.creditVc.val fr.credit.toNat)

/-- The receiver acknowledges at least every 1 µs (R299). -/
def execAckTimer (p : PortIx) (s : State) : Out :=
  s.act fun s => (if (s.port p.val).carries then s.sendAck p.val else s)

/-- 20 µs without an advancing acknowledgement while frames are unacknowledged (R299). -/
def execReplayTimeout (p : PortIx) (s : State) : Out :=
  s.act fun s => (if (s.port p.val).carries then s.resendPort p.val else s)

end Sys2Proof.Machine
end

