-- ==== Sys2Proof/Machine/Span.lean ====
section
/-!
DEFINITION. Span engines: MEM SPN (R310), take-up (R311), service (R312-R314), FLAG stores (R315), epochs and sweeps (R316),
fences (R317), table generations (R304, R306) and the BAR4 window (R373).
-/
namespace Sys2Proof.Machine

/-! ## Requests -/

/-- The mark of a request that the host made through BAR4. -/
def hostCore : Nat := 2 ^ 21

/-- Rank and offset of a span address (R274). -/
def addrRank (a : Nat) : W16 := BitVec.ofNat 16 (bits a 63 48)
def addrOff (a : Nat) : Nat := bits a 47 0

/-- A rank that names this module: its own, or 0xFFFF (R373). -/
def Hw.ownRank (s : Hw) (r : W16) : Bool := decide (r = s.spn.rank) || decide (r = 0xFFFF)

/-- Operations 2 to 9 are atomics (R310). -/
def isAtomic (op : Nat) : Bool := decide (2 ≤ op) && decide (op ≤ 9)

/-- A request that breaks the rules of R310. -/
def badRequest (op addr localAddr size : Nat) : Bool :=
  decide (op > 10) ||
  (isAtomic op && decide (addrOff addr % atomicBytes op ≠ 0)) ||
  (decide (op ≤ 1) && (decide (addrOff addr % 4096 + size > 4096) || decide (localAddr + size > sramSize)))

/-- Read the command block at an SRAM address (R310). -/
def parseBlock (x : CoreState) (core order tok a stroke beat : Nat) : SpanReq :=
  let w := ngetList 0 x.sram a 32
  let op := bits (at' w 12 1) 3 0
  let size := at' w 10 2 + 1
  { core := core, order := order, tok := tok, cmdAddr := a, op := op, flag := bit (at' w 12 1) 4,
    address := at' w 0 8, localAddr := at' w 8 2, size := size, operand := BitVec.ofNat 64 (at' w 16 8),
    compare := BitVec.ofNat 64 (at' w 24 8), data := if op = 1 then ngetList 0 x.sram (at' w 8 2) size else [],
    stroke := stroke, beat := beat }

/-! ## Completion (R310, R312, R313, R317) -/

/-- What a completion writes into its core: the status, a load's data or all-ones, an atomic's old value, and the token
(R310, R312). -/
def CoreState.spanDone (x : CoreState) (r : SpanReq) (status : Nat) (data : List Byte) (old : W64) : CoreState :=
  let m := nput 0 x.sram (r.cmdAddr + 13) (BitVec.ofNat 8 status)
  let m := if r.op = 0 ∧ status ≠ 5 then
      nputList 0 m r.localAddr (if status = 0 then padTo r.size data else List.replicate r.size 0xFF)
    else if isAtomic r.op && decide (status = 0) then nputList 0 m (r.cmdAddr + 16) (leBytes 8 old.toNat)
    else m
  CoreState.tokDone { x with sram := m } r.tok

/-- A fence with nothing left to cover completes with the highest status among the requests it covered (R317). -/
def CoreState.fenceDone (x : CoreState) (f : Fence) : CoreState :=
  CoreState.tokDone { x with sram := nput 0 x.sram (f.cmdAddr + 13) (BitVec.ofNat 8 f.worst) } f.tok

/-- Complete the fences of an engine that cover nothing any more. -/
def Hw.runFences (s : Hw) (e : Nat) : Hw :=
  let x := s.spanEng e
  let s := x.fences.foldl (fun s f => if f.covers.isEmpty then s.onCore f.core fun c => c.fenceDone f else s) s
  s.setSpanEng e { s.spanEng e with fences := x.fences.filter fun f => !f.covers.isEmpty }

/-- A completion reported to the host through the window (R373). -/
def Hw.windowDone (s : Hw) (r : SpanReq) (status : Nat) (data : List Byte) : Hw :=
  let s := if r.op = 0 then
      { s with readData := if status = 0 then padTo r.size data else List.replicate r.size 0xFF } else s
  if status = 0 then s
  else { s with mbx := { s.mbx with winErr := true, winStatus := BitVec.ofNat 3 status } }

/-- Count and record a TARGET_DEAD or OUTCOME_UNKNOWN completion (R313, R314). -/
def Hw.spanFault (s : Hw) (r : SpanReq) (status : Nat) : Hw :=
  let rank := (addrRank r.address).toNat
  let loc := if r.core = hostCore then locEndpoint 2 else locCore r.core
  if status = 1 then
    ({ s with spn := { s.spn with deadCnt := s.spn.deadCnt + 1 } }.raise 27).record
      { cls := 0x24, loc := loc, address := r.address, data := dat [rank, r.op, r.tag] }
  else if status = 2 then
    ({ s with spn := { s.spn with unknownCnt := s.spn.unknownCnt + 1 } }.raise 28).record
      { cls := 0x25, loc := loc, address := r.address, data := dat [rank, r.tag, r.firstIssue.toNat] }
  else s

/-- A request completes: it leaves its engine, its core takes status and data, and fences that covered it count down. -/
def Hw.spanComplete (s : Hw) (e : Nat) (r : SpanReq) (status : Nat) (data : List Byte) (old : W64) : Hw :=
  let x := s.spanEng e
  let s := s.setSpanEng e { x with
    reqs := x.reqs.filter fun q => decide (q.order ≠ r.order)
    fences := x.fences.map fun f =>
      if f.covers.contains r.order then { f with covers := f.covers.erase r.order, worst := max f.worst status } else f }
  let s := if r.core = hostCore then s.windowDone r status data
    else s.onCore r.core fun c => c.spanDone r status data old
  (s.spanFault r status).runFences e

/-! ## Leaving (R304, R305, R310-R316) -/

/-- An access to a tier 4 home waits while Bus Master Enable is 0 (R374). -/
def Hw.tier4Waits (s : Hw) (off : Nat) : Bool :=
  !s.mayMaster && decide (off ≥ migBase) && decide ((s.home (pageOf off)).tier = 4)
    && decide ((s.home (pageOf off)).state ≠ .unmapped)

/-- Replace a request in its engine. -/
def Hw.setReq (s : Hw) (e : Nat) (r : SpanReq) : Hw :=
  let x := s.spanEng e
  s.setSpanEng e { x with reqs := x.reqs.map fun q => if q.order = r.order then r else q }

/-- The lender's rank and span address of an access to a page whose home is a neighbour's (R273, R276, R291). -/
def Hw.loanAddr (s : Hw) (off : Nat) : Option Nat :=
  if off < migBase then none
  else
    let h := s.home (pageOf off)
    if decide (h.tier = 3) && (decide (h.state = .home) || decide (h.state = .moving)) then
      some (bits h.location.toNat 15 0 * 2 ^ 48 + pageOff (bits h.location.toNat 46 16) + off % pageBytes)
    else none

/-- Send a request to the lender that holds its page; a lender that is dead answers TARGET_DEAD at once (R291, R306). -/
def Hw.sendLoan (s : Hw) (e : Nat) (r : SpanReq) (addr : Nat) : Hw :=
  let m : LMsg :=
    { kind := 0, destRank := addrRank addr, srcRank := s.spn.rank, ttl := 15, gen := s.spn.gen, vc := 0,
      word1 := 2 ^ 43 + mkEndpoint 0 2 * 2 ^ 22, stroke := s.stk.num.toNat
      specific := addr + r.op * 2 ^ 64 + b2n r.flag * 2 ^ 68 + (r.size - 1) * 2 ^ 70 + r.tag * 2 ^ 82 + e * 2 ^ 114
      payload := if r.op = 1 then r.data else if isAtomic r.op then
          leBytes 8 r.operand.toNat ++ leBytes 8 r.compare.toNat ++ leBytes 8 r.firstIssue.toNat else [] }
  let dead (s : Hw) : Hw :=
    let s := s.spanComplete e r 1 [] 0
    { s with spn := { s.spn with deadLoans := s.spn.deadLoans ++ [pageOf (addrOff r.address)] } }
  match s.tablesOf s.spn.gen with
  | none => dead s
  | some t =>
    let (node, valid, gone) := rankEntry t (addrRank addr)
    if !valid || gone then dead s
    else match s.linkTo t node with
      | none => s.leashDrop 0 true m.bytes
      | some q => (s.setReq e { r with port := q, via := addrRank addr, gen := s.spn.gen }).sendPort q m

/-- Serve a request of this module at home; a page in a neighbour is reached through its lender (R291, R312). -/
def Hw.serveOwn (s : Hw) (e : Nat) (r : SpanReq) : Hw :=
  let off := addrOff r.address
  let src := s.spn.rank.toNat
  match s.loanAddr off with
  | some a => (if r.op = 1 then (s.spanStore src off r.data).1 else s).sendLoan e r a
  | none =>
  if r.op = 0 then
    let (s, bs, st) := s.spanLoad src off r.size
    s.spanComplete e r st bs 0
  else if r.op = 1 then
    let (s, st) := s.spanStore src off r.data
    s.spanComplete e r st [] 0
  else
    let (s, old, st) := s.atomicApply
      { src := s.spn.rank, engine := e, tag := BitVec.ofNat 32 r.tag, firstIssue := r.firstIssue, op := r.op, off := off,
        operand := r.operand, compare := r.compare }
    s.spanComplete e r st [] old

/-- The SPAN_REQ message of a request (R302). -/
def reqMsg (s : Hw) (e : Nat) (r : SpanReq) : LMsg :=
  { kind := 0, destRank := addrRank r.address, srcRank := s.spn.rank, ttl := 15, gen := r.gen, vc := 0,
    word1 := if r.core = hostCore then 2 ^ 43 + mkEndpoint 0 2 * 2 ^ 22 else r.core * 2 ^ 22
    stroke := s.stk.num.toNat
    specific := r.address + r.op * 2 ^ 64 + b2n r.flag * 2 ^ 68 + b2n r.reissued * 2 ^ 69 + (r.size - 1) * 2 ^ 70
      + r.tag * 2 ^ 82 + e * 2 ^ 114
    payload := if r.op = 1 then r.data else if isAtomic r.op then
        leBytes 8 r.operand.toNat ++ leBytes 8 r.compare.toNat ++ leBytes 8 r.firstIssue.toNat else [] }

/-- Send a request on the current path under the current epoch: a rank with no generation, an invalid or a dead rank
answers TARGET_DEAD at once (R305, R306); a path with no usable link loses the message (R305). -/
def Hw.sendReq (s : Hw) (e : Nat) (r : SpanReq) : Hw :=
  match s.tablesOf s.spn.gen with
  | none => s.spanComplete e r 1 [] 0
  | some t =>
    let (node, valid, dead) := rankEntry t (addrRank r.address)
    if !valid || dead then s.spanComplete e r 1 [] 0
    else if node = Config.strapsNode.toNat then s.serveOwn e r
    else match s.linkTo t node with
      | none => (s.setReq e { r with via := addrRank r.address }).leashDrop 0 true (reqMsg s e r).bytes
      | some q => (s.setReq e { r with port := q, via := addrRank r.address }).sendPort q (reqMsg s e r)

/-- A request leaves its engine: it takes tag, epoch and path, and an atomic its first_issue (R314, R316). -/
def Hw.leave (s : Hw) (e : Nat) (r : SpanReq) : Hw :=
  let x := s.spanEng e
  let r := { r with left := true, tag := x.tagCtr.toNat, epoch := s.spn.epoch.toNat, gen := s.spn.gen,
                    firstIssue := s.stk.time }
  let s := (s.setSpanEng e { x with tagCtr := x.tagCtr + 1 }).setReq e r
  if s.ownRank (addrRank r.address) then s.serveOwn e r else s.sendReq e r

/-- Epochs under which a rank still owes this engine answers. -/
def owedEpochs (x : SpanEng) : List Nat := ((x.reqs.filter (·.left)).map (·.epoch)).eraseDups

/-- An engine's issue is held: eight epochs owe answers and a request of the current one would make a ninth (R316). -/
def Hw.epochHold (s : Hw) (x : SpanEng) : Bool :=
  !(owedEpochs x).contains s.spn.epoch.toNat && decide ((owedEpochs x).length ≥ 8)

/-- The rank that a request is sent to: its address's, or for a page lent to a neighbour the lender's (R291). -/
def Hw.towards (s : Hw) (r : SpanReq) : W16 :=
  if s.ownRank (addrRank r.address) then ((s.loanAddr (addrOff r.address)).map addrRank).getD (addrRank r.address)
  else addrRank r.address

/-- A taken request that must still wait in its engine (R309, R312, R315, R316, R362, R374). -/
def Hw.mustWait (s : Hw) (x : SpanEng) (r : SpanReq) (flags : Bool) : Bool :=
  decide ((x.reqs.filter (·.left)).length ≥ 512) ||
  s.epochHold x ||
  x.sweeps.any (fun w => decide (w.rank = (s.towards r).toNat)) ||
  x.reqs.any (fun q => decide (q.core = r.core) && decide (q.order < r.order) && !q.left
    && decide (addrRank q.address = addrRank r.address)) ||
  (decide (r.op = 1) && r.flag && (!flags ||
    x.reqs.any fun q => decide (q.core = r.core) && decide (q.order < r.order) && decide (1 ≤ q.op) && decide (q.op ≤ 9))) ||
  (s.ownRank (addrRank r.address) && (s.tier4Waits (addrOff r.address) || s.regionOff (addrOff r.address)))

/-- Let the taken requests of an engine leave in order, as far as they may; `flags` says whether held FLAG stores are
looked at. -/
def Hw.runEngine (s : Hw) (e : Nat) (flags : Bool) : Hw :=
  (s.spanEng e).reqs.foldl (fun s r =>
    let x := s.spanEng e
    match x.reqs.find? fun q => decide (q.order = r.order) with
    | none => s
    | some r => if !r.taken || r.left || s.mustWait x r flags then s else s.leave e r) s

/-- Take up the requests that a committed beat issued; a FENCE begins to cover every earlier request of its core that is
open (R311, R317). -/
def Hw.takeUp (s : Hw) (e stroke beat : Nat) : Hw :=
  let x := s.spanEng e
  let mine (r : SpanReq) : Bool := !r.taken && decide (r.stroke = stroke) && decide (r.beat = beat)
  let fences := (x.reqs.filter fun r => mine r && decide (r.op = 10)).map fun r =>
    { core := r.core, order := r.order, tok := r.tok, cmdAddr := r.cmdAddr, worst := 0,
      covers := (x.reqs.filter fun q => decide (q.core = r.core) && decide (q.order < r.order)
        && decide (q.op ≠ 10)).map (·.order) : Fence }
  let s := s.setSpanEng e { x with
    reqs := (x.reqs.filter fun r => !(mine r && decide (r.op = 10))).map fun r => if mine r then { r with taken := true } else r
    fences := x.fences ++ fences }
  (s.runFences e).runEngine e true

/-- Discard the requests that a replayed beat issued (R311). -/
def Hw.dropUntaken (s : Hw) (e stroke beat : Nat) : Hw :=
  let x := s.spanEng e
  s.setSpanEng e { x with reqs := x.reqs.filter fun r => r.taken || decide (r.stroke ≠ stroke) || decide (r.beat ≠ beat) }

/-! ## MEM SPN (R309, R310) -/

/-- SPN sends the command block that the scalar src_b names, and a store's data, to the core's engine. It waits while the
engine's 512 places and its queue of 64 are full; a request that breaks a rule of R310 completes BAD_REQUEST. -/
def execSpn (c : CoreId) (i : Ins) (s : State) : Out :=
  s.act fun s => (s.fetch c.toNat 10 i fun s =>
      let x := s.core c.toNat
      let a := (x.sreg i.srcB.toNat).toNat
      let e := engineOf c.toNat
      let g := s.spanEng e
      if !insClean i { tok := true, srcB := true } then s.programError c.toNat 0x01
      else if !isS i.srcB then s.programError c.toNat 0x02
      else if a + 32 > sramSize then s.programError c.toNat 0x03
      else if x.tokFull i.tok.toNat || decide (g.reqs.length + g.fences.length ≥ 576) then s
      else s.sramChecked c.toNat fun s =>
        let r := parseBlock x c.toNat g.nextOrder i.tok.toNat a s.stk.workStroke s.stk.beat
        let s := s.onCore c.toNat fun x => x.next.tokAdd i.tok.toNat
        if badRequest r.op r.address r.localAddr r.size then s.onCore c.toNat fun x => x.spanDone r 5 [] 0
        else s.setSpanEng e { g with reqs := g.reqs ++ [r], nextOrder := g.nextOrder + 1 })

/-- The open request of an engine that carries a tag. -/
def SpanEng.byTag (x : SpanEng) (tag : W32) : Option SpanReq :=
  x.reqs.find? fun r => r.left && decide (r.tag = tag.toNat)

/-! ## At the target (R305, R312, R314, R316) -/

/-- The peer link towards a rank by the active tables (R304, R305). -/
def Hw.rankPort (s : Hw) (rank : W16) : Option Nat :=
  (s.tablesOf s.spn.gen).bind fun t =>
    let (node, valid, _) := rankEntry t rank
    if valid then s.linkTo t node else none

/-- Send a message of this module to a rank by the active tables; with no usable path it is discarded (R305). -/
def Hw.sendRank (s : Hw) (rank : W16) (m : LMsg) : Hw :=
  match s.rankPort rank with
  | none => s.leashDrop 0 true m.bytes
  | some q => s.sendPort q m

/-- The SPAN_RSP that answers a request (R302). -/
def rspMsg (s : Hw) (rank : W16) (tag : W32) (engine status : Nat) (sweep : Bool) (payload : List Byte) : LMsg :=
  { kind := 1, destRank := rank, srcRank := s.spn.rank, ttl := 15, gen := s.spn.gen, vc := 1, stroke := s.stk.num.toNat,
    word1 := 2 ^ 21 + engine, specific := tag.toNat + status * 2 ^ 32 + engine * 2 ^ 36 + b2n sweep * 2 ^ 43,
    payload := payload }

/-- Serve a request of another rank: data or old value, and status (R310, R312, R314). -/
def Hw.serve (s : Hw) (m : SpanReqMsg) : Hw × List Byte × Nat :=
  let op := m.op.toNat
  let off := addrOff m.address.toNat
  let n := m.size.toNat + 1
  if badRequest op m.address.toNat 0 n || decide (op = 10) then (s, [], 5)
  else if op = 0 then s.spanLoad m.srcRank.toNat off n
  else if op = 1 then
    let (s, st) := s.spanStore m.srcRank.toNat off (padTo n m.data)
    (s, [], st)
  else
    let (s, old, st) := s.atomicApply
      { src := m.srcRank, engine := m.engine.toNat, tag := m.tag, firstIssue := m.firstIssue, op := op, off := off,
        operand := m.operand, compare := m.compare }
    (s, leBytes 8 old.toNat, st)

/-- The message that a SPAN_REQ arrived as, for forwarding. -/
def spanReqMsg (m : SpanReqMsg) : LMsg :=
  { kind := 0, destRank := m.destRank, srcRank := m.srcRank, ttl := m.ttl.toNat, gen := m.gen, vc := 0,
    specific := m.address.toNat + m.op.toNat * 2 ^ 64 + b2n m.flag * 2 ^ 68 + b2n m.reissue * 2 ^ 69
      + m.size.toNat * 2 ^ 70 + m.tag.toNat * 2 ^ 82 + m.engine.toNat * 2 ^ 114
    payload := if m.op = 1 then m.data else if isAtomic m.op.toNat then
        leBytes 8 m.operand.toNat ++ leBytes 8 m.compare.toNat ++ leBytes 8 m.firstIssue.toNat else [] }

/-- A span request at a peer-link ingress: answered here, forwarded, answered TARGET_DEAD or discarded (R305, R312). -/
def execSpanReq (p : PortIx) (m : SpanReqMsg) (s : State) : Out :=
  s.act fun s => (let way := s.ingress 0 m.destRank m.gen m.ttl.toNat
    if decide (way = .own) && s.regionOff (addrOff m.address.toNat) then s
    else
    let s := s.popInbox p.val 0
    match way with
    | .drop r => s.leashDrop p.val r (spanReqMsg m).bytes
    | .forward q => s.forward q (spanReqMsg m)
    | .dead => s.sendRank m.srcRank (rspMsg s m.srcRank m.tag m.engine.toNat 1 false [])
    | .own =>
      let (s, bs, st) := s.serve m
      s.sendRank m.srcRank (rspMsg s m.srcRank m.tag m.engine.toNat st false bs))

/-- Re-issue a lost request once, in its order and with its tag and first_issue, on the current path and under the current
epoch; one lost a second time completes TARGET_DEAD (R316). -/
def Hw.reissue (s : Hw) (e : Nat) (r : SpanReq) : Hw :=
  if r.reissued then s.spanComplete e r 1 [] 0
  else
    let r := { r with reissued := true, epoch := s.spn.epoch.toNat, gen := s.spn.gen }
    let s := { s with spn := { s.spn with reissueCnt := s.spn.reissueCnt + 1 } }
    let s := s.setReq e r
    if s.ownRank (addrRank r.address) then s.serveOwn e r else s.sendReq e r

/-- A SWEEP stands in a peer link's buffer as a message of kind 2 from the rank, its answer as a SPAN_RSP with the sweep bit. -/
def isSweep (engine : Nat) (rank : W16) (bs : List Byte) : Bool :=
  decide (at' bs 2 2 = rank.toNat) && decide (at' bs 16 1 % 128 = engine)

def isSweepRsp (engine : Nat) (rank : W16) (bs : List Byte) : Bool :=
  decide (at' bs 2 2 = rank.toNat) && decide (bits (at' bs 16 8) 42 36 = engine) && bit (at' bs 16 8) 43

/-- A SWEEP: where this module's engine awaits its answer, the requests of that rank and epoch still unanswered were lost
and are issued again; otherwise this module is the target and answers it (R316). -/
def execSweep (engine : Fin 96) (rank : W16) (epoch : W32) (s : State) : Out :=
  s.act fun s => (let x := s.spanEng engine.val
    let mine (w : Sweep) : Bool := decide (w.rank = rank.toNat) && decide (w.epoch = epoch.toNat)
    if x.sweeps.any mine then
      let s := s.popAny 1 (isSweepRsp engine.val rank)
      let s := s.setSpanEng engine.val { x with sweeps := x.sweeps.filter fun w => !mine w }
      let lost := x.reqs.filter fun r => r.left && decide (r.via = rank) && decide (r.epoch ≤ epoch.toNat)
      (lost.foldl (fun s r => s.reissue engine.val r) s).runEngine engine.val false
    else (s.popAny 2 (isSweep engine.val rank)).sendRank rank (rspMsg s rank 0 engine.val 0 true []))

/-- The span epoch steps: each engine sends a SWEEP on the old path for each rank that owes answers (R316). -/
def Hw.epochStep (s : Hw) : Hw :=
  let old := s.spn.epoch
  let s := { s with spn := { s.spn with epoch := old + 1 } }
  s.spn.engines.foldl (fun s en =>
    let owing := ((en.2.reqs.filter (·.left)).map fun r => (r.via, r.port, r.gen)).eraseDups
    let fresh := owing.filter fun o => !en.2.sweeps.any fun w => decide (w.rank = o.1.toNat)
    let s := s.setSpanEng en.1 { s.spanEng en.1 with
      sweeps := (s.spanEng en.1).sweeps ++ fresh.map fun o => { rank := o.1.toNat, epoch := old.toNat } }
    fresh.foldl (fun s o => s.sendPort o.2.1
      { kind := 2, destRank := o.1, srcRank := s.spn.rank, ttl := 15, gen := o.2.2, vc := 0,
        stroke := s.stk.num.toNat, specific := en.1 + old.toNat * 2 ^ 7, payload := [] }) s) s

/-! ## Table generations (R304, R306) -/

/-- SPN_TBL_CTL is written with commit: the shadow tables begin to load (R306). -/
def execTableCommit (stroke : BitVec 36) (s : State) : Out :=
  s.act fun s => (s.bar0 fun s => { s with spn := { s.spn with tblStroke := stroke, commit := true, loading := true, loaded := false } })

/-- The tables have been loaded into every port site and span engine (R306). -/
def execTableLoadDone (s : State) : Out :=
  s.act fun s => (if s.spn.loading then
      let base := s.spn.tblBase.toNat
      let t := (s.mem.filter fun e => decide (base ≤ e.1) && decide (e.1 < base + 0x60000)).map fun e => (e.1 - base, e.2)
      { s with spn := { s.spn with loading := false, loaded := true, shadowCopy := t } }
    else s)

/-- A stroke that is named by its low 36 bits has been reached. -/
def reached36 (num : W64) (stroke : BitVec 36) : Bool := decide ((num.setWidth 36 - stroke).toNat < 2 ^ 35)

/-- At a boundary a loaded generation whose stroke has come becomes active, and the span epoch steps (R306, R316). -/
def Hw.tableBoundary (s : Hw) : Hw :=
  let x := s.spn
  if x.commit && x.loaded && reached36 s.stk.num x.tblStroke then
    { s with spn := { x with previous := x.active, active := x.shadowCopy, shadowCopy := [], gen := x.gen + 1,
                             tables := true, commit := false, loaded := false } }.epochStep
  else s

/-- At a beat boundary the epoch steps after a port with forwarded traffic went DOWN (R316). -/
def Hw.failoverBoundary (s : Hw) : Hw :=
  if s.spn.failover then { s with spn := { s.spn with failover := false } }.epochStep else s

/-! ## The window (R373) -/

/-- The span address that a BAR4 offset reaches. -/
def Hw.windowAddr (s : Hw) (off : Nat) : Nat := s.mbx.winBase.toNat * 2 ^ 36 + off

/-- A failed access through the window. -/
def Hw.windowFail (s : Hw) (st : Nat) : Hw :=
  if st = 0 then s else { s with mbx := { s.mbx with winErr := true, winStatus := BitVec.ofNat 3 st } }

/-- A request of the host to another rank goes through span engine 0 of field 0. -/
def Hw.windowReq (s : Hw) (addr n : Nat) (store : Bool) (data : List Byte) : Hw :=
  let x := s.spanEng 0
  let r : SpanReq :=
    { core := hostCore, order := x.nextOrder, tok := 0, cmdAddr := 0, op := b2n store, flag := false, address := addr,
      localAddr := 0, size := n, operand := 0, compare := 0, data := data, stroke := 0, beat := 0, taken := true }
  (s.setSpanEng 0 { x with reqs := x.reqs ++ [r], nextOrder := x.nextOrder + 1 }).runEngine 0 false

/-- An access of the host to this module's own memory that nothing holds back: no earlier one of the host waits, its region is reachable
and no tier 4 home keeps it waiting (R312, R362, R373, R374). -/
def Hw.windowFree (s : Hw) (addr : Nat) : Bool :=
  s.ownRank (addrRank addr) && !(s.spanEng 0).reqs.any (fun r => decide (r.core = hostCore) && s.ownRank (addrRank r.address))
    && !s.tier4Waits (addrOff addr) && !s.regionOff (addrOff addr) && (s.loanAddr (addrOff addr)).isNone

/-- A BAR4 read: a span load whose data the host receives, all-ones with MBX_WIN.err where its status is not OK. -/
def execBar4Read (off : BitVec 36) (len : Nat) (s : State) : Out :=
  s.act fun s => (if !(s.glb.field.getLsbD 0 && s.inD0) then { s with readData := List.replicate len 0xFF } else
    let a := s.windowAddr off.toNat
    if s.windowFree a then
      let (s, bs, st) := s.spanLoadAny s.spn.rank.toNat (addrOff a) len
      { s with readData := if st = 0 then bs else List.replicate len 0xFF }.windowFail st
    else s.windowReq a len false [])

/-- A BAR4 write: a span store, with MBX_WIN.err where it fails. -/
def execBar4Write (off : BitVec 36) (data : List Byte) (s : State) : Out :=
  s.act fun s => (if !(s.glb.field.getLsbD 0 && s.inD0) then s else
    let a := s.windowAddr off.toNat
    if s.windowFree a then
      let (s, st) := s.spanStoreAny s.spn.rank.toNat (addrOff a) data
      s.windowFail st
    else s.windowReq a data.length true data)

end Sys2Proof.Machine
end

