-- ==== Sys2Proof/Machine/Herder.lean ====
section
/-!
DEFINITION. The herders: tokens (R144), logits and selection (R146-R151), settling (R152-R156), layer close (R157, R164,
R166), flags and trail records (R170-R175), sort mode (R177) and bias commits (R165).
-/
namespace Sys2Proof.Machine

/-! ## Keys and sections -/

/-- Key of an own token at a layer, and of an expert at a layer. -/
def lt (layer token : Nat) : Nat := layer * 2 ^ 17 + token

/-- Key of a token at a layer: one of an earlier stroke's table that has re-entered is not this stroke's token of its index. -/
def Hw.tokKey (s : Hw) (layer : Nat) (e : TokenEntry) : Nat :=
  lt layer e.token + (if e.origin = s.stk.workStroke then 0 else (e.origin + 1) * 2 ^ 25)

def le (layer expert : Nat) : Nat := layer * 2 ^ 14 + expert

/-- The herder section of the running billet. -/
def Hw.herderSec (s : Hw) : Option HerderSec := s.running.bind fun l => l.img.herder

/-- The descriptor of a layer number. -/
def HerderSec.layerOf (sec : HerderSec) (n : Nat) : Option Layer := sec.layers.find? fun l => decide (l.layer = n)

/-- The place of a layer in descriptor order. -/
def HerderSec.order (sec : HerderSec) (n : Nat) : Nat := sec.layers.findIdx fun l => decide (l.layer = n)

/-! ## Errors (R180) -/

/-- A herder error is counted, captured where none is, and flagged. -/
def Hw.herdCapture (s : Hw) (h code layer token : Nat) : Hw :=
  let s := s.onHerder h fun x =>
    let x := { x with errCount := satInc x.errCount }
    if x.errFlag then x
    else { x with errFlag := true, errLayer := BitVec.ofNat 8 layer, errToken := BitVec.ofNat 17 token
                  errCode := BitVec.ofNat 4 code }
  s.raise 8

/-- Cut a list into pieces. -/
def piecesOf {α : Type} (n : Nat) : Nat → List α → List (List α)
  | 0, _ => []
  | fuel + 1, xs => if xs.isEmpty then [] else xs.take n :: piecesOf n fuel (xs.drop n)

/-- A captured error with its HERDER_INPUT record: code, token, event identifier and late values, of 8 values a record
(R180, R342; the order and sizes in the 48 B are a DESIGN CHOICE, log 204). -/
def Hw.herdErrLate (s : Hw) (h code layer token : Nat) (event : W64) (late : List W32) : Hw :=
  let head := leBytes 4 code ++ leBytes 4 token ++ leBytes 8 event.toNat
  let parts := if late.isEmpty then [[]] else piecesOf 8 late.length late
  parts.foldl (fun s vs => s.record { cls := 0x10, loc := locEndpoint (mkEndpoint h 0), beat := s.stk.beat, detail := code
                                      data := head ++ vs.flatMap fun v => leBytes 4 v.toNat }) (s.herdCapture h code layer token)

/-- A captured error whose rule names no event and no values. -/
def Hw.herdErr (s : Hw) (h code layer token : Nat) : Hw := s.herdErrLate h code layer token 0 []

/-! ## Tokens (R144) -/

/-- Read a token entry of a stroke's table (R144). -/
def parseToken (stroke t : Nat) (bs : List Byte) : TokenEntry :=
  { token := t, eventId := BitVec.ofNat 64 (at' bs 0 8), arrival := BitVec.ofNat 64 (at' bs 8 8), sequence := at' bs 16 2
    herder := at' bs 18 1, context := at' bs 19 1 % 64, position := at' bs 20 4 % 2 ^ 24, home := at' bs 24 4 % 2 ^ 21
    adapter := at' bs 28 2, origin := stroke }

/-- Bonded memory offset of the token table of a stroke. -/
def HerderSec.tableOf (sec : HerderSec) (stroke : Nat) : Nat := sec.tokenOff + stroke % 2 * 2 ^ 22

/-- Indices of the entries of a herder's table that hold anything, ascending (which entries are a stroke's tokens is not
marked in the table; DESIGN CHOICE, log 16). -/
def Hw.tableIndices (s : Hw) (h : Nat) (sec : HerderSec) : List Nat :=
  let base := bonded h 0 (sec.tableOf s.stk.workStroke)
  (s.mem.foldl (fun acc e =>
    if base ≤ e.1 ∧ e.1 < base + 2 ^ 22 then
      let i := (e.1 - base) / 32
      if acc.head? = some i then acc else i :: acc
    else acc) []).reverse

/-- The herder's own tokens of the stroke, in ascending index. -/
def Hw.ownTokens (s : Hw) (h : Nat) (sec : HerderSec) : List TokenEntry :=
  let base := bonded h 0 (sec.tableOf s.stk.workStroke)
  ((s.tableIndices h sec).map fun i => parseToken s.stk.workStroke i (s.memRead (base + 32 * i) 32)).filter fun e => decide (e.herder = h)

/-- The herder's own token of an index in this stroke, and whether it is an excess token. -/
def Hw.ownToken (s : Hw) (h : Nat) (sec : HerderSec) (t : Nat) : Option (TokenEntry × Bool) :=
  let own := s.ownTokens h sec
  (own.find? fun e => decide (e.token = t)).map fun e => (e, !((own.take sec.tokenCap).any fun x => decide (x.token = t)))

/-- The tokens of an index that a message for a layer may be for: the herder's own unless it is in excess, then those that
re-entered at an earlier layer. -/
def Hw.openTokens (s : Hw) (h : Nat) (sec : HerderSec) (order t : Nat) : List TokenEntry :=
  (((s.ownToken h sec t).filter fun e => !e.2).map (·.1)).toList ++
    ((s.herder h).guests.filter fun p => decide (p.entry.token = t) && decide (sec.order p.layer < order)).map (·.entry)

/-! ## Expert tables (R163) -/

/-- Entry `e` of the expert table of a layer in bonded memory, as its 128 bits. A bias that a close of this stroke has replaced
is as it was: new biases take effect in the next stroke, and a replayed close computes the same (R164, R167). -/
def Hw.tableEntry (s : Hw) (h : Nat) (l : Layer) (e : Nat) : Nat :=
  let w := s.memNat (bonded h 0 (l.tableOff + 16 * e)) 16
  match (nget [] (s.herder h).replaced l.layer)[e]? with
  | some b => w / 2 ^ 32 * 2 ^ 32 + b
  | none => w

/-- Entry `e` as the herder routes by it: from the layer buffer that holds the layer's table, else from the table. -/
def Hw.expertEntry (s : Hw) (h : Nat) (l : Layer) (e : Nat) : Nat :=
  match ((s.herder h).bufs.find? fun b => decide (b.1 = l.layer)).bind fun b => b.2[e]? with
  | some w => w
  | none => s.tableEntry h l e

/-- Load a layer's expert table into the older of the two layer buffers, unless one holds it (R163). -/
def Hw.loadTable (s : Hw) (h : Nat) (l : Layer) : Hw :=
  let x := s.herder h
  if x.bufs.any fun b => decide (b.1 = l.layer) then s
  else s.setHerder h { x with bufs := (l.layer, (List.range (l.e + 1)).map fun e => s.tableEntry h l e) :: x.bufs.take 1 }

/-- The herder routes a layer: its table is in one buffer, and the next routed layer's is loaded into the other (R163; a load
when the layer is first routed is a DESIGN CHOICE, log 203). -/
def Hw.loadTables (s : Hw) (h : Nat) (sec : HerderSec) (l : Layer) : Hw :=
  let s := s.loadTable h l
  match sec.layers[sec.order l.layer + 1]? with
  | some next => s.loadTable h next
  | none => s

/-- The entry of an expert number: the shared expert's stands at index E. -/
def tableIx (l : Layer) (e : Nat) : Nat := if e < l.e then e else l.e

def entryUsable (w : Nat) : Bool := bit w 52
def entryCap (l : Layer) (w : Nat) : Option Nat :=
  let c := bits w 47 32
  if c ≠ 0 then some c else if l.capShare = 0xFFFF then none else some l.capShare

/-! ## Scoring and selection (R148-R151) -/

/-- Insert an expert behind every one whose key is not lower: equal keys rank the lower number first (R149). -/
def rankInsert (x : Nat × W32) : List (Nat × W32) → List (Nat × W32)
  | [] => [x]
  | y :: ys => if flt y.2 x.2 then x :: y :: ys else y :: rankInsert x ys

/-- Experts by key, highest first. -/
def rankAll (xs : List (Nat × W32)) : List (Nat × W32) := xs.foldl (fun r x => rankInsert x r) []

/-- Sum in the order given; an empty sum is −∞ here (R149). -/
def sumInOrder : List W32 → W32
  | [] => infF32 true
  | x :: xs => xs.foldl fadd x

/-- The groups that the group-limited function keeps (R149). -/
def keptGroups (l : Layer) (keys : List (Nat × W32)) : List Nat :=
  let per := l.e / l.g
  let score (q : Nat) : W32 :=
    sumInOrder (((rankAll (keys.filter fun e => decide (e.1 / per = q))).take l.terms).map (·.2))
  ((rankAll ((List.range l.g).map fun q => (q, score q))).take l.t).map (·.1)

/-- Gates of the chosen experts (R150): `ranking` is every eligible expert in rank order with the value its gate comes
from. -/
def gatesOf (l : Layer) (ranking : List (Nat × W32)) (chosen : List (Nat × W32)) : List W32 :=
  let p : W32 → W32 :=
    if l.score = 0 then
      let m := ranking.foldl (fun m e => fmax m e.2) (infF32 true)
      if m = infF32 false then
        let n := (ranking.filter fun e => decide (e.2 = infF32 false)).length
        let share := fdiv 0x3F800000 (roundF32 .rne false n 0)
        fun x => if x = infF32 false then share else 0
      else
        let e (x : W32) : W32 := expF32 4 (fsub x m)
        let sum := match ranking with
          | [] => 0
          | r :: rs => rs.foldl (fun a q => fadd a (e q.2)) (e r.2)
        fun x => fdiv (e x) sum
    else sigmoidF32
  let ps := chosen.map fun c => p c.2
  let gs := if l.normalise then
      let d := match ps with
        | [] => 0
        | q :: qs => qs.foldl fadd q
      if (f32val d).isZero then ps.map fun _ => 0 else ps.map fun q => fdiv q d
    else ps
  gs.map fun g => fmul g l.routeScale

/-- The margin between two ranks of the key domain, +∞ where the lower does not exist (R151). -/
def marginOf (ranked : List (Nat × W32)) (a b : Nat) : W16 :=
  match ranked[a]?, ranked[b]? with
  | some x, some y => bf16 (fsub x.2 y.2)
  | _, _ => 0x7F80

/-- Score a token and choose its experts from its logits (R148-R151). -/
def selectExperts (l : Layer) (bias logit : Nat → W32) : Scored :=
  let all := List.range l.e
  let elig := all.filter fun i => !(f32val (logit i)).isNan
  let c (i : Nat) : W32 := fadd (logit i) (bias i)
  let keys := elig.map fun i => (i, if l.score = 0 then c i else sigmoidF32 (c i))
  let ranking := rankAll keys
  let listed := if l.score = 2 then
      let kept := keptGroups l keys
      ranking.filter fun e => kept.contains (e.1 / (l.e / l.g))
    else ranking
  let ranked := listed.take (l.k + 16)
  let x (i : Nat) : W32 := if l.biasMode then c i else logit i
  let chosen := (ranked.take l.k).map fun e => (e.1, x e.1)
  { ranked := ranked, gates := gatesOf l (ranking.map fun e => (e.1, x e.1)) chosen
    margin12 := marginOf ranked 0 1, marginK := marginOf ranked (l.k - 1) l.k
    nanLogit := all.any fun i => (f32val (logit i)).isNan }

/-! ## Logits (R146, R147) -/

/-- Widen a logit exactly to FP32 (R146). -/
def widenLogit (format : Nat) (w : W32) : W32 :=
  match format with
  | 0 => w
  | 1 => ofBF16 (w.setWidth 16)
  | _ => f32of (fmtE4M3.decode (w.toNat % 256))

/-- What a LOGITS part meets: an error code, or the layer and the token it is for. Of tokens of one index, a re-entered one
among them, it is for the first that it does not overlap (DESIGN CHOICE, log 202). -/
def Hw.logitsError (s : Hw) (h : Nat) (m : LogitsMsg) : Option Nat × Option (Layer × TokenEntry) :=
  match s.herderSec with
  | none => (some 1, none)
  | some sec => match sec.layerOf m.layer.toNat with
    | none => (some 1, none)
    | some l =>
      let x := s.herder h
      let first := m.first.toNat
      let overlapped (e : TokenEntry) : Bool :=
        let key := s.tokKey l.layer e
        x.scored.any (fun q => decide (q.1 = key))
          || (nget [] x.logits key).any fun q => decide (first ≤ q.1) && decide (q.1 < first + m.values.length)
      match s.openTokens h sec (sec.order l.layer) m.token.toNat with
      | [] => (some 2, none)
      | es =>
        if m.format = 3 then (some 1, none)
        else if first + m.values.length > l.e then (some 3, none)
        else match es.filter fun e => !x.late.contains (s.tokKey l.layer e) with
          | [] => (some 6, none)
          | es => match es.find? fun e => !overlapped e with
            | none => (some 4, none)
            | some e => (none, some (l, e))

/-- Enter a part's logits; when every expert has one, the token is scored (R146, R149). -/
def Hw.takeLogits (s : Hw) (h : Nat) (l : Layer) (e : TokenEntry) (m : LogitsMsg) : Hw :=
  let key := s.tokKey l.layer e
  let x := s.herder h
  let vals := m.values.map (widenLogit m.format.toNat)
  let got := (List.range vals.length).foldl (fun g i => ninsert (m.first.toNat + i) (vals.getD i 0) g)
    (nget [] x.logits key)
  if got.length = l.e then
    let bias (i : Nat) : W32 := BitVec.ofNat 32 (s.expertEntry h l i)
    let sc := selectExperts l bias (fun i => nget 0 got i)
    s.setHerder h { x with logits := nerase key x.logits, scored := x.scored ++ [(key, sc)] }
  else s.setHerder h { x with logits := ninsert key got x.logits }

/-- A herder takes a LOGITS part (R145, R146, R147). -/
def execLogits (h : FieldIx) (m : LogitsMsg) (s : State) : Out :=
  s.act fun s => (match s.herderSec, s.logitsError h.val m with
    | some sec, (none, some (l, e)) => (s.loadTables h.val sec l).takeLogits h.val l e m
    | _, (some code, _) => s.herdErr h.val code m.layer.toNat m.token.toNat
    | _, (none, _) => s)

/-! ## Lists out (R156, R157, R159) -/

/-- The core that a herder's message to a core goes to, through the remap list (R168). -/
def Herder.remapTo (x : Herder) (c : Nat) : Nat :=
  match x.remap.find? fun r => decide (r.1 = c) with
  | some r => r.2
  | none => c

/-- The waypoint of a herder's message to a field: where its path crosses a deep-parked field, the one the waypoint table gives
(R159). -/
def Hw.herderWay (s : Hw) (h dest : Nat) : Option Nat :=
  match s.herderSec with
  | none => none
  | some sec =>
    match (pathFields false h dest).find? fun f => decide ((s.fld f).state = .deepParked) with
    | none => none
    | some f =>
      let w := sec.waypoints.getD (h * 48 + f) 0xFFFFFFFF
      if w = 0xFFFFFFFF then none else some w

/-- A herder sends a message to a core or an endpoint on the express plane (R159). -/
def Hw.herderMsg (s : Hw) (h dest : Nat) (destEndpoint : Bool) (channel kind : Nat) (payload : List Byte) : Hw :=
  let way := s.herderWay h (if destEndpoint then endpointField dest else coreField dest)
  { s with fabric := s.fabric ++ [{ unitMsg s (mkEndpoint h 0) dest destEndpoint channel kind payload with waypoint := way }] }

/-- A herder's message to a core, through the remap list (R168). -/
def Hw.herderSend (s : Hw) (h core channel : Nat) (payload : List Byte) : Hw :=
  s.herderMsg h ((s.herder h).remapTo core) false channel 0 payload

/-- A message of a herder to the event unit, which its TRAIL_NOTICE or DEFERRAL_NOTICE command takes (R46, R154). -/
def Hw.noticeSend (s : Hw) (h kind : Nat) (words : List W64) : Hw :=
  s.herderMsg h 8 true 0 kind (words.flatMap fun w => leBytes 8 w.toNat)

/-- One dispatched place of a token: used expert, gate, lowest slot, position. -/
structure Place where
  expert : Nat
  gate : W32
  slot : Nat
  pos : Nat
  deriving DecidableEq, Repr

/-- The places a token's slots send to, sorted by expert, two spills to the shared expert merged with their gates added
in rank order (R155, R156). -/
def placesOf (slots : List Slot) : List (Nat × W32 × Nat) :=
  let sends := ((List.range slots.length).zip slots).filter fun e => decide (e.2.out ≠ .dropped) && decide (e.2.out ≠ .empty)
  let merged := sends.foldl (fun (m : NMap (W32 × Nat)) e =>
    match m.find? fun p => decide (p.1 = e.2.used) with
    | some p => ninsert e.2.used (fadd p.2.1 e.2.gate, p.2.2) m
    | none => ninsert e.2.used (e.2.gate, e.1) m) []
  merged.map fun p => (p.1, p.2.1, p.2.2)

/-- The combine list of a token (R156). -/
def combineBytes (t layer : Nat) (inputLate deferred : Bool) (l : Layer) (entry : Nat → Nat) (ps : List Place) : List Byte :=
  let head := t + layer * 2 ^ 17 + ps.length * 2 ^ 25 + b2n inputLate * 2 ^ 30 + b2n deferred * 2 ^ 31
  leBytes 16 head ++ ps.flatMap fun p =>
    let w := entry (tableIx l p.expert)
    let remote := bit w 93
    leBytes 8 (p.expert + b2n remote * 2 ^ 14 + bits w 92 85 * 2 ^ 16 + p.pos % 2 ^ 16 * 2 ^ 24 + bits w 84 64 * 2 ^ 40)
      ++ leBytes 8 (p.gate.toNat + (if remote then bits w 109 94 else 0) * 2 ^ 32 + p.slot * 2 ^ 48)

/-! ## Settling (R153-R155) -/

/-- What settling a token's slots has used so far. -/
structure SettleAcc where
  counts : NMap Nat
  spills : Nat
  used : List Nat
  slots : List Slot
  deriving DecidableEq, Repr

/-- The next ranked expert, beyond the chosen ones, that is usable, unused by the token and has room (R155). -/
def searchRank (ranked : List (Nat × W32)) (k depth : Nat) (ok : Nat → Bool) : Option Nat :=
  (((ranked.drop k).take depth).map (·.1)).find? ok

/-- Settle slot `r` of a token (R155). `entry` gives expert table entries. -/
def settleSlot (l : Layer) (entry : Nat → Nat) (sc : Scored) (a : SettleAcc) (r : Nat) : SettleAcc :=
  let usable (e : Nat) : Bool := entryUsable (entry (tableIx l e))
  let room (e : Nat) : Bool := match entryCap l (entry e) with
    | none => true
    | some cap => decide (nget 0 a.counts (le l.layer e) < cap)
  match (sc.ranked.take l.k)[r]? with
  | none => { a with slots := a.slots ++ [{ chosen := 2 ^ 14, used := 2 ^ 14, out := .empty, key := 0, gate := 0 }] }
  | some (c, key) =>
    let gate := sc.gates.getD r 0
    let ok (e : Nat) : Bool := usable e && !a.used.contains e && room e
    let (e, out) : Option Nat × SlotOut :=
      if usable c then (some c, .routed) else (searchRank sc.ranked l.k l.subDepth ok, .substituted)
    let (e, out) : Option Nat × SlotOut := match e with
      | none => (none, out)
      | some x =>
        if room x then (some x, out)
        else if l.overflow = 1 then (searchRank sc.ranked l.k l.nextDepth ok, .nextChoice)
        else if l.overflow = 2 then
          (if a.used.contains l.shared then some l.shared
           else if usable l.shared && decide (a.spills < l.spillCap) then some l.shared else none, .spilled)
        else (none, out)
    match e with
    | none => { a with slots := a.slots ++ [{ chosen := c, used := c, out := .dropped, key := key, gate := gate }] }
    | some x =>
      let spilled := decide (out = .spilled)
      let fresh := spilled && !a.used.contains l.shared
      { counts := if spilled then a.counts else nput 0 a.counts (le l.layer x) (nget 0 a.counts (le l.layer x) + 1)
        spills := if fresh then a.spills + 1 else a.spills
        used := if a.used.contains x then a.used else a.used ++ [x]
        slots := a.slots ++ [{ chosen := c, used := x, out := out, key := key, gate := gate }] }

/-- A slot of a token whose logits came late (R147). -/
def lateSlot : Slot := { chosen := 2 ^ 14, used := 2 ^ 14, out := .dropped, key := 0, gate := 0 }

def SlotOut.code : SlotOut → Nat
  | .routed => 0 | .substituted => 1 | .nextChoice => 2 | .spilled => 3 | .dropped => 4 | .empty => 5

/-- The 8 B word of a slot (R174); where no expert was chosen, the fields that the manual leaves open are a free value. -/
def slotWord (d r : Nat) (x : Slot) : Nat :=
  if x.chosen < 2 ^ 14 then
    x.chosen + x.used * 2 ^ 14 + x.out.code * 2 ^ 28 + (bf16 x.key).toNat * 2 ^ 32 + (bf16 x.gate).toNat * 2 ^ 48
  else
    let f := (Config.noExpertSlot d r).toNat
    bits f 27 0 + x.out.code * 2 ^ 28 + bits f 47 32 * 2 ^ 32 + (if x.out = .empty then 0 else bits f 63 48) * 2 ^ 48

/-- How many slots of a token had an outcome. -/
def countOut (o : SlotOut) (slots : List Slot) : Nat := (slots.filter fun x => decide (x.out = o)).length

/-- A token that settles: its entry, its selection (none when its logits were late), its deferrals at this layer. -/
structure Settling where
  entry : TokenEntry
  scored : Option Scored
  defers : Nat
  excess : Bool
  deriving DecidableEq, Repr

/-- The stroke in which a token's event arrived: the event unit knows it; a token with no event arrived in the stroke that
first routes it. -/
def Hw.arrivalStroke (s : Hw) (e : TokenEntry) : Nat :=
  match (s.evu.taken ++ s.evu.owed ++ s.evu.deferred).find? fun v => decide (v.arrival = e.arrival) with
  | some v => v.arrivalStroke
  | none => s.stk.workStroke

/-- The 8 + 8k B of a routing entry (R174). -/
def RouteEntry.bytes (r : RouteEntry) : List Byte :=
  leBytes 8 (r.layer + r.slots.length * 2 ^ 8 + b2n r.deferred * 2 ^ 13 + b2n r.inputLate * 2 ^ 14 + b2n r.nanLogit * 2 ^ 15
      + r.margin12.toNat * 2 ^ 16 + r.marginK.toNat * 2 ^ 32 + r.defers * 2 ^ 48)
    ++ ((List.range r.slots.length).zip r.slots).flatMap fun e => leBytes 8 (slotWord r.draw e.1 e.2)

/-- Offset of the record extension in a staging slot of a herder's field (R161, R172; the slot is laid out as the record
it becomes, DESIGN CHOICE, log 21). -/
def HerderSec.extOff (sec : HerderSec) (h slot : Nat) : Nat :=
  bonded h 0 (sec.stagingOff + slot * (256 + sec.extMax) + 0x100)

/-- Insert a routing entry in ascending layer order, behind those of its own layer (R172, R174). -/
def insertRoute (r : RouteEntry) : List RouteEntry → List RouteEntry
  | [] => [r]
  | q :: qs => if r.layer < q.layer then r :: q :: qs else q :: insertRoute r qs

/-- The entries that go into the record's extension (R162, R174). -/
def Staging.extension (g : Staging) : List Byte := (g.routing.filter (·.captured)).flatMap RouteEntry.bytes

/-- Enter a routing entry for a token, in its staging slot where the layer is captured; it takes the slot at its first captured
layer (R172). -/
def Hw.stage (s : Hw) (h : Nat) (sec : HerderSec) (l : Layer) (e : TokenEntry) (r : RouteEntry) : Hw :=
  let last := decide (sec.order l.layer + 1 = sec.layers.length)
  let x := s.herder h
  let old : Staging := (x.staging.find? fun g => decide (g.entry = e)).getD { entry := e, arrivalStroke := s.arrivalStroke e }
  let taken := x.staging.filterMap (·.slot)
  let free := (List.range (min sec.stagingSlots (taken.length + 1))).find? fun n => !taken.contains n
  let slot := if l.capture then (old.slot).or free else old.slot
  let g : Staging := { old with slot := slot, routing := insertRoute { r with captured := l.capture } old.routing
                                complete := old.complete || last }
  let s := s.setHerder h { x with staging := (x.staging.filter fun q => decide (q.entry ≠ e)) ++ [g] }
  match slot with
  | none => s
  | some n => s.memWrite (sec.extOff h n) g.extension

/-- Settle the slots of a token whose turn has come: counters, positions, combine list, dispatch entries, stash and
staging (R155-R157, R172, R176). -/
def Hw.settleToken (s : Hw) (h : Nat) (sec : HerderSec) (l : Layer) (t : Settling) : Hw :=
  let entry (i : Nat) : Nat := s.expertEntry h l i
  let x := s.herder h
  let a0 : SettleAcc := { counts := x.counts, spills := nget 0 x.spills l.layer, used := [], slots := [] }
  let a := match t.scored with
    | some sc => if t.excess then a0 else (List.range l.k).foldl (settleSlot l entry sc) a0
    | none => if t.excess then a0 else { a0 with slots := List.replicate l.k lateSlot }
  let inputLate := t.scored.isNone && !t.excess
  let ps := placesOf a.slots
  let ps : List Place := ps.map fun p =>
    { expert := p.1, gate := p.2.1, slot := p.2.2, pos := nget 0 x.positions (le l.layer p.1) }
  let x := { x with
    tokens := x.tokens + 1, counts := a.counts, spills := nput 0 x.spills l.layer a.spills
    subst := x.subst + BitVec.ofNat 64 (countOut .substituted a.slots)
    nextCnt := x.nextCnt + BitVec.ofNat 64 (countOut .nextChoice a.slots)
    spillCnt := x.spillCnt + BitVec.ofNat 64 (countOut .spilled a.slots)
    dropCnt := x.dropCnt + BitVec.ofNat 64 (countOut .dropped a.slots)
    positions := ps.foldl (fun m p => nput 0 m (le l.layer p.expert) (p.pos + 1)) x.positions
    dispatch := ps.foldl (fun m p =>
      let d : Dispatch := { token := t.entry.token, home := t.entry.home, remote := bit (entry (tableIx l p.expert)) 93
                            gate := p.gate }
      nput [] m (le l.layer p.expert) (nget [] m (le l.layer p.expert) ++ [d])) x.dispatch
    usedExperts := nput [] x.usedExperts l.layer (nget [] x.usedExperts l.layer ++
      ((a.slots.filter fun q => decide (q.out ≠ .dropped) && decide (q.out ≠ .empty)).map (·.used)))
    demand := nput [] x.demand l.layer (nget [] x.demand l.layer ++
      ((a.slots.filter fun q => decide (q.out = .substituted)).map (·.chosen))) }
  let s := s.setHerder h x
  let s := s.herderSend h t.entry.home l.tokenChannel
    (combineBytes t.entry.token l.layer inputLate (decide (t.defers > 0)) l entry ps)
  if t.excess then s
  else
    let d := s.draws
    let s := if a.slots.all fun q => decide (q.chosen < 2 ^ 14) then s else { s with draws := d + 1 }
    let s := if l.stash then s.memWrite (bonded h 0 (l.stashOff + t.entry.token * 8 * l.k))
        (((List.range l.k).zip a.slots).flatMap fun e => leBytes 8 (slotWord d e.1 e.2)) else s
    let sc := t.scored
    s.stage h sec l t.entry
      { layer := l.layer, deferred := decide (t.defers > 0), inputLate := inputLate
        nanLogit := (sc.map (·.nanLogit)).getD false, margin12 := (sc.map (·.margin12)).getD 0x7F80
        marginK := (sc.map (·.marginK)).getD 0x7F80, defers := t.defers, slots := a.slots, draw := d }

/-- A token is deferred whole into the layer's pool (R154): it keeps its ranked list, keys and gates, and the event unit
is told. -/
def Hw.deferToken (s : Hw) (h : Nat) (l : Layer) (e : TokenEntry) (sc : Scored) (defers : Nat) : Hw :=
  let missing := ((sc.ranked.take l.k).map (·.1)).filter fun c => !entryUsable (s.expertEntry h l c)
  let s := s.onHerder h fun x =>
    { x with pool := x.pool ++ [{ layer := l.layer, stroke := s.stk.workStroke, entry := e, scored := sc, defers := defers + 1 }]
             deferCnt := x.deferCnt + 1
             demand := nput [] x.demand l.layer (nget [] x.demand l.layer ++ missing)
             staging := x.staging.map fun g => if g.entry = e then { g with deferStrokes := satAdd 8 g.deferStrokes 1 } else g }
  s.noticeSend h 5 [e.eventId, e.arrival]

/-- Whether a scored token is deferred: under DEFER, with a chosen expert that is not usable, deferrals left and room in
the pool (R154). -/
def Hw.mustDefer (s : Hw) (h : Nat) (l : Layer) (sc : Scored) (defers : Nat) : Bool :=
  let x := s.herder h
  let held := (x.pool.filter fun p => decide (p.layer = l.layer)).length
    + (x.reenter.filter fun p => decide (p.layer = l.layer)).length
  l.defer && ((sc.ranked.take l.k).any fun c => !entryUsable (s.expertEntry h l c.1))
    && decide (defers < l.maxDefer) && decide (held < l.deferSlots)

/-- Tokens of the stroke that a layer settles after the re-entering ones, in ascending index: the herder's own and those
that re-entered at an earlier layer, without those deferred in this stroke (R153). -/
def Hw.layerTokens (s : Hw) (h : Nat) (sec : HerderSec) (l : Layer) : List (TokenEntry × Bool) :=
  let x := s.herder h
  let own := s.ownTokens h sec
  let marked := (List.range own.length).zip own |>.map fun e => (e.2, decide (e.1 ≥ sec.tokenCap))
  let guests := (x.guests.filter fun p => decide (sec.order p.layer < sec.order l.layer)).map fun p => (p.entry, false)
  let all := (marked ++ guests).filter fun e => !(x.pool.any fun p => decide (p.entry = e.1))
  all.foldl (fun r e =>
    let (a, b) := r.span fun q => decide (q.1.token ≤ e.1.token)
    a ++ e :: b) []

/-- The next token of a layer that has not settled, with its selection if it has one (R153): a re-entering token first. -/
def Hw.nextToken (s : Hw) (h : Nat) (sec : HerderSec) (l : Layer) : Option (Settling × Bool) :=
  let x := s.herder h
  match x.reenter.find? fun p => decide (p.layer = l.layer) with
  | some p => some ({ entry := p.entry, scored := some p.scored, defers := p.defers, excess := false }, true)
  | none =>
    match (s.layerTokens h sec l).find? fun e => !x.settled.contains (s.tokKey l.layer e.1) with
    | none => none
    | some (e, excess) =>
      some ({ entry := e, scored := (x.scored.find? fun q => decide (q.1 = s.tokKey l.layer e)).map (·.2), defers := 0
              excess := excess }, false)

/-- The next token of the layer's order settles, or is deferred, if it is scored, late, excess or re-entering (R153,
R154). -/
def Hw.settleNext (s : Hw) (h : Nat) (sec : HerderSec) (l : Layer) : Hw :=
  match s.nextToken h sec l with
  | none => s
  | some (t, again) =>
    let key := s.tokKey l.layer t.entry
    let late := (s.herder h).late.contains key
    if !again && !t.excess && t.scored.isNone && !late then s
    else
      let s := if again then s.onHerder h fun x =>
          { x with reenter := x.reenter.filter fun p => !(decide (p.layer = l.layer) && decide (p.entry = t.entry)) }
        else s.onHerder h fun x => { x with settled := key :: x.settled }
      match t.scored with
      | some sc =>
        if !t.excess && s.mustDefer h l sc t.defers then s.deferToken h l t.entry sc t.defers
        else
          let s := if again then s.onHerder h fun x =>
              { x with guests := x.guests ++ [{ layer := l.layer, stroke := s.stk.workStroke, entry := t.entry, scored := sc
                                                defers := t.defers }] }
            else s
          s.settleToken h sec l t
      | none => s.settleToken h sec l t

/-- A token settles once every earlier one has (R153, R155). -/
def execTokenSettle (h : FieldIx) (layer : BitVec 8) (s : State) : Out :=
  s.act fun s => (match s.herderSec with
    | none => s
    | some sec => match sec.layerOf layer.toNat with
      | none => s
      | some l => (s.loadTables h.val sec l).settleNext h.val sec l)

/-- At the end of a layer's route_beat every token that is still incomplete is late: code 5 and a record for each, and the
layer's tokens settle (R147). -/
def Hw.logitsLate (s : Hw) (h : Nat) (sec : HerderSec) (l : Layer) : Hw :=
  let x := s.herder h
  let ts := (s.layerTokens h sec l).filter fun e => !e.2
  let lates := ts.filter fun e =>
    let key := s.tokKey l.layer e.1
    !x.settled.contains key && !(x.scored.any fun q => decide (q.1 = key))
  let s := lates.foldl (fun s e =>
    let key := s.tokKey l.layer e.1
    (s.onHerder h fun x => { x with late := key :: x.late, logits := nerase key x.logits }).herdErr h 5 l.layer e.1.token) s
  let s := s.loadTables h sec l
  (List.range (x.reenter.length + (s.layerTokens h sec l).length)).foldl (fun s _ => s.settleNext h sec l) s

/-- Every herder at the end of a beat: layers whose route_beat it is (R147). -/
def Hw.logitsLateAll (s : Hw) (beat : Nat) : Hw :=
  match s.herderSec with
  | none => s
  | some sec => (List.range 48).foldl (fun s h =>
      (sec.layers.filter fun l => decide (l.routeBeat = beat)).foldl (fun s l => s.logitsLate h sec l) s) s

/-! ## Layer close (R157, R164, R166) -/

/-- A message of a dispatch list (R157). -/
def dispatchBytes (expert layer h rank : Nat) (ds : List Dispatch) : List Byte :=
  leBytes 16 (expert + layer * 2 ^ 14 + h * 2 ^ 22 + ds.length * 2 ^ 28) ++ ds.flatMap fun d =>
    leBytes 8 (d.token + d.home * 2 ^ 17 + b2n d.remote * 2 ^ 38) ++ leBytes 8 (d.gate.toNat + rank * 2 ^ 32)

/-- Send an expert's dispatch list to its station, in messages of whole entries within a payload's limit. A station on another
module gets it as an ACT message (DESIGN CHOICE, log 17), which goes over the fabric to the site of the port towards that module
and waits there for its beat (R158, R167, R333). -/
def Hw.sendDispatch (s : Hw) (h : Nat) (l : Layer) (expert : Nat) (ds : List Dispatch) : Hw :=
  let w := s.expertEntry h l (tableIx l expert)
  let station := bits w 84 64
  let mine := s.spn.rank.toNat
  if bit w 93 then
    let rank := bits w 109 94
    let bs := dispatchBytes expert l.layer h mine
    (piecesOf 253 ds.length ds).foldl (fun s p =>
      let m : LMsg := { kind := 3, destRank := BitVec.ofNat 16 rank, srcRank := s.spn.rank, ttl := 15, gen := s.spn.gen, vc := 2
                        word1 := station + (mkEndpoint h 0) * 2 ^ 22 + 2 ^ 43, stroke := s.stk.workStroke % 4
                        specific := 0, payload := bs p }
      match s.rankPort m.destRank with
      | none => s.leashDrop 0 true m.bytes
      | some q => s.herderMsg h (peerSite q) true 0 3 m.bytes) s
  else (piecesOf 255 ds.length ds).foldl (fun s p => s.herderSend h station l.expertChannel (dispatchBytes expert l.layer h mine p)) s

/-- The load array, and with auto_bias the new biases (R164). The herder keeps the biases that it replaces, for a replay of the
close (R167). -/
def Hw.writeLoads (s : Hw) (h : Nat) (l : Layer) : Hw :=
  let x := s.herder h
  let count (i : Nat) : Nat := nget 0 x.counts (le l.layer i)
  let loadOff := l.tableOff + 20 * (l.e + 1)
  let loads := ((List.range l.e).flatMap fun i => leBytes 4 (count i)) ++ leBytes 4 (nget 0 x.spills l.layer)
  let s := s.memWrite (bonded h 0 loadOff) loads
  if !l.autoBias then s
  else
    let sum := (List.range l.e).foldl (fun a i => a + count i) 0
    let old := (List.range l.e).map fun i => s.expertEntry h l i % 2 ^ 32
    let s := s.onHerder h fun x => { x with replaced := ninsert l.layer old x.replaced }
    (List.range l.e).foldl (fun s i =>
      let b : W32 := BitVec.ofNat 32 (old.getD i 0)
      let d : W32 := if sum > count i * l.e then l.biasStep else if sum < count i * l.e then fneg l.biasStep else 0
      let v := fmax (fneg l.biasLimit) (fmin (fadd b d) l.biasLimit)
      s.memWrite (bonded h 0 (l.tableOff + 16 * i)) (leBytes 4 v.toNat)) s

/-- A prefetch request to the tongs queue that an expert's entry names (R166, R281). -/
def Hw.sendPrefetch (s : Hw) (h : Nat) (l : Layer) (e : Nat) (demand : Bool) : Hw :=
  let w := s.expertEntry h l e
  let dest := mkEndpoint (bits w 115 110) (4 + bits w 116 116)
  let w0 := b2n demand * 8 + l.layer * 2 ^ 8 + e * 2 ^ 16
  let s := s.onHerder h fun x => { x with pfCnt := x.pfCnt + 1 }
  s.herderMsg h dest true 0 1 (leBytes 8 w0 ++ leBytes 8 0)

/-- The successors of an expert: (expert, distance, weight), distance 0 unused (R166). -/
def Hw.successors (s : Hw) (h : Nat) (l : Layer) (e : Nat) : List (Nat × Nat × Nat) :=
  if l.succOff = 0 then []
  else
    let bs := s.memRead (bonded h 0 (l.succOff + 16 * tableIx l e)) 16
    ((List.range 4).map fun i =>
      let w := at' bs (4 * i) 4
      (bits w 13 0, bits w 15 14, bits w 23 16)).filter fun x => decide (x.2.1 ≠ 0)

/-- Votes of one distance, saturating at 65,535 (R166). -/
def Hw.votes (s : Hw) (h : Nat) (l : Layer) (d : Nat) : NMap Nat :=
  (nget [] (s.herder h).usedExperts l.layer).foldl (fun m e =>
    (s.successors h l e).foldl (fun m x =>
      if x.2.1 = d then nput 0 m x.1 (satAdd 16 (nget 0 m x.1) x.2.2) else m) m) []

/-- Experts of a layer that have at least the votes of the threshold, by vote descending, then number ascending (R166). -/
def byVote (n threshold : Nat) (vs : NMap Nat) : List Nat :=
  (((List.range n).map fun y => (y, nget 0 vs y)).foldl (fun r e =>
    if e.2 < threshold then r
    else
      let (a, b) := r.span fun q => decide (q.2 ≥ e.2)
      a ++ e :: b) []).map (·.1)

/-- Demand and predicted prefetch requests at a layer close (R166). -/
def Hw.predict (s : Hw) (h : Nat) (sec : HerderSec) (l : Layer) : Hw :=
  let demand := (nget [] (s.herder h).demand l.layer).foldl (fun (m : NMap Nat) e => ninsert e 1 m) []
  let s := demand.foldl (fun s e => s.sendPrefetch h l e.1 true) s
  ([1, 2, 3].foldl (fun (p : Hw × Nat) d =>
    match sec.layers[sec.order l.layer + d]? with
    | none => p
    | some l' =>
      (byVote l'.e l.pfThreshold (s.votes h l d)).foldl (fun p e =>
        if !entryUsable (s.expertEntry h l' e) && decide (p.2 < l.pfMax) then (p.1.sendPrefetch h l' e false, p.2 + 1)
        else p) p) (s, 0)).1

/-- Close a layer whose last token has settled (R157). -/
def execLayerClose (h : FieldIx) (layer : BitVec 8) (s : State) : Out :=
  s.act fun s => (match s.herderSec with
    | none => s
    | some sec => match sec.layerOf layer.toNat with
      | none => s
      | some l =>
        let x := s.herder h.val
        if x.closed.contains l.layer || (s.nextToken h.val sec l).isSome then s
        else
          let lists := x.dispatch.filter fun e => decide (e.1 / 2 ^ 14 = l.layer)
          let s := s.loadTables h.val sec l
          let s := lists.foldl (fun s e => s.sendDispatch h.val l (e.1 % 2 ^ 14) e.2) s
          let s := (s.writeLoads h.val l).predict h.val sec l
          s.onHerder h.val fun x =>
            { x with closed := l.layer :: x.closed, lastLayer := layer })

/-! ## Bias commits (R165) -/

/-- HRD_CTL.bias_commit is set for a layer: it waits for the boundary, or is discarded where the layer is not in the
billet. -/
def execBiasCommit (h : FieldIx) (layer : BitVec 8) (s : State) : Out :=
  s.act fun s => (s.bar0 fun s => let known := (s.herderSec.bind fun sec => sec.layerOf layer.toNat).isSome
    s.onHerder h.val fun x =>
      if known then { x with biasLayer := layer, biasCommit := true }
      else { x with biasLayer := layer, biasCommitErr := true })

/-- At the boundary the shadow biases are copied into the expert table, or the commit is discarded (R165). -/
def Hw.biasBoundary (s : Hw) (h : Nat) : Hw :=
  let x := s.herder h
  if !x.biasCommit then s
  else match s.herderSec.bind fun sec => sec.layerOf x.biasLayer.toNat with
    | none => s.setHerder h { x with biasCommit := false, biasCommitErr := true }
    | some l =>
      let s := s.setHerder h { x with biasCommit := false }
      (List.range (l.e + 1)).foldl (fun s i =>
        s.memWrite (bonded h 0 (l.tableOff + 16 * i)) (s.memRead (bonded h 0 (l.tableOff + 16 * (l.e + 1) + 4 * i)) 4)) s

/-! ## The stroke boundary and activation (R153, R154, R168, R180) -/

/-- A herder at a stroke boundary: counts restart, and the deferred tokens stand ready to re-enter, oldest stroke first
and then by token index. A token keeps its staging slot while it is deferred or its record is still to be written (R172). -/
def Herder.boundary (x : Herder) : Herder :=
  let sorted := x.pool.foldl (fun (r : List Pooled) p =>
    let (a, b) := r.span fun q => decide (q.stroke < p.stroke) ||
      (decide (q.stroke = p.stroke) && decide (q.entry.token ≤ p.entry.token))
    a ++ p :: b) x.reenter
  { x with logits := [], scored := [], late := [], settled := [], counts := [], spills := [], positions := [], pool := []
           reenter := sorted, dispatch := [], usedExperts := [], demand := [], closed := [], flagVals := []
           evaluated := false, guests := [], bufs := [], replaced := []
           staging := x.staging.filter fun g => g.emitted.isSome || sorted.any fun p => decide (p.entry = g.entry) }

/-- A herder at activation: routing state and counters are zeroed; the record serial and the sort queue are not. -/
def Herder.activate (x : Herder) (active : Bool) : Herder :=
  { recId := x.recId, sortQ := x.sortQ, sorting := x.sorting, sortAbort := x.sortAbort, biasLayer := x.biasLayer
    biasCommit := x.biasCommit, biasCommitErr := x.biasCommitErr, trailOut := x.trailOut
    state := if active then 1 else 0 }

/-! ## Flags and trail records (R170-R175) -/

/-- Indices of the bits set in a mask, ascending. -/
def maskBits (w : Nat) (m : Nat) : List Nat := (List.range w).filter fun i => m.testBit i

/-- A FLAG message: its values are held for the post beat, for every token of the index (log 202); a later value replaces an
earlier one; late or malformed ones are error 7 with the token's event and the values (R170, R171). -/
def execFlag (h : FieldIx) (token : BitVec 17) (mask : W16) (values : List W32) (s : State) : Out :=
  s.act fun s => (match s.herderSec with
    | none => s.herdErr h.val 2 0 token.toNat
    | some sec =>
      let bits' := maskBits 16 mask.toNat
      match s.openTokens h.val sec sec.layers.length token.toNat with
      | [] => s.herdErr h.val 2 0 token.toNat
      | e :: _ =>
        if (s.herder h.val).evaluated || decide (values.length ≠ bits'.length)
            || bits'.any (fun i => decide (i ≥ sec.flagCount)) then
          s.herdErrLate h.val 7 0 token.toNat e.eventId values
        else s.onHerder h.val fun x =>
          { x with flagVals := (bits'.zip values).foldl (fun m e => ninsert (token.toNat * 16 + e.1) (some e.2) m) x.flagVals })

/-- A value crosses an enabled flag: NaN, or at its threshold in its direction (R171). -/
def crosses (f : FlagDef) (v : W32) : Bool :=
  f.enable && ((f32val v).isNan || (if f.atMost then fle v f.threshold else fle f.threshold v))

/-- The step that newest named at the start of a stroke: the greatest one then OPEN (R215). -/
def Bwd.stepAt (b : Bwd) (stroke : Nat) : Option Nat :=
  let open' (e : StepEnt) : Bool := decide (e.state ≠ .free) && decide (e.opened ≤ stroke) && e.shutAt.all fun n => decide (stroke < n)
  (([b.e0, b.e1].filter open').map (·.step)).max?

/-- The slot that a token's batch is bound to: under a training context that of its micro-batch's step, else its sequence's
(R268). -/
def Hw.boundSlot (s : Hw) (e : TokenEntry) : Option (Nat × Nat) :=
  if s.wgt.sec.any fun g => g.trainMask.getLsbD e.context then
    (s.bwd.stepAt e.origin).bind fun n => (nget [] s.wgt.bindStep (n % 2)).find? fun b => decide (b.1 = e.context)
  else nget none s.wgt.bindSeq e.sequence

/-- The weight epoch that a token's batch is bound to, 0 when it is bound to no slot (R173, R268). -/
def Hw.boundEpoch (s : Hw) (e : TokenEntry) : Nat :=
  match s.boundSlot e with
  | none => 0
  | some (c, sl) => (nget {} (nget {} s.wgt.ctxs c).slots sl).epoch.toNat

/-- Attention entries of a token's record: one per captured attention layer and head group, as the root cores have
written them behind the routing entries of the staging slot (R174, R207). -/
def Hw.attnEntries (s : Hw) (h : Nat) (sec : HerderSec) (g : Staging) : Nat × List Byte :=
  match s.running.bind (fun l => l.img.kv), g.slot with
  | some k, some n =>
    let count := (k.layers.filter (·.capture)).length * k.kvHeads
    (count, s.memRead (sec.extOff h n + g.extension.length) (136 * count))
  | _, _ => (0, [])

/-- A trail record (R173, R174). -/
def Hw.trailBytes (s : Hw) (h : Nat) (sec : HerderSec) (g : Staging) (vals : Nat → Option W32) (crossed recv : Nat) (nanFlag : Bool)
    (serial : Nat) : List Byte :=
  let slots := g.routing.flatMap (·.slots)
  let first := (g.routing.filter fun r => r.slots.any fun x => decide (x.out ≠ .routed) && decide (x.out ≠ .empty)).map (·.layer)
  let marks := b2n (decide (s.stk.state = .late)) + 2 * b2n (decide (g.deferStrokes ≠ 0)) + 4 * b2n (!s.stk.syncOk)
    + 8 * b2n s.stk.holdover + 16 * b2n s.tst.unlocked + 32 * b2n nanFlag
    + 64 * b2n (g.routing.any (·.inputLate)) + 128 * b2n (g.routing.any (·.nanLogit))
  let (attnCount, attn) := s.attnEntries h sec g
  let ext := g.extension ++ attn
  let e := g.entry
  let head := leBytes 4 (256 + ext.length) ++ leBytes 2 1 ++ leBytes 2 marks ++ leBytes 8 (serial + h * 2 ^ 58)
    ++ leBytes 8 s.stk.time.toNat ++ leBytes 8 s.stk.workStroke ++ leBytes 8 g.arrivalStroke ++ leBytes 8 e.eventId.toNat
    ++ leBytes 8 e.arrival.toNat ++ leBytes 4 (e.token + h * 2 ^ 17) ++ leBytes 2 e.sequence ++ leBytes 2 e.adapter
    ++ leBytes 4 (e.position + e.context * 2 ^ 24) ++ leBytes 2 crossed ++ leBytes 2 recv
    ++ sub ((s.running.map (·.digest)).getD []) 0 8 ++ leBytes 8 (s.boundEpoch e) ++ leBytes 8 s.routeEpoch.toNat
    ++ (List.range 16).flatMap (fun i => leBytes 4 ((vals i).getD 0).toNat)
    ++ leBytes 2 (g.routing.filter (·.captured)).length ++ leBytes 2 attnCount ++ leBytes 2 (countOut .substituted slots)
    ++ leBytes 2 (countOut .nextChoice slots) ++ leBytes 2 (countOut .spilled slots) ++ leBytes 2 (countOut .dropped slots)
    ++ leBytes 2 ((first.foldl (fun m l => some (min (m.getD l) l)) none).getD 0xFFFF) ++ leBytes 1 g.deferStrokes
    ++ List.replicate 77 0
  head ++ leBytes 4 (crc32c (head ++ leBytes 4 0 ++ ext)) ++ ext

/-- The herder evaluates its flags in the first cycle of the post beat and emits one record for each completed token with
a crossing; the event unit is told of each. A token without one gives its slot back (R46, R171, R172, R175). -/
def Hw.evalFlags (s : Hw) (h : Nat) (sec : HerderSec) : Hw :=
  let x := s.herder h
  let done := x.staging.filter fun g => g.complete && g.emitted.isNone
  let s := done.foldl (fun s g =>
    let vals (i : Nat) : Option W32 := nget none x.flagVals (g.entry.token * 16 + i)
    let idx := List.range sec.flags.length
    let hit := idx.filter fun i => match sec.flags[i]?, vals i with
      | some f, some v => crosses f v
      | _, _ => false
    if hit.isEmpty then s
    else
      let nanFlag := hit.any fun i => (vals i).any fun v => (f32val v).isNan
      let maskOf (is : List Nat) : Nat := is.foldl (fun a i => a + 2 ^ i) 0
      let recv := (List.range 16).filter fun i => (vals i).isSome
      let serial := (s.herder h).recId
      let bs := s.trailBytes h sec g vals (maskOf hit) (maskOf recv) nanFlag serial.toNat
      let s := s.onHerder h fun y =>
        { y with recId := y.recId + 1, trailOut := y.trailOut ++ [(s.stk.workStroke, s.stk.beat, bs)]
                 staging := y.staging.map fun q => if q = g then { q with emitted := some (s.stk.workStroke, s.stk.beat) } else q }
      s.noticeSend h 4 [g.entry.eventId, g.entry.arrival, serial.setWidth 64]) s
  s.onHerder h fun y => { y with evaluated := true, staging := y.staging.filter fun g => !g.complete || g.emitted.isSome }

/-- Every herder in the first cycle of the post beat. -/
def Hw.evalFlagsAll (s : Hw) : Hw :=
  match s.herderSec with
  | none => s
  | some sec => (List.range 48).foldl (fun s h => s.evalFlags h sec) s

/-! ## Sort mode (R177-R179) -/

/-- A region of a job lies in the field's bonded memory and is 64 B aligned. -/
def regionOk (off n : Nat) : Bool := decide (off % 64 = 0) && decide (off + n ≤ regionBytes)

/-- Two regions of one length overlap. -/
def overlaps (a b n : Nat) : Bool := decide (a < b + n) && decide (b < a + n)

/-- A job that R177 admits. -/
def sortValid (j : SortJob) : Bool :=
  let n := 16 * j.count
  decide (1 ≤ j.count) && decide (j.count ≤ 2 ^ 28) && regionOk j.src n && regionOk j.dst n && regionOk j.scratch n
    && !overlaps j.scratch j.src n && !overlaps j.scratch j.dst n

/-- The herder's reply to a sort's source core, and SORT_DONE (R177). -/
def Hw.sortReply (s : Hw) (h : Nat) (j : SortJob) (status : Nat) : Hw :=
  (s.herderSend h j.source j.channel (leBytes 8 j.tag.toNat ++ leBytes 4 status ++ leBytes 4 0)).raise 9

/-- The last pass of a job of `n` entries: ⌈log2 (n / 32)⌉ (R178). -/
def sortPasses (n : Nat) : Nat := ((List.range 29).find? fun p => decide (n ≤ 32 * 2 ^ p)).getD 0

/-- Requests of a job's traffic: each pass reads and writes every entry through the vertical ports of blocks 206-209, and what it
reads comes back through HIN input 3 (R131, R178; all of a job's requests stand when it starts: DESIGN CHOICE, log 59). -/
def Hw.sortTraffic (s : Hw) (h : Nat) (j : SortJob) : Hw :=
  let lines := (16 * j.count + 63) / 64 * (1 + sortPasses j.count)
  let s := [206, 207, 208, 209].foldl (fun s b =>
    (s.portVisit h b ((lines + 3) / 4) true).portVisit h b ((lines + 3) / 4) false) s
  s.arbRaise h 3 0 3 lines

/-- The first waiting job, if any, runs from the start of pass 0. -/
def Hw.sortStart (s : Hw) (h : Nat) : Hw :=
  match (s.herder h).sortQ with
  | [] => s.onHerder h fun x => { x with sorting := false }
  | j :: _ => (s.onHerder h fun x => { x with sorting := true, sortDone := 0, sortPass := 0 }).sortTraffic h j

/-- A running job writes two entries in a cycle, pass after pass, to the end of its last pass (R178; cycles that routing takes
are timing: DESIGN CHOICE, log 59). -/
def Herder.sortTick (x : Herder) : Herder :=
  match x.sortQ with
  | [] => x
  | j :: _ =>
    if !x.sorting then x
    else if x.sortDone.toNat + 2 < j.count then { x with sortDone := x.sortDone + 2 }
    else if x.sortPass.toNat < sortPasses j.count then { x with sortDone := 0, sortPass := x.sortPass + 1 }
    else { x with sortDone := BitVec.ofNat 29 j.count }

/-- A SORT_JOB message: an invalid job is refused with code 8, a job beyond four waiting ones is refused, any other is
queued (R177). -/
def execSortJob (h : FieldIx) (source : CoreId) (j : SortJobMsg) (s : State) : Out :=
  s.act fun s => (let job : SortJob :=
      { source := source.toNat, src := j.src.toNat, dst := j.dst.toNat, scratch := j.scratch.toNat, count := j.count.toNat
        signed := j.flags.getLsbD 0, descending := j.flags.getLsbD 1, channel := bits j.flags.toNat 7 4, tag := j.tag }
    let x := s.herder h.val
    if !sortValid job then (s.herdErr h.val 8 0 0).sortReply h.val job 1
    else if x.sortQ.length ≥ 4 then s.sortReply h.val job 3
    else if x.sortQ.isEmpty then (s.setHerder h.val { x with sortQ := [job] }).sortStart h.val
    else s.setHerder h.val { x with sortQ := x.sortQ ++ [job] })

/-- Order of two entries: the first may stand before the second without changing equal entries' order. -/
def sortLe (j : SortJob) (a b : W64 × W64) : Bool :=
  let lt' (x y : W64) : Bool := if j.signed then decide (x.toInt ≤ y.toInt) else decide (x.toNat ≤ y.toNat)
  if j.descending then lt' b.1 a.1 else lt' a.1 b.1

/-- Stable insertion. -/
def sortInsert (j : SortJob) (x : W64 × W64) : List (W64 × W64) → List (W64 × W64)
  | [] => [x]
  | y :: ys => if sortLe j x y then x :: y :: ys else y :: sortInsert j x ys

/-- The entries in sorted order, stable. -/
def sortEntries (j : SortJob) : List (W64 × W64) → List (W64 × W64)
  | [] => []
  | x :: xs => sortInsert j x (sortEntries j xs)

/-- Bytes that the manual leaves undefined: free values of a draw, by offset. -/
def openBytes (d off n : Nat) : List Byte := (List.range n).map fun i => Config.sortUndefined d (off + i)

/-- The running job leaves the queue; the next one runs. -/
def Hw.sortNext (s : Hw) (h : Nat) : Hw := (s.onHerder h fun x => { x with sortQ := x.sortQ.drop 1 }).sortStart h

/-- The running sort job completes: dst holds the entries in order and the source core is told; what scratch then holds
is open (R177). -/
def execSortComplete (h : FieldIx) (s : State) : Out :=
  s.act fun s => (match (s.herder h.val).sortQ with
    | [] => s
    | j :: _ =>
      let bs := s.memRead (bonded h.val 0 j.src) (16 * j.count)
      let es := (List.range j.count).map fun i =>
        ((BitVec.ofNat 64 (at' bs (16 * i) 8) : W64), (BitVec.ofNat 64 (at' bs (16 * i + 8) 8) : W64))
      let out := (sortEntries j es).flatMap fun e => leBytes 8 e.1.toNat ++ leBytes 8 e.2.toNat
      let s := { s.memWrite (bonded h.val 0 j.scratch) (openBytes s.draws j.scratch (16 * j.count)) with draws := s.draws + 1 }
      let s := s.memWrite (bonded h.val 0 j.dst) out
      let s := s.onHerder h.val fun x => { x with sortJobs := x.sortJobs + 1, sortDone := BitVec.ofNat 29 j.count
                                                  sortPass := BitVec.ofNat 5 (sortPasses j.count) }
      (s.sortNext h.val).sortReply h.val j 0)

/-- End the running job with ABORTED; dst and scratch are undefined (R177). -/
def Hw.sortAbortOne (s : Hw) (h : Nat) : Hw :=
  match (s.herder h).sortQ with
  | [] => s
  | j :: _ =>
    let d := s.draws
    let s := s.memWrite (bonded h 0 j.scratch) (openBytes d j.scratch (16 * j.count))
    let s := { s.memWrite (bonded h 0 j.dst) (openBytes (d + 1) j.dst (16 * j.count)) with draws := d + 2 }
    (s.sortNext h).sortReply h j 2

/-- HRD_CTL.sort_abort (R177). -/
def execSortAbort (h : FieldIx) (s : State) : Out := s.act fun s => (s.bar0 fun s => s.sortAbortOne h.val)

/-- Retiring the billet ends the running job with ABORTED and leaves its dst undefined, and replies ABORTED to every queued
job (R177). -/
def Hw.sortRetire (s : Hw) (h : Nat) : Hw :=
  (List.range 4).foldl (fun s _ => s.sortAbortOne h) s

end Sys2Proof.Machine
end

