-- ==== Sys2Proof/Machine/Touch.lean ====
section
/-!
DEFINITION. The touchmark units and their result windows (R398-R402).
-/
namespace Sys2Proof.Machine

/-- Initial value and final XOR of an algorithm (R399). -/
def tmkInit (alg : BitVec 2) : W64 := if alg = 2 then 0 else 0xFFFFFFFF
def tmkXor (alg : BitVec 2) : W64 := if alg = 2 then 0 else 0xFFFFFFFF

/-- The running register after one byte (R399). -/
def tmkFeed (alg : BitVec 2) (v : W64) (b : Byte) : W64 :=
  if alg = 0 then BitVec.ofNat 64 (crcByteR polyC v.toNat b)
  else if alg = 1 then BitVec.ofNat 64 (crcByteR polyIeee v.toNat b)
  else BitVec.ofNat 64 (crcByteL 64 polyEcma v.toNat b)

/-- No fed byte is pending (R400, R402). -/
def Tmk.ready (x : Tmk) : Bool := x.queue.isEmpty

/-- Apply a write of TMK_CFG: init, or a change of algorithm, loads the initial value and zeroes count (R401). -/
def Tmk.applyCfg (x : Tmk) (v : W64) : Tmk :=
  let alg := BitVec.ofNat 2 v.toNat
  let later : TmkIn → Bool
    | .cfg w => w.getLsbD 2
    | _ => false
  let x' := { x with alg := alg, init := x.queue.any later }
  if v.getLsbD 2 ∨ alg ≠ x.alg then { x' with value := tmkInit alg, count := 0 } else x'

/-- Apply a write of TMK_VALUE: a 32-bit algorithm uses bits [31:0] (R402). -/
def Tmk.applyValue (x : Tmk) (v : W64) : Tmk := { x with value := if x.alg = 2 then v else v &&& 0xFFFFFFFF }

/-- Apply the writes at the head of the queue that no byte precedes. -/
def Tmk.settle : Nat → Tmk → Tmk
  | 0, x => x
  | n + 1, x => match x.queue with
    | .cfg v :: rest => Tmk.settle n ({ x with queue := rest }.applyCfg v)
    | .value v :: rest => Tmk.settle n ({ x with queue := rest }.applyValue v)
    | _ => x

/-- Writes join the queue in arrival order; what no byte precedes is applied at once (R400). -/
def Tmk.push (x : Tmk) (ws : List TmkIn) : Tmk := Tmk.settle (x.queue.length + ws.length) { x with queue := x.queue ++ ws }

/-- One core cycle: the byte at the head is fed, and the writes behind it up to the next byte are applied (R400). -/
def Tmk.cycle (x : Tmk) : Tmk := match x.queue with
  | .byte b :: rest => Tmk.settle rest.length { x with value := tmkFeed x.alg x.value b, count := x.count + 1, queue := rest }
  | _ => x

def State.tmk (s : State) (u : Nat) : Tmk := nget {} s.tmks u
def State.setTmk (s : State) (u : Nat) (x : Tmk) : State := { s with tmks := nput {} s.tmks u x }

/-- A BAR0 write to a touchmark unit: discarded until the firmware runs (R403). -/
def State.writeUnit (s : State) (u : Nat) (f : Tmk → Tmk) : State :=
  if s.hw.barOpen then { s with hw := s.hw.bar0 id }.setTmk u (f (s.tmk u)) else s

/-- A write to TMK_CFG; algorithm 3 discards it (R399, R401). -/
def execTmkCfgWrite (u : Fin 32) (value : W64) (s : State) : Out :=
  .next (s.writeUnit u.val fun x => if bits value.toNat 1 0 = 3 then x
    else { x with init := x.init || value.getLsbD 2 }.push [.cfg value])

/-- A write to TMK_DATA of 1, 2, 4 or 8 bytes; another width is discarded (R5, R400). -/
def execTmkDataWrite (u : Fin 32) (width : Nat) (value : W64) (s : State) : Out :=
  .next (s.writeUnit u.val fun x => if width = 1 ∨ width = 2 ∨ width = 4 ∨ width = 8 then
      x.push ((leBytes width value.toNat).map .byte)
    else x)

/-- A write to TMK_VALUE (R401). -/
def execTmkValueWrite (u : Fin 32) (value : W64) (s : State) : Out :=
  .next (s.writeUnit u.val fun x => x.push [.value value])

/-- A write to TMK_STATUS: count takes its value, and rd_early is cleared by a 1 (R402). -/
def execTmkStatusWrite (u : Fin 32) (value : W64) (s : State) : Out :=
  .next (s.writeUnit u.val fun x =>
    { x with count := BitVec.ofNat 32 (bits value.toNat 63 32), rdEarly := x.rdEarly && !value.getLsbD 1 })

/-- The module answers a read with a value of 64 bits. -/
def State.answer (s : State) (v : W64) : State := { s with hw := { s.hw with readData := leBytes 8 v.toNat } }

/-- A read of TMK_RESULT, or of TMK_VALUE where `final` does not hold: zero with rd_early and RD_EARLY while a byte is
pending (R398). -/
def execResultWindowRead (u : Fin 32) (final : Bool) (s : State) : Out :=
  .next (let x := s.tmk u.val
    if !s.hw.barOpen then s.answer 0
    else if x.ready then s.answer (if final then x.value ^^^ tmkXor x.alg else x.value)
    else { s.setTmk u.val { x with rdEarly := true } with hw := s.hw.raise 42 }.answer 0)

end Sys2Proof.Machine
end

