-- ==== Sys2Proof/Machine/Clock.lean ====
section
/-!
DEFINITION. The passing of one core cycle: the model's clock, STK_TIME (R47), the token bucket (R419), and the bytes that the
touchmark units feed (R400), the arbiters' resource cycles (R132), and the
progress of sort jobs (R178).
-/
namespace Sys2Proof.Machine

/-- Core cycles between two steps of one nanosecond of a slew of 0.1 ms each second (R47): 10,000 ns, in twelfths of a
nanosecond, at 5 twelfths a cycle. -/
def slewCycles : Nat := 24000

/-- STK_TIME after one cycle: 5/12 ns more, carried in twelfths, and one ns of the error slewed out every 10 us. A step
back waits for a cycle that carries, so that STK_TIME never decreases (R47). -/
def Stk.tickTime (k : Stk) : Stk :=
  let f := k.frac + 5
  let carry : W64 := if f ≥ 12 then 1 else 0
  let k := { k with time := k.time + carry, frac := f % 12 }
  if k.slew = 0 then k
  else if k.slewPhase + 1 < slewCycles then { k with slewPhase := k.slewPhase + 1 }
  else if k.slew > 0 then { k with slewPhase := 0, slew := k.slew - 1, time := k.time + 1 }
  else if carry = 1 then { k with slewPhase := 0, slew := k.slew + 1, time := k.time - 1 }
  else k

/-- The token bucket after one cycle: rate MB/s is rate units of 1/2400 B a cycle, up to burst MiB (R419). -/
def Glb.fillPace (g : Glb) : Glb := { g with paceLevel := min (g.paceLevel + g.paceRate.toNat) (g.paceBurst.toNat * 2 ^ 20 * 2400) }

/-- Every touchmark unit feeds one byte. -/
def feedTmks (m : NMap Tmk) : NMap Tmk := m.foldl (fun r e => nput {} r e.1 e.2.cycle) []

/-- Every herder's running sort job goes on. -/
def tickSorts (m : NMap Herder) : NMap Herder := m.foldl (fun r e => nput {} r e.1 e.2.sortTick) []

/-- One core cycle on an empty queue (DESIGN CHOICE, log 5): the clock steps, and arbiters whose resource cycle starts with it
have their holders move a transfer and their other requests wait (R132, R136). -/
def tick (s : State) : State :=
  let h : Hw := { s.hw with now := s.hw.now + 1, stk := s.hw.stk.tickTime, glb := s.hw.glb.fillPace
                            herders := tickSorts s.hw.herders }
  { s with hw := h.arbTick
           tmks := feedTmks s.tmks }

end Sys2Proof.Machine
end

