-- ==== Sys2Proof/Machine/Mailbox.lean ====
section
/-!
DEFINITION. The Gweku mailbox: doorbells and responses, VERSION, an unknown opcode, LOG_READ, and the reads by which the
module fetches structures from span space (R381-R387, R343).
-/
namespace Sys2Proof.Machine

/-- A mailbox response (R381). -/
structure Rsp where
  status : Nat := 0
  reason : Nat := 0
  detail : Nat := 0
  beat : Nat := 0
  field : Nat := 0
  chunk : Nat := 0
  data : List Byte := []

/-- Status codes (R382). -/
def mbOk : Nat := 0
def mbBusy : Nat := 1
def mbBadVersion : Nat := 2
def mbNotReady : Nat := 3
def mbFit : Nat := 4
def mbBadSig : Nat := 5

/-- REFUSED_FIT with a reason code. -/
def refused (reason : Nat) : Rsp := { status := mbFit, reason := reason }

/-- Reason BAD_PARAMS (R382). -/
def badParams : Rsp := refused 0x32

/-- The response buffer's bytes (R381). -/
def Rsp.bytes (r : Rsp) (opcode : Nat) (tag : W32) : List Byte :=
  leBytes 2 opcode ++ leBytes 1 r.status ++ leBytes 1 0 ++ leBytes 4 tag.toNat ++ leBytes 4 r.data.length
    ++ leBytes 2 r.reason ++ leBytes 2 r.detail ++ leBytes 2 r.beat ++ leBytes 1 r.field ++ leBytes 1 0
    ++ leBytes 4 r.chunk ++ leBytes 8 0 ++ r.data

/-- The response is written: the mailbox is IDLE, done is set and MBX_DONE raised (R383). -/
def Hw.respond (s : Hw) (r : Rsp) : Hw :=
  ({ s with mbx := { s.mbx with state := .idle, done := true, rspBuf := r.bytes s.mbx.opcode.toNat s.mbx.tag
                                long := none, progDone := 0, progTotal := 0 } }).raise 40

/-- A refused doorbell shows in MBX_STATUS only (R383). -/
def Hw.refuseDoorbell (s : Hw) (status : Nat) : Hw :=
  { s with mbx := { s.mbx with lastRefused := BitVec.ofNat 8 status, refused := satInc s.mbx.refused } }

/-- A doorbell with a command: refused while OFFLINE or at work; answered BAD_VERSION before a version is negotiated;
otherwise carried out (R383, R384). -/
def Hw.mbxCommand (s : Hw) (opcode : Nat) (tag : W32) (k : Hw → Hw) : Hw :=
  s.bar0 fun s => match s.mbx.state with
  | .offline => s.refuseDoorbell mbNotReady
  | .running | .busy => s.refuseDoorbell mbBusy
  | .idle =>
    let s := { s with mbx := { s.mbx with state := .running, opcode := BitVec.ofNat 16 opcode, tag := tag } }
    if decide (opcode ≠ 1) && decide (s.mbx.version = 0) then s.respond { status := mbBadVersion } else k s

/-- A long operation starts (R383). -/
def Hw.startLong (s : Hw) (op : LongOp) (total : Nat) : Hw :=
  { s with mbx := { s.mbx with state := .busy, long := some op, progDone := 0, progTotal := BitVec.ofNat 32 total } }

/-- Parameters of a stated length whose reserved bytes are zero (R382). -/
def paramsOk (params : List Byte) (len : Nat) (reserved : List (Nat × Nat)) : Bool :=
  decide (params.length = len) && reserved.all fun r => zeros (sub params r.1 r.2)

/-- VERSION: the highest version in the mask and the firmware's set, which is version 1 (R384). -/
def execVersion (tag : W32) (params : List Byte) (s : State) : Out :=
  s.act fun s => (s.mbxCommand 0x0001 tag fun s =>
    if params.length ≠ 4 then s.respond badParams
    else if bit (leNat params) 0 then
      let serial := (Config.fwHeader (if s.glb.image = 1 then s.flash.imageB.bytes else s.flash.imageA.bytes)).2.1
      ({ s with mbx := { s.mbx with version := 1 } }).respond
        { data := leBytes 4 1 ++ leBytes 4 0 ++ leBytes 8 serial.toNat }
    else s.respond { status := mbBadVersion })

/-- An opcode that is not in the command table (R382). -/
def execBadOpcode (tag : W32) (opcode : W16) (s : State) : Out :=
  s.act fun s => (s.mbxCommand opcode.toNat tag fun s => s.respond (refused 0x31))

/-! ## LOG_READ (R343, R386) -/

/-- Bytes of the fault log from a record offset. -/
def Hw.faultLogBytes (s : Hw) (off n : Nat) : List Byte :=
  (List.range n).flatMap fun i =>
    match s.flash.faultLog.find? fun e => decide (e.1 = (off + i) % faultLogSize) with
    | some e => padTo 128 e.2
    | none => List.replicate 128 0

/-- Byte `x` of the trail stream as the log holds it. -/
def trailLogByte (log : List (Nat × List Byte)) (x : Nat) : Byte :=
  match log.find? fun e => decide (e.1 ≤ x) && decide (x < e.1 + e.2.length) with
  | some e => e.2.getD (x - e.1) 0
  | none => 0

/-- Bytes of the trail log from a stream offset. -/
def Hw.trailLogBytes (s : Hw) (off n : Nat) : List Byte :=
  (List.range n).map fun i => trailLogByte s.flash.trailLog (off + i)

/-- LOG_READ: a range of a log between flashed less the log size and flashed (R386). -/
def execLogRead (tag : W32) (params : List Byte) (s : State) : Out :=
  s.act fun s => (s.mbxCommand 0x0030 tag fun s =>
    let log := at' params 0 1
    let off := at' params 8 8
    let n := at' params 0x10 4
    if !paramsOk params 20 [(1, 7)] || decide (log > 1) then s.respond badParams
    else if log = 0 then
      if n < 1 ∨ n > 31 then s.respond badParams
      else if off + n > s.flt.flashed.toNat ∨ off + faultLogSize < s.flt.flashed.toNat then s.respond (refused 0x30)
      else s.respond { data := s.faultLogBytes off n }
    else if n < 8 ∨ n > 4064 ∨ n % 8 ≠ 0 then s.respond badParams
    else if off + n > s.flt.tFlashed.toNat ∨ off + trailLogSize < s.flt.tFlashed.toNat then s.respond (refused 0x30)
    else s.respond { data := s.trailLogBytes off n })

end Sys2Proof.Machine
end

