-- ==== Sys2Proof/Machine/SlhDsa.lean ====
section
/-!
DEFINITION. The check of an SLH-DSA signature, pure form with an empty context string, on SHAKE-256: the sets 256s (R255, R405,
R406) and 256f (R409). The manual takes the algorithm from FIPS 205 and gives the sizes of the signatures; what that standard says
is PRESUMED (log 36).
-/
namespace Sys2Proof.Machine

/-- A parameter set whose hashes are of 32 bytes: the height of a tree, the layers of trees, and the trees of the few-time part with
their height. -/
structure SigSet where
  height : Nat
  layers : Nat
  forest : Nat
  forestHeight : Nat
  deriving DecidableEq, Repr

def sig256s : SigSet := { height := 8, layers := 8, forest := 22, forestHeight := 14 }
def sig256f : SigSet := { height := 4, layers := 17, forest := 35, forestHeight := 9 }

/-- Hashes of a one-time signature: 64 digits of the message and 3 of their sum. -/
def chainCount : Nat := 67

/-- Hashes of a whole signature: the randomiser, the few-time part, and a one-time part with a path in every layer. -/
def SigSet.hashes (p : SigSet) : Nat := 1 + p.forest * (1 + p.forestHeight) + p.layers * (chainCount + p.height)

/-- A number most significant byte first. -/
def beBytes (n v : Nat) : List Byte := (leBytes n v).reverse
def beNat (bs : List Byte) : Nat := leNat bs.reverse

/-- Where a hash stands: layer, tree, use, and the three words whose sense the use gives. -/
structure HashPlace where
  layer : Nat := 0
  tree : Nat := 0
  use : Nat := 0
  pair : Nat := 0
  a : Nat := 0
  b : Nat := 0
  deriving DecidableEq, Repr

def HashPlace.bytes (x : HashPlace) : List Byte :=
  [(4, x.layer), (12, x.tree), (4, x.use), (4, x.pair), (4, x.a), (4, x.b)].flatMap fun e => beBytes e.1 e.2

/-- The hash of 32 bytes of messages at a place, under the public seed. -/
def placed (seed : List Byte) (x : HashPlace) (ms : List (List Byte)) : List Byte := shake256 32 (seed ++ x.bytes ++ ms.flatten)

/-- Climb from a node by its path: a node of even number has its sibling on the right. `place` names the node at a height and a
number there. -/
def climb (seed : List Byte) (place : Nat → Nat → HashPlace) : Nat → Nat → List Byte → List (List Byte) → List Byte
  | _, _, node, [] => node
  | height, n, node, sibling :: path =>
    let pair := if n % 2 = 0 then [node, sibling] else [sibling, node]
    climb seed place (height + 1) (n / 2) (placed seed (place (height + 1) (n / 2)) pair) path

/-- The end of a chain of 15 hashes from the digit that the signature shows. -/
def chainEnd (seed : List Byte) (x : HashPlace) (digit : Nat) (shown : List Byte) : List Byte :=
  (List.range (15 - digit)).foldl (fun h i => placed seed { x with b := digit + i } [h]) shown

/-- The 67 digits that a one-time signature shows of a 32-byte message. -/
def chainDigits (msg : List Byte) : List Nat :=
  let ds := msg.flatMap fun b => [b.toNat / 16, b.toNat % 16]
  let sum := (ds.map fun d => 15 - d).sum
  ds ++ [sum / 256, sum / 16 % 16, sum % 16]

/-- The public key of a one-time signature (uses 0 and 1), and from it the root of its tree (use 2). -/
def treeTop (seed : List Byte) (layer tree leaf : Nat) (msg : List Byte) (sig : List (List Byte)) : List Byte :=
  let x : HashPlace := { layer := layer, tree := tree, pair := leaf }
  let ends := (numbered ((chainDigits msg).zip sig)).map fun e => chainEnd seed { x with a := e.1 } e.2.1 e.2.2
  climb seed (fun h n => { layer := layer, tree := tree, use := 2, a := h, b := n }) 0 leaf (placed seed { x with use := 1 } ends)
    (sig.drop chainCount)

/-- Tree number `i` of the few-time part, from the leaf that the digest chooses (use 3). -/
def forestTop (p : SigSet) (seed : List Byte) (tree leaf i choice : Nat) (sig : List (List Byte)) : List Byte :=
  let place (h n : Nat) : HashPlace := { tree := tree, use := 3, pair := leaf, a := h, b := n }
  let n := i * 2 ^ p.forestHeight + choice
  climb seed place 0 n (placed seed (place 0 n) (sig.take 1)) (sig.drop 1)

/-- The top of the layers of trees above a message: each layer signs the top of the one below; tree and leaf numbers are the digits
of the digest's. -/
def layersTop (p : SigSet) (seed : List Byte) : Nat → Nat → Nat → Nat → List Byte → List (List Byte) → List Byte
  | 0, _, _, _, msg, _ => msg
  | n + 1, layer, tree, leaf, msg, sig =>
    let part := chainCount + p.height
    layersTop p seed n (layer + 1) (tree / 2 ^ p.height) (tree % 2 ^ p.height) (treeTop seed layer tree leaf msg (sig.take part))
      (sig.drop part)

/-- A signature of a message verifies under a public key of 64 bytes: seed, then root. -/
def SigSet.verify (p : SigSet) (key msg sig : List Byte) : Bool :=
  let hs := (List.range p.hashes).map fun i => sub sig (32 * i) 32
  let seed := key.take 32
  let chooseBytes := (p.forest * p.forestHeight + 7) / 8
  let treeBits := p.height * (p.layers - 1)
  let treeBytes := (treeBits + 7) / 8
  let leafBytes := (p.height + 7) / 8
  let digest := shake256 (chooseBytes + treeBytes + leafBytes) (sub sig 0 32 ++ key ++ [0, 0] ++ msg)
  let chosen := beNat (digest.take chooseBytes)
  let tree := beNat (sub digest chooseBytes treeBytes) % 2 ^ treeBits
  let leaf := beNat (digest.drop (chooseBytes + treeBytes)) % 2 ^ p.height
  let one := p.forestHeight + 1
  let tops := (List.range p.forest).map fun i =>
    forestTop p seed tree leaf i (chosen / 2 ^ (8 * chooseBytes - p.forestHeight * (i + 1)) % 2 ^ p.forestHeight)
      ((hs.drop (1 + i * one)).take one)
  let few := placed seed { tree := tree, use := 4, pair := leaf } tops
  decide (key.length = 64) && decide (sig.length = 32 * p.hashes)
    && decide (layersTop p seed p.layers 0 tree leaf few (hs.drop (1 + p.forest * one)) = key.drop 32)

/-- The check by SLH-DSA-SHAKE-256s (R255, R405, R406) and by SLH-DSA-SHAKE-256f (R409): key, message, signature. -/
def slhVerify (key msg sig : List Byte) : Bool := sig256s.verify key msg sig
def slhVerifyFast (key msg sig : List Byte) : Bool := sig256f.verify key msg sig

end Sys2Proof.Machine
end

