-- ==== Sys2Proof/Machine/Tongs.lean ====
section
/-!
DEFINITION. The tongs: homes and their table (R276-R278), requests and orders (R281, R282, R287), residency (R283), the
boundary (R280, R284-R286).
-/
namespace Sys2Proof.Machine

/-! ## Homes (R276) -/

def PageSt.code : PageSt → Nat
  | .unmapped => 0 | .home => 1 | .moving => 2 | .lost => 3

/-- The 16 B of a home table entry (R276). -/
def Home.bytes (h : Home) : List Byte :=
  leBytes 8 (h.state.code + h.tier * 2 ^ 2 + b2n h.fixed * 2 ^ 5 + h.destTier * 2 ^ 6 + h.cls * 2 ^ 9 + b2n h.pinned * 2 ^ 12
      + b2n h.lent * 2 ^ 13 + h.borrower.toNat * 2 ^ 14)
    ++ leBytes 8 h.location.toNat

/-- Write a page's home, and its entry in the home table stripe of field p mod 48; a page at or above home_pages stays UNMAPPED
(R276). -/
def Hw.setHome (s : Hw) (p : Nat) (h : Home) : Hw :=
  let put (s : Hw) : Hw := { s with tng := { s.tng with homes := nput {} s.tng.homes p h } }
  match s.tng.sec with
  | none => put s
  | some sec => if p < sec.homePages then (put s).memWrite (bonded (p % 48) 0 (sec.homeOff + p / 48 * 16)) h.bytes else s

def Hw.onHome (s : Hw) (p : Nat) (f : Home → Home) : Hw := s.setHome p (f (s.home p))

/-- A tier 1 location (R276). -/
def loc1 (f w frame : Nat) : W64 := BitVec.ofNat 64 (f + w * 2 ^ 6 + frame * 2 ^ 7)
def locField1 (l : W64) : Nat := bits l.toNat 5 0
def locWafer1 (l : W64) : Nat := bits l.toNat 6 6

/-! ## Room (R273, R286, R290, R291) -/

/-- Locations of a tier in use: homes in it and destinations of orders into it. -/
def Hw.usedLocs (s : Hw) (tier : Nat) : List W64 :=
  (s.tng.homes.filterMap fun e => if e.2.state ≠ .unmapped ∧ e.2.tier = tier then some e.2.location else none)
    ++ s.tng.orders.filterMap fun o => match o.phase with
      | .copying _ _ => if o.destTier = tier then some o.location else none
      | .clean _ => if o.destTier = tier then some o.location else none
      | _ => none

/-- The first of `n` candidates that is not in use. -/
def firstFree (used : List W64) (n : Nat) (cand : Nat → W64) : Option W64 :=
  ((List.range (min n (used.length + 1))).map cand).find? fun l => !used.contains l

/-- Logical flash pages for homes, behind the 2,080 GiB that the translation layer reserves (R289). -/
def flashPages : Nat := 905445376
def flashFirst : Nat := 2080 * 2 ^ 14

/-- First frame and frame count of a region's pool. -/
def Hw.pool (s : Hw) (f w : Nat) : Nat × Nat := match s.tng.sec with
  | none => (0, 0)
  | some sec => sec.pools.getD (2 * f + w) (0, 0)

/-- Loan `i`: rank, first page, count (R293). -/
def Hw.loan (s : Hw) (i : Nat) : Nat × Nat × Nat :=
  let w := (nget 0 s.tng.nbr i).toNat
  (bits w 15 0, bits w 46 16, bits w 62 47)

/-- Room for a page in a tier: the lowest free frame, flash page or host page, or the first free page of the loans in
order (R286, R291; which free place is taken is stated for tier 3 only, DESIGN CHOICE, log 18). Frames that a lost
key-value page retired are not used (R338). -/
def Hw.findRoom (s : Hw) (tier f w : Nat) : Option W64 :=
  let used := s.usedLocs tier ++ (if tier = 1 then s.kv.retired else [])
  match tier with
  | 1 =>
    let (first, count) := s.pool f w
    firstFree used count fun i => loc1 f w (first + i)
  | 2 => firstFree used flashPages fun i => BitVec.ofNat 64 (flashFirst + i)
  | 3 => (List.range 16).findSome? fun i =>
      let (rank, page, count) := s.loan i
      firstFree used count fun j => BitVec.ofNat 64 (rank + (page + j) * 2 ^ 16)
  | 4 => firstFree used s.tng.hostPages.toNat fun i => BitVec.ofNat 64 i
  | _ => none

/-! ## The plan (R292) -/

/-- The plan entry that names a page. -/
def TngSec.planOf (sec : TngSec) (p : Nat) : Option PlanEntry :=
  sec.plan.find? fun e => decide (e.first ≤ p) && decide (p < e.first + e.count)

def Hw.planOf (s : Hw) (p : Nat) : Option PlanEntry := s.tng.sec.bind fun sec => sec.planOf p

/-- A page of the migrating range in use (R276). -/
def Hw.pageOk (s : Hw) (p : Nat) : Bool := s.tng.sec.any fun sec => decide (p < sec.homePages)

/-! ## Residency (R283) -/

/-- A residency record as the tongs read it. -/
structure ResRec where
  layer : Nat
  expert : Nat
  off : Nat
  valid : Bool
  evictable : Bool
  field : Nat
  wafer : Nat
  promoted : Nat
  pages : List Nat
  deriving DecidableEq, Repr

/-- The pages of four runs. -/
def runPages (bs : List Byte) : List Nat :=
  (List.range 4).flatMap fun i =>
    let w := at' bs (16 + 8 * i) 8
    (List.range (bits w 46 31)).map (bits w 30 0 + ·)

/-- The record of an expert, where it lies within its layer's expert count. -/
def Hw.resRec (s : Hw) (layer expert : Nat) : Option ResRec :=
  match s.tng.sec with
  | none => none
  | some sec =>
    let w := s.memNat (bonded 0 0 (sec.resOff + 8 * layer)) 8
    if expert ≥ bits w 53 40 then none
    else
      let off := sec.resOff + bits w 39 0 + 48 * expert
      let bs := s.memRead (bonded 0 0 off) 48
      some { layer := layer, expert := expert, off := off, valid := bit (at' bs 3 1) 0, evictable := bit (at' bs 3 1) 1
             field := at' bs 4 1, wafer := at' bs 5 1 % 2, promoted := at' bs 8 8, pages := runPages bs }

/-- Every valid residency record of the billet's routed layers. -/
def Hw.resRecs (s : Hw) : List ResRec :=
  match s.herderSec with
  | none => []
  | some sec => sec.layers.flatMap fun l => (List.range l.e).filterMap fun e =>
      (s.resRec l.layer e).filter (·.valid)

/-- The expert that owns a page. -/
def Hw.ownerOf (s : Hw) (p : Nat) : Option ResRec := s.resRecs.find? fun r => r.pages.contains p

/-- Bonded memory offset of an expert's residency byte, byte 6 of its expert table entry (R283). -/
def Hw.resByteOff (s : Hw) (layer expert : Nat) : Option Nat :=
  (s.herderSec.bind fun sec => sec.layerOf layer).map fun l => l.tableOff + 16 * expert + 6

/-- The expert is usable in the current stroke: bit 4 of its residency byte (R152, R163). -/
def Hw.expertUsable (s : Hw) (layer expert : Nat) : Bool :=
  match s.resByteOff layer expert with
  | none => false
  | some off => bit (s.memNat (bonded 0 0 off) 1) 4

/-- A page belongs to an expert that is usable in the current stroke. -/
def Hw.pageUsable (s : Hw) (p : Nat) : Bool := (s.ownerOf p).any fun r => s.expertUsable r.layer r.expert

/-- Every page of an expert is HOME in tier 1. -/
def Hw.allHome1 (s : Hw) (r : ResRec) : Bool :=
  !r.pages.isEmpty && r.pages.all fun p => decide ((s.home p).state = .home) && decide ((s.home p).tier = 1)

/-- Write an expert's residency byte in every field copy: the lowest tier code that holds any of its pages, moving, usable
(R283; reading of 'lowest' DEDUCED, log 19). -/
def Hw.writeResByte (s : Hw) (r : ResRec) (usable : Bool) : Hw :=
  match s.resByteOff r.layer r.expert with
  | none => s
  | some off =>
    let tiers := (r.pages.filter fun p => decide ((s.home p).state ≠ .unmapped)).map fun p => (s.home p).tier
    let tier := (tiers.foldl (fun m t => some (match m with | none => t | some x => min x t)) none).getD 0
    let moving := r.pages.any fun p => decide ((s.home p).state = .moving)
    s.memWriteAll off [BitVec.ofNat 8 (tier + b2n moving * 8 + b2n usable * 16)]

/-! ## Driver requests (R293) -/

/-- Show a driver request's final status. -/
def Hw.reqFinal (s : Hw) (tag : W16) (status : Nat) : Hw :=
  { s with tng := { s.tng with reqTag := tag, reqStatus := BitVec.ofNat 4 status, reqDone := true } }

/-- Statuses of a driver request (R293). -/
def stOk : Nat := 1
def stPinned : Nat := 2
def stAbandoned : Nat := 3
def stLost : Nat := 4
def stBad : Nat := 5
def stFull : Nat := 6
def stMerged : Nat := 7

/-- A page of a request ends with a status: when the last one ends, the request's status is OK, or the first other status
in page order (R284). -/
def Hw.endPage (s : Hw) (req page status : Nat) : Hw :=
  match s.tng.reqs.find? fun r => decide (r.id = req) with
  | none => s
  | some r =>
    let left := r.left.filter fun p => decide (p ≠ page)
    let bad := if status = stOk then r.bad else r.bad ++ [(page, status)]
    let rest := s.tng.reqs.filter fun q => decide (q.id ≠ req)
    if left.isEmpty then
      let st := match bad with
        | [] => stOk
        | b :: bs => (bs.foldl (fun (m : Nat × Nat) x => if x.1 < m.1 then x else m) b).2
      { s with tng := { s.tng with reqs := rest } }.reqFinal r.tag st
    else { s with tng := { s.tng with reqs := rest ++ [{ r with left := left, bad := bad }] } }

/-- Drop an order and end its page. -/
def Hw.endOrder (s : Hw) (o : Order) (status : Nat) : Hw :=
  ({ s with tng := { s.tng with orders := s.tng.orders.filter fun q => decide (q ≠ o) } }).endPage o.req o.page status

/-- Replace an order by another version of it. -/
def Hw.setOrder (s : Hw) (o o' : Order) : Hw :=
  { s with tng := { s.tng with orders := s.tng.orders.map fun q => if q = o then o' else q } }

/-! ## Starting and abandoning orders (R278, R279, R285, R286) -/

/-- An order to or from tier 4 waits while Bus Master Enable is 0 (R374). -/
def Hw.orderNoBus (s : Hw) (o : Order) : Bool :=
  !s.mayMaster && (decide (o.destTier = 4) || o.source.any fun p => decide ((s.home p).tier = 4))

/-- An order that needs a home table entry or a frame in a deep-parked field is held, and so is one to or from host memory
that the module may not master the bus for (R362, R374). -/
def Hw.orderOff (s : Hw) (o : Order) : Bool :=
  s.orderNoBus o ||
  s.deepOff (o.page % 48) || (decide (o.destTier = 1) && s.deepOff o.destField) ||
    (match o.source with
     | some p => decide ((s.home p).tier = 1) && s.deepOff (locField1 (s.home p).location)
     | none => false)

/-- Start an order that finds room: a moved page becomes MOVING and its 16 pieces are raised at the queue (R279); one that
finds none waits (R278, R286), and so does one that is held. -/
def Hw.startOrder (s : Hw) (o : Order) : Hw :=
  match if s.orderOff o then none else s.findRoom o.destTier o.destField o.destWafer with
  | none => s.setOrder o { o with phase := .wait }
  | some l =>
    let ph : OrdPhase := if o.kind = .place then .clean 0 else .copying 0 []
    let s := s.setOrder o { o with location := l, phase := ph, todo := if o.kind = .place then [] else List.range 16 }
    let s := if o.kind = .place then s else s.raisePieces o 16
    match o.kind with
    | .move => s.onHome o.page fun h => { h with state := .moving, destTier := o.destTier }
    | .evict _ => s.onHome o.page fun h => { h with state := .moving, destTier := o.destTier }
    | _ => s

/-- A page whose move is given up is HOME at its source again. -/
def Hw.backHome (s : Hw) (o : Order) : Hw :=
  match o.kind with
  | .move => if (s.home o.page).state = .moving then s.onHome o.page fun h => { h with state := .home, destTier := 0 } else s
  | .evict _ => if (s.home o.page).state = .moving then s.onHome o.page fun h => { h with state := .home, destTier := 0 } else s
  | _ => s

def OrdPhase.inProgress : OrdPhase → Bool
  | .copying _ _ => true
  | .clean _ => true
  | _ => false

/-- Pieces that the orders of a queue's input have still to copy. -/
def Hw.piecesLeft (s : Hw) (queue input : Nat) : Nat :=
  ((s.tng.orders.filter fun o => decide (o.queue = queue) && decide (o.input = input)).map (·.todo.length)).sum

/-- Give up an order for good: its page is HOME at its source, and its transfers are withdrawn. -/
def Hw.dropOrder (s : Hw) (o : Order) (status : Nat) : Hw :=
  let s := (if o.phase.inProgress then s.backHome o else s).endOrder o status
  if o.todo.isEmpty then s else s.arbSet (o.queue / 2) 5 (o.queue % 2) o.input (s.piecesLeft o.queue o.input)

/-- A page of an eviction or move is refused or given up with EVICT_PINNED: counted once (R284, R285). -/
def Hw.refusePinned (s : Hw) (o : Order) : Hw :=
  let s := { s with tng := { s.tng with pinnedCnt := s.tng.pinnedCnt + 1 } }
  s.dropOrder o stPinned

/-! ## Judging (R282, R284) -/

/-- Whether a page lies where an order would put it. -/
def Order.there (o : Order) (h : Home) : Bool :=
  decide (h.tier = o.destTier) && (decide (o.destTier ≠ 1) ||
    (decide (locField1 h.location = o.destField) && decide (locWafer1 h.location = o.destWafer)))

/-- Judge a page of a MOVE or PREFETCH (R282, R284). A PREFETCH is refused only for a fixed page. -/
def Hw.judgeMove (s : Hw) (o : Order) : Hw :=
  let h := s.home o.page
  if h.state = .unmapped then s.endOrder o stBad
  else if h.state = .lost then s.endOrder o stLost
  else if h.state = .moving then s.setOrder o { o with phase := .held }
  else if o.there h then s.endOrder o stOk
  else if h.fixed || (o.expert.isNone && (h.pinned || s.pageUsable o.page)) then s.refusePinned o
  else s.startOrder o

/-- A page's move has ended within a stroke: a MOVE held behind it is judged again (R284). -/
def Hw.rejudge (s : Hw) (p : Nat) : Hw :=
  (s.tng.orders.filter fun o => decide (o.page = p) && decide (o.phase = .held) && decide (o.kind = .move)).foldl
    (fun s o => s.judgeMove o) s

/-- Pin a page for the stroke: an eviction or MOVE in progress on it is abandoned at once (R285). -/
def Hw.pinPage (s : Hw) (p : Nat) : Hw :=
  let s := s.onHome p fun h => if h.state = .unmapped then h else { h with pinned := true }
  let ended := s.tng.orders.filter fun o => decide (o.page = p) && o.phase.inProgress && o.expert.isNone &&
      (match o.kind with | .move => true | .evict _ => true | _ => false)
  let s := ended.foldl (fun s o => s.refusePinned o) s
  if ended.isEmpty then s else s.rejudge p

/-- Where an EVICT sends a page: the plan tier, tier 2 for a page planned in tier 1 or omitted and homed in tier 1, none
where the page stays (R282). -/
def Hw.evictTier (s : Hw) (o : Order) : Option Nat :=
  let h := s.home o.page
  if o.destTier ≠ 0 then (if o.there h then none else some o.destTier)
  else
    match s.planOf o.page with
    | some e =>
      let t := if e.tier = 1 then 2 else e.tier
      if h.tier = t then none else some t
    | none => if h.tier = 1 then some 2 else none

/-- Judge a held EVICT at a boundary (R284). `now` lists the experts promoted at this boundary. -/
def Hw.judgeEvict (s : Hw) (o : Order) (retire : Bool) (now : List (Nat × Nat)) : Hw :=
  let h := s.home o.page
  let x := s.ownerOf o.page
  let usable := x.any fun r => s.expertUsable r.layer r.expert
  if h.state = .unmapped then s.endOrder o stBad
  else if h.state = .lost then s.endOrder o stLost
  else if h.fixed || h.pinned || (x.any fun r => now.contains (r.layer, r.expert)) then s.refusePinned o
  else if usable && !retire then s.refusePinned o
  else if h.state = .moving then s
  else match s.evictTier o with
    | none => s.endOrder o stOk
    | some t =>
      let o' := { o with destTier := t }
      match x with
      | some r =>
        if usable then
          let s := s.setOrder o { o' with phase := .accepted }
          if s.tng.changes.any fun c => decide (c.2.1 = r.layer) && decide (c.2.2.1 = r.expert) && !c.2.2.2 then s
          else { s with tng := { s.tng with changes := s.tng.changes ++ [(o.queue, r.layer, r.expert, false)] } }
        else (s.setOrder o o').startOrder o'
      | none => (s.setOrder o o').startOrder o'

/-! ## Requests (R281, R282, R287) -/

def rBits (r : TongsReq) (hi lo : Nat) : Nat := bits r.w0.toNat hi lo
def reqPage (r : TongsReq) : Nat := bits r.w1.toNat 30 0
def reqCount (r : TongsReq) : Nat := bits r.w1.toNat 62 31
def reqPages (r : TongsReq) : List Nat := (List.range (reqCount r)).map (reqPage r + ·)

/-- The driver's requests enter queue 0 of field 0 at input 0 (R293). -/
def isDriver (q : Nat) (r : TongsReq) : Bool := decide (q = 0) && decide (r.input.val = 0)

/-- Orders open in a queue: its requests (R281). -/
def Hw.queueLen (s : Hw) (q : Nat) : Nat :=
  (((s.tng.orders.filter fun o => decide (o.queue = q)).map (·.req)) ++
    if q = 0 then s.tng.releases.map (·.2) else []).eraseDups.length

/-- Take a request's pages into a queue, or discard it where the queue is full; a driver request shows PENDING and its
tag (R281, R293). The state answered holds the request's number. -/
def Hw.openReq (s : Hw) (q : Nat) (r : TongsReq) (pages : List Nat) : Option (Hw × Nat) :=
  if s.queueLen q ≥ 1024 then none
  else
    let id := s.tng.nextReq
    let s := { s with tng := { s.tng with nextReq := id + 1 } }
    if isDriver q r then
      let tag : W16 := BitVec.ofNat 16 (bits r.w0.toNat 52 37)
      some ({ s with tng := { s.tng with reqTag := tag, reqStatus := 0, reqDone := false
                                         reqs := s.tng.reqs ++ [{ id := id, tag := tag, bad := [], left := pages }] } }, id)
    else some (s, id)

/-- A request that ends at once. -/
def Hw.reqEnds (s : Hw) (q : Nat) (r : TongsReq) (status : Nat) : Hw :=
  if isDriver q r then s.reqFinal (BitVec.ofNat 16 (bits r.w0.toNat 52 37)) status else s

/-- A request to a full queue is discarded and counted. -/
def Hw.reqFull (s : Hw) (q : Nat) (r : TongsReq) : Hw :=
  ({ s with tng := { s.tng with dropped := satInc s.tng.dropped } }).reqEnds q r stFull

/-- Enter one order per page. -/
def Hw.enter (s : Hw) (os : List Order) : Hw := { s with tng := { s.tng with orders := s.tng.orders ++ os } }

/-- An order already queued or MOVING takes a page to a tier 1 region. -/
def Hw.mergeable (s : Hw) (p f w : Nat) : Bool :=
  s.tng.orders.any fun o => decide (o.page = p) && decide (o.destTier = 1) && decide (o.destField = f) &&
    decide (o.destWafer = w) && decide (o.kind ≠ .place)

/-- A page is under some order that moves it. -/
def Hw.underOrder (s : Hw) (p : Nat) : Bool := s.tng.orders.any fun o => decide (o.page = p)

/-- A request merges into the orders its pages are already under: counted, and a driver's reports MERGED (R282). -/
def Hw.merge (s : Hw) (q : Nat) (r : TongsReq) : Hw :=
  ({ s with tng := { s.tng with merges := s.tng.merges + 1 } }).reqEnds q r stMerged

/-- MOVE pages to a tier: each is judged as it arrives (R282, R284). -/
def Hw.moveReq (s : Hw) (q : Nat) (r : TongsReq) (pages : List Nat) (tier f w : Nat) : Hw :=
  if pages.isEmpty || decide (tier < 1) || decide (tier > 4) || (decide (tier = 1) && decide (f ≥ 48)) then s.reqEnds q r stBad
  else if decide (tier = 1) && pages.all (fun p => s.mergeable p f w) then s.merge q r
  else match s.openReq q r pages with
    | none => s.reqFull q r
    | some (s, id) =>
      let os := pages.map fun p =>
        ({ queue := q, req := id, input := r.input.val, page := p, kind := .move, destTier := tier, destField := f
           destWafer := w, location := 0, phase := .held, expert := none } : Order)
      os.foldl (fun s o => s.judgeMove o) (s.enter os)

/-- MOVE (R281, R284). -/
def execMove (q : Fin 96) (r : TongsReq) (s : State) : Out :=
  s.act fun s => (s.moveReq q.val r (reqPages r) (rBits r 7 5) (rBits r 35 30) (rBits r 36 36))

/-- PREFETCH brings every page of an expert that is not in tier 1 to its record's target region, merging into orders that
already do and leaving pages under other orders to them (R282). -/
def execPrefetch (q : Fin 96) (r : TongsReq) (s : State) : Out :=
  s.act fun s => (match (s.resRec (rBits r 15 8) (rBits r 29 16)).filter (·.valid) with
    | none => s.reqEnds q.val r stBad
    | some x =>
      let away := x.pages.filter fun p => decide ((s.home p).tier ≠ 1)
      let fresh := away.filter fun p => !s.underOrder p
      if fresh.isEmpty then
        if away.any (fun p => s.mergeable p x.field x.wafer) then s.merge q.val r else s.reqEnds q.val r stOk
      else match s.openReq q.val r fresh with
        | none => s.reqFull q.val r
        | some (s, id) =>
          let s := if away.any (fun p => s.mergeable p x.field x.wafer) then
              { s with tng := { s.tng with merges := s.tng.merges + 1 } } else s
          let os := fresh.map fun p =>
            ({ queue := q.val, req := id, input := r.input.val, page := p, kind := .move, destTier := 1
               destField := x.field, destWafer := x.wafer, location := 0, phase := .held
               expert := some (x.layer, x.expert) } : Order)
          os.foldl (fun s o => s.judgeMove o) (s.enter os))

/-- EVICT is held until the stroke's closing boundary (R284): an expert's pages, or a run of pages. -/
def execEvict (q : Fin 96) (r : TongsReq) (s : State) : Out :=
  s.act fun s => (let expert := rBits r 29 16
    let pages := if expert = 0x3FFF then reqPages r
      else (((s.resRec (rBits r 15 8) expert).filter (·.valid)).map (·.pages)).getD []
    if pages.isEmpty || decide (rBits r 7 5 > 4) then s.reqEnds q.val r stBad
    else match s.openReq q.val r pages with
      | none => s.reqFull q.val r
      | some (s, id) => s.enter (pages.map fun p =>
          { queue := q.val, req := id, input := r.input.val, page := p, kind := .evict (r.w0.getLsbD 4)
            destTier := rBits r 7 5, destField := rBits r 35 30, destWafer := rBits r 36 36, location := 0
            phase := .held, expert := none }))

/-- CLONE a page into an UNMAPPED one in tier 1 (R287). -/
def Hw.cloneReq (s : Hw) (q : Nat) (r : TongsReq) (src dst : Nat) (dest : Option (Nat × Nat)) : Hw :=
  let h := s.home src
  if h.state = .lost then s.reqEnds q r stLost
  else if dest.any (fun d => decide (d.1 ≥ 48)) || h.state = .unmapped || decide ((s.home dst).state ≠ .unmapped) || !s.pageOk dst || s.underOrder dst then
    s.reqEnds q r stBad
  else match s.openReq q r [dst] with
    | none => s.reqFull q r
    | some (s, id) =>
      let (f, w) := match dest with
        | some d => d
        | none => if h.tier = 1 then (locField1 h.location, locWafer1 h.location) else (q / 2, q % 2)
      let o : Order := { queue := q, req := id, input := r.input.val, page := dst, kind := .clone src, destTier := 1
                         destField := f, destWafer := w, location := 0, phase := .held, expert := none }
      (s.enter [o]).startOrder o

/-- CLONE (R281, R287). -/
def execClone (q : Fin 96) (r : TongsReq) (s : State) : Out :=
  s.act fun s => (s.cloneReq q.val r (reqPage r) (bits r.w1.toNat 61 31)
    (if r.w0.getLsbD 53 then some (rBits r 35 30, rBits r 36 36) else none))

/-- RELEASE takes effect at the next boundary (R278). -/
def execRelease (q : Fin 96) (r : TongsReq) (s : State) : Out :=
  s.act fun s => (let pages := reqPages r
    if pages.isEmpty then s.reqEnds q.val r stBad
    else match s.openReq q.val r pages with
      | none => s.reqFull q.val r
      | some (s, id) => { s with tng := { s.tng with releases := s.tng.releases ++ pages.map fun p => (p, id) } })

/-- PLACE gives UNMAPPED pages a home at the next boundary, or waits for room (R278, R286). -/
def execPlace (q : Fin 96) (r : TongsReq) (s : State) : Out :=
  s.act fun s => (let pages := reqPages r
    let tier := rBits r 7 5
    if pages.isEmpty || decide (tier < 1) || decide (tier > 4) || (decide (tier = 1) && decide (rBits r 35 30 ≥ 48)) then
      s.reqEnds q.val r stBad
    else match s.openReq q.val r pages with
      | none => s.reqFull q.val r
      | some (s, id) => pages.foldl (fun s p =>
          if decide ((s.home p).state ≠ .unmapped) || !s.pageOk p || s.underOrder p then s.endPage id p stBad
          else
            let o : Order := { queue := q.val, req := id, input := r.input.val, page := p, kind := .place, destTier := tier
                               destField := rBits r 35 30, destWafer := rBits r 36 36, location := 0, phase := .held
                               expert := none }
            (s.enter [o]).startOrder o) s)

/-- A request through TNG_REQ1: by its operation, 6 and 7 refused with BAD_REQUEST (R281, R293). -/
def State.driverReq (s : State) (w1 : W64) : Out :=
  let r : TongsReq := { input := 0, w0 := s.hw.tng.req0, w1 := w1 }
  match bits s.hw.tng.req0.toNat 2 0 with
  | 0 => execPrefetch 0 r s
  | 1 => execMove 0 r s
  | 2 => execEvict 0 r s
  | 3 => execClone 0 r s
  | 4 => execRelease 0 r s
  | 5 => execPlace 0 r s
  | _ => s.act fun s => s.reqEnds 0 r stBad

/-! ## Copies (R279) -/

/-- A round of a page's copy ends once its pieces have been copied: clean, or a further round for the pieces written meanwhile; after four further rounds
it is abandoned, and is judged again at the next boundary as if it had just arrived (R279). The copy of an order that is
held goes on when it no longer is (R362, R374). -/
def execMoveCopyDone (q : Fin 96) (page : BitVec 31) (s : State) : Out :=
  s.act fun s => (match s.tng.orders.find? fun o => decide (o.queue = q.val) && decide (o.page = page.toNat) && (match o.phase with
      | .copying _ _ => true
      | _ => false) with
    | none => s
    | some o => match o.phase with
      | .copying n d =>
        if s.orderOff o || !o.todo.isEmpty then s
        else if d.isEmpty && decide (n ≤ 4) then s.setOrder o { o with phase := .clean n }
        else if n < 4 then (s.setOrder o { o with phase := .copying (n + 1) [], todo := d }).raisePieces o d.length
        else
          let s := { s with tng := { s.tng with abandonCnt := s.tng.abandonCnt + 1 } }
          let s := ((s.backHome o).rejudge o.page).setOrder o { o with phase := .held }
          match s.tng.reqs.find? fun r => decide (r.id = o.req) with
          | some r => s.reqFinal r.tag stAbandoned
          | none => s
      | _ => s)

/-! ## The boundary (R278, R280, R283-R286) -/

/-- Releases take effect: every order on the page is abandoned, its frames are freed and it is UNMAPPED (R278). -/
def Hw.releaseOne (s : Hw) (p req : Nat) : Hw :=
  let mine (o : Order) : Bool := decide (o.page = p) || decide (o.kind = .clone p)
  let s := (s.tng.orders.filter mine).foldl (fun s o => s.dropOrder o stAbandoned) s
  let s := if (s.home p).state = .unmapped then s else (s.setHome p {}).memErase (pageOff p) pageBytes
  s.endPage req p stOk

/-- Every release that waits takes effect (R284). -/
def Hw.releaseAll (s : Hw) : Hw :=
  let rel := s.tng.releases
  rel.foldl (fun s e => s.releaseOne e.1 e.2) { s with tng := { s.tng with releases := [] } }

/-- An order that was copied clean switches its page's home to the destination; a page that a later billet's home table leaves
out has none (R276, R280). -/
def Hw.switchOrder (s : Hw) (o : Order) : Hw :=
  let e := s.planOf o.page
  if s.tng.sec.any fun sec => decide (sec.homePages ≤ o.page) then s.endOrder o stBad
  else match o.kind with
  | .clone src =>
    let c := s.home src
    let s := s.memCopy (pageOff src) (pageOff o.page) pageBytes
    (s.setHome o.page { state := .home, tier := 1, cls := c.cls, location := o.location }).endOrder o stOk
  | .place =>
    let s := s.memErase (pageOff o.page) pageBytes
    (s.setHome o.page { state := .home, tier := o.destTier, location := o.location, fixed := e.any (·.fixed)
                        cls := (e.map (·.cls)).getD 5 }).endOrder o stOk
  | _ =>
    let s := { s with tng := { s.tng with moveCnt := s.tng.moveCnt + 1 } }
    let planned := e.any fun e => e.fixed && decide (e.tier = o.destTier)
    (s.onHome o.page fun h => { h with state := .home, tier := o.destTier, destTier := 0, location := o.location
                                       fixed := h.fixed || planned }).endOrder o stOk

/-- Experts whose pages have all become HOME in tier 1 by the switches of this boundary, each with the queue that carried
the last of them. -/
def Hw.promotedBy (s : Hw) (ready : List Order) : List (ResRec × Nat) :=
  (s.resRecs.filter fun r => ready.any (fun o => r.pages.contains o.page) && s.allHome1 r
      && !s.expertUsable r.layer r.expert).map fun r =>
    (r, ((ready.reverse.find? fun o => r.pages.contains o.page).map (·.queue)).getD 0)

/-- Write at most two residency changes of each queue, in the order they were decided (R283). -/
def Hw.writeChanges (s : Hw) : Hw :=
  let (now, later) := s.tng.changes.foldl (fun (p : List (Nat × Nat × Nat × Bool) × List (Nat × Nat × Nat × Bool)) c =>
    if (p.1.filter fun d => decide (d.1 = c.1)).length < 2 then (p.1 ++ [c], p.2) else (p.1, p.2 ++ [c])) ([], [])
  let s := { s with tng := { s.tng with changes := later } }
  now.foldl (fun s c =>
    match s.resRec c.2.1 c.2.2.1 with
    | none => s
    | some r =>
      let s := s.writeResByte r c.2.2.2
      if c.2.2.2 then s
      else (s.tng.orders.filter fun o => decide (o.phase = .accepted) && r.pages.contains o.page).foldl
        (fun s o => s.startOrder o) s) s

/-- The victim that a queue evicts for an order into a tier 1 region still short of frames (R286). -/
def Hw.victim (s : Hw) (f w : Nat) : Option ResRec :=
  let cands := s.resRecs.filter fun r => r.evictable && decide (r.promoted ≠ 0) && s.allHome1 r
    && r.pages.all (fun p => decide ((s.home p).location = loc1 f w (bits (s.home p).location.toNat 25 7)))
    && !r.pages.any (fun p => s.underOrder p)
  cands.foldl (fun b r => match b with
    | none => some r
    | some x => if r.promoted < x.promoted ∨ (r.promoted = x.promoted ∧ (r.layer < x.layer ∨
        (r.layer = x.layer ∧ r.expert < x.expert))) then some r else some x) none

/-- Waiting orders are tried again; while one waits TNG_SHORT is raised and counted, and for each request that waits for
tier 1 frames a victim is evicted (R286). -/
def Hw.retryWaiting (s : Hw) : Hw :=
  let s := (s.tng.orders.filter fun o => decide (o.phase = .wait)).foldl (fun s o => match o.kind with
    | .move => s.judgeMove o
    | .evict _ =>
      let h := s.home o.page
      if h.pinned || h.fixed || s.pageUsable o.page then s.refusePinned o else s.startOrder o
    | _ => s.startOrder o) s
  let waiting := s.tng.orders.filter fun o => decide (o.phase = .wait) && !s.orderOff o
  if waiting.isEmpty then s
  else
    let s := ({ s with tng := { s.tng with shortCnt := s.tng.shortCnt + 1 } }).raise 24
    let asks := ((waiting.filter fun o => decide (o.destTier = 1)).map fun o => (o.req, o.queue, o.destField, o.destWafer)).eraseDups
    asks.foldl (fun s a =>
      match s.victim a.2.2.1 a.2.2.2 with
      | none => s
      | some r =>
        let id := s.tng.nextReq
        let s := { s with tng := { s.tng with nextReq := id + 1 } }
        s.enter (r.pages.map fun p =>
          { queue := a.2.1, req := id, input := 4, page := p, kind := .evict true, destTier := 0, destField := 0
            destWafer := 0, location := 0, phase := .held, expert := none })) s

/-- A planned page is placed, moved to its tier under input 0, whatever held it in place before, or stays where it is; one that is MOVING under an order is placed
under the plan once that order has ended (R40, R292). -/
def Hw.planPage (s : Hw) (e : PlanEntry) (p : Nat) : Hw :=
  let h := s.home p
  let id := s.tng.nextReq
  let o : Order := { queue := 2 * (if e.tier = 1 then e.field else 0) + (if e.tier = 1 then e.wafer else 0), req := id
                     input := 0, page := p, kind := .move, destTier := e.tier, destField := e.field, destWafer := e.wafer
                     location := 0, phase := .held, expert := none }
  let next (s : Hw) : Hw := { s with tng := { s.tng with nextReq := id + 1 } }
  match h.state with
  | .unmapped =>
    match s.findRoom e.tier e.field e.wafer with
    | none => if s.underOrder p then s else (next s).enter [{ o with kind := .place, phase := .wait }]
    | some l => (s.setHome p { state := .home, tier := e.tier, fixed := e.fixed, cls := e.cls, location := l }).memErase
        (pageOff p) pageBytes
  | .home =>
    if h.tier = e.tier then s.setHome p { h with fixed := e.fixed, cls := e.cls }
    else
      let s := s.setHome p { h with cls := e.cls, fixed := false }
      ((next s).enter [o]).startOrder o
  | .moving => { s with tng := { s.tng with planDue := s.tng.planDue ++ [p] } }
  | .lost => s

/-- Pages that were MOVING at activation come under the plan, those whose order has ended (R40). -/
def Hw.planBoundary (s : Hw) : Hw :=
  let due := s.tng.planDue
  due.foldl (fun s p => match s.planOf p with
    | some e => s.planPage e p
    | none => s) { s with tng := { s.tng with planDue := [] } }

/-- The tongs at a stroke boundary (R284). -/
def Hw.tongsBoundary (s : Hw) : Hw :=
  -- releases, then switches of what was copied clean
  let rel := s.tng.releases
  let s := s.releaseAll
  let ready := s.tng.orders.filter fun o => match o.phase with
    | .clean _ => true
    | _ => false
  let due := s.tng.planDue
  let touched := s.tng.orders.map (·.page) ++ rel.map (·.1)
  let s := (ready.foldl (fun s o => s.switchOrder o) s).planBoundary
  -- promotions
  let promoted := s.promotedBy ready
  let s := promoted.foldl (fun s e =>
    let s := s.memWriteAll (e.1.off + 8) (leBytes 8 s.stk.num.toNat)
    { s with tng := { s.tng with changes := s.tng.changes ++ [(e.2, e.1.layer, e.1.expert, true)] } }) s
  -- pins of the stroke before end, the driver's begin
  let s := ((s.tng.homes.filter fun e => e.2.pinned).map (·.1)).foldl (fun s p => s.onHome p fun h => { h with pinned := false }) s
  let first := bits s.tng.pin.toNat 30 0
  let count := bits s.tng.pin.toNat 62 31
  let s := ((s.tng.homes.map (·.1)).filter fun p => decide (first ≤ p) && decide (p < first + count)).foldl
    (fun s p => s.pinPage p) s
  -- held orders, in order of arrival
  let held := s.tng.orders.filter fun o => decide (o.phase = .held)
  let s := held.foldl (fun s o => match o.kind with
    | .evict retire => s.judgeEvict o retire (promoted.map fun e => (e.1.layer, e.1.expert))
    | .move => s.judgeMove o
    | _ => s.startOrder o) s
  let s := s.writeChanges
  let s := s.retryWaiting
  -- tier and moving of every expert whose pages moved
  let pages := touched ++ due ++ s.tng.orders.map (·.page)
  (s.resRecs.filter fun r => r.pages.any fun p => pages.contains p).foldl
    (fun s r => s.writeResByte r (s.expertUsable r.layer r.expert && s.allHome1 r)) s

/-! ## Activation (R292) -/

/-- The home table stripe of every field as the section lays it out: entries of the pages that have homes, zeros for the others,
and no home at or above home_pages (R276). -/
def Hw.layHomes (s : Hw) (sec : TngSec) : Hw :=
  let s := { s with tng := { s.tng with homes := s.tng.homes.filter fun e => decide (e.1 < sec.homePages) } }
  let s := (List.range 48).foldl (fun s f => s.memErase (bonded f 0 sec.homeOff) ((sec.homePages + 47 - f) / 48 * 16)) s
  s.tng.homes.foldl (fun s e => s.setHome e.1 e.2) s

/-- At activation: counters are zeroed, the home table is laid out anew, evictions that were accepted and not started are judged
again at this boundary, each planned page is placed, moved or stays, and experts whose pages the plan has in tier 1 are usable
(R40, R292, R293). -/
def Hw.activateTongs (s : Hw) (sec : TngSec) : Hw :=
  let again (o : Order) : Order := if o.phase = .accepted then { o with phase := .held } else o
  let s := { s with tng := { s.tng with sec := some sec, moveCnt := 0, pinnedCnt := 0, abandonCnt := 0, lostCnt := 0
                                        shortCnt := 0, changes := [], planDue := [], orders := s.tng.orders.map again } }
  let s := s.layHomes sec
  let s := sec.plan.foldl (fun s e => (List.range e.count).foldl (fun s i => s.planPage e (e.first + i)) s) s
  s.resRecs.foldl (fun s r => s.writeResByte r (s.allHome1 r)) s

end Sys2Proof.Machine
end

