-- ==== Sys2Proof/Machine/Zstd.lean ====
section
/-!
DEFINITION. Zstandard frames as a package's stored data holds them: the format of RFC 8878 within the limits of R253. What that RFC
says is PRESUMED (log 36); it is not in the manual.
-/
namespace Sys2Proof.Machine.Zstd

/-- Bits of bytes, the least significant of the first byte first. -/
def bitsUp (bs : List Byte) : List Bool := bs.flatMap fun b => (List.range 8).map fun i => b.getLsbD i

/-- A stream that is read from its end: the highest set bit of its last byte marks where it begins. -/
def backward (bs : List Byte) : Option (List Bool) :=
  if (bs.getLast?).all fun b => decide (b = 0) then none else some (((bitsUp bs).reverse.dropWhile (!·)).drop 1)

/-- The number of `n` bits, the first one most significant; bits past the end of a stream are 0. -/
def topNum (n : Nat) (s : List Bool) : Nat := (List.range n).foldl (fun v i => 2 * v + b2n (s.getD i false)) 0
/-- The number of `n` bits, the first one least significant. -/
def lowNum (n : Nat) (s : List Bool) : Nat := topNum n ((List.range n).map fun i => s.getD (n - 1 - i) false)

/-- Read `n` bits of a backward stream. -/
def readTop (n : Nat) (s : List Bool) : Nat × List Bool := (topNum n s, s.drop n)

/-! ## Finite state tables -/

/-- A state of a table: its symbol, and the next state as a base and a number of bits that are added. -/
structure Cell where
  symbol : Nat := 0
  width : Nat := 0
  base : Nat := 0
  deriving DecidableEq, Repr

structure Table where
  log : Nat
  cells : Array Cell

/-- A table of one symbol. -/
def oneSymbol (v : Nat) : Table := { log := 0, cells := #[{ symbol := v }] }

/-- Runs of absent symbols behind one: pairs of bits, each 3 followed by another. -/
def zeroRuns : Nat → List Bool → Nat × Nat
  | 0, _ => (0, 0)
  | fuel + 1, s =>
    let r := lowNum 2 s
    if r < 3 then (r, 2)
    else
      let (n, used) := zeroRuns fuel (s.drop 2)
      (n + 3, used + 2)

/-- Counts of the symbols, -1 for one of less than 1, from a description: they sum to `left`. The bits used are counted. -/
def readCounts : Nat → Nat → List Bool → Option (List Int × Nat)
  | 0, _, _ => none
  | fuel + 1, left, s =>
    if left = 0 then some ([], 0)
    else
      let w := Nat.log2 (left + 1) + 1
      let v := lowNum w s
      let low := v % 2 ^ (w - 1)
      let short := 2 ^ w - 1 - (left + 1)
      let (v, w) := if low < short then (low, w - 1) else if v ≥ 2 ^ (w - 1) then (v - short, w) else (v, w)
      let count : Int := v - 1
      let (zs, extra) := if count = 0 then zeroRuns s.length (s.drop w) else (0, 0)
      if count.natAbs > left then none
      else (readCounts fuel (left - count.natAbs) (s.drop (w + extra))).map fun (cs, used) =>
        (count :: List.replicate zs 0 ++ cs, w + extra + used)

/-- The walk that spreads a symbol's places over a table of size `size`, of which those from `high` on are taken. -/
def nextPlace (size high : Nat) : Nat → Nat → Nat
  | 0, p => p
  | fuel + 1, p =>
    let q := (p + size / 2 + size / 8 + 3) % size
    if q < high then q else nextPlace size high fuel q

/-- The table of counts over 2^log states: symbols of less than 1 take one state each from the end, the others spread. -/
def buildTable (log : Nat) (counts : List Int) : Table :=
  let size := 2 ^ log
  let syms := numbered counts
  let rare := (syms.filter fun e => decide (e.2 = -1)).map (·.1)
  let high := size - rare.length
  let start : Array Nat := (numbered rare).foldl (fun a e => a.set! (size - 1 - e.1) e.2) (Array.replicate size 0)
  let spread := (syms.flatMap fun e => List.replicate e.2.toNat e.1).foldl
    (fun (x : Array Nat × Nat) v => (x.1.set! x.2 v, nextPlace size high size x.2)) (start, 0)
  let first : Array Nat := (counts.map Int.natAbs).toArray
  let cells := spread.1.toList.foldl (fun (x : Array Cell × Array Nat) v =>
    let n := x.2.getD v 0
    let w := log - Nat.log2 n
    (x.1.push { symbol := v, width := w, base := n * 2 ^ w - size }, x.2.set! v (n + 1))) (#[], first)
  { log := log, cells := cells.1 }

/-- A description of a table of at most 2^maxLog states: the table and the bytes that it takes. -/
def readTable (maxLog : Nat) (bs : List Byte) : Option (Table × Nat) :=
  let log := at' bs 0 1 % 16 + 5
  if log > maxLog then none
  else (readCounts 256 (2 ^ log) ((bitsUp (bs.take 512)).drop 4)).bind fun (cs, used) =>
    let n := (4 + used + 7) / 8
    if n > bs.length then none else some (buildTable log cs, n)

def Table.cell (t : Table) (state : Nat) : Cell := t.cells.getD state {}

/-! ## Literals -/

/-- A prefix code: a table over the next `log` bits, of symbol and width. -/
structure Codes where
  log : Nat
  cells : Array (Nat × Nat)

/-- Weights that two turns of states decode, until the stream is short of bits. -/
def readWeights (t : Table) : Nat → Nat → Nat → List Bool → List Nat
  | 0, _, _, _ => []
  | fuel + 1, now, other, s =>
    let c := t.cell now
    if s.length < c.width then [c.symbol, (t.cell other).symbol]
    else c.symbol :: readWeights t fuel other (c.base + topNum c.width s) (s.drop c.width)

/-- The prefix code of a list of weights; the last symbol's is what is left of a power of two. -/
def buildCodes (ws : List Nat) : Option Codes :=
  let sum := (ws.map fun w => if w = 0 then 0 else 2 ^ (w - 1)).sum
  let log := Nat.log2 sum + 1
  let rest := 2 ^ log - sum
  if sum = 0 ∨ log > 11 ∨ 2 ^ Nat.log2 rest ≠ rest then none
  else
    let all := numbered (ws ++ [Nat.log2 rest + 1])
    let cells := (List.range log).flatMap fun i => (all.filter fun e => decide (e.2 = i + 1)).flatMap fun e =>
      List.replicate (2 ^ i) (e.1, log - i)
    some { log := log, cells := cells.toArray }

/-- The description of a prefix code, and the bytes that it takes. -/
def readCodes (bs : List Byte) : Option (Codes × Nat) :=
  let h := at' bs 0 1
  if h ≥ 128 then
    let n := h - 127
    let ws := (List.range n).map fun i => at' bs (1 + i / 2) 1 / (if i % 2 = 0 then 16 else 1) % 16
    (buildCodes ws).map fun c => (c, 1 + (n + 1) / 2)
  else
    let part := (bs.drop 1).take h
    (readTable 6 part).bind fun (t, n) => (backward (part.drop n)).bind fun s =>
      let (a, s) := readTop t.log s
      let (b, s) := readTop t.log s
      (buildCodes (readWeights t 255 a b s)).map fun c => (c, 1 + h)

/-- `n` literals of a stream, which they use up. -/
def readStream (c : Codes) : Nat → List Bool → Option (List Byte)
  | 0, s => if s.isEmpty then some [] else none
  | n + 1, s =>
    let e := c.cells.getD (topNum c.log s) (0, 0)
    if e.2 = 0 ∨ s.length < e.2 then none
    else (readStream c n (s.drop e.2)).map fun r => BitVec.ofNat 8 e.1 :: r

/-- The literals of one stream, or of four behind a table of their sizes. -/
def readStreams (c : Codes) (four : Bool) (n : Nat) (bs : List Byte) : Option (List Byte) :=
  let one (n : Nat) (bs : List Byte) : Option (List Byte) := (backward bs).bind (readStream c n)
  if !four then one n bs
  else
    let size (i : Nat) : Nat := at' bs (2 * i) 2
    let d := bs.drop 6
    let each := (n + 3) / 4
    if bs.length < 6 ∨ n < 3 * each ∨ d.length < size 0 + size 1 + size 2 then none
    else do
      let a ← one each (d.take (size 0))
      let b ← one each ((d.drop (size 0)).take (size 1))
      let x ← one each ((d.drop (size 0 + size 1)).take (size 2))
      let y ← one (n - 3 * each) (d.drop (size 0 + size 1 + size 2))
      some (a ++ b ++ x ++ y)

/-- The literals section: literals, the code in force after it, and the bytes that it takes. -/
def readLiterals (old : Option Codes) (bs : List Byte) : Option (List Byte × Option Codes × Nat) :=
  let h := at' bs 0 5
  let kind := h % 4
  let form := h / 4 % 4
  if kind < 2 then
    let (hd, n) := if form = 1 then (2, h / 16 % 2 ^ 12) else if form = 3 then (3, h / 16 % 2 ^ 20) else (1, h / 8 % 32)
    let used := hd + (if kind = 0 then n else 1)
    if bs.length < used ∨ n > 2 ^ 17 then none
    else some (if kind = 0 then (bs.drop hd).take n else List.replicate n (BitVec.ofNat 8 (at' bs hd 1)), old, used)
  else
    let (hd, w) := if form < 2 then (3, 10) else if form = 2 then (4, 14) else (5, 18)
    let n := h / 16 % 2 ^ w
    let size := h / 2 ^ (4 + w) % 2 ^ w
    let d := (bs.drop hd).take size
    if d.length < size ∨ n > 2 ^ 17 then none
    else do
      let (c, k) ← if kind = 2 then readCodes d else old.map fun c => (c, 0)
      let ls ← readStreams c (decide (form ≠ 0)) n (d.drop k)
      some (ls, some c, hd + size)

/-! ## Sequences -/

/-- Extra bits of the codes of literal lengths and match lengths; bases run on from one to the next. -/
def litExtra : List Nat := List.replicate 16 0 ++ [1, 1, 1, 1, 2, 2, 3, 3, 4, 6, 7, 8, 9, 10, 11, 12, 13, 14, 15, 16]
def matchExtra : List Nat := List.replicate 32 0 ++ [1, 1, 1, 1, 2, 2, 3, 3, 4, 4, 5, 7, 8, 9, 10, 11, 12, 13, 14, 15, 16]

/-- Base of a code. -/
def codeBase (first : Nat) (extra : List Nat) (code : Nat) : Nat := first + ((extra.take code).map fun w => 2 ^ w).sum

/-- The tables that a block may take as they stand: literal lengths, offsets, match lengths. -/
def litTable : Table :=
  buildTable 6 ([4, 3] ++ List.replicate 11 2 ++ [1, 1, 1] ++ List.replicate 9 2 ++ [3, 2] ++ List.replicate 5 1 ++ List.replicate 4 (-1))
def offTable : Table :=
  buildTable 5 (List.replicate 6 1 ++ List.replicate 3 2 ++ List.replicate 15 1 ++ List.replicate 5 (-1))
def matchTable : Table :=
  buildTable 6 ([1, 4, 3] ++ List.replicate 6 2 ++ List.replicate 37 1 ++ List.replicate 7 (-1))

/-- The tables that a frame has in force. -/
structure Tables where
  lit : Option Table := none
  off : Option Table := none
  len : Option Table := none

/-- The table that a mode gives, and the bytes that it takes: the fixed one, one symbol, a description, or the last one. -/
def modeTable (mode maxLog : Nat) (fixed : Table) (old : Option Table) (bs : List Byte) : Option (Table × Nat) :=
  match mode with
  | 0 => some (fixed, 0)
  | 1 => if bs.isEmpty then none else some (oneSymbol (at' bs 0 1), 1)
  | 2 => readTable maxLog bs
  | _ => old.map fun t => (t, 0)

/-- The offset of a sequence and the three last ones after it: a value up to 3 names one of those, shifted by one where no literal
stands before the match. -/
def pickOffset (v lits : Nat) (r : Nat × Nat × Nat) : Nat × (Nat × Nat × Nat) :=
  let (a, b, c) := r
  if v > 3 then (v - 3, (v - 3, a, b))
  else match v - 1 + (if lits = 0 then 1 else 0) with
    | 0 => (a, r)
    | 1 => (b, (b, a, c))
    | 2 => (c, (c, a, b))
    | _ => (a - 1, (a - 1, a, b))

/-- What a block adds to: the output and where its frame began, the literals left, the last offsets. -/
structure Work where
  out : Array Byte
  start : Nat
  lits : List Byte
  last : Nat × Nat × Nat

/-- Copy from `off` bytes back. -/
def copyBack (off : Nat) : Nat → Array Byte → Array Byte
  | 0, a => a
  | n + 1, a => copyBack off n (a.push (a.getD (a.size - off) 0))

/-- One sequence: literals, then a match within the frame's window. -/
def Work.apply (w : Work) (window lits len v : Nat) : Option Work :=
  let (off, last) := pickOffset v lits w.last
  let out := w.out ++ (w.lits.take lits).toArray
  if w.lits.length < lits ∨ off = 0 ∨ off > window ∨ off > out.size - w.start then none
  else some { w with out := copyBack off len out, lits := w.lits.drop lits, last := last }

/-- The sequences of a block: states of the tables for literal lengths, offsets and match lengths. -/
def runSequences (tl to' tm : Table) (window : Nat) : Nat → Nat → Nat → Nat → List Bool → Work → Option Work
  | 0, _, _, _, s, w => if s.isEmpty then some w else none
  | n + 1, l, o, m, s, w =>
    let (cl, co, cm) := (tl.cell l, to'.cell o, tm.cell m)
    if cl.symbol > 35 ∨ co.symbol > 31 ∨ cm.symbol > 52 then none
    else
      let (v, s1) := readTop co.symbol s
      let (em, s2) := readTop (matchExtra.getD cm.symbol 0) s1
      let (el, s3) := readTop (litExtra.getD cl.symbol 0) s2
      let (nl, s4) := readTop cl.width s3
      let (nm, s5) := readTop cm.width s4
      let (no, s6) := readTop co.width s5
      let used := co.symbol + matchExtra.getD cm.symbol 0 + litExtra.getD cl.symbol 0
        + (if n = 0 then 0 else cl.width + cm.width + co.width)
      if s.length < used then none
      else (w.apply window (codeBase 0 litExtra cl.symbol + el) (codeBase 3 matchExtra cm.symbol + em) (2 ^ co.symbol + v)).bind fun w =>
        if n = 0 then (if s3.isEmpty then some w else none)
        else runSequences tl to' tm window n (cl.base + nl) (co.base + no) (cm.base + nm) s6 w

/-! ## Blocks and frames -/

/-- What a frame carries from block to block. -/
structure Frame where
  window : Nat
  codes : Option Codes := none
  tables : Tables := {}
  last : Nat × Nat × Nat := (1, 4, 8)

/-- The sequences section of a block, over its literals. -/
def readSequences (f : Frame) (start : Nat) (lits : List Byte) (bs : List Byte) (out : Array Byte) : Option (Frame × Array Byte) :=
  let b0 := at' bs 0 1
  let (n, hd) := if b0 < 128 then (b0, 1) else if b0 < 255 then ((b0 - 128) * 256 + at' bs 1 1, 2) else (at' bs 1 2 + 0x7F00, 3)
  if bs.length < hd then none
  else if n = 0 then (if bs.length = 1 then some (f, out ++ lits.toArray) else none)
  else do
    let modes := at' bs hd 1
    if bs.length ≤ hd ∨ modes % 4 ≠ 0 then none
    else
      let d := bs.drop (hd + 1)
      let (tl, a) ← modeTable (modes / 64) 9 litTable f.tables.lit d
      let (to', b) ← modeTable (modes / 16 % 4) 8 offTable f.tables.off (d.drop a)
      let (tm, c) ← modeTable (modes / 4 % 4) 9 matchTable f.tables.len (d.drop (a + b))
      let s ← backward (d.drop (a + b + c))
      let (l, s) := readTop tl.log s
      let (o, s) := readTop to'.log s
      let (m, s) := readTop tm.log s
      let w ← runSequences tl to' tm f.window n l o m s { out := out, start := start, lits := lits, last := f.last }
      some ({ f with tables := { lit := some tl, off := some to', len := some tm }, last := w.last }, w.out ++ w.lits.toArray)

/-- Blocks to the last one of a frame: the output and the bytes behind them. -/
def readBlocks : Nat → Frame → Nat → List Byte → Array Byte → Option (List Byte × Array Byte)
  | 0, _, _, _, _ => none
  | fuel + 1, f, start, bs, out =>
    let h := at' bs 0 3
    let kind := h / 2 % 4
    let size := h / 8
    let most := min f.window (2 ^ 17)
    let take := if kind = 1 then 1 else size
    let d := (bs.drop 3).take take
    if bs.length < 3 + take ∨ size > most ∨ kind = 3 then none
    else
      let r : Option (Frame × Array Byte) :=
        if kind = 0 then some (f, out ++ d.toArray)
        else if kind = 1 then some (f, out ++ (List.replicate size (d.headD 0)).toArray)
        else (readLiterals f.codes d).bind fun (ls, c, n) => readSequences { f with codes := c } start ls (d.drop n) out
      match r with
      | none => none
      | some (f, out') =>
        if out'.size - out.size > most then none
        else if h % 2 = 1 then some (bs.drop (3 + take), out')
        else readBlocks fuel f start (bs.drop (3 + take)) out'

/-! ## The content checksum: XXH64 with seed 0 -/

def prime1 : W64 := 11400714785074694791
def prime2 : W64 := 14029467366897019727
def prime3 : W64 := 1609587929392839161
def prime4 : W64 := 9650029242287828579
def prime5 : W64 := 2870177450012600261

def mixIn (acc v : W64) : W64 := (acc + v * prime2).rotateLeft 31 * prime1
def word8 (bs : List Byte) : W64 := BitVec.ofNat 64 (at' bs 0 8)

/-- The stripes of 32 bytes over the four lanes, and what they leave. -/
def stripes : Nat → List Byte → W64 × W64 × W64 × W64 → (W64 × W64 × W64 × W64) × List Byte
  | 0, bs, v => (v, bs)
  | fuel + 1, bs, (a, b, c, d) =>
    if bs.length < 32 then ((a, b, c, d), bs)
    else stripes fuel (bs.drop 32)
      (mixIn a (word8 bs), mixIn b (word8 (bs.drop 8)), mixIn c (word8 (bs.drop 16)), mixIn d (word8 (bs.drop 24)))

/-- The last bytes: eights, a four, ones. -/
def tailMix : Nat → List Byte → W64 → W64
  | 0, _, h => h
  | fuel + 1, bs, h =>
    if bs.length ≥ 8 then tailMix fuel (bs.drop 8) ((h ^^^ mixIn 0 (word8 bs)).rotateLeft 27 * prime1 + prime4)
    else if bs.length ≥ 4 then
      tailMix fuel (bs.drop 4) ((h ^^^ (BitVec.ofNat 64 (at' bs 0 4) * prime1)).rotateLeft 23 * prime2 + prime3)
    else match bs with
      | [] => h
      | b :: r => tailMix fuel r ((h ^^^ (BitVec.ofNat 64 b.toNat * prime5)).rotateLeft 11 * prime1)

def xxh64 (bs : List Byte) : W64 :=
  let n := BitVec.ofNat 64 bs.length
  let (h, rest) := if bs.length < 32 then (prime5, bs)
    else
      let ((a, b, c, d), rest) := stripes bs.length bs (prime1 + prime2, prime2, 0, 0 - prime1)
      let h := a.rotateLeft 1 + b.rotateLeft 7 + c.rotateLeft 12 + d.rotateLeft 18
      ([a, b, c, d].foldl (fun h v => (h ^^^ mixIn 0 v) * prime1 + prime4) h, rest)
  let h := tailMix (rest.length + 1) rest (h + n)
  let h := (h ^^^ (h >>> 33)) * prime2
  let h := (h ^^^ (h >>> 29)) * prime3
  h ^^^ (h >>> 32)

/-- One frame: no dictionary, a window of at most 8 MiB, its checksum and content size held to where it has them (R253). What
stands behind it, and the output with its content. -/
def readFrame (bs : List Byte) (out : Array Byte) : Option (List Byte × Array Byte) :=
  let d := at' bs 4 1
  let single := bit d 5
  let idLen := [0, 1, 2, 4].getD (d % 4) 0
  let sizeLen := if d / 64 = 0 then b2n single else 2 ^ (d / 64)
  let w := at' bs 5 1
  let at1 := if single then 5 else 6
  let id := at' bs at1 idLen
  let size := at' bs (at1 + idLen) sizeLen + (if sizeLen = 2 then 256 else 0)
  let window := if single then size else 2 ^ (10 + w / 8) + 2 ^ (10 + w / 8) / 8 * (w % 8)
  let hd := at1 + idLen + sizeLen
  if at' bs 0 4 ≠ 0xFD2FB528 ∨ bit d 3 ∨ id ≠ 0 ∨ window > 2 ^ 23 ∨ bs.length < hd then none
  else (readBlocks bs.length { window := window } out.size (bs.drop hd) out).bind fun (rest, out') =>
    let content := out'.toList.drop out.size
    if sizeLen ≠ 0 ∧ content.length ≠ size then none
    else if !bit d 2 then some (rest, out')
    else if rest.length < 4 ∨ BitVec.ofNat 32 (at' rest 0 4) ≠ (xxh64 content).setWidth 32 then none
    else some (rest.drop 4, out')

/-- The frames of stored data: each but the last gives exactly 1 MiB (R253). -/
def readFrames : Nat → List Byte → Array Byte → Option (Array Byte)
  | 0, _, _ => none
  | fuel + 1, bs, out => match readFrame bs out with
    | none => none
    | some (rest, out') =>
      if rest.isEmpty then some out'
      else if out'.size - out.size = 2 ^ 20 then readFrames fuel rest out' else none

/-- Decode stored data; none where a rule of R253 is broken. -/
def decode (bs : List Byte) : Option (List Byte) :=
  if bs.isEmpty then some [] else (readFrames bs.length bs #[]).map Array.toList

end Sys2Proof.Machine.Zstd
end

