-- ==== Sys2Proof/Machine/Weights.lean ====
section
/-!
DEFINITION. Weights: Rhotako packages, their verification and conversion, contexts and their slots, epochs and bindings,
and streamed fills (R250-R272, R318).
-/
namespace Sys2Proof.Machine

/-! ## Reading span space -/

/-- The module reads bytes of span space for itself: its own, or another rank's, whose contents are not this module's to
say. -/
def Hw.readSpan (s : Hw) (addr n : Nat) : Hw × List Byte × Nat :=
  if s.ownRank (addrRank addr) then s.spanLoadAny s.spn.rank.toNat (addrOff addr) n
  else ({ s with draws := s.draws + 1 }, (List.range n).map fun i => Config.remoteByte s.draws (addr + i),
    Config.remoteStatus s.draws addr % 6)

/-- A source whose home is on the module's own flash (R419). -/
def Hw.onFlash (s : Hw) (source : Nat) : Bool :=
  s.ownRank (addrRank source) && decide (addrOff source ≥ migBase) && decide ((s.home (pageOf (addrOff source))).tier = 2)

/-- A read of LOAD_WEIGHTS whose source is not on the module's own flash takes its size from the token bucket, after the wait
that fills it (R419). -/
def Hw.readPaced (s : Hw) (addr n : Nat) : Hw × List Byte × Nat :=
  let r := s.readSpan addr n
  if s.glb.paceEnable && !s.onFlash addr then
    ({ r.1 with glb := { r.1.glb with paceLevel := r.1.glb.paceLevel - n * 2400 } }, r.2)
  else r

/-- A free value has been drawn: the next is another (MODEL, log 32). -/
def Hw.drawn (s : Hw) : Hw := { s with draws := s.draws + 1 }

/-! ## Packages (R250-R256) -/

/-- The manifest (R251). -/
structure Manifest where
  magic : Nat
  version : Nat
  packageId : List Byte
  keyId : List Byte
  kind : Nat
  chunks : Nat
  bodyLen : Nat
  tensors : Nat
  tableOff : Nat
  baseId : List Byte
  root : List Byte
  deriving DecidableEq, Repr

def parseManifest (b : List Byte) : Manifest :=
  { magic := at' b 0 4, version := at' b 4 4, packageId := sub b 8 16, keyId := sub b 0x18 8, kind := at' b 0x20 1
    chunks := at' b 0x24 4, bodyLen := at' b 0x28 8, tensors := at' b 0x30 4, tableOff := at' b 0x38 8
    baseId := sub b 0x40 16, root := sub b 0x50 32 }

/-- Magic RHTK and a package format version that the module shares: version 1 alone, which no rule states (R10, R251; DESIGN
CHOICE, log 213). -/
def Manifest.versionOk (m : Manifest) : Bool := decide (m.magic = 0x4B544852) && decide (m.version = 1)

/-- Bytes of a chunk, and of the signature's end (R250). -/
def chunkSize : Nat := 2 ^ 22
def leafListOff : Nat := 2 ^ 15

/-- Offset of the body in the stream (R250). -/
def bodyOff (chunks : Nat) : Nat := leafListOff + (chunks * 32 + 4095) / 4096 * 4096

/-- Length of chunk `i` of a body. -/
def chunkLen (bodyLen i : Nat) : Nat := min chunkSize (bodyLen - i * chunkSize)

/-- H: the first 32 bytes of SHAKE256 (R254). -/
def hash32 (b : List Byte) : List Byte := shake256 32 b

/-- leaf(i) (R254). -/
def leafHash (i : Nat) (chunk : List Byte) : List Byte := hash32 (0 :: leBytes 8 i ++ chunk)

/-- One level of the tree: pairs hashed, an odd node promoted unchanged (R254). -/
def nextLevel : List (List Byte) → List (List Byte)
  | a :: b :: r => hash32 (1 :: a ++ b) :: nextLevel r
  | l => l

/-- root(leaves), by levels (R254). -/
def treeRoot : Nat → List (List Byte) → List Byte
  | 0, l => l.headD []
  | n + 1, l => if l.length ≤ 1 then l.headD [] else treeRoot n (nextLevel l)

/-- The owner part of the configuration verifies under its own key, whose digest is the one fixed (R406). -/
def Hw.ownerOk (s : Hw) : Bool :=
  let (key, pubs, sig) := Config.ownerPart s.flash.owner
  decide (s.flash.owner ≠ []) && slhVerify key (pubs.flatMap id) sig && decide (shake256 32 key = s.flash.ownerKeyDigest)

/-- Publisher keys in force (R406). -/
def Hw.publisherKeys (s : Hw) : List (List Byte) :=
  if s.ownerOk then (Config.ownerPart s.flash.owner).2.1 else []

/-- The signature over the manifest verifies under the publisher key that key_id names (R255). -/
def Hw.manifestSigned (s : Hw) (manifest sig : List Byte) : Bool :=
  match s.publisherKeys.find? fun k => decide (shake256 8 k = (parseManifest manifest).keyId) with
  | none => false
  | some k => slhVerify k manifest sig

/-- Cut a leaf list into its leaves. -/
def leavesOf (n : Nat) (b : List Byte) : List (List Byte) := (List.range n).map fun i => sub b (32 * i) 32

/-- The leaf list gives the manifest's root (R256, stage 2). -/
def leavesOk (m : Manifest) (ls : List (List Byte)) : Bool := decide (treeRoot (ls.length + 1) ls = m.root)

/-- BAD_SIGNATURE with its detail, and the chunk for detail 3 (R256). -/
def badSig (detail chunk : Nat) : Rsp := { status := mbBadSig, detail := detail, chunk := chunk }

/-! ## Bodies -/

/-- Verified chunks by index. -/
abbrev Chunks := NMap (Option (List Byte))

/-- Bytes of the body from verified chunks. -/
def bodyBytes (cs : Chunks) : Nat → Nat → Nat → List Byte
  | 0, _, _ => []
  | fuel + 1, off, n =>
    if n = 0 then []
    else
      let k := min n (chunkSize - off % chunkSize)
      sub ((nget none cs (off / chunkSize)).getD []) (off % chunkSize) k ++ bodyBytes cs fuel (off + k) (n - k)

/-- Body bytes with enough fuel. -/
def body (cs : Chunks) (off n : Nat) : List Byte := bodyBytes cs (n / chunkSize + 2) off n

/-- Chunks that hold a range of the body. -/
def chunksOf (off n : Nat) : List Nat :=
  if n = 0 then [] else (List.range ((off + n - 1) / chunkSize - off / chunkSize + 1)).map (off / chunkSize + ·)

/-- A tensor table entry (R252). -/
structure TensorEntry where
  id : Nat
  fmt : Nat
  codec : Nat
  books : Bool
  axis : Bool
  rows : Nat
  cols : Nat
  dataOff : Nat
  storedLen : Nat
  rawLen : Nat
  sideOff : Nat
  sideLen : Nat
  layer : Nat
  expert : Nat
  deriving DecidableEq, Repr

def parseTensor (b : List Byte) : TensorEntry :=
  { id := at' b 0 4, fmt := at' b 4 1, codec := at' b 5 1, books := bit (at' b 6 1) 0, axis := bit (at' b 6 1) 1
    rows := at' b 8 4, cols := at' b 0x0C 4, dataOff := at' b 0x10 8, storedLen := at' b 0x18 8, rawLen := at' b 0x20 8
    sideOff := at' b 0x28 8, sideLen := at' b 0x30 8, layer := at' b 0x38 2, expert := at' b 0x3A 2 }

def parseTable (n : Nat) (b : List Byte) : List TensorEntry := (List.range n).map fun i => parseTensor (sub b (64 * i) 64)

/-- Chunks that a tensor's stored data and side data lie in. -/
def TensorEntry.chunks (e : TensorEntry) : List Nat :=
  (chunksOf e.dataOff e.storedLen ++ (if e.sideOff = 0 then [] else chunksOf e.sideOff e.sideLen)).eraseDups

/-! ## Transforms on arrival (R253, R257-R259) -/

/-- A tensor's decoded data and side data. -/
structure Stored where
  e : TensorEntry
  raw : List Byte
  side : List Byte

/-- `w` bits of a list of bytes from a bit address. -/
def listBits (b : List Byte) (a w : Nat) : Nat := (at' b (a / 8) ((w + 7) / 8 + 1) >>> (a % 8)) % 2 ^ w

/-- The stored code of element (r, c): row-major, rows of whole bytes (R252). -/
def Stored.code (x : Stored) (r c : Nat) : Nat :=
  let w := fmtBits x.e.fmt
  listBits x.raw (r * ((x.e.cols * w + 7) / 8) * 8 + c * w) w

/-- The stored element as FP32, for the formats that convert (R257). -/
def Stored.val (x : Stored) (r c : Nat) : W32 := f32of (codeVal x.e.fmt (x.code r c))

/-- Reasons of a failed load that concern the package's tensors (R262). -/
def rTransform : Nat := 0x23
def rNoCodebook : Nat := 0x24
def rTensorMissing : Nat := 0x27
def rFlashRead : Nat := 0x28
def rMemoryShort : Nat := 0x29

/-- Element (row, column) within the tile of a position of a line. -/
def Tile.cell (t : Tile) (l p : Nat) : Nat × Nat := if t.blkAxis then (p, l) else (l, p)

/-- Put a code into a tile of the image. -/
def Tile.put (t : Tile) (img : NMap Byte) (rc : Nat × Nat) (code : Nat) : NMap Byte :=
  sramPut img ((t.destOff + rc.1 * t.rowStride) * 8 + rc.2 * fmtBits t.fmt) (fmtBits t.fmt) code

/-- All elements of a tile. -/
def Tile.cells (t : Tile) : List (Nat × Nat) :=
  (List.range t.rows).flatMap fun r => (List.range t.cols).map fun c => (r, c)

/-- Re-layout of a tile whose format is the stored one; its side data is copied (R257). -/
def copyTile (x : Stored) (t : Tile) (img : NMap Byte) : Except Nat (NMap Byte) :=
  let img := t.cells.foldl (fun img rc => t.put img rc (x.code (t.row0 + rc.1) (t.col0 + rc.2))) img
  if !(isMx t.fmt || isLq4 t.fmt) then .ok img
  else if x.e.axis ≠ t.blkAxis then .error rTransform
  else
    let per := if isLq4 t.fmt then 256 else 32
    let size := if isLq4 t.fmt then 24 else 1
    let perLine := ((if t.blkAxis then x.e.rows else x.e.cols) + per - 1) / per
    .ok (((List.range t.lines).flatMap fun l => (List.range ((t.extent + per - 1) / per)).map fun b => (l, b)).foldl
      (fun img e => nputList 0 img (t.sideOff + e.1 * t.sideStride + e.2 * size)
        (sub x.side (((t.line0 + e.1) * perLine + t.pos0 / per + e.2) * size) size)) img)

/-- The 32 values of block `b` of line `l` of a tile, padded with +0 at the edge (R259). -/
def tileBlock (x : Stored) (t : Tile) (l b : Nat) : List Val :=
  (List.range 32).map fun i =>
    let p := b * 32 + i
    if p < t.extent then
      let rc := t.cell l p
      f32val (x.val (t.row0 + rc.1) (t.col0 + rc.2))
    else .fin false 0 0

/-- Store a converted block: its scale byte and the codes of the positions that the tile has. -/
def putBlock (t : Tile) (img : NMap Byte) (l b side : Nat) (r : Nat × List Nat) : NMap Byte :=
  let img := ((List.range 32).zip r.2).foldl (fun img e =>
    if b * 32 + e.1 < t.extent then t.put img (t.cell l (b * 32 + e.1)) e.2 else img) img
  nput 0 img side (BitVec.ofNat 8 r.1)

/-- Round to nearest even for each of 32 values: no load rounds stochastically (R257). -/
def rnes : List Rnd := List.replicate 32 .rne

/-- Convert a tile to an MX format (R105, R257). -/
def mxTile (x : Stored) (t : Tile) (img : NMap Byte) : NMap Byte :=
  ((List.range t.lines).flatMap fun l => (List.range ((t.extent + 31) / 32)).map fun b => (l, b)).foldl (fun img e =>
    putBlock t img e.1 e.2 (t.sideOff + e.1 * t.sideStride + e.2) (mxBlock t.fmt rnes (tileBlock x t e.1 e.2))) img

/-- The codebook of a 256-position group of a line of the package's side data (R257). -/
def bookOf (x : Stored) (t : Tile) (l g : Nat) : List Byte :=
  let groups := ((if t.blkAxis then x.e.rows else x.e.cols) + 255) / 256
  sub x.side (((t.line0 + l) * groups + t.pos0 / 256 + g) * 16) 16

/-- A codebook has an entry that is finite and not zero (R106, R107). -/
def bookOk (b : List Byte) : Bool := b.any fun c =>
  (fmtE4M3.decode c.toNat).isFinite && !(fmtE4M3.decode c.toNat).isZero

/-- Convert a tile to LQ4 with the codebooks of the package (R106, R257). -/
def lqTile (x : Stored) (t : Tile) (img : NMap Byte) : Except Nat (NMap Byte) :=
  if !x.e.books then .error rNoCodebook
  else if x.e.axis ≠ t.blkAxis then .error rTransform
  else
    let groups := (List.range t.lines).flatMap fun l => (List.range ((t.extent + 255) / 256)).map fun g => (l, g)
    if groups.any fun e => !bookOk (bookOf x t e.1 e.2) then .error rTransform
    else .ok (groups.foldl (fun img e =>
      let side := t.sideOff + e.1 * t.sideStride + e.2 * 24
      let book := bookOf x t e.1 e.2
      let img := nputList 0 img side book
      ((List.range 8).filter fun k => decide (e.2 * 256 + k * 32 < t.extent)).foldl (fun img k =>
        let b := e.2 * 8 + k
        putBlock t img e.1 b (side + 16 + k)
          (lqBlock (book.map fun c => fmtE4M3.decode c.toNat) rnes (tileBlock x t e.1 b))) img) img)

/-- Convert one tile, or fail with the reason (R257). -/
def convertTile (x : Stored) (t : Tile) (img : NMap Byte) : Except Nat (NMap Byte) :=
  if x.e.fmt = t.fmt then copyTile x t img
  else if x.e.fmt > 2 then .error rTransform
  else if isMx t.fmt then .ok (mxTile x t img)
  else if isLq4 t.fmt then lqTile x t img
  else if t.fmt > 13 then .error rTransform
  else .ok (t.cells.foldl (fun img rc =>
    t.put img rc (narrowCode t.fmt .rne (x.val (t.row0 + rc.1) (t.col0 + rc.2)))) img)

/-- Decode a tensor's stored data (R252, R253). -/
def decodeTensor (e : TensorEntry) (cs : Chunks) : Except Nat Stored :=
  let stored := body cs e.dataOff e.storedLen
  let side := if e.sideOff = 0 then [] else body cs e.sideOff e.sideLen
  if e.codec = 0 then .ok { e := e, raw := stored, side := side }
  else if e.codec = 1 then
    match Zstd.decode stored with
    | some raw => if raw.length = e.rawLen then .ok { e := e, raw := raw, side := side } else .error rTransform
    | none => .error rTransform
  else .error rTransform

/-- The image of a tensor, or the reason of the failure (R257). -/
def imageOf (g : WgtSec) (d : TensorDef) (e : TensorEntry) (cs : Chunks) : Except Nat (NMap Byte) :=
  match decodeTensor e cs with
  | .error r => .error r
  | .ok x => (g.tilesOf d).foldl (fun (o : Except Nat (NMap Byte)) t => match o with
    | .error r => .error r
    | .ok img => convertTile x t img) (.ok [])

/-! ## Contexts and slots (R263-R266) -/

def Hw.ctx (s : Hw) (c : Nat) : Ctx := nget {} s.wgt.ctxs c
def Hw.setCtx (s : Hw) (c : Nat) (x : Ctx) : Hw := { s with wgt := { s.wgt with ctxs := nput {} s.wgt.ctxs c x } }
def Hw.slot (s : Hw) (c k : Nat) : CtxSlot := nget {} (s.ctx c).slots k
def Hw.setSlot (s : Hw) (c k : Nat) (x : CtxSlot) : Hw :=
  s.setCtx c { s.ctx c with slots := nput {} (s.ctx c).slots k x }

def SlotSt.code : SlotSt → Nat
  | .free => 0 | .preparing => 1 | .prepared => 2 | .current => 3 | .draining => 4

/-- The four slots of a context. -/
def slotIxs : List Nat := [0, 1, 2, 3]

/-- The weight section of a billet that is active, takes over or is armed (R262). -/
def Hw.wgtSec (s : Hw) : Option WgtSec :=
  ((s.running.bind (·.img.weight)).or (s.incoming.bind (·.img.weight))).or (s.armed.bind (·.img.weight))

/-- Every slot of every context that is not FREE: context, slot number, slot. -/
def Hw.liveSlots (s : Hw) : List (Nat × Nat × CtxSlot) :=
  s.wgt.ctxs.flatMap fun e => (slotIxs.map fun k => (e.1, k, nget {} e.2.slots k)).filter fun x => decide (x.2.2.state ≠ .free)

/-- Images that a slot references, base and adapters with their tables. -/
def CtxSlot.allImages (x : CtxSlot) : List Img := x.images ++ x.adapters.flatMap fun a => a.table :: a.images

/-- Pages of an image. -/
def Img.pages (i : Img) : List Nat := (List.range i.count).map (i.first + ·)

/-- Release pages at the next boundary (R265). -/
def Hw.queueRelease (s : Hw) (ps : List Nat) : Hw :=
  let id := s.tng.nextReq
  { s with tng := { s.tng with nextReq := id + 1, releases := s.tng.releases ++ ps.map fun p => (p, id) } }

/-- Release the images that no live slot references any more (R265). -/
def Hw.dropImages (s : Hw) (imgs : List Img) : Hw :=
  let used := (s.liveSlots.flatMap fun e => e.2.2.allImages).map (·.first)
  s.queueRelease ((imgs.filter fun i => !used.contains i.first).flatMap Img.pages)

/-- A slot becomes FREE and releases what only it held (R265, R266). -/
def Hw.freeSlot (s : Hw) (c k : Nat) : Hw :=
  let imgs := (s.slot c k).allImages
  (s.setSlot c k {}).dropImages imgs

/-- What a load or a session writes from the start: the slot's table and directory hold no entry (R264). -/
def Hw.clearTable (s : Hw) (c k : Nat) : Hw :=
  match s.wgt.sec with
  | none => s
  | some g => (List.range 48).foldl (fun s f => s.memErase (bonded f 0 (g.dtOff + (c * 4 + k) * g.dtSize))
      ((g.tensorCount * 16 + 63) / 64 * 64 + 32768)) s

/-- Span address of a page of this module's migrating range (R274, R304). -/
def Hw.pageAddr (s : Hw) (p : Nat) : Nat := s.spn.rank.toNat * 2 ^ 48 + pageOff p

/-- The lowest run of `n` pages that nothing holds: not homed, not under an order, in no pool, plan or ring (which pages an
image takes is not stated, DESIGN CHOICE, log 23). -/
def Hw.freeRun (s : Hw) (n : Nat) : Option Nat :=
  match s.tng.sec with
  | none => none
  | some sec =>
    let ranges : List (Nat × Nat) := (s.tng.homes.map fun e => (e.1, 1)) ++ (s.tng.orders.map fun o => (o.page, 1))
      ++ (sec.plan.map fun e => (e.first, e.count)) ++ [(s.flt.trailPage.toNat, 2 ^ 20)]
      ++ (match s.kv.sec with
        | some k => [(pageOf (addrOff s.kv.poolBase.toNat), s.kv.poolSize.toNat * k.frames)]
        | none => [])
    let ok (p : Nat) : Bool := decide (p + n ≤ sec.homePages) &&
      ranges.all fun r => decide (p + n ≤ r.1) || decide (r.1 + r.2 ≤ p)
    ((0 :: ranges.map fun r => r.1 + r.2).filter ok).foldl (fun (b : Option Nat) p => match b with
      | none => some p
      | some q => some (min p q)) none

/-- Place `n` pages in a tier, contents cleared; none where the tier lacks room (R262). -/
def Hw.placePages (s : Hw) (n tier f w : Nat) : Option (Hw × Nat) :=
  (s.freeRun n).bind fun first =>
    ((List.range n).foldl (fun (o : Option Hw) i => o.bind fun s => (s.findRoom tier f w).map fun l =>
      (s.setHome (first + i) { state := .home, tier := tier, cls := 1, location := l }).memErase
        (pageOff (first + i)) pageBytes) (some s)).map fun s => (s, first)

/-- Write an image's bytes into its pages; in bonded memory they enter through vertical ports (R260). -/
def Hw.writeImage (s : Hw) (first : Nat) (img : NMap Byte) : Hw :=
  let pages := (img.map fun e => e.1 / pageBytes).eraseDups
  let s := pages.foldl (fun s p =>
    s.unitTraffic 186 (pageOff (first + p)) (img.filter fun e => decide (e.1 / pageBytes = p)).length false) s
  { s with mem := img.foldl (fun m e => nput 0 m (pageOff first + e.1) e.2) s.mem }

/-- A descriptor entry (R264). -/
def descEntry (addr fmt tier : Nat) (base : Bool) (pages : Nat) : List Byte :=
  leBytes 8 addr ++ leBytes 8 (fmt + tier * 32 + b2n base * 256 + 512 + pages * 1024)

/-- Offset of a slot's descriptor table in each field (R264). -/
def WgtSec.tableOff (g : WgtSec) (c k : Nat) : Nat := g.dtOff + (c * 4 + k) * g.dtSize
/-- Offset of the adapter directory behind it (R264). -/
def WgtSec.dirOff (g : WgtSec) (c k : Nat) : Nat := g.tableOff c k + (g.tensorCount * 16 + 63) / 64 * 64

/-- The descriptor entry of an image under the billet's tensor list. -/
def Hw.imgEntry (s : Hw) (g : WgtSec) (base : Bool) (i : Img) : List Byte :=
  match g.tensors.find? fun d => decide (d.id = i.tensor) with
  | none => leBytes 16 0
  | some d => descEntry (s.pageAddr i.first) (((g.tilesOf d).map (·.fmt)).headD 0) d.tier base i.count

/-- Write a slot's descriptor table and adapter directory in every field, and each adapter's own table (R264). -/
def Hw.writeTable (s : Hw) (g : WgtSec) (c k : Nat) : Hw :=
  let x := s.slot c k
  let s := (List.range g.tensorCount).foldl (fun s t => s.memWriteAll (g.tableOff c k + 16 * t)
    (match x.images.find? fun i => decide (i.tensor = t) with
     | some i => s.imgEntry g true i
     | none => leBytes 16 0)) s
  let s := (List.range 48).foldl (fun s f => s.memErase (bonded f 0 (g.dirOff c k)) 32768) s
  x.adapters.foldl (fun s a =>
    let s := s.memWriteAll (g.dirOff c k + 8 * a.number) (leBytes 8 (s.pageAddr a.table.first))
    (List.range g.adapterTensors).foldl (fun s t => s.memWrite (pageOff a.table.first + 16 * t)
      (match a.images.find? fun i => decide (i.tensor = g.tensorCount + t) with
       | some i => s.imgEntry g false i
       | none => leBytes 16 0)) s) s

/-- The context table entry (R263). -/
def Hw.ctxBytes (s : Hw) (g : WgtSec) (c : Nat) : List Byte :=
  let x := s.ctx c
  let cur := x.current.getD 0
  let cs := if x.current.isSome then s.slot c cur else {}
  leBytes 8 cs.epoch.toNat ++ leBytes 1 (b2n (g.trainMask.getLsbD c) + 2 * b2n x.commitPending) ++ leBytes 1 cur
    ++ leBytes 1 x.pendingSlot ++ leBytes 1 0 ++ leBytes 2 cs.adapters.length ++ leBytes 2 0
    ++ (slotIxs.flatMap fun k =>
      let y := s.slot c k
      leBytes 8 y.epoch.toNat ++ leBytes 4 y.refs ++ leBytes 1 y.state.code ++ leBytes 3 0)
    ++ padTo 16 cs.packageId ++ padTo 32 cs.root

/-- Write the context table in every field (R263). -/
def Hw.writeCtxTable (s : Hw) : Hw :=
  match s.wgt.sec with
  | none => s
  | some g => (List.range 64).foldl (fun s c => s.memWriteAll (g.ctxOff + 128 * c) (s.ctxBytes g c)) s

/-- A weight slot gives up the layer it holds: its images leave the table of the session that they were entered in, unless the
slot of that session has been taken anew, and are released (R264, R265). -/
def Hw.dropLayer (s : Hw) (x : Wslot) : Hw :=
  let s : Hw := match x.entered, s.wgt.sec with
    | some (c, k), some g =>
      if (s.slot c k).epoch = x.epoch then
        x.images.foldl (fun (s : Hw) i => s.memWriteAll (g.tableOff c k + 16 * i.tensor) (leBytes 16 0)) s
      else s
    | _, _ => s
  s.dropImages x.images

/-- Every weight slot gives up its layer and is as at activation (R227). -/
def Hw.dropLayers (s : Hw) : Hw :=
  let ws := s.wgt.wslots.map (·.2)
  ws.foldl (fun s x => s.dropLayer x) { s with wgt := { s.wgt with wslots := [] } }

/-! ## Binding (R268) -/

/-- Write a sequence's binding table entry (R268). -/
def Hw.writeBinding (s : Hw) (q : Nat) : Hw :=
  match s.wgt.sec with
  | none => s
  | some g => s.memWriteAll (g.bindOff + 8 * q) (leBytes 8 (match nget none s.wgt.bindSeq q with
    | some b => b.2 + 4
    | none => 0))

/-- A sequence of a context becomes ACTIVE: it is bound to the CURRENT slot (R268). -/
def Hw.bindSequence (s : Hw) (q c : Nat) : Hw :=
  match (s.ctx c).current with
  | none => s
  | some k => ({ s with wgt := { s.wgt with bindSeq := nput none s.wgt.bindSeq q (some (c, k)) } }).writeBinding q

/-- A sequence becomes FREE: its binding ends (R268). -/
def Hw.unbindSequence (s : Hw) (q : Nat) : Hw :=
  ({ s with wgt := { s.wgt with bindSeq := nput none s.wgt.bindSeq q none } }).writeBinding q

/-- The context has a CURRENT slot, or the billet has no weights to bind (R268). -/
def Hw.canBind (s : Hw) (c : Nat) : Bool := s.wgt.sec.isNone || (s.ctx c).current.isSome

/-- A step opens in an entry: it is bound to the CURRENT slot of every training context (R268; a step names no context,
DEDUCED, log 24). -/
def Hw.bindStepEntry (s : Hw) (entry : Nat) : Hw :=
  match s.wgt.sec with
  | none => s
  | some g =>
    let bs := ((List.range 64).filter fun c => g.trainMask.getLsbD c).filterMap fun c => (s.ctx c).current.map fun k => (c, k)
    { s with wgt := { s.wgt with bindStep := nput [] s.wgt.bindStep entry bs } }

/-- A step is FREE or CLOSED: its binding ends (R268). -/
def Hw.unbindStep (s : Hw) (entry : Nat) : Hw :=
  { s with wgt := { s.wgt with bindStep := nput [] s.wgt.bindStep entry [] } }

/-- Sequences and steps bound to a slot (R268). -/
def Hw.refsOf (s : Hw) (c k : Nat) : Nat :=
  (s.wgt.bindSeq.filter fun e => decide (e.2 = some (c, k))).length
    + (s.wgt.bindStep.flatMap (·.2) |>.filter fun b => decide (b = (c, k))).length

/-! ## Commits (R267, R269) -/

/-- EPOCH_COMMIT names a PREPARED slot and a stroke; it answers at once (R267). -/
def execEpochCommit (tag : W32) (params : List Byte) (s : State) : Out :=
  s.act fun s => (s.mbxCommand 0x0021 tag fun s =>
    let c := at' params 0 1
    let k := at' params 1 1
    if !paramsOk params 16 [(2, 6)] then s.respond badParams
    else if c > 63 ∨ k > 3 then s.respond (refused 0x20)
    else if (s.slot c k).state ≠ .prepared then s.respond (refused 0x2A)
    else
      (s.setCtx c { s.ctx c with pendingSlot := k, commitStroke := at' params 8 8, commitPending := true }).respond
        { data := leBytes 8 (s.slot c k).epoch.toNat })

/-- EPOCH_DROP frees a PREPARED slot; a commit that waits on it is withdrawn with it (R267). -/
def execEpochDrop (tag : W32) (params : List Byte) (s : State) : Out :=
  s.act fun s => (s.mbxCommand 0x0022 tag fun s =>
    let c := at' params 0 1
    let k := at' params 1 1
    if !paramsOk params 8 [(2, 6)] then s.respond badParams
    else if c > 63 ∨ k > 3 then s.respond (refused 0x20)
    else if (s.slot c k).state ≠ .prepared then s.respond (refused 0x2A)
    else
      let s := s.freeSlot c k
      let x := s.ctx c
      (s.setCtx c { x with commitPending := x.commitPending && decide (x.pendingSlot ≠ k) }).respond {})

/-- Step n opens in entry n mod 2. -/
def stepEntry (b : Bwd) (i : Nat) : StepEnt := if i % 2 = 0 then b.e0 else b.e1
def StepEnt.idle (e : StepEnt) : Bool := decide (e.state = .free) || decide (e.state = .closed)

/-- A queued step operation is due at a boundary (R213). -/
def stepDue (num : W64) (stroke : Nat) : Bool := decide (stroke = 0) || reached36 num (BitVec.ofNat 36 stroke)

/-- This boundary carries a step OPEN while the other step entry is FREE or CLOSED (R267). -/
def Hw.trainCommitOk (s : Hw) : Bool :=
  (s.bwd.queue.any fun o => o.1 && stepDue s.stk.num o.2) && (stepEntry s.bwd (s.bwd.nextStep + 1)).idle

/-- Pending commits that apply at this boundary (R269). -/
def Hw.applyCommits (s : Hw) : Hw :=
  match s.wgt.sec with
  | none => s
  | some g => s.wgt.ctxs.foldl (fun s e =>
    let c := e.1
    let x := s.ctx c
    if !x.commitPending then s
    else if g.trainMask.getLsbD c && !s.trainCommitOk then s
    else if s.stk.num.toNat < x.commitStroke then s
    else
      let k := x.pendingSlot
      let s := s.setCtx c { x with commitPending := false, current := some k }
      let s := s.setSlot c k { s.slot c k with state := .current }
      let s := match x.current with
        | none => s
        | some o => if o = k then s
          else if (s.slot c o).refs > 0 then s.setSlot c o { s.slot c o with state := .draining } else s.freeSlot c o
      s.raise 20) s

/-- The end of the weights' part of a boundary: refs are counted anew, DRAINING slots without refs become FREE and what only they
held is released with it, and the context table is written (R263, R265, R269). -/
def Hw.settleWeights (s : Hw) : Hw :=
  let s := s.liveSlots.foldl (fun s e => s.setSlot e.1 e.2.1 { s.slot e.1 e.2.1 with refs := s.refsOf e.1 e.2.1 }) s
  let queued := s.tng.releases
  let s : Hw := (s.liveSlots.filter fun e => decide (e.2.2.state = .draining) && decide (e.2.2.refs = 0)).foldl
    (fun s e => (s.freeSlot e.1 e.2.1).raise 21) { s with tng := { s.tng with releases := [] } }
  let s := s.releaseAll
  ({ s with tng := { s.tng with releases := queued } }).writeCtxTable

/-- A load that runs fails: its slot is taken from it with its billet (R262, R266; the answer, as with no billet at all, is a
DESIGN CHOICE, log 212). -/
def Hw.endLoad (s : Hw) : Hw :=
  match s.mbx.long with
  | some (.loadWeights _) => s.respond (refused 0x20)
  | _ => s

/-- Every slot becomes FREE: the billet is retired, or replaced by one of another geometry (R266). What was bound to them is bound
no longer (R268), and a load in progress ends. -/
def Hw.freeAllSlots (s : Hw) : Hw :=
  let s := (s.wgt.bindSeq.map (·.1)).foldl (fun s q => s.unbindSequence q) s.endLoad
  let s := s.liveSlots.foldl (fun s e => s.freeSlot e.1 e.2.1) s
  let s := s.wgt.ctxs.foldl (fun s e => s.setCtx e.1 { s.ctx e.1 with current := none, commitPending := false }) s
  let s := { s with wgt := { s.wgt with bindSeq := [], bindStep := [], sessions := [] } }
  s.dropLayers

/-- The armed billet is discarded: with no other billet of a weight section, what was loaded under it goes (R41, R266). -/
def Hw.dropLoaded (s : Hw) : Hw :=
  let mine := (s.armed.bind (·.img.weight)).isSome
  let s := { s with armed := none }
  if mine && s.wgtSec.isNone then
    let s := s.freeAllSlots
    { s with wgt := { s.wgt with sec := none } }
  else s

/-! ## LOAD_WEIGHTS (R260-R262) -/

/-- The lowest FREE slot of a context. -/
def Hw.freeCtxSlot (s : Hw) (c : Nat) : Option Nat := slotIxs.find? fun k => decide ((s.slot c k).state = .free)

/-- Begin a load into a slot: PREPARING, with a new epoch number (R266). -/
def Hw.beginSlot (s : Hw) (c k : Nat) (stream : Bool) : Hw :=
  let n := (s.ctx c).nextEpoch
  (s.setCtx c { s.ctx c with nextEpoch := n + 1 }).setSlot c k
    { epoch := BitVec.ofNat 64 n, state := .preparing, stream := stream }

/-- The signature and the leaf list of a package, checked in their order (R256). -/
def Hw.openPackage (s : Hw) (source : Nat) (manifest : List Byte) : Hw × Except Rsp (List (List Byte)) :=
  let m := parseManifest manifest
  let (s, sig, st) := s.readPaced (source + 512) 29792
  if st ≠ 0 then (s, .error (refused rFlashRead))
  else if !s.manifestSigned manifest sig then (s, .error (badSig 1 0))
  else
    let (s, lb, st) := s.readPaced (source + leafListOff) (32 * m.chunks)
    let ls := leavesOf m.chunks lb
    if st ≠ 0 then (s, .error (refused rFlashRead))
    else if !leavesOk m ls then (s, .error (badSig 2 0))
    else (s, .ok ls)

/-- A live slot's source of the same package on the module's own flash, from which remote chunks are read (R419). -/
def Hw.chunkSource (s : Hw) (source : Nat) (m : Manifest) : Nat :=
  if s.onFlash source then source
  else match s.liveSlots.find? fun e => decide (e.2.2.packageId = m.packageId) && decide (e.2.2.root = m.root) && s.onFlash e.2.2.source with
    | some e => e.2.2.source
    | none => source

/-- Read and verify chunks of a package (R256, stage 3). -/
def Hw.fetchChunks (s : Hw) (source : Nat) (m : Manifest) (ls : List (List Byte)) (cs : Chunks) (ids : List Nat) :
    Hw × Except Rsp Chunks :=
  let src := s.chunkSource source m
  ids.foldl (fun p i => match p with
    | (s, .error r) => (s, .error r)
    | (s, .ok cs) =>
      if (nget none cs i).isSome then (s, .ok cs)
      else
        let (s, b, st) := s.readPaced (src + bodyOff m.chunks + i * chunkSize) (chunkLen m.bodyLen i)
        if st ≠ 0 then (s, .error (refused rFlashRead))
        else if leafHash i b ≠ ls.getD i [] then (s, .error (badSig 3 i))
        else (s, .ok (nput none cs i (some b)))) (s, .ok cs)

/-- The images of a list of tensors, placed; on a failure every page placed goes back (R262). -/
def Hw.placeTensors (s : Hw) (g : WgtSec) (defs : List TensorDef) (table : List TensorEntry) (cs : Chunks) :
    Except Nat (Hw × List Img) :=
  defs.foldl (fun (o : Except Nat (Hw × List Img)) d => match o with
    | .error r => .error r
    | .ok (s, imgs) =>
      match table.find? fun e => decide (e.id = d.id) with
      | none => .error rTensorMissing
      | some e =>
        let ts := g.tilesOf d
        if e.rows ≠ tileRows ts ∨ e.cols ≠ tileCols ts then .error rTensorMissing
        else match imageOf g d e cs with
          | .error r => .error r
          | .ok img => match s.placePages d.pages d.tier d.field (b2n d.wafer) with
            | none => .error rMemoryShort
            | some (s, first) => .ok (s.writeImage first img, imgs ++ [{ tensor := d.id, first := first, count := d.pages }]))
    (.ok (s, []))

/-- Verify the chunks that the listed tensors need and place their images (R252, R256, R257, R261). -/
def Hw.loadTensors (s : Hw) (g : WgtSec) (source : Nat) (m : Manifest) (ls : List (List Byte)) (defs : List TensorDef) :
    Hw × Except Rsp (Hw × List Img) :=
  match s.fetchChunks source m ls [] (chunksOf m.tableOff (64 * m.tensors)) with
  | (s, .error r) => (s, .error r)
  | (s, .ok cs) =>
    let table := parseTable m.tensors (body cs m.tableOff (64 * m.tensors))
    let needed := (table.filter fun e => defs.any fun d => decide (d.id = e.id)).flatMap fun e => e.chunks
    match s.fetchChunks source m ls cs needed.eraseDups with
    | (s, .error r) => (s, .error r)
    | (s, .ok cs) => match s.placeTensors g defs table cs with
      | .error r => (s, .error (refused r))
      | .ok p => (s, .ok p)

/-- A live slot that holds a base of this package, whose pages a new slot of context `c` may reference: a base that the billet
writes is shared with no other context (R260, R265). -/
def Hw.sharedBase (s : Hw) (g : WgtSec) (c : Nat) (m : Manifest) : Option CtxSlot :=
  (s.liveSlots.find? fun e => decide (e.2.2.packageId = m.packageId) && !e.2.2.stream && !e.2.2.images.isEmpty
    && (decide (e.1 = c) || !g.baseDefs.any (·.written))).map (·.2.2)

/-- Adapters live on the module, and the context an adapter number belongs to (R262, R265). -/
def Hw.liveAdapters (s : Hw) : List Nat := (s.liveSlots.flatMap fun e => e.2.2.adapters.map (·.number)).eraseDups
def Hw.adapterCtx (s : Hw) (a : Nat) : Option Nat :=
  (s.liveSlots.find? fun e => e.2.2.adapters.any fun x => decide (x.number = a)).map (·.1)

/-- The parameter checks of LOAD_WEIGHTS beyond the package's version (R262). -/
def Hw.loadRefusal (s : Hw) (c op a : Nat) : Option Nat :=
  if c > 63 ∨ op > 2 ∨ (op ≠ 0 ∧ a > 4095) ∨ s.wgtSec.isNone then some 0x20
  else if (s.freeCtxSlot c).isNone then some 0x21
  else if op ≠ 0 ∧ (s.ctx c).current.isNone then some 0x22
  else if op = 1 ∧ s.liveAdapters.length ≥ 4096 ∧ !s.liveAdapters.contains a then some 0x26
  else if op ≠ 0 ∧ (s.adapterCtx a).any (fun o => decide (o ≠ c)) then some 0x26
  else none

/-- A slot that begins from CURRENT references its base and its adapters, but for one that is dropped (R260, R265). -/
def Hw.copyCurrent (s : Hw) (c op a k : Nat) : Hw :=
  let cur := s.slot c ((s.ctx c).current.getD 0)
  s.setSlot c k { s.slot c k with
    packageId := cur.packageId, root := cur.root, source := cur.source, images := cur.images, leaves := cur.leaves
    table := cur.table, bodyLen := cur.bodyLen
    adapters := if op = 2 then cur.adapters.filter fun x => decide (x.number ≠ a) else cur.adapters }

/-- A load is accepted: its slot is PREPARING, with CURRENT's references for an adapter's load, and the mailbox is BUSY (R260,
R266, R383). -/
def Hw.acceptLoad (s : Hw) (c op a source total : Nat) : Hw :=
  let k := (s.freeCtxSlot c).getD 0
  let s := { s with wgt := { s.wgt with sec := s.wgtSec }
                    tng := if s.tng.sec.isSome then s.tng else { s.tng with sec := s.armed.map (fun (l : Loaded) => l.img.tongs) } }
  let s := s.beginSlot c k false
  (if op = 0 then s else s.copyCurrent c op a k).startLong (.loadWeights { context := c, op := op, adapter := a, source := source, slot := k }) total

/-- A load that fails leaves its slot FREE and answers (R262). -/
def Hw.failLoad (s : Hw) (w : WLoad) (r : Rsp) : Hw := (s.freeSlot w.context w.slot).respond r

/-- The checks of a package that precede its chunks: signature, leaf list, kind, base (R256, R260, R262). -/
def Hw.checkPackage (s : Hw) (w : WLoad) (manifest : List Byte) : Hw :=
  let m := parseManifest manifest
  match s.openPackage w.source manifest with
  | (s, .error r) => s.failLoad w r
  | (s, .ok _) =>
    if m.kind ≠ w.op then s.failLoad w (refused rTransform)
    else if w.op = 1 ∧ m.baseId ≠ (s.slot w.context w.slot).packageId then
      s.failLoad w (refused 0x25)
    else s

/-- LOAD_WEIGHTS with a package: version before anything else, then the parameters, then the package's own checks. -/
def Hw.loadPackage (s : Hw) (tag : W32) (c op a source : Nat) : Hw :=
  s.mbxCommand 0x0020 tag fun s =>
    let (s, manifest, st) := s.readPaced source 512
    let m := parseManifest manifest
    if decide (st = 0) && !m.versionOk then s.respond { status := mbBadVersion }
    else match s.loadRefusal c op a with
      | some r => s.respond (refused r)
      | none =>
        let s := s.acceptLoad c op a source m.chunks
        let w : WLoad := { context := c, op := op, adapter := a, source := source, slot := match s.mbx.long with
          | some (.loadWeights x) => x.slot
          | _ => 0 }
        if st ≠ 0 then s.failLoad w (refused rFlashRead) else s.checkPackage w manifest

/-- LOAD_WEIGHTS op 0 (R260). -/
def execLoadBase (tag : W32) (context : Byte) (source : W64) (s : State) : Out :=
  s.act fun s => (s.loadPackage tag context.toNat 0 0 source.toNat)

/-- LOAD_WEIGHTS op 1 (R260). -/
def execLoadAdapter (tag : W32) (context : Byte) (adapter : W16) (source : W64) (s : State) : Out :=
  s.act fun s => (s.loadPackage tag context.toNat 1 adapter.toNat source.toNat)

/-- LOAD_WEIGHTS op 2 (R260). -/
def execDropAdapter (tag : W32) (context : Byte) (adapter : W16) (s : State) : Out :=
  s.act fun s => (s.mbxCommand 0x0020 tag fun s => match s.loadRefusal context.toNat 2 adapter.toNat with
    | some r => s.respond (refused r)
    | none => s.acceptLoad context.toNat 2 adapter.toNat 0 0)

/-- A load has built its slot: it is PREPARED, its descriptor table is written, and the answer gives slot and epoch
(R260, R266). -/
def Hw.finishLoad (s : Hw) (g : WgtSec) (w : WLoad) (x : CtxSlot) : Hw :=
  let old := s.slot w.context w.slot
  let s := s.setSlot w.context w.slot { x with epoch := old.epoch, refs := 0, state := .prepared, stream := false }
  (s.writeTable g w.context w.slot).respond { data := leBytes 1 w.slot ++ leBytes 7 0 ++ leBytes 8 old.epoch.toNat }

/-- The end of an adapter's load: images and a table of its own (R260, R264). -/
def Hw.endAdapter (s : Hw) (g : WgtSec) (w : WLoad) (m : Manifest) (imgs : List Img) : Option (Hw × CtxSlot) :=
  let cur := s.slot w.context w.slot
  let n := (g.adapterTensors * 16 + pageBytes - 1) / pageBytes
  (s.placePages n 1 0 0).map fun (s, first) =>
    let a : AdapterRef := { number := w.adapter, packageId := m.packageId, root := m.root, source := w.source, images := imgs
                            table := { tensor := 2 ^ 32, first := first, count := n } }
    (s, { cur with adapters := (cur.adapters.filter fun x => decide (x.number ≠ w.adapter)) ++ [a] })

/-- A load ends: chunks verified, tensors converted and placed, the slot PREPARED or FREE (R256, R257, R262). -/
def execLoadWeightsEnd (s : State) : Out :=
  s.act fun s => (match s.mbx.long, s.wgt.sec with
    | some (.loadWeights w), some g =>
      if w.op = 2 then s.finishLoad g w (s.slot w.context w.slot)
      else
        let (s1, manifest, st) := s.readPaced w.source 512
        let m := parseManifest manifest
        match (if st ≠ 0 then (s1, .error (refused rFlashRead)) else s1.openPackage w.source manifest) with
        | (s2, .error r) => s2.failLoad w r
        | (s2, .ok ls) =>
          match (if w.op = 0 then s2.sharedBase g w.context m else none) with
          | some b => s2.finishLoad g w { packageId := b.packageId, root := b.root, source := w.source, images := b.images }
          | none =>
            let base := decide (w.op = 0)
            match s2.loadTensors g w.source m ls (if base then g.baseDefs else g.adapterDefs) with
            | (s3, .error r) => s3.failLoad w r
            | (s3, .ok (s4, imgs)) =>
              if base then s4.finishLoad g w { packageId := m.packageId, root := m.root, source := w.source, images := imgs }
              else match s4.endAdapter g w m imgs with
                | none => s3.failLoad w (refused rMemoryShort)
                | some (s5, x) => s5.finishLoad g w x
    | _, _ => s)

end Sys2Proof.Machine
end

