-- ==== Sys2Proof/Machine/Kv.lean ====
section
/-!
DEFINITION. Attention and the key-value cache: sequences (R181-R183), pages and their tables (R184-R188), the walk
(R190-R193), the merge (R199), prefix sharing (R200-R204), reclaim and pre-emption (R205, R206).
-/
namespace Sys2Proof.Machine

/-! ## Geometry (R185, R186, R198) -/

def pageNone : Nat := 0xFFFFFFFF
def pageAlloc : Nat := 0xFFFFFFFE

/-- A table entry that names a page. -/
def isPage (v : Nat) : Bool := decide (v < pageAlloc)

def KvSec.headsLocal (k : KvSec) : Nat := if k.placement = 1 then k.kvHeads / k.members else k.kvHeads

/-- Local pages that a length needs (R186, R198). -/
def KvSec.pagesMax (k : KvSec) (maxLen : Nat) : Nat :=
  let p := (maxLen + 255) / 256
  if k.placement ≠ 2 then p
  else if p = 0 then 0
  else
    let run := k.stride * k.members
    (p - 1) / run * k.stride + min ((p - 1) % run) (k.stride - 1) + 1

/-- The local page of page p on this member, none where another member holds it (R198). -/
def KvSec.localPage (k : KvSec) (p : Nat) : Option Nat :=
  if k.placement ≠ 2 then some p
  else if p / k.stride % k.members = k.member then some (p / (k.stride * k.members) * k.stride + p % k.stride) else none

/-- The page whose local page is j, on this member. -/
def KvSec.pageOfLocal (k : KvSec) (j : Nat) : Nat :=
  if k.placement ≠ 2 then j else (j / k.stride * k.members + k.member) * k.stride + j % k.stride

/-- Field of the slice map for a local head and local page (R189). -/
def KvSec.sliceField (k : KvSec) (h j : Nat) : Nat := (k.slices.getD (h * k.pagesMax k.maxLen + j) 0).toNat

/-- The geometry while no KV section has been loaded: no page, no valid entry. -/
def KvSec.none : KvSec :=
  { a := 0, kvHeads := 0, group := 0, headDim := 0, kFmt := 0, vFmt := 0, pFmt := 0, frames := 0, parts := 0, placement := 0
    members := 0, member := 0, stride := 0, scale := 0, seqTokens := 0, walkBeat := 0, maxLen := 0, itemsCap := 0, layers := []
    slices := [], coreLists := [], ranks := [], lenOff := 0, workOff := 0, inside := false }

/-- The geometry that the sequences have: that of the KV section last activated, which stays while one is live (R182, R189). -/
def Hw.kvGeometry (s : Hw) : KvSec := s.kv.sec.getD KvSec.none

/-! ## Sequence entries (R181) -/

def Hw.seqOff (s : Hw) (q : Nat) : Nat := addrOff s.kv.seqBase.toNat + q * 64
def Hw.seqGet (s : Hw) (q off n : Nat) : Nat := s.memNat (s.seqOff q + off) n
def Hw.seqPut (s : Hw) (q off n v : Nat) : Hw := s.memWrite (s.seqOff q + off) (leBytes n v)

/-- States of a sequence (R181). -/
def sqFree : Nat := 0
def sqActive : Nat := 1
def sqPreempted : Nat := 2
def sqResuming : Nat := 3
def sqClosing : Nat := 4

def Hw.seqState (s : Hw) (q : Nat) : Nat := s.seqGet q 0 1
def Hw.seqFlag (s : Hw) (q n : Nat) : Bool := bit (s.seqGet q 3 1) n
def Hw.seqMaxLen (s : Hw) (q : Nat) : Nat := s.seqGet q 0x0C 4 % 2 ^ 25
def Hw.seqLen (s : Hw) (q : Nat) : Nat := s.seqGet q 0x08 4 % 2 ^ 25

/-- Flag bits: edit_open, commit_pending, syncing, held, outstanding. -/
def fEdit : Nat := 0
def fCommit : Nat := 1
def fSync : Nat := 2
def fHeld : Nat := 3
def fOut : Nat := 4

def Hw.setFlag (s : Hw) (q n : Nat) (v : Bool) : Hw :=
  let w := s.seqGet q 3 1
  let w' := if v = bit w n then w else if v then w + 2 ^ n else w - 2 ^ n
  s.seqPut q 3 1 w'

/-- Results of operations (R181). -/
def opOk : Nat := 0
def opPending : Nat := 1
def opBadState : Nat := 2
def opBadEntry : Nat := 3
def opShort : Nat := 4

def Hw.setLastOp (s : Hw) (q v : Nat) : Hw := s.seqPut q 6 1 v

/-- An operation fails: last_op and KV_OP_ERR (R182). -/
def Hw.opFails (s : Hw) (q v : Nat) : Hw := (s.setLastOp q v).raise 12

/-- Enter a state; the module keeps which sequences are not FREE. -/
def Hw.setSeqState (s : Hw) (q v : Nat) : Hw :=
  let s := s.seqPut q 0 1 v
  let rest := s.kv.live.filter fun x => decide (x ≠ q)
  { s with kv := { s.kv with live := if v = sqFree then rest else rest ++ [q] } }

/-! ## Page tables and page counts (R185, R186) -/

/-- Entries of one copy of a sequence's page table. -/
def Hw.ptCount (s : Hw) (k : KvSec) (q : Nat) : Nat := k.a * k.headsLocal * k.pagesMax (s.seqMaxLen q)

def Hw.ptOff (s : Hw) (k : KvSec) (q copy i : Nat) : Nat :=
  addrOff (s.seqGet q 0x10 8) + (copy * s.ptCount k q + i) * 8

def Hw.ptGet (s : Hw) (k : KvSec) (q copy i : Nat) : Nat := s.memNat (s.ptOff k q copy i) 4
def Hw.ptPut (s : Hw) (k : KvSec) (q copy i v : Nat) : Hw := s.memWrite (s.ptOff k q copy i) (leBytes 8 v)

/-- Entry (a, h, j). -/
def Hw.ptIndex (s : Hw) (k : KvSec) (q a h j : Nat) : Nat :=
  (a * k.headsLocal + h) * k.pagesMax (s.seqMaxLen q) + j

/-- Local head and local page of an entry. -/
def Hw.ptPlace (s : Hw) (k : KvSec) (q i : Nat) : Nat × Nat :=
  let n := k.pagesMax (s.seqMaxLen q)
  (i / n % k.headsLocal, i % n)

/-- The copy in force and the shadow. -/
def Hw.activeCopy (s : Hw) (q : Nat) : Nat := s.seqGet q 7 1 % 2
def Hw.shadowCopy (s : Hw) (q : Nat) : Nat := 1 - s.activeCopy q

/-- Pool indices of the active copy, in table order. -/
def Hw.activePages (s : Hw) (k : KvSec) (q : Nat) : List Nat :=
  ((List.range (s.ptCount k q)).map fun i => s.ptGet k q (s.activeCopy q) i).filter isPage

/-- Reference count of a pool index. -/
def Hw.refCount (s : Hw) (i : Nat) : Nat := s.memNat (addrOff s.kv.meta'.toNat + 8 * i) 4
def Hw.setRef (s : Hw) (i v : Nat) : Hw := s.memWrite (addrOff s.kv.meta'.toNat + 8 * i) (leBytes 4 v)

/-- First tongs page of a pool index. -/
def Hw.poolPage (s : Hw) (k : KvSec) (i : Nat) : Nat := pageOf (addrOff s.kv.poolBase.toNat) + i * k.frames

/-- Tongs pages of a pool index. -/
def Hw.poolPages (s : Hw) (k : KvSec) (i : Nat) : List Nat := (List.range k.frames).map (s.poolPage k i + ·)

/-- One reference more. -/
def Hw.addRef (s : Hw) (i : Nat) : Hw := s.setRef i (s.refCount i + 1)

/-- One reference less: a page whose count falls to 0 is free, and its frames return at the next boundary (R185). -/
def Hw.dropRef (s : Hw) (k : KvSec) (i : Nat) : Hw :=
  let n := s.refCount i - 1
  let s := s.setRef i n
  if n ≠ 0 then s
  else
    let id := s.tng.nextReq
    { s with tng := { s.tng with nextReq := id + 1, releases := s.tng.releases ++ (s.poolPages k i).map fun p => (p, id) }
             kv := { s.kv with freeing := s.kv.freeing ++ [i] } }

/-- Write the links of the free list: each index names the next, the last none (R185; what a link holds is a DESIGN CHOICE, log
22). -/
def Hw.linkFree (s : Hw) (l : List Nat) : Hw :=
  (l.zip (l.drop 1 ++ [pageNone])).foldl (fun s e => s.memWrite (addrOff s.kv.meta'.toNat + 8 * e.1 + 4) (leBytes 4 e.2))
    { s with kv := { s.kv with freeList := l } }

/-- Indices whose frames a boundary has freed go in front of the free list (R185). -/
def Hw.enterFree (s : Hw) : Hw :=
  if s.kv.freeing.isEmpty then s
  else
    let l := s.kv.freeing.foldl (fun l i => i :: l.erase i) s.kv.freeList
    Hw.linkFree { s with kv := { s.kv with freeing := [] } } l

/-- A pool index that nothing uses: count 0, no frames, no order, no substitution. -/
def Hw.indexFree (s : Hw) (k : KvSec) (i : Nat) : Bool :=
  decide (i < s.kv.poolSize.toNat) && decide (s.refCount i = 0) && !(s.kv.cows.any fun c => decide (c.newPage = i))
    && (s.poolPages k i).all fun p => decide ((s.home p).state = .unmapped) && !(s.tng.orders.any fun o => decide (o.page = p))

/-- The pool index to be given next: from the free list, then the lowest that never was in use (DESIGN CHOICE, log 22). -/
def Hw.freeIndex (s : Hw) (k : KvSec) : Option Nat :=
  (s.kv.freeList.find? (s.indexFree k)).or
    (((List.range (s.tng.homes.length + s.tng.orders.length + s.kv.cows.length + 1)).map (s.kv.fresh + ·)).find? (s.indexFree k))

/-- A pool index leaves the free list. -/
def Hw.takeIndex (s : Hw) (i : Nat) : Hw :=
  if s.kv.freeList.contains i then s.linkFree (s.kv.freeList.erase i)
  else { s with kv := { s.kv with fresh := max s.kv.fresh (i + 1) } }

/-- Room for a frame in a field, wafer 0 first. -/
def Hw.roomInField (s : Hw) (f : Nat) : Option W64 := (s.findRoom 1 f 0).or (s.findRoom 1 f 1)

/-- Give a pool index frames in a field, all of them or none. -/
def Hw.placeFrames (s : Hw) (k : KvSec) (i f : Nat) : Option Hw :=
  (s.poolPages k i).foldl (fun (o : Option Hw) p => o.bind fun s =>
    (s.roomInField f).map fun l =>
      (s.setHome p { state := .home, tier := 1, cls := 2, location := l }).memErase (pageOff p) pageBytes) (some s)

/-- Free frames of a field: frames of its pools that no home or order uses and that are not retired (R205, R338). -/
def Hw.freeFrames (s : Hw) (f : Nat) : Nat :=
  let used := (s.usedLocs 1).filter fun l => decide (locField1 l = f)
  let out := s.kv.retired.filter fun l => decide (locField1 l = f) && !used.contains l
  (s.pool f 0).2 + (s.pool f 1).2 - used.length - out.length

/-! ## KVP_OP (R182) -/

def KvOpKind.name : KvOpKind → Nat
  | .open' => 1 | .edit => 2 | .commit => 3 | .abandon => 4 | .preempt => 5 | .resume => 6 | .close => 7 | .prio => 8

/-- Queue an operation: up to 256, beyond which a write is discarded and counted. -/
def Hw.kvPush (s : Hw) (o : KvOp) : Hw :=
  if s.kv.opQueue.length ≥ 256 then { s with kv := { s.kv with opLost := satInc s.kv.opLost } }
  else { s with kv := { s.kv with opQueue := s.kv.opQueue ++ [o] } }.setLastOp o.seq opPending

def execKvOpen (seq : W16) (stroke : BitVec 36) (s : State) : Out :=
  s.act fun s => (s.bar0 fun s => s.kvPush { seq := seq.toNat, kind := .open', value := 0, stroke := stroke.toNat })
def execKvEdit (seq : W16) (stroke : BitVec 36) (s : State) : Out :=
  s.act fun s => (s.bar0 fun s => s.kvPush { seq := seq.toNat, kind := .edit, value := 0, stroke := stroke.toNat })
def execKvCommit (seq : W16) (stroke : BitVec 36) (s : State) : Out :=
  s.act fun s => (s.bar0 fun s => s.kvPush { seq := seq.toNat, kind := .commit, value := 0, stroke := stroke.toNat })
def execKvAbandon (seq : W16) (stroke : BitVec 36) (s : State) : Out :=
  s.act fun s => (s.bar0 fun s => s.kvPush { seq := seq.toNat, kind := .abandon, value := 0, stroke := stroke.toNat })
def execKvPreempt (seq : W16) (stroke : BitVec 36) (s : State) : Out :=
  s.act fun s => (s.bar0 fun s => s.kvPush { seq := seq.toNat, kind := .preempt, value := 0, stroke := stroke.toNat })
def execKvResume (seq : W16) (stroke : BitVec 36) (s : State) : Out :=
  s.act fun s => (s.bar0 fun s => s.kvPush { seq := seq.toNat, kind := .resume, value := 0, stroke := stroke.toNat })
def execKvClose (seq : W16) (stroke : BitVec 36) (s : State) : Out :=
  s.act fun s => (s.bar0 fun s => s.kvPush { seq := seq.toNat, kind := .close, value := 0, stroke := stroke.toNat })
def execKvPrio (seq : W16) (value : Byte) (stroke : BitVec 36) (s : State) : Out :=
  s.act fun s => (s.bar0 fun s => s.kvPush { seq := seq.toNat, kind := .prio, value := value, stroke := stroke.toNat })

/-! ## Operations at a boundary (R182) -/

/-- Bytes from a span offset are backed: the direct window outside frame pools, or mapped pages. -/
def Hw.backed (s : Hw) (off n : Nat) : Bool :=
  if off + n ≤ directEnd then !s.inPool off n
  else decide (off ≥ migBase) && (List.range (n / pageBytes + 2)).all fun i =>
    decide (i * pageBytes ≥ n + off % pageBytes) || decide ((s.home (pageOf off + i)).state ≠ .unmapped)

/-- The entry is valid (R182). -/
def Hw.seqValid (s : Hw) (k : KvSec) (q : Nat) : Bool :=
  let max := s.seqMaxLen q
  let base := s.seqGet q 0x10 8
  decide (s.seqGet q 2 1 % 64 = s.seqGet q 2 1) && decide (1 ≤ max) && decide (max ≤ k.maxLen) && decide (base % 64 = 0)
    && s.backed (addrOff base) (2 * 8 * s.ptCount k q)

/-- Count the frames of this module that hold a sequence's pages. -/
def Hw.countFrames (s : Hw) (k : KvSec) (q : Nat) : Hw :=
  s.seqPut q 0x24 4 ((s.activePages k q).eraseDups.length * k.frames)

/-- A tongs request that the module makes itself. -/
def ownReq (input : Fin 5) (page count : Nat) : TongsReq :=
  { input := input, w0 := 0, w1 := BitVec.ofNat 64 (page + count * 2 ^ 31) }

/-- Queue of the region that holds a page. -/
def Hw.queueOf (s : Hw) (p : Nat) : Nat :=
  let h := s.home p
  if h.tier = 1 then 2 * locField1 h.location + locWafer1 h.location else 0

/-- References to a pool index by the active copies of the PREEMPTED sequences. -/
def Hw.preemptedRefs (s : Hw) (k : KvSec) (i : Nat) : Nat :=
  (s.kv.live.filter fun q => decide (s.seqState q = sqPreempted)).foldl (fun n q =>
    n + ((s.activePages k q).filter fun x => decide (x = i)).length) 0

/-- Order pages to host memory at queue input 3; what a full queue does not take is ordered at a later boundary (R206; log
206). -/
def Hw.swapOut (s : Hw) (q : Nat) (pages : List Nat) : Hw :=
  if s.queueLen q ≥ 1024 then { s with kv := { s.kv with swaps := s.kv.swaps ++ [(q, pages)] } }
  else s.moveReq q (ownReq 3 (pages.headD 0) pages.length) pages 4 0 0

/-- A sequence becomes PREEMPTED: counted and flagged, its pins are released, and every page whose references all come
from PREEMPTED sequences is ordered to host memory (R206). -/
def Hw.preempt (s : Hw) (k : KvSec) (q : Nat) : Hw :=
  let s := s.setSeqState q sqPreempted
  let s := ({ s with kv := { s.kv with preemptCnt := s.kv.preemptCnt + 1 } }).raise 11
  let pages := (s.activePages k q).eraseDups
  let s := (pages.flatMap fun i => s.poolPages k i).foldl (fun s p => s.onHome p fun h => { h with pinned := false }) s
  (pages.filter fun i => decide (s.preemptedRefs k i = s.refCount i)).foldl (fun s i =>
    s.swapOut (s.queueOf (s.poolPage k i)) (s.poolPages k i)) s

/-- Order every page of a sequence that is not in its slice map field back to it, but those under an order and those that find
the queue full (R206). -/
def Hw.bringBack (s : Hw) (k : KvSec) (q : Nat) : Hw :=
  (List.range (s.ptCount k q)).foldl (fun s i =>
    let v := s.ptGet k q (s.activeCopy q) i
    if !isPage v then s
    else
      let (h, j) := s.ptPlace k q i
      let f := k.sliceField h j
      (s.poolPages k v).foldl (fun s p =>
        let w := if (s.findRoom 1 f 0).isSome then 0 else 1
        if (decide ((s.home p).tier = 1) && decide (locField1 (s.home p).location = f)) || s.underOrder p
            || decide (s.queueLen (2 * f + w) ≥ 1024) then s
        else s.moveReq (2 * f + w) (ownReq 3 p 1) [p] 1 f w) s) s

/-- A PREEMPTED sequence resumes: its pages move back to their slice map fields; those that have not left stay (R206). -/
def Hw.resume (s : Hw) (k : KvSec) (q : Nat) : Hw :=
  let mine := (s.activePages k q).flatMap (s.poolPages k)
  let s := { s with kv := { s.kv with swaps := s.kv.swaps.filter fun e => !e.2.any fun p => mine.contains p } }
  (s.setSeqState q sqResuming).bringBack k q

/-- Every page of a sequence lies HOME in its slice map field. -/
def Hw.allReturned (s : Hw) (k : KvSec) (q : Nat) : Bool :=
  (List.range (s.ptCount k q)).all fun i =>
    let v := s.ptGet k q (s.activeCopy q) i
    let (h, j) := s.ptPlace k q i
    !isPage v || (s.poolPages k v).all fun p =>
      decide ((s.home p).state = .home) && decide ((s.home p).tier = 1)
        && decide (locField1 (s.home p).location = k.sliceField h j)

/-- Carry out an operation on a sequence (R182); it stays in the queue's order. A COMMIT that comes while an earlier one of
the sequence is pending takes it up: it is prepared anew over its own change list, and keeps what the earlier one has
counted (DEDUCED, log 180). An OPEN of a sequence whose context has no
CURRENT slot is a BAD_ENTRY (R268). -/
def Hw.kvApply (s : Hw) (k : KvSec) (o : KvOp) : Hw :=
  let q := o.seq
  let st := s.seqState q
  let bad := s.opFails q opBadState
  match o.kind with
  | .open' =>
    if st ≠ sqFree ∨ s.kv.opening.contains q then bad
    else if !s.seqValid k q || !s.canBind (s.seqGet q 2 1) then s.opFails q opBadEntry
    else
      let n := 2 * s.ptCount k q
      let s := (List.range n).foldl (fun s i => s.ptPut k q 0 i pageNone) s
      { s with kv := { s.kv with opening := s.kv.opening ++ [q] } }.setLastOp q opPending
  | .edit =>
    if (st = sqActive ∨ st = sqPreempted) ∧ !s.seqFlag q fEdit ∧ !s.seqFlag q fSync then
      (s.setFlag q fEdit true).setLastOp q opOk
    else bad
  | .commit =>
    if s.seqFlag q fEdit then
      let s := ((s.setFlag q fEdit false).setFlag q fCommit true).setLastOp q opPending
      let counted := (s.kv.commits.filter fun c => decide (c.seq = q)).flatMap (·.added)
      let rest := s.kv.commits.filter fun c => decide (c.seq ≠ q)
      { s with kv := { s.kv with commits := rest ++ [{ seq := q, prepared := false, added := counted, removed := [] }] } }
    else bad
  | .abandon =>
    if s.seqFlag q fEdit then ((s.setFlag q fEdit false).setFlag q fSync true).setLastOp q opOk else bad
  | .preempt =>
    if st ≠ sqActive then bad
    else if s.seqFlag q fOut then
      { s with kv := { s.kv with preemptWait := s.kv.preemptWait ++ [q] } }.setLastOp q opPending
    else (s.preempt k q).setLastOp q opOk
  | .resume => if st = sqPreempted then (s.resume k q).setLastOp q opPending else bad
  | .close =>
    if (st = sqActive ∨ st = sqPreempted ∨ st = sqResuming) ∧ !s.seqFlag q fEdit ∧ !s.seqFlag q fCommit ∧ !s.seqFlag q fSync then
      (s.setSeqState q sqClosing).setLastOp q opPending
    else bad
  | .prio => if st ≠ sqFree then (s.seqPut q 1 1 o.value.toNat).setLastOp q opOk else bad

/-- A CLOSING sequence is done: every page reference of its active copy, and the new page of a substitution that it still
waits for, is released and it is FREE (R182). -/
def execCloseDone (seq : W16) (s : State) : Out :=
  s.act fun s => (let k := s.kvGeometry
      let q := seq.toNat
      if s.seqState q ≠ sqClosing then s
      else
        let s := (s.activePages k q).foldl (fun s i => s.dropRef k i) s
        let s := (s.kv.cows.filter fun c => decide (c.seq = q)).foldl (fun s c => s.dropRef k c.newPage) s
        let s := ((s.setSeqState q sqFree).setLastOp q opOk).unbindSequence q
        { s with kv := { s.kv with cows := s.kv.cows.filter fun c => decide (c.seq ≠ q)
                                   preemptWait := s.kv.preemptWait.filter fun x => decide (x ≠ q) } })

/-! ## Commits (R187) -/

/-- Entry indices of a sequence's change list. -/
def Hw.changed (s : Hw) (k : KvSec) (q : Nat) : List Nat :=
  let off := addrOff (s.seqGet q 0x18 8)
  let n := min (s.seqGet q 0x20 2) 64
  ((List.range n).flatMap fun i =>
    let w := s.memNat (off + 8 * i) 8
    (List.range (min (bits w 63 32) (s.ptCount k q))).map (bits w 31 0 + ·)).filter fun i => decide (i < s.ptCount k q)

/-- Prepare a commit: each ALLOC gets a free pool index and frames in the slice map's field, and the counts of the indices
brought in rise by what an earlier preparation has not counted, and fall by what it no longer brings in; where indices or
frames cannot cover it, or a field that it needs frames in is still short, it is not prepared (R187, R205; DEDUCED, log 205). -/
def Hw.prepare (s : Hw) (k : KvSec) (q : Nat) : Hw :=
  let ixs := s.changed k q
  let sh := s.shadowCopy q
  let ac := s.activeCopy q
  let filled := ixs.foldl (fun (o : Option Hw) i => o.bind fun s =>
    if s.ptGet k q sh i ≠ pageAlloc then some s
    else
      let (h, j) := s.ptPlace k q i
      let f := k.sliceField h j
      if s.kv.shortFields.contains f then none
      else (s.freeIndex k).bind fun p => (((s.takeIndex p).setRef p 0).placeFrames k p f).map fun s => s.ptPut k q sh i p) (some s)
  match filled with
  | none =>
    let cs := s.kv.commits.map fun c => if c.seq = q then { c with short := true } else c
    (Hw.setLastOp { s with kv := { s.kv with commits := cs } } q opShort).raise 10
  | some s =>
    let diff := ixs.filter fun i => decide (s.ptGet k q sh i ≠ s.ptGet k q ac i)
    let added := (diff.map fun i => s.ptGet k q sh i).filter isPage
    let removed := (diff.map fun i => s.ptGet k q ac i).filter isPage
    let counted := (s.kv.commits.filter fun c => decide (c.seq = q)).flatMap (·.added)
    let s := (counted.foldl (fun l i => l.erase i) added).foldl (fun s i => s.addRef i) s
    let s := (added.foldl (fun l i => l.erase i) counted).foldl (fun s i => s.dropRef k i) s
    let p : KvPend := { seq := q, prepared := true, added := added, removed := removed }
    { s with kv := { s.kv with commits := s.kv.commits.map fun c => if c.seq = q then p else c } }

/-- The module has prepared a commit (R187). -/
def execCommitPrepared (seq : W16) (s : State) : Out :=
  s.act fun s => (if s.kv.commits.any fun c => decide (c.seq = seq.toNat) && !c.prepared then s.prepare s.kvGeometry seq.toNat else s)

/-- The first boundary after preparation: the active bit flips, the counts of removed indices fall, and the shadow begins
to be brought level (R187). A held substitution of an entry that the commit changed is abandoned (R188). -/
def Hw.flip (s : Hw) (k : KvSec) (c : KvPend) : Hw :=
  let q := c.seq
  let ixs := s.changed k q
  let s := s.seqPut q 7 1 (s.shadowCopy q)
  let gone := s.kv.cows.filter fun w => decide (w.seq = q) && ixs.contains w.entryIx
    && decide (s.ptGet k q (s.activeCopy q) w.entryIx ≠ w.oldPage)
  let s := gone.foldl (fun s w => s.dropRef k w.newPage) s
  let s := { s with kv := { s.kv with cows := s.kv.cows.filter fun w => !gone.contains w } }
  let s := c.removed.foldl (fun s i => s.dropRef k i) s
  let s := ((s.setFlag q fCommit false).setFlag q fSync true).setLastOp q opOk
  let s := if s.kv.cows.any fun w => decide (w.seq = q) then s else s.setFlag q fHeld false
  { s with kv := { s.kv with commits := s.kv.commits.filter fun x => decide (x.seq ≠ q) } }.countFrames k q

/-- The shadow again equals the active copy over the change list (R187). -/
def execShadowSyncDone (seq : W16) (s : State) : Out :=
  s.act fun s => (let k := s.kvGeometry
      let q := seq.toNat
      if !s.seqFlag q fSync then s
      else
        let s := (s.changed k q).foldl (fun s i => s.ptPut k q (s.shadowCopy q) i (s.ptGet k q (s.activeCopy q) i)) s
        s.setFlag q fSync false)

/-! ## Copy on write (R188, R204) -/

/-- An append to a shared page allocates a new page in the same field and orders the tongs to clone into it; it waits while the
field is still short (R204, R205). -/
def Hw.startCow (s : Hw) (k : KvSec) (q i : Nat) : Hw :=
  let old := s.ptGet k q (s.activeCopy q) i
  if s.kv.cows.any fun c => decide (c.seq = q) && decide (c.entryIx = i) then s
  else
    let (h, j) := s.ptPlace k q i
    let f := k.sliceField h j
    if s.kv.shortFields.contains f then s
    else match s.freeIndex k with
    | none => s.raise 10
    | some p =>
      if s.freeFrames f < k.frames then s.raise 10
      else
        let w := if (s.findRoom 1 f 0).isSome then 0 else 1
        let s := (s.takeIndex p).setRef p 1
        let c : KvCow := { seq := q, entryIx := i, oldPage := old, newPage := p, copied := false }
        let s : Hw := { s with kv := { s.kv with cowCnt := s.kv.cowCnt + 1, cows := s.kv.cows ++ [c] } }
        ((s.poolPages k old).zip (s.poolPages k p)).foldl (fun s e =>
          s.cloneReq (2 * f + w) (ownReq 2 e.1 1) e.1 e.2 (some (f, w))) s

/-- At a boundary a substitution whose copy is home is written into both copies, or held while the sequence has an edit,
a commit or a sync (R188). -/
def Hw.substitute (s : Hw) (k : KvSec) (c : KvCow) : Hw :=
  let q := c.seq
  if !((s.poolPages k c.newPage).all fun p => decide ((s.home p).state = .home)) then s
  else if s.seqFlag q fEdit || s.seqFlag q fCommit || s.seqFlag q fSync then s.setFlag q fHeld true
  else
    let s := (s.ptPut k q 0 c.entryIx c.newPage).ptPut k q 1 c.entryIx c.newPage
    let s := s.dropRef k c.oldPage
    let s := { s with kv := { s.kv with cows := s.kv.cows.filter fun x => decide (x ≠ c) } }
    (if s.kv.cows.any fun x => decide (x.seq = q) then s else s.setFlag q fHeld false).countFrames k q

/-! ## The walk (R190-R193) -/

/-- An entry of the length table (R190). -/
structure LenEntry where
  seq : Nat
  count : Nat
  first : Nat
  base : Nat
  deriving DecidableEq, Repr

/-- The stroke's length table: entries with a token count (where the table ends is not marked, DESIGN CHOICE, log 16). -/
def Hw.lenTable (s : Hw) (k : KvSec) : List LenEntry :=
  let base := bonded 0 0 (k.lenOff + s.stk.workStroke % 2 * 2 ^ 20)
  let ixs := (s.mem.foldl (fun acc e =>
    if base ≤ e.1 ∧ e.1 < base + 2 ^ 20 then
      let i := (e.1 - base) / 16
      if acc.head? = some i then acc else i :: acc
    else acc) []).reverse
  (ixs.map fun i =>
    let w0 := s.memNat (base + 16 * i) 8
    let w1 := s.memNat (base + 16 * i + 8) 8
    ({ seq := bits w0 15 0, count := bits w0 24 16, first := bits w0 41 25, base := bits w1 24 0 } : LenEntry)).filter
      fun e => decide (e.count ≠ 0)

/-- The token entry of a token index, in whichever herder's table holds it as its own. -/
def Hw.tokenOf (s : Hw) (t : Nat) : Option TokenEntry :=
  match s.herderSec with
  | none => none
  | some sec => (List.range 48).findSome? fun h =>
      let bs := s.memRead (bonded h 0 (sec.tableOf s.stk.workStroke) + 32 * t) 32
      let e := parseToken s.stk.workStroke t bs
      if e.herder = h ∧ !zeros bs then some e else none

/-- Return a token to the intake as a deferred event (R191, R199): counted, and the event unit is told. -/
def Hw.returnToken (s : Hw) (t : Nat) : Hw :=
  if s.kv.returned.contains t then s
  else
    let s := { s with kv := { s.kv with returned := s.kv.returned ++ [t], deferCnt := s.kv.deferCnt + 1 } }
    match s.tokenOf t with
    | some e =>
      let s := { s with evu := { s.evu with back := s.evu.back ++ [(s.stk.workStroke, e.eventId, e.arrival)] } }
      s.noticeSend e.herder 5 [e.eventId, e.arrival]
    | none => s

def LenEntry.tokens (e : LenEntry) : List Nat := (List.range e.count).map (e.first + ·)

/-- The walk defers every token of an entry. -/
def Hw.deferEntry (s : Hw) (e : LenEntry) : Hw :=
  e.tokens.foldl (fun s t => s.returnToken t)
    { s with kv := { s.kv with absent := s.kv.absent ++ [(e.seq, e.first, e.count, e.base)] } }

/-- Local pages that an entry needs, by the pages that hold its positions. -/
def KvSec.needed (k : KvSec) (e : LenEntry) : List Nat :=
  ((List.range ((e.base + e.count + 255) / 256)).filterMap k.localPage)

/-- Local pages that an entry's own rows are written into. -/
def KvSec.appends (k : KvSec) (e : LenEntry) : List Nat :=
  (((List.range ((e.base + e.count + 255) / 256)).filter fun p => decide (p ≥ e.base / 256)).filterMap k.localPage)

/-- Entry indices (a, h, j) over all layers and local heads for local pages. -/
def Hw.entriesOf (s : Hw) (k : KvSec) (q : Nat) (js : List Nat) : List (Nat × Nat × Nat) :=
  (List.range k.a).flatMap fun a => (List.range k.headsLocal).flatMap fun h => js.map fun j => (s.ptIndex k q a h j, h, j)

/-- A work item of the walk, before it is dealt (R193). -/
structure Item where
  field : Nat
  seq : Nat
  head : Nat
  part : Nat
  first : Nat
  count : Nat
  line : Nat
  wafer : Nat
  base : Nat
  deriving DecidableEq, Repr

/-- The items of an entry: each local head, local page and part; an item names the page of layer slot 0 (the item has room
for one page, DESIGN CHOICE, log 20). -/
def Hw.itemsOf (s : Hw) (k : KvSec) (e : LenEntry) : List Item :=
  (List.range k.headsLocal).flatMap fun h => (k.needed e).flatMap fun j =>
    let v := s.ptGet k e.seq (s.activeCopy e.seq) (s.ptIndex k e.seq 0 h j)
    let l := (s.home (s.poolPage k v)).location
    (List.range k.parts).map fun p =>
      { field := k.sliceField h j, seq := e.seq, head := h, part := p, first := e.first, count := e.count
        line := bits l.toNat 25 7 * (pageBytes / 64), wafer := locWafer1 l, base := e.base }

def Item.bytes (i : Item) : List Byte :=
  leBytes 8 (i.seq + i.head * 2 ^ 16 + i.part * 2 ^ 22 + i.first * 2 ^ 25 + i.count * 2 ^ 42)
    ++ leBytes 8 (i.line + i.wafer * 2 ^ 29 + i.base * 2 ^ 30)

/-- What the walk has decided so far. -/
structure WalkAcc where
  items : List Item
  seen : List Nat
  full : Bool
  deriving DecidableEq, Repr

/-- Decide one length table entry (R183, R190, R191): the rules in their order. Under rule 2 a page with no frames, one whose home
lies elsewhere and one that is shared each have their effect. -/
def Hw.walkEntry (k : KvSec) (p : Hw × WalkAcc) (e : LenEntry) : Hw × WalkAcc :=
  let (s, a) := p
  let q := e.seq
  let st := s.seqState q
  if a.seen.contains q then ((s.deferEntry e).raise 12, a)
  else
    let a := { a with seen := q :: a.seen }
    if st = sqFree ∨ st = sqClosing then
      let toks := e.tokens.filterMap fun t => (s.tokenOf t).map fun x => (s.stk.workStroke, x.eventId, x.arrival)
      ({ s with kv := { s.kv with closedToks := s.kv.closedToks ++ toks } }, a)
    else if st = sqPreempted ∨ st = sqResuming ∨ s.seqFlag q fOut then (s.deferEntry e, a)
    else
      let ents := s.entriesOf k q (k.needed e)
      let val (i : Nat) : Nat := s.ptGet k q (s.activeCopy q) i
      let none' := ents.any fun x => !isPage (val x.1) || (s.poolPages k (val x.1)).any fun p => decide ((s.home p).state = .lost)
      let away := ents.filter fun x => isPage (val x.1) && (s.poolPages k (val x.1)).any fun p =>
        !(decide ((s.home p).tier = 1) && decide (locField1 (s.home p).location = k.sliceField x.2.1 x.2.2))
      let shared := (s.entriesOf k q (k.appends e)).filter fun x => isPage (val x.1) && decide (s.refCount (val x.1) > 1)
      if none' || !away.isEmpty || !shared.isEmpty then
        let s := if none' then { s with kv := { s.kv with nopageCnt := s.kv.nopageCnt + 1 } } else s
        let s := away.foldl (fun s x =>
          let f := k.sliceField x.2.1 x.2.2
          (s.poolPages k (val x.1)).foldl (fun s p =>
            let w := if (s.findRoom 1 f 0).isSome then 0 else 1
            s.moveReq (2 * f + w) (ownReq 2 p 1) [p] 1 f w) s) s
        ((shared.foldl (fun s x => s.startCow k q x.1) s).deferEntry e, a)
      else
        let fresh := s.itemsOf k e
        let tooMany := (List.range 48).any fun f =>
          decide (((a.items ++ fresh).filter fun i => decide (i.field = f)).length > k.itemsCap)
        if a.full || tooMany then (s.deferEntry e, { a with full := true })
        else
          let pages := (ents.flatMap fun x => s.poolPages k (val x.1)).eraseDups
          let s := pages.foldl (fun s p => s.pinPage p) s
          ({ s with kv := { s.kv with pins := s.kv.pins ++ pages, walked := s.kv.walked ++ [(q, e.first, e.count, e.base)] } },
           { a with items := a.items ++ fresh })

/-- Deal a field's items round robin over its attention cores; core n's list lies at work_off + n x the longest list
(which place each list has is not laid out, DESIGN CHOICE, log 20). -/
def Hw.dealItems (s : Hw) (k : KvSec) (f : Nat) (items : List Item) : Hw :=
  let cores := (k.coreLists.getD f ([], [], [])).1
  if cores.isEmpty then s
  else
    let longest := (k.itemsCap + cores.length - 1) / cores.length
    ((List.range items.length).zip items).foldl (fun s e =>
      s.memWrite (bonded f 0 (k.workOff + (e.1 % cores.length * longest + e.1 / cores.length) * 16)) e.2.bytes) s

/-- The query head of the KV group that a local head is (R198). -/
def KvSec.globalHead (k : KvSec) (h : Nat) : Nat :=
  if k.placement = 1 then k.member * k.headsLocal * k.group + h else h

/-- The numbers of partials that merge and root cores expect for each token and query head of a walked entry: from items, from
fields, and under POSITION at the token's own module from members (R193, R196). -/
def Hw.expectOf (s : Hw) (k : KvSec) (items : List Item) (e : LenEntry) : List Expect :=
  e.tokens.flatMap fun t => (List.range (k.headsLocal * k.group)).flatMap fun h =>
    let g := k.globalHead h
    let n := t * (k.kvHeads * k.group) + g
    let per (f : Nat) : Nat := (items.filter fun i => decide (i.field = f) && decide (i.seq = e.seq) && decide (i.head = h / k.group)).length
    let fields := (List.range 48).filter fun f => decide (per f ≠ 0)
    let merge := fields.filterMap fun f =>
      let cs := (k.coreLists.getD f ([], [], [])).2.1
      (cs[n % cs.length]?).map fun c => ({ core := c, token := t, head := g, level := 1, count := per f } : Expect)
    let entry := s.tokenOf t
    let rs := (k.coreLists.getD (match entry with
      | some x => coreField x.home
      | none => 0) ([], [], [])).2.2
    let levels := (2, fields.length) :: (if k.placement = 2 ∧ entry.isSome then [(3, k.members)] else [])
    merge ++ match rs[n % rs.length]? with
      | none => []
      | some c => levels.map fun v => { core := c, token := t, head := g, level := v.1, count := v.2 }

/-- The walkers build the stroke's work lists from the length table (R191-R193). -/
def Hw.walk (s : Hw) : Hw :=
  match s.running.bind fun l => l.img.kv with
  | none => s
  | some k =>
    let kept := s.kv.closedToks.filter fun k => decide (s.stk.workStroke ≤ k.1 + 1)
    let s := { s with kv := { s.kv with walked := [], absent := [], expect := [], partials := [], returned := []
                                        closedToks := kept } }
    let (s, a) := (s.lenTable k).foldl (Hw.walkEntry k) (s, { items := [], seen := [], full := false })
    let s := (List.range 48).foldl (fun s f => s.dealItems k f (a.items.filter fun i => decide (i.field = f))) s
    let ex := s.kv.walked.flatMap fun w => s.expectOf k a.items { seq := w.1, first := w.2.1, count := w.2.2.1, base := w.2.2.2 }
    { s with kv := { s.kv with expect := ex } }

/-- A replayed walk beat rebuilds its lists from the same tables (R208): the work lists and the expected numbers. -/
def Hw.rebuildLists (s : Hw) : Hw :=
  match s.running.bind fun l => l.img.kv with
  | none => s
  | some k =>
    let es := s.kv.walked.map fun w => ({ seq := w.1, first := w.2.1, count := w.2.2.1, base := w.2.2.2 } : LenEntry)
    let items := es.flatMap fun e => s.itemsOf k e
    (List.range 48).foldl (fun s f => s.dealItems k f (items.filter fun i => decide (i.field = f))) s

/-! ## The merge (R199) -/

/-- Members whose partial a token's root still misses for a layer slot. -/
def Hw.missingPartial (s : Hw) (k : KvSec) (t slot : Nat) : Bool :=
  let got := s.kv.partials.filter fun p => decide (p.1 = t) && decide (p.2.1 = slot)
  let others := (List.range k.members).filter fun m => decide (m ≠ k.member)
  let heads (m : Nat) : List Nat :=
    if k.placement = 1 then
      let n := k.kvHeads / k.members * k.group
      (List.range n).map (m * n + ·)
    else List.range (k.kvHeads * k.group)
  got.any (fun p => p.2.2.2.isNone) ||
    others.any fun m => (heads m).any fun h => !got.any fun p => decide (p.2.2.1 = m) && decide (p.2.2.2 = some h)

/-- At the end of a layer's merge_beat a token that misses a partial, or has an ABSENT one, returns to the intake with
every later token of its sequence in the stroke (R199). -/
def Hw.mergeEnd (s : Hw) (beat : Nat) : Hw :=
  match s.running.bind fun l => l.img.kv with
  | none => s
  | some k =>
    if k.placement = 0 ∨ k.members ≤ 1 then s
    else
      ((List.range k.layers.length).zip k.layers).foldl (fun s e =>
        if e.2.mergeBeat ≠ beat then s
        else s.kv.walked.foldl (fun s w =>
          let toks := (List.range w.2.2.1).map (w.2.1 + ·)
          match toks.find? fun t => (s.tokenOf t).isSome && s.missingPartial k t e.1 with
          | none => s
          | some t => (toks.filter fun u => decide (t ≤ u)).foldl (fun s u => s.returnToken u) s) s) s

/-! ## Prefix sharing (R200-R203) -/

/-- Nodes and bucket bits. -/
def Kv.bBits (x : Kv) : Nat := if 10 ≤ x.pfxB.toNat ∧ x.pfxB.toNat ≤ 24 then x.pfxB.toNat else 10

def Hw.nodeOff (s : Hw) (n : Nat) : Nat := addrOff s.kv.pfxBase.toNat + 64 * n
def Hw.nodeGet (s : Hw) (n off w : Nat) : Nat := s.memNat (s.nodeOff n + off) w
def Hw.nodePut (s : Hw) (n off w v : Nat) : Hw := s.memWrite (s.nodeOff n + off) (leBytes w v)
def Hw.nodeKey (s : Hw) (n : Nat) : List Byte := s.memRead (s.nodeOff n) 16
def Hw.nodeValid (s : Hw) (n : Nat) : Bool := decide (s.nodeGet n 0x16 1 = 1)

/-- Offset of a node's group array entry for layer slot a and local head h (R201). -/
def Hw.groupOff (s : Hw) (k : KvSec) (n a h : Nat) : Nat :=
  addrOff s.kv.pfxGroup.toNat + n * (k.a * k.headsLocal * 4) + (a * k.headsLocal + h) * 4

def Hw.groupPages (s : Hw) (k : KvSec) (n : Nat) : List Nat :=
  ((List.range k.a).flatMap fun a => (List.range k.headsLocal).map fun h => s.memNat (s.groupOff k n a h) 4).filter isPage

/-- The four nodes of a key's bucket. -/
def Hw.bucketOf (s : Hw) (key : List Byte) : List Nat :=
  let b := at' key 0 4 % 2 ^ s.kv.bBits
  (List.range 4).map (4 * b + ·)

def Hw.findNode (s : Hw) (key : List Byte) : Option Nat :=
  (s.bucketOf key).find? fun n => s.nodeValid n && decide (s.nodeKey n = key)

/-- The weight epoch to which a sequence is bound (R200, R268). -/
def Hw.seqEpoch (s : Hw) (q : Nat) : Nat :=
  match nget none s.wgt.bindSeq q with
  | none => 0
  | some (c, sl) => (nget {} (nget {} s.wgt.ctxs c).slots sl).epoch.toNat

/-- The root of a sequence's keys (R200). -/
def Hw.pfxRoot (s : Hw) (q : Nat) : List Byte :=
  shake256 16 ([0x56, 0x5A, 0x4B, 0x56] ++ leBytes 1 (s.seqGet q 2 1) ++ leBytes 2 (s.seqGet q 4 2)
    ++ leBytes 8 (s.seqEpoch q) ++ leBytes 8 s.kv.salt.toNat)

/-- key(j) from the key before it and the token IDs of range j (R200). -/
def Hw.pfxKey (s : Hw) (prev : List Byte) (j : Nat) : List Byte :=
  shake256 16 (prev ++ s.memRead (addrOff s.kv.pfxIds.toNat + 1024 * j) 1024)

/-- The end of a lookup or insert is entered, to be published when it completes. -/
def Hw.pfxStart (s : Hw) (o : PfxOp) : Hw := { s with kv := { s.kv with pfxBusy := some o } }

/-- A refused operation (R209). -/
def Hw.pfxRefuse (s : Hw) (status : Nat) : Hw :=
  ({ s with kv := { s.kv with resStatus := BitVec.ofNat 3 status, resDone := true } }).raise 13

/-- The matched ranges of a lookup, writing shadow entries and node statistics as it goes (R202). -/
def Hw.lookupLoop (k : KvSec) (q : Nat) : Nat → Nat → List Byte → Hw → Hw × Nat
  | 0, j, _, s => (s, j)
  | fuel + 1, j, prev, s =>
    let key := s.pfxKey prev j
    match s.findNode key with
    | none => (s, j)
    | some n =>
      let s := match k.localPage j with
        | none => s
        | some j' => (List.range k.a).foldl (fun s a => (List.range k.headsLocal).foldl (fun s h =>
            let v := s.memNat (s.groupOff k n a h) 4
            let i := s.ptIndex k q a h j'
            if i < s.ptCount k q then s.ptPut k q (s.shadowCopy q) i v else s) s) s
      let s := (s.nodePut n 0x1C 4 (satAdd 32 (s.nodeGet n 0x1C 4) 1)).nodePut n 0x20 8 s.stk.num.toNat
      Hw.lookupLoop k q fuel (j + 1) key s

/-- LOOKUP (R202): refused while another runs, while disabled, or without an open edit. -/
def execLookup (seq : W16) (count : BitVec 17) (s : State) : Out :=
  s.act fun s => (s.bar0 fun s => let s := { s with kv := { s.kv with pfxSeq := seq, pfxCount := count, pfxOpCode := 1 } }
    match s.kv.sec with
    | none => s.pfxRefuse 1
    | some k =>
      if s.kv.pfxBusy.isSome then s.pfxRefuse 2
      else if !s.kv.pfxEnable || !s.seqFlag seq.toNat fEdit then s.pfxRefuse 1
      else
        let (s, n) := Hw.lookupLoop k seq.toNat count.toNat 0 (s.pfxRoot seq.toNat) s
        s.pfxStart { insert := false, seq := seq.toNat, count := count.toNat, matched := n, full := false })

/-- Evict a prefix node: its references and its parent's child count are released (R203). -/
def Hw.evictNode (s : Hw) (k : KvSec) (n : Nat) : Hw :=
  let s := (s.groupPages k n).foldl (fun s i => s.dropRef k i) s
  let parent := s.nodeGet n 0x10 4
  let s := if parent = 0xFFFFFFFF then s else s.nodePut parent 0x14 2 (s.nodeGet parent 0x14 2 - 1)
  s.nodePut n 0x16 1 0

/-- A node may be evicted: no children, and every page's count is 1. -/
def Hw.evictable (s : Hw) (k : KvSec) (n : Nat) : Bool :=
  decide (s.nodeGet n 0x14 2 = 0) && (s.groupPages k n).all fun i => decide (s.refCount i = 1)

/-- The oldest of some nodes. -/
def Hw.oldest (s : Hw) (ns : List Nat) : Option Nat :=
  ns.foldl (fun b n => match b with
    | none => some n
    | some m => if s.nodeGet n 0x20 8 < s.nodeGet m 0x20 8 then some n else some m) none

/-- The way that an insert takes (R203). -/
def Hw.wayFor (s : Hw) (k : KvSec) (key : List Byte) : Option Nat :=
  let ws := s.bucketOf key
  (ws.find? fun n => !s.nodeValid n).or (s.oldest (ws.filter fun n => s.evictable k n))

/-- Enter a node for range j (R201, R203). -/
def Hw.enterNode (s : Hw) (k : KvSec) (q n j : Nat) (key : List Byte) (parent : Nat) : Hw :=
  let s := if s.nodeValid n then s.evictNode k n else s
  let s := s.memWrite (s.nodeOff n) (key ++ leBytes 4 parent ++ leBytes 2 0 ++ leBytes 1 1 ++ leBytes 1 0 ++ leBytes 4 j
    ++ leBytes 4 0 ++ leBytes 8 s.stk.num.toNat ++ List.replicate 24 0)
  let s := if parent = 0xFFFFFFFF then s else s.nodePut parent 0x14 2 (s.nodeGet parent 0x14 2 + 1)
  (List.range k.a).foldl (fun s a => (List.range k.headsLocal).foldl (fun s h =>
    let v := match k.localPage j with
      | none => pageNone
      | some j' => s.ptGet k q (s.activeCopy q) (s.ptIndex k q a h j')
    let s := s.memWrite (s.groupOff k n a h) (leBytes 4 v)
    if isPage v then s.addRef v else s) s) s

/-- Insert nodes for the full ranges below n; a range for which no way is found, and every later one, is skipped and
counted (R203). -/
def Hw.insertLoop (k : KvSec) (q : Nat) : Nat → Nat → List Byte → Nat → Hw → Hw × Nat × Bool
  | 0, j, _, _, s => (s, j, false)
  | fuel + 1, j, prev, parent, s =>
    if (j + 1) * 256 > s.seqLen q then (s, j, false)
    else
      let key := s.pfxKey prev j
      match s.findNode key with
      | some n => Hw.insertLoop k q fuel (j + 1) key n s
      | none =>
        match s.wayFor k key with
        | some n => Hw.insertLoop k q fuel (j + 1) key n (s.enterNode k q n j key parent)
        | none =>
          let skipped := min (fuel + 1) (s.seqLen q / 256 - j)
          ({ s with kv := { s.kv with pfxFull := s.kv.pfxFull + BitVec.ofNat 64 skipped } }, j, true)

/-- INSERT (R203). -/
def execInsert (seq : W16) (count : BitVec 17) (s : State) : Out :=
  s.act fun s => (s.bar0 fun s => let s := { s with kv := { s.kv with pfxSeq := seq, pfxCount := count, pfxOpCode := 2 } }
    match s.kv.sec with
    | none => s.pfxRefuse 1
    | some k =>
      if s.kv.pfxBusy.isSome then s.pfxRefuse 2
      else if !s.kv.pfxEnable || decide (s.seqState seq.toNat = sqFree) then s.pfxRefuse 1
      else
        let (s, n, full) := Hw.insertLoop k seq.toNat count.toNat 0 (s.pfxRoot seq.toNat) 0xFFFFFFFF s
        s.pfxStart { insert := true, seq := seq.toNat, count := count.toNat, matched := n, full := full })

/-- A lookup or insert ends: its result is written and PFX_DONE is raised (R202). -/
def execPrefixOpComplete (s : State) : Out :=
  s.act fun s => (match s.kv.pfxBusy with
    | none => s
    | some o =>
      ({ s with kv := { s.kv with pfxBusy := none, resMatched := BitVec.ofNat 17 o.matched
                                  resStatus := if o.full then 3 else 0, resDone := true } }).raise 13)

/-! ## Running short (R205, R206) -/

/-- Fields below low_water (R205). -/
def Hw.belowWater (s : Hw) : List Nat := (List.range 48).filter fun f => decide (s.freeFrames f < s.kv.lowWater.toNat)

/-- Some field is below low_water. -/
def Hw.kvShort (s : Hw) : Bool := !s.belowWater.isEmpty

/-- Evict up to `n` prefix nodes, oldest first, while some field is short. -/
def Hw.evictNodes (k : KvSec) : Nat → Hw → Hw
  | 0, s => s
  | n + 1, s =>
    if !s.kvShort then s
    else
      match s.oldest ((List.range (4 * 2 ^ s.kv.bBits)).filter fun x => s.nodeValid x && s.evictable k x) with
      | none => s
      | some x => Hw.evictNodes k n (s.evictNode k x)

/-- Frames of a field that a pre-emption of some sequences will free. -/
def Hw.projected (s : Hw) (f : Nat) : Nat :=
  s.freeFrames f + (s.tng.orders.filter fun o => decide (o.input = 3) && decide (o.destTier = 4) &&
    decide (locField1 (s.home o.page).location = f) && decide ((s.home o.page).tier = 1)).length

/-- A sequence that may be pre-empted automatically (R205). -/
def Hw.preemptable (s : Hw) (k : KvSec) (q : Nat) : Bool :=
  decide (k.placement = 0) && decide (s.seqState q = sqActive) && decide (s.seqGet q 1 1 < s.kv.protect.toNat) && !s.seqFlag q fOut

/-- q comes before r for pre-emption: lower priority, then older last_stroke, then higher number. -/
def Hw.sooner (s : Hw) (q r : Nat) : Bool :=
  let p := s.seqGet q 1 1
  let p' := s.seqGet r 1 1
  let t := s.seqGet q 0x28 8
  let t' := s.seqGet r 0x28 8
  decide (p < p') || (decide (p = p') && (decide (t < t') || (decide (t = t') && decide (q > r))))

/-- Pre-empt sequences until every field's projected free frames reach high_water. -/
def Hw.autoPreemptLoop (k : KvSec) : Nat → Hw → Hw
  | 0, s => s
  | n + 1, s =>
    if (List.range 48).all fun f => decide (s.projected f ≥ s.kv.highWater.toNat) then s
    else
      let cands := s.kv.live.filter fun q => s.preemptable k q
      match cands.foldl (fun b q => match b with
        | none => some q
        | some r => if s.sooner q r then some q else some r) none with
      | none => s
      | some q => Hw.autoPreemptLoop k n (s.preempt k q)

/-- Frames that a PREEMPTED sequence's pages need in a field when they return. -/
def Hw.returning (s : Hw) (k : KvSec) (q f : Nat) : Nat :=
  ((List.range (s.ptCount k q)).filter fun i =>
    let v := s.ptGet k q (s.activeCopy q) i
    let (h, j) := s.ptPlace k q i
    isPage v && decide (k.sliceField h j = f) && (s.poolPages k v).any fun p => decide ((s.home p).tier ≠ 1)).length * k.frames

/-- Resume LOCAL sequences, highest priority first, while every field would stay at or above high_water (R206). -/
def Hw.autoResumeLoop (k : KvSec) : Nat → Hw → Hw
  | 0, s => s
  | n + 1, s =>
    let cands := s.kv.live.filter fun q => decide (s.seqState q = sqPreempted)
    match cands.foldl (fun b q => match b with
      | none => some q
      | some r => if s.seqGet q 1 1 > s.seqGet r 1 1 then some q else some r) none with
    | none => s
    | some q =>
      if (List.range 48).all fun f => decide (s.freeFrames f ≥ s.kv.highWater.toNat + s.returning k q f) then
        Hw.autoResumeLoop k n (s.resume k q)
      else s

/-- Reclaim at a boundary, and which fields it leaves short (R205). -/
def Hw.reclaim (s : Hw) (k : KvSec) : Hw :=
  if !s.kvShort then
    let s := { s with kv := { s.kv with shortFields := [] } }
    if s.kv.autoPreempt && decide (k.placement = 0) then Hw.autoResumeLoop k s.kv.live.length s else s
  else
    let s := Hw.evictNodes k 256 s
    let s := if s.kv.autoPreempt && s.kvShort then Hw.autoPreemptLoop k s.kv.live.length s else s
    let s := { s with kv := { s.kv with shortFields := s.belowWater } }
    if s.kv.shortFields.isEmpty then s else s.raise 10

/-! ## The boundary -/

/-- A token of a herder has completed its last layer in the stroke. -/
def Hw.tokenDone (s : Hw) (t : Nat) : Bool :=
  match s.herderSec, s.tokenOf t with
  | some sec, some e =>
    match sec.layers.getLast? with
    | none => true
    | some l =>
      let x := s.herder e.herder
      x.settled.contains (s.tokKey l.layer e) && !x.pool.any fun p => decide (p.entry = e)
  | none, _ => true
  | some _, none => true

/-- Tokens that re-entered from an earlier stroke and completed in this one: their entries. -/
def Hw.guestsDone (s : Hw) : List TokenEntry :=
  match s.herderSec with
  | none => []
  | some sec => match sec.layers.getLast? with
    | none => []
    | some l => (List.range 48).flatMap fun h =>
        let x := s.herder h
        (x.guests.filter fun g => (decide (g.layer = l.layer) || x.settled.contains (s.tokKey l.layer g.entry))
          && !x.pool.any fun p => decide (p.entry = g.entry)).map (·.entry)

/-- Tokens that the herders deferred in this stroke for the first time: entry and layer. -/
def Hw.deferredNow (s : Hw) : List (TokenEntry × Nat) :=
  (List.range 48).flatMap fun h => ((s.herder h).pool.filter fun p => decide (p.stroke = s.stk.workStroke)).map
    fun p => (p.entry, p.layer)

/-- Layer slot from which a token deferred at a layer has its keys unwritten (R194). -/
def KvSec.slotFrom (k : KvSec) (layer : Nat) : Nat := k.layers.findIdx fun l => decide (l.layer ≥ layer)

/-- At a stroke's end: lengths grow by the tokens that completed, and a sequence whose token a herder deferred has it
outstanding (R181, R194). -/
def Hw.kvStrokeEnd (s : Hw) : Hw :=
  match s.running.bind fun l => l.img.kv with
  | none => s
  | some k =>
    let stroke := s.stk.workStroke
    let grow (s : Hw) (q n : Nat) : Hw :=
      if n = 0 then s else (s.seqPut q 0x08 4 (s.seqLen q + n)).seqPut q 0x28 8 stroke
    let s := s.guestsDone.foldl (fun s e =>
      if s.seqFlag e.sequence fOut then ((grow s e.sequence 1).setFlag e.sequence fOut false).seqPut e.sequence 0x22 2 0xFFFF else s) s
    let s := s.kv.walked.foldl (fun s w =>
      let toks := (List.range w.2.2.1).map (w.2.1 + ·)
      grow s w.1 (toks.filter fun t => s.tokenDone t && !s.kv.returned.contains t).length) s
    s.deferredNow.foldl (fun s e =>
      (s.setFlag e.1.sequence fOut true).seqPut e.1.sequence 0x22 2 (k.slotFrom e.2)) s

/-- The key-value engine at a stroke boundary: freed indices, openings, returns, flips, substitutions, due operations, reclaim,
pending commits and pages that wait for a tongs queue (R182, R185, R187, R188, R205, R206). -/
def Hw.kvBoundary (s : Hw) : Hw :=
  let k := s.kvGeometry
  let s := Hw.enterFree { s with kv := { s.kv with pins := [] } }
  let opened := s.kv.opening
  let s := opened.foldl (fun s q =>
    let s := ((s.setSeqState q sqActive).seqPut q 3 1 0).seqPut q 8 4 0
    (((s.seqPut q 0x22 2 0xFFFF).seqPut q 0x24 4 0).setLastOp q opOk).bindSequence q (s.seqGet q 2 1)) { s with kv := { s.kv with opening := [] } }
  let s := (s.kv.live.filter fun q => decide (s.seqState q = sqResuming)).foldl (fun s q =>
    if s.allReturned k q then (s.setSeqState q sqActive).setLastOp q opOk else s.bringBack k q) s
  let s := (s.kv.commits.filter (·.prepared)).foldl (fun s c => s.flip k c) s
  let s := s.kv.cows.foldl (fun s c => s.substitute k c) s
  let waits := s.kv.preemptWait.filter fun q => !s.seqFlag q fOut
  let s := { s with kv := { s.kv with preemptWait := s.kv.preemptWait.filter fun q => !waits.contains q } }
  let s := waits.foldl (fun s q => if s.seqState q = sqActive then (s.preempt k q).setLastOp q opOk else s.opFails q opBadState) s
  let due := s.kv.opQueue.filter fun o => decide (o.stroke = 0) || reached36 s.stk.num (BitVec.ofNat 36 o.stroke)
  let s := { s with kv := { s.kv with opQueue := s.kv.opQueue.filter fun o => !due.contains o } }
  let s := due.foldl (fun s o => s.kvApply k o) s
  let s := s.reclaim k
  let s := (s.kv.commits.filter fun c => !c.prepared && c.short).foldl (fun s c => s.prepare k c.seq) s
  s.kv.swaps.foldl (fun s e => s.swapOut e.1 e.2) { s with kv := { s.kv with swaps := [] } }

/-! ## Messages between members (R199) -/

/-- Bytes of one row of keys or of values. -/
def KvSec.rowOf (k : KvSec) (fmt : Nat) : Nat := k.headDim * fmtBits fmt / 8

def up64 (n : Nat) : Nat := (n + 63) / 64 * 64

/-- Bytes of MX side data of one row. -/
def KvSec.sideOf (k : KvSec) (fmt : Nat) : Nat := if isMx fmt then k.headDim / 32 else 0

/-- Offsets in a page image of the key rows, the value rows, and the side data of each (R184). -/
def KvSec.image (k : KvSec) : Nat × Nat × Nat × Nat :=
  let v := up64 (256 * k.rowOf k.kFmt)
  let ks := v + up64 (256 * k.rowOf k.vFmt)
  let vs := ks + up64 (256 * k.sideOf k.kFmt)
  (0, v, ks, vs)

/-- Write the key and value rows of a position into this member's page: K row, V row, then the side data of each (R184,
R199). -/
def Hw.writeRows (s : Hw) (k : KvSec) (q slot head pos : Nat) (bs : List Byte) : Hw :=
  match k.localPage (pos / 256) with
  | none => s
  | some j =>
    let h := if k.placement = 1 then head - k.member * k.headsLocal else head
    let i := s.ptIndex k q slot h j
    let v := s.ptGet k q (s.activeCopy q) i
    if !isPage v || decide (h ≥ k.headsLocal) || decide (i ≥ s.ptCount k q) then s
    else
      let base := pageOff (s.poolPage k v)
      let (ko, vo, kso, vso) := k.image
      let r := pos % 256
      let rk := k.rowOf k.kFmt
      let rv := k.rowOf k.vFmt
      let sk := k.sideOf k.kFmt
      let sv := k.sideOf k.vFmt
      let s := (s.memWrite (base + ko + r * rk) (sub bs 0 rk)).memWrite (base + vo + r * rv) (sub bs rk rv)
      (s.memWrite (base + kso + r * sk) (sub bs (rk + rv) sk)).memWrite (base + vso + r * sv) (sub bs (rk + rv + sk) sv)

/-- A member whose walk deferred a sequence answers a row of it with an ABSENT partial for the row's token, to the module that sent
the row (R199; what its payload holds is a DESIGN CHOICE, log 207). -/
def Hw.answerAbsent (s : Hw) (k : KvSec) (home : W16) (q slot pos : Nat) : Hw :=
  match s.kv.absent.find? fun e => decide (e.1 = q) && decide (e.2.2.2 ≤ pos) && decide (pos < e.2.2.2 + e.2.2.1) with
  | none => s
  | some e => s.sendRank home
      { kind := 4, destRank := home, srcRank := s.spn.rank, ttl := 15, gen := s.spn.gen, vc := 2, word1 := 0
        stroke := s.stk.workStroke % 4, specific := 0
        payload := leBytes 4 (e.2.1 + (pos - e.2.2.2)) ++ leBytes 2 slot ++ leBytes 2 k.member }

end Sys2Proof.Machine
end

