-- ==== Sys2Proof/Machine/Fills.lean ====
section
/-!
DEFINITION. Streamed weights: sessions, weight slots, fill requests, chunks and failed fills (R227, R270, R271, R318).
-/
namespace Sys2Proof.Machine

/-- The running billet's backward section, where it trains. -/
def Hw.bwdSec (s : Hw) : Option BwdSec := s.running.bind (·.img.backward)

/-- The STREAMED arrangement (R224). -/
def Hw.streamed (s : Hw) : Bool := s.bwdSec.any fun b => decide (b.arrangement = 1)

def Hw.wslot (s : Hw) (w : Nat) : Wslot := nget {} s.wgt.wslots w
def Hw.setWslot (s : Hw) (w : Nat) (x : Wslot) : Hw :=
  { s with wgt := { s.wgt with wslots := nput {} s.wgt.wslots w x } }

def WslotSt.code : WslotSt → Nat
  | .empty => 0 | .filling => 1 | .usable => 2 | .failed => 3

/-- A bellows message that comes on a peer link is discarded and counted (R302). -/
def Hw.onBellows (s : Hw) (p kind : Nat) (k : Hw → Hw) : Hw :=
  let s := s.popInbox p kind
  if p < 48 then s.leashDrop p false [] else k s

/-- A discarded bellows piece is counted (R318). -/
def Hw.dropPiece (s : Hw) : Hw := { s with spn := { s.spn with dropCnt := s.spn.dropCnt + 1 } }

/-! ## Sessions (R270, R318) -/

/-- A whole session stream verifies: manifest, signature, leaf list, and the chunks of the tensor table (R256, R318). -/
def Hw.sessionOk (s : Hw) (b : NMap Byte) : Option (Manifest × List (List Byte) × List Byte) :=
  let manifest := ngetList 0 b 0 512
  let m := parseManifest manifest
  let ls := leavesOf m.chunks (ngetList 0 b leafListOff (32 * m.chunks))
  let ids := chunksOf m.tableOff (64 * m.tensors)
  let chunk (i : Nat) : List Byte := ngetList 0 b (bodyOff m.chunks + i * chunkSize) (chunkLen m.bodyLen i)
  if m.versionOk && decide (m.kind = 2) && s.manifestSigned manifest (ngetList 0 b 512 29792) && leavesOk m ls
      && ids.all (fun i => decide (leafHash i (chunk i) = ls.getD i [])) then
    some (m, ls, ngetList 0 b (bodyOff m.chunks + m.tableOff) (64 * m.tensors))
  else none

/-- The stream of a session ends: its slot is PREPARED, or FREE again with WGT_FILL_FAIL (R270). -/
def Hw.endSession (s : Hw) (x : Session) : Hw :=
  let s := { s with wgt := { s.wgt with sessions := s.wgt.sessions.filter fun y => decide (y ≠ x) } }
  match s.sessionOk x.bytes with
  | none => (s.freeSlot x.context x.slot).raise 22
  | some (m, ls, table) => s.setSlot x.context x.slot
      { s.slot x.context x.slot with state := .prepared, packageId := m.packageId, root := m.root, leaves := ls
                                     table := table, bodyLen := m.bodyLen }

/-- A SESSION message carries bytes of the stream at an offset; the first one takes a FREE slot (R270, R318). -/
def execSession (p : PortIx) (context : BitVec 6) (session : W32) (offset : BitVec 41) (last : Bool) (data : List Byte)
    (s : State) : Out :=
  s.act fun s => (s.onBellows p.val 8 fun s =>
    let c := context.toNat
    let id := session.toNat
    if !s.streamed || s.wgtSec.isNone then s
    else
      let s := { s with wgt := { s.wgt with sec := s.wgtSec } }
      let open' : Option Session := s.wgt.sessions.find? fun x => decide (x.context = c) && decide (x.id = id)
      let start : Option (Hw × Session) := match open' with
        | some x => some (s, x)
        | none => if offset ≠ 0 then none
          else (s.freeCtxSlot c).map fun k => ((s.beginSlot c k true).clearTable c k, { context := c, id := id, bytes := [], slot := k })
      match start with
      | none => if offset = 0 then s.raise 22 else s
      | some (s, x) =>
        let y : Session := { x with bytes := nputList 0 x.bytes offset.toNat data }
        let s := { s with wgt := { s.wgt with sessions := (s.wgt.sessions.filter fun z => decide (z ≠ x)) ++ [y] } }
        if last then s.endSession y else s)

/-! ## Fills (R227, R270, R271) -/

/-- A fill fails: the slot is FAILED, a WEIGHT_FILL record is written, and the third failure in a row raises
WGT_FILL_FAIL (R271). -/
def Hw.failFill (s : Hw) (w : Nat) : Hw :=
  let x := s.wslot w
  let n := x.failures + 1
  let s := s.setWslot w { x with state := .failed, failures := n, pieces := [], verified := [], filled := false
                                 session := none, err := false }
  let s := s.record { cls := 0x14, data := dat [w, x.layer, n] }
  if n = 3 then s.raise 22 else s

/-- Chunks that hold a tensor of a layer of a session's package. -/
def CtxSlot.layerChunks (x : CtxSlot) (layer : Nat) : List Nat :=
  (((parseTable (x.table.length / 64) x.table).filter fun e => decide (e.layer = layer)).flatMap
    fun e => e.chunks).eraseDups

/-- Whether every piece of a chunk is there, and the chunk it makes. -/
def wholeChunk (ps : NMap (Option (List Byte))) (len : Nat) : Option (List Byte) :=
  let n := (len + 4095) / 4096
  if (List.range n).all fun i => (nget none ps i).isSome then
    some (sub ((List.range n).flatMap fun i => padTo 4096 ((nget none ps i).getD [])) 0 len)
  else none

/-- A CHUNK piece: discarded unless its slot is FILLING under its fill_seq; a whole chunk is verified against its leaf,
and the fill is complete when every chunk of the layer is (R318, R271). -/
def execChunk (p : PortIx) (slot fillSeq : Byte) (chunk : W32) (piece : BitVec 10) (data : List Byte) (s : State) : Out :=
  s.act fun s => (s.onBellows p.val 10 fun s =>
    let w := slot.toNat
    let i := chunk.toNat
    let x := s.wslot w
    match x.session with
    | none => s.dropPiece
    | some (c, k) =>
      let cs := s.slot c k
      if decide (x.state ≠ .filling) || decide (x.fillSeq ≠ fillSeq) || decide (i ≥ cs.leaves.length) then s.dropPiece
      else if (nget none x.verified i).isSome then s
      else
        let ps := nput none (nget [] x.pieces i) piece.toNat (some data)
        match wholeChunk ps (chunkLen cs.bodyLen i) with
        | none => s.setWslot w { x with pieces := nput [] x.pieces i ps }
        | some b =>
          if leafHash i b ≠ cs.leaves.getD i [] then s.failFill w
          else
            let v := nput none x.verified i (some b)
            s.setWslot w { x with pieces := nput [] x.pieces i [], verified := v
                                  filled := (cs.layerChunks x.layer).all fun j => (nget none v j).isSome })

/-- A fill that is not complete within 16 strokes of its request fails (R271). -/
def execFillTimeout (slot : Byte) (s : State) : Out :=
  s.act fun s => (let x := s.wslot slot.toNat
    if decide (x.state = .filling) && !x.filled then s.failFill slot.toNat else s)

/-- The layer's tensors converted under the tile records and placed; the images are entered in the session slot's
descriptor table (R257, R264, R270; where a slot's images stand is not stated, DESIGN CHOICE, log 25). -/
def Hw.placeLayer (s : Hw) (g : WgtSec) (w c k : Nat) : Except Nat Hw :=
  let x := s.wslot w
  let cs := s.slot c k
  let table := (parseTable (cs.table.length / 64) cs.table).filter fun e => decide (e.layer = x.layer)
  let defs := g.baseDefs.filter fun d => table.any fun e => decide (e.id = d.id)
  match s.placeTensors g defs table x.verified with
  | .error r => .error r
  | .ok (s, imgs) =>
    let s := imgs.foldl (fun s i => s.memWriteAll (g.tableOff c k + 16 * i.tensor) (s.imgEntry g true i)) s
    .ok (s.setWslot w { x with images := imgs })

/-- A complete fill makes its slot USABLE at the boundary (R270). -/
def Hw.finishFill (s : Hw) (g : WgtSec) (w : Nat) : Hw :=
  match (s.wslot w).session with
  | none => s
  | some (c, k) => match s.placeLayer g w c k with
    | .error _ => s.failFill w
    | .ok s =>
      let x := s.wslot w
      s.setWslot w { x with state := .usable, fillSeq := x.fillSeq + 1, epoch := (s.slot c k).epoch, failures := 0
                            pos := x.pos + 1, entered := some (c, k)
                            pieces := [], verified := [], filled := false, session := none }

/-- release_seq of a slot has reached its fill_seq in every field that the billet uses (R227). -/
def Hw.released (s : Hw) (b : BwdSec) (fields : List Nat) (w : Nat) : Bool :=
  fields.all fun f => decide (s.memNat (bonded f 0 (b.slotOff + 0x1000 + 64 * w)) 1 = (s.wslot w).fillSeq.toNat)

/-- The context whose CURRENT session the fills come from: the lowest one (R270; the schedule names no context,
DEDUCED, log 24). -/
def Hw.session (s : Hw) : Option (Nat × Nat) :=
  s.wgt.ctxs.findSome? fun e => (e.2.current.filter fun k => (nget {} e.2.slots k).stream).map fun k => (e.1, k)

/-- The next schedule entry of a slot, from its place in the cyclic list: its place and the entry (R270). -/
def nextFill (fills : List FillDef) (w pos : Nat) : Option (Nat × FillDef) :=
  let n := fills.length
  (List.range n).findSome? fun i => match fills[(pos + i) % n]? with
    | some d => if d.slot = w then some ((pos + i) % n, d) else none
    | none => none

/-- FILL_REQ for a slot, which keeps its state and contents until the next boundary (R227, R270, R302). -/
def Hw.requestFill (s : Hw) (g : WgtSec) (w : Nat) : Hw :=
  let x := s.wslot w
  match s.session, nextFill g.fills w x.pos with
  | some (c, k), some (i, d) =>
    (s.setWslot w { x with pos := i, asked := true }).sendPort (48 + d.port)
      { kind := 9, destRank := 0xFFFF, srcRank := s.spn.rank, ttl := 15, gen := s.spn.gen, vc := 1, stroke := s.stk.num.toNat % 4
        specific := c + w * 2 ^ 6 + d.layer * 2 ^ 14 + x.fillSeq.toNat * 2 ^ 22
        payload := padTo 16 (s.slot c k).packageId }
  | _, _ => s

/-- A slot whose fill was requested is FILLING from this boundary: it gives up what it held (R270). -/
def Hw.beginFill (s : Hw) (g : WgtSec) (w : Nat) : Hw :=
  let x := s.wslot w
  match s.session, nextFill g.fills w x.pos with
  | some at', some (_, d) =>
    (s.dropLayer x).setWslot w { x with state := .filling, layer := d.layer, session := some at', images := [], entered := none
                                        pieces := [], verified := [], filled := false, err := false, asked := false }
  | _, _ => s.setWslot w { x with asked := false }

/-- Write the slot table in every field (R227). -/
def Hw.writeSlots (s : Hw) (b : BwdSec) : Hw :=
  (List.range b.slotCount).foldl (fun s w =>
    let x := s.wslot w
    s.memWriteAll (b.slotOff + 16 * w) (leBytes 1 x.layer ++ leBytes 1 x.state.code ++ leBytes 1 x.fillSeq.toNat
      ++ leBytes 5 0 ++ leBytes 8 x.epoch.toNat)) s

/-- The weight slots at a stroke boundary: fills that failed or are complete, then requests (R227, R270, R271). -/
def Hw.fillBoundary (s : Hw) : Hw :=
  match s.running, s.wgt.sec with
  | some l, some g => match l.img.backward with
    | none => s
    | some b =>
      if b.arrangement ≠ 1 then s
      else
        let fields := l.img.fields
        let s := (List.range b.slotCount).foldl (fun s w =>
          let x := s.wslot w
          let s := if decide (x.state = .filling) && x.err then s.failFill w
            else if decide (x.state = .filling) && x.filled then s.finishFill g w else s
          if x.asked then s.beginFill g w
          else match x.state with
          | .empty => s.requestFill g w
          | .usable => if s.released b fields w then s.requestFill g w else s
          | .failed => if x.failures < 3 then s.requestFill g w else s
          | .filling => s) s
        s.writeSlots b
  | _, _ => s

/-- At activation every weight slot is EMPTY with both counts at 0 (R227). -/
def Hw.activateSlots (s : Hw) (b : BwdSec) : Hw :=
  let s := (List.range b.slotCount).foldl (fun s w => s.memWriteAll (b.slotOff + 0x1000 + 64 * w) (leBytes 64 0)) s.dropLayers
  s.writeSlots b

end Sys2Proof.Machine
end

