-- ==== Sys2Proof/Machine/Backward.lean ====
section
/-!
DEFINITION. Steps, the loss scale and the train mask (R213-R223, R229).
-/
namespace Sys2Proof.Machine

/-- The running billet's reduction section. -/
def Hw.redSec (s : Hw) : Option RedSec := s.running.bind (·.img.reduction)

/-- Signed value of an exponent byte. -/
def sbyte (b : Byte) : Int := b.toInt

/-- The exponent held between its limits; max_exp wins where they cross (R229). -/
def clampExp (lo hi e : Int) : Int := min (max e lo) hi

def expByte (e : Int) : Byte := BitVec.ofInt 8 e

/-- RED_LSCALE: interval 0 reads as 1, exp is clamped and clean cleared (R229). -/
def execLscaleWrite (value : W64) (s : State) : Out :=
  let v := value.toNat
  let hi : Byte := BitVec.ofNat 8 (bits v 23 16)
  let lo : Byte := BitVec.ofNat 8 (bits v 15 8)
  let n := bits v 40 25
  s.act fun s => (s.bar0 fun s => { s with bwd := { s.bwd with
    clean := 0, interval := BitVec.ofNat 16 (if n = 0 then 1 else n), dynamic := bit v 24, maxExp := hi, minExp := lo
    exp := expByte (clampExp (sbyte lo) (sbyte hi) (sbyte (BitVec.ofNat 8 (bits v 7 0)))) } })

/-! ## The step queue (R213) -/

/-- Queue a step operation: up to 4, beyond which it is discarded and counted. -/
def Hw.stepPush (s : Hw) (isOpen : Bool) (stroke : Nat) : Hw :=
  if s.bwd.queue.length ≥ 4 then { s with bwd := { s.bwd with lost := satInc s.bwd.lost } }
  else { s with bwd := { s.bwd with queue := s.bwd.queue ++ [(isOpen, stroke)] } }

def execRedStepOpen (stroke : BitVec 36) (s : State) : Out := s.act fun s => (s.bar0 fun s => s.stepPush true stroke.toNat)
def execRedStepClose (stroke : BitVec 36) (s : State) : Out := s.act fun s => (s.bar0 fun s => s.stepPush false stroke.toNat)

/-- Put step entry `i`. -/
def Bwd.setEntry (b : Bwd) (i : Nat) (e : StepEnt) : Bwd := if i % 2 = 0 then { b with e0 := e } else { b with e1 := e }

/-- newest and none of the step table: the newest OPEN step (R214). -/
def Bwd.newestOpen (b : Bwd) : Option Nat :=
  let os := ([b.e0, b.e1].filter fun e => decide (e.state = .open')).map (·.step)
  os.foldl (fun m n => some (max (m.getD 0) n)) Option.none

/-- The oldest step in a state. -/
def Bwd.oldest (b : Bwd) (st : StepSt) : Option Nat :=
  let os := ([b.e0, b.e1].filter fun e => decide (e.state = st)).map (·.step)
  os.foldl (fun m n => some (min (m.getD n) n)) Option.none

def Bwd.refresh (b : Bwd) : Bwd := match b.newestOpen with
  | some n => { b with newest := BitVec.ofNat 32 n, none := false }
  | Option.none => { b with none := true }

/-- Descriptors that name an engine: its count and a bucket's index at it (R231). -/
def RedSec.count (r : RedSec) (e : Nat) : Nat := (r.buckets.filter fun b => decide (b.engine = e)).length
def RedSec.index (r : RedSec) (bucket : Nat) : Nat :=
  ((r.buckets.take bucket).filter fun b => decide ((r.buckets[bucket]?).any fun x => x.engine = b.engine)).length

/-- Every bucket of a step has been posted at every engine (R213, R246). -/
def Hw.stepPosted (s : Hw) (n : Nat) : Bool := match s.redSec with
  | none => true
  | some r => (List.range 48).all fun e => decide ((s.engine e).nextPost.toNat ≥ (n + 1) * r.count e)

/-- The close rule (R216): skip, the dynamic loss scale, the step result. -/
def Bwd.close (b : Bwd) (n : Nat) : Bwd :=
  let e := stepEntry b n
  let skip := decide (e.nonfinite ≠ 0) || decide (e.lost ≠ 0)
  let b := b.setEntry n { e with state := .closed, skip := skip, stashLost := decide (e.lost ≠ 0) }
  let b := { b with resStep := BitVec.ofNat 32 n, resNonfinite := e.nonfinite, flLost := e.lost, flExp := e.exp, flSkip := skip }
  if !b.dynamic then b
  else
  let held (e : Int) : Byte := expByte (clampExp (sbyte b.minExp) (sbyte b.maxExp) e)
  if e.nonfinite ≠ 0 then { b with exp := held (sbyte b.exp - 1), clean := 0 }
  else if b.clean + 1 = b.interval then { b with exp := held (sbyte b.exp + 1), clean := 0 }
  else { b with clean := b.clean + 1 }

/-- Close every CLOSING step whose buckets have all completed, the older one first (R213). -/
def Hw.closeSteps (s : Hw) : Hw :=
  let one (s : Hw) : Hw := match s.bwd.oldest .closing with
    | none => s
    | some n => if s.stepPosted n then (({ s with bwd := s.bwd.close n }).unbindStep (n % 2)).raise 14 else s
  one (one s)

/-- OPEN copies the mask shadow into the step's copy in each field (R223). -/
def Hw.copyMask (s : Hw) (b : BwdSec) (entry : Nat) : Hw :=
  (List.range 48).foldl (fun s f =>
    s.memCopy (bonded f 0 (b.maskOff + 2 * b.maskBytes)) (bonded f 0 (b.maskOff + entry * b.maskBytes)) b.maskBytes) s

/-- OPEN opens the next step in its entry; over a step OPEN or CLOSING it is discarded (R213). -/
def Hw.openStep (s : Hw) : Hw :=
  let n := s.bwd.nextStep
  if !(stepEntry s.bwd n).idle then { s with bwd := { s.bwd with openErr := true } }
  else
    let e : StepEnt := { step := n, exp := s.bwd.exp, state := .open', opened := s.stk.num.toNat }
    let s := { s with bwd := ({ s.bwd with nextStep := n + 1 }).setEntry n e }
    let s := match s.bwdSec with
      | some b => s.copyMask b (n % 2)
      | none => s
    s.bindStepEntry (n % 2)

/-- CLOSE moves the oldest OPEN step to CLOSING (R213). -/
def Hw.closeStep (s : Hw) : Hw := match s.bwd.oldest .open' with
  | none => { s with bwd := { s.bwd with closeErr := true } }
  | some n =>
    let e : StepEnt := { stepEntry s.bwd n with state := .closing, shutAt := some s.stk.num.toNat }
    ({ s with bwd := s.bwd.setEntry n e }).closeSteps

/-- Take the due operation at an index out of the queue and apply it. -/
def Hw.stepOp (s : Hw) (o : Bool × Nat) : Hw :=
  let s := { s with bwd := { s.bwd with queue := s.bwd.queue.erase o } }
  if o.1 then s.openStep else s.closeStep

/-- Operations due at this boundary, in write order. -/
def Hw.stepsDue (s : Hw) : List (Bool × Nat) := s.bwd.queue.filter fun o => stepDue s.stk.num o.2

/-- The step closes of a boundary: steps whose buckets are complete, and the due CLOSEs, ahead of every due OPEN, while they find an
OPEN step (R213, R269; a CLOSE that finds none before the OPENs of its boundary stays in write order behind them: DEDUCED, log
210). -/
def Hw.stepClosesBoundary (s : Hw) : Hw :=
  let s := s.closeSteps
  (s.stepsDue.filter fun o => !o.1).foldl (fun s o => if (s.bwd.oldest .open').isSome then s.stepOp o else s) s

/-- The other due operations in write order, after the commits (R269). -/
def Hw.stepOpensBoundary (s : Hw) : Hw :=
  let s := s.stepsDue.foldl (fun s o => s.stepOp o) s
  { s with bwd := s.bwd.refresh }

/-- A step entry's bytes (R214). -/
def StepEnt.bytes (e : StepEnt) : List Byte :=
  let code := match e.state with
    | .free => 0 | .open' => 1 | .closing => 2 | .closed => 3
  leBytes 8 e.step ++ leBytes 4 (roundF32 .rne false 1 (sbyte e.exp)).toNat ++ leBytes 1 e.exp.toNat ++ leBytes 1 code
    ++ leBytes 1 (b2n e.skip + 2 * b2n e.stashLost) ++ leBytes 1 0 ++ leBytes 4 e.nonfinite.toNat ++ leBytes 4 e.lost.toNat

/-- Write the step table in every field, but for carry, which only the billet writes (R214). -/
def Hw.writeSteps (s : Hw) : Hw := match s.bwdSec with
  | none => s
  | some b =>
    let newest := match s.bwd.newestOpen with
      | some n => n
      | none => 2 ^ 64 - 1
    (s.memWriteAll b.stepOff (leBytes 8 newest)).memWriteAll (b.stepOff + 16) (s.bwd.e0.bytes ++ s.bwd.e1.bytes)

/-- At activation or retirement both entries are FREE and steps start at 0; operations that are queued keep their strokes (R213,
R229). -/
def Hw.freeSteps (s : Hw) : Hw :=
  let s := { s with bwd := { s.bwd with e0 := {}, e1 := {}, nextStep := 0, none := true } }
  ((s.unbindStep 0).unbindStep 1).writeSteps

/-- The backward section takes effect: counters zeroed, carry zero, the initial mask in the shadow (R222, R229). -/
def Hw.activateBwd (s : Hw) : Hw :=
  let s := { s with bwd := { s.bwd with masked := 0, mismatch := 0, stashLost := 0, lost := 0 } }
  match s.bwdSec with
  | none => s.freeSteps
  | some b =>
    let s := s.memWriteAll (b.stepOff + 8) (leBytes 8 0)
    (s.memWriteAll (b.maskOff + 2 * b.maskBytes) (padTo b.maskBytes b.maskInit)).freeSteps

/-- The step of the micro-batch that a stash line belongs to: one whose entry is OPEN or CLOSING; where both are, the manual does
not say how the module knows which, and it is a free value (R215, R221; log 209). -/
def Hw.stashStep (s : Hw) : Option Nat :=
  let inUse (e : StepEnt) : Bool := decide (e.state = .open') || decide (e.state = .closing)
  match inUse s.bwd.e0, inUse s.bwd.e1 with
  | true, true => some (if Config.stashStep s.draws then s.bwd.e1.step else s.bwd.e0.step)
  | true, false => some s.bwd.e0.step
  | false, true => some s.bwd.e1.step
  | false, false => none

/-- A stash read that failed again at the same address: recorded as STASH_LOST, counted in its micro-batch's step entry, and the
beat runs to its end (R221). -/
def Hw.stashLost (s : Hw) (f w line : Nat) : Hw :=
  let n := s.stashStep
  let step := n.getD (2 ^ 64 - 1)
  let s := { s with draws := s.draws + 1 }
  let s := match n with
    | some n => { s with bwd := s.bwd.setEntry n { stepEntry s.bwd n with lost := satInc (stepEntry s.bwd n).lost } }
    | none => s
  let s := { s with bwd := { s.bwd with stashLost := s.bwd.stashLost + 1 } }
  (s.record { cls := 0x11, loc := locField f, address := bonded f w (line * 64), data := dat [step, line] }).raise 16

end Sys2Proof.Machine
end

