-- ==== Sys2Proof/Machine/Reduce.lean ====
section
/-!
DEFINITION. The reduction engines: bucket instances, entry of values, shards, rank-order sums, results, completions
(R216, R230-R249, R319).
-/
namespace Sys2Proof.Machine

/-! ## Captured errors and instances -/

/-- An engine error is captured, counted and raised as RED_ERR (R235, R249). -/
def Hw.redErr (s : Hw) (e code bucket : Nat) : Hw :=
  let x := s.engine e
  let x := { x with errCount := satInc x.errCount }
  let x := if x.errFlag then x else { x with errFlag := true, errCode := BitVec.ofNat 4 code, errBucket := BitVec.ofNat 16 bucket }
  (s.setEngine e x).raise 19

/-- Count discarded values or copies (R249). -/
def Hw.redDrop (s : Hw) (e n : Nat) : Hw :=
  s.onEngine e fun x => { x with dropCnt := x.dropCnt + BitVec.ofNat 64 n }

def Engine.inst (x : Engine) (seq : Nat) : Option Inst := x.insts.find? fun i => decide (i.seq = seq)

def insertInst (i : Inst) : List Inst → List Inst
  | [] => [i]
  | j :: r => if i.seq < j.seq then i :: j :: r else if i.seq = j.seq then i :: r else j :: insertInst i r

/-- Put an instance, in ascending sequence number. -/
def Hw.setInst (s : Hw) (e : Nat) (i : Inst) : Hw := s.onEngine e fun x => { x with insts := insertInst i x.insts }

/-- Largest bucket that an engine holds (R233). -/
def RedSec.nmax (r : RedSec) (e : Nat) : Nat :=
  (r.buckets.filter fun b => decide (b.engine = e)).foldl (fun n b => max n b.values) 0

/-- Place of part `part` (0 local values, 3 result) of an instance's buffer, at a position (R233). -/
def RedSec.place (r : RedSec) (e buf part pos : Nat) : Nat :=
  bonded e 0 (r.areaOff + buf * 16 * r.nmax e + part * 4 * r.nmax e + 4 * pos)

/-- The lowest buffer that no instance of the engine holds. -/
def Engine.freeBuf (x : Engine) : Option Nat := (List.range 16).find? fun b => !x.insts.any fun i => decide (i.buf = some b)

/-- Full step number of a message's 32 bits, nearest at or after the engine's window (R244). -/
def seqOf (count index nextPost step32 : Nat) : Nat × Nat :=
  let base := if count = 0 then 0 else nextPost / count
  let d := (step32 + 2 ^ 32 - base % 2 ^ 32) % 2 ^ 32
  let step := if d < 2 ^ 31 then base + d else base + d - 2 ^ 32
  (step, step * count + index)

/-- An instance opens at its first accepted value if a buffer is free and its number is inside the window; otherwise it is
marked FAILED and completes at once (R244). -/
def Hw.openInst (s : Hw) (e bucket step seq : Nat) : Hw × Inst :=
  let x := s.engine e
  match x.inst seq with
  | some i => (s, i)
  | none =>
    let room := if seq < x.nextPost.toNat + 16 then x.freeBuf else none
    match room with
    | some b =>
      let i : Inst := { bucket := bucket, step := step, seq := seq, buf := some b }
      (s.setInst e i, i)
    | none =>
      let i : Inst := { bucket := bucket, step := step, seq := seq, buf := none, complete := true, status := 2
                        doneStroke := s.stk.num.toNat }
      let s := (s.setInst e i).onEngine e fun x => { x with failCnt := x.failCnt + 1 }
      ((s.redErr e 5 bucket).raise 18, i)

/-- An instance is open until it completes; one that waits at next_post for room in the completion ring stays open (R246). -/
def Engine.isOpen (x : Engine) (cplEntries : Nat) (i : Inst) : Bool :=
  !i.complete || (decide (i.seq = x.nextPost.toNat) && decide ((x.cplHead - x.cplTail).toNat ≥ cplEntries))

/-! ## Groups and shards (R232, R238) -/

/-- Length of a shard's cut, and of shard `j` itself. -/
def shardCut (n m : Nat) : Nat := ((n + m - 1) / m + 15) / 16 * 16
def shardLen (n m j : Nat) : Nat := min ((j + 1) * shardCut n m) n - min (j * shardCut n m) n

def RedSec.groupOf (r : RedSec) (b : Bucket) : RedGroup := (r.groups[b.group]?).getD { self := 0, members := [] }
def RedGroup.m (g : RedGroup) : Nat := g.members.length

/-- This module is the primary of its member index (R232). -/
def Hw.isMember (s : Hw) (g : RedGroup) : Bool :=
  match g.members[g.self]? with
  | some x => decide (x.1 = s.spn.rank.toNat)
  | none => false

/-- Members whose backup this module is (R238). -/
def Hw.backsUp (s : Hw) (g : RedGroup) : List Nat :=
  (List.range g.m).filter fun i => match g.members[i]? with
    | some x => decide (x.2 = s.spn.rank.toNat) && decide (x.2 ≠ 0xFFFF)
    | none => false

/-- The local values of shard `j`. -/
def Inst.shard (i : Inst) (n m j : Nat) : List W32 :=
  (List.range (shardLen n m j)).map fun v => (nget none i.vals (j * shardCut n m + v)).getD 0

/-- FP32 values as bytes. -/
def wordBytes (vs : List W32) : List Byte := vs.flatMap fun v => leBytes 4 v.toNat

/-- Values that one reduction message carries: 4,096 B less the header. -/
def reduceMax : Nat := 1016

def cutValues : Nat → Nat → List W32 → List (Nat × List W32)
  | 0, _, _ => []
  | fuel + 1, off, vs => if vs.isEmpty then [] else (off, vs.take reduceMax) :: cutValues fuel (off + reduceMax) (vs.drop reduceMax)

/-- Words 0-3 of a reduction message's header (R239). -/
def reduceHeader (result backup : Bool) (b : Bucket) (bucket step shard member offset count : Nat) : List Byte :=
  leBytes 32 (b2n result + b2n backup * 2 ^ 2 + b.group * 2 ^ 3 + bucket * 2 ^ 11 + step % 2 ^ 32 * 2 ^ 27 + shard * 2 ^ 59
    + member * 2 ^ 71 + offset * 2 ^ 83 + (count - 1) * 2 ^ 107)

/-- Send values of a shard to a member's engine as REDUCE messages (R239, R302). -/
def Hw.sendReduce (s : Hw) (e : Nat) (g : RedGroup) (b : Bucket) (i : Inst) (result backup : Bool)
    (shard member dest : Nat) (vs : List W32) : Hw :=
  let rank : W16 := BitVec.ofNat 16 ((g.members.getD dest (0, 0)).1)
  (cutValues (vs.length + 1) 0 vs).foldl (fun s p =>
    s.sendRank rank
      { kind := 5, destRank := rank, srcRank := s.spn.rank, ttl := 15, gen := s.spn.gen, vc := 2, stroke := s.stk.num.toNat % 4
        word1 := mkEndpoint e 1 + 2 ^ 21 + mkEndpoint e 1 * 2 ^ 22 + 2 ^ 43, specific := 0
        payload := reduceHeader result backup b i.bucket i.step shard member p.1 p.2.length
          ++ wordBytes p.2 }) s

/-- Place values of a message in a copy. -/
def putValues (c : NMap (Option W32)) (off : Nat) (vs : List W32) : NMap (Option W32) :=
  ((List.range vs.length).zip vs).foldl (fun c p => nput none c (off + p.1) (some p.2)) c

/-- The values of a copy, in order. -/
def copyValues (c : NMap (Option W32)) (n : Nat) : List W32 := (List.range n).map fun v => (nget none c v).getD 0

/-- Values of member `k`'s copy of the own shard go into the primary or the backup part of the instance's buffer: a shard's length
for each member, in member order, as far as the part reaches (R233; the order is a DESIGN CHOICE, log 211). -/
def Hw.writeCopy (s : Hw) (e : Nat) (r : RedSec) (i : Inst) (backup : Bool) (len k off : Nat) (vs : List W32) : Hw :=
  match i.buf with
  | none => s
  | some f =>
    let p := k * len + off
    s.memWrite (r.place e f (if backup then 2 else 1) p) (wordBytes (vs.take (r.nmax e - p)))

/-- An instance takes values of a member's copy: a primary copy that completes takes its slot; a backup copy is held until the
deadline and takes an empty slot after it; a copy for a slot already filled is discarded and counted (R240). -/
def Hw.takeCopy (s : Hw) (e : Nat) (r : RedSec) (b : Bucket) (g : RedGroup) (i : Inst) (backup : Bool) (k off : Nat)
    (vs : List W32) : Hw :=
  if i.complete && (nget none i.slots k).isNone then s
  else
    let len := shardLen b.values g.m g.self
    let c := putValues (nget [] (if backup then i.back else i.prim) k) off vs
    let i := if backup then { i with back := nput [] i.back k c } else { i with prim := nput [] i.prim k c }
    let s := s.writeCopy e r i backup len k off vs
    if c.length < len then s.setInst e i
    else if (nget none i.slots k).isSome then (s.setInst e i).redDrop e 1
    else if !backup then s.setInst e { i with slots := nput none i.slots k (some (copyValues c len)) }
    else if i.pastDeadline then
      (s.setInst e { i with slots := nput none i.slots k (some (copyValues c len)), backups := i.backups + 1 }).onEngine
        e fun x => { x with backupCnt := x.backupCnt + 1 }
    else s.setInst e i

/-- A full instance: the own shard stays as the own copy, the others go to their owners, and a backup sends on its
primary's behalf, to itself too where it is a member (R236, R238). A module that only backs up owns no shard and is done when it
has sent. -/
def Hw.instFull (s : Hw) (e : Nat) (r : RedSec) (b : Bucket) (i : Inst) : Hw :=
  let g := r.groupOf b
  let member := s.isMember g
  let i := { i with full := some s.stk.num.toNat }
  let i := if member then { i with slots := nput none i.slots g.self (some (i.shard b.values g.m g.self)) }
    else { i with complete := true, doneStroke := s.stk.num.toNat }
  let s := s.setInst e i
  let s := if !member then s else
    ((List.range g.m).filter fun j => decide (j ≠ g.self)).foldl (fun s j =>
      s.sendReduce e g b i false false j g.self j (i.shard b.values g.m j)) s
  (s.backsUp g).foldl (fun s p =>
    ((List.range g.m).filter fun j => decide (j ≠ p)).foldl (fun s j =>
      let vs := i.shard b.values g.m j
      if member && decide (j = g.self) then s.takeCopy e r b g (((s.engine e).inst i.seq).getD i) true p 0 vs
      else s.sendReduce e g b i false true j p j vs) s) s

/-! ## GRAD (R216, R234-R236) -/

/-- The value that enters: masked to +0, or widened and scaled by 2^(-exp) (R216). -/
def enterValue (fp16 : Bool) (exp : Int) (maskBit : Bool) (g : W16) : W32 :=
  if !maskBit then 0
  else f32of (vmul ((if fp16 then fmtF16 else fmtBF16).decode g.toNat) (.fin false 1 (-exp)))

/-- The mask bit of a segment in a step's copy (R222). -/
def Hw.maskBit (s : Hw) (e entry q : Nat) : Bool := match s.bwdSec with
  | none => false
  | some b => bit (s.memNat (bonded e 0 (b.maskOff + entry * b.maskBytes + q / 8)) 1) (q % 8)

/-- One value of a GRAD message, at its position (R216, R235). -/
def Hw.enterOne (s : Hw) (e : Nat) (r : RedSec) (b : Bucket) (bucket step32 seg pos : Nat) (g : W16) : Hw :=
  let n := step32 % 2
  let ent := stepEntry s.bwd n
  if decide (ent.step % 2 ^ 32 ≠ step32) || !(decide (ent.state = .open') || decide (ent.state = .closing)) then
    (({ s with bwd := { s.bwd with mismatch := s.bwd.mismatch + 1 } }).record
      { cls := 0x12, loc := locEndpoint (mkEndpoint e 1), data := dat [step32, e] }).raise 15
  else
    let seq := ent.step * r.count e + r.index bucket
    if seq < (s.engine e).nextPost.toNat then (s.redDrop e 1).redErr e 2 bucket
    else
      let (s, i) := s.openInst e bucket ent.step seq
      if (nget none i.vals pos).isSome then (s.redDrop e 1).redErr e 2 bucket
      else if i.complete then s
      else
        let on := s.maskBit e n seg
        let v := (if (s.bwdSec.any fun b => b.fp16) then fmtF16 else fmtBF16).decode g.toNat
        let w := enterValue (s.bwdSec.any fun b => b.fp16) (sbyte ent.exp) on g
        let bad := on && !v.isFinite
        let s := { s with bwd := { s.bwd with masked := if on then s.bwd.masked else s.bwd.masked + 1 } }
        let s := if bad then { s with bwd := s.bwd.setEntry n { ent with nonfinite := satInc ent.nonfinite } } else s
        let t : Entered := { stroke := s.curBeat.1, beat := s.curBeat.2, pos := pos, nonfinite := bad, masked := !on }
        let i := { i with vals := nput none i.vals pos (some w), uncommitted := i.uncommitted ++ [t] }
        let s := match i.buf with
          | some f => s.memWrite (r.place e f 0 pos) (leBytes 4 w.toNat)
          | none => s
        if i.vals.length = b.values then s.instFull e r b i else s.setInst e i

/-- A GRAD message: discarded whole for an unknown bucket or positions beyond N − 1, otherwise entered value by value
(R235). -/
def execGrad (e : FieldIx) (m : GradMsg) (s : State) : Out :=
  s.act fun s => (let bucket := m.bucket.toNat
    match s.redSec with
    | none => s.redErr e.val 1 bucket
    | some r => match (r.buckets[bucket]?).filter fun b => decide (b.engine = e.val) with
      | none => s.redErr e.val 1 bucket
      | some b =>
        if m.offset.toNat + m.values.length > b.values then s.redErr e.val 3 bucket
        else ((List.range m.values.length).zip m.values).foldl (fun s p =>
          s.enterOne e.val r b bucket m.step.toNat m.segment.toNat (m.offset.toNat + p.1) p.2) s)

/-- Entries of a beat are committed (R237). -/
def Inst.commit (i : Inst) (t : Nat × Nat) : Inst :=
  { i with uncommitted := i.uncommitted.filter fun u => decide ((u.stroke, u.beat) ≠ t) }

/-- Every engine commits the entries of a beat. -/
def Hw.commitEntries (s : Hw) (t : Nat × Nat) : Hw :=
  (List.range 48).foldl (fun s e => s.onEngine e fun x => { x with insts := x.insts.map fun i => i.commit t }) s

/-- An instance is no longer full: what was made of its values is made again, but for copies that have left the module, which are
never undone (R236, R237). -/
def Inst.reopen (i : Inst) (own : Option (Nat × Nat × Nat)) : Inst :=
  if i.full.isNone || decide (i.status ≠ 0) then i
  else
    let i : Inst := { i with full := none, complete := false, delivered := false, sum := none }
    match own with
    | none => i
    | some (self, first, len) =>
      { i with slots := nput none i.slots self none, res := i.res.filter fun p => !(decide (first ≤ p.1) && decide (p.1 < first + len)) }

/-- A replayed beat's marks are removed, with what they counted, from every instance that is still in the window (R237). -/
def Hw.undoInst (s : Hw) (e : Nat) (i : Inst) (t : Nat × Nat) : Hw :=
  let gone := i.uncommitted.filter fun u => decide ((u.stroke, u.beat) = t)
  if gone.isEmpty then s
  else
    let n := (gone.filter (·.nonfinite)).length
    let k := (gone.filter (·.masked)).length
    let ent := stepEntry s.bwd i.step
    let own := (s.redSec.bind fun r => (r.buckets[i.bucket]?).map fun b => (b, r.groupOf b)).bind fun bg =>
      if s.isMember bg.2 then
        some (bg.2.self, bg.2.self * shardCut bg.1.values bg.2.m, shardLen bg.1.values bg.2.m bg.2.self)
      else none
    let s := { s with bwd := { s.bwd.setEntry i.step { ent with nonfinite := ent.nonfinite - BitVec.ofNat 32 n } with
                               masked := s.bwd.masked - BitVec.ofNat 64 k } }
    s.setInst e { i.reopen own with
      vals := gone.foldl (fun v u => nput none v u.pos none) i.vals
      uncommitted := i.uncommitted.filter fun u => decide ((u.stroke, u.beat) ≠ t) }

def Hw.undoEntries (s : Hw) (t : Nat × Nat) : Hw :=
  (List.range 48).foldl (fun s e => (s.engine e).insts.foldl (fun s i => s.undoInst e i t) s) s

/-! ## Copies (R239, R240) -/

/-- A reduction message that matches no open or openable instance (R239). -/
def Hw.unmatched (s : Hw) (e bucket : Nat) : Hw := (s.redDrop e 1).redErr e 4 bucket

/-- A reduction message comes out of its port and through RIN input 2 (R131, R239). -/
def Hw.reduceIn (s : Hw) (e n : Nat) : Hw :=
  let waits (p : Nat) : Bool := (s.port p).inbox.any fun x => decide (at' x.2 4 1 = 5)
  let s := match (List.range 48).find? waits with
    | some p => s.popInbox p 5
    | none => s
  s.arbRaise e 4 0 2 ((32 + 4 * n + 63) / 64)

/-- The instance that a reduction message belongs to: its bucket, group and number, opened if it can be once nothing else rejects
the message. A CONTRIB is for the own shard and from another member; a RESULT is another's shard under ALL (R239, R240, R242,
R244). -/
def Hw.matchMsg (s : Hw) (e : Nat) (result : Bool) (m : ReduceMsg) : Option (RedSec × Bucket × RedGroup × Hw × Inst) :=
  match s.redSec with
  | none => none
  | some r => match (r.buckets[m.bucket.toNat]?).filter fun b => decide (b.engine = e) && decide (b.group = m.group.toNat) with
    | none => none
    | some b =>
      let g := r.groupOf b
      let j := m.shard.toNat
      let k := m.member.toNat
      let (step, seq) := seqOf (r.count e) (r.index m.bucket.toNat) (s.engine e).nextPost.toNat m.step.toNat
      let fits := if result then !b.shardMode && decide (j = k) && decide (j ≠ g.self) else decide (j = g.self) && decide (k ≠ g.self)
      if !s.isMember g || decide (k ≥ g.m) || decide (j ≥ g.m) || decide (seq < (s.engine e).nextPost.toNat) || !fits
          || decide (m.offset.toNat + m.values.length > shardLen b.values g.m j) then none
      else
        let (s, i) := s.openInst e m.bucket.toNat step seq
        some (r, b, g, s, i)

/-- A CONTRIB message (R240). -/
def execContrib (e : FieldIx) (m : ReduceMsg) (s : State) : Out :=
  s.act fun s => (let s := s.reduceIn e.val m.values.length
    match s.matchMsg e.val false m with
    | none => s.unmatched e.val m.bucket.toNat
    | some (r, b, g, s, i) => s.takeCopy e.val r b g i m.backup m.member.toNat m.offset.toNat m.values)

/-- Every slot of the own shard is filled. -/
def Inst.slotsFull (i : Inst) (n : Nat) (g : RedGroup) : Bool :=
  decide (shardLen n g.m g.self = 0) || (List.range g.m).all fun k => (nget none i.slots k).isSome

/-! ## Results (R241-R243, R319) -/

/-- Values that one GRAD_OUT carries (R302). -/
def gradOutMax : Nat := 1022

def cutOut : Nat → Nat → List W32 → List (Nat × List W32)
  | 0, _, _ => []
  | fuel + 1, off, vs => if vs.isEmpty then [] else (off, vs.take gradOutMax) :: cutOut fuel (off + gradOutMax) (vs.drop gradOutMax)

/-- Send a result through a bellows port (R242, R302, R319). -/
def Hw.sendGradOut (s : Hw) (b : Bucket) (i : Inst) (shard : Nat) (vs : List W32) : Hw :=
  (cutOut (vs.length + 1) 0 vs).foldl (fun s p =>
    s.sendPort (48 + b.port)
      { kind := 11, destRank := 0xFFFF, srcRank := s.spn.rank, ttl := 15, gen := s.spn.gen, vc := 2, stroke := s.stk.num.toNat % 4
        specific := b.dest.toNat + i.step % 2 ^ 32 * 2 ^ 64 + i.bucket * 2 ^ 96 + (if b.shardMode then shard else 0) * 2 ^ 112
          + b2n (!b.shardMode) * 2 ^ 124
        payload := leBytes 8 p.1 ++ wordBytes p.2 }) s

/-- Write bytes at a span address: at home here, or by span stores to the rank that holds it (R242). -/
def Hw.writeSpan (s : Hw) (e addr : Nat) (bs : List Byte) : Hw :=
  if s.ownRank (addrRank addr) then (s.spanStoreAny s.spn.rank.toNat (addrOff addr) bs).1
  else (List.range ((bs.length + 4095) / 4096)).foldl (fun s k =>
    let part := (bs.drop (4096 * k)).take 4096
    s.sendRank (addrRank addr)
      { kind := 0, destRank := addrRank addr, srcRank := s.spn.rank, ttl := 15, gen := s.spn.gen, vc := 0
        stroke := s.stk.num.toNat % 4, word1 := mkEndpoint e 1 * 2 ^ 22 + 2 ^ 43
        specific := (addr + 4096 * k) % 2 ^ 64 + 2 ^ 64 + (part.length - 1) * 2 ^ 70 + 2 * e * 2 ^ 114, payload := part }) s

/-- The values that an instance delivers: the whole bucket under ALL, its own shard under SHARD. -/
def Inst.result (i : Inst) (b : Bucket) : List W32 :=
  if b.shardMode then i.sum.getD [] else (List.range b.values).map fun p => (nget none i.res p).getD 0

/-- Deliver a result to its destination; what is empty is done at once (R242, R243). -/
def Hw.deliver (s : Hw) (e : Nat) (b : Bucket) (g : RedGroup) (i : Inst) : Hw :=
  let vs := i.result b
  let s := s.setInst e { i with delivered := true, complete := vs.isEmpty, doneStroke := s.stk.num.toNat }
  if b.bellows then s.sendGradOut b i g.self vs
  else s.writeSpan e (b.dest.toNat + (if b.shardMode then g.self * shardCut b.values g.m * 4 else 0))
    (wordBytes vs)

/-- Put a summed shard into the result part. -/
def Hw.putResult (s : Hw) (e : Nat) (r : RedSec) (i : Inst) (pos : Nat) (vs : List W32) : Hw × Inst :=
  let s := match i.buf with
    | some f => s.memWrite (r.place e f 3 pos) (wordBytes vs)
    | none => s
  let i := { i with res := putValues i.res pos vs }
  (s.setInst e i, i)

/-- The sum of a shard's slots in ascending member order (R241). -/
def sumSlots (i : Inst) (len m : Nat) : List W32 :=
  let at0 (k : Nat) : List W32 := (nget none i.slots k).getD []
  (List.range (m - 1)).foldl (fun acc k => (acc.zip (at0 (k + 1))).map fun p => fadd p.1 p.2) ((at0 0).take len)

/-- An owner has added a shard's slots, the lowest instance that is ready first, and delivers the result (R241, R242). -/
def execShardReduced (e : FieldIx) (seq : W64) (s : State) : Out :=
  s.act fun s => (match s.redSec with
    | none => s
    | some r =>
      let ready (i : Inst) : Bool := !i.complete && i.full.isSome && i.sum.isNone &&
        (match r.buckets[i.bucket]? with
         | some b => i.slotsFull b.values (r.groupOf b)
         | none => false)
      match (s.engine e.val).insts.find? ready with
      | none => s
      | some i =>
        if i.seq ≠ seq.toNat then s
        else match r.buckets[i.bucket]? with
          | none => s
          | some b =>
            let g := r.groupOf b
            let j := g.self
            let sum := sumSlots i (shardLen b.values g.m j) g.m
            let (s, i) := s.putResult e.val r { i with sum := some sum } (j * shardCut b.values g.m) sum
            if b.shardMode then s.deliver e.val b g i
            else
              let s := ((List.range g.m).filter fun k => decide (k ≠ j)).foldl (fun s k =>
                s.sendReduce e.val g b i true false j j k sum) s
              if i.res.length = b.values then s.deliver e.val b g i else s)

/-- A RESULT message: a summed shard is written into the result part; with all shards there the result is delivered
(R242). -/
def execResult (e : FieldIx) (m : ReduceMsg) (s : State) : Out :=
  s.act fun s => (let s := s.reduceIn e.val m.values.length
    match s.matchMsg e.val true m with
    | none => s.unmatched e.val m.bucket.toNat
    | some (r, b, g, s, i) =>
      if i.complete || i.delivered then s
      else
        let (s, i) := s.putResult e.val r i (m.shard.toNat * shardCut b.values g.m + m.offset.toNat) m.values
        if i.res.length = b.values then s.deliver e.val b g i else s)

/-- An instance completes (R243, R246). -/
def Hw.completeInst (s : Hw) (e : Nat) (i : Inst) (status : Nat) : Hw :=
  s.setInst e { i with complete := true, status := status, doneStroke := s.stk.num.toNat }

/-- The last result write is acknowledged (R243). -/
def execResultWriteAck (e : FieldIx) (seq : W64) (s : State) : Out :=
  s.act fun s => (match (s.engine e.val).inst seq.toNat, s.redSec with
    | some i, some r =>
      let memory := (r.buckets[i.bucket]?).any fun b => !b.bellows
      if i.delivered && !i.complete && memory then s.completeInst e.val i 0 else s
    | _, _ => s)

/-- The engine and instance that a GRAD_OUT identity names. -/
def Hw.gradOutInst (s : Hw) (d : GradOutId) : Option (Nat × Bucket × RedGroup × Inst) :=
  s.redSec.bind fun r => (r.buckets[d.bucket.toNat]?).bind fun b =>
    let g := r.groupOf b
    ((s.engine b.engine).insts.find? fun i => decide (i.bucket = d.bucket.toNat) && decide (i.step % 2 ^ 32 = d.step.toNat)
      && i.delivered && !i.complete && b.bellows && decide (b.dest = d.tag) && decide (d.whole = !b.shardMode)
      && decide (d.shard.toNat = if b.shardMode then g.self else 0)).map fun i => (b.engine, b, g, i)

/-- GRAD_ACK: the weight server holds every value, and the instance is complete (R243, R319). -/
def execGradAck (p : PortIx) (d : GradOutId) (s : State) : Out :=
  s.act fun s => (s.onBellows p.val 12 fun s => match s.gradOutInst d with
    | none => s
    | some (e, _, _, i) => s.completeInst e i 0)

/-- STREAM_ERR: BELLOWS_ERR and a record; a fill fails at the next boundary; the first one for a shard has it sent again
one stroke later, the second completes the instance with FAILED (R318, R319). -/
def execStreamErr (p : PortIx) (err : StreamErrOf) (code : BitVec 3) (s : State) : Out :=
  s.act fun s => (s.onBellows p.val 13 fun s =>
    let s := (s.record { cls := 0x26, loc := locPort p.val, data := dat [code.toNat] }).raise 31
    match err with
    | .fill context slot layer fillSeq =>
      let x := s.wslot slot.toNat
      if decide (x.state = .filling) && decide (x.layer = layer.toNat) && decide (x.fillSeq = fillSeq)
          && (x.session.any fun c => decide (c.1 = context.toNat)) then
        s.setWslot slot.toNat { x with err := true }
      else s
    | .grad d => match s.gradOutInst d with
      | none => s
      | some (e, _, _, i) =>
        if i.streamErrs = 0 then s.setInst e { i with streamErrs := 1, resendAt := some (s.stk.num.toNat + 1) }
        else (s.completeInst e { i with streamErrs := i.streamErrs + 1 } 2).onEngine e fun x => { x with failCnt := x.failCnt + 1 })

/-! ## Completions (R244-R246) -/

/-- The completion record (R246); the full stroke of an instance that was never full is free. -/
def complRecord (d : Nat) (i : Inst) : List Byte :=
  leBytes 8 i.seq ++ leBytes 4 i.step ++ leBytes 2 i.bucket
    ++ leBytes 1 (if i.status ≠ 0 then i.status else b2n i.late) ++ leBytes 1 0
    ++ leBytes 8 (match i.full with
      | some f => f
      | none => (Config.noFullStroke d).toNat)
    ++ leBytes 4 i.doneStroke ++ leBytes 2 i.backups ++ leBytes 2 0

/-- A completed instance at next_post is posted while its ring has room (R245, R246). -/
def execCompletionPost (e : FieldIx) (s : State) : Out :=
  s.act fun s => (match s.redSec with
    | none => s
    | some r =>
      let x := s.engine e.val
      match x.inst x.nextPost.toNat with
      | none => s
      | some i =>
        if !i.complete || decide ((x.cplHead - x.cplTail).toNat ≥ r.cplEntries) then s
        else
          let rec' := complRecord s.draws i
          let s := if i.full.isNone then { s with draws := s.draws + 1 } else s
          let late := decide (i.status = 0) && i.late
          let s := s.memWrite (bonded e.val 0 (r.cplOff + x.cplHead.toNat % r.cplEntries * 32)) rec'
          let s := s.setEngine e.val { x with
            insts := x.insts.filter fun j => decide (j.seq ≠ i.seq), nextPost := x.nextPost + 1, cplHead := x.cplHead + 1
            doneCnt := x.doneCnt + 1, lateCnt := if late then x.lateCnt + 1 else x.lateCnt }
          match (r.buckets[i.bucket]?).filter (·.notify) with
          | some b => s.unitSend (mkEndpoint e.val 1) b.notifyCore false b.channel 0 rec'
          | none => s)

/-- An instance of an engine is open (R246, R248). -/
def Hw.instOpen (s : Hw) (e : Nat) (i : Inst) : Bool :=
  (s.engine e).isOpen ((s.redSec.map (·.cplEntries)).getD 0) i

/-- RED_ENG_ABORT asks for an open instance to be abandoned at the next boundary (R248). -/
def execRedEngAbort (e : FieldIx) (seq : W64) (s : State) : Out :=
  s.act fun s => (s.bar0 fun s => match ((s.engine e.val).inst seq.toNat).filter (s.instOpen e.val) with
    | some i => s.setInst e.val { i with abort := true }
    | none =>
      let ix := match s.redSec with
        | some r => if r.count e.val = 0 then 0
          else ((List.range r.buckets.length).filter fun b => (r.buckets[b]?).any fun x => decide (x.engine = e.val)).getD
            (seq.toNat % r.count e.val) 0
        | none => 0
      s.redErr e.val 6 ix)

/-! ## Boundaries (R240, R241, R247, R248, R319) -/

/-- The deadline of an instance: empty slots take held backup copies; what is still missing makes it late (R241, R246). -/
def Hw.deadline (s : Hw) (e : Nat) (b : Bucket) (g : RedGroup) (i : Inst) : Hw :=
  let len := shardLen b.values g.m g.self
  let empty := (List.range g.m).filter fun k => (nget none i.slots k).isNone
  let take := if len = 0 then [] else empty.filter fun k => decide ((nget [] i.back k).length = len)
  let i := { i with pastDeadline := true, backups := i.backups + take.length
                    slots := take.foldl (fun m k => nput none m k (some (copyValues (nget [] i.back k) len))) i.slots }
  let left := if len = 0 then 0 else empty.length - take.length
  let others := b.values - len - (i.res.length - (if i.sum.isSome then len else 0))
  let late := decide (left > 0) || (!b.shardMode && decide (others > 0))
  let s := (s.setInst e { i with late := i.late || late }).onEngine e fun x =>
    { x with backupCnt := x.backupCnt + BitVec.ofNat 64 take.length }
  if late then (s.record { cls := 0x13, loc := locEndpoint (mkEndpoint e 1), data := dat [i.seq, left] }).raise 17 else s

/-- One instance at a stroke boundary. -/
def Hw.instBoundary (s : Hw) (e : Nat) (r : RedSec) (i : Inst) : Hw :=
  match r.buckets[i.bucket]? with
  | none => s
  | some b =>
    let g := r.groupOf b
    let n := s.stk.num.toNat
    if i.abort && s.instOpen e i then s.completeInst e i 3
    else if i.complete then s
    else
      let due := match i.full with
        | some f => !i.pastDeadline && decide (n ≥ f + (if r.deadline = 0 then 2 else r.deadline))
        | none => false
      let s := if due then s.deadline e b g i else s
      match i.resendAt with
      | some t => if n ≥ t then (s.setInst e { ((s.engine e).inst i.seq).getD i with resendAt := none }).sendGradOut b i g.self (i.result b)
        else s
      | none => s

/-- The reduction engines at a stroke boundary. -/
def Hw.redBoundary (s : Hw) : Hw := match s.redSec with
  | none => s
  | some r => (List.range 48).foldl (fun s e => (s.engine e).insts.foldl (fun s i => s.instBoundary e r i) s) s

/-- Retiring or replacing the billet abandons every open instance (R40, R248): work of kind 1, with engine and number. -/
def Hw.abandonBuckets (s : Hw) : Hw :=
  (List.range 48).foldl (fun s e =>
    let open' := (s.engine e).insts.filter (s.instOpen e)
    let s := open'.foldl (fun s i => s.abandonWork 1 [e, i.seq]) s
    if (s.engine e).insts.isEmpty then s else s.onEngine e fun x => { x with insts := [] }) s

/-- Counters and indices are zeroed at activation (R244, R249). -/
def Hw.activateRed (s : Hw) : Hw :=
  (List.range 48).foldl (fun s e => s.onEngine e fun _ => {}) s

end Sys2Proof.Machine
end

