-- ==== Sys2Proof/Machine/PageLoss.lean ====
section
/-!
DEFINITION. Bonded memory transfers of cores, lines that fail their code, lost pages and their recovery by data class
(R84, R261, R288, R326, R336-R339), and the span answers that may tell of a lost page.
-/
namespace Sys2Proof.Machine

/-! ## A field's bonded memory (R84, R274-R276) -/

/-- The page whose home is a frame of a region, by the frame's number. -/
def Hw.frameHome (s : Hw) (f w frame : Nat) : Option Nat :=
  (s.tng.homes.find? fun e => decide (e.2.tier = 1) && decide (e.2.state ≠ .unmapped)
    && decide (e.2.location = loc1 f w frame)).map (·.1)

/-- Where the bytes behind a bonded memory offset stand: in the page whose home is the frame, or in the region itself. -/
def Hw.bondedAt (s : Hw) (f w a : Nat) : Nat :=
  match (if s.inPool (bonded f w a) 64 then s.frameHome f w (a / pageBytes) else none) with
  | some p => pageOff p + a % pageBytes
  | none => bonded f w a

/-- A line lies in a LOST page (R288). -/
def Hw.lineLost (s : Hw) (f w line : Nat) : Bool :=
  let o := s.bondedAt f w (line * 64)
  decide (o ≥ migBase) && decide ((s.home (pageOf o)).state = .lost)

/-- The bytes of a line; those of a LOST page read all-ones (R288). -/
def Hw.lineRead (s : Hw) (f w line : Nat) : List Byte :=
  if s.lineLost f w line then List.replicate 64 0xFF else s.memRead (s.bondedAt f w (line * 64)) 64

/-- Write bytes of a line; a store to a page under copy marks what it writes (R279), one to a LOST page is discarded. -/
def Hw.lineWrite (s : Hw) (f w line : Nat) (bs : List Byte) : Hw :=
  let o := s.bondedAt f w (line * 64)
  if s.lineLost f w line then s else (s.markDirty o bs.length).memWrite o bs

/-- The line offset and wafer of a scalar (R84). -/
def portLine (v : W32) : Nat := bits v.toNat 28 0
def portWafer (v : W32) : Bool := bit v.toNat 29

/-- Bytes that a descriptor's transfer moves, and the lines they take. -/
def descLen (d : Desc) : Nat := dRows d * rowBytes d
def lineCount (d : Desc) : Nat := (descLen d + 63) / 64

/-! ## BLD and BST (R84; places of the operands PRESUMED, log 11) -/

/-- Issue a transfer: reserved bits of the scalar must be zero as the descriptor must be valid; the operation joins the
core's queue and its request is raised at the block's vertical port (R84, R131). -/
def Hw.portIssue (s : Hw) (c : Nat) (i : Ins) (store : Bool) : Hw :=
  s.fetch c 10 i fun s =>
    let x := s.core c
    let d := x.dreg i.srcA.toNat
    let v := x.sreg i.srcB.toNat
    if !insClean i { tok := true, srcA := true, srcB := true } then s.programError c 0x01
    else if !isS i.srcB then s.programError c 0x02
    else if !dValid d then s.programError c 0x04
    else if !dInSram d (dRows d) (dCols d) then s.programError c 0x03
    else if x.tokFull i.tok.toNat then s
    else
      let o : PortOp := { store := store, desc := d, wafer := portWafer v, line := portLine v, stroke := s.curBeat.1
                          beat := s.curBeat.2, reread := false, tok := i.tok.toNat }
      (s.setCore c ({ x with portQ := x.portQ ++ [o] }.tokAdd i.tok.toNat).next).arbRaise (coreField c) 0 (coreBlock c)
        (coreIndex c) (lineCount d)

def execBld (c : CoreId) (i : Ins) (s : State) : Out := s.act fun s => (s.portIssue c.toNat i false)
def execBst (c : CoreId) (i : Ins) (s : State) : Out := s.act fun s => (s.portIssue c.toNat i true)

/-- Line `k` of a transfer: an offset has 29 bits, so a transfer past the end of its field's region goes on at the region's first
line (DESIGN CHOICE, log 193); no port reaches another field's region (R18). -/
def PortOp.lineAt (o : PortOp) (k : Nat) : Nat := (o.line + k) % 2 ^ 29

/-- A transfer takes a line of a wafer. -/
def PortOp.takes (o : PortOp) (wafer : Bool) (line : Nat) : Bool :=
  decide (o.wafer = wafer) && (List.range (lineCount o.desc)).any fun k => decide (o.lineAt k = line)

/-- A line as the port reads it with what strikes it, and whether its check passes: the code over the data and the line's own
number against the code that comes with the data (R323; the line's number is its 32-bit address within the region, DEDUCED, log
223). -/
def Hw.lineSeen (s : Hw) (f w line : Nat) (z : LineNoise) : List Byte × Bool :=
  let a := line ^^^ z.address.toNat
  let stored := s.lineRead f w a
  let seen := leBytes 64 (leNat stored ^^^ z.data.toNat)
  (seen, decide (crcLine seen line = crcLine stored a ^^^ z.code.toNat))

/-- The transfer at the head of a core's queue moves its bytes and its token counts down; `got` are the bytes that the port has
of a line (R84, R85). -/
def Hw.portDone (s : Hw) (c : Nat) (o : PortOp) (got : Nat → List Byte) : Hw :=
  let x := s.core c
  let f := coreField c
  let w := b2n o.wafer
  let n := lineCount o.desc
  let x' := ({ x with portQ := x.portQ.drop 1, portMoved := x.portMoved - n }).tokDone o.tok
  if o.store then
    let bs := descBytes x.sram o.desc
    (List.range n).foldl (fun s k => s.lineWrite f w (o.lineAt k) ((bs.drop (64 * k)).take 64)) (s.setCore c x')
  else
    let bs := (List.range n).flatMap fun k => got (o.lineAt k)
    s.setCore c { x' with sram := putDescBytes x'.sram o.desc (padTo (descLen o.desc) bs) }

/-- A line of the module as one number. -/
def lineKey (f w line : Nat) : Nat := (2 * f + w) * 2 ^ 29 + line

/-- One of a transfer's lines has failed twice in its beat and is stash that is lost: the port returns the data as read (R221). -/
def Hw.passes (s : Hw) (f : Nat) (o : PortOp) : Bool :=
  (List.range (lineCount o.desc)).any fun k => decide ((s.flt.badLines.filter fun e =>
    decide (e = (o.stroke, o.beat, lineKey f (b2n o.wafer) (o.lineAt k)))).length ≥ 2)

/-- Port cycles that TST_LAT adds to every access of a field's memory wafer (R143). -/
def Hw.addedLatency (s : Hw) (f w : Nat) : Nat :=
  let t := s.tst.lat.toNat
  if s.tst.unlocked && bit t 63 && decide (bits t 5 0 = f) && bit t (6 + w) then bits t 19 8 else 0

/-- The arbiter has had a transfer's lines moved, and the added latency is over (R84, R131, R143). -/
def Hw.portReady (s : Hw) (c : Nat) (o : PortOp) : Bool :=
  let x := s.core c
  decide (lineCount o.desc ≤ x.portMoved) && decide (x.portLast + 2 * s.addedLatency (coreField c) (b2n o.wafer) ≤ s.now)

/-- A vertical port transfer whose lines have moved ends. A load whose line fails its code gives no data: issued in an uncommitted
beat it waits for the replay that the warden's report starts, issued in a committed beat it is read again (R323, R326). The SRAM
words that a store reads, and those that a load covers in part, are checked as every read is (R56). Noise strikes the line
that is named (R323). -/
def execVportTransferComplete (c : CoreId) (strike : LineStrike) (s : State) : Out :=
  s.act fun s => (let x := s.core c.toNat
    let line := strike.line
    match x.portQ with
    | [] => s
    | o :: rest =>
      let f := coreField c.toNat
      if x.stopped || x.dead || o.reread || !s.portReady c.toNat o then s
      else
        let (seen, ok) := s.lineSeen f (b2n o.wafer) line.toNat strike.noise
        let got (l : Nat) : List Byte := if l = line.toNat then seen else s.lineRead f (b2n o.wafer) l
        let done (s : Hw) : Hw :=
          if !o.store && (descSpans o.desc (dRows o.desc) (dCols o.desc)).all wholeSpan then s.portDone c.toNat o got
          else s.sramChecked c.toNat fun s => s.portDone c.toNat o got
        if o.store then done s
        else
          let hit := s.injHit 2 (f + b2n o.wafer * 64)
          let s := hit.getD s
          if (ok || !o.takes o.wafer line.toNat) && hit.isNone then done s
          else if s.uncommittedBeat (o.stroke, o.beat) then if s.passes f o then done s else s
          else s.onCore c.toNat fun x => { x with portQ := { o with reread := true } :: rest })

/-! ## Lost pages (R288, R336-R339) -/

/-- Pool index of a page, where it lies in the key-value pool (R185). -/
def Hw.poolIndex (s : Hw) (p : Nat) : Option Nat := s.kv.sec.bind fun k =>
  let p0 := s.poolPage k 0
  if p0 ≤ p ∧ p < p0 + s.kv.poolSize.toNat * k.frames then some ((p - p0) / k.frames) else none

/-- The weight slot that holds a page (R337). -/
def Hw.wslotOf (s : Hw) (p : Nat) : Option Nat :=
  (s.wgt.wslots.find? fun e => e.2.images.any fun i => i.pages.contains p).map (·.1)

/-- An image that holds a page: context, slot, the adapter where it is one's, the image (R261). -/
def Hw.imageWith (s : Hw) (p : Nat) : Option (Nat × Nat × Option AdapterRef × Img) :=
  s.liveSlots.findSome? fun e =>
    match e.2.2.images.find? fun i => i.pages.contains p with
    | some i => some (e.1, e.2.1, none, i)
    | none => e.2.2.adapters.findSome? fun a => (a.images.find? fun i => i.pages.contains p).map fun i => (e.1, e.2.1, some a, i)

/-- Refetch a weight page: the package's chunks are read again and verified, the conversion is repeated and the page is
HOME again; none where a check fails (R261, R337). -/
def Hw.refetchPage (s : Hw) (p : Nat) : Option Hw :=
  match s.imageWith p, s.wgt.sec with
  | some (c, k, ad, i), some g =>
    let (source, root, id) := match ad with
      | some a => (a.source, a.root, a.packageId)
      | none => ((s.slot c k).source, (s.slot c k).root, (s.slot c k).packageId)
    let (s1, manifest, st) := s.readSpan source 512
    let m := parseManifest manifest
    if st ≠ 0 ∨ m.root ≠ root ∨ m.packageId ≠ id then none
    else match s1.openPackage source manifest with
      | (_, .error _) => none
      | (s2, .ok ls) => match s2.fetchChunks source m ls [] (chunksOf m.tableOff (64 * m.tensors)) with
        | (_, .error _) => none
        | (s3, .ok cs) =>
          let table := parseTable m.tensors (body cs m.tableOff (64 * m.tensors))
          match table.find? fun e => decide (e.id = i.tensor), g.tensors.find? fun d => decide (d.id = i.tensor) with
          | some e, some d => match s3.fetchChunks source m ls cs e.chunks with
            | (_, .error _) => none
            | (s4, .ok cs) => match imageOf g d e cs with
              | .error _ => none
              | .ok img => (s4.findRoom d.tier d.field (b2n d.wafer)).map fun l =>
                let off := (p - i.first) * pageBytes
                let bytes := img.filter fun e => decide (off ≤ e.1) && decide (e.1 < off + pageBytes)
                let s5 := (s4.setHome p { state := .home, tier := d.tier, cls := 1, location := l }).memErase (pageOff p) pageBytes
                -- a refetch is no load: the bucket stays as it was (R419)
                { s5 with glb := s.glb, mem := bytes.foldl (fun m e => nput 0 m (pageOff i.first + e.1) e.2) s5.mem }
          | _, _ => none
  | _, _ => none

/-- Data of a PAGE_LOST record: page, class, pool index (R342). -/
def Hw.lostData (s : Hw) (p cls : Nat) : List Byte := dat [p, cls, (s.poolIndex p).getD (2 ^ 64 - 1)]

/-- The PAGE_LOST record of a page. -/
def Hw.lostRec (s : Hw) (p : Nat) (out : Outc) (related : Option Nat) : RecIn :=
  { cls := 0x15, outcome := out, address := s.pageAddr p, data := s.lostData p (s.home p).cls, related := related }

/-- A residency change of an expert is decided (R283). -/
def Hw.expertChange (s : Hw) (r : ResRec) (p : Nat) (usable : Bool) : Hw :=
  { s with tng := { s.tng with changes := s.tng.changes ++ [(s.queueOf p, r.layer, r.expert, usable)] } }

/-- A lost page of a key-value page: its frames are retired, and prefix nodes whose group array holds it are evicted
(R338). -/
def Hw.loseKv (s : Hw) (p : Nat) : Hw :=
  match s.kv.sec, s.poolIndex p with
  | some k, some i =>
    let locs := ((s.poolPages k i).filter fun q => decide ((s.home q).tier = 1)).map fun q => (s.home q).location
    let s := { s with kv := { s.kv with retired := s.kv.retired ++ locs.filter fun l => !s.kv.retired.contains l } }
    let n := 2 ^ s.kv.bBits * 4
    ((List.range n).filter fun x => s.nodeValid x && (s.groupPages k x).contains i).foldl (fun s x => s.evictNode k x) s
  | _, _ => s

/-- A lost weight page, by its kind (R337): an expert's, a weight slot's, or another, for which the beat that read it is
held as a recovery. -/
def Hw.loseWeight (s : Hw) (p serial : Nat) (read : Option (Nat × Nat)) : Hw :=
  match s.wslotOf p with
  | some w => s.failFill w
  | none =>
    let s := if (s.imageWith p).isSome then { s with flt := { s.flt with refetch := s.flt.refetch ++ [(p, serial)] } } else s
    match s.ownerOf p, read with
    | some r, _ => s.expertChange r p false
    | none, none => s
    | none, some b =>
      let s := s.openRecovery b (s.lostRec p .inProgress (some serial)) s.now
      match s.flt.recovery with
      | some v => { s with flt := { s.flt with recovery := some { v with page := some p } } }
      | none => s

/-- A page becomes LOST: orders that read it are abandoned, TNG_LOST is raised, PAGE_LOST is recorded, and recovery begins
by its data class (R288, R336). `read` names the beat that read it. -/
def Hw.pageLost (s : Hw) (p : Nat) (read : Option (Nat × Nat)) : Hw :=
  let h := s.home p
  if decide (h.state = .unmapped) || decide (h.state = .lost) then s
  else
    let s := (s.tng.orders.filter fun o => decide (o.source = some p)).foldl (fun s o => s.dropOrder o stAbandoned) s
    let s := s.onHome p fun h => { h with state := .lost }
    let s := ({ s with tng := { s.tng with lost := true, lostCnt := s.tng.lostCnt + 1 } }).raise 23
    let n := s.flt.nextSerial
    let refetches := decide (h.cls = 1) && (s.imageWith p).isSome
    let s := s.record (s.lostRec p (if refetches then .inProgress else .reported) none)
    match h.cls with
    | 1 => s.loseWeight p n read
    | 2 => s.loseKv p
    | 3 => s.uncontain { cls := 0x17, address := s.pageAddr p, data := dat [p], related := some n }
    | _ => s

/-- A refetched page is HOME again: the final record names the first one, and an expert whose pages are all HOME in tier 1
is to be usable (R283, R337, R342). -/
def Hw.refetchDone (s : Hw) (e : Nat × Nat) : Hw :=
  match s.refetchPage e.1 with
  | none => s.drawn
  | some s =>
    let s := { s with flt := { s.flt with refetch := s.flt.refetch.filter fun x => decide (x ≠ e) } }
    let s := s.record (s.lostRec e.1 .recovered (some e.2))
    match s.ownerOf e.1 with
    | some r => if s.allHome1 r then s.expertChange r e.1 true else s
    | none => s

/-- Refetches that no beat waits for are done by the next stroke boundary. -/
def Hw.refetchBoundary (s : Hw) : Hw :=
  let held := s.flt.recovery.bind (·.page)
  (s.flt.refetch.filter fun e => decide (some e.1 ≠ held)).foldl (fun s e => s.refetchDone e) s

/-- The flash translation layer reports an uncorrectable read of a logical page: the page whose home it is, is LOST
(R288, R289). -/
def execFlashUncorrectable (logicalPage : W32) (s : State) : Out :=
  s.act fun s => (match s.tng.homes.find? fun e => decide (e.2.tier = 2) && decide (e.2.state ≠ .unmapped)
      && decide (e.2.location.toNat = logicalPage.toNat) with
    | some e => s.pageLost e.1 none
    | none => s)

/-- A refetch that has not made the page HOME within 2 ms makes the fault uncontained (R337). -/
def execRefetchTimeout (page : BitVec 31) (s : State) : Out :=
  s.act fun s => (let p := page.toNat
    match s.flt.refetch.find? fun e => decide (e.1 = p) with
    | none => s
    | some e =>
      let s := { s with flt := { s.flt with refetch := s.flt.refetch.filter fun x => decide (x ≠ e) } }
      s.uncontain (s.lostRec p .uncontained (some e.2)))

/-! ## Persistent lines (R221, R326) -/

/-- A line that failed again at the same address: in a migrating page the page is LOST; with a training billet a line of
the direct window is stash; anywhere else it is uncontained (R221, R326; which direct-window lines are stash is not
stated, DESIGN CHOICE, log 28). -/
def Hw.persistentLine (s : Hw) (f w line : Nat) (b : Nat × Nat) : Hw :=
  let o := s.bondedAt f w (line * 64)
  if o ≥ migBase then s.pageLost (pageOf o) (if s.uncommittedBeat b then some b else none)
  else if s.bwdSec.isSome then s.stashLost f w line
  else s.uncontain { cls := 0x03, loc := locField f, beat := b.2, address := bonded f w (line * 64), data := dat [f, w, line] }

/-- The port reads a failing line again: it is good and the transfer ends, or it is persistent (R326). The transfer then
ends with what the line gives: the data as read for stash, all-ones for a LOST page. -/
def execLineReread (f : FieldIx) (wafer : Bool) (line : BitVec 29) (noise : LineNoise) (s : State) : Out :=
  s.act fun s => (let waits (x : CoreState) : Bool := match x.portQ with
      | o :: _ => o.reread && o.takes wafer line.toNat
      | [] => false
    match s.cores.find? fun e => decide (coreField e.1 = f.val) && waits e.2 with
    | none => s
    | some (c, x) => match x.portQ with
      | [] => s
      | o :: _ =>
        let (seen, ok) := s.lineSeen f.val (b2n wafer) line.toNat noise
        let s := if ok then s else s.persistentLine f.val (b2n wafer) line.toNat (o.stroke, o.beat)
        s.portDone c o fun l => if l = line.toNat ∧ !s.lineLost f.val (b2n wafer) l then seen else s.lineRead f.val (b2n wafer) l)

/-! ## Span answers (R288, R310, R313, R315) -/

/-- Pages whose lender has answered TARGET_DEAD are LOST (R288). -/
def Hw.reapLoans (s : Hw) : Hw :=
  let ps := s.spn.deadLoans
  ps.foldl (fun s p => s.pageLost p none) { s with spn := { s.spn with deadLoans := [] } }

/-- A request to a lender ends: an atomic's page takes the new value, and TARGET_DEAD loses the page (R288, R291). -/
def Hw.loanDone (s : Hw) (r : SpanReq) (status : Nat) (old : W64) : Hw :=
  let off := addrOff r.address
  if !s.ownRank (addrRank r.address) || (s.loanAddr off).isNone then s
  else if status = 1 then s.pageLost (pageOf off) none
  else if decide (status = 0) && isAtomic r.op then
    s.memWrite off (leBytes (atomicBytes r.op) (atomicResult r.op old r.operand r.compare).toNat)
  else s

/-- A SPAN_RSP with an engine's tag as it stands in a peer link's buffer (R302). -/
def isSpanRsp (engine : Nat) (tag : W32) (bs : List Byte) : Bool :=
  decide (at' bs 16 4 = tag.toNat) && decide (bits (at' bs 16 8) 42 36 = engine) && !bit (at' bs 16 8) 43

/-- A span response completes its request and leaves the buffer it stood in (R300, R310). -/
def execSpanRsp (engine : Fin 96) (tag : W32) (status : BitVec 4) (data : List Byte) (old : W64) (s : State) : Out :=
  s.act fun s => (let s := s.popAny 1 (isSpanRsp engine.val tag)
    match (s.spanEng engine.val).byTag tag with
    | none => s
    | some r => (((s.spanComplete engine.val r status.toNat data old).loanDone r status.toNat old).runEngine engine.val
        false).reapLoans)

/-- A request ends with TARGET_DEAD (R313). -/
def Hw.spanDead (s : Hw) (e : Nat) (r : SpanReq) : Hw := (s.spanComplete e r 1 [] 0).loanDone r 1 0

/-- SPN_CFG.timeout runs out: a request completes with TARGET_DEAD (R313); a rank whose sweep times out completes so every request
that it still owes an answer (R316); a fence waits no longer and completes with the highest status so far, a request still open
counting as TARGET_DEAD (R317; DESIGN CHOICE, log 218). -/
def execSpanTimeout (engine : Fin 96) (due : SpanDue) (s : State) : Out :=
  s.act fun s => (match due with
    | .request tag => match (s.spanEng engine.val).byTag tag with
      | none => s
      | some r => ((s.spanDead engine.val r).runEngine engine.val false).reapLoans
    | .sweep rank epoch =>
      let x := s.spanEng engine.val
      let mine (w : Sweep) : Bool := decide (w.rank = rank.toNat) && decide (w.epoch = epoch.toNat)
      if !x.sweeps.any mine then s
      else
        let s := s.setSpanEng engine.val { x with sweeps := x.sweeps.filter fun w => !mine w }
        let open' := x.reqs.filter fun r => r.left && decide (r.via = rank)
        ((open'.foldl (fun s r => s.spanDead engine.val r) s).runEngine engine.val false).reapLoans
    | .fence c order =>
      let x := s.spanEng engine.val
      match x.fences.find? fun f => decide (f.core = c.toNat) && decide (f.order = order) with
      | none => s
      | some f =>
        let s := s.setSpanEng engine.val { x with fences := x.fences.map fun g =>
          if g = f then { f with covers := [], worst := max f.worst 1 } else g }
        s.runFences engine.val)

/-- A held FLAG store leaves once every earlier store and atomic of its core has completed (R315). -/
def execFlagStoreRelease (c : CoreId) (s : State) : Out := s.act fun s => (s.runEngine (engineOf c.toNat) true).reapLoans

end Sys2Proof.Machine
end

