-- ==== Sys2Proof/Machine/CoreCtl.lean ====
section
/-!
DEFINITION. The core's control, scalar, descriptor and synchronisation classes (R61, R74, R75, R84-R86).
-/
namespace Sys2Proof.Machine

/-! ## CTL -/

/-- NOP does nothing (R84). -/
def execNop (c : CoreId) (i : Ins) (s : State) : Out :=
  s.act fun s => (s.issue c.toNat 0 i fun x => guarded i {} true (.done x))

/-- Where a branch goes: imm [8:0] (PRESUMED, log 11). -/
def insTarget (i : Ins) : Nat := i.imm.toNat % 512

/-- BR branches (R84). -/
def execBr (c : CoreId) (i : Ins) (s : State) : Out :=
  s.act fun s => (s.issue c.toNat 0 i fun x => guarded i { imm := 0x1FF } true (.jump x (insTarget i)))

/-- BRZ branches if the scalar src_a is zero (R84). -/
def execBrz (c : CoreId) (i : Ins) (s : State) : Out :=
  s.act fun s => (s.issue c.toNat 0 i fun x => guarded i { srcA := true, imm := 0x1FF } (isS i.srcA)
    (if x.sreg i.srcA.toNat = 0 then .jump x (insTarget i) else .done x))

/-- BRNZ branches if the scalar src_a is not zero (R84). -/
def execBrnz (c : CoreId) (i : Ins) (s : State) : Out :=
  s.act fun s => (s.issue c.toNat 0 i fun x => guarded i { srcA := true, imm := 0x1FF } (isS i.srcA)
    (if x.sreg i.srcA.toNat = 0 then .done x else .jump x (insTarget i)))

/-- The tokens that imm [7:1] names all have count 0 (R85). -/
def CoreState.toksClear (x : CoreState) (imm : W32) : Bool :=
  (List.range 8).all fun t => decide (t = 0) || !imm.getLsbD t || decide (nget 0 x.toks t = 0)

/-- WAIT waits until every named token count is 0 (R85). -/
def execWait (c : CoreId) (i : Ins) (s : State) : Out :=
  s.act fun s => (s.issue c.toNat 0 i fun x => guarded i { imm := 0xFE } true (if x.toksClear i.imm then .done x else .wait))

/-- END closes the running task, and the next ready task starts (R75). -/
def execEndTask (c : CoreId) (i : Ins) (s : State) : Out :=
  s.act fun s => (s.fetch c.toNat 0 i fun s =>
    if insClean i {} then s.setCore c.toNat ((s.core c.toNat).endTask s.now) else s.programError c.toNat 0x01)

/-! ## SCL -/

/-- Integer operations on 32-bit scalars, modulo 2^32 (R84; names PRESUMED, log 11). A shift by 32 or more, and an
operation the manual does not name, give a free value. -/
def aluResult (op : AluOp) (a b : W32) : W32 :=
  match op with
  | .add => a + b
  | .sub => a - b
  | .mul => a * b
  | .and => a &&& b
  | .or => a ||| b
  | .xor => a ^^^ b
  | .shl => if b.toNat < 32 then a <<< b.toNat else Config.aluOther 60 a b
  | .shr => if b.toNat < 32 then a >>> b.toNat else Config.aluOther 61 a b
  | .sar => if b.toNat < 32 then a.sshiftRight b.toNat else Config.aluOther 62 a b
  | .other code => Config.aluOther code a b

/-- Integer ALU operation on scalar registers (R84). -/
def execScalarAlu (c : CoreId) (op : AluOp) (i : Ins) (s : State) : Out :=
  s.act fun s => (s.issue c.toNat 1 i fun x => guarded i { dst := true, srcA := true, srcB := true }
    (isS i.dst && isS i.srcA && isS i.srcB)
    (.done (x.setS i.dst.toNat (aluResult op (x.sreg i.srcA.toNat) (x.sreg i.srcB.toNat)))))

/-- LI loads the immediate (R84). -/
def execLi (c : CoreId) (i : Ins) (s : State) : Out :=
  s.act fun s => (s.issue c.toNat 1 i fun x => guarded i { dst := true, imm := 0xFFFFFFFF } (isS i.dst)
    (.done (x.setS i.dst.toNat i.imm)))

/-- The control words of a core (R86). -/
def Hw.controlWord (s : Hw) (c n : Nat) : W32 :=
  match n with
  | 0 => BitVec.ofNat 32 c
  | 1 => BitVec.ofNat 32 s.stk.beat
  | 2 => s.stk.num.setWidth 32
  | 3 => (s.core c).srSeed
  | 4 => s.routeEpoch.setWidth 32
  | _ => BitVec.ofNat 32 (s.now - s.stk.beatStart)

/-- CSRR reads a control word; an index above 5 is program error 0x0A (R86). -/
def execCsrr (c : CoreId) (i : Ins) (s : State) : Out :=
  s.act fun s => (s.issue c.toNat 1 i fun x => guarded i { dst := true, imm := 0xFFFFFFFF } (isS i.dst)
    (if i.imm.toNat > 5 then .error 0x0A else .done (x.setS i.dst.toNat (s.controlWord c.toNat i.imm.toNat))))

/-- Seed the generator of stochastic rounding (R111). -/
def CoreState.seed (x : CoreState) (w : W32) : CoreState := { x with srSeed := w, srState := srSeedState w }

/-- CSRW writes a control word: only SR_SEED may be written, and a write reseeds the generator (R86, R111). -/
def execCsrw (c : CoreId) (i : Ins) (s : State) : Out :=
  s.act fun s => (s.issue c.toNat 1 i fun x => guarded i { srcA := true, imm := 0xFFFFFFFF } (isS i.srcA)
    (if i.imm.toNat = 3 then .done (x.seed (x.sreg i.srcA.toNat)) else .error 0x0A))

/-! ## DSC -/

/-- Bit position and width of a descriptor field (R57). -/
def fieldPlace : DscField → Nat × Nat
  | .base => (0, 16) | .rowStride => (16, 16) | .rows => (32, 16) | .cols => (48, 16)
  | .sideBase => (64, 16) | .sideStride => (80, 16) | .blkAxis => (101, 1)

/-- Replace `w` bits of a descriptor from bit `p`. -/
def dPut (d : Desc) (p w v : Nat) : Desc :=
  let mask : Desc := BitVec.ofNat 128 ((2 ^ w - 1) <<< p)
  (d &&& ~~~ mask) ||| BitVec.ofNat 128 ((v % 2 ^ w) <<< p)

/-- SET builds a descriptor field other than fmt from the immediate or the scalar src_a (R61). -/
def execSet (c : CoreId) (fld : DscField) (fromScalar : Bool) (i : Ins) (s : State) : Out :=
  s.act fun s => (s.issue c.toNat 2 i fun x =>
    let (p, w) := fieldPlace fld
    let v := if fromScalar then (x.sreg i.srcA.toNat).toNat else i.imm.toNat
    guarded i (if fromScalar then { dst := true, srcA := true } else { dst := true, imm := 0xFFFFFFFF })
      (!fromScalar || isS i.srcA) (.done (x.setD i.dst.toNat (dPut (x.dreg i.dst.toNat) p w v))))

/-- SETF writes a descriptor's fmt from the immediate (R61). -/
def execSetf (c : CoreId) (i : Ins) (s : State) : Out :=
  s.act fun s => (s.issue c.toNat 2 i fun x => guarded i { dst := true, imm := 0x1F } true
    (.done (x.setD i.dst.toNat (dPut (x.dreg i.dst.toNat) 96 5 i.imm.toNat))))

/-- ADDB adds the scalar src_a and the immediate to a descriptor's base, modulo 2^16 (R84). -/
def execAddb (c : CoreId) (i : Ins) (s : State) : Out :=
  s.act fun s => (s.issue c.toNat 2 i fun x => guarded i { dst := true, srcA := true, imm := 0xFFFFFFFF } (isS i.srcA)
    (.done (x.setD i.dst.toNat (dPut (x.dreg i.dst.toNat) 0 16
      (dBase (x.dreg i.dst.toNat) + (x.sreg i.srcA.toNat).toNat + i.imm.toNat)))))

/-- The SRAM address of LDD and STD: scalar src_a plus the immediate (PRESUMED, log 11). -/
def insSramAddr (i : Ins) (x : CoreState) (r : BitVec 5) : Nat := (x.sreg r.toNat + i.imm).toNat

/-- LDD loads a whole descriptor from SRAM, fmt included (R61); it waits for what is still owed there (R85). -/
def execLdd (c : CoreId) (i : Ins) (s : State) : Out :=
  s.act fun s => (s.issueRead c.toNat 2 i fun x => guarded i { dst := true, srcA := true, imm := 0xFFFFFFFF } (isS i.srcA)
    (let a := insSramAddr i x i.srcA
     if a + 16 > sramSize then .error 0x03
     else if spansMeet (s.owed c.toNat) [(a, 16)] then .wait
     else .done (x.setD i.dst.toNat (BitVec.ofNat 128 (leNat (ngetList 0 x.sram a 16))))))

/-- What STD answers: the descriptor src_a goes to SRAM at the scalar src_b plus the immediate (R84). -/
def stdAnswer (i : Ins) (x : CoreState) : Issue :=
  guarded i { srcA := true, srcB := true, imm := 0xFFFFFFFF } (isS i.srcB)
    (let a := insSramAddr i x i.srcB
     if a + 16 > sramSize then .error 0x03
     else .done { x with sram := nputList 0 x.sram a (leBytes 16 (x.dreg i.srcA.toNat).toNat) })

/-- STD stores a descriptor; off a multiple of 8 B the write reads the words at its ends first (R56, R84). -/
def execStd (c : CoreId) (i : Ins) (s : State) : Out :=
  s.act fun s => (if wholeSpan (insSramAddr i (s.core c.toNat) i.srcB, 16) then s.issue c.toNat 2 i (stdAnswer i)
    else s.issueRead c.toNat 2 i (stdAnswer i))

/-! ## SYN -/

/-- TRIG triggers the software task that imm [4:0] names (R74). -/
def execTrig (c : CoreId) (i : Ins) (s : State) : Out :=
  s.act fun s => (s.fetch c.toNat 11 i fun s =>
      if !insClean i { imm := 0x1F } then s.programError c.toNat 0x01
      else
        let t := i.imm.toNat
        let w := (s.core c.toNat).task t
        let s := s.onCore c.toNat CoreState.next
        if taskValid w && decide (taskKind w = 2) then s.triggerTasks c.toNat [t] else s)

end Sys2Proof.Machine
end

