-- ==== Sys2Proof/Machine/Billet.lean ====
section
/-!
DEFINITION. Reading a billet from its bytes: the header and directory (R37), and the twelve sections, each laid out as its
own chapter gives (R30, R45, R88, R89, R91, R130, R138, R161, R162, R170, R189, R228, R230-R232, R258, R270, R292, R332,
R358). A table that reaches outside its section reads as empty and clears the section's `inside`.
-/
namespace Sys2Proof.Machine

/-! ## Tables of records -/

/-- `n` records of `size` bytes from an offset lie inside a section. -/
def fits (bs : List Byte) (off n size : Nat) : Bool := decide (off + n * size ≤ bs.length)

/-- Those records; none where they reach outside. -/
def recs (bs : List Byte) (off n size : Nat) : List (List Byte) :=
  if fits bs off n size then (List.range n).map fun i => sub bs (off + i * size) size else []

/-- Numbers of `size` bytes in a row. -/
def nums (bs : List Byte) (off n size : Nat) : List Nat := (recs bs off n size).map leNat

/-- A number of eight bytes as a register value. -/
def word64 (bs : List Byte) (off : Nat) : W64 := BitVec.ofNat 64 (at' bs off 8)
def word32 (bs : List Byte) (off : Nat) : W32 := BitVec.ofNat 32 (at' bs off 4)

/-- The next multiple of 8. -/
def up8 (n : Nat) : Nat := (n + 7) / 8 * 8

/-! ## Stroke section (R30, R45) -/

def parseBeat (w : Nat) : Beat :=
  { worst := bits w 31 16, post := bit w 10, intake := bit w 9, reserve := bit w 8, length := bits w 7 0 }

def parseStroke (bs : List Byte) : StrokeSec :=
  let h := at' bs 0 8
  let n := bits h 30 19 + 1
  let w := at' bs (8 + 8 * n) 8
  { period := bits h 17 0, bare := bit h 18, intakeCap := bits h 47 31, beats := (nums bs 8 n 8).map parseBeat
    intakeChannel := bits w 16 13, coreCount := bits w 12 0
    intakeCores := (nums bs (24 + 8 * n) (bits w 12 0) 4).map fun v => bits v 20 0 }

/-! ## Core section (R88, R89, R91) -/

def parseImage (bs : List Byte) (o : Nat) : Image :=
  let ni := at' bs o 2
  let nt := at' bs (o + 2) 1
  let nn := at' bs (o + 4) 4
  let nf := at' bs (o + 12) 2
  let iOff := o + 32 + 8 * nt
  let fOff := iOff + 8 * ni
  let nOff := o + up8 (fOff + 4 * nf - o)
  let inits := nums bs nOff nn 8
  { instrCount := ni, taskCount := nt, routeSet := at' bs (o + 8) 4
    tasks := (nums bs (o + 32) nt 8).map (BitVec.ofNat 64), instrs := (nums bs iOff ni 8).map (BitVec.ofNat 64)
    formats := (recs bs fOff nf 4).map fun r => (at' r 0 2, at' r 2 1, at' r 3 1)
    inits := inits.map fun w => (bits w 15 0, sub bs (o + bits w 63 32) (bits w 31 16))
    inside := fits bs o 32 1 && fits bs nOff nn 8 &&
      inits.all fun w => decide (o + bits w 63 32 + bits w 31 16 ≤ bs.length) }

def parseCore (bs : List Byte) : CoreSec :=
  let ni := at' bs 4 4
  let mOff := at' bs 8 8
  let nm := at' bs 0x10 8
  let iOff := at' bs 0x18 8
  let aOff := at' bs 0x20 8
  let na := at' bs 0x28 8
  { imageCount := ni, map := (nums bs mOff nm 8).map fun w => (bits w 20 0, bits w 41 21)
    images := (nums bs iOff ni 8).map fun o => parseImage bs o
    alts := (nums bs aOff na 8).map fun w => { failed := bits w 20 0, spare := bits w 41 21, detour := bits w 63 42 }
    inside := fits bs 0 64 1 && fits bs mOff nm 8 && fits bs iOff ni 8 && fits bs aOff na 8 }

/-! ## Fabric section (R130) -/

def parseDetour (bs : List Byte) (o : Nat) : Detour :=
  let h := at' bs o 8
  { park := decide (bits h 33 32 = 1), field := bits h 39 34
    entries := (recs bs (o + 8) (bits h 31 0) 16).map fun r => (bits (at' r 0 8) 20 0, bits (at' r 0 8) 28 21, word64 r 8) }

def parseFabric (bs : List Byte) : FabricSec :=
  let nr := at' bs 4 4
  let rOff := at' bs 8 8
  let nd := at' bs 0x10 4
  let dOff := at' bs 0x18 8
  let fOff := at' bs 0x20 8
  let rs := nums bs rOff nr 8
  let ds := nums bs dOff nd 8
  { routeSets := rs.map fun o => (nums bs (o + 8) (at' bs o 8) 8).map (BitVec.ofNat 64)
    detours := ds.map fun o => parseDetour bs o
    fieldDetour := nums bs fOff 48 4
    inside := fits bs 0 48 1 && fits bs rOff nr 8 && fits bs dOff nd 8 && fits bs fOff 48 4
      && rs.all (fun o => fits bs o 8 1 && fits bs (o + 8) (at' bs o 8) 8 && decide (1 ≤ at' bs o 8) && decide (at' bs o 8 ≤ 256))
      && ds.all fun o => fits bs o 8 1 && fits bs (o + 8) (at' bs o 4) 16 }

/-! ## Arbiter section (R138) -/

def parseArbEntry (bs : List Byte) (o : Nat) : ArbEntry × Nat × Bool :=
  let w := at' bs o 8
  let ns := bits w 26 19 + 1
  let nt := bits w 33 27
  let tOff := o + 16 + up8 ns
  ({ field := bits w 5 0, kind := bits w 8 6, inst := bits w 17 9, fixed := bit w 18, slots := sub bs (o + 16) ns
     thresh := at' bs (o + 8) 4
     threshRecs := (nums bs tOff nt 8).map fun v => (bits v 6 0, bits v 63 32) },
   tOff + 8 * nt, fits bs tOff nt 8)

def parseArbEntries (bs : List Byte) : Nat → Nat → List ArbEntry × Bool
  | 0, _ => ([], true)
  | n + 1, o =>
    if fits bs o 16 1 then
      let (e, next, ok) := parseArbEntry bs o
      let (es, oks) := parseArbEntries bs n next
      (e :: es, ok && oks)
    else ([], false)

def parseArb (bs : List Byte) : ArbSec :=
  let (es, ok) := parseArbEntries bs (min (at' bs 4 4) (bs.length + 1)) (at' bs 8 8)
  { entries := es, inside := ok && fits bs 0 32 1 }

/-! ## Herder section (R161, R162, R170) -/

def parseLayer (r : List Byte) : Layer :=
  let b (o : Nat) := at' r o 1
  let sc := b 4
  { layer := b 0, k := b 1, e := bits (at' r 2 2) 13 0 + 1, score := bits sc 1 0, normalise := bit sc 2, biasMode := bit sc 3
    autoBias := bit sc 4, logitFormat := bits sc 6 5, stash := bit sc 7, g := 2 ^ bits (b 5) 2 0, t := b 6, terms := b 7
    routeScale := word32 r 8, capShare := at' r 0x0C 2, overflow := bits (b 0x0E) 1 0, nextDepth := b 0x0F
    shared := at' r 0x10 2, spillCap := at' r 0x12 2, defer := bit (b 0x14) 0, capture := bit (b 0x14) 1, subDepth := b 0x15
    maxDefer := b 0x16, tokenChannel := bits (b 0x17) 3 0, expertChannel := bits (b 0x17) 7 4, deferSlots := at' r 0x18 2
    pfMax := at' r 0x1A 2, pfThreshold := at' r 0x1C 2, routeBeat := at' r 0x1E 2, biasStep := word32 r 0x20
    biasLimit := word32 r 0x24, tableOff := at' r 0x28 8, succOff := at' r 0x30 8, stashOff := at' r 0x38 8
    reservedZero := decide (bits (at' r 2 2) 15 14 = 0) && decide (bits (b 5) 7 3 = 0) && decide (bits (b 0x0E) 7 2 = 0)
      && decide (bits (b 0x14) 7 2 = 0) }

def parseHerder (bs : List Byte) : HerderSec :=
  let nl := at' bs 4 4
  let lOff := at' bs 8 8
  let fOff := at' bs 0x10 8
  let nf := at' bs 0x18 4
  let wOff := at' bs 0x30 8
  { layers := (recs bs lOff nl 64).map parseLayer
    flags := (nums bs fOff nf 8).map fun w => { threshold := BitVec.ofNat 32 (bits w 31 0), atMost := bit w 32, enable := bit w 33 }
    flagCount := nf, layerCount := nl, extMax := at' bs 0x1C 4, stagingOff := at' bs 0x20 8, stagingSlots := at' bs 0x28 4
    tokenCap := at' bs 0x2C 4, tokenOff := at' bs 0x38 8, waypoints := nums bs wOff 2304 4
    inside := fits bs 0 64 1 && fits bs lOff nl 64 && fits bs fOff nf 8 && fits bs wOff 2304 4
      && (nums bs fOff nf 8).all fun w => decide (bits w 63 34 = 0) }

/-! ## KV section (R189) -/

/-- Three core lists of a field from an offset: attention, merge, root, each a count of 8 B and its core IDs of 4 B, padded
to 8 B (the manual names the lists and gives no layout: DESIGN CHOICE, log 29). -/
def parseCoreList (bs : List Byte) (o : Nat) : List Nat × Nat × Bool :=
  let n := at' bs o 8
  ((nums bs (o + 8) n 4).map fun v => bits v 20 0, up8 (o + 8 + 4 * n), fits bs o 8 1 && fits bs (o + 8) n 4)

def parseCoreLists (bs : List Byte) : Nat → Nat → List (List Nat × List Nat × List Nat) × Bool
  | 0, _ => ([], true)
  | n + 1, o =>
    let (a, o1, k1) := parseCoreList bs o
    let (m, o2, k2) := parseCoreList bs o1
    let (r, o3, k3) := parseCoreList bs o2
    let (rest, k) := parseCoreLists bs n o3
    ((a, m, r) :: rest, k1 && k2 && k3 && k)

def parseKv (bs : List Byte) : KvSec :=
  let na := at' bs 4 2
  let lOff := at' bs 0x28 8
  let sOff := at' bs 0x30 8
  let rOff := at' bs 0x40 8
  let nm := at' bs 0x10 2
  let lists := parseCoreLists bs 48 (at' bs 0x38 8)
  let k : KvSec :=
    { a := na, kvHeads := at' bs 6 1, group := at' bs 7 1, headDim := at' bs 8 2, kFmt := at' bs 0x0A 1, vFmt := at' bs 0x0B 1
      pFmt := at' bs 0x0C 1, frames := at' bs 0x0D 1, parts := at' bs 0x0E 1, placement := bits (at' bs 0x0F 1) 1 0
      members := nm, member := at' bs 0x12 2, stride := at' bs 0x14 4, scale := word32 bs 0x18, seqTokens := at' bs 0x1C 2
      walkBeat := at' bs 0x1E 2, maxLen := at' bs 0x20 4, itemsCap := at' bs 0x24 4
      layers := (nums bs lOff na 8).map fun w =>
        { layer := bits w 7 0, capture := bit w 8, attendBeat := bits w 20 9, mergeBeat := bits w 32 21 }
      slices := [], coreLists := lists.1, ranks := nums bs rOff nm 2, lenOff := at' bs 0x48 8, workOff := at' bs 0x50 8
      inside := true }
  let n := if nm = 0 ∨ k.stride = 0 then 0 else k.headsLocal * k.pagesMax k.maxLen
  { k with slices := if fits bs sOff n 1 then sub bs sOff n else []
           inside := fits bs 0 128 1 && fits bs lOff na 8 && fits bs sOff n 1 && fits bs rOff nm 2 && lists.2
             && decide (bits (at' bs 0x0F 1) 7 2 = 0) && zeros (sub bs 0x58 40)
             && (nums bs lOff na 8).all fun w => decide (bits w 63 33 = 0) }

/-! ## Backward and reduction sections (R228, R230-R232) -/

def parseBwd (bs : List Byte) : BwdSec :=
  let g := at' bs 5 1
  let segs := at' bs 8 4
  let gOff := at' bs 0x28 8
  let ng := at' bs 0x30 4
  let mOff := at' bs 0x38 8
  { arrangement := at' bs 4 1, fp16 := bit g 0, stochastic := bit g 1, segCount := segs, slotCount := at' bs 0x0C 4
    stepOff := at' bs 0x10 8, maskOff := at' bs 0x18 8, slotOff := at' bs 0x20 8
    products := (nums bs gOff ng 8).map fun w => { instr := bits w 15 0, gradIsB := bit w 16, image := bits w 47 17 }
    maskInit := if fits bs mOff ((segs + 7) / 8) 1 then sub bs mOff ((segs + 7) / 8) else []
    reservedZero := decide (bits g 7 2 = 0) && zeros (sub bs 6 2) && zeros (sub bs 0x34 4)
      && (nums bs gOff ng 8).all fun w => decide (bits w 63 48 = 0)
    inside := fits bs 0 64 1 && fits bs gOff ng 8 && fits bs mOff ((segs + 7) / 8) 1 }

def parseBucket (r : List Byte) : Bucket :=
  let x := at' r 6 1
  { values := at' r 0 4, engine := at' r 4 1, group := at' r 5 1, shardMode := bit x 0, bellows := bit x 1, port := bits x 5 2
    notify := bit x 6, channel := bits (at' r 7 1) 3 0, dest := word64 r 8, notifyCore := bits (at' r 0x10 4) 20 0 }

def parseGroups (bs : List Byte) : Nat → Nat → List RedGroup × Bool
  | 0, _ => ([], true)
  | n + 1, o =>
    let h := at' bs o 8
    let m := bits h 15 0
    if fits bs o 16 1 && fits bs (o + 16) m 4 then
      let (gs, ok) := parseGroups bs n (up8 (o + 16 + 4 * m))
      let ok := ok && decide (bits h 63 32 = 0) && zeros (sub bs (o + 8) 8)
      ({ self := bits h 31 16, members := (nums bs (o + 16) m 4).map fun w => (bits w 15 0, bits w 31 16) } :: gs, ok)
    else ([], false)

def parseRed (bs : List Byte) : RedSec :=
  let nb := at' bs 4 4
  let bOff := at' bs 8 8
  let ng := at' bs 0x10 4
  let groups := parseGroups bs (min ng 257) (at' bs 0x18 8)
  { buckets := (recs bs bOff nb 32).map parseBucket, groups := groups.1
    deadline := if at' bs 0x14 1 = 0 then 2 else at' bs 0x14 1, areaOff := at' bs 0x20 8, cplOff := at' bs 0x28 8
    cplEntries := at' bs 0x30 4, bucketCount := nb, groupCount := ng
    inside := fits bs 0 64 1 && fits bs bOff nb 32 && groups.2 && zeros (sub bs 0x15 3) && zeros (sub bs 0x34 12)
      && (recs bs bOff nb 32).all fun r => decide (bits (at' r 6 1) 7 7 = 0) && decide (bits (at' r 7 1) 7 4 = 0)
        && decide (bits (at' r 0x10 4) 31 21 = 0) && zeros (sub r 0x14 12) }

/-! ## Weight section (R258, R270) -/

def parseTensorDef (r : List Byte) : TensorDef :=
  let x := at' r 6 1
  { id := at' r 0 4, tier := at' r 4 1, field := at' r 5 1, wafer := bit x 0, written := bit x 1, pages := at' r 8 4
    tileCount := at' r 0x0C 4, tileFirst := at' r 0x10 8 }

def parseTile (r : List Byte) : Tile :=
  { tensor := at' r 0 4, fmt := at' r 4 1, blkAxis := bit (at' r 5 1) 0, rowStride := at' r 6 2, row0 := at' r 8 4
    col0 := at' r 0x0C 4, rows := at' r 0x10 4, cols := at' r 0x14 4, destOff := at' r 0x18 8, sideOff := at' r 0x20 8
    sideStride := at' r 0x28 2 }

def parseWgt (bs : List Byte) : WgtSec :=
  let nt := at' bs 4 4
  let na := at' bs 0x1C 4
  let tOff := at' bs 8 8
  let lOff := at' bs 0x10 8
  let nl := at' bs 0x18 4
  let fOff := at' bs 0x48 8
  let nf := at' bs 0x50 4
  { tensorCount := nt, tensors := (recs bs tOff (nt + na) 32).map parseTensorDef, tiles := (recs bs lOff nl 48).map parseTile
    adapterTensors := na, ctxOff := at' bs 0x20 8, dtOff := at' bs 0x28 8, dtSize := at' bs 0x30 4, trainMask := word64 bs 0x38
    bindOff := at' bs 0x40 8
    fills := (nums bs fOff nf 8).map fun w => { slot := bits w 7 0, layer := bits w 15 8, port := bits w 19 16 }
    inside := fits bs 0 96 1 && fits bs tOff (nt + na) 32 && fits bs lOff nl 48 && fits bs fOff nf 8
    reservedZero := zeros (sub bs 0x34 4) && zeros (sub bs 0x54 12)
      && (recs bs tOff (nt + na) 32).all (fun r => decide (bits (at' r 6 1) 7 2 = 0) && zeros (sub r 7 1) && zeros (sub r 0x18 8))
      && (recs bs lOff nl 48).all (fun r => decide (bits (at' r 5 1) 7 1 = 0) && zeros (sub r 0x2A 6))
      && (nums bs fOff nf 8).all fun w => decide (bits w 63 20 = 0) }

/-! ## Tongs, recovery and thermal sections (R292, R332, R358) -/

def parsePlan (r : List Byte) : PlanEntry :=
  let a := at' r 0 8
  let b := at' r 8 8
  { first := bits a 30 0, count := bits a 62 31, tier := bits b 2 0, field := bits b 8 3, wafer := bits b 9 9
    fixed := bit b 10, cls := bits b 13 11 }

def parseTng (bs : List Byte) : TngSec :=
  let np := at' bs 4 4
  let pOff := at' bs 8 8
  let qOff := at' bs 0x10 8
  { plan := (recs bs pOff np 16).map parsePlan, pools := (nums bs qOff 96 8).map fun w => (bits w 18 0, bits w 38 19)
    resOff := at' bs 0x18 8, homeOff := at' bs 0x20 8, homePages := at' bs 0x28 4
    inside := fits bs 0 64 1 && fits bs pOff np 16 && fits bs qOff 96 8 && zeros (sub bs 0x2C 20)
      && (recs bs pOff np 16).all (fun r => decide (bits (at' r 0 8) 63 63 = 0) && decide (bits (at' r 8 8) 63 14 = 0))
      && (nums bs qOff 96 8).all fun w => decide (bits w 63 39 = 0) }

def parseRestore (r : List Byte) : Restore :=
  let a := at' r 0 8
  { beat := bits a 11 0, kind := bits a 14 12, target := bits a 30 15, count := bits a 46 31, word1 := word64 r 8 }

def parseRec (maps : Nat) (bs : List Byte) : RecSec :=
  let ni := at' bs 4 4
  let lOff := at' bs 8 8
  let bOff := at' bs 0x10 8
  let ls := recs bs lOff ni 16
  { imageCount := ni, lists := ls.map fun r => (recs bs (at' r 0 8) (at' r 8 4) 16).map parseRestore
    bases := nums bs bOff maps 8
    inside := fits bs 0 32 1 && fits bs lOff ni 16 && fits bs bOff maps 8
      && zeros (sub bs 0x18 8) && ls.all fun r => fits bs (at' r 0 8) (at' r 8 4) 16 && zeros (sub r 0x0C 4)
        && (recs bs (at' r 0 8) (at' r 8 4) 16).all fun x => decide (bits (at' x 0 8) 63 47 = 0) }

def parseRot (r : List Byte) : RotSet :=
  let n := at' r 0 1
  { members := (List.range (min n 16)).map fun i => at' r (8 + i) 1, memberCount := n, phases := at' r 1 1
    initial := at' r 2 1, minStrokes := at' r 4 2, idle := (List.range 16).map fun i => at' r (0x18 + 2 * i) 2 }

def parseThm (bs : List Byte) : ThmSec :=
  let n := at' bs 4 4
  let sOff := at' bs 8 8
  let pOff := at' bs 0x10 8
  { sets := (recs bs sOff n 64).map parseRot, setCount := n, powers := nums bs pOff 48 4, phaseOff := at' bs 0x18 8
    inside := fits bs 0 32 1 && fits bs sOff n 64 && fits bs pOff 48 4
      && (recs bs sOff n 64).all fun r => zeros (sub r 3 1) && zeros (sub r 6 2) && zeros (sub r 0x38 8) }

/-! ## Header and directory (R37) -/

/-- A directory entry: kind, offset and length of the section. -/
structure DirEntry where
  kind : Nat
  off : Nat
  len : Nat

/-- The magic and the billet format version (R37): version 1 is the one this stepping has, which no rule states (R10; DESIGN CHOICE,
log 213). -/
def billetMagic : Nat := 0x4C425A56
def billetVersionOk (bs : List Byte) : Bool := decide (at' bs 0 4 = billetMagic) && decide (at' bs 4 4 = 1)

/-- The directory of a billet. -/
def billetDir (bs : List Byte) : List DirEntry :=
  (recs bs (at' bs 0x18 8) (at' bs 0x10 4) 32).map fun r => { kind := at' r 0 4, off := at' r 8 8, len := at' r 0x10 8 }

/-- Each entry against the entries after it. -/
def pairwise {α : Type} (ok : α → α → Bool) : List α → Bool
  | [] => true
  | x :: xs => xs.all (ok x) && pairwise ok xs

/-- The layout of R37 holds for a billet of the length that ADMIT_BILLET names. -/
def billetLayoutOk (bs : List Byte) (len : Nat) : Bool :=
  let n := at' bs 0x10 4
  let d := billetDir bs
  decide (at' bs 8 8 = len) && decide (4 ≤ n) && decide (n ≤ 12) && fits bs (at' bs 0x18 8) n 32
    && d.all (fun e => decide (1 ≤ e.kind) && decide (e.kind ≤ 12) && decide (e.off % 64 = 0) && fits bs e.off e.len 1)
    && pairwise (fun a b => decide (a.kind ≠ b.kind) &&
        (decide (a.off + a.len ≤ b.off) || decide (b.off + b.len ≤ a.off))) d
    && [1, 2, 3, 10].all fun k => d.any fun e => decide (e.kind = k)

/-- The bytes of the section of a kind. -/
def sectionOf (bs : List Byte) (kind : Nat) : Option (List Byte) :=
  ((billetDir bs).find? fun e => decide (e.kind = kind)).map fun e => sub bs e.off e.len

/-- Every section but the stroke section carries a version that is shared (R37, R10): version 1 alone (DESIGN CHOICE, log 213). -/
def sectionVersionsOk (bs : List Byte) : Bool :=
  (billetDir bs).all fun e => decide (e.kind = 1) || decide (at' (sub bs e.off e.len) 0 4 = 1)

/-- A billet read from its bytes; an absent required section reads as an empty one. -/
def parseBillet (bs : List Byte) : Billet :=
  let sec (k : Nat) : List Byte := (sectionOf bs k).getD []
  let core := parseCore (sec 2)
  { stroke := parseStroke (sec 1), core := core, fabric := parseFabric (sec 3)
    arbiter := (sectionOf bs 4).map parseArb, herder := (sectionOf bs 5).map parseHerder, kv := (sectionOf bs 6).map parseKv
    backward := (sectionOf bs 7).map parseBwd, reduction := (sectionOf bs 8).map parseRed
    weight := (sectionOf bs 9).map parseWgt, tongs := parseTng (sec 10)
    recovery := (sectionOf bs 11).map (parseRec core.map.length), thermal := (sectionOf bs 12).map parseThm }

/-- The billet as memory holds it now: the module reads it again at activation, at every remap and at every unpark (R431).
A billet that can no longer be read keeps what was read before (DESIGN CHOICE, log 30). -/
def Hw.reread (s : Hw) (l : Loaded) : Loaded :=
  let (_, bs, st) := s.readSpan l.addr l.length
  if st = 0 ∧ billetVersionOk bs ∧ billetLayoutOk bs l.length then { l with img := parseBillet bs } else l

end Sys2Proof.Machine
end

