-- ==== Sys2Proof/Machine/Admit.lean ====
section
/-!
DEFINITION. Admission: the checks of R38 in their order, with the refusals that each section's chapter gives at the step
whose reason it carries, and the mailbox command ADMIT_BILLET (R40, R386).
-/
namespace Sys2Proof.Machine

/-! ## Refusals -/

/-- What a failed check answers: mailbox status, reason of the step, beat, field, detail (R38). -/
structure Refuse where
  status : Nat
  reason : Nat
  beat : Nat := 0
  field : Nat := 0
  detail : Nat := 0

/-- REFUSED_FIT with a reason unless the check holds. -/
def need (reason : Nat) (ok : Bool) (field : Nat := 0) (beat : Nat := 0) : Option Refuse :=
  if ok then none else some { status := mbFit, reason := reason, beat := beat, field := field }

/-- CORE_INVALID and MEMORY_SHORT. -/
def valid (ok : Bool) (field : Nat := 0) : Option Refuse := need 0x07 ok field
def room (ok : Bool) (field : Nat := 0) : Option Refuse := need 0x0B ok field

/-- The first failure of a list of checks. -/
def firstOf (cs : List (Option Refuse)) : Option Refuse := cs.findSome? id

/-- A check on every element, in order. -/
def each {α : Type} (xs : List α) (f : α → Option Refuse) : Option Refuse := xs.findSome? f

/-- A number in a range. -/
def within (v lo hi : Nat) : Bool := decide (lo ≤ v) && decide (v ≤ hi)

/-- A structure lies inside a region (R274). -/
def inRegion (off n : Nat) : Bool := decide (off + n ≤ regionBytes)

/-- A structure placed at one offset of every field's bonded memory keeps clear of the frame pools of the plan. -/
def clearOfPool (t : TngSec) (f off n : Nat) : Bool :=
  let p := t.pools.getD (2 * f) (0, 0)
  decide (off + n ≤ p.1 * pageBytes) || decide ((p.1 + p.2) * pageBytes ≤ off) || decide (p.2 = 0)

/-- The same bytes of every field's region 0. -/
def clearOfPools (t : TngSec) (off n : Nat) : Bool := (List.range 48).all fun f => clearOfPool t f off n

/-! ## Fields used (R430) -/

/-- The fields that a billet uses. -/
def Billet.used (b : Billet) : List Nat :=
  let red : List Nat := match b.reduction with
    | some r => r.buckets.map (·.engine)
    | none => []
  let kv : List Nat := match b.kv with
    | some k => k.slices.map BitVec.toNat
    | none => []
  (List.range 48).filter fun f => decide (f = 0) || b.fields.contains f || red.contains f || kv.contains f

/-! ## Steps 3 to 6: the stroke section (R28, R30, R31) -/

def StrokeSec.reserveUnits (s : StrokeSec) : Nat := ((s.beats.filter (·.reserve)).map (·.length)).sum

/-- The last beat that carries work. -/
def StrokeSec.lastWork (s : StrokeSec) : Option Nat :=
  (((numbered s.beats).filter fun e => !e.2.reserve).map (·.1)).getLast?

def checkStroke (s : StrokeSec) : Option Refuse :=
  let bs := numbered s.beats
  firstOf [
    need 0x02 (within s.period 35 163840 && (s.bare || decide (640 ≤ s.period))),
    each bs (fun e => need 0x03 (within e.2.length 1 160) 0 e.1),
    need 0x03 (within s.beats.length 1 4096 && decide ((s.beats.map (·.length)).sum = s.period)),
    if s.bare then none else firstOf [
      each bs (fun e => need 0x04 (!e.2.reserve || (s.lastWork.all fun l => decide (l < e.1))) 0 e.1),
      need 0x04 (decide (320 ≤ s.reserveUnits))],
    each bs (fun e => need 0x05 (decide (e.2.worst + 24 ≤ e.2.length * 240) && (!e.2.reserve || decide (e.2.worst = 0))) 0 e.1)]

/-! ## Step 7: formats (R61, R98, R189, R212) -/

/-- The instruction word is an MMA: class 3, operation 0 (R82). -/
def isMma (w : W64) : Bool := decide (bits w.toNat 63 54 = 0x3 * 2 ^ 6)

/-- Formats of an instruction in the image's format list. -/
def Image.formatsAt (im : Image) (i : Nat) : Option (Nat × Nat) :=
  (im.formats.find? fun e => decide (e.1 = i)).map fun e => e.2

def checkImageFormats (im : Image) : Option Refuse :=
  firstOf [
    need 0x06 (im.formats.all fun e => decide (e.2.1 < 14) && decide (e.2.2 < 14)),
    need 0x06 ((numbered im.instrs).all fun e => !isMma e.2 ||
      match im.formatsAt e.1 with
      | some p => pairOk p.1 p.2
      | none => false)]

def checkFormats (b : Billet) : Option Refuse :=
  firstOf [
    each b.core.images checkImageFormats,
    match b.kv with
      | none => none
      | some k => need 0x06 (pairOk k.pFmt k.vFmt && decide (k.kFmt < 14)),
    match b.backward with
      | none => none
      | some w => need 0x06 (w.products.all fun p =>
          match b.core.images[p.image]? with
          | none => false
          | some im => ((im.instrs[p.instr]?).any isMma) &&
              (match im.formatsAt p.instr with
               | some e => decide ((if p.gradIsB then e.2 else e.1) = (if w.fp16 then 1 else 2))
               | none => false))]

/-! ## Step 8: values, places and cores, in ascending section kind -/

def Billet.hasCore (b : Billet) (c : Nat) : Bool := b.core.map.any fun e => decide (e.1 = c)

def checkIntake (b : Billet) : Option Refuse :=
  let s := b.stroke
  firstOf [
    valid (within s.coreCount 1 4096 && decide (s.intakeCores.length = s.coreCount)),
    each s.intakeCores (fun c => valid (b.hasCore c) (coreField c))]

def checkImage (im : Image) : Option Refuse :=
  valid (within im.instrCount 1 512 && within im.taskCount 1 32 && im.inside
    && im.formats.all fun e => decide (e.1 < im.instrCount))

/-- The core section: counts, places, the core map and the alternates (R15, R17, R88-R91). -/
def Hw.checkCores (s : Hw) (b : Billet) : Option Refuse :=
  let c := b.core
  firstOf [
    valid (c.inside && decide (1 ≤ c.imageCount)),
    each c.images checkImage,
    valid (c.images.all fun im => decide (im.routeSet < b.fabric.routeSets.length)),
    each c.map (fun e => valid (coreOk e.1 && s.isActive e.1 && decide (e.2 < c.images.length)) (coreField e.1)),
    valid (pairwise (fun x y => decide (x.1 < y.1)) c.map),
    each c.alts (fun a => valid (coreOk a.failed && coreOk a.spare && decide (blockKey a.failed = blockKey a.spare)
      && decide (a.detour < b.fabric.detours.length)) (coreField a.failed))]

/-- A route entry resolves at a core: its destination is an active core or an endpoint that exists, and its reserved bits
are zero (R122, R123). -/
def Hw.routeOk (s : Hw) (c w : Nat) : Bool :=
  let reserved := match bits w 1 0 with
    | 0 => decide (bits w 25 23 = 0)
    | 2 => decide (bits w 25 13 = 0)
    | _ => true
  reserved && decide (bits w 63 44 = 0) &&
  match routeDest c w with
  | some (d, true) => endpointOk d
  | some (d, false) => coreOk d && s.isActive d
  | none => false

/-- Route entries of the set that a core's image names. -/
def Billet.routesOf (b : Billet) (image : Nat) : List W64 :=
  match b.core.images[image]? with
  | none => []
  | some im => b.fabric.routeSets.getD im.routeSet []

/-- The core ID that an absolute route entry holds names a core, whether or not any core loads the entry (R15). -/
def routeIdOk (w : Nat) : Bool := decide (bits w 1 0 ≠ 0) || coreOk (bits w 22 2)

/-- The fabric section (R15, R123, R130, R169). -/
def Hw.checkFabric (s : Hw) (b : Billet) : Option Refuse :=
  let x := b.fabric
  let fs := numbered x.fieldDetour
  firstOf [
    valid x.inside,
    valid (x.routeSets.all fun ws => ws.all fun w => routeIdOk w.toNat),
    each b.core.map (fun e => valid ((b.routesOf e.2).all fun w => s.routeOk e.1 w.toNat) (coreField e.1)),
    each x.detours (fun d => valid (decide (d.field < 48) && d.entries.all fun e =>
      coreOk e.1 && s.routeOk e.1 e.2.2.toNat) d.field),
    each fs (fun e => valid (decide (e.2 = 0xFFFFFFFF) || decide (e.2 < x.detours.length)) e.1),
    if b.herder.isNone then none
      else each fs (fun e => valid (decide (e.2 = 0xFFFFFFFF) || !b.fields.contains e.1) e.1)]

/-- An entry of the arbiter section (R138). -/
def arbEntryOk (e : ArbEntry) : Bool :=
  let fields := if e.field = 63 then List.range 48 else [e.field]
  let exists' := decide (e.kind < 6) &&
    (if e.inst = 511 then decide (e.field < 48 ∨ e.field = 63) else fields.all fun f => arbExists f e.kind e.inst)
  exists' && (e.slots.all fun o => o == 0xFF || decide (o.toNat < arbInputs e.kind))
    && (e.threshRecs.all fun r => decide (r.1 < arbInputs e.kind)) && decide (e.threshRecs.length ≤ 65)
    && (!e.fixed || decide (e.slots = [0xFF]))

def checkArbs (b : Billet) : Option Refuse := match b.arbiter with
  | none => none
  | some a => firstOf [valid a.inside, each a.entries (fun e => valid (arbEntryOk e) (e.field % 48))]

/-- A layer descriptor (R162). -/
def layerOk (b : Billet) (l : Layer) : Bool :=
  let posts := (numbered b.stroke.beats).filter fun e => e.2.post
  let limit := match posts.head? with
    | some e => e.1
    | none => b.stroke.beats.length
  let per := l.e / l.g
  decide (l.g ≤ 64) && decide (l.e % l.g = 0) && within l.k 1 16 && within l.t 1 l.g && decide (l.k ≤ l.t * per)
    && within l.terms 1 4 && decide (l.terms ≤ per) && within l.nextDepth 1 16 && within l.subDepth 1 16
    && within l.maxDefer 1 15 && (decide (l.overflow ≠ 2) || decide (l.e ≤ 16383))
    && (decide (l.e > 16383) || within l.shared l.e 16383) && decide (l.score ≤ 2) && decide (l.overflow ≤ 2)
    && decide (l.logitFormat ≤ 2) && decide (l.routeBeat < limit) && l.reservedZero
    && !(f32val l.biasLimit).isNan && !(l.biasLimit.getLsbD 31 && decide (l.biasLimit.setWidth 31 ≠ 0))

def HerderSec.captureBytes (h : HerderSec) : Nat := ((h.layers.filter (·.capture)).map fun l => 8 + 8 * l.k).sum

/-- The successor table's bytes: an entry for every expert that a slot can use, the shared one's behind the routed ones' where the
layer spills (R166). -/
def Layer.succBytes (l : Layer) : Nat := if l.succOff = 0 then 0 else 16 * (l.e + b2n (decide (l.overflow = 2)))

/-- The routing stash's bytes: token indices reach to 131,071 (R144, R176). -/
def Layer.stashBytes (l : Layer) : Nat := if l.stash then 131072 * 8 * l.k else 0

/-- The herder section (R161, R162). -/
def checkHerder (b : Billet) : Option Refuse := match b.herder with
  | none => none
  | some h => firstOf [
      valid (h.inside && within h.layerCount 1 256 && decide (h.flagCount ≤ 16) && within h.tokenCap 1 131072
        && decide (h.extMax ≤ 16128) && decide (h.extMax % 8 = 0) && inRegion h.tokenOff (2 * 2 ^ 22)
        && inRegion h.stagingOff (h.stagingSlots * (256 + h.extMax)) && decide (h.captureBytes ≤ h.extMax)),
      valid (h.waypoints.all fun w => decide (w = 0xFFFFFFFF) || (decide (w / 512 < 48) && decide (w % 512 < 396))),
      valid (h.layers.all fun l => layerOk b l && inRegion l.tableOff (24 * (l.e + 1))
        && (!l.stash || inRegion l.stashOff l.stashBytes) && inRegion l.succOff l.succBytes),
      valid (pairwise (fun x y => decide (x.layer ≠ y.layer)) h.layers)]

/-- The geometry that live sequences keep (R189). -/
def KvSec.geometry (k : KvSec) : List Nat :=
  [k.a, k.kvHeads, k.group, k.headDim, k.kFmt, k.vFmt, k.pFmt, k.frames, k.placement, k.members, k.stride]

def kvFmtOk (f : Nat) : Bool := within f 1 6 || decide (f = 9)

/-- The KV section (R189, R194, R274). -/
def Hw.checkKv (s : Hw) (b : Billet) : Option Refuse := match b.kv with
  | none => none
  | some k =>
    let n := b.stroke.beats.length
    firstOf [
      valid (k.inside && within k.a 1 256 && within k.kvHeads 1 64 && within k.group 1 16 && [64, 128, 256].contains k.headDim
        && kvFmtOk k.kFmt && kvFmtOk k.vFmt && decide (k.pFmt < 14) && [1, 2, 4].contains k.frames
        && [1, 2, 4, 8].contains k.parts && decide (k.placement ≤ 2) && within k.members 1 1024 && decide (k.member < k.members)
        && within k.stride 1 65536 && within k.seqTokens 1 256 && decide (k.walkBeat < n) && within k.maxLen 1 16777216),
      valid (k.layers.all fun l => decide (l.attendBeat < n) && decide (l.mergeBeat < n)),
      valid (pairwise (fun x y => decide (x.layer ≠ y.layer)) k.layers),
      valid (decide (k.placement ≠ 1) || decide (k.kvHeads % k.members = 0)),
      valid (inRegion k.lenOff (2 * 2 ^ 20) && inRegion k.workOff (16 * k.itemsCap)),
      each (k.slices.map BitVec.toNat) (fun f => valid (decide (f < 48) && decide ((s.fld f).state = .ready)) (f % 48)),
      each (k.coreLists.flatMap fun e => e.1 ++ e.2.1 ++ e.2.2) (fun c => valid (coreOk c && s.isActive c) (coreField c)),
      valid (decide (k.seqTokens = 1) || !(b.herder.any fun h => h.layers.any (·.defer))),
      valid (s.kv.live.isEmpty || (match s.kv.sec with
        | some old => decide (old.geometry = k.geometry)
        | none => true))]

/-- The backward section (R228). -/
def checkBwd (b : Billet) : Option Refuse := match b.backward with
  | none => none
  | some w => valid (w.inside && w.reservedZero && within w.segCount 1 1048576
      && (if w.arrangement = 0 then decide (w.slotCount = 0) else within w.slotCount 2 256) && decide (w.stepOff % 64 = 0)
      && inRegion w.stepOff 64 && inRegion w.maskOff (3 * w.maskBytes) && inRegion w.slotOff w.slotBytes)

/-- Areas and completion rings of the engines that hold a bucket: field, offset, bytes (R233, R246). -/
def RedSec.places (r : RedSec) : List (Nat × Nat × Nat) :=
  ((List.range 48).filter fun e => decide (r.nmax e ≠ 0)).flatMap fun e =>
    [(e, r.areaOff, 256 * r.nmax e), (e, r.cplOff, 32 * r.cplEntries)]

/-- The reduction section (R230-R232). -/
def checkRed (b : Billet) : Option Refuse := match b.reduction with
  | none => none
  | some r => firstOf [
      valid (r.inside && within r.bucketCount 1 65536 && within r.groupCount 1 256 && within r.cplEntries 64 65536
        && (List.range 17).any (fun i => decide (r.cplEntries = 2 ^ i)) && decide (r.groups.length = r.groupCount)),
      valid (r.groups.all fun g => within g.members.length 1 4096 && decide (g.self < g.members.length)
        && pairwise (fun x y => decide (x.1 < y.1)) g.members),
      each r.buckets (fun x => valid (within x.values 262144 16777216 && decide (x.values % 16 = 0) && decide (x.engine < 48)
        && decide (x.group < r.groupCount) && (x.bellows || decide (x.dest.toNat % 64 = 0))
        && coreOk x.notifyCore) (x.engine % 48)),
      each r.places (fun p => valid (inRegion p.2.1 p.2.2) p.1)]

/-- A tile's place and extent along the block axis, in a tensor that ends at `edge` there (R259). -/
def tileOk (edge : Nat) (t : Tile) : Bool :=
  let unit := if isLq4 t.fmt then 256 else if isMx t.fmt then 32 else 1
  decide (t.fmt < 14) && decide (t.pos0 % unit = 0) && (decide (t.extent % unit = 0) || decide (t.pos0 + t.extent = edge))

/-- Ranges of bits that a tile takes in its image, as start and end: its rows, and the side data of its lines (R58, R60). -/
def Tile.spans (t : Tile) : List (Nat × Nat) :=
  let rows := (List.range t.rows).map fun r => ((t.destOff + r * t.rowStride) * 8, (t.destOff + r * t.rowStride) * 8 + t.cols * fmtBits t.fmt)
  let side := if isLq4 t.fmt then 24 * ((t.extent + 255) / 256) else if isMx t.fmt then (t.extent + 31) / 32 else 0
  rows ++ (List.range t.lines).map fun l => ((t.sideOff + l * t.sideStride) * 8, (t.sideOff + l * t.sideStride + side) * 8)

/-- Ranges of numbers that have nothing in common. -/
def apart (a b : Nat × Nat) : Bool := decide (a.2 ≤ b.1) || decide (b.2 ≤ a.1) || decide (a.2 ≤ a.1) || decide (b.2 ≤ b.1)

/-- Two tiles lie apart in the tensor, and in the image. -/
def Tile.apartFrom (t u : Tile) : Bool :=
  (apart (t.row0, t.row0 + t.rows) (u.row0, u.row0 + u.rows) || apart (t.col0, t.col0 + t.cols) (u.col0, u.col0 + u.cols))
    && t.spans.all fun a => u.spans.all fun b => apart a b

/-- The tiles of a tensor follow R259: each stands on its blocks and inside the image, none overlaps another in the image, and they
cover every element once, which they do when no two share one and there are as many as the tensor has. -/
def tilesOk (ts : List Tile) (pages : Nat) : Bool :=
  let rows := tileRows ts
  let cols := tileCols ts
  ts.all (fun t => tileOk (if t.blkAxis then rows else cols) t
    && t.spans.all fun a => decide (a.2 ≤ a.1) || decide (a.2 ≤ pages * pageBytes * 8))
    && pairwise (fun t u => t.apartFrom u) ts && decide ((ts.map fun t => t.rows * t.cols).sum = rows * cols)

/-- A base image of a tensor that two contexts hold (R265). -/
def Hw.baseShared (s : Hw) (tensor : Nat) : Bool :=
  let live := s.wgt.ctxs.flatMap fun e => (e.2.slots.filter fun x => decide (x.2.state ≠ .free)).flatMap fun x =>
    (x.2.images.filter fun i => decide (i.tensor = tensor)).map fun i => (e.1, i.first)
  live.any fun a => live.any fun b => decide (a.1 ≠ b.1) && decide (a.2 = b.2)

/-- The weight section (R258, R259, R265, R270). -/
def Hw.checkWgt (s : Hw) (b : Billet) : Option Refuse := match b.weight with
  | none => none
  | some g =>
    let slots := match b.backward with
      | some w => w.slotCount
      | none => 0
    firstOf [
      valid (g.inside && g.reservedZero && decide (g.dtSize % pageBytes = 0)
        && decide ((g.tensorCount * 16 + 63) / 64 * 64 + 32768 ≤ g.dtSize) && g.tensors.all fun t => within t.tier 1 4
        && (decide (t.tier ≠ 1) || decide (t.field < 48)) && decide (t.id < g.tensorCount + g.adapterTensors)
        && decide (t.tileFirst + t.tileCount ≤ g.tiles.length)),
      valid (pairwise (fun x y => decide (x.id ≠ y.id)) g.tensors),
      valid (g.tensors.all fun t => tilesOk (g.tilesOf t) t.pages),
      valid (g.fills.all fun e => decide (e.slot < slots)),
      valid (inRegion g.ctxOff 8192 && inRegion g.dtOff (256 * g.dtSize) && inRegion g.bindOff 524288),
      valid (g.baseDefs.all fun t => !(t.written && s.baseShared t.id))]

/-- The tongs section (R274, R276, R292). -/
def checkTng (b : Billet) : Option Refuse :=
  let t := b.tongs
  let records := match b.herder with
    | some h => (h.layers.map (·.e)).sum
    | none => 0
  firstOf [
    valid (t.inside && within t.homePages 1 (2 ^ 31)),
    each t.plan (fun e => valid (within e.tier 1 4 && decide (1 ≤ e.count) && decide (e.first + e.count ≤ t.homePages)
      && decide (e.field < 48) && decide (e.cls ≤ 5)) (e.field % 48)),
    valid (pairwise (fun x y => decide (x.first + x.count ≤ y.first) || decide (y.first + y.count ≤ x.first)) t.plan),
    each (numbered t.pools) (fun e => valid (decide (e.2.1 + e.2.2 ≤ 2 ^ 19)) (e.1 / 2)),
    valid (inRegion t.homeOff ((t.homePages + 47) / 48 * 16) && inRegion t.resOff (2048 + 48 * records))]

/-- Bytes that a restore record copies, and whether its kind and target are in range (R332). -/
def restoreOk (r : Restore) : Bool :=
  match r.kind with
  | 0 => decide (r.target + r.count ≤ sramSize)
  | 1 => decide (r.target + r.count ≤ 32)
  | 2 => decide (r.target + r.count ≤ 16)
  | 3 => decide (r.target + r.count ≤ 32)
  | 4 => decide (r.target + r.count ≤ 32)
  | 5 => decide (r.target < 32)
  | 6 => decide (r.target < 16)
  | _ => false

/-- Bytes of one item of a restore record. -/
def restoreUnit (kind : Nat) : Nat := [1, 16, 4, 64, 128].getD kind 0

/-- The recovery section (R332). -/
def checkRec (b : Billet) : Option Refuse := match b.recovery with
  | none => none
  | some r => firstOf [
      valid (r.inside && decide (r.imageCount = b.core.imageCount)),
      valid (r.lists.all fun l => l.all fun x => restoreOk x && decide (x.beat < b.stroke.beats.length)),
      each ((numbered b.core.map).zip r.bases) (fun e =>
        valid (decide (e.2 % 64 = 0) && ((r.lists.getD e.1.2.2 []).all fun x =>
          decide (x.kind > 4) || inRegion e.2 (bits x.word1.toNat 39 0 + x.count * restoreUnit x.kind))) (coreField e.1.2.1))]

/-- A rotation set (R358). -/
def rotOk (r : RotSet) : Bool :=
  within r.memberCount 2 16 && r.members.all (fun f => decide (f < 48)) && within r.phases 1 16 && decide (r.initial < r.phases)
    && decide (1 ≤ r.minStrokes)

/-- The thermal section (R358). -/
def checkThm (b : Billet) : Option Refuse := match b.thermal with
  | none => none
  | some t => firstOf [
      valid (t.inside && decide (t.setCount ≤ 256) && t.sets.all rotOk),
      valid (pairwise (fun x y => decide (x ≠ y)) (t.sets.flatMap (·.members))),
      valid (inRegion t.phaseOff t.setCount)]

/-- Step 8. -/
def Hw.checkValues (s : Hw) (b : Billet) : Option Refuse :=
  firstOf [checkIntake b, s.checkCores b, s.checkFabric b, checkArbs b, checkHerder b, s.checkKv b, checkBwd b, checkRed b,
           s.checkWgt b, checkTng b, checkRec b, checkThm b]

/-! ## Step 9: fields (R38, R430) -/

def Hw.checkFields (s : Hw) (b : Billet) : Option Refuse :=
  let bad (f : Nat) : Bool := match (s.fld f).state with
    | .parked | .deepParked | .faulted => true
    | _ => false
  let early (f : Nat) : Bool := match (s.fld f).state with
    | .off | .test => true
    | _ => false
  match b.used.find? bad with
  | some f => need 0x08 false f
  | none => match b.used.find? early with
    | some f => some { status := mbNotReady, reason := 0x08, field := f }
    | none => none

/-! ## Step 10: alternates (R91, R332) -/

def checkAlternates (b : Billet) : Option Refuse :=
  if b.stroke.bare then none
  else firstOf [
    need 0x09 b.recovery.isSome,
    each b.core.map (fun e => need 0x09 (b.core.alts.any fun a => decide (a.failed = e.1)) (coreField e.1))]

/-! ## Step 12: room (R161, R189, R228, R230, R258, R292, R343) -/

/-- Pages of a plan entry that are not yet in its tier. -/
def Hw.newPages (s : Hw) (e : PlanEntry) : Nat :=
  e.count - (s.tng.homes.filter fun h => decide (e.first ≤ h.1) && decide (h.1 < e.first + e.count)
    && decide (h.2.state ≠ .unmapped) && decide (h.2.tier = e.tier)).length

/-- Pages now in a place that the plan does not send to another tier. -/
def Hw.keptPages (s : Hw) (t : TngSec) (tier : Nat) (at' : W64 → Bool) : Nat :=
  (s.tng.homes.filter fun h => decide (h.2.state ≠ .unmapped) && decide (h.2.tier = tier) && at' h.2.location &&
    (match t.planOf h.1 with
     | some e => decide (e.tier = tier)
     | none => true)).length

/-- The images of one base fit, beside the plan's own pages, in every pool and tier; a tier's pages that the running billet keeps
may be those images, and under STREAMED the images are those of the slots' layers (R258; what is counted is a DESIGN CHOICE,
log 214). -/
def Hw.imagesFit (s : Hw) (b : Billet) (g : WgtSec) : Option Refuse :=
  let t := b.tongs
  let ds := if b.backward.any fun w => decide (w.arrangement = 1) then [] else g.baseDefs
  let images (p : TensorDef → Bool) : Nat := ((ds.filter p).map (·.pages)).sum
  let planned (p : PlanEntry → Bool) : Nat := ((t.plan.filter p).map (·.count)).sum
  firstOf [
    each (List.range 96) (fun i =>
      let f := i / 2
      let w := i % 2
      room (decide (images (fun d => decide (d.tier = 1) && decide (d.field = f) && decide (b2n d.wafer = w)) +
        planned (fun e => decide (e.tier = 1) && decide (e.field = f) && decide (e.wafer = w)) ≤ (t.pools.getD i (0, 0)).2)) f),
    room (decide (images (fun d => decide (d.tier = 2)) + planned (fun e => decide (e.tier = 2)) ≤ flashPages)),
    room (decide (images (fun d => decide (d.tier = 3)) + planned (fun e => decide (e.tier = 3))
      ≤ ((List.range 16).map fun i => (s.loan i).2.2).sum)),
    room (decide (images (fun d => decide (d.tier = 4)) + planned (fun e => decide (e.tier = 4)) ≤ s.tng.hostPages.toNat))]

/-- The plan fits every pool and tier. -/
def Hw.planFits (s : Hw) (t : TngSec) : Option Refuse :=
  let into (p : PlanEntry → Bool) : Nat := ((t.plan.filter p).map s.newPages).sum
  firstOf [
    each (List.range 96) (fun i =>
      let f := i / 2
      let w := i % 2
      let used := into (fun e => decide (e.tier = 1) && decide (e.field = f) && decide (e.wafer = w)) +
        s.keptPages t 1 (fun l => decide (locField1 l = f) && decide (locWafer1 l = w))
      room (decide (used ≤ (t.pools.getD i (0, 0)).2)) f),
    room (decide (into (fun e => decide (e.tier = 2)) + s.keptPages t 2 (fun _ => true) ≤ flashPages)),
    room (decide (into (fun e => decide (e.tier = 3)) + s.keptPages t 3 (fun _ => true)
      ≤ ((List.range 16).map fun i => (s.loan i).2.2).sum)),
    room (decide (into (fun e => decide (e.tier = 4)) + s.keptPages t 4 (fun _ => true) ≤ s.tng.hostPages.toNat))]

/-- A range of span space that the plan backs: the direct window clear of frame pools, or pages that the plan places or that stay
placed (R182, R189). -/
def Hw.planBacks (s : Hw) (t : TngSec) (off n : Nat) : Bool :=
  if off + n ≤ directEnd then
    let r := t.pools.getD (off / regionBytes) (0, 0)
    let a := off % regionBytes
    decide (a + n ≤ regionBytes) && (decide (r.2 = 0) || decide (a + n ≤ r.1 * pageBytes) || decide ((r.1 + r.2) * pageBytes ≤ a))
  else decide (off ≥ migBase) && (List.range (n / pageBytes + 2)).all fun i =>
    let p := pageOf off + i
    decide (i * pageBytes ≥ n + off % pageBytes) || (t.planOf p).isSome
      || (decide (p < t.homePages) && decide ((s.home p).state ≠ .unmapped))

/-- The page tables of the live sequences, and the prefix table with its group arrays where it is in use (R186, R189, R201). -/
def Hw.kvSpans (s : Hw) (k : KvSec) : List (Nat × Nat) :=
  (s.kv.live.map fun q => (addrOff (s.seqGet q 0x10 8), 2 * 8 * s.ptCount k q)) ++
    if s.kv.pfxEnable then
      let nodes := 4 * 2 ^ s.kv.bBits
      [(addrOff s.kv.pfxBase.toNat, 64 * nodes), (addrOff s.kv.pfxGroup.toNat, 4 * (k.a * k.headsLocal) * nodes)]
    else []

/-- Every page of the trail ring will be HOME in tier 1, fixed and of class 4, once the plan is applied (R343). -/
def Hw.trailPlaced (s : Hw) (t : TngSec) : Bool :=
  (List.range 1048576).all fun i =>
    let p := s.flt.trailPage.toNat + i
    match t.planOf p with
    | some e => decide (e.tier = 1) && e.fixed && decide (e.cls = 4)
    | none =>
      let h := s.home p
      decide (h.state = .home) && decide (h.tier = 1) && h.fixed && decide (h.cls = 4)

/-- Structures of a section that every field keeps at one offset, with their bytes. -/
def Billet.places (b : Billet) : List (Nat × Nat) :=
  (match b.herder with
   | some h => [(h.tokenOff, 2 * 2 ^ 22), (h.stagingOff, h.stagingSlots * (256 + h.extMax))] ++
       h.layers.flatMap fun l => [(l.tableOff, 24 * (l.e + 1)), (l.succOff, l.succBytes), (l.stashOff, l.stashBytes)]
   | none => []) ++
  (match b.kv with
   | some k => [(k.lenOff, 2 * 2 ^ 20), (k.workOff, 16 * k.itemsCap)]
   | none => []) ++
  (match b.backward with
   | some w => [(w.stepOff, 64), (w.maskOff, 3 * w.maskBytes), (w.slotOff, w.slotBytes)]
   | none => []) ++
  (match b.weight with
   | some g => [(g.ctxOff, 8192), (g.dtOff, 256 * g.dtSize), (g.bindOff, 524288)]
   | none => []) ++
  [(b.tongs.homeOff, (b.tongs.homePages + 47) / 48 * 16)]

def Hw.checkRoom (s : Hw) (b : Billet) : Option Refuse :=
  firstOf [
    match b.herder with
      | some h => room (decide (2 * h.tokenCap + (h.layers.map (·.deferSlots)).sum ≤ h.stagingSlots))
      | none => none,
    each b.places (fun p => room (decide (p.2 = 0) || clearOfPools b.tongs p.1 p.2)),
    match b.reduction with
      | some r => each r.places (fun p => room (clearOfPool b.tongs p.1 p.2.1 p.2.2))
      | none => none,
    match b.kv with
      | some k => each (s.kvSpans k) (fun p => room (decide (p.2 = 0) || s.planBacks b.tongs p.1 p.2))
      | none => none,
    s.planFits b.tongs,
    match b.weight with
      | some g => s.imagesFit b g
      | none => none,
    match b.herder with
      | some h => room (!(h.flags.any (·.enable)) || s.trailPlaced b.tongs)
      | none => none]

/-! ## The whole (R38) -/

/-- Some program of the billet holds a transfer of class MEM: everything slower than the SRAM is reached only so (R84). -/
def Billet.reachesOut (b : Billet) : Bool := b.core.images.any fun im => im.instrs.any fun w => decide (bits w.toNat 63 60 = 0xA)

/-- The checks of R38 over the bytes that step 0 read. -/
def Hw.admissionFault (s : Hw) (bs : List Byte) (len activation : Nat) : Option Refuse :=
  if !billetVersionOk bs then some { status := mbBadVersion, reason := 0 }
  else if !billetLayoutOk bs len then need 0x07 false
  else if !sectionVersionsOk bs then some { status := mbBadVersion, reason := 0 }
  else
    let b := parseBillet bs
    firstOf [
      match b.backward with
        | some w => need 0x01 (decide (w.arrangement ≤ 1))
        | none => none,
      checkStroke b.stroke,
      checkFormats b,
      s.checkValues b,
      s.checkFields b,
      checkAlternates b,
      need 0x0A (!(b.reachesOut && Config.syncSlowTier bs)),
      s.checkRoom b,
      need 0x0C (decide (s.stk.num.toNat < activation) && (match s.stk.groupPeriod with
        | some p => decide (p = b.stroke.period)
        | none => true))]

/-- STK_ADMIT records the outcome (R38). -/
def Hw.putAdmit (s : Hw) (status reason beat field : Nat) : Hw :=
  { s with stk := { s.stk with admStatus := BitVec.ofNat 8 status, admReason := BitVec.ofNat 16 reason
                               admBeat := BitVec.ofNat 12 beat, admField := BitVec.ofNat 6 field } }

/-- The answer to a failed check: STK_ADMIT, and a response that carries the reason only with REFUSED_FIT. -/
def Hw.refuseBillet (s : Hw) (r : Refuse) : Hw :=
  (s.putAdmit r.status r.reason r.beat r.field).respond
    { status := r.status, reason := if r.status = mbFit then r.reason else 0, beat := r.beat, field := r.field, detail := r.detail }

end Sys2Proof.Machine
end

