-- ==== Sys2Proof/Machine/Host.lean ====
section
/-!
DEFINITION. Queue pairs and the event unit: doorbells, taking entries, completions (R388-R397), the intake and the results
of a stroke (R42-R46, R392, R393), bus mastering and interrupts (R374, R376).
-/
namespace Sys2Proof.Machine

/-! ## Completions (R394-R397) -/

def Qp.sqSize (x : Qp) : Nat := 2 ^ x.sqLog.toNat
def Qp.cqSize (x : Qp) : Nat := 2 ^ x.cqLog.toNat

/-- Completions written and not yet consumed by the driver. -/
def Qp.cqFill (x : Qp) : Nat := (x.cqTail - x.cqHead).toNat

/-- The 32 B of a completion at index `i` of a ring: phase 1 on even passes (R394, R395). -/
def Cpl.bytes (c : Cpl) (i size : Nat) : List Byte :=
  leBytes 4 c.sqIndex.toNat ++ leBytes 1 c.status ++ leBytes 1 c.marks ++ leBytes 2 0 ++ leBytes 8 c.stroke
    ++ leBytes 8 c.result.toNat ++ leBytes 4 c.trailSerial.toNat ++ leBytes 1 c.trailHerder ++ leBytes 2 0
    ++ leBytes 1 (b2n (decide (i / size % 2 = 0)))

/-- Write one completion at the ring's tail; with irq set the vector is sent once per stroke (R395, R397). -/
def Hw.writeCpl (s : Hw) (q : Nat) (c : Cpl) : Hw :=
  let x := s.qp q
  let i := x.cqTail.toNat
  let s := s.hostWrite (x.cqBase.toNat + i % x.cqSize * 32) (c.bytes i x.cqSize)
  let send := x.irq && decide (x.irqStroke ≠ some s.stk.num.toNat)
  let s := s.setQp q { x with cqTail := x.cqTail + 1, outCnt := x.outCnt + 1
                              irqStroke := if send then some s.stk.num.toNat else x.irqStroke }
  if send then s.fireVector x.vector.toNat else s

/-- Write waiting completions, in order, while there is room and the module may master the bus (R374, R396). -/
def Hw.pumpCpls : Nat → Hw → Nat → Hw
  | 0, s, _ => s
  | n + 1, s, q =>
    let x := s.qp q
    match x.waiting with
    | [] => s
    | c :: cs =>
      if s.mayMaster && decide (x.cqFill < x.cqSize) then
        Hw.pumpCpls n ((s.setQp q { x with waiting := cs, cplFull := x.cplFull && !cs.isEmpty }).writeCpl q c) q
      else s

/-- A completion of a queue pair: it joins the queue pair's waiting ones and is written as room allows; the first that
finds its ring full raises CPL_FULL. A disabled queue pair's completions are discarded (R388, R396). -/
def Hw.postCpl (s : Hw) (q : Nat) (c : Cpl) : Hw :=
  let x := s.qp q
  if !x.enable then s
  else
    let full : Bool := decide (x.cqFill + x.waiting.length ≥ x.cqSize)
    let s := s.setQp q { x with waiting := x.waiting ++ [c], cplFull := x.cplFull || full }
    let s := if full && !x.cplFull then s.raise 43 else s
    Hw.pumpCpls (x.waiting.length + 1) s q

/-- A queue pair error: its bit, the count, EVT_RING and RING_ERR (R390, R391, R397). -/
def Hw.ringErr (s : Hw) (q cause : Nat) : Hw :=
  let s := s.onQp q fun x => { x with
    errRepeat := x.errRepeat || decide (cause = 0), errGap := x.errGap || decide (cause = 1)
    errCrc := x.errCrc || decide (cause = 2), errKind := x.errKind || decide (cause = 3)
    errDoorbell := x.errDoorbell || decide (cause = 4), errCount := satInc x.errCount }
  { s with evt := { s.evt with ringQp := BitVec.ofNat 16 q, ringCause := BitVec.ofNat 5 (2 ^ cause) } }.raise 41

/-! ## QPC_CFG (R388) -/

/-- Events of a queue pair that is disabled: they run on, and their completions are discarded (R388). -/
def EvUnit.mute (x : EvUnit) (q : Nat) : EvUnit :=
  let f (e : Ev) : Ev := if e.qp = some q then { e with muted := true } else e
  { x with deferred := x.deferred.map f, fresh := x.fresh.map f, owed := x.owed.map f, taken := x.taken.map f }

/-- A write to QPC_CFG: it enables a disabled queue pair with sizes in range, disables an enabled one, or changes irq and
vector. -/
def execQpcCfgWrite (q : W16) (value : W64) (s : State) : Out :=
  s.act fun s => (s.bar0 fun s => let n := q.toNat
    let v := value.toNat
    let x := s.qp n
    let irq := bit v 1
    let vec : BitVec 11 := BitVec.ofNat 11 (bits v 22 12)
    let sq := bits v 6 2
    let cq := bits v 11 7
    if x.enable then
      if bit v 0 then s.setQp n { x with irq := irq, vector := vec }
      else { s.setQp n { x with irq := irq, vector := vec, enable := false, waiting := [], cplFull := false } with evu := s.evu.mute n }
    else
      let y := { x with irq := irq, vector := vec, sqLog := BitVec.ofNat 5 sq, cqLog := BitVec.ofNat 5 cq
                        aliveInit := BitVec.ofNat 16 (bits v 38 23) }
      if !bit v 0 then s.setQp n y
      else if !within sq 6 16 || !within cq 6 16 then s
      else s.setQp n { y with enable := true, sqHead := 0, sqTail := 0, cqTail := 0, cqHead := 0, errCount := 0, inCnt := 0
                              outCnt := 0, expected := y.aliveInit, stamps := [], waiting := [], cplFull := false, irqStroke := none })

/-! ## Doorbells (R390) -/

/-- Doorbell word 0: a new submission tail; the entries it covers arrive now. -/
def execSqDoorbell (q : W16) (value : W64) (s : State) : Out :=
  s.act fun s => (s.bar2 fun s => let n := q.toNat
    let x := s.qp n
    let t : W32 := value.setWidth 32
    let more := (t - x.sqTail).toNat
    if !x.enable || decide (more ≥ 2 ^ 31) || decide ((t - x.sqHead).toNat > x.sqSize) then s.ringErr n 4
    else s.setQp n { x with sqTail := t, stamps := x.stamps ++ (List.range more).map fun i =>
      ((x.sqTail.toNat + i) % 2 ^ 32, s.stk.time, s.stk.num.toNat, 0) })

/-- Doorbell word 1: a new completion head; completions that waited for room are written. -/
def execCqDoorbell (q : W16) (value : W64) (s : State) : Out :=
  s.act fun s => (s.bar2 fun s => let n := q.toNat
    let x := s.qp n
    let h : W32 := value.setWidth 32
    if !x.enable || decide ((h - x.cqHead).toNat > x.cqFill) then s.ringErr n 4
    else Hw.pumpCpls x.waiting.length (s.setQp n { x with cqHead := h }) n)

/-! ## Taking entries (R391) -/

/-- Completion of an entry that the check ends at once: its stroke is that of arrival. -/
def entryCpl (idx status stroke : Nat) : Cpl :=
  { sqIndex := BitVec.ofNat 32 idx, status := status, marks := 0, stroke := stroke, result := 0, trailSerial := 0, trailHerder := 0 }

/-- An entry that the check ends is completed, marked DEFERRED where it missed an intake (R391, R392, R394). -/
def Hw.endEntry (s : Hw) (q idx status stroke defers : Nat) : Hw :=
  s.postCpl q { entryCpl idx status stroke with marks := 2 * b2n (decide (defers ≠ 0)) + 4 * b2n (!s.stk.syncOk) }

/-- The CRC of a submission entry (R389). -/
def entryCrcOk (e : List Byte) : Bool := decide (crc32c (e.take 60) = at' e 60 4)

/-- An event is presented to the intake. -/
def Hw.present (s : Hw) (e : Ev) : Hw :=
  { s with evu := { s.evu with fresh := s.evu.fresh ++ [{ e with ord := s.evu.nextOrd }], nextOrd := s.evu.nextOrd + 1 } }

/-- A taken entry is checked: CRC, alive count, kind; what remains is an event, marked GAP where entries are missing. -/
def Hw.takeEntry (s : Hw) (q idx : Nat) (time : W64) (stroke defers : Nat) (e : List Byte) : Hw :=
  let x := s.qp q
  let d := (BitVec.ofNat 16 (at' e 2 2) - x.expected : W16)
  if !entryCrcOk e then (s.ringErr q 2).endEntry q idx 2 stroke defers
  else if d.toNat ≥ 32768 then (s.ringErr q 0).endEntry q idx 1 stroke defers
  else
    let s := s.onQp q fun x => { x with expected := BitVec.ofNat 16 (at' e 2 2) + 1 }
    if at' e 0 1 ≠ 1 then (s.ringErr q 3).endEntry q idx 3 stroke defers
    else
      let s := if d = 0 then s else (s.onQp q fun x => { x with gapSize := d }).ringErr q 1
      s.present { arrival := time, arrivalStroke := stroke, qp := some q, rank := 0xFFFF, sqIndex := BitVec.ofNat 32 idx
                  gap := decide (d ≠ 0), defers := defers, deferred := decide (defers ≠ 0), entry := e, ord := 0 }

/-- The module takes the entry at a queue pair's head, while it may (R391). -/
def execSqEntryTake (q : W16) (s : State) : Out :=
  s.act fun s => (let n := q.toNat
    let x := s.qp n
    if !x.enable || !s.mayMaster || !s.runs || !x.waiting.isEmpty || decide (x.sqHead = x.sqTail) then s
    else
      let idx := x.sqHead.toNat
      let e := s.hostRead (x.sqBase.toNat + idx % x.sqSize * 64) 64
      let st := (x.stamps.find? fun t => decide (t.1 = idx)).getD (idx, s.stk.time, s.stk.num.toNat, 0)
      let s := s.setQp n { x with sqHead := x.sqHead + 1, inCnt := x.inCnt + 1, stamps := x.stamps.filter fun t => decide (t.1 ≠ idx) }
      s.takeEntry n idx st.2.1 st.2.2.1 st.2.2.2 e)

/-- A Leash EVENT message: its entry's CRC is checked and the event stamped (R42, R393). -/
def execEvent (p : PortIx) (srcRank : W16) (entry : List Byte) (s : State) : Out :=
  s.act fun s => (let s := s.popInbox p.val 6
    if p.val ≥ 48 then (s.leashDrop p.val false entry).raise 31
    else if entry.length ≠ 64 ∨ !entryCrcOk entry then { s with spn := { s.spn with dropCnt := s.spn.dropCnt + 1 } }
    else s.present { arrival := s.stk.time, arrivalStroke := s.stk.num.toNat, qp := none, rank := srcRank, sqIndex := 0
                     gap := false, defers := 0, deferred := false, entry := entry, ord := 0 })

/-! ## The intake (R44, R45) -/

/-- The order of arrival. -/
def evBefore (a b : Ev) : Bool := decide (a.arrival < b.arrival) || (decide (a.arrival = b.arrival) && decide (a.ord ≤ b.ord))

def insertEv (e : Ev) : List Ev → List Ev
  | [] => [e]
  | x :: xs => if evBefore x e then x :: insertEv e xs else e :: x :: xs

def sortEvs (es : List Ev) : List Ev := es.foldl (fun r e => insertEv e r) []

/-- Event identifier of an event, and whether a key of identifier and arrival stamp names it. -/
def Ev.eventId (e : Ev) : W64 := BitVec.ofNat 64 (at' e.entry 8 8)
def Ev.keyed (e : Ev) (id time : W64) : Bool := decide (e.eventId = id) && decide (e.arrival = time)

/-- One more deferral of an event. -/
def Ev.defer (e : Ev) : Ev := { e with deferred := true, defers := satAdd 8 e.defers 1 }

/-- The intake record (R45). -/
def Ev.record (e : Ev) (i : Nat) : List Byte :=
  leBytes 8 e.arrival.toNat ++ leBytes 2 (e.qp.getD 0) ++ leBytes 2 (if e.qp.isSome then 0xFFFF else e.rank.toNat)
    ++ leBytes 4 e.sqIndex.toNat ++ leBytes 4 i
    ++ leBytes 1 (b2n e.deferred + 2 * b2n e.gap + 4 * b2n e.qp.isNone) ++ leBytes 1 e.defers ++ leBytes 10 0 ++ padTo 64 e.entry

/-- The stroke section of the running billet and the beat in progress. -/
def Hw.strokeSec (s : Hw) : Option StrokeSec := s.running.map fun l => l.img.stroke
def Hw.curDesc (s : Hw) : Option Beat :=
  if s.stk.inBeat then s.strokeSec.bind fun x => x.beats[s.stk.beat]? else none

/-- Send the stroke's events to the intake cores in index order (R45). -/
def Hw.sendIntake (s : Hw) (x : StrokeSec) : Hw :=
  (numbered s.evu.taken).foldl (fun s e =>
    match x.intakeCores[e.1 % x.intakeCores.length]? with
    | none => s
    | some c => s.unitSend 8 c false x.intakeChannel 0 (e.2.record e.1)) s

/-- Entries covered by a doorbell in an earlier stroke and not yet taken: each misses this intake and is counted (R392). -/
def Hw.missIntake (s : Hw) (w : Nat) : Hw :=
  s.qps.foldl (fun s en =>
    let x := s.qp en.1
    let late := x.stamps.filter fun t => decide (t.2.2.1 < w)
    let s := s.setQp en.1 { x with stamps := x.stamps.map fun t =>
      if t.2.2.1 < w then (t.1, t.2.1, t.2.2.1, satAdd 8 t.2.2.2 1) else t }
    { s with stk := { s.stk with deferCnt := s.stk.deferCnt + BitVec.ofNat 64 late.length } }) s

/-- Events that strokes before `w` returned to the intake wait there as deferred ones (R191, R199). -/
def Hw.takeBack (s : Hw) (w : Nat) : Hw :=
  let isBack (e : Ev) : Bool := s.evu.back.any fun k => decide (k.1 < w) && decide (e.took ≤ k.1) && e.keyed k.2.1 k.2.2
  { s with evu := { s.evu with
      owed := s.evu.owed.filter fun e => !isBack e
      deferred := sortEvs (s.evu.deferred ++ (s.evu.owed.filter isBack).map Ev.defer)
      back := s.evu.back.filter fun k => decide (w ≤ k.1) } }

/-- The events of stroke `w` are chosen: the deferred ones, then those of the stroke before it, up to intake_cap; the rest are
deferred (R44). -/
def Hw.takeEvents (s : Hw) (x : StrokeSec) (w : Nat) : Hw :=
  let s := s.takeBack w
  let late := (s.evu.fresh.filter fun e => decide (e.arrivalStroke + 1 < w))
  let own := s.evu.fresh.filter fun e => decide (e.arrivalStroke + 1 = w)
  let rest := s.evu.fresh.filter fun e => decide (w < e.arrivalStroke + 1)
  let old := late.map fun e => if e.defers = 0 then e.defer else e
  let fresh := (late.filter fun e => decide (e.defers = 0)).length
  let order := sortEvs (s.evu.deferred ++ old) ++ sortEvs own
  let take := (order.take x.intakeCap).map fun e => { e with took := w }
  let left := (order.drop x.intakeCap).map Ev.defer
  let s := { s with
    evu := { s.evu with deferred := left, fresh := rest, owed := s.evu.owed ++ take, taken := take, takenFor := some w }
    stk := { s.stk with deferCnt := s.stk.deferCnt + BitVec.ofNat 64 (fresh + left.length) } }
  s.missIntake w

/-- In cycle 24 of the intake beat the event unit orders the stroke's events and sends them; a replay of the beat, and a further
beat of the stroke that is flagged intake (DESIGN CHOICE, log 197), sends the same events again (R44, R45). -/
def execIntake (s : State) : Out :=
  s.act fun s => (match s.strokeSec, s.curDesc with
    | some x, some d =>
      if !d.intake || s.flt.held || s.flt.stopAll then s
      else
        let w := s.stk.workStroke
        (if s.evu.takenFor = some w then s else s.takeEvents x w).sendIntake x
    | _, _ => s)

/-! ## Results (R46) -/

/-- Result records: one that names no queue pair event owed to the stroke, or repeats one of the stroke, is discarded and
counted. -/
def execResultRecord (records : List ResultRec) (s : State) : Out :=
  s.act fun s => (records.foldl (fun s r =>
    let q := r.qp.toNat
    let w := s.stk.workStroke
    let owed := s.evu.owed.any fun e => decide (e.qp = some q) && decide (e.sqIndex = r.sqIndex) && decide (e.took ≤ w)
    let again := s.evu.results.any fun x => decide (x.1.1 = w) && decide (x.2.1 = q) && decide (x.2.2.1 = r.sqIndex)
    if !owed || again then { s with stk := { s.stk with postDiscarded := satInc s.stk.postDiscarded } }
    else { s with evu := { s.evu with results := s.evu.results ++ [(s.curBeat, q, r.sqIndex, r.result)] } }) s)

/-- A herder's notice that a trail record was emitted for an event. -/
def execTrailNotice (eventId arrival : W64) (serial : BitVec 58) (h : FieldIx) (s : State) : Out :=
  s.act fun s => { s with evu := { s.evu with trails := s.evu.trails ++ [(s.curBeat, eventId, arrival, serial.toNat, h.val)] } }

/-- A notice that an event's token was deferred, so that the event stays owed. -/
def execDeferralNotice (eventId arrival : W64) (s : State) : Out :=
  s.act fun s => { s with evu := { s.evu with deferrals := s.evu.deferrals ++ [(s.curBeat, eventId, arrival)] } }

/-- Forget what a beat that is replayed brought to the event unit. -/
def EvUnit.forget (x : EvUnit) (b : Nat × Nat) : EvUnit :=
  { x with results := x.results.filter fun r => decide (r.1 ≠ b), trails := x.trails.filter fun r => decide (r.1 ≠ b)
           deferrals := x.deferrals.filter fun r => decide (r.1 ≠ b) }

/-- Events in ascending submission index. -/
def insertByIndex (e : Ev) : List Ev → List Ev
  | [] => [e]
  | x :: xs => if x.sqIndex ≤ e.sqIndex then x :: insertByIndex e xs else e :: x :: xs

/-- Serial and herder of the trail record that was emitted for an event by the end of a stroke (R46, R394). -/
def Hw.trailOf (s : Hw) (stroke : Nat) (e : Ev) : Option (Nat × Nat) :=
  (s.evu.trails.find? fun t => decide (t.1.1 ≤ stroke) && e.keyed t.2.1 t.2.2.1).map fun t => t.2.2.2

/-- The completion of an owed event by the stroke whose post beat has committed (R46, R392, R394). -/
def Hw.completion (s : Hw) (stroke : Nat) (late : Bool) (e : Ev) (q : Nat) : Cpl × Bool :=
  let trail := s.trailOf stroke e
  let closed := s.kv.closedToks.any fun k => decide (k.1 = stroke) && e.keyed k.2.1 k.2.2
  let res := s.evu.results.find? fun r => decide (r.1.1 = stroke) && decide (r.2.1 = q) && decide (r.2.2.1 = e.sqIndex)
  let status := if closed then 4 else if res.isSome then 0 else 6
  ({ sqIndex := e.sqIndex, status := status
     marks := b2n late + 2 * b2n e.deferred + 4 * b2n (!s.stk.syncOk) + 8 * b2n e.gap + 16 * b2n trail.isSome
     stroke := stroke, result := if status = 0 then (res.map fun r => r.2.2.2).getD 0 else 0
     trailSerial := BitVec.ofNat 32 ((trail.map (·.1)).getD 0), trailHerder := (trail.map (·.2)).getD 0 }, decide (status = 6))

/-- Every owed event that a stroke completes is completed, each queue pair's in ascending index: those that this stroke or an
earlier one took. Events returned to the intake wait there, and events deferred at a routed layer stay owed; a result record of
either is discarded (R43, R46, R394). LATE is told by what is known when the completions are written (log 198). -/
def Hw.completeStroke (s : Hw) (stroke : Nat) : Hw :=
  let late := s.stk.lateDone.contains stroke || decide (s.stk.num.toNat > stroke)
  let s := s.takeBack (stroke + 1)
  let due (e : Ev) : Bool := decide (e.took ≤ stroke)
  let isHeld (e : Ev) : Bool := s.evu.deferrals.any fun k => decide (k.1.1 = stroke) && e.keyed k.2.1 k.2.2
  let done := s.evu.owed.filter fun e => due e && !isHeld e
  let qs := (done.filterMap (·.qp)).foldl (fun r q => if r.contains q then r else q :: r) []
  let wasted := (s.evu.results.filter fun r => decide (r.1.1 = stroke) && !done.any fun e =>
    decide (e.qp = some r.2.1) && decide (e.sqIndex = r.2.2.1)).length
  let s := { s with stk := { s.stk with postDiscarded := BitVec.ofNat 32 (satAdd 32 s.stk.postDiscarded.toNat wasted) } }
  let s : Hw := qs.foldl (fun s q =>
    ((done.filter fun e => decide (e.qp = some q)).foldl (fun r e => insertByIndex e r) []).foldl (fun s e =>
      let (c, missing) := s.completion stroke late e q
      let s := if missing then { s with stk := { s.stk with postNoResult := satInc s.stk.postNoResult } } else s
      if e.muted then s else s.postCpl q c) s) s
  let ours : Bool := decide (s.evu.takenFor = some stroke)
  { s with evu := { s.evu with
      owed := (s.evu.owed.filter fun e => !due e || isHeld e).map fun e => if due e then e.defer else e
      taken := if ours then [] else s.evu.taken, takenFor := if ours then none else s.evu.takenFor
      results := s.evu.results.filter fun r => decide (stroke < r.1.1), trails := s.evu.trails.filter fun r => decide (stroke < r.1.1)
      deferrals := s.evu.deferrals.filter fun r => decide (stroke < r.1.1), postDue := none } }

/-- The last post beat of a stroke has committed: its events complete now, or, where the stroke is late and its work goes on,
when that work ends (R43). -/
def Hw.postStroke (s : Hw) (stroke : Nat) : Hw :=
  if s.stk.num.toNat > stroke ∧ s.stk.ended < stroke then { s with evu := { s.evu with postDue := some stroke } }
  else s.completeStroke stroke

/-- The work of a stroke has ended: completions that waited for it are written (R43). -/
def Hw.postWaiting (s : Hw) (stroke : Nat) : Hw :=
  if s.evu.postDue = some stroke then s.completeStroke stroke else s

/-- Events complete ABANDONED; a Leash event is only discarded (R392). -/
def Hw.abandonEvents (s : Hw) (es : List Ev) (stroke : Nat) : Hw :=
  let qs := (es.filterMap (·.qp)).foldl (fun r q => if r.contains q then r else q :: r) []
  qs.foldl (fun s q =>
    ((es.filter fun e => decide (e.qp = some q)).foldl (fun r e => insertByIndex e r) []).foldl (fun s e =>
      let trail := s.trailOf stroke e
      if e.muted then s else s.postCpl q { entryCpl e.sqIndex.toNat 5 stroke with
        marks := 2 * b2n e.deferred + 4 * b2n (!s.stk.syncOk) + 8 * b2n e.gap + 16 * b2n trail.isSome
        trailSerial := BitVec.ofNat 32 ((trail.map (·.1)).getD 0), trailHerder := (trail.map (·.2)).getD 0 }) s) s

/-- A billet is retired: every event that it took and has not completed is abandoned (R392). -/
def Hw.retireEvents (s : Hw) (stroke : Nat) : Hw :=
  let s := s.abandonEvents (s.evu.owed ++ s.evu.deferred ++ s.evu.fresh) stroke
  { s with evu := { nextOrd := s.evu.nextOrd } }

/-- A billet is replaced: events that wait for an intake pass to the new one; what the old one still owes is abandoned
(R40, R392). -/
def Hw.replaceEvents (s : Hw) (stroke : Nat) : Hw :=
  let s := s.takeBack (stroke + 1)
  let s := s.abandonEvents s.evu.owed stroke
  { s with evu := { s.evu with owed := [], taken := [], takenFor := none, results := [], trails := [], deferrals := [], postDue := none } }

/-! ## Configuration space (R369-R371) -/

/-- A DWORD of the function's configuration header: vendor and device, command, revision and class, header type 0 with one
function; a BAR shows its size and type when all-ones have been written to it (R370, R371; the header's layout is PRESUMED to be
the bus's own, log 215). -/
def Hw.configDword (s : Hw) (i : Nat) : W32 :=
  let low (bar : Nat) (prefetch : Bool) : W32 := BitVec.ofNat 32 (2 ^ 32 - min (2 ^ 32) (s.pci.barSizes.getD bar 0) + 4 + 8 * b2n prefetch)
  let high (bar : Nat) : W32 := BitVec.ofNat 32 (2 ^ 32 - max 1 (s.pci.barSizes.getD bar 0 / 2 ^ 32))
  match i with
  | 0 => s.pci.deviceId ++ Config.vendorId
  | 1 => if s.evt.busMaster then 4 else 0
  | 2 => s.pci.classCode ++ s.pci.revision
  | 4 => low 0 false
  | 5 => high 0
  | 6 => low 1 false
  | 7 => high 1
  | 8 => low 2 true
  | 9 => high 2
  | _ => 0

/-! ## Bus mastering (R374) -/

/-- Bus Master Enable changes: when it returns to 1, held vectors and completions are sent. -/
def execBusMasterEnableChange (on : Bool) (s : State) : Out :=
  s.act fun s => (let s := { s with evt := { s.evt with busMaster := on } }
    if on then s.qps.foldl (fun s en => Hw.pumpCpls (s.qp en.1).waiting.length s en.1) s.firePending else s)

end Sys2Proof.Machine
end

