-- ==== Sys2Proof/Machine/Routes.lean ====
section
/-!
DEFINITION. Loading cores from a billet's images (R90, R331) and route changes: arming, switching and withdrawing detour
sets, and the route epoch (R126-R130).
-/
namespace Sys2Proof.Machine

/-! ## Loading a core -/

/-- Write one detour entry over a core's routes. -/
def putDetour (m : NMap W64) (d : Detour) (c : Nat) : NMap W64 :=
  (d.entries.filter fun e => decide (e.1 = c)).foldl (fun m e => nput 0 m e.2.1 e.2.2) m

/-- The route entries of a core that runs an image: the image's set, and over it every detour set in force, in the order
in which they took effect (R89, R128). -/
def routesUnder (b : Billet) (on : List Nat) (image c : Nat) : NMap W64 :=
  on.foldl (fun m n => match b.fabric.detours[n]? with
    | some d => putDetour m d c
    | none => m) (nputList 0 [] 0 (b.routesOf image))

/-- A core that holds nothing: what its neighbours know of it stays. -/
def CoreState.clear (x : CoreState) : CoreState :=
  { dead := x.dead, diedAt := x.diedAt, stopped := x.dead, gated := x.gated, missed := x.missed, lastBeatSent := x.lastBeatSent }

/-- Initialise a core from an image: program, task table, SRAM records, routes, and the seed of its generator; everything
else starts at zero or empty (R90). A record's bytes past the SRAM's last address are dropped (DESIGN CHOICE, log 221). -/
def CoreState.loadImage (x : CoreState) (b : Billet) (on : List Nat) (c image stroke : Nat) : CoreState :=
  match b.core.images[image]? with
  | none => x.clear
  | some im =>
    let y := x.clear
    CoreState.seed
      { y with
        mapped := true, image := image, prog := im.instrs, tasks := im.tasks, formats := im.formats
        sram := im.inits.foldl (fun m e => nputList 0 m e.1 (e.2.take (sramSize - e.1))) []
        routes := routesUnder b on image c }
      (BitVec.ofNat 32 c ^^^ BitVec.ofNat 32 stroke)

/-- Clear every core that the state lists, as when its billet leaves it. -/
def Hw.clearCores (s : Hw) : Hw :=
  { s with cores := s.cores.foldl (fun m e => nput {} m e.1 e.2.clear) [] }

/-- Load one core of the running billet; in a parked field, and in one that is FAULTED, whose arithmetic no billet uses, it stays
gated (R27, R361). -/
def Hw.loadCore (s : Hw) (b : Billet) (c image stroke : Nat) : Hw :=
  let gated := decide ((s.fld (coreField c)).park ≠ .on) || decide ((s.fld (coreField c)).state = .faulted)
  s.onCore c fun x => { x.loadImage b s.flt.detoursOn c image stroke with gated := gated }

/-- At activation every mapped core is initialised, and no other core holds billet work (R90). -/
def Hw.loadCores (s : Hw) (b : Billet) (activation : Nat) : Hw :=
  b.core.map.foldl (fun s e => s.loadCore b e.1 e.2 activation) s.clearCores

/-- Image of a core by the running billet's core map. -/
def Billet.imageOf (b : Billet) (c : Nat) : Option Nat := (b.core.map.find? fun e => decide (e.1 = c)).map (·.2)

/-! ## Arming and switching (R127, R128) -/

/-- The billet that runs, if one does. -/
def Hw.image (s : Hw) : Option Billet := s.running.map (·.img)

/-- The billet is read again, for its detour data (R431). -/
def Hw.refresh (s : Hw) : Hw := match s.running with
  | none => s
  | some l => { s.drawn with running := some (s.reread l) }

/-- Detour set `n` replaces an entry that set `k` replaces too. -/
def Hw.setsMeet (s : Hw) (n k : Nat) : Bool :=
  match s.detour n, s.detour k with
  | some a, some b => a.entries.any fun (e : Nat × Nat × W64) => b.entries.any fun (e' : Nat × Nat × W64) => decide (e.1 = e'.1) && decide (e.2.1 = e'.2.1)
  | _, _ => false

/-- The wardens concerned have written a set, as the billet now holds it, into the shadow entries of their cores. -/
def Hw.armDetour (s : Hw) (n : Nat) : Hw :=
  let s := s.refresh
  let s : Hw := match s.detour n with
    | none => s
    | some d => d.entries.foldl (fun (s : Hw) (e : Nat × Nat × W64) => s.onCore e.1 fun x =>
        { x with routesShadow := nput 0 x.routesShadow e.2.1 e.2.2 }) s
  { s with flt := { s.flt with detoursArmed :=
    if s.flt.detoursArmed.contains n then s.flt.detoursArmed else s.flt.detoursArmed ++ [n] } }

/-- A set is to be withdrawn at the next boundary. -/
def Hw.armWithdraw (s : Hw) (n : Nat) : Hw :=
  if !s.flt.detoursOn.contains n || s.flt.withdrawArmed.contains n then s
  else
    let s := s.refresh
    { s with flt := { s.flt with withdrawArmed := s.flt.withdrawArmed ++ [n] } }

/-- A route change waits for its boundary: the boundary is held until it is done. -/
def Hw.routesDue (s : Hw) : Bool := !s.flt.detoursArmed.isEmpty || !s.flt.withdrawArmed.isEmpty

/-- Fields on the routes to which the withdrawal of a set returns its entries (R128). -/
def Hw.backFields (s : Hw) (n : Nat) : List Nat := match s.detour n, s.image with
  | some d, some b => (d.entries.flatMap fun e =>
      let x := s.core e.1
      if x.mapped then routeFields e.1 (nget 0 (routesUnder b (s.flt.detoursOn.filter fun k => decide (k ≠ n)) x.image e.1) e.2.1).toNat
      else []).eraseDups
  | _, _ => []

/-- Fields on an old or new route of the armed and withdrawn sets (R127). -/
def Hw.switchFields (s : Hw) : List Nat :=
  let parked (n : Nat) : List Nat := ((s.detour n).filter (·.park)).toList.map (·.field)
  (s.flt.detoursArmed.flatMap (fun n => parked n ++ s.setFields n) ++ s.flt.withdrawArmed.flatMap fun n => s.setFields n ++ s.backFields n).eraseDups

/-- Fields in which flits of a message stand: in routers, and at its source before they enter one. -/
def FMsg.fields (m : FMsg) : List Nat :=
  (if m.waiting = 0 then [] else [if m.sourceEndpoint then endpointField m.source else coreField m.source])
    ++ (m.bufs.filter fun b => decide (b.flits ≠ 0)).map fun b => (placeOf m.express b.x b.y).1

/-- No router of a field concerned holds a flit of the old epoch, as bit 0 tells it (R127). -/
def Hw.drained (s : Hw) : Bool :=
  let fs := s.switchFields
  !s.fabric.any fun m => decide (m.epoch % 2 = s.routeEpoch.toNat % 2) && m.fields.any fs.contains

/-- Sets that take effect at one boundary: in order, each that replaces no entry of one before it (R127). -/
def Hw.chooseSets (s : Hw) (ns : List Nat) : List Nat :=
  ns.foldl (fun r n => if ns.any fun k => decide (ns.idxOf k < ns.idxOf n) && s.setsMeet n k then r else r ++ [n]) []

/-- Route entries of every mapped core by the sets in force (R128). -/
def Hw.applyRoutes (s : Hw) : Hw :=
  match s.image with
  | none => s
  | some b => { s with cores := s.cores.foldl (fun m e =>
      nput {} m e.1 (if e.2.mapped then { e.2 with routes := routesUnder b s.flt.detoursOn e.2.image e.1 } else e.2)) [] }

/-- The armed entries replace the active ones in one cycle, withdrawn sets leave, and the epoch steps once
(R126-R128). -/
def Hw.switchRoutes (s : Hw) : Hw :=
  let now := s.chooseSets s.flt.detoursArmed
  let on := (s.flt.detoursOn.filter fun n => !s.flt.withdrawArmed.contains n) ++ now.filter fun n => !s.flt.detoursOn.contains n
  let later := s.flt.detoursArmed.filter fun n => !now.contains n
  let s := { s with
    flt := { s.flt with detoursOn := on, detoursArmed := later, withdrawArmed := [] }
    cores := s.cores.foldl (fun (m : NMap CoreState) (e : Nat × CoreState) => nput {} m e.1 { e.2 with routesShadow := [] }) []
    routeEpoch := s.routeEpoch + 1 }
  let s := s.applyRoutes
  later.foldl (fun s n => s.armDetour n) s

end Sys2Proof.Machine
end

