-- ==== Sys2Proof/Machine/Detect.lean ====
section
/-!
DEFINITION. Detection: heartbeats (R79, R324), core loss (R330), the wardens' reports (R325, R326, R328), warden status
(R26, R341), and messages between modules that name a stroke (R158, R199, R307).
-/
namespace Sys2Proof.Machine

/-! ## Heartbeats (R79, R324, R330) -/

/-- A park has gated the cores of a field, or its core rail is off (R79, R361). -/
def Hw.fieldGated (s : Hw) (f : Nat) : Bool := !(s.fld f).coreOn || decide ((s.fld f).park ≠ .on)

/-- A core is to send and to expect heartbeats: it is active, or a spare in use, in a field whose rail is on and that no
park has gated. -/
def Hw.beats (s : Hw) (c : Nat) : Bool :=
  (s.isActive c || (coreOk c && !s.isFailed c && !s.isPendingDead c && s.flt.remaps.any fun r => decide (r.2 = c)))
    && !s.fieldGated (coreField c)

/-- A core sends its periodic heartbeat, or an error symbol in its place; the neighbours that it misses are counted. -/
def execHeartbeat (c : CoreId) (s : State) : Out :=
  s.act fun s => (let n := c.toNat
    let x := s.core n
    if !s.beats n || x.dead then s
    else
      let near := (neighbours n).filter s.beats
      let s := s.setCore n { x with
        errSym := false, lastBeatSent := s.now
        missed := near.foldl (fun m k => if (s.core k).dead then nput 0 m k (nget 0 m k + 1) else m) x.missed }
      if x.errSym then s
      else near.foldl (fun s k => if (s.core k).dead then s else s.onCore k fun y => { y with missed := nput 0 y.missed n 0 }) s)

/-- Whether `reporter` may report `neighbour`: they are mesh neighbours, it lives, and it expects the heartbeat. -/
def Hw.mayReport (s : Hw) (reporter neighbour : Nat) : Bool :=
  s.beats reporter && !(s.core reporter).dead && s.beats neighbour && (neighbours reporter).contains neighbour

/-- Three heartbeats in a row missed: the neighbour is dead (R79, R330). -/
def execMissedHeartbeats (reporter neighbour : CoreId) (s : State) : Out :=
  s.act fun s => (if s.mayReport reporter.toNat neighbour.toNat then
      (s.onCore reporter.toNat fun x => { x with missed := nput 0 x.missed neighbour.toNat 3 }).coreDead neighbour.toNat 0
        s.curBeat [reporter.toNat]
    else s)

/-- A boundary heartbeat missing by cycle 16 of the new beat: the neighbour died in the beat that has ended (R324, R330). -/
def execBoundaryHeartbeatMiss (reporter neighbour : CoreId) (s : State) : Out :=
  s.act fun s => (if s.mayReport reporter.toNat neighbour.toNat then
      s.coreDead neighbour.toNat 1 (s.stk.uncommitted.getD s.curBeat) [reporter.toNat]
    else s)

/-- A core fails for good: it issues nothing and answers nothing; what it knew of its neighbours goes with it (R330). -/
def execCoreLoss (c : CoreId) (s : State) : Out :=
  s.act fun s => (if coreOk c.toNat then s.onCore c.toNat fun x => { x with dead := true, diedAt := if x.dead then x.diedAt else s.now, stopped := true, errSym := false, missed := [] }
    else s)

/-! ## Reports (R325-R328) -/

/-- The uncommitted beat that a flit's header names: its beat and the stroke's bits [1:0]. -/
def Hw.namedBeat (s : Hw) (beat stroke : Nat) : Option (Nat × Nat) :=
  (s.curBeat :: s.stk.uncommitted.toList).find? fun b => decide (b.2 = beat) && decide (b.1 % 4 = stroke)

/-- An error symbol of a core: the beat is replayed, and the second within the attempts at it declares the core dead. -/
def Hw.reportSymbol (s : Hw) (c addr : Nat) : Hw :=
  let k := (s.stk.workStroke, s.stk.beat, c)
  let s := s.onCore c fun x => { x with stopped := true }
  if s.flt.seenSym.contains k then s.coreDead c 2 s.curBeat []
  else ({ s with flt := { s.flt with seenSym := k :: s.flt.seenSym } }).openRecovery s.curBeat
    { cls := 0x01, loc := locCore c, address := addr, data := dat [addr] } s.now

/-- A flit error: the beat in the header is replayed; a committed one is uncontained, and so is a second error at the same
express router or block bus; at the same local router it declares the router's core dead (R325, R328). -/
def Hw.reportFlit (s : Hw) (f b k : Nat) (express : Bool) (port beat stroke : Nat) : Hw :=
  let i : RecIn := { cls := 0x02, loc := if express then locBlock f b else locCore (mkCore f b k), beat := beat
                     data := dat [b2n express, port, beat + stroke * 2 ^ 12] }
  if !s.live then s.record i
  else match s.namedBeat beat stroke with
    | none => s.uncontain i
    | some t =>
      let place := (t.1, t.2, ((f * 512 + b) * 64 + k) * 16 + port * 2 + b2n express)
      if s.flt.seenPort.contains place then
        if express then s.uncontain i else s.coreDead (mkCore f b k) 4 t []
      else ({ s with flt := { s.flt with seenPort := place :: s.flt.seenPort } }).openRecovery t i s.now

/-- The beat in which the read was issued that a bonded memory line answers: the oldest transfer of the field that waits
for it, else the beat in progress. -/
def Hw.lineReader (s : Hw) (f w line : Nat) : Nat × Nat :=
  let covers (o : PortOp) : Bool := !o.store && o.takes (decide (w = 1)) line
  match (s.cores.filter fun e => decide (coreField e.1 = f)).findSome? fun e => e.2.portQ.find? covers with
  | some o => (o.stroke, o.beat)
  | none => s.curBeat

/-- A bonded memory line failed its code: the beat is replayed, and a second failure within its attempts is persistent; a
read of a committed beat is read again by its port (R326). -/
def Hw.reportLine (s : Hw) (f w line : Nat) : Hw :=
  let b := s.lineReader f w line
  let k := (b.1, b.2, lineKey f w line)
  if s.live && !s.uncommittedBeat b then s
  else if s.flt.badLines.contains k then
    ({ s with flt := { s.flt with badLines := k :: s.flt.badLines } }).persistentLine f w line b
  else ({ s with flt := { s.flt with badLines := k :: s.flt.badLines } }).openRecovery b
    { cls := 0x03, loc := locField f, address := bonded f w (line * 64), data := dat [f, w, line] } s.now

/-- A warden's report reaches the Gweku. -/
def execFaultReport (d : Detection) (s : State) : Out :=
  s.act fun s => (match d with
    | .sramCrc c a => if coreOk c.toNat then s.reportSymbol c.toNat a.toNat else s
    | .coreDead c boundary =>
      if coreOk c.toNat then s.coreDead c.toNat (b2n boundary) (if boundary then s.stk.uncommitted.getD s.curBeat else s.curBeat) []
      else s
    | .flit f b k e p beat stroke => s.reportFlit f.val b.val k.val e p.toNat beat.toNat stroke.toNat
    | .memLine f w l => s.reportLine f.val (b2n w) l.toNat)

/-! ## Wardens (R26, R341) -/

/-- A warden's status word arrives: its link is up. -/
def execWardenStatus (f : FieldIx) (s : State) : Out :=
  s.act fun s => (s.onFld f.val fun x => { x with statusMissing := 0, gwekuLink := true })

/-- Three status words are missing: the link has failed, and an action that needs the warden cannot be completed, which is
uncontained where a recovery waits for it, under way or still held back (R26, R340, R341). -/
def execWardenLinkLoss (f : FieldIx) (s : State) : Out :=
  s.act fun s => (if !(s.fld f.val).gwekuLink then s
    else
      let s := s.onFld f.val fun x => { x with statusMissing := 3, gwekuLink := false }
      let i : RecIn := { cls := 0x0A, loc := locField f.val, data := dat [f.val] }
      let stuck := s.flt.actions.any fun a => !a.inField && (if a.started then a.awaits else a.wardens).contains f.val && (match a.act with
        | .remap _ => true
        | _ => false)
      let s := s.record i
      if stuck then s.uncontain i else s)

/-! ## Messages that carry a stroke (R307) -/

/-- The endpoint of a peer link's port site (R19, R116). -/
def peerEndpoint (p : Nat) : Nat := mkEndpoint p (if twoSites p then 7 else 6)

/-- A message whose stroke field differs from the module's own is discarded, counted, flagged and recorded. -/
def Hw.strokeSkew (s : Hw) (p kind stroke : Nat) : Hw :=
  let s := ({ s with spn := { s.spn with skewCnt := s.spn.skewCnt + 1 } }).raise 30
  s.record { cls := 0x23, loc := locPort p, data := dat [kind, stroke, s.stk.num.toNat % 4] }

/-- A port site delivers an inbound message over the fabric, and keeps it until the beat commits (R303, R305, R333). -/
def Hw.deliverInbound (s : Hw) (p : Nat) (m : PeerMsg) : Hw :=
  let src := peerEndpoint p
  let msg := unitMsg s src m.dest.toNat m.destEndpoint m.channel.toNat 0 m.payload
  let s := { s with fabric := s.fabric ++ [msg] }
  s.onPort p fun x => { x with kept := x.kept ++ [(s.stk.workStroke, s.stk.beat, msg)] }

/-- An ACT message delivers expert activations to its station (R158). -/
def execAct (p : PortIx) (m : PeerMsg) (s : State) : Out :=
  s.act fun s => (let s := s.popInbox p.val 3
    if p.val ≥ 48 then (s.leashDrop p.val false m.payload).raise 31
    else if m.stroke.toNat ≠ s.stk.num.toNat % 4 then s.strokeSkew p.val 3 m.stroke.toNat
    else s.deliverInbound p.val m)

/-- An ATTN message carries queries and rows to a member, or partials to a root (R199). -/
def execAttn (p : PortIx) (m : PeerMsg) (part : AttnPart) (s : State) : Out :=
  s.act fun s => (let s := s.popInbox p.val 4
    if p.val ≥ 48 then (s.leashDrop p.val false m.payload).raise 31
    else if m.stroke.toNat ≠ s.stk.num.toNat % 4 then s.strokeSkew p.val 4 m.stroke.toNat
    else
      let s := s.deliverInbound p.val m
      match s.running.bind fun l => l.img.kv with
      | none => s
      | some k => match part with
        | .rows q slot head pos bs =>
          (s.writeRows k q.toNat slot.toNat head.toNat pos.toNat bs).answerAbsent k m.srcRank q.toNat slot.toNat pos.toNat
        | .partialOf t head slot mem _ =>
          { s with kv := { s.kv with partials := s.kv.partials ++ [(t.toNat, slot.toNat, mem.toNat, some head.toNat)] } }
        | .absent t slot mem =>
          { s with kv := { s.kv with partials := s.kv.partials ++ [(t.toNat, slot.toNat, mem.toNat, none)] } })

end Sys2Proof.Machine
end

