-- ==== Sys2Proof/Machine/Logs.lean ====
section
/-!
DEFINITION. Rings and logs: trail records, copying to the flash logs, spilled records, the driver's tails (R343) and
telemetry (R345).
-/
namespace Sys2Proof.Machine

/-! ## The trail ring (R175, R343) -/

/-- Place of a trail stream offset in the migrating range. -/
def Hw.trailAt (s : Hw) (x : Nat) : Nat := pageOff s.flt.trailPage.toNat + x % trailRing

/-- Bytes of the trail ring from a stream offset; a range that reaches the ring's end goes on at its start. -/
def Hw.trailRead (s : Hw) (x n : Nat) : List Byte :=
  let k := min n (trailRing - x % trailRing)
  s.memRead (s.trailAt x) k ++ s.memRead (s.trailAt 0) (n - k)

/-- Commit one record, or a padding record, to the ring where there is room, else to the log only. -/
def Hw.putTrail (s : Hw) (bs : List Byte) : Hw :=
  let x := s.flt
  let n := BitVec.ofNat 64 bs.length
  if decide (x.tValid = x.tHead) && decide (x.tHead.toNat + bs.length ≤ min x.tTail.toNat x.tFlashed.toNat + trailRing) then
    { s.memWrite (s.trailAt x.tHead.toNat) bs with flt := { x with tHead := x.tHead + n, tValid := x.tValid + n } }
  else
    { s with flt := { x with tHead := x.tHead + n, tFlashed := if x.tFlashed = x.tHead then x.tHead + n else x.tFlashed }
             flash := { s.flash with trailLog := s.flash.trailLog ++ [(x.tHead.toNat, bs)] } }

/-- Commit a trail record; it never straddles the ring's end, whose gap a padding record of version 0 fills. -/
def Hw.commitTrail (s : Hw) (bs : List Byte) : Hw :=
  let left := trailRing - s.flt.tHead.toNat % trailRing
  let s := if bs.length ≤ left then s else s.putTrail (padTo left (leBytes 4 left))
  ((s.putTrail bs).judgeHigh).judgeFull

/-! ## Copying to the logs -/

/-- Put a record at its place in the fault log. -/
def putFaultLog (log : List (Nat × List Byte)) (x : Nat) (bs : List Byte) : List (Nat × List Byte) :=
  (x % faultLogSize, bs) :: log.filter fun e => decide (e.1 ≠ x % faultLogSize)

/-- Copy the fault records of the ring that are not in the log; spilled ones are there already. -/
def Hw.copyFaults (s : Hw) : Hw :=
  let x := s.flt
  let n := (x.valid - x.flashed).toNat
  let n := if n ≤ faultRing then n else 0
  let log := (List.range n).foldl (fun log i =>
    let k := x.flashed.toNat + i
    putFaultLog log k (s.memRead (x.ringBase.toNat + k % faultRing * 128) 128)) s.flash.faultLog
  { s with flash := { s.flash with faultLog := log }, flt := { x with flashed := x.head } }

/-- Copy the trail records of the ring that are not in the log. -/
def Hw.copyTrails (s : Hw) : Hw :=
  let x := s.flt
  let n := (x.tValid - x.tFlashed).toNat
  let n := if n ≤ trailRing then n else 0
  let log := if n = 0 then s.flash.trailLog else s.flash.trailLog ++ [(x.tFlashed.toNat, s.trailRead x.tFlashed.toNat n)]
  { s with flash := { s.flash with trailLog := log }, flt := { x with tFlashed := x.tHead } }

/-- Ring records are copied to the flash log and flashed advances. -/
def execLogCopy (trail : Bool) (s : State) : Out :=
  s.act fun s => ((if trail then s.copyTrails else s.copyFaults).judgeHigh).judgeFull

/-! ## Spilled records -/

/-- Copy spilled fault records from the log into the ring, in order, as room appears. -/
def refillFaults : Nat → Hw → Hw
  | 0, s => s
  | n + 1, s =>
    let x := s.flt
    let far := max (x.valid - x.tail).toNat (x.valid - x.flashed).toNat
    if x.valid = x.head ∨ far + 1 > faultRing then s
    else match s.flash.faultLog.find? fun e => decide (e.1 = x.valid.toNat % faultLogSize) with
      | none => s
      | some e => refillFaults n { s.memWrite (x.ringBase.toNat + x.valid.toNat % faultRing * 128) e.2 with
                                   flt := { x with valid := x.valid + 1 } }

/-- Copy spilled trail records from the log into the ring, in order, as room appears. -/
def refillTrails : Nat → Hw → Hw
  | 0, s => s
  | n + 1, s =>
    let x := s.flt
    if x.tValid = x.tHead then s
    else match s.flash.trailLog.find? fun e => decide (e.1 = x.tValid.toNat) && !e.2.isEmpty with
      | none => s
      | some e =>
        if x.tValid.toNat + e.2.length > min x.tTail.toNat x.tFlashed.toNat + trailRing then s
        else refillTrails n { s.memWrite (s.trailAt x.tValid.toNat) e.2 with
                              flt := { x with tValid := x.tValid + BitVec.ofNat 64 e.2.length } }

/-- Spilled records go back into the ring as room appears. -/
def execSpillRefill (trail : Bool) (s : State) : Out :=
  s.act fun s => (if trail then refillTrails s.flash.trailLog.length s else refillFaults s.flash.faultLog.length s)

/-! ## The driver's tails -/

/-- Records held in the Gweku are written, in order, once the log is no longer full. -/
def Hw.releaseHeld (s : Hw) : Hw :=
  if s.flt.fullFault then s
  else
    let held := s.flt.heldRecs
    held.foldl (fun s r => s.commitRecord r) { s with flt := { s.flt with heldRecs := [] } }

/-- After a tail has advanced: the limits are judged again and held records written. -/
def Hw.tailMoved (s : Hw) : Hw := (((s.judgeHigh).judgeFull).releaseHeld).judgeHigh

/-- A write of the fault tail is taken at or after the current tail and at or before valid; otherwise it is discarded. -/
def execFltRingTailWrite (value : W64) (s : State) : Out :=
  s.act fun s => (s.bar0 fun s => let t : W32 := value.setWidth 32
    if (t - s.flt.tail).toNat ≤ (s.flt.valid - s.flt.tail).toNat then
      ({ s with flt := { s.flt with tail := t } }).tailMoved
    else s)

/-- A write of the trail tail is taken within the same bounds and at a multiple of 8. -/
def execFltTrailTailWrite (value : W64) (s : State) : Out :=
  s.act fun s => (s.bar0 fun s => if value.toNat % 8 = 0 ∧ (value - s.flt.tTail).toNat ≤ (s.flt.tValid - s.flt.tTail).toNat then
      ({ s with flt := { s.flt with tTail := value } }).tailMoved
    else s)

/-! ## Telemetry (R345) -/

/-- Records in the telemetry ring, and its size. -/
def Flt.telFill (x : Flt) : Nat := ((x.telHead.setWidth 26 : BitVec 26) - x.telTail).toNat
def Flt.telRecords (x : Flt) : Nat := 2 ^ (x.telSize.toNat + 6)

/-- A record of priority p is dropped where its ring is at least 1 - 2^-(5-p) full; priority 0 only where it is full. -/
def Flt.telDrops (x : Flt) (p : Nat) : Bool :=
  if p = 0 then decide (x.telFill ≥ x.telRecords)
  else decide (x.telFill * 2 ^ (5 - p) ≥ x.telRecords * (2 ^ (5 - p) - 1))

/-- A telemetry record is written to its ring, or dropped by its priority and counted. -/
def execTelemetryRecord (bytes : List Byte) (s : State) : Out :=
  s.act fun s => (if !s.flt.telEnable then s
    else
      let p := min (at' bytes 1 1) 3
      let x := s.flt
      if x.telDrops p then
        { s with flt := { x with
          telDrop := nput 0 x.telDrop p (satAdd 16 (nget 0 x.telDrop p) 1)
          dropFirst := if x.dropsNow.isEmpty then s.stk.time else x.dropFirst
          dropLast := s.stk.time
          dropsNow := nput 0 x.dropsNow p (satAdd 32 (nget 0 x.dropsNow p) 1) } }
      else
        let s := (s.spanStoreAny s.spn.rank.toNat (addrOff x.telBase.toNat + x.telHead.toNat % x.telRecords * 64) (padTo 64 bytes)).1
        { s with flt := { s.flt with telHead := s.flt.telHead + 1 } })

/-- At the first boundary at least 1 ms after the last summary, drops since are summarised in a record (R345). -/
def Hw.telemetryBoundary (s : Hw) : Hw :=
  let x := s.flt
  if x.dropsNow.isEmpty ∨ (s.stk.time - x.summaryAt).toNat < 1000000 then s
  else
    let n (p : Nat) : Nat := nget 0 x.dropsNow p
    let data := leBytes 4 (n 0) ++ leBytes 4 (n 1) ++ leBytes 4 (n 2) ++ leBytes 4 (n 3)
      ++ leBytes 8 x.dropFirst.toNat ++ leBytes 8 x.dropLast.toNat
    let s := ({ s with flt := { x with dropsNow := [], summaryAt := s.stk.time } }).raise 35
    s.record { cls := 0x31, data := data }

end Sys2Proof.Machine
end

