-- ==== Sys2Proof/Machine/Ramps.lean ====
section
/-!
DEFINITION. Load ramps and ballast (R349, R350), what a billet declares, and the notices of a ramp sequence (R418).
-/
namespace Sys2Proof.Machine

/-- Rail group of a field. -/
def railGroup (f : Nat) : Nat := f / 2

/-- Fields whose ramp is in progress. -/
def Hw.rampsOn (s : Hw) : List Nat := (List.range 48).filter fun f => (s.fld f).ramping

/-- The most power that a field's ballast takes, in W (R350). -/
def ballastMax : Nat := 1200

/-- Whether a ramp of a field stands in the queue or is in progress. -/
def Hw.rampPending (s : Hw) (f : Nat) : Bool := (s.fld f).ramping || s.pwr.rampQ.any fun e => decide (e.1 = f)

/-- Start queued ramps in order: at most four at once, and one in a rail group (R349). -/
def Hw.pumpRamps (s : Hw) : Hw :=
  s.pwr.rampQ.foldl (fun s e =>
    let on := s.rampsOn
    if on.length ≥ 4 ∨ on.any (fun f => decide (railGroup f = railGroup e.1)) then s
    else
      let s := s.onFld e.1 fun x => { x with ramping := true, target := e.2 }
      { s with pwr := { s.pwr with rampQ := s.pwr.rampQ.erase e } }) s

/-- Queue the ramp of a field's load to a target; a ramp that has not started takes the new target. -/
def Hw.queueRamp (s : Hw) (f w : Nat) : Hw :=
  let q := if s.pwr.rampQ.any fun e => decide (e.1 = f) then s.pwr.rampQ.map fun e => if e.1 = f then (f, w) else e
    else s.pwr.rampQ ++ [(f, w)]
  { s with pwr := { s.pwr with rampQ := q } }
def Hw.rampTo (s : Hw) (f w : Nat) : Hw := (s.queueRamp f w).pumpRamps

/-- Power that a billet declares for a field: none without a thermal section (R358). -/
def Billet.declared (b : Billet) (f : Nat) : Nat := (b.thermal.map fun t => t.powers.getD f 0).getD 0
def Billet.declaredSum (b : Billet) : Nat := ((List.range 48).map b.declared).sum

/-- Declared power that runs on a field. -/
def Hw.workPower (s : Hw) (f : Nat) : Nat := nget 0 s.pwr.working f

/-- A ramp sequence is decided: the notice up the tree names its start, its net change and its duration (R418). -/
def Hw.rampNotice (s : Hw) (delta : Int) (ramps : Nat) : Hw :=
  { s with glb := { s.glb with up := s.glb.up ++ [.rampNotice s.stk.time delta ((ramps + 3) / 4)] } }

/-- At admission each field's ballast begins to ramp towards the power that the billet declares for it, beyond what the
billet that runs already takes; fields in ascending order, but for those whose cores a park has gated (R350, R361). -/
def Hw.rampForAdmission (s : Hw) (b : Billet) : Hw :=
  let want (f : Nat) : Nat := min ballastMax (b.declared f - s.workPower f)
  let fs := (List.range 48).filter fun f => decide ((s.fld f).park = .on) && decide (want f ≠ (s.fld f).ballast)
  let delta : Int := (fs.map fun f => (want f : Int) - ((s.fld f).ballast : Int)).sum
  if fs.isEmpty then s
  else ((fs.foldl (fun s f => s.queueRamp f (want f)) s).pumpRamps).rampNotice delta fs.length

/-- Work of declared power `d` starts on a field: the ballast gives way to it in the same cycle; work that starts before
the ballast has reached what it needs raises RAMP_EXCEEDED, and what ballast is left ramps to nothing (R350). -/
def Hw.startField (s : Hw) (d f : Nat) : Hw :=
  let x := s.fld f
  let reached := x.ballast + s.workPower f
  if d = 0 ∧ reached = 0 then s
  else
    let s := if reached ≥ d then s
      else
        let s := ({ s with pwr := { s.pwr with rampExceeded := true } }).raise 39
        s.record { cls := 0x46, loc := locField f, data := dat [f, d, reached] }
    let left := min ballastMax (reached - d)
    let s := s.onFld f fun x => { x with ballast := left }
    let s := { s with pwr := { s.pwr with working := nput 0 s.pwr.working f d } }
    if left = 0 then s else s.rampTo f 0

/-- Work of a billet starts on every field that no park holds (R350). -/
def Hw.startWork (s : Hw) (b : Billet) : Hw :=
  (List.range 48).foldl (fun s f => if (s.fld f).park = .on then s.startField (b.declared f) f else s) s

/-- Work stops on one field: ballast takes over its power in the same cycle (R350). -/
def Hw.stopField (s : Hw) (f : Nat) : Hw :=
  let s := s.onFld f fun x => { x with ballast := min ballastMax (x.ballast + s.workPower f) }
  { s with pwr := { s.pwr with working := nput 0 s.pwr.working f 0 } }

/-- Work stops on every field: ballast takes over its power in the same cycle and ramps down, in the order given
(R350, R364). -/
def Hw.stopWork (s : Hw) (order : List Nat) : Hw :=
  let fs := order.filter fun f => decide (s.workPower f ≠ 0)
  let delta : Int := -((fs.map fun f => (s.workPower f : Int)).sum)
  let n := fs.length
  let s := fs.foldl (fun s f => (s.onFld f fun x => { x with ballast := min ballastMax (x.ballast + s.workPower f) }).queueRamp f 0) s
  let s := ({ s with pwr := { s.pwr with working := [] } }).pumpRamps
  if n = 0 then s else s.rampNotice delta n

/-- Fields, the hottest first; of equal forecasts the lowest. -/
def Hw.byHeat (s : Hw) : List Nat :=
  (List.range 48).foldl (fun r f =>
    (r.takeWhile fun g => decide ((s.fld f).forecast ≤ (s.fld g).forecast)) ++ f ::
      (r.dropWhile fun g => decide ((s.fld f).forecast ≤ (s.fld g).forecast))) []

end Sys2Proof.Machine
end

