-- ==== Sys2Proof/Machine/Hearth.lean ====
section
/-!
DEFINITION. The hearth model (R355), sensors and coolant (R352-R354), the hearth steps (R356, R357, R364) and rotation
(R358, R359).
-/
namespace Sys2Proof.Machine

/-! ## Sensors (R353) -/

/-- A sensor reading and whether it is in range; a sensor not yet read has none. -/
def Field.reading (x : Field) (i : Nat) : Int × Bool := x.sensors.getD i (0, false)

/-- A pair's value: the higher of its valid readings, in 1/16 degree. -/
def Field.pair (x : Field) (k : Nat) : Option Int :=
  let a := x.reading (2 * k)
  let b := x.reading (2 * k + 1)
  if a.2 && b.2 then some (max a.1 b.1) else if a.2 then some a.1 else if b.2 then some b.1 else none

/-- A two's complement number of 64 bits. -/
def word (n : Int) : Nat := (BitVec.ofInt 64 n).toNat

/-- A pair is flagged suspect: the event, the register bits and a record (R353). -/
def Hw.flagSuspect (s : Hw) (f k : Nat) : Hw :=
  let x := s.fld f
  if x.suspects.getLsbD k then s
  else
    let s := s.onFld f fun x => { x with suspects := x.suspects ||| BitVec.ofNat 4 (2 ^ k) }
    let s := ({ s with pwr := { s.pwr with suspectFlag := true } }).raise 37
    s.record { cls := 0x40, loc := locField f, data := dat [f, k, word (x.reading (2 * k)).1, word (x.reading (2 * k + 1)).1] }

/-- A field whose sensors have come up. -/
def Hw.sensed (s : Hw) (f : Nat) : Bool := !(s.fld f).sensors.isEmpty

/-- Some valid pair reads at least `deg` degrees. -/
def Hw.anyPairAt (s : Hw) (deg : Int) : Bool :=
  (List.range 48).any fun f => (List.range 4).any fun k => match (s.fld f).pair k with
    | some v => decide (v ≥ deg * 16)
    | none => false

/-- The memory rails are off: what bonded memory held is lost, in the direct window and in every page of tier 1
(R273, R365). -/
def Hw.memoryOff (s : Hw) : Hw :=
  let kept (a : Nat) : Bool := decide (a ≥ migBase) && decide ((s.home (pageOf a)).tier ≠ 1)
  { s with mem := s.mem.filter fun e => kept e.1
           pwr := { s.pwr with memOn := 0, shed := 3 } }

/-- The 384 sensors are read; a reading outside -20 to 150 degrees is discarded, a pair with no valid reading is suspect,
and in retention a reading of 105 degrees takes the memory rails down at once (R353, R365). -/
def execSensorSample (readings : List Int) (s : State) : Out :=
  s.act fun s => (let s := (List.range 48).foldl (fun s f => s.onFld f fun x => { x with
      sensors := ((readings.drop (8 * f)).take 8).map fun v => (v, decide (-20 * 16 ≤ v) && decide (v ≤ 150 * 16)) }) s
    let s := (List.range 48).foldl (fun s f => (List.range 4).foldl (fun s k =>
      if s.sensed f && ((s.fld f).pair k).isNone then s.flagSuspect f k else s) s) s
    if decide (s.pwr.shed = 2) && s.anyPairAt 105 then s.memoryOff else s)

/-- Two valid readings of a pair differ by more than 3 degrees (R353). -/
def Field.apart (x : Field) (k : Nat) : Bool :=
  (x.reading (2 * k)).2 && (x.reading (2 * k + 1)).2 &&
    decide (48 < ((x.reading (2 * k)).1 - (x.reading (2 * k + 1)).1).natAbs)

/-- A pair whose readings differ by more than 3 degrees for more than 100 ms (R353). -/
def execSensorSuspect (f : FieldIx) (pair : Fin 4) (s : State) : Out :=
  s.act fun s => if (s.fld f.val).apart pair.val then s.flagSuspect f.val pair.val else s

/-! ## Coolant (R352, R354) -/

/-- The tray's readings: temperatures in 1/16 degree, flow in 0.01 L/min. -/
def execCoolantSample (inlet outlet flow : W16) (s : State) : Out :=
  s.act fun s => { s with pwr := { s.pwr with inlet := inlet, outlet := outlet, flow := flow, valid := true, coolantLost := false } }

/-- 100 ms without a valid reading: reported once until the next one. -/
def execCoolantTelemetry (s : State) : Out :=
  s.act fun s => (if s.pwr.coolantLost then s
    else
      let s := ({ s with pwr := { s.pwr with valid := false, coolantLost := true } }).raise 38
      s.record { cls := 0x41, data := dat [s.pwr.inlet.toNat, s.pwr.outlet.toNat, s.pwr.flow.toNat] })

/-! ## The forecast (R355) -/

/-- Flow expected in 25 ms, in 0.01 L/min, at least 1 L/min. -/
def Pwr.q25 (x : Pwr) : Int :=
  let q : Int := x.flow.toNat
  let old : Int := x.flowHist.getD 99 (x.flowHist.getLastD x.flow.toNat)
  max 100 (q + (q - old) / 4)

/-- Coolant temperature at a field, in 2^-16 K. -/
def Pwr.coolAt (x : Pwr) (f : Nat) : Int :=
  x.inlet.toInt * 4096 + (x.outlet.toInt - x.inlet.toInt) * 4096 * ((f / 8 + f % 8 : Nat) : Int) / 12

/-- The fifth root of a number, rounded down. -/
def fifthRoot (n : Nat) : Nat :=
  (List.range 60).foldl (fun r i => let c := r + 2 ^ (59 - i); if c ^ 5 ≤ n then c else r) 0

/-- r = r_cond + r_conv (q_nom / q25)^0.8, in 2^-16 K/W (R355). The arithmetic of the model is not stated: fixed point, rounded down
(DESIGN CHOICE, log 38). -/
def Pwr.hearthR (x : Pwr) : Nat :=
  let pow := fifthRoot ((x.qNom.toNat * 10) ^ 4 * 2 ^ 160 / x.q25.toNat ^ 4)
  (x.rCond.toNat * 2 ^ 32 + x.rConv.toNat * pow) * 65536 / (10 ^ 6 * 2 ^ 32)

/-- exp(-t / tau) for t in ms and tau = r c_f, in 2^-16 (R355). -/
def hearthExp (ms r cF : Nat) : Nat :=
  if r * cF = 0 then 0
  else
    let (p, k) := expFin true (ms * 6553600 * 2 ^ 64 / 1000 / (r * cF)) (-64)
    p >>> (-(k + 16)).toNat

/-- One field's node and forecast after 1 ms at power `p` (R355). A field with a pair that has no valid reading uses the model plus 5 K. -/
def Field.hearth (x : Field) (w : Pwr) (f p : Nat) : Field :=
  let r := w.hearthR
  let pr := (p : Int) * r
  let d := x.rise + (pr - x.rise) * (65536 - (hearthExp 1 r w.cF.toNat : Int)) / 65536
  let d25 := pr + (d - pr) * hearthExp 25 r w.cF.toNat / 65536
  let cool := w.coolAt f
  let vals := (List.range 4).map x.pair
  let offset : Int := if vals.any Option.isNone then 5 * 65536
    else max 0 ((vals.filterMap id).foldl max (-65536 * 300) * 4096 - (cool + d))
  { x with powerW := p, rise := d, forecast := (cool + d25 + offset) / 4096 }

/-! ## Steps (R356, R357, R364) -/

/-- Entry threshold of a step, in 1/16 degree. -/
def Pwr.entry (x : Pwr) (n : Nat) : Int :=
  16 * (([x.rotate.toNat, x.stretch.toNat, x.park.toNat].getD (n - 1) 95 : Nat) : Int)

/-- A step that the thermal policy allows: 0 EVEN, 1 STEADY, 2 HOLDFAST. -/
def stepAllowed (policy : BitVec 2) (n : Nat) : Bool :=
  if n = 1 then decide (policy ≠ 1) else if n = 2 then decide (policy ≠ 2) else true

/-- The event and the record of an entry (0) or an exit (1). -/
def Hw.logStep (s : Hw) (n exit : Nat) : Hw :=
  (s.raise 36).record { cls := 0x42, data := dat [n, exit, word s.pwr.forecast, s.pwr.hottest.toNat] }

def Hw.enterStep (s : Hw) (n : Nat) : Hw :=
  let s := { s with pwr := { s.pwr with steps := n :: s.pwr.steps, ownS := if n = 2 then 16 else s.pwr.ownS } }
  s.logStep n 0

def Hw.leaveStep (s : Hw) (n : Nat) : Hw :=
  ({ s with pwr := { s.pwr with steps := s.pwr.steps.filter fun k => decide (k ≠ n) } }).logStep n 1

/-- Step 4: the billet halts at the next boundary as an uncontained fault (R364). -/
def Hw.thermalHalt (s : Hw) : Hw :=
  let pairs := (List.range 4).map fun k => word (((s.fld s.pwr.hottest.toNat).pair k).getD 0)
  let i : RecIn := { cls := 0x44, loc := locField s.pwr.hottest.toNat
                     data := dat (word s.pwr.forecast :: s.pwr.hottest.toNat :: pairs) }
  let s := { s with pwr := { s.pwr with haltsCnt := satInc s.pwr.haltsCnt } }
  if s.live then s.uncontain i else s.record i

/-- While step 2 is in force s follows the forecast; when it is not, s falls back to 16 (R357). -/
def Pwr.adjustS (x : Pwr) : Pwr :=
  let t := x.entry 2
  if x.steps.contains 2 then
    { x with ownS := if x.forecast ≥ t - 48 then min 32 (x.ownS + 1)
                     else if x.forecast ≥ t - 96 then x.ownS else max 16 (x.ownS - 1) }
  else { x with ownS := max 16 (x.ownS - 1) }

/-! ## Rotation sets (R358, R359) -/

/-- The rotation sets of the running billet. -/
def Hw.rotSets (s : Hw) : List (Nat × RotSet) := match s.image.bind (·.thermal) with
  | some t => numbered t.sets
  | none => []

/-- The set of a field, with the field's place in it. -/
def Hw.setOf (s : Hw) (f : Nat) : Option (Nat × RotSet × Nat) :=
  s.rotSets.findSome? fun e => match e.2.members.findIdx? fun m => decide (m = f) with
    | some i => some (e.1, e.2, i)
    | none => none

/-- Whether member `i` is idle in a phase. -/
def RotSet.isIdle (r : RotSet) (phase i : Nat) : Bool := (r.idle.getD phase 0).testBit i

/-- Current phase of a set, with the stroke and the cycle of its last step. -/
def Hw.phaseOf (s : Hw) (i : Nat) : Nat × Nat × Nat := nget (0, 0, 0) s.pwr.phases i

/-- The billet's core map uses a field. -/
def Hw.mapsField (s : Hw) (f : Nat) : Bool := s.image.any fun b => b.fields.contains f

/-- A field is idle in its set's current phase; outside every set it is idle where the core map does not use it (R360). -/
def Hw.fieldIdle (s : Hw) (f : Nat) : Bool := match s.setOf f with
  | some (n, r, i) => r.isIdle (s.phaseOf n).1 i
  | none => !s.mapsField f

/-- A member of the set is parked, which holds its phase (R360). -/
def Hw.setHeld (s : Hw) (r : RotSet) : Bool := r.members.any fun m => decide ((s.fld m).park ≠ .on)

/-- The next phase after `p`, cyclically, in which member `i` is idle. -/
def RotSet.nextIdle (r : RotSet) (p i : Nat) : Option Nat :=
  ((List.range r.phases).map fun k => (p + 1 + k) % r.phases).find? fun q => r.isIdle q i

/-- Step a set to a phase (R359). A member that has unparked was idle in the phase that the park held, so its work returns
with this change (R360, R363). -/
def Hw.stepPhase (s : Hw) (n : Nat) (phase : Nat) : Hw :=
  { s with pwr := { s.pwr with phases := ninsert n (phase, s.stk.num.toNat, s.now) s.pwr.phases
                               phasesCnt := satInc s.pwr.phasesCnt } }

/-- The phase table: one byte per set (R359). -/
def Hw.phaseTable (s : Hw) : List Byte := s.rotSets.map fun e => BitVec.ofNat 8 (s.phaseOf e.1).1
def Hw.writePhases (s : Hw) : Hw := match s.image.bind (·.thermal) with
  | some t => s.memWriteAll t.phaseOff s.phaseTable
  | none => s

/-- Under step 1 the set of the hottest member advances, at least min_strokes and 1 ms after its last step (R359). -/
def Hw.rotate (s : Hw) : Hw :=
  if !s.pwr.steps.contains 1 then s
  else match s.byHeat.findSome? s.setOf with
    | none => s
    | some (n, r, i) =>
      let p := s.phaseOf n
      if s.setHeld r || decide (s.stk.num.toNat < p.2.1 + r.minStrokes) || decide (s.now < p.2.2 + 2400000) then s
      else s.stepPhase n ((r.nextIdle p.1 i).getD ((p.1 + 1) % r.phases))

/-- At activation every set takes its initial phase. -/
def Hw.initPhases (s : Hw) : Hw :=
  let ps : NMap (Nat × Nat × Nat) := s.rotSets.foldl (fun m e => ninsert e.1 (e.2.initial, s.stk.num.toNat, s.now) m) []
  ({ s with pwr := { s.pwr with phases := ps } }).writePhases

/-- A new thermal policy takes effect at a stroke boundary, and the steps it forbids are left (R3, R356). -/
def Hw.policyBoundary (s : Hw) : Hw :=
  if s.pwr.policy = s.pwr.policyNext then s
  else
    let s := { s with pwr := { s.pwr with policy := s.pwr.policyNext } }
    (s.pwr.steps.filter fun n => !stepAllowed s.pwr.policy n).foldl (fun s n => s.leaveStep n) s

/-- A write of THM_CFG: thresholds out of order discard it; policy 3 reads as 0 (R356, R368). -/
def execThmCfgWrite (value : W64) (s : State) : Out :=
  s.act fun s => (s.bar0 fun s => let v := value.toNat
    if bits v 8 2 < bits v 15 9 ∧ bits v 15 9 < bits v 22 16 ∧ bits v 22 16 < 95 then
      { s with pwr := { s.pwr with
        deepEnable := bit v 23, park := BitVec.ofNat 7 (bits v 22 16), stretch := BitVec.ofNat 7 (bits v 15 9)
        rotate := BitVec.ofNat 7 (bits v 8 2), policyNext := if bits v 1 0 = 3 then 0 else BitVec.ofNat 2 (bits v 1 0) } }
    else s)

end Sys2Proof.Machine
end

