-- ==== Sys2Proof/Machine/Park.lean ====
section
/-!
DEFINITION. Parking and unparking (R360-R363), the driver's requests, and the hearth's 1 ms tick (R355-R357, R364).
-/
namespace Sys2Proof.Machine

/-! ## What qualifies -/

/-- Detour set of a field, by the billet's field detour index (R130). -/
def Hw.fieldDetour (s : Hw) (f : Nat) : Option Nat :=
  (s.image.bind fun b => b.fabric.fieldDetour[f]?).filter fun n => (s.detour n).isSome

/-- Ports whose site lies in a field (R19). -/
def portsOf (f : Nat) : List Nat := (List.range 64).filter fun p => decide (portField p = f)

/-- A field qualifies for a deep park (R362). -/
def Hw.deepOk (s : Hw) (f : Nat) : Bool :=
  s.pwr.deepEnable && decide (f ≠ 0) && decide (f < 48) && (s.fieldDetour f).isSome && !s.mapsField f
    && (portsOf f).all (fun p => decide ((s.port p).state = .disabled))
    && !(s.image.bind (·.reduction)).any fun r => r.buckets.any fun b => decide (b.engine = f)

/-- A boundary action on a field's power is under way or waits. -/
def Hw.actionOn (s : Hw) (f : Nat) : Bool := s.flt.actions.any fun a => match a.act with
  | .park g => decide (g = f)
  | .deepPark g => decide (g = f)
  | .unpark g => decide (g = f)
  | _ => false

/-- A field may be parked at all: READY, powered, its wardens in reach (R26). -/
def Hw.parkFree (s : Hw) (f : Nat) : Bool :=
  decide (f < 48) && decide ((s.fld f).state = .ready) && decide ((s.fld f).park = .on) && !s.actionOn f
    && s.reaches f && s.reaches (f ^^^ 1)

/-- The phase that would leave a field idle, where the policy lets its set be stepped (R360). -/
def Hw.idlePhase (s : Hw) (f : Nat) : Option (Nat × Nat) := match s.setOf f with
  | none => none
  | some (n, r, i) => if s.setHeld r || decide (s.pwr.policy = 1) then none
    else (r.nextIdle (s.phaseOf n).1 i).map fun p => (n, p)

/-- A field that the hearth would park: at the park threshold, and idle now or after a step of its set. -/
def Hw.parkable (s : Hw) (f : Nat) : Bool :=
  s.parkFree f && decide ((s.fld f).forecast ≥ s.pwr.entry 3) && (s.fieldIdle f || (s.idlePhase f).isSome)

/-! ## Starting an action -/

/-- Cores of a field are gated and lose what they hold (R361). -/
def Hw.gateField (s : Hw) (f : Nat) : Hw :=
  let cs : NMap CoreState := s.cores.foldl (fun m e =>
    let x : CoreState := if coreField e.1 = f then { e.2.clear with gated := true } else e.2
    nput {} m e.1 x) []
  { s with cores := cs }

/-- Power to which a field ramps when it unparks: what the running billet declares for it. -/
def Hw.unparkPower (s : Hw) (f : Nat) : Nat := (s.image.map fun b => b.declared f).getD 0

/-- What the Gweku does when an action starts; the power of work that a park stops goes to ballast (R350, R361-R363). -/
def Hw.actionStarts (s : Hw) (a : BAction) : Hw := match a.act with
  | .park f =>
    let s := ((s.gateField f).stopField f).onFld f fun x => { x with
      park := .parking, parkedByDriver := a.byDriver, deepTest := false }
    (s.rampTo f 0).rampNotice (-((s.fld f).ballast : Int)) 1
  | .deepPark f =>
    let s := ((s.gateField f).stopField f).onFld f fun x => { x with
      park := .deepParking, deepTest := false, parkedByDriver := x.parkedByDriver || a.byDriver }
    s.rampNotice (-((s.fld f).ballast : Int)) 1
  | .unpark f =>
    let s := s.onFld f fun x => { x with park := .unparking }
    (s.rampTo f (s.unparkPower f)).rampNotice (s.unparkPower f) 1
  | _ => s

/-- The driver's request is final. -/
def Hw.prkFinal (s : Hw) (status : BitVec 2) : Hw :=
  { s with pwr := { s.pwr with prkDone := true, prkStatus := status } }

/-- A park that waited behind another action, whose field no longer qualifies (R361, R362). -/
def Hw.unfit (s : Hw) (a : BAction) : Bool := !a.started && match a.act with
  | .park f => !s.fieldIdle f || decide ((s.fld f).state ≠ .ready)
  | .deepPark f => !s.deepOk f || !(decide ((s.fld f).state = .parked) || (decide ((s.fld f).state = .ready) && s.fieldIdle f))
  | _ => false

/-- A park that no longer qualifies does not start; the driver's request ends unserved. -/
def Hw.dropUnfit (s : Hw) : Hw :=
  let gone := s.flt.actions.filter s.unfit
  let s : Hw := if gone.any (·.byDriver) then s.prkFinal 3 else s
  { s with flt := { s.flt with actions := s.flt.actions.filter fun a => !gone.contains a } }

/-- Start every action that no earlier one holds back (R25). -/
def Hw.runActions (s : Hw) : Hw :=
  let s := s.dropUnfit
  let now := startActions s.orders s.flt.actions
  let fresh := (s.flt.actions.zip now).filterMap fun e => if !e.1.started && e.2.started then some e.2 else none
  fresh.foldl (fun s a => s.actionStarts a) { s with flt := { s.flt with actions := now } }

/-- An action is asked for; what is asked for in one cycle starts in the order of R25. -/
def Hw.askAction (s : Hw) (a : BAction) : Hw :=
  { s with flt := { s.flt with actions := placeAction s.now s.flt.actions a } }

/-- Fields of a field's deep park: its own and every one whose routes its detour set changes. -/
def Hw.detourFields (s : Hw) (f : Nat) : List Nat := match s.fieldDetour f with
  | some n => (f :: s.setFields n).eraseDups
  | none => [f]

/-- Wardens of an unpark: the partner's for its load, the field's, and those of the routes that return (R24, R128, R363). -/
def Hw.unparkFields (s : Hw) (f : Nat) : List Nat :=
  if (s.fld f).state = .deepParked then ((f ^^^ 1) :: s.detourFields f ++ (match s.fieldDetour f with
    | some n => s.backFields n
    | none => [])).eraseDups
  else [f ^^^ 1, f]

def Hw.askPark (s : Hw) (f : Nat) (byDriver : Bool) : Hw :=
  s.askAction { act := .park f, wardens := [f, f ^^^ 1], rails := [railGroup f], awaits := [], started := false, byDriver := byDriver }
def Hw.askDeep (s : Hw) (f : Nat) (byDriver : Bool) : Hw :=
  s.askAction { act := .deepPark f, wardens := s.detourFields f, rails := [railGroup f], awaits := [], started := false
                byDriver := byDriver }
def Hw.askUnpark (s : Hw) (f : Nat) (byDriver : Bool) : Hw :=
  s.askAction { act := .unpark f, wardens := s.unparkFields f, rails := [railGroup f], awaits := [], started := false
                byDriver := byDriver }

/-! ## Completing an action -/

/-- The record of a park or unpark: field, kind (1 deep), park (0) or unpark (1), requester (1 the driver) (R367). -/
def Hw.parkRecord (s : Hw) (f : Nat) (deep unpark driver : Bool) : Hw :=
  s.record { cls := 0x43, loc := locField f, data := dat [f, b2n deep, b2n unpark, b2n driver] }

/-- Write into an unparked field's region the tables that its deep park skipped, as field 0, which is never deep-parked,
holds them (R363). -/
def Hw.catchUp (s : Hw) (f : Nat) : Hw :=
  let copy (s : Hw) (off n : Nat) : Hw := s.memCopy (bonded 0 0 off) (bonded f 0 off) n
  let s : Hw := match s.bwdSec with
    | some b => copy (copy (copy s b.stepOff 8) (b.stepOff + 16) 48) b.slotOff (16 * b.slotCount)
    | none => s
  let s : Hw := match s.wgt.sec with
    | some g => copy (copy (copy s g.ctxOff 8192) g.bindOff 524288) g.dtOff (256 * g.dtSize)
    | none => s
  let s := s.resRecs.foldl (fun (s : Hw) (r : ResRec) =>
    let s := copy s (r.off + 8) 8
    match s.resByteOff r.layer r.expert with
    | some off => copy s off 1
    | none => s) s
  match s.image.bind (·.thermal) with
  | some t => copy s t.phaseOff t.sets.length
  | none => s

/-- The core that does a mapped core's work: itself, or the spare that a remap gave it (R330). -/
def Hw.workerOf (s : Hw) (c : Nat) : Nat := match s.flt.remaps.find? fun r => decide (r.1 = c) with
  | some r => r.2
  | none => c

/-- Reload every mapped core of a field as at activation; the billet is read again (R90, R363, R431). -/
def Hw.reloadField (s : Hw) (f : Nat) : Hw := match s.running with
  | none => s
  | some l =>
    let l := s.reread l
    let s := { s.drawn with running := some l }
    (l.img.core.map.filter fun e => decide (coreField e.1 = f)).foldl
      (fun s e => s.loadCore l.img (s.workerOf e.1) e.2 l.activation) s

/-- Un-gate the cores of a field. -/
def Hw.ungate (s : Hw) (f : Nat) : Hw :=
  let cs : NMap CoreState := s.cores.foldl (fun m e =>
    let x : CoreState := if coreField e.1 = f then { e.2 with gated := false } else e.2
    nput {} m e.1 x) []
  { s with cores := cs }

/-- A field is parked, deep-parked or unparked once every acknowledgement is in, its ramp has ended and its routes have
switched; the action is then complete (R361-R363). -/
def Hw.actionDone (s : Hw) (a : BAction) : Option Hw :=
  if !a.started || !a.awaits.isEmpty then none
  else match a.act with
  | .park f =>
    if s.rampPending f then none
    else
      let s := s.onFld f fun x => { x with state := .parked, park := .parked }
      let s := { s with pwr := { s.pwr with parksCnt := satInc s.pwr.parksCnt } }
      let s := s.parkRecord f false false a.byDriver
      some (if a.byDriver then s.prkFinal 2 else s)
  | .deepPark f =>
    let on := (s.fieldDetour f).any fun n => s.flt.detoursOn.contains n
    if !on || s.rampPending f then none
    else
      let s := s.onFld f fun x => { x with state := .deepParked, park := .deepParked, coreOn := false }
      let s := { s with pwr := { s.pwr with parksCnt := satInc s.pwr.parksCnt } }
      let s := s.parkRecord f true false a.byDriver
      some (if a.byDriver then s.prkFinal 2 else s)
  | .unpark f =>
    let deep := decide ((s.fld f).state = .deepParked)
    let off := !deep || (!(s.fld f).ringTest && !(s.fieldDetour f).any fun n => s.flt.detoursOn.contains n)
    if !off || s.rampPending f then none
    else
      let s := (s.ungate f).onFld f fun x => { x with
        state := .ready, park := .on, coreOn := true, parkedByDriver := false }
      let s := if deep then s.catchUp f else s
      let s := ((s.reloadField f).startField (s.unparkPower f) f).parkRecord f deep true a.byDriver
      some (if a.byDriver then s.prkFinal 2 else s)
  | _ => none

/-- A deep-parked field has ramped up for its unpark: its routers go under test on their scan rings, whose bits clear (R27,
R363). -/
def Hw.startRingTests (s : Hw) : Hw :=
  s.flt.actions.foldl (fun s a => match a.act with
    | .unpark f =>
      if a.started && a.awaits.isEmpty && decide ((s.fld f).state = .deepParked) && !s.rampPending f && !(s.fld f).ringTest then
        s.onFld f fun x => { x with ringTest := true, ringsOk := 0 }
      else s
    | _ => s) s

/-- Complete what can be completed, and start what it held back; requests held for a field's regions go on. -/
def Hw.settleActions (s : Hw) : Hw :=
  let s := s.startRingTests
  let s := s.flt.actions.foldl (fun s a => match s.actionDone a with
    | some s => { s with flt := { s.flt with actions := s.flt.actions.erase a } }
    | none => s) s
  (List.range 96).foldl (fun s e => if (s.spanEng e).reqs.isEmpty then s else s.runEngine e false) s.runActions

/-- At a stroke boundary a deep park whose wardens have acknowledged arms its detour set, for this boundary (R127, R362). -/
def Hw.armDeeps (s : Hw) : Hw :=
  s.flt.actions.foldl (fun s a => match a.act with
    | .deepPark f => match s.fieldDetour f with
      | some n => if a.started && a.awaits.isEmpty && !s.flt.detoursOn.contains n then s.armDetour n else s
      | none => s
    | _ => s) s

/-- A ramp reaches its target: of a field, or at emergency shed of a whole rail group, whose fields are then off
(R349, R365). -/
def execRampComplete (f : FieldIx) (s : State) : Out :=
  s.act fun s => (if !(s.fld f.val).ramping then s
    else
      let s := s.onFld f.val fun x => { x with ramping := false, ballast := x.target }
      let s := { s with pwr := { s.pwr with rampCount := satInc s.pwr.rampCount } }
      if s.pwr.shed = 0 then (s.pumpRamps).settleActions
      else
        let g := railGroup f.val
        let s := [2 * g, 2 * g + 1].foldl (fun s k => (s.gateField k).onFld k fun x =>
          { x with state := .off, coreOn := false, ballast := 0, park := .on, parkedByDriver := false, deepTest := false }) s
        let s := { s with glb := { s.glb with field := s.glb.field &&& ~~~(BitVec.ofNat 48 (3 * 2 ^ (2 * g))) } }
        s.pumpRamps)

/-! ## Boundaries -/

/-- The driver's request, once its boundary has come: a refusal is final at once, what starts is final when it ends. -/
def Hw.driverPark (s : Hw) : Hw :=
  let f := s.pwr.prkField.toNat
  if s.pwr.prkStatus ≠ 1 ∨ s.flt.actions.any (·.byDriver) then s
  else if s.pwr.prkStroke ≠ 0 ∧ !reached36 s.stk.num s.pwr.prkStroke then s
  else match s.pwr.prkOp.toNat with
    | 1 => if s.parkFree f && s.fieldIdle f then s.askPark f true else s.prkFinal 3
    | 2 =>
      let from' := (s.parkFree f && s.fieldIdle f) || (decide ((s.fld f).state = .parked) && !s.actionOn f)
      if from' && s.deepOk f && (s.detourFields f).all s.reaches then s.askDeep f true else s.prkFinal 3
    | 3 =>
      if decide (f < 48) && (decide ((s.fld f).park = .parked) || decide ((s.fld f).park = .deepParked)) && !s.actionOn f
          && (s.unparkFields f).all s.reaches then
        s.askUnpark f true
      else s.prkFinal 3
    | _ => s

/-- Under step 3 the hottest field that qualifies is parked, its set stepped to a phase that leaves it idle where the policy
lets it (R360). -/
def Hw.hearthPark (s : Hw) : Hw :=
  if !s.pwr.steps.contains 3 then s
  else match s.byHeat.find? s.parkable with
    | none => s
    | some f =>
      let s := if s.fieldIdle f then s else match s.idlePhase f with
        | some (n, p) => s.stepPhase n p
        | none => s
      s.askPark f false

/-- Fields still at the park threshold 25 ms after a normal park are deep-parked if they qualify (R360, R362). -/
def Hw.hearthDeep (s : Hw) : Hw :=
  ((List.range 48).filter fun f => (s.fld f).deepTest).foldl (fun s f =>
    let s := s.onFld f fun x => { x with deepTest := false }
    if decide ((s.fld f).state = .parked) && s.deepOk f && !s.actionOn f && (s.detourFields f).all s.reaches then s.askDeep f false
    else s) s

/-- The scan of a field's rings ends: all 18 pass and its detour set is withdrawn from this boundary on; or the field is
FAULTED, its set stays in force and the unpark ends (R27, R128, R363; the result is not the module's choice, log 195). -/
def Hw.endRingTest (s : Hw) (a : BAction) (f : Nat) : Hw :=
  let rings := Config.ringScan s.draws
  let s := s.drawn
  if rings = BitVec.allOnes 18 then
    let s := s.onFld f fun x => { x with ringTest := false, ringsOk := rings }
    match s.fieldDetour f with
    | some n => s.armWithdraw n
    | none => s
  else
    let s := s.onFld f fun x => { x with ringTest := false, ringsOk := rings, state := .faulted, park := .deepParked }
    let s := { s with flt := { s.flt with actions := s.flt.actions.erase a }
                      glb := { s.glb with field := s.glb.field &&& ~~~(BitVec.ofNat 48 (2 ^ f)) } }
    if a.byDriver then s.prkFinal 2 else s

/-- Detour sets of deep-parked fields that unpark are withdrawn from this stroke boundary on, once every warden has
acknowledged and the routers have been tested (R128, R363). -/
def Hw.withdrawDeeps (s : Hw) : Hw :=
  s.flt.actions.foldl (fun s a => match a.act with
    | .unpark f => if a.started && a.awaits.isEmpty && (s.fld f).ringTest then s.endRingTest a f else s
    | _ => s) s

/-- The hearth's part of a stroke boundary (R356, R359-R363). -/
def Hw.hearthBoundary (s : Hw) : Hw :=
  let before := s.phaseTable
  let s := (s.policyBoundary).rotate
  let s := ((s.driverPark).hearthDeep).hearthPark
  let s := ((s.withdrawDeeps).armDeeps).settleActions
  if s.phaseTable = before then s else s.writePhases

/-! ## The tick and the timers -/

/-- Every 1 ms: powers and forecasts, the steps that the module forecast reaches, and s (R355-R357, R364); the measured
input is reported (R347). -/
def execHearthTick (powers : List Nat) (s : State) : Out :=
  s.act fun s => (let w := s.pwr
    let s := (List.range 48).foldl (fun s f => s.onFld f fun x => x.hearth w f (powers.getD f 0)) s
    let hot := s.byHeat.headD 0
    let s := { s with pwr := { s.pwr with
      hottest := BitVec.ofNat 6 hot, forecast := (s.fld hot).forecast, flowHist := (w.flow.toNat :: w.flowHist).take 100
      volts := Config.inputSample (3 * s.draws), amps := Config.inputSample (3 * s.draws + 1)
      power := Config.inputSample (3 * s.draws + 2) }, draws := s.draws + 1 }
    let stretched := s.pwr.steps.contains 2
    let reach (s : Hw) (n : Nat) : Bool :=
      !s.pwr.steps.contains n && stepAllowed s.pwr.policy n && decide (s.pwr.forecast ≥ s.pwr.entry n)
    let s := [1, 2, 3].foldl (fun s n => if reach s n then s.enterStep n else s) s
    let s := if !s.pwr.steps.contains 4 && ((decide (s.pwr.forecast ≥ s.pwr.entry 4) && !(List.range 48).any s.parkable)
        || s.anyPairAt 95) then (s.enterStep 4).thermalHalt else s
    -- step 2 is entered with s = 16, and s moves from the next tick on
    if s.pwr.steps.contains 2 && !stretched then s else { s with pwr := s.pwr.adjustS })

/-- A forecast below a step's threshold less 3 K for 100 ms: the step entered last is left; step 2 only with s back at 16
(R356, R357). -/
def execThermalStepExit (s : State) : Out :=
  s.act fun s => (match s.pwr.steps with
    | [] => s
    | n :: _ => if s.pwr.forecast < s.pwr.entry n - 48 ∧ (n = 2 → s.pwr.ownS = 16) then s.leaveStep n else s)

/-- 25 ms after a normal park the field is still at the park threshold: it is considered at the next boundary (R360). -/
def execDeepParkTimer (f : FieldIx) (s : State) : Out :=
  s.act fun s => (if decide ((s.fld f.val).park = .parked) && decide ((s.fld f.val).forecast ≥ s.pwr.entry 3) then
      s.onFld f.val fun x => { x with deepTest := true }
    else s)

/-- A forecast below the park threshold less 3 K for 100 ms: the hearth unparks the field, unless the driver parked it
(R363). -/
def execParkWithdraw (f : FieldIx) (s : State) : Out :=
  s.act fun s => (let x := s.fld f.val
    if (decide (x.park = .parked) || decide (x.park = .deepParked)) && !x.parkedByDriver && !s.actionOn f.val
        && decide (x.forecast < s.pwr.entry 3 - 48) && (s.unparkFields f.val).all s.reaches then (s.askUnpark f.val false).runActions
    else s)

/-- A request of the driver: it stands until its boundary; a field that does not exist is refused, and a write while one
is PENDING is discarded (R363, R368). -/
def Hw.submitPark (s : Hw) (op : BitVec 2) (f : BitVec 6) (stroke : BitVec 36) : Hw :=
  if s.pwr.prkStatus = 1 then s
  else
    let s := { s with pwr := { s.pwr with prkOp := op, prkField := f, prkStroke := stroke } }
    if op = 0 then s
    else if f.toNat ≥ 48 then s.prkFinal 3
    else { s with pwr := { s.pwr with prkDone := false, prkStatus := 1 } }

def execThmPark (f : BitVec 6) (stroke : BitVec 36) (s : State) : Out := s.act fun s => (s.bar0 fun s => s.submitPark 1 f stroke)
def execThmDeepPark (f : BitVec 6) (stroke : BitVec 36) (s : State) : Out := s.act fun s => (s.bar0 fun s => s.submitPark 2 f stroke)
def execThmUnpark (f : BitVec 6) (stroke : BitVec 36) (s : State) : Out := s.act fun s => (s.bar0 fun s => s.submitPark 3 f stroke)

end Sys2Proof.Machine
end

