-- ==== Sys2Proof/Machine/Replay.lean ====
section
/-!
DEFINITION. Acknowledgements of boundary orders (R23), spare remaps (R331, R332) and the replay of a beat (R80, R129,
R167, R237, R311, R327-R335), and the end of a recovery (R322, R334, R342).
-/
namespace Sys2Proof.Machine

/-! ## Acknowledgements -/

/-- A remap that every warden has acknowledged is ready for its boundary: its routes are armed. -/
def Hw.readyAction (s : Hw) (a : BAction) : Option Hw :=
  if !a.started || !a.awaits.isEmpty then none
  else match a.act with
  | .remap r => some (s.armDetour r.detour)
  | _ => none

/-- A warden acknowledges the first order that awaits it, over its link to the Gweku; an action that all have acknowledged is
complete, and those that it held back start (R23, R25, R26). A deep park arms its routes at the next stroke boundary. -/
def execWardenAck (f : FieldIx) (s : State) : Out :=
  s.act fun s => (match s.flt.actions.findIdx? fun a => a.started && a.awaits.contains f.val && (a.inField || s.reaches f.val) with
    | none => s
    | some i =>
      let s := { s with flt := { s.flt with actions := s.flt.actions.modify i fun a => { a with awaits := a.awaits.erase f.val } } }
      let s := s.flt.actions.foldl (fun s a => match s.readyAction a with
        | some s => { s with flt := { s.flt with actions := s.flt.actions.erase a } }
        | none => s) s
      s.settleActions)

/-! ## Spare remap (R331, R332) -/

/-- The restore records that apply at the start of a beat to a core of the map, with the core's restore base. -/
def Billet.restores (b : Billet) (core beat : Nat) : Nat × List Restore :=
  match b.recovery, b.core.map.findIdx? fun e => decide (e.1 = core), b.imageOf core with
  | some r, some i, some im => (r.bases.getD i 0, (r.lists.getD im []).filter fun x => decide (x.beat = beat))
  | _, _, _ => (0, [])

/-- Words of `n` bytes each from restore data. -/
def wordsOf (n : Nat) (bs : List Byte) : Nat → List Nat
  | 0 => []
  | k + 1 => leNat (sub bs 0 n) :: wordsOf n (bs.drop n) k

/-- Apply one restore record. Of the tasks named, the first is taken to be the one that was running, and restarts at its
resume index; the others are ready (DESIGN CHOICE, log 31). -/
def CoreState.restore (x : CoreState) (now : Nat) (data : List Byte) (r : Restore) : CoreState :=
  let w := r.word1.toNat
  match r.kind with
  | 0 => { x with sram := nputList 0 x.sram r.target ((data.take r.count).take (sramSize - r.target)) }
  | 1 => { x with dregs := nputList 0 x.dregs r.target ((wordsOf 16 data r.count).map (BitVec.ofNat 128)) }
  | 2 => { x with sregs := nputList 0 x.sregs r.target ((wordsOf 4 data r.count).map (BitVec.ofNat 32)) }
  | 3 => { x with vregs := nputList 0 x.vregs (16 * r.target) ((wordsOf 4 data (16 * r.count)).map (BitVec.ofNat 32)) }
  | 4 => { x with acc := nputList 0 x.acc (32 * r.target) ((wordsOf 4 data (32 * r.count)).map (BitVec.ofNat 32)) }
  | 5 =>
    let pend := bits w 12 9
    let x := { x with taskPend := nput 0 x.taskPend r.target pend }
    if x.running.isNone then { x with running := some r.target, pc := bits w 8 0 }
    else { x with ready := x.ready ++ [{ task := r.target, cycle := now }] }
  | 6 =>
    let ch : Chan := { bound := true, start := bits w 15 0, len := r.count, wp := bits w 31 16, count := bits w 39 32 }
    { x with chans := nput {} x.chans r.target ch }
  | _ => x

/-- Span requests of a core that are open on each token (R331). -/
def Hw.openToks (s : Hw) (c : Nat) : NMap Nat :=
  let x := s.spanEng (engineOf c)
  let ts := ((x.reqs.filter fun r => decide (r.core = c)).map (·.tok)) ++ ((x.fences.filter fun f => decide (f.core = c)).map (·.tok))
  (ts.filter fun t => decide (t ≠ 0)).foldl (fun (m : NMap Nat) t => nput 0 m t (nget 0 m t + 1)) []

/-- The span engine treats a spare as the dead core's source. -/
def Hw.moveRequests (s : Hw) (dead spare : Nat) : Hw :=
  let e := engineOf dead
  let x := s.spanEng e
  s.setSpanEng e { x with
    reqs := x.reqs.map fun r => if r.core = dead then { r with core := spare } else r
    fences := x.fences.map fun f => if f.core = dead then { f with core := spare } else f }

/-- The pair enters every herder's remap list; a list that would overflow is uncontained, with error code 9 (R168). -/
def Hw.remapHerders (s : Hw) (failed spare : Nat) : Hw :=
  (List.range 48).foldl (fun s h =>
    let x := s.herder h
    let rest := x.remap.filter fun r => decide (r.1 ≠ failed)
    if rest.length ≥ 64 then
      let i : RecIn := { cls := 0x10, loc := locEndpoint (mkEndpoint h 0), beat := s.stk.beat, detail := 9, data := dat [9, 0] }
      (s.herdErr h 9 0 0).uncontain i
    else s.setHerder h { x with remap := rest ++ [(failed, spare)] }) s

/-- A spare takes over a core's work at the replay of a beat (R331). The beat's snapshot takes the spare as it stands then, so that
a further replay draws the same numbers (R112). -/
def Hw.remapSpare (s : Hw) (b : Nat × Nat) (r : Remap) : Hw :=
  match s.image with
  | none => s
  | some im => match im.imageOf r.original with
    | none => s
    | some n =>
      let (base, rs) := im.restores r.original b.2
      let f := coreField r.original
      let s := s.moveRequests r.dead r.spare
      let toks := s.openToks r.spare
      let x := (s.core r.spare).loadImage im s.flt.detoursOn r.spare n b.1
      let x := rs.foldl (fun x k =>
        x.restore s.now (s.memRead (bonded f 0 (base + bits k.word1.toNat 39 0)) (k.count * restoreUnit k.kind)) k) x
      let x : CoreState := { x with toks := toks, gated := false }
      let snaps := s.snaps.map fun p => if (p.stroke, p.beat) = b then { p with cores := nput {} p.cores r.spare x } else p
      let s := { s.setCore r.spare x with snaps := snaps }
      let s := s.onCore r.dead fun y => { y with mapped := false }
      let s := { s with flt := { s.flt with
        remaps := (s.flt.remaps.filter fun (e : Nat × Nat) => decide (e.1 ≠ r.original)) ++ [(r.original, r.spare)]
        remapCnt := s.flt.remapCnt + 1 } }
      s.remapHerders r.original r.spare

/-! ## Restoring a beat (R80, R129, R167, R327) -/

/-- A core as its snapshot has it: the program, routes, SRAM and what concerns neighbours are not rewound; transfers of
earlier beats go on (R80, R81). -/
def CoreState.rewind (x old : CoreState) (beats : List (Nat × Nat)) : CoreState :=
  if !x.mapped then x
  else { old with
    sram := x.sram, prog := x.prog, tasks := x.tasks, formats := x.formats, routes := x.routes, routesShadow := x.routesShadow
    mapped := x.mapped, image := x.image, gated := x.gated, dead := x.dead, stopped := x.dead, errSym := false
    missed := x.missed, lastBeatSent := x.lastBeatSent
    portQ := x.portQ.filter fun o => !beats.contains (o.stroke, o.beat)
    portMoved := min x.portMoved (portLines (x.portQ.filter fun o => !beats.contains (o.stroke, o.beat))), portLast := x.portLast }

/-- Flits that a core's messages still hold at the source, for the express plane's injection arbiter. -/
def Hw.waitingFlits (s : Hw) (c : Nat) : Nat :=
  ((s.fabric.filter fun m => m.byArbiter && decide (m.source = c)).map (·.waiting)).sum

/-- A core's requests at its block's arbiters are for what it still has to move. -/
def Hw.resetRequests (s : Hw) (c : Nat) : Hw :=
  let f := coreField c
  let x := s.core c
  (s.arbSet f 0 (coreBlock c) (coreIndex c) (portLines x.portQ - x.portMoved)).arbSet f 1 (coreBlock c) (coreIndex c) (s.waitingFlits c)

/-- Count anew the tokens of what is still outstanding. -/
def Hw.recount (s : Hw) (c : Nat) : Hw :=
  s.onCore c fun x =>
    let sends := s.fabric.filter fun m => !m.sourceEndpoint && decide (m.source = c) && decide (m.waiting ≠ 0)
    let ts := (x.anvil.map (·.tok)) ++ (x.accQ.map (·.tok)) ++ (x.portQ.map (·.tok)) ++ sends.map (·.tok)
    { x with toks := (ts.filter fun t => decide (t ≠ 0)).foldl (fun (m : NMap Nat) t => nput 0 m t (nget 0 m t + 1)) (s.openToks c) }

/-- A herder as its snapshot has it: the running sort job, the remap list, the error capture, the count of committed records and
the driver's bias commit are not rewound, the biases that closes replaced are kept for them to be computed alike, and records of
beats that are not replayed stay, as does the room that a committed record has given back (R167, R175). -/
def Herder.rewind (x old : Herder) (beats : List (Nat × Nat)) : Herder :=
  let running := if x.sorting then x.sortQ.take 1 else []
  { old with
    sorting := x.sorting, sortAbort := x.sortAbort, sortJobs := x.sortJobs, sortDone := x.sortDone, sortPass := x.sortPass
    errCount := x.errCount, errLayer := x.errLayer, errToken := x.errToken, errCode := x.errCode, errFlag := x.errFlag
    biasCommit := x.biasCommit, biasCommitErr := x.biasCommitErr, biasLayer := x.biasLayer, remap := x.remap
    sortQ := running ++ old.sortQ.filter fun j => x.sortQ.contains j && !running.contains j
    trailCnt := x.trailCnt, replaced := x.replaced
    staging := old.staging.filter fun g => g.emitted.isNone || x.staging.contains g
    trailOut := x.trailOut.filter fun t => !beats.contains (t.1, t.2.1) }

/-- Put cores and herders back to a snapshot. -/
def Hw.rewindUnits (s : Hw) (p : Snap) (beats : List (Nat × Nat)) : Hw :=
  let cs := (s.cores.map (·.1)) ++ p.cores.map (·.1)
  let s := cs.foldl (fun s c => ((s.onCore c fun x => x.rewind (nget {} p.cores c) beats).recount c).resetRequests c) s
  (List.range 48).foldl (fun s h => s.onHerder h fun x => x.rewind (nget {} p.herders h) beats) s

/-- Discard what the replayed beats brought into being and has not left: messages in the fabric with their headers,
requests not taken up, messages held at ports, reduction entries, results (R129, R237, R311, R333). A message goes with its beat
and the epoch in force when that beat began; its credits are those of the buffers it leaves. -/
def Hw.discardBeats (s : Hw) (beats : List (Nat × Nat)) : Hw :=
  let epoch (b : Nat × Nat) : W64 := ((s.snaps.find? fun p => decide ((p.stroke, p.beat) = b)).map (·.epoch)).getD s.routeEpoch
  let named (m : FMsg) : Bool := beats.any fun b =>
    decide (m.beat = b.2) && decide (m.stroke % 4 = b.1 % 4) && decide (m.epoch = (epoch b).toNat % 256)
  let s := { s with fabric := s.fabric.filter fun m => !named m }
  let s := s.cores.foldl (fun s e => s.resetRequests e.1) s
  beats.foldl (fun s b =>
    let s := (List.range 96).foldl (fun s e => if (s.spanEng e).reqs.isEmpty then s else s.dropUntaken e b.1 b.2) s
    let s := (List.range 64).foldl (fun s p => if (s.port p).held.isEmpty then s else s.onPort p fun x =>
      { x with held := x.held.filter fun h => decide ((h.1, h.2.1) ≠ b) }) s
    { s.undoEntries b with evu := s.evu.forget b }) s

/-- Port sites deliver again what they had delivered in the replayed beats (R333). -/
def Hw.redeliver (s : Hw) (beats : List (Nat × Nat)) : Hw :=
  (List.range 64).foldl (fun s p =>
    let ms := ((s.port p).kept.filter fun k => beats.contains (k.1, k.2.1)).map fun k => { k.2.2 with epoch := s.routeEpoch.toNat % 256 }
    if ms.isEmpty then s else { s with fabric := s.fabric ++ ms }) s

/-- Index of the first and of the last post beat. -/
def StrokeSec.firstPost (x : StrokeSec) : Option Nat := x.beats.findIdx? (·.post)
def StrokeSec.lastPost (x : StrokeSec) : Option Nat := ((numbered x.beats).filter fun e => e.2.post).getLast?.map (·.1)

/-- The refetch that a recovery waits for (R337): none where it waits for none or the page is HOME again; some where it
is not. -/
def Hw.awaitPage (s : Hw) (v : Recovery) : Option Hw :=
  match v.page with
  | none => some s
  | some p => match s.flt.refetch.find? fun e => decide (e.1 = p) with
    | none => some s
    | some e => (s.refetchPage p).map fun s => { s with flt := { s.flt with refetch := s.flt.refetch.filter fun x => decide (x ≠ e) } }

/-- The hold is released and the named beat runs again from its first cycle (R327): once every remap has been
acknowledged, the page refetched and the old epoch's flits drained. -/
def execBeatReplay (s : State) : Out :=
  s.act fun s => (match s.flt.recovery with
    | none => s
    | some v =>
      let b := (v.stroke, v.beat)
      let remapping := s.flt.actions.any fun a => match a.act with
        | .remap _ => true
        | _ => false
      if !v.hold || s.flt.stopAll || remapping || !s.uncommittedBeat b then s
      else match s.awaitPage v, s.snaps.find? fun p => decide ((p.stroke, p.beat) = b) with
        | some s1, some p =>
          let beats := if b = s.curBeat then [b] else [b, s.curBeat]
          let s1 := s1.discardBeats beats
          if !s1.drained then s
          else
            let starts := s.startsOf b + 1
            let s1 := s1.rewindUnits p beats
            let s1 : Hw := match s1.running with
              | some l => if v.remaps.isEmpty then s1 else { s1.drawn with running := some (s1.reread l) }
              | none => s1
            let s1 := if s1.routesDue || !v.remaps.isEmpty then s1.switchRoutes else s1
            let s1 := v.remaps.foldl (fun s r => s.remapSpare b r) s1
            let s1 := s1.redeliver beats
            let walk := (s1.image.bind (·.kv)).any fun k => decide (k.walkBeat = b.2)
            let s1 := if walk then s1.rebuildLists else s1
            let s1 := if (s1.image.bind fun i => i.stroke.firstPost) = some b.2 then s1.evalFlagsAll else s1
            let last := (s1.image.bind fun i => i.stroke.lastWork)
            -- the last work beat of a stroke that had ended runs again
            let again := decide (b ≠ s.curBeat) && decide (last = some b.2) && decide (s1.stk.ended = b.1)
            { s1 with
              snaps := s1.snaps.filter fun q => !beats.contains (q.stroke, q.beat) || decide ((q.stroke, q.beat) = b)
              stk := { s1.stk with
                workStroke := b.1, beat := b.2, inBeat := true, beatStart := s1.now, triggered := false
                uncommitted := if s1.stk.uncommitted = some b then none else s1.stk.uncommitted
                working := s1.stk.working || again, ended := if again then b.1 - 1 else s1.stk.ended
                carried := if again then s1.stk.savedCarry else s1.stk.carried, endDue := s1.stk.endDue && !again }
              flt := { s1.flt with
                interrupt := if again then s1.flt.interrupt + s1.stk.savedInterrupt else s1.flt.interrupt
                starts := starts, replayCnt := s1.flt.replayCnt + 1
                recovery := s1.flt.recovery.map fun v => { v with hold := false } } }
        | none, _ => s.drawn
        | _, _ => s)

/-! ## The end of a recovery (R322, R334, R342) -/

/-- Nanoseconds of a number of core cycles. -/
def nsOf (cycles : Nat) : Nat := cycles * 5 / 12

/-- At the boundary that ends resynchronisation the records of the recovery are written, the first detection's first: each
with the interruption and outcome RECOVERED, and one REMAP record for each spare. -/
def Hw.finishRecovery (s : Hw) : Hw :=
  match s.flt.recovery with
  | none => s
  | some v =>
    if v.hold then s
    else
      let cycles := s.now - v.failedAt
      let first := s.flt.nextSerial
      let s := v.records.foldl (fun s r =>
        let rel := match r.related with
          | some k => some k
          | none => if s.flt.nextSerial = first then none else some first
        s.emitRecord { r with outcome := .recovered, recoveryNs := nsOf cycles, starts := s.flt.starts, related := rel }) s
      let s := v.remaps.foldl (fun s r =>
        let n := match s.image with
          | some b => (b.restores r.original v.beat).2.length
          | none => 0
        s.writeRecord { cls := 0x05, outcome := .recovered, loc := locCore r.dead, beat := v.beat, related := some first
                        data := dat [r.dead, r.spare, r.detour, n] }) s
      let s := { s with flt := { s.flt with recovery := none, interrupt := s.flt.interrupt + cycles } }
      (s.judgeHigh).judgeFull

end Sys2Proof.Machine
end

