-- ==== Sys2Proof/Machine/Strokes.lean ====
section
/-!
DEFINITION. Beats and strokes: beginning, ending and committing a beat (R30, R33, R39, R80, R324), lateness and overruns
(R33, R34), halting, retiring and activating a billet (R40, R41), and the stroke boundary (R28).
-/
namespace Sys2Proof.Machine

/-! ## Places in the stroke -/

/-- Cycles of the beats before one. -/
def StrokeSec.cyclesBefore (x : StrokeSec) (i : Nat) : Nat := ((x.beats.take i).map (·.length)).sum * 240

/-- Cycle of boundary B(n), where it is still kept. -/
def Hw.bound (s : Hw) (n : Nat) : Nat := nget 0 s.stk.bounds n

/-- Reserve that delay has used when beat `i` stands at its start or its end, in units (R52). -/
def Hw.delayUnits (s : Hw) (i : Nat) : Nat := match s.strokeSec with
  | none => 0
  | some x => (s.now - (s.bound s.stk.workStroke + x.cyclesBefore i) + 239) / 240

/-! ## The end of a stroke's work (R33, R34) -/

/-- What a stroke's end does to sequences and to herders; sequences see it once, whatever is replayed. -/
def Hw.runEnd (s : Hw) : Hw :=
  let s := if s.stk.endRun < s.stk.workStroke then s.kvStrokeEnd else s
  let s := (List.range 48).foldl (fun s h => s.onHerder h Herder.boundary) s
  { s with stk := { s.stk with endDue := false, endRun := max s.stk.endRun s.stk.workStroke } }

/-- An overrun: counted, flagged, and recorded with the beat whose measured cycles exceeded its declaration most; where none did,
as when recovery alone made the stroke late, with the beat in progress and no counts (R34, R39; log 199). -/
def Hw.overrun (s : Hw) (stroke : Nat) : Hw :=
  if s.stk.overDone.contains stroke then s
  else
    let (b, m, d) := s.stk.excess.getD (s.stk.beat, 0, 0)
    let s := ({ s with stk := { s.stk with overrunCnt := s.stk.overrunCnt + 1, overDone := stroke :: s.stk.overDone } }).raise 1
    s.record { cls := 0x08, beat := b, stroke := some stroke, data := dat [b, m, d] }

/-- The billet whose work is done runs BARE strokes; the policy in force may be the next one's already (R40). -/
def Hw.bareWork (s : Hw) : Bool := s.strokeSec.any (·.bare)

/-- A late GUARDED stroke is an overrun: recorded once its overlong beat has been measured, or with the end of its work (R34,
R39). -/
def Hw.guardedOverrun (s : Hw) (final : Bool) : Hw :=
  let w := s.stk.workStroke
  if !s.bareWork && decide (s.stk.num.toNat > w) && (final || s.stk.excess.isSome) then s.overrun w else s

/-- Work stops for good: late GUARDED strokes whose work has not ended are recorded as they stand. -/
def Hw.flushOverruns (s : Hw) : Hw :=
  if s.bareWork then s
  else (s.stk.lateDone.filter fun n => decide (s.stk.ended < n)).reverse.foldl (fun s n => s.overrun n) s

/-- The last work beat of a stroke has ended: carried recovery delay, an overrun, late_depth, and completions that waited (R33,
R34, R43). -/
def Hw.endWork (s : Hw) : Hw :=
  let k := s.stk
  let w := k.workStroke
  let carried := k.carried + s.flt.interrupt
  let late := decide (k.num.toNat > w)
  let x := s.now - s.bound (w + 1)
  let s := { s with
    stk := { k with ended := w, working := false, endDue := true, savedCarry := k.carried, savedInterrupt := s.flt.interrupt
                    carried := if late then min carried x else 0
                    lateDepth := if late then max 1 (k.num.toNat - 1 - w) else 0
                    reserveUsed := s.delayUnits (k.beat + 1) }
    flt := { s.flt with interrupt := 0 } }
  let s := if s.bareWork then (if late && decide (x > carried) then s.overrun w else s) else s.guardedOverrun true
  s.postWaiting w

/-! ## Beginning a beat (R30, R80, R167) -/

/-- A beat begins: cores and herders record their snapshots, and what is due in its first cycle comes about: the walk of
walk_beat (R191), the flags at the first post beat (R171). -/
def Hw.startBeat (s : Hw) (w i : Nat) : Hw :=
  let s := if s.stk.endDue then s.runEnd else s
  match s.running with
  | none => s
  | some l =>
    let x := l.img.stroke
    let first := decide (i = 0)
    let p : Snap := { stroke := w, beat := i, epoch := s.routeEpoch, cores := s.cores, herders := s.herders }
    let s := { s with
      snaps := p :: s.snaps
      stk := { s.stk with workStroke := w, beat := i, inBeat := true, triggered := false, beatStart := s.now
                          working := if first then x.lastWork.isSome else s.stk.working
                          excess := if first then none else s.stk.excess }
      flt := { s.flt with prevStarts := s.flt.starts, starts := 1 } }
    let s := { s with stk := { s.stk with reserveUsed := if s.stk.working then s.delayUnits i else s.stk.reserveUsed } }
    let s := if first && x.lastWork.isNone then s.endWork else s
    let s := if l.img.kv.any fun k => decide (k.walkBeat = i) then s.walk else s
    if x.firstPost = some i then s.evalFlagsAll else s

/-- Whether work may begin at all: a billet runs, no recovery holds it, no route change is due (R33, R127, R327). -/
def Hw.mayStart (s : Hw) : Bool :=
  s.runs && !s.stk.inBeat && !s.flt.held && !s.flt.stopAll && !s.routesDue && !s.stk.closing && !s.stk.workHalted && s.running.isSome

/-- The next stroke's work begins at the later of its boundary and the end of the work before it (R33). The strokes before
an activation that has come are still the old billet's (R40). -/
def Hw.tryStart (s : Hw) : Hw :=
  let n := s.stk.ended + 1
  if s.mayStart && decide (n ≤ s.stk.num.toNat) && !s.incoming.any (fun l => decide (l.activation ≤ n)) then s.startBeat n 0
  else s

/-! ## Commit (R46, R175, R237, R311, R324, R333) -/

/-- The effects of a beat leave the replay domain. -/
def Hw.commitBeat (s : Hw) (t : Nat × Nat) : Hw :=
  let s := (List.range 96).foldl (fun s e => if (s.spanEng e).reqs.isEmpty then s else s.takeUp e t.1 t.2) s
  let s := s.reapLoans
  let s := (List.range 64).foldl (fun s p =>
    let x := s.port p
    if x.held.isEmpty && x.kept.isEmpty then s
    else
      let out := x.held.filter fun h => decide ((h.1, h.2.1) = t)
      let s := s.setPort p { x with held := x.held.filter fun h => decide ((h.1, h.2.1) ≠ t)
                                    kept := x.kept.filter fun h => decide ((h.1, h.2.1) ≠ t) }
      out.foldl (fun s h => s.sendPort p h.2.2) s) s
  let s := s.commitEntries t
  let s := (List.range 48).foldl (fun s h =>
    let x := s.herder h
    if x.trailOut.isEmpty then s
    else
      let out := x.trailOut.filter fun r => decide ((r.1, r.2.1) = t)
      let s := s.setHerder h { x with trailOut := x.trailOut.filter fun r => decide ((r.1, r.2.1) ≠ t)
                                      trailCnt := x.trailCnt + BitVec.ofNat 64 out.length
                                      staging := x.staging.filter fun g => decide (g.emitted ≠ some t) }
      out.foldl (fun s r => s.commitTrail r.2.2) s) s
  let last : Option Nat := s.strokeSec.bind StrokeSec.lastPost
  let s := if last = some t.2 then s.postStroke t.1 else s
  { s with
    snaps := s.snaps.filter fun p => decide ((p.stroke, p.beat) ≠ t)
    flt := { s.flt with
      seenSym := s.flt.seenSym.filter fun e => decide ((e.1, e.2.1) ≠ t)
      seenHolder := s.flt.seenHolder.filter fun e => decide ((e.1, e.2.1) ≠ t)
      seenPort := s.flt.seenPort.filter fun e => decide ((e.1, e.2.1) ≠ t)
      badLines := s.flt.badLines.filter fun e => decide ((e.1, e.2.1) ≠ t) }
    stk := { s.stk with uncommitted := none } }

/-! ## Retiring (R40, R41, R177, R213, R248, R266, R392) -/

/-- Work that the herders still hold deferred is abandoned (R40, R154). -/
def Hw.abandonPools (s : Hw) : Hw :=
  (List.range 48).foldl (fun s h =>
    ((s.herder h).reenter ++ (s.herder h).pool).foldl (fun s p => s.abandonWork 0 [h, p.entry.token, p.entry.eventId.toNat]) s) s

/-- Requests of cores at arbiters go with their work; those of units stay (R131). -/
def Hw.dropCoreRequests (s : Hw) : Hw :=
  let clean (k : Nat) (a : Arb) : Arb :=
    let mine (i : Nat) : Bool := decide (k / 512 % 128 ≤ 1) && decide (i < 64)
    { a with reqs := a.reqs.filter fun e => !mine e.1, tenures := a.tenures.filter fun t => !mine t.input }
  let as : NMap Arb := s.arbs.foldl (fun m e => nput {} m e.1 (clean e.1 e.2)) []
  { s with arbs := as }

/-- No core, route or recovery of a billet is left. A retirement named for a later stroke goes with the billet that it would have
retired (DESIGN CHOICE, log 200). -/
def Hw.clearWork (s : Hw) : Hw :=
  let s := (s.clearCores).dropCoreRequests
  { s with
    snaps := [], fabric := []
    flt := { s.flt with
      recovery := none, stopAll := false, remaps := [], detoursOn := [], detoursArmed := [], withdrawArmed := []
      seenSym := [], seenHolder := [], seenPort := [], badLines := [], interrupt := 0, starts := 1, prevStarts := 1
      actions := s.flt.actions.filter fun a => match a.act with
        | .remap _ => false
        | _ => true }
    stk := { s.stk with
      working := false, inBeat := false, uncommitted := none, endDue := false, haltNext := false, haltUncontained := false, workHalted := false
      lateDepth := 0, carried := 0, excess := none, closing := false, retireAt := none, reserveUsed := 0 } }

/-- The running or halted billet leaves the module. -/
def Hw.retireNow (s : Hw) : Hw :=
  let last := s.stk.num.toNat - 1
  let s := if s.stk.endDue then s.runEnd else s.flushOverruns
  let s := (s.abandonPools).abandonBuckets
  let s := s.retireEvents last
  let s := (List.range 48).foldl (fun s h => (s.sortRetire h).onHerder h fun x => x.activate false) s
  let s := (s.freeSteps).freeAllSlots
  let s := (s.stopWork (List.range 48)).clearWork
  { s with running := none
           kv := { s.kv with sec := if s.kv.live.isEmpty then none else s.kv.sec }
           wgt := { s.wgt with sec := none } }

/-- Ballast that stood ready for a billet that is discarded ramps back. -/
def Hw.rampBack (s : Hw) : Hw :=
  let fs := (List.range 48).filter fun f => decide ((s.fld f).ballast ≠ 0) || s.rampPending f
  let delta : Int := -((fs.map fun f => ((s.fld f).ballast : Int)).sum)
  if fs.isEmpty then s else ((fs.foldl (fun s f => s.queueRamp f 0) s).pumpRamps).rampNotice delta fs.length

/-- The armed billet is discarded, with what was loaded under it alone, and its ballast ramps back (R41, R266, R350). -/
def Hw.dropArmed (s : Hw) : Hw := (s.dropLoaded).rampBack

/-! ## Activating (R40, R90, R138, R168, R229, R292, R358) -/

/-- The geometry of a weight section, by which slots outlive a change of billet (R266). -/
def WgtSec.geometry (g : WgtSec) : List Nat × List TensorDef × List Tile × W64 :=
  ([g.tensorCount, g.adapterTensors, g.ctxOff, g.dtOff, g.dtSize, g.bindOff], g.tensors, g.tiles, g.trainMask)

/-- What changes with B(activation) itself, whatever work of the old billet still runs: the state, the stroke policy and period,
the arbiters' ranking (R3, R29, R40, R41, R138). The billet is read again (R431). -/
def Hw.adopt (s : Hw) (l : Loaded) : Hw × Loaded :=
  let l := s.reread l
  let b := l.img
  let state : StkState := if s.stk.state = .late then .late else .running
  let s := { s.drawn with stk := { s.stk with
    state := state, period := BitVec.ofNat 18 b.stroke.period, bare := b.stroke.bare } }
  (s.activateArbs b.arbiter, l)

/-- The adopted billet takes over the cores and the units, the old one's work having ended: what the old one left open is
abandoned, and every unit takes the new billet's sections (R40; log 194). -/
def Hw.activateNow (s : Hw) (l : Loaded) : Hw :=
  let b := l.img
  let old := s.running.isSome
  let late := if s.runs then s.stk.lateDepth else 0
  let s := if s.stk.endDue then s.runEnd else s
  let s := if old then ((s.abandonPools).abandonBuckets).replaceEvents (l.activation - 1) else s
  let s := if (s.wgt.sec.map WgtSec.geometry) = (b.weight.map WgtSec.geometry) then s else s.freeAllSlots
  let s := s.clearWork
  let s := { s with
    running := some l, incoming := none, routeEpoch := s.routeEpoch + 1
    kv := { s.kv with sec := if s.kv.live.isEmpty then b.kv else b.kv.or s.kv.sec }
    wgt := { s.wgt with sec := b.weight }
    stk := { s.stk with
      lateDepth := late, ended := l.activation - 1, endRun := l.activation - 1, workStroke := l.activation - 1, beat := 0 } }
  let s := s.loadCores b l.activation
  let s := s.activateTongs b.tongs
  let s := (s.activateBwd).activateRed
  let s : Hw := match b.backward with
    | some w => if w.arrangement = 1 then s.activateSlots w else s
    | none => s
  let s := (List.range 48).foldl (fun s h => s.onHerder h fun x => x.activate (b.herder.isSome && b.fields.contains h)) s
  ((s.writeCtxTable).initPhases).startWork b

/-- What waited for the last beat to commit: a retirement, then a billet whose activation stroke has come (R40, R324). -/
def Hw.afterCommit (s : Hw) : Hw :=
  if s.stk.inBeat || s.stk.uncommitted.isSome then s
  else
    let s := if s.stk.closing then s.retireNow else s
    match s.incoming with
    | some l => if s.running.isNone || s.stk.workHalted || decide (l.activation ≤ s.stk.ended + 1) then s.activateNow l else s
    | none => s

/-- At cycle 48 of the following beat a beat that no detection has named commits (R324). -/
def execBeatCommit (s : State) : Out :=
  s.act fun s => (match s.stk.uncommitted with
    | none => s
    | some t =>
      let named := s.flt.recovery.any fun v => v.hold && decide ((v.stroke, v.beat) = t)
      if named || s.flt.stopAll then s else (((s.commitBeat t).afterCommit).tryStart))

/-! ## The end of a beat (R30, R33, R39) -/

/-- The beat in progress ends after `measured` cycles of work: what is late in it is settled, its recovery is over, and it
waits to commit. -/
def Hw.endBeat (s : Hw) (measured : Nat) : Hw :=
  let i := s.stk.beat
  let worst := (s.curDesc.map (·.worst)).getD 0
  let e := s.stk.excess
  let more : Bool := decide (measured > worst) && (match e with
    | some (_, m, d) => decide (measured - worst > m - d)
    | none => true)
  let s := (s.logitsLateAll i).mergeEnd i
  let s := s.finishRecovery
  let e' : Option (Nat × Nat × Nat) := if more then some (i, measured, worst) else e
  let s : Hw := { s with stk := { s.stk with inBeat := false, uncommitted := some (s.stk.workStroke, i), excess := e' } }
  let last : Option Nat := s.strokeSec.bind StrokeSec.lastWork
  let s := if last = some i then s.endWork else s.guardedOverrun false
  let s := if s.stk.workHalted && last ≠ some i then s.flushOverruns else s
  s.failoverBoundary

/-- After a beat: the next one begins, unless the stroke's beats are over or the boundary has passed the reserve. A route change
holds the boundary (R127). -/
def Hw.nextBeat (s : Hw) : Hw := match s.strokeSec with
  | none => s
  | some x =>
    let i := s.stk.beat + 1
    let w := s.stk.workStroke
    if !s.runs || s.stk.closing || s.stk.workHalted || s.routesDue then s
    else if i < x.beats.length ∧ (s.stk.working ∨ s.stk.num.toNat = w) then s.startBeat w i
    else s.tryStart

/-- The beat's length expires, or its lengthened work ends, and the next beat begins. A recovery, and a beat that has not
committed, hold the boundary. -/
def execBeatBoundary (measured : Nat) (s : State) : Out :=
  s.act fun s => (if !s.stk.inBeat || s.stk.uncommitted.isSome || s.flt.held || s.flt.stopAll then s
    else (s.endBeat measured).nextBeat)

/-- At a held beat boundary armed route entries replace the active ones once no old-epoch flit is left; a deep-parked field's
load then ramps to nothing, and the next beat begins (R126-R128, R362). -/
def execRouteSwitch (s : State) : Out :=
  s.act fun s => (if !s.routesDue || s.stk.inBeat || s.flt.held || !s.drained then s
    else
      let was := s.flt.detoursOn
      let s := s.switchRoutes
      let s := s.flt.actions.foldl (fun s a => match a.act with
        | .deepPark f => match s.fieldDetour f with
          | some n => if s.flt.detoursOn.contains n && !was.contains n then s.rampTo f 0 else s
          | none => s
        | _ => s) s
      (s.settleActions).nextBeat)

/-- At cycle 24 of a beat every beat task of that beat is triggered (R74). -/
def execBeatTaskTrigger (s : State) : Out :=
  s.act fun s => (if !s.stk.inBeat || s.stk.triggered || s.flt.held || s.flt.stopAll then s
    else
      let i := s.stk.beat
      let s := { s with stk := { s.stk with triggered := true } }
      s.cores.foldl (fun s e =>
        if !e.2.mapped || e.2.gated || e.2.stopped || e.2.dead then s
        else s.triggerTasks e.1 ((List.range 32).filter fun t =>
          let w := e.2.task t
          taskValid w && decide (taskKind w = 0) && decide (taskParam w = i))) s)

/-! ## The stroke boundary (R28) -/

/-- Lateness at B(n): the stroke that has just closed is late if its work has not ended; LATE ends where the work has caught up
(R33, R34, R41). -/
def Hw.judgeLate (s : Hw) : Hw :=
  let n := s.stk.num.toNat
  if !s.runs || s.flt.stopAll then s
  else if s.stk.ended + 1 ≥ n then
    { s with stk := { s.stk with state := if s.stk.lateDepth = 0 then .running else s.stk.state } }
  else
    let depth := min 127 (n - 1 - s.stk.ended)
    let s := ({ s with stk := { s.stk with
      lateCnt := s.stk.lateCnt + 1, lateDepth := depth, state := .late, lateDone := (n - 1) :: s.stk.lateDone.take 255
      haltNext := s.stk.haltNext || decide (depth > s.stk.lateLimit.toNat) } }).raise 0
    s.guardedOverrun false

/-- The billet halts: for late_limit the beat in progress runs on and commits; after an uncontained fault nothing of what
has not committed remains (R34, R340). -/
def Hw.haltNow (s : Hw) : Hw :=
  let un := s.stk.haltUncontained
  let s := if un || s.stk.inBeat then s else s.flushOverruns
  let s := { s with stk := { s.stk with workHalted := true } }
  let hot := un && s.pwr.steps.contains 4
  let s := { s with stk := { s.stk with state := .halted, haltNext := false, haltUncontained := false } }
  let s := s.stopWork (if hot then s.byHeat else List.range 48)
  if !un then s
  else
    let beats := s.curBeat :: s.stk.uncommitted.toList
    let s := s.discardBeats beats
    { s with snaps := []
             stk := { s.stk with inBeat := false, uncommitted := none, working := false }
             flt := { s.flt with stopAll := false } }

/-- A reserve beat in progress gives way to the boundary. -/
def Hw.cutReserve (s : Hw) : Hw :=
  if !s.stk.inBeat || s.stk.working || !s.runs || s.flt.held || s.flt.stopAll then s
  else
    let s := match s.stk.uncommitted with
      | some t => s.commitBeat t
      | none => s
    s.endBeat 0

/-- Whether nothing of the billet's last beat is still to be replayed. -/
def Hw.settled (s : Hw) : Bool := !s.stk.inBeat && s.stk.uncommitted.isNone

/-- An admitted billet is ARMED from the next boundary on (R41). -/
def Hw.armedBoundary (s : Hw) : Hw :=
  if s.armed.isSome ∧ (s.stk.state = .idle ∨ s.stk.state = .halted) then { s with stk := { s.stk with state := .armed } } else s

/-- The retirement named for this boundary, and with it the discarding of an armed billet, whose ballast ramps back, and of one
whose work has not begun; a beat still to end or commit does so first (R41, R324). -/
def Hw.retireBoundary (s : Hw) : Hw :=
  match s.stk.retireAt with
  | none => s
  | some n =>
    if n > s.stk.num.toNat then s
    else
      let s := if s.armed.isSome then s.dropArmed else s
      let s := { s with incoming := none, stk := { s.stk with retireAt := none, state := .idle } }
      if s.running.isNone then s
      else if s.settled then s.retireNow
      else { s with stk := { s.stk with closing := true } }

/-- The activation of the armed billet at its stroke; a last beat that carries no work commits at once, another first
(R40, R324). -/
def Hw.activateBoundary (s : Hw) : Hw :=
  match s.armed with
  | none => s
  | some l =>
    if l.activation > s.stk.num.toNat then s
    else
      let (s, l) := ({ s with armed := none }).adopt l
      let idle := !s.stk.inBeat && (match s.stk.uncommitted, s.strokeSec with
        | some t, some x => (x.beats[t.2]?).any (·.reserve)
        | _, _ => false)
      let s := if idle then (match s.stk.uncommitted with
        | some t => s.commitBeat t
        | none => s) else s
      if s.settled then (if s.stk.closing then s.retireNow else s).activateNow l
      else { s with incoming := some l }

/-- The stretch announced takes effect, and the next is decided and announced (R36, R51). -/
def Hw.stretchBoundary (s : Hw) : Hw :=
  let k := s.stk
  let n := k.num.toNat
  let next := min 32 (max 16 (max s.pwr.ownS (nget 16 k.groupS (n - 1))))
  let s := { s with stk := { k with
    stretchCur := k.stretchNext, stretchNext := BitVec.ofNat 6 next, groupS := k.groupS.filter fun e => decide (n ≤ e.1) } }
  if next ≠ 16 ∨ next ≠ k.stretchNext.toNat then s.raise 2 else s

/-- The SYNC payload of this moment: the frame leaves at once, so the departure is the present time (R308). -/
def Hw.syncOut (s : Hw) (v : Nat) : List Byte :=
  syncPayload s.stk.num.toNat s.stk.boundTime.toNat s.stk.time.toNat v (decide (s.stk.state = .late)) (decide (s.stk.state = .halted))

/-- A SYNC frame goes out on every sync-member peer link that carries frames; the s that it announces holds for this module too
(R51, R308). -/
def Hw.syncSend (s : Hw) : Hw :=
  let n := s.stk.num.toNat
  let v := max s.pwr.ownS (nget 16 s.stk.groupS n)
  let ps := (List.range 48).filter fun p => (s.port p).carries && (s.port p).syncMember
  let told := if ps.isEmpty then s.stk.groupS else nput 16 s.stk.groupS n v
  let out := s.syncOut v
  ps.foldl (fun s p => s.onPort p fun x => x.sendCtrl frSync 0 { ack := x.rxNext - 1, creditVc := 0, credit := 0, crc := 0 } out)
    { s with stk := { s.stk with groupS := told } }

/-- What the units do at every boundary, in order (R137, R165, R182-R188, R205, R213, R216, R241, R269, R270, R284, R305,
R306, R337, R345, R356-R363). -/
def Hw.unitsBoundary (s : Hw) : Hw :=
  let s := (List.range 48).foldl (fun s h => s.biasBoundary h) s
  let as : NMap Arb := s.arbs.foldl (fun m e => nput {} m e.1 e.2.boundary) []
  let s := ({ s with arbs := as }).redBoundary
  let s := (((s.stepClosesBoundary).applyCommits).stepOpensBoundary).tongsBoundary
  let s := ((s.kvBoundary).settleWeights).writeSteps
  let s := ((s.fillBoundary).refetchBoundary).tableBoundary
  (s.hearthBoundary).telemetryBoundary

/-- The generator places B(n + 1) and every warden steps its counter; in SHED it places none (R28). -/
def execStrokeBoundary (s : State) : Out :=
  s.act fun s => (if s.stk.state = .shed then s
    else
      let n := s.stk.num.toNat + 1
      let s := { s with stk := { s.stk with
        num := s.stk.num + 1, boundTime := s.stk.time
        bounds := ninsert n s.now (s.stk.bounds.filter fun e => decide (e.1 + 130 > n)) } }
      let halts := s.stk.haltNext
      let s := (s.cutReserve).judgeLate
      let s := if halts && s.runs then s.haltNow else s
      let s := (((s.retireBoundary).armedBoundary).activateBoundary).stretchBoundary
      let s := if s.stk.endDue then s.runEnd else s
      ((s.unitsBoundary).syncSend).tryStart)

end Sys2Proof.Machine
end

