-- ==== Sys2Proof/Machine/Shed.lean ====
section
/-!
DEFINITION. Emergency shed (R344, R365, R366): its triggers, its entry, the SHED record, and what becomes of bonded memory.
-/
namespace Sys2Proof.Machine

/-- A recovery that will not end: its records are written as they stand, outcome IN_PROGRESS (R342). -/
def Hw.dropRecovery (s : Hw) : Hw :=
  match s.flt.recovery with
  | none => s
  | some v =>
    let s := { s with flt := { s.flt with recovery := none } }
    v.records.foldl (fun s r => s.emitRecord { r with outcome := .inProgress }) s

/-- Rail groups with a core rail on, the hottest first. -/
def Hw.groupsByHeat (s : Hw) : List Nat :=
  ((s.byHeat.filter fun f => (s.fld f).coreOn).map railGroup).eraseDups

/-- Every core rail ramps down by rail group, the hottest first, whatever else was ramping (R349, R365). -/
def Hw.rampAllDown (s : Hw) : Hw :=
  let q := s.groupsByHeat.map fun g => (2 * g, 0)
  let s := (List.range 48).foldl (fun s f => s.onFld f fun x =>
    { x with ramping := false, ballast := min ballastMax (x.ballast + s.workPower f) }) s
  ({ s with pwr := { s.pwr with working := [], rampQ := q } }).pumpRamps

/-- A request of the driver that a shed pre-empts is abandoned: it is final, and not done (R25; log 196). -/
def Hw.abandonPark (s : Hw) : Hw := if s.pwr.prkStatus = 1 then s.prkFinal 3 else s

/-- The shed sequencer: SHED at once, every port DISABLED, the TST block locked, actions and recovery abandoned, work given
to ballast and the core rails ramped down. No notice goes up the tree (R25, R365, R418). -/
def Hw.emergencyShed (s : Hw) : Hw :=
  if s.stk.state = .shed then s
  else
    let s := s.dropRecovery
    let s := { s with
      snaps := [], fabric := []
      stk := { s.stk with
        state := .shed, inBeat := false, working := false, uncommitted := none, haltNext := false, haltUncontained := false
        retireAt := none, closing := false }
      flt := { s.flt with actions := [], detoursArmed := [], withdrawArmed := [] }
      tst := s.tst.lock
      pwr := { s.pwr with shed := 1, recordsSecured := false, flowReturned := false } }
    (((List.range 64).foldl (fun s p => s.disablePort p) s).abandonPark).rampAllDown

/-- Below 18 L/min, in 0.01 L/min (R365). -/
def lowFlow (v : W16) : Bool := decide (v.toNat < 1800)

/-- The tray's flow stays below 18 L/min for 20 ms: the rule cannot fire without the tray's telemetry (R354, R365). The record
holds the samples of those 20 ms, 2 B each. -/
def execFlowStop (samples : List W16) (s : State) : Out :=
  s.act fun s => (if !s.pwr.valid || !lowFlow s.pwr.flow || !samples.all lowFlow || decide (s.stk.state = .shed) then s
    else (s.record { cls := 0x45, data := padTo 48 (samples.flatMap fun v => leBytes 2 v.toNat) }).emergencyShed)

/-- A valid junction pair at or above 105 degrees for 1 ms; a field whose sensors are not up has none (R365, R403). In
retention it takes the memory rails down. -/
def execJunctionBackstop (s : State) : Out :=
  s.act fun s => (if !s.anyPairAt 105 then s
    else if s.pwr.shed = 2 then s.memoryOff
    else s.emergencyShed)

/-- The key written to PWR_SHED. The sequencer takes it from power-good on (R365, R403). Any write is a BAR0 write between
two of TST_UNLOCK (R142). -/
def execPwrShed (key : W32) (s : State) : Out :=
  s.act fun s => (let s := s.bar0 fun s => s
    if key = 0x5AED0054 then s.emergencyShed else s)

/-- Records in a stretch of the trail stream, padding left out. -/
def countTrails : Nat → List Byte → Nat
  | 0, _ => 0
  | n + 1, bs =>
    let len := at' bs 0 4
    if bs = [] ∨ len = 0 then 0
    else (if at' bs 4 2 = 0 then 0 else 1) + countTrails n (bs.drop len)

/-- The records between flashed and head are in the logs: the SHED record is written with their number, and reaches the log
too; bonded memory goes into retention (R344, R365). -/
def execShedRecord (s : State) : Out :=
  s.act fun s => (if s.pwr.shed ≠ 1 ∨ s.pwr.recordsSecured then s
    else
      let faults := (s.flt.head - s.flt.flashed).toNat
      let n := min (s.flt.tValid - s.flt.tFlashed).toNat trailRing
      let trails := countTrails (n / 8 + 1) (s.trailRead s.flt.tFlashed.toNat n)
      let s := ((s.copyTrails).copyFaults).record { cls := 0x32, data := dat [faults + trails] }
      let s := s.copyFaults
      { s with pwr := { s.pwr with shed := 2, recordsSecured := true }
               flash := { s.flash with shedMarker := s.flash.shedMarker + 1 } })

/-- 60 s after the trigger the memory rails ramp off, unless the flow has returned (R365, R366). -/
def execRetentionTimeout (s : State) : Out :=
  s.act fun s => (if (s.pwr.shed = 1 ∨ s.pwr.shed = 2) ∧ !s.pwr.flowReturned then s.memoryOff else s)

/-- Flow of at least 36 L/min within the 60 s, as the tray reads it (R366). -/
def execFlowReturn (s : State) : Out :=
  s.act fun s => (if (s.pwr.shed = 1 ∨ s.pwr.shed = 2) ∧ s.pwr.valid = true ∧ 3600 ≤ s.pwr.flow.toNat then { s with pwr := { s.pwr with flowReturned := true } } else s)

end Sys2Proof.Machine
end

