-- ==== Sys2Proof/Machine/StrokeCmd.lean ====
section
/-!
DEFINITION. The driver's commands to the stroke generator: STK_CFG (R29, R52), ADMIT_BILLET (R38, R40), RETIRE_BILLET (R41,
R386); the time counter (R47, R48); and the alignment of strokes across modules (R50, R51, R308).
-/
namespace Sys2Proof.Machine

/-! ## STK_CFG -/

/-- Boundaries are the module's own: mode 0, or 3, which is treated as it (R52). -/
def Hw.syncLocal (s : Hw) : Bool := decide (s.stk.syncMode = 0) || decide (s.stk.syncMode = 3)

/-- A write to STK_CFG: only in IDLE and with a period in range (R29); sync_tol and late_limit read back within their
ranges, and sync_ok is always 1 in LOCAL mode (R52). A sync_link of 48 to 63, which names no peer link, is stored as written and
follows nothing (DESIGN CHOICE, log 201). -/
def execStkCfgWrite (value : W64) (s : State) : Out :=
  s.act fun s => (s.bar0 fun s =>
    let v := value.toNat
    let period := bits v 17 0
    if s.stk.state ≠ .idle ∨ period < 35 ∨ period > 163840 then s
    else
      let tol := bits v 41 34
      let limit := bits v 33 27
      let s := { s with stk := { s.stk with
        syncTol := BitVec.ofNat 8 (max 1 tol), lateLimit := BitVec.ofNat 7 (min 126 (max 1 limit))
        syncMode := BitVec.ofNat 2 (bits v 26 25), syncLink := BitVec.ofNat 6 (bits v 24 19)
        period := BitVec.ofNat 18 period, lastSync := none, groupPeriod := none } }
      if s.syncLocal then { s with stk := { s.stk with syncOk := true } } else s)

/-! ## ADMIT_BILLET and RETIRE_BILLET -/

/-- An admitted billet is armed; one already armed is replaced, and the ballast begins to ramp. The state shows ARMED from the next
boundary (R40, R41, R350). -/
def Hw.arm (s : Hw) (l : Loaded) : Hw := { s with armed := some l }.rampForAdmission l.img

/-- ADMIT_BILLET (R38, R386): parameters first, then the answer in SHED, then the billet's bytes and the checks. The digest
is taken over the bytes read (R431). -/
def execAdmitBillet (tag : W32) (params : List Byte) (s : State) : Out :=
  s.act fun s => (s.mbxCommand 0x0010 tag fun s =>
    let addr := at' params 0 8
    let len := at' params 8 8
    let activation := at' params 16 8
    if params.length ≠ 24 ∨ addr % 64 ≠ 0 then s.respond badParams
    else if s.stk.state = .shed then s.respond { status := mbNotReady }
    else
      let (s, bs, st) := s.readSpan addr len
      if st ≠ 0 then s.refuseBillet { status := mbFit, reason := 0x39, detail := st }
      else match s.admissionFault bs len activation with
        | some r => s.refuseBillet r
        | none =>
          let d := shake256 32 bs
          ((s.putAdmit 0 0 0 0).arm { addr := addr, length := len, activation := activation, digest := d, img := parseBillet bs }).respond
            { data := d })

/-- Retire at once: what holds no beat to its end leaves now, another beat commits first. -/
def Hw.retireAtOnce (s : Hw) : Hw :=
  let s := { s with stk := { s.stk with state := .idle } }
  if s.running.isNone then s
  else if s.settled then s.retireNow
  else { s with stk := { s.stk with closing := true } }

/-- RETIRE_BILLET (R41, R386). -/
def execRetireBillet (tag : W32) (params : List Byte) (s : State) : Out :=
  s.act fun s => (s.mbxCommand 0x0011 tag fun s =>
    let flags := at' params 8 1
    let stroke := at' params 0 8
    let k := s.stk.state
    if !paramsOk params 16 [(9, 7)] || decide (flags > 1) then s.respond badParams
    else if (k = .idle ∧ s.armed.isNone) ∨ k = .shed ∨ (flags = 1 ∧ s.armed.isNone) then s.respond (refused 0x33)
    else
      let s : Hw :=
        if flags = 1 then
          let s := s.dropArmed
          if k = .armed then { s with stk := { s.stk with state := if s.running.isSome && !s.stk.closing then .halted else .idle } } else s
        else if k = .armed ∨ k = .idle then (s.dropArmed).retireAtOnce
        else { s with stk := { s.stk with retireAt := some (max stroke (s.stk.num.toNat + 1)) } }
      s.respond {})

/-! ## Time (R47, R48) -/

/-- The counter less the time of day at an edge, in ns. -/
def Hw.timeError (s : Hw) (tod : W64) : Int := (s.stk.time - tod).toInt

/-- An edge with a valid time of day is compared with the counter: an error above 1 ms is stepped out in IDLE, any other is
slewed out; holdover ends. An edge without one only shows that edges come (R47, R48). -/
def execPpsEdge (tod : Option W64) (s : State) : Out :=
  s.act fun s => (match tod with
    | none => { s with stk := { s.stk with ppsPresent := true, todValid := false } }
    | some t =>
      let err := s.timeError t
      let step : Bool := decide (s.stk.state = .idle) && decide (err.natAbs > 1000000)
      let k := { s.stk with
        ppsPresent := true, todValid := true, holdover := false, tsOffset := BitVec.ofInt 32 err
        locked := step || decide (err.natAbs < 100) }
      let k : Stk := if step then { k with time := t, frac := 0, slew := 0, slewPhase := 0 } else { k with slew := -err }
      { s with stk := k, glb := { s.glb with time := true } })

/-- 2 s without an edge: holdover, reported once until it ends; the counter runs free on the core clock (R48). -/
def execTimeHoldover (s : State) : Out :=
  s.act fun s => (let was := s.stk.holdover
    let s := { s with stk := { s.stk with ppsPresent := false, holdover := true, slew := 0, slewPhase := 0 } }
    if was then s else s.raise 4)

/-! ## Sync groups (R50, R51, R308) -/

/-- Where a SYNC frame places the sender's boundary in the module's own time (R308). -/
def Hw.syncPlace (s : Hw) (p : Nat) (fr : SyncFrame) : Int :=
  (fr.arrival.toNat : Int) - (s.port p).delayNs.toNat - ((fr.departure.toNat : Int) - fr.boundary.toNat)

/-- The period that two frames of successive strokes show, in units, while no stretch is in force. -/
def Hw.syncPeriod (s : Hw) (fr : SyncFrame) (place : Int) : Option Nat := match s.stk.lastSync with
  | some (n, b, _) =>
    if n + 1 = fr.stroke.toNat ∧ b < place ∧ s.stk.stretchCur = 16 ∧ s.stk.stretchNext = 16 then
      some (((place - b).toNat + 50) / 100)
    else s.stk.groupPeriod
  | none => s.stk.groupPeriod

/-- A SYNC frame, taken on a sync-member peer link if its CRC passes: on the followed link it places the boundary; the
largest s of the group is kept, and a rise for the current stroke is passed on; a failing frame is counted and changes no trim (R51,
R298, R308, R320). -/
def execSync (p : PortIx) (fr : SyncFrame) (s : State) : Out :=
  s.act fun s => (if !(s.port p.val).carries then s
    else if !fr.crcOk then s.badFrame p.val
    else
      let s := s.onPort p.val fun x => x.takeAck fr.head.ack fr.head.creditVc.val fr.head.credit.toNat
      if decide (p.val ≥ 48) || !(s.port p.val).syncMember then s
      else
      let place := s.syncPlace p.val fr
      let s : Hw := if s.stk.syncMode = 2 ∧ s.stk.syncLink.toNat = p.val then
          let period := s.syncPeriod fr place
          { s with stk := { s.stk with lastSync := some (fr.stroke.toNat, place, fr.s.toNat), groupPeriod := period } }
        else s
      let n := fr.stroke.toNat
      let old := max s.pwr.ownS (nget 16 s.stk.groupS n)
      let v := min 32 (max (nget 16 s.stk.groupS n) fr.s.toNat)
      let s := { s with stk := { s.stk with groupS := nput 16 s.stk.groupS n v } }
      if n = s.stk.num.toNat ∧ v > old then s.syncSend else s)

/-- A further frame after a rise in the largest s, with the same stroke number (R308). -/
def execStretchSyncResend (s : State) : Out := s.act fun s => (if s.stk.state = .shed then s else s.syncSend)

/-- 16 consecutive strokes beyond sync_tol (R50). -/
def execSyncLost (s : State) : Out :=
  s.act fun s => (if s.syncLocal || !s.stk.syncOk then s else ({ s with stk := { s.stk with syncOk := false } }).raise 3)

/-- 16 consecutive strokes within it (R50). -/
def execSyncRestored (s : State) : Out := s.act fun s => { s with stk := { s.stk with syncOk := true } }

end Sys2Proof.Machine
end

