-- ==== Sys2Proof/Machine/Boot.lean ====
section
/-!
DEFINITION. Bring-up and readiness (R351, R403-R411), the defect map (R409), SELF_TEST (R413), the Gweku's watchdog and
restart (R341, R385), the function-level reset (R375), and a field's loss of its clock (R27).
-/
namespace Sys2Proof.Machine

/-! ## The ROM (R405, R406) -/

/-- An image of the boot area verifies under the firmware key. -/
def FwImage.verified (x : FwImage) : Bool := slhVerify Config.firmwareKey x.bytes (Config.fwHeader x.bytes).2.2
def FwImage.svn (x : FwImage) : Nat := (Config.fwHeader x.bytes).1

/-- An image that may start: verified, and not below the stored minimum version. -/
def Hw.startable (s : Hw) (x : FwImage) : Bool := x.verified && decide (s.flash.minSvn ≤ x.svn)

/-- The image that the ROM starts: 0 A, 1 B, none where neither may start. -/
def Hw.bootChoice (s : Hw) : Option Nat :=
  let a := s.startable s.flash.imageA
  let b := s.startable s.flash.imageB
  if a && b then some (if s.flash.imageA.svn < s.flash.imageB.svn then 1 else 0)
  else if a then some 0 else if b then some 1 else none

/-- The factory part of the configuration verifies. -/
def Hw.factoryOk (s : Hw) : Bool :=
  slhVerify Config.factoryKey s.flash.factory (Config.factorySig s.flash.factory)

/-- The Gweku starts: the chosen image runs and the mailbox becomes IDLE with no version, or the Gweku stays in ROM. -/
def Hw.bootGweku (s : Hw) : Hw :=
  match (if s.factoryOk then s.bootChoice else none) with
  | none => { s with glb := { s.glb with gweku := false, image := 2, fallback := false, svn := 0 }
                     mbx := { s.mbx with state := .offline, version := 0 } }
  | some k =>
    let x := if k = 1 then s.flash.imageB else s.flash.imageA
    let other := if k = 1 then s.flash.imageA else s.flash.imageB
    { s with
      glb := { s.glb with gweku := true, image := BitVec.ofNat 2 k, fallback := !other.verified
                          svn := BitVec.ofNat 16 x.svn, ownerSet := !s.flash.ownerKeyDigest.isEmpty }
      mbx := { s.mbx with state := .idle, version := 0 } }

/-! ## The defect map (R17, R409) -/

def countOnes (v : W64) : Nat := ((List.range 64).filter fun i => v.getLsbD i).length

/-- Active cores of a block. -/
def Hw.activeIn (s : Hw) (key : Nat) : Nat := 64 - countOnes (nget 0 s.flash.failed key ||| nget spareShipped s.flash.spare key)

/-- Blocks of a field with fewer than 62 active cores; a block that the map does not list is whole. -/
def Hw.shortIn (s : Hw) (f : Nat) : Nat :=
  (((s.flash.failed.map Prod.fst ++ s.flash.spare.map Prod.fst).eraseDups).filter fun k =>
    decide (k / 512 = f) && decide (s.activeIn k < 62)).length

/-- The bytes that the map's signature covers: header and block entries. -/
def Hw.mapBytes (s : Hw) : List Byte :=
  padTo 8 Config.mapHead ++ leBytes 8 s.flash.mapSerial.toNat ++ leBytes 8 s.flash.mapTime.toNat ++ List.replicate 40 0 ++
    (List.range 48).flatMap fun f => (List.range 396).flatMap fun b =>
      leBytes 8 (nget 0 s.flash.failed (f * 512 + b)).toNat ++ leBytes 8 (nget spareShipped s.flash.spare (f * 512 + b)).toNat

def Hw.markFailed (s : Hw) (c : Nat) : Hw :=
  let k := blockKey c
  { s with flash := { s.flash with failed := nput 0 s.flash.failed k (nget 0 s.flash.failed k ||| BitVec.ofNat 64 (2 ^ coreIndex c)) } }

/-- The lowest-numbered working spare of a block takes over the duty of a core. -/
def Hw.useSpare (s : Hw) (c : Nat) : Hw :=
  let k := blockKey c
  let spares := nget spareShipped s.flash.spare k
  match (List.range 64).find? fun i => spares.getLsbD i && !(nget 0 s.flash.failed k).getLsbD i with
  | none => s
  | some i => { s with flash := { s.flash with spare := nput spareShipped s.flash.spare k (spares &&& ~~~(BitVec.ofNat 64 (2 ^ i))) } }

/-- Show the short blocks of every field. -/
def Hw.showShort (s : Hw) : Hw :=
  (List.range 48).foldl (fun s f => s.onFld f fun x => { x with shortBlocks := s.shortIn f }) s

/-- The map takes newly failed cores and the pending list; duties are assigned, and a changed map is signed. What one bring-up or
one SELF_TEST changes is one update (R332, R409; log 224). -/
def Hw.updateMap (s : Hw) (newly : List Nat) : Hw :=
  let news := ((newly ++ s.flt.pending).filter fun c => coreOk c && !s.isFailed c).eraseDups
  let active := news.filter fun c => !s.isSpare c
  let s := { s with flt := { s.flt with pending := [] } }
  if news.isEmpty then s.showShort
  else
    let s := active.foldl (fun s c => s.useSpare c) (news.foldl (fun s c => s.markFailed c) s)
    let s := { s with
      flash := { s.flash with mapSerial := if s.glb.mapOpen then s.flash.mapSerial else s.flash.mapSerial + 1, mapTime := s.stk.time }
      glb := { s.glb with mapOpen := true } }
    ({ s with flash := { s.flash with mapSig := Config.slhSign s.mapBytes } }).showShort

/-- Masks by block, as flash keeps them: a block with the default mask is not listed. -/
def masksOf (dflt : W64) (ms : List (Nat × W64)) : NMap W64 := ms.foldl (fun m e => nput dflt m e.1 e.2) []

/-- At boot a map that fails verification gives way to the map of the factory part (R409; its layout is not stated, log 146). -/
def Hw.checkMap (s : Hw) : Hw :=
  if slhVerifyFast Config.moduleKey s.mapBytes s.flash.mapSig then { s with glb := { s.glb with mapSource := false } }
  else { s with
    glb := { s.glb with mapSource := true }
    flash := { s.flash with failed := masksOf 0 (Config.factoryFailed s.flash.factory)
                            spare := masksOf spareShipped (Config.factorySpare s.flash.factory)
                            mapSerial := 0, mapTime := 0, mapSig := [] } }

/-! ## Fields under test (R351, R408, R413) -/

/-- A field whose core rail is on goes to TEST: its rings are tested anew. Its warden's link stays as it is: it comes up with
the result that tells that the warden has started (log 195), or with a status word. -/
def Field.toTest (x : Field) : Field :=
  { x with state := .test, coreOn := true, ringsOk := 0, ringTest := false, park := .on, parkedByDriver := false,
           deepTest := false, statusMissing := 0 }

/-- Take a field out of readiness. -/
def Hw.unready (s : Hw) (f : Nat) : Hw :=
  { s with glb := { s.glb with field := s.glb.field &&& ~~~(BitVec.ofNat 48 (2 ^ f)) } }

/-- Fields go to TEST, and a new update of the map begins; what their cores held is lost. -/
def Hw.startTests (s : Hw) (fs : List Nat) : Hw :=
  let s := { s with glb := { s.glb with mapOpen := false } }
  let s := fs.foldl (fun s f => (s.onFld f Field.toTest).unready f) s
  { s with cores := s.cores.filter fun e => !fs.contains (coreField e.1) }

/-- What the retained rails do not keep: every table of bonded memory reads as empty or FREE (R410, R414). -/
def Hw.memoryEmpty (s : Hw) : Hw :=
  { s with
    mem := []
    tng := { s.tng with homes := [], orders := [], changes := [], releases := [] }
    spn := { s.spn with journal := [] }
    kv := { s.kv with opQueue := [], opening := [], commits := [], cows := [], live := [], preemptWait := [], pins := [],
                      pfxBusy := none, walked := [], absent := [], expect := [], freeList := [], fresh := 0
                      freeing := [], shortFields := [], swaps := [], partials := [], returned := [], closedToks := [] } }

/-- Every ring pointer stands at the end of its log (R410). -/
def Hw.pointersAt (s : Hw) (fault : W32) (trail : W64) : Hw :=
  { s with flt := { s.flt with head := fault, valid := fault, tail := fault, flashed := fault
                               tHead := trail, tValid := trail, tTail := trail, tFlashed := trail } }

/-- The rails come up and the fields go to TEST; a shed that the last SHED record marks is counted (R351, R407). -/
def Hw.railsUp (s : Hw) : Hw :=
  let s := { s with
    pwr := { s.pwr with memOn := BitVec.allOnes 24, shed := 0, shedsCnt := BitVec.ofNat 8 (satAdd 8 s.pwr.shedsCnt.toNat s.flash.shedMarker)
                        rampQ := [], working := [] }
    flash := { s.flash with shedMarker := 0 } }
  let s := (List.range 48).foldl (fun s f => s.onFld f fun x => { x with ramping := false, ballast := 0, target := 0 }) s
  s.startTests (List.range 48)

/-- From the ROM on: the image, the configuration, the map with its pending cores, the rails (R405-R407, R409). -/
def Hw.bringUp (s : Hw) : Hw :=
  let s := s.bootGweku
  if s.glb.gweku then ((s.checkMap).railsUp).updateMap [] else s

/-- What power loss leaves: flash, with the ends of its logs and the map's pending list, and what is no part of the module
(R344, R404, R409). -/
def Hw.powerLost (s : Hw) : Hw :=
  let log := s.glb.logs
  { State.reset.hw with
    flash := { s.flash with faultFlashed := if log then s.flt.flashed else s.flash.faultFlashed
                            trailFlashed := if log then s.flt.tFlashed else s.flash.trailFlashed }
    flt := { pending := s.flt.pending }
    hostMem := s.hostMem }

/-- Power-good: every part in its reset state, and the Gweku boots from ROM (R403, R405). -/
def execPowerGood (s : State) : Out := .next { s with hw := (s.hw.powerLost).bringUp, tmks := [] }

/-- The input is removed with no shed (R344, R404). -/
def execPowerLoss (s : State) : Out := .next { s with hw := s.hw.powerLost, tmks := [] }

/-- The flash translation layer is mounted (R407, R411). -/
def execFlashMounted (s : State) : Out :=
  s.act fun s => (if s.glb.gweku then { s with glb := { s.glb with flash := true } } else s)

/-- The logs are recovered; where bonded memory was not retained, the ring pointers stand at their ends (R410, R411). -/
def execLogsRecovered (s : State) : Out :=
  s.act fun s => (if !s.glb.gweku || s.glb.logs then s
    else
      let s := if s.glb.retained then s else s.pointersAt s.flash.faultFlashed s.flash.trailFlashed
      { s with glb := { s.glb with logs := true } })

/-! ## The result of a test -/

/-- Cores that a field's rounds fail: those of the scan round; else the majority of the testers that count; else, when they
split evenly or none counts, the march test (R408). A tester counts if it is a mesh neighbour that has not failed. -/
def Hw.testFails (s : Hw) (f : Nat) (scan : List Nat) (reports : List TestReport) (march : List Nat) : List Nat :=
  let subjects := ((scan ++ reports.map (fun r => r.subject.toNat) ++ march).filter fun c => coreOk c && decide (coreField c = f)).eraseDups
  subjects.filter fun c => scan.contains c ||
    (let ts := reports.filter fun r => decide (r.subject.toNat = c) && (neighbours c).contains r.tester.toNat &&
        !scan.contains r.tester.toNat && !s.isFailed r.tester.toNat
     let bad := (ts.filter (·.failed)).length
     let good := ts.length - bad
     decide (bad > good) || (decide (bad = good) && march.contains c))

/-- A long SELF_TEST counts a field that has its result, and ends with the last one (R412, R413). -/
def Hw.selfTestStep (s : Hw) (f : Nat) : Hw := match s.mbx.long with
  | some (.selfTest left lvl) =>
    if !left.contains f then s
    else
      let rest := left.erase f
      let s := { s with mbx := { s.mbx with long := some (.selfTest rest lvl), progDone := s.mbx.progDone + 1 } }
      if rest.isEmpty then s.respond {} else s
  | _ => s

/-- A field's self-test gives its retired frames back (R338). -/
def Hw.unretire (s : Hw) (f : Nat) : Hw :=
  { s with kv := { s.kv with retired := s.kv.retired.filter fun l => decide (locField1 l ≠ f) } }

/-- The map is current, and its update over, once no field is under test (R409, R411). -/
def Hw.mapCurrent (s : Hw) : Hw :=
  let current := (List.range 48).all fun k => decide ((s.fld k).state ≠ .test)
  { s with glb := { s.glb with defectMap := s.glb.defectMap || current, mapOpen := s.glb.mapOpen && !current } }

/-- A field's result: FAULTED without its warden, its clock or a ring; otherwise READY, with its failed cores in the map
(R408, R409). The map is current once no field is under test. -/
def execFieldTestDone (f : FieldIx) (wardenOk clockOk : Bool) (rings : BitVec 18) (scanFailed : List CoreId)
    (reports : List TestReport) (marchFailed : List CoreId) (s : State) : Out :=
  s.act fun s => (let n := f.val
    if (s.fld n).state ≠ .test then s
    else
      let good := wardenOk && clockOk && decide (rings = BitVec.allOnes 18)
      let s := (s.unretire n).onFld n fun x => { x with state := if good then .ready else .faulted, ringsOk := rings, gwekuLink := wardenOk }
      let s : Hw := if good then
          let s := s.updateMap (s.testFails n (scanFailed.map BitVec.toNat) reports (marchFailed.map BitVec.toNat))
          { s with glb := { s.glb with field := s.glb.field ||| BitVec.ofNat 48 (2 ^ n) } }
        else s
      s.mapCurrent.selfTestStep n)

/-- A field loses its clock after bring-up: FAULTED, and no longer ready (R27, R411). -/
def execFieldClockLoss (f : FieldIx) (s : State) : Out :=
  s.act fun s => (if (s.fld f.val).state = .off then s
    else
      let s' := (s.onFld f.val fun x => { x with state := .faulted }).unready f.val
      (if (s.fld f.val).state = .test then s'.mapCurrent else s').selfTestStep f.val)

/-! ## SELF_TEST (R412, R413) -/

/-- Fields that the running, halted or armed billet uses (R430). -/
def Hw.usedFields (s : Hw) : List Nat :=
  (s.running.toList ++ s.incoming.toList ++ s.armed.toList).flatMap fun l => l.img.used

/-- Level 1 marches through a field's two regions: what they held is lost (R288, R413). -/
def Hw.loseRegions (s : Hw) (f : Nat) : Hw :=
  let ps := (s.tng.homes.filter fun e => decide (e.2.state ≠ .unmapped) && decide (e.2.tier = 1) && decide (locField1 e.2.location = f)).map Prod.fst
  let s := ps.foldl (fun s p => s.pageLost p none) s
  s.memErase (bonded f 0 0) (2 * regionBytes)

/-- SELF_TEST. -/
def execSelfTest (tag : W32) (params : List Byte) (s : State) : Out :=
  s.act fun s => (s.mbxCommand 0x0040 tag fun s =>
    let mask := at' params 0 8
    let level := at' params 8 1
    let fs := (List.range 48).filter fun f => bit mask f
    if params.length ≠ 9 ∨ mask ≥ 2 ^ 48 ∨ level > 1 then s.respond badParams
    else if fs.any fun f => s.usedFields.contains f then s.respond (refused 0x35)
    else if level = 1 ∧ s.stk.state ≠ .idle then s.respond (refused 0x36)
    else if fs.isEmpty then s.respond {}
    else
      let s := s.startLong (.selfTest fs (decide (level = 1))) fs.length
      let s := if level = 1 then fs.foldl (fun s f => s.loseRegions f) s else s
      s.startTests fs)

/-! ## The end of a long operation by a restart or a reset (R385, R413, R414, R416) -/

/-- Bytes that an interrupted ATTEST leaves in its buffer: undefined. -/
def attestJunk (d n : Nat) : List Byte := (List.range n).map (Config.attestUndefined d)

/-- What an interrupted long operation leaves: a load's slot FREE, fields under test OFF, an undefined report buffer; a scrub
not started, a staged image discarded. -/
def Hw.endLong (s : Hw) : Hw :=
  let s' := { s with mbx := { s.mbx with long := none, progDone := 0, progTotal := 0 } }
  match s.mbx.long with
  | some (.loadWeights w) => s'.freeSlot w.context w.slot
  | some (.selfTest left _) => left.foldl (fun s f => s.onFld f fun x => { x with state := .off }) s'
  | some (.attest _ addr len) => { s'.writeSpan 0 addr (attestJunk s.draws len) with draws := s.draws + 1 }
  | _ => s'

/-- Fields that an interrupted test has left OFF are brought up again. -/
def Hw.testAgain (s : Hw) : Hw :=
  s.startTests ((List.range 48).filter fun f => decide ((s.fld f).state = .off) && (s.fld f).coreOn && decide (s.stk.state ≠ .shed))

/-! ## The Gweku's restart (R341, R385) -/

/-- The firmware goes down: the mailbox is OFFLINE, and a command at work will be answered NOT_READY. -/
def Hw.gwekuDown (s : Hw) : Hw :=
  let atWork := decide (s.mbx.state = .running) || decide (s.mbx.state = .busy)
  let s := s.endLong
  { s with glb := { s.glb with gweku := false, restarting := true, restartAt := s.now, pldm := none }
           mbx := { s.mbx with state := .offline, version := 0, interrupted := s.mbx.interrupted || atWork } }

/-- 100 ms without service. -/
def execGwekuWatchdog (s : State) : Out := s.act fun s => (if s.glb.gweku then s.gwekuDown else s)

/-- The restart ends: the firmware runs again, GWEKU_RESET is written and the mailbox is IDLE with no version. -/
def execGwekuRestartDone (s : State) : Out :=
  s.act fun s => (if !s.glb.restarting then s
    else
      let ns := nsOf (s.now - s.glb.restartAt)
      let s := ({ s with glb := { s.glb with restarting := false } }).bootGweku
      if !s.glb.gweku then s
      else
        let s := s.record { cls := 0x0B, data := dat [ns] }
        let s := { s with flt := { s.flt with gwekuRestarted := true } }
        let s := if s.mbx.interrupted then ({ s with mbx := { s.mbx with interrupted := false } }).respond { status := mbNotReady } else s
        s.testAgain)

/-! ## The function-level reset (R375) -/

/-- The fields are brought up again after emergency shed; bonded memory is kept if its rails stayed on (R366, R375, R410). -/
def Hw.afterShed (s : Hw) : Hw :=
  let kept := decide (s.pwr.shed ≠ 3)
  let s := { s with glb := { s.glb with retained := kept } }
  let s := if kept then s else (s.memoryEmpty).pointersAt s.flt.flashed s.flt.tFlashed
  s.railsUp

/-- The billet side of the reset: the armed billet is discarded, the running one retired at once, IDLE from any state. -/
def Hw.resetStrokes (s : Hw) : Hw :=
  let s := s.dropRecovery
  let s := ({ s with incoming := none }).dropLoaded
  let s := if s.running.isSome then s.retireNow else s.clearWork
  ({ s with stk := { s.stk with state := .idle } }).rampBack

def Hw.functionReset (s : Hw) : Hw :=
  let shed := decide (s.stk.state = .shed)
  let s := s.endLong
  let s := { s with
      mbx := { s.mbx with state := if s.glb.gweku then .idle else .offline, version := 0, interrupted := false }
      qps := [], pci := { s.pci with power := .d0 }, evu := { nextOrd := s.evu.nextOrd }, evt := { sent := s.evt.sent }, tst := s.tst.lock }
  let s := (List.range 64).foldl (fun s p => s.disablePort p) s
  let s := s.resetStrokes
  if shed then (if s.glb.gweku || s.glb.restarting then s.afterShed else s) else if s.glb.gweku then s.testAgain else s

/-- A function-level reset (R375). -/
def execFunctionLevelReset (s : State) : Out := .next { s with hw := s.hw.functionReset, tmks := [] }

end Sys2Proof.Machine
end

