-- ==== Sys2Proof/Machine/Maint.lean ====
section
/-!
DEFINITION. The long maintenance commands SCRUB, ATTEST and FW_UPDATE (R414-R416), firmware through PLDM (R405), and the
messages of the controller tree (R417-R419).
-/
namespace Sys2Proof.Machine

/-! ## SCRUB (R414) -/

/-- Units of MBX_PROGRESS: MiB of bonded memory, then the flash contexts whose keys are replaced (R412). -/
def scrubUnits (scope : Nat) : Nat := (if bit scope 0 then 3145728 else 0) + b2n (bit scope 1) + 2 * b2n (bit scope 2)

/-- SCRUB: only in IDLE; the logs only when the driver has read them. -/
def execScrub (tag : W32) (params : List Byte) (s : State) : Out :=
  s.act fun s => (s.mbxCommand 0x0041 tag fun s =>
    let scope := at' params 0 1
    if params.length ≠ 1 ∨ scope > 7 then s.respond badParams
    else if s.stk.state ≠ .idle then s.respond (refused 0x36)
    else if bit scope 2 ∧ (s.flt.tail ≠ s.flt.head ∨ s.flt.tTail ≠ s.flt.tHead) then s.respond (refused 0x34)
    else if scope = 0 then s.respond {}
    else s.startLong (.scrub scope) (scrubUnits scope))

/-- The flash homes' key is replaced: what tier 2 held is lost, and slots whose source lay there are freed. -/
def Hw.scrubHomes (s : Hw) : Hw :=
  let lost := s.liveSlots.filter fun e => s.onFlash e.2.2.source
  let s := lost.foldl (fun s e => s.freeSlot e.1 e.2.1) s
  let kept (a : Nat) : Bool := decide (a < migBase) || decide ((s.home (pageOf a)).tier ≠ 2)
  { s with mem := s.mem.filter fun e => kept e.1
           flash := { s.flash with keysHome := s.flash.keysHome + 1 } }

/-- The keys of the trail spill region and of the system area are replaced: both logs are gone. -/
def Hw.scrubLogs (s : Hw) : Hw :=
  { s with flash := { s.flash with faultLog := [], trailLog := [], keysTrail := s.flash.keysTrail + 1
                                   keysSystem := s.flash.keysSystem + 1 } }

/-- A scrub has finished its scopes. -/
def execScrubComplete (s : State) : Out :=
  s.act fun s => (match s.mbx.long with
    | some (.scrub scope) =>
      let s := if bit scope 1 then s.scrubHomes else s
      let s := if bit scope 0 then s.memoryEmpty else s
      let s := if bit scope 2 then s.scrubLogs else s
      s.respond {}
    | _ => s)

/-! ## ATTEST (R416) -/

/-- A package entry: context, slot, kind, adapter, epoch, package_id, root. -/
def attestEntry (c k kind adapter : Nat) (epoch : W64) (id root : List Byte) : List Byte :=
  leBytes 1 c ++ leBytes 1 k ++ leBytes 1 kind ++ leBytes 1 0 ++ leBytes 2 adapter ++ leBytes 2 0 ++ leBytes 8 epoch.toNat
    ++ padTo 16 id ++ padTo 32 root

/-- The entries of a live slot: its base or stream session, then its adapters. -/
def CtxSlot.attestEntries (x : CtxSlot) (c k : Nat) : List (List Byte) :=
  attestEntry c k (if x.stream then 2 else 0) 0xFFFF x.epoch x.packageId x.root ::
    x.adapters.map fun a => attestEntry c k 1 a.number x.epoch a.packageId a.root

def Hw.attestEntries (s : Hw) : List (List Byte) := s.liveSlots.flatMap fun e => e.2.2.attestEntries e.1 e.2.1

/-- Length of the report as it stands. -/
def Hw.reportLen (s : Hw) : Nat := 256 + 64 * s.attestEntries.length + 29880 + 49856

/-- The bytes of the running firmware image. -/
def Hw.runningImage (s : Hw) : List Byte := if s.glb.image = 1 then s.flash.imageB.bytes else s.flash.imageA.bytes

/-- The report that the signature covers: header, entries, certificate. -/
def Hw.reportBody (s : Hw) (nonce : List Byte) : List Byte :=
  let es := s.attestEntries
  let digestOf (l : Option Loaded) : List Byte := (l.map (·.digest)).getD []
  leBytes 4 0x52415A56 ++ leBytes 4 1 ++ leBytes 4 s.reportLen ++ leBytes 2 es.length ++ leBytes 1 s.stk.state.code
    ++ leBytes 1 0 ++ padTo 32 nonce ++ padTo 16 Config.moduleSerial ++ leBytes 8 s.stk.time.toNat ++ leBytes 4 s.glb.svn.toNat
    ++ leBytes 4 0 ++ shake256 32 s.runningImage ++ shake256 32 (s.flash.factory ++ s.flash.owner ++ Config.waferIds)
    ++ shake256 32 s.mapBytes ++ leBytes 8 s.flash.mapSerial.toNat ++ leBytes 8 0 ++ padTo 32 (digestOf s.running)
    ++ padTo 32 (digestOf s.armed) ++ es.flatMap id ++ padTo 29880 Config.moduleCert

/-- The whole report, signed under the module key. -/
def Hw.report (s : Hw) (nonce : List Byte) : List Byte :=
  let b := s.reportBody nonce
  b ++ padTo 49856 (Config.slhSign b)

/-- ATTEST: a buffer shorter than the report is refused. -/
def execAttest (tag : W32) (params : List Byte) (s : State) : Out :=
  s.act fun s => (s.mbxCommand 0x0042 tag fun s =>
    let addr := at' params 0x20 8
    let len := at' params 0x28 8
    if params.length ≠ 48 ∨ addr % 64 ≠ 0 ∨ len < s.reportLen then s.respond badParams
    else s.startLong (.attest (sub params 0 32) addr len) 4)

/-- The report is written and its length answered; one that has outgrown the buffer meanwhile is refused. -/
def execAttestComplete (s : State) : Out :=
  s.act fun s => (match s.mbx.long with
    | some (.attest nonce addr len) =>
      if len < s.reportLen then s.respond badParams
      else (s.writeSpan 0 addr (s.report nonce)).respond { data := leBytes 4 s.reportLen ++ leBytes 4 0 }
    | _ => s)

/-! ## Firmware (R405, R406, R415) -/

/-- An owner part that may be accepted: signed by its own key, whose digest is the one fixed if one is (R406). -/
def Hw.ownerAccepts (s : Hw) (part : List Byte) : Bool :=
  let (key, pubs, sig) := Config.ownerPart part
  slhVerify key (pubs.flatMap id) sig && (s.flash.ownerKeyDigest.isEmpty || decide (shake256 32 key = s.flash.ownerKeyDigest))

/-- What stands against a staged image: a signature that fails, then a version below the minimum. -/
def Hw.fwRefusal (s : Hw) (image : List Byte) (owner : Bool) : Option Rsp :=
  if owner then (if s.ownerAccepts image then none else some { status := mbBadSig, detail := 1 })
  else
    let x : FwImage := { bytes := image }
    if !x.verified then some { status := mbBadSig, detail := 1 }
    else if x.svn < s.flash.minSvn then some (refused 0x38)
    else none

/-- FW_UPDATE: parameters, then FW_BUSY during a PLDM update, then BILLET_ACTIVE for an immediate start; what is read is verified
as the operation runs (R383, R415). -/
def execFwUpdate (tag : W32) (params : List Byte) (s : State) : Out :=
  s.act fun s => (s.mbxCommand 0x0043 tag fun s =>
    let addr := at' params 0 8
    let len := at' params 8 8
    let kind := at' params 0x10 1
    let now := at' params 0x11 1
    if params.length ≠ 18 ∨ kind > 1 ∨ now > 1 then s.respond badParams
    else if s.glb.pldm.isSome then s.respond (refused 0x37)
    else if now = 1 ∧ (s.stk.state ≠ .idle ∨ s.armed.isSome) then s.respond (refused 0x36)
    else
      let (s, image, st) := s.readSpan addr len
      s.startLong (.fwUpdate (if st = 0 then some image else none) (decide (kind = 1)) (decide (now = 1))) ((len + 4194303) / 4194304))

/-- A firmware image goes into the slot that is not running; in ROM recovery, into slot A (R405, R415). -/
def Hw.putImage (s : Hw) (image : List Byte) : Hw :=
  if s.glb.gweku && decide (s.glb.image = 0) then { s with flash := { s.flash with imageB := { bytes := image } } }
  else { s with flash := { s.flash with imageA := { bytes := image } } }

/-- An owner part is taken; the first fixes the digest of the owner key (R406). -/
def Hw.putOwner (s : Hw) (part : List Byte) : Hw :=
  let digest := if s.flash.ownerKeyDigest.isEmpty then shake256 32 (Config.ownerPart part).1 else s.flash.ownerKeyDigest
  { s with flash := { s.flash with owner := part, ownerKeyDigest := digest }, glb := { s.glb with ownerSet := true } }

/-- What stands against a staged image that may not have been readable: such a one does not verify (log 157). -/
def Hw.stagedRefusal (s : Hw) (image : Option (List Byte)) (owner : Bool) : Option Rsp := match image with
  | some x => s.fwRefusal x owner
  | none => some { status := mbBadSig, detail := 1 }

/-- A staged image is verified and written, that of PLDM as with activate 0; with activate 1 the Gweku restarts at once. -/
def execFwUpdateComplete (s : State) : Out :=
  s.act fun s => (match s.mbx.long with
    | some (.fwUpdate staged owner now) => match s.stagedRefusal staged owner with
      | some r => s.respond r
      | none =>
        let image := staged.getD []
        let s := (if owner then s.putOwner image else s.putImage image).respond {}
        if now then s.gwekuDown else s
    | _ => match s.glb.pldm with
      | some image => { s with glb := { s.glb with pldm := none } }.putImage image
      | none => s)

/-- 60 s without a watchdog restart: the stored minimum rises to the running image's version. -/
def execFwMinVersionRaise (s : State) : Out :=
  s.act fun s => (if s.glb.gweku then { s with flash := { s.flash with minSvn := max s.flash.minSvn s.glb.svn.toNat } } else s)

/-- An image through PLDM: in ROM recovery it goes into slot A and the Gweku starts again; otherwise it is staged as with
activate 0, unless an update is under way; the update lasts until its image has been written (R405, R415, R417; log 158). -/
def execPldmFwUpdate (image : List Byte) (s : State) : Out :=
  s.act fun s => (if (s.fwRefusal image false).isSome then s
    else if s.glb.restarting then s
    else if !s.glb.gweku then (if s.glb.image = 2 then (s.putImage image).bringUp else s)
    else match s.mbx.long with
      | some (.fwUpdate _ _ _) => s
      | _ => if s.glb.pldm.isSome then s else { s with glb := { s.glb with pldm := some image } })

/-! ## The controller tree (R417-R419) -/

/-- The bus owner assigns the endpoint ID. -/
def execMctpControl (eid : Byte) (s : State) : Out := s.act fun s => { s with glb := { s.glb with eid := eid } }

/-- GLB_PACE takes a value, from the driver or from the tree: 0 in rate or burst reads as 1; the bucket holds no more than
the new burst (R419, R424). -/
def Hw.setPace (s : Hw) (v : Nat) : Hw :=
  let burst := max 1 (bits v 39 24)
  { s with glb := { s.glb with paceRate := BitVec.ofNat 24 (max 1 (bits v 23 0)), paceBurst := BitVec.ofNat 16 burst
                               paceEnable := bit v 40, paceLevel := min s.glb.paceLevel (burst * 2 ^ 20 * 2400) } }

/-- A PACE message from the tree. -/
def execPace (value : W64) (s : State) : Out := s.act fun s => (if s.glb.gweku then s.setPace value.toNat else s)

/-- GLB_READY as it reads (R424). -/
def Hw.glbReady (s : Hw) : W64 :=
  let g := s.glb
  BitVec.ofNat 64 (g.field.toNat + b2n g.gweku * 2 ^ 48 + b2n g.flash * 2 ^ 49 + b2n g.logs * 2 ^ 50 + b2n g.defectMap * 2 ^ 51
    + b2n g.time * 2 ^ 52)

/-- The highest step in force (R368). -/
def Pwr.topStep (x : Pwr) : Nat := x.steps.foldl max 0

/-- A HEALTH message goes up the tree: readiness, stroke state, step, uncontained, serial of the latest record (R418). -/
def execHealth (s : State) : Out :=
  s.act fun s => (if s.glb.gweku then
      { s with glb := { s.glb with up := s.glb.up ++
        [.health s.glbReady s.stk.state.code s.pwr.topStep s.flt.uncontained (s.flt.nextSerial - 1)] } }
    else s)

end Sys2Proof.Machine
end

