-- ==== Sys2Proof/Machine/Trees.lean ====
section
/-!
DEFINITION. Broadcast trees (R420-R422): the tree entries in span space, content that arrives and is passed on,
acknowledgements, lost children and their adoption.
-/
namespace Sys2Proof.Machine

/-! ## Tree entries (R420) -/

/-- States of an entry. -/
def trIdle : Nat := 0
def trArmed : Nat := 1
def trReceiving : Nat := 2
def trDone : Nat := 3
def trFailed : Nat := 4

/-- Place of tree entry `t`, and a number in it. -/
def Hw.treeOff (s : Hw) (t : Nat) : Nat := s.glb.treeBase.toNat + 256 * t
def Hw.treeGet (s : Hw) (t off n : Nat) : Nat := s.memNat (s.treeOff t + off) n

def Hw.treeState (s : Hw) (t : Nat) : Nat := s.treeGet t 0 1
def Hw.setTreeState (s : Hw) (t v : Nat) : Hw := s.memWrite (s.treeOff t) (leBytes 1 v)
def Hw.treeParent (s : Hw) (t : Nat) : W16 := BitVec.ofNat 16 (s.treeGet t 2 2)
def Hw.treeDest (s : Hw) (t : Nat) : Nat := s.treeGet t 8 8
def Hw.treeLen (s : Hw) (t : Nat) : Nat := s.treeGet t 0x10 8

/-- Child ranks that the entry names, and the ranks that adopt the children of its child `i`; 0xFFFF names none. -/
def Hw.treeChildren (s : Hw) (t : Nat) : List W16 :=
  (List.range (min 8 (s.treeGet t 1 1))).map fun i => BitVec.ofNat 16 (s.treeGet t (0x38 + 2 * i) 2)
def Hw.treeAdoption (s : Hw) (t i : Nat) : List W16 :=
  ((List.range 4).map fun j => BitVec.ofNat 16 (s.treeGet t (0x48 + 8 * i + 2 * j) 2)).filter fun r => decide (r ≠ 0xFFFF)

/-- Entries that carry a tree identifier and take part in it. -/
def Hw.treeOf (s : Hw) (tree : W16) : Option Nat :=
  (List.range 16).find? fun t => decide (s.treeGet t 4 2 = tree.toNat) && decide (s.treeState t ≠ trIdle)

/-! ## Children and content -/

def Hw.childrenOf (s : Hw) (t : Nat) : List Child := nget [] s.glb.children t
def Hw.setChildren (s : Hw) (t : Nat) (cs : List Child) : Hw :=
  { s with glb := { s.glb with children := nput [] s.glb.children t cs } }
def Hw.got (s : Hw) (t : Nat) : Nat := nget 0 s.glb.received t
def Hw.setGot (s : Hw) (t n : Nat) : Hw := { s with glb := { s.glb with received := nput 0 s.glb.received t n } }

/-- A port that a BCAST never leaves on: RETIRING, or its partner announced retiring (R422). -/
def Port.leaving (x : Port) : Bool := decide (x.state = .retiring) || x.partnerRetiring || x.retire

/-- The links of the forwarding table towards a rank, the primary first (R304). -/
def Hw.linksOf (s : Hw) (rank : W16) : List Nat :=
  match s.tablesOf s.spn.gen with
  | none => []
  | some t =>
    let (node, valid, dead) := rankEntry t rank
    if !valid || dead then []
    else
      let (pri, alt) := forwardEntry t node
      (pri.toList ++ alt.toList).filter fun q => decide (q < 48)

/-- The link for a BCAST to a rank: the first that is UP, else one that is RETRAINING, whose port holds the message until its
link is up again (R421, R422). -/
def Hw.bcastLink (s : Hw) (rank : W16) : Option Nat :=
  let may (st : PortSt) (q : Nat) : Bool := decide ((s.port q).state = st) && !(s.port q).leaving
  ((s.linksOf rank).find? (may .up)).or ((s.linksOf rank).find? (may .retraining))

/-- A rank that only ports of R422 reach. -/
def Hw.cutOff (s : Hw) (rank : W16) : Bool :=
  (s.bcastLink rank).isNone && (s.linksOf rank).any fun q => (s.port q).leaving

/-- A BCAST message (R302, R420). -/
def bcastMsg (s : Hw) (rank tree : W16) (offset : Nat) (last ack report : Bool) (about : W16) (data : List Byte) : LMsg :=
  { kind := 7, destRank := rank, srcRank := s.spn.rank, ttl := 15, gen := s.spn.gen, vc := 2, stroke := s.stk.num.toNat
    specific := tree.toNat + offset % 2 ^ 40 * 2 ^ 16 + b2n last * 2 ^ 56 + b2n ack * 2 ^ 57 + b2n report * 2 ^ 58 + about.toNat * 2 ^ 59
    payload := data }

/-- Send a BCAST where a link may take it. -/
def Hw.sendBcast (s : Hw) (rank : W16) (m : LMsg) : Hw := match s.bcastLink rank with
  | some q => s.sendPort q m
  | none => s

/-- Content in messages of up to 4,096 B: offset in the content, whether it is the last, data (R301). -/
def Hw.contentParts (s : Hw) (t from' n : Nat) : List (Nat × Bool × List Byte) :=
  (List.range ((n + 4095) / 4096)).map fun k =>
    let o := from' + 4096 * k
    let len := min 4096 (from' + n - o)
    (o, decide (o + len ≥ s.treeLen t), s.memRead (s.treeDest t + o) len)

/-- Send content to a child, in order. -/
def Hw.sendContent (s : Hw) (t : Nat) (tree rank : W16) (from' n : Nat) : Hw :=
  (s.contentParts t from' n).foldl (fun s p => s.sendBcast rank (bcastMsg s rank tree p.1 p.2.1 false false 0 p.2.2)) s

/-- TREE_REPORT goes up the controller tree (R418, R421). -/
def Hw.treeReport (s : Hw) (tree rank : W16) : Hw :=
  { s with glb := { s.glb with up := s.glb.up ++ [.treeReport tree rank] } }

/-- A child is lost: it is reported up the tree and to the parent, and its adoption ranks become children, which receive the
content from offset 0 as far as it is in (R421). -/
def Hw.loseChild (s : Hw) (t : Nat) (tree child : W16) : Hw :=
  if !(s.childrenOf t).any (fun c => decide (c.rank = child) && !c.lost) then s
  else
    let n := s.got t
    let s := s.setChildren t ((s.childrenOf t).map fun c => if c.rank = child then { c with lost := true } else c)
    let s := s.treeReport tree child
    let parent := s.treeParent t
    let s := if parent = 0xFFFF then s else s.sendBcast parent (bcastMsg s parent tree 0 false false true child [])
    let known := (s.childrenOf t).map (·.rank)
    let adopted := ((s.treeChildren t).findIdx? fun r => decide (r = child)).elim [] fun i =>
      (s.treeAdoption t i).filter fun r => !known.contains r
    let s := s.setChildren t (s.childrenOf t ++ adopted.map fun r => { rank := r, sent := n, acked := 0, lost := false })
    adopted.foldl (fun s r => s.sendContent t tree r 0 n) s

/-- Children that only such ports reach are lost at once; an adopted one may be lost in its turn (R422). -/
def Hw.loseCutOff : Nat → Hw → Nat → W16 → Hw
  | 0, s, _, _ => s
  | n + 1, s, t, tree =>
    match (s.childrenOf t).find? fun c => !c.lost && s.cutOff c.rank with
    | none => s
    | some c => Hw.loseCutOff n (s.loseChild t tree c.rank) t tree

/-- Pass content on to every child; a lost child goes on receiving as its port allows (R421). -/
def Hw.passOn (s : Hw) (t : Nat) (tree : W16) (from' n : Nat) : Hw :=
  let s := Hw.loseCutOff 40 s t tree
  let cs := s.childrenOf t
  let s := s.setChildren t (cs.map fun c => { c with sent := max c.sent (from' + n) })
  cs.foldl (fun s c => s.sendContent t tree c.rank from' n) s

/-- The digest over the content decides: DONE, or FAILED with a TREE_REPORT (R421). -/
def Hw.checkDigest (s : Hw) (t : Nat) (tree : W16) : Hw :=
  if shake256 32 (s.memRead (s.treeDest t) (s.treeLen t)) = s.memRead (s.treeOff t + 0x18) 32 then s.setTreeState t trDone
  else (s.setTreeState t trFailed).treeReport tree s.spn.rank

/-- An entry begins: nothing received, the children that it names. -/
def Hw.beginTree (s : Hw) (t : Nat) : Hw :=
  (s.setGot t 0).setChildren t ((s.treeChildren t).map fun r => { rank := r, sent := 0, acked := 0, lost := false })

/-- An ack (bit 57) or a report (bit 58) leaves the port that holds it. -/
def Hw.popTree (s : Hw) (bit' : Nat) (tree child : W16) : Hw :=
  s.popAny 7 fun m => bit (at' m 16 8) bit' && decide (at' m 16 2 = tree.toNat) && decide (at' m 2 2 = child.toNat)

/-- The member that content came from: the sender of the message in the port, else the entry's parent. A child that a lost
member's parent has adopted answers to that one (R421; DEDUCED, log 161). -/
def Hw.contentFrom (s : Hw) (p t : Nat) : W16 :=
  match (s.port p).inbox.find? fun e => decide (at' e.2 4 1 = 7) with
  | some e => BitVec.ofNat 16 (at' e.2 2 2)
  | none => s.treeParent t

/-! ## Commands -/

/-- The driver has set a root's entry to ARMED: the root holds the content already, and sends it to each child (R420,
R421). -/
def execTreeArmed (tree : Fin 16) (s : State) : Out :=
  s.act fun s => (let t := tree.val
    if s.treeState t ≠ trArmed ∨ s.treeParent t ≠ 0xFFFF then s
    else
      let id : W16 := BitVec.ofNat 16 (s.treeGet t 4 2)
      let s := ((s.beginTree t).setGot t (s.treeLen t)).checkDigest t id
      s.passOn t id 0 (s.treeLen t))

/-- Content arrives: it is written at dest + offset and passed on; acks go up at every 1 MiB and at the end; with the whole
content in, the digest is checked. A member that is DONE discards it and counts it (R421). -/
def execBcastData (p : PortIx) (tree : W16) (offset : BitVec 40) (last : Bool) (data : List Byte) (s : State) : Out :=
  s.act fun s => (let s0 := s
    let s := s.popInbox p.val 7
    if p.val ≥ 48 then (s.leashDrop p.val false data).raise 31
    else match s.treeOf tree with
      | none => s
      | some t =>
        if s.treeState t = trDone then { s with glb := { s.glb with discarded := satInc s.glb.discarded } }
        else if s.treeState t = trFailed then s
        else
          let s := if s.treeState t = trArmed then (s.beginTree t).setTreeState t trReceiving else s
          let o := offset.toNat
          let s := s.memWrite (s.treeDest t + o) data
          let old := s.got t
          let new := if o ≤ old then max old (o + data.length) else old
          let s := (s.setGot t new).passOn t tree o data.length
          let len := s.treeLen t
          let parent := s0.contentFrom p.val t
          let full := decide (new ≥ len) && (last || decide (new > old))
          let s := if old / 1048576 < new / 1048576 ∨ full then s.sendBcast parent (bcastMsg s parent tree new false true false 0 []) else s
          if full then s.checkDigest t tree else s)

/-- A child acknowledges the content it holds in order; a lost child's ack is ignored (R421). -/
def execBcastAck (tree : W16) (child : W16) (offset : BitVec 40) (s : State) : Out :=
  s.act fun s => (let s := s.popTree 57 tree child
    match s.treeOf tree with
    | none => s
    | some t => s.setChildren t ((s.childrenOf t).map fun c =>
        if c.rank = child ∧ !c.lost then { c with acked := max c.acked offset.toNat } else c))

/-- A report of a member below: a lost or failed one, which its sender has reported up the controller tree already (R421). -/
def execBcastReport (tree : W16) (child : W16) (_rank : W16) (s : State) : Out := s.act fun s => s.popTree 58 tree child

/-- A child silent for 2 ms while content is unacknowledged is lost (R421). -/
def execTreeChildLost (tree : W16) (child : W16) (s : State) : Out :=
  s.act fun s => (match s.treeOf tree with
    | none => s
    | some t =>
      if (s.childrenOf t).any fun c => decide (c.rank = child) && !c.lost && decide (c.acked < c.sent) then s.loseChild t tree child
      else s)

end Sys2Proof.Machine
end

