-- ==== Sys2Proof/Machine/Regs.lean ====
section
/-!
DEFINITION. What BAR0 reads (R5-R8, R425): every register as the driver sees it, from the state it stands for. Fields are
placed by their lowest bit; reserved bits and reserved offsets read zero.
-/
namespace Sys2Proof.Machine

/-- A register from its fields: (lowest bit, value). -/
def pack (fs : List (Nat × Nat)) : Nat := (fs.map fun e => e.2 * 2 ^ e.1).sum

/-! ## Codes -/

def PortSt.code : PortSt → Nat
  | .disabled => 0 | .training => 1 | .negotiating => 2 | .up => 3 | .retraining => 4 | .retiring => 5 | .down => 6 | .failed => 7

def FldState.code : FldState → Nat
  | .off => 0 | .test => 1 | .ready => 2 | .parked => 3 | .deepParked => 4 | .faulted => 5

def ParkState.code : ParkState → Nat
  | .on => 0 | .parking => 1 | .parked => 2 | .deepParking => 3 | .deepParked => 4 | .unparking => 5

def StepSt.code : StepSt → Nat
  | .free => 0 | .open' => 1 | .closing => 2 | .closed => 3

def MbxSt.code : MbxSt → Nat
  | .offline => 0 | .idle => 1 | .running => 2 | .busy => 3

/-! ## Blocks -/

/-- GLB (R8, R424). -/
def Hw.readGlb (s : Hw) (o : Nat) : Nat :=
  let g := s.glb
  match o with
  | 0x00 => 0xD2215748
  | 0x08 => s.glbReady.toNat
  | 0x10 => pack [(0, g.image.toNat), (2, b2n g.fallback), (3, b2n g.mapSource), (4, b2n g.retained), (5, b2n g.ownerSet)
                  , (16, g.svn.toNat), (32, s.flash.mapSerial.toNat % 2 ^ 32)]
  | 0x18 => pack [(0, g.paceRate.toNat), (24, g.paceBurst.toNat), (40, b2n g.paceEnable)]
  | 0x20 => g.treeBase.toNat
  | 0x28 => pack ((48, g.discarded.toNat) :: (List.range 16).map fun t => (3 * t, s.treeState t % 8))
  | _ => 0

/-- Both mailbox buffers read zero while a command runs (R383). -/
def Hw.readBuffer (s : Hw) (o : Nat) : Nat :=
  if s.mbx.state = .running ∨ s.mbx.state = .busy then 0
  else if o < 0x1000 then leNat (ngetList 0 s.mbx.cmdBuf o 8)
  else at' s.mbx.rspBuf (o - 0x1000) 8

/-- MBX (R381, R387). -/
def Hw.readMbx (s : Hw) (o : Nat) : Nat :=
  let m := s.mbx
  if o < 0x2000 then s.readBuffer o
  else match o with
  | 0x2008 => pack [(0, m.state.code), (2, b2n m.done), (3, m.version.toNat), (11, m.opcode.toNat), (27, m.lastRefused.toNat)
                    , (35, m.refused.toNat)]
  | 0x2010 => pack [(0, m.progDone.toNat), (32, m.progTotal.toNat)]
  | 0x2018 => pack [(0, b2n m.winErr), (1, m.winStatus.toNat), (36, m.winBase.toNat)]
  | _ => 0

/-- DWORD `i` of the MSI-X table, and of the pending bit array (R376). -/
def Hw.tableDword (s : Hw) (i : Nat) : Nat := (s.msixDword (i / 4) (i % 4)).toNat
def Hw.pbaDword (s : Hw) (i : Nat) : Nat := pack ((List.range 32).map fun b => (b, b2n (nget false s.evt.pba (32 * i + b))))

/-- Reserve still unused in the current stroke, in units (R52). -/
def Hw.reserveLeft (s : Hw) : Nat := match s.strokeSec with
  | none => 0
  | some x => ((x.beats.filter (·.reserve)).map (·.length)).sum - s.stk.reserveUsed

/-- STK (R52). -/
def Hw.readStk (s : Hw) (o : Nat) : Nat :=
  let k := s.stk
  match o with
  | 0x00 => pack [(0, k.period.toNat), (18, b2n k.bare), (19, k.syncLink.toNat), (25, k.syncMode.toNat)
                  , (27, k.lateLimit.toNat), (34, k.syncTol.toNat)]
  | 0x08 => pack [(0, k.state.code), (3, b2n k.syncOk), (5, min 127 k.lateDepth), (12, k.stretchCur.toNat)
                  , (18, k.stretchNext.toNat), (24, k.beat % 2 ^ 12), (36, s.reserveLeft % 2 ^ 18)]
  | 0x10 => k.num.toNat
  | 0x18 => (s.armed.map (fun (l : Loaded) => l.activation)).getD 0
  | 0x20 => k.origin.toNat
  | 0x28 => k.time.toNat
  | 0x30 => pack [(0, b2n k.ppsPresent), (1, b2n k.todValid), (2, b2n k.locked), (3, b2n k.holdover), (32, k.tsOffset.toNat)]
  | 0x38 => k.lateCnt.toNat
  | 0x40 => k.overrunCnt.toNat
  | 0x48 => k.deferCnt.toNat
  | 0x50 => pack [(0, k.admReason.toNat), (16, k.admBeat.toNat), (28, k.admField.toNat), (34, k.admStatus.toNat)]
  | 0x58 => pack [(0, k.postDiscarded.toNat), (32, k.postNoResult.toNat)]
  | _ => 0

/-- EVT (R380). -/
def Hw.readEvt (s : Hw) (o : Nat) : Nat :=
  let e := s.evt
  if 0x100 ≤ o ∧ o < 0x300 then nget 0 e.cnt ((o - 0x100) / 8)
  else if 0x300 ≤ o ∧ o < 0x500 then (nget 0 e.vec ((o - 0x300) / 8)).toNat
  else match o with
  | 0x00 => e.flags.toNat
  | 0x08 => e.mask.toNat
  | 0x10 => pack [(0, e.ringQp.toNat), (16, e.ringCause.toNat)]
  | _ => 0

/-- TMK of a unit; while a byte is pending the result windows read zero (R398, R402). -/
def Tmk.read (x : Tmk) (o : Nat) : Nat := match o with
  | 0x00 => pack [(0, x.alg.toNat), (2, b2n x.init)]
  | 0x10 => if x.ready then x.value.toNat else 0
  | 0x18 => if x.ready then (x.value ^^^ tmkXor x.alg).toNat else 0
  | 0x20 => pack [(0, b2n x.ready), (1, b2n x.rdEarly), (32, x.count.toNat)]
  | _ => 0

/-- A temperature in 16 bits of two's complement. -/
def half (n : Int) : Nat := (BitVec.ofInt 16 n).toNat

/-- Core rails by rail group, as fields that are on (R368). -/
def Hw.coreRails (s : Hw) : Nat := pack ((List.range 24).map fun g => (g, b2n ((s.fld (2 * g)).coreOn || (s.fld (2 * g + 1)).coreOn)))

/-- Ballast over all fields, in W (R350). -/
def Hw.ballastSum (s : Hw) : Nat := ((List.range 48).map fun f => (s.fld f).ballast).sum

/-- Declared power of the active or armed billet, in W (R368). -/
def Hw.declaredNow (s : Hw) : Nat := match s.armed with
  | some l => l.img.declaredSum
  | none => (s.running.map fun (l : Loaded) => l.img.declaredSum).getD 0

/-- THM_FIELD and THM_SENSOR of the selected field and sensor (R368). -/
def Hw.readThmField (s : Hw) : Nat :=
  let f := s.pwr.selField.toNat
  let x := s.fld f
  pack [(0, half x.forecast), (16, half (x.rise / 4096)), (32, x.powerW % 2 ^ 16), (48, x.park.code), (51, b2n (s.deepOk f))]
def Hw.readThmSensor (s : Hw) : Nat :=
  let x := s.fld s.pwr.selField.toNat
  let i := s.pwr.selSensor.toNat
  pack [(0, half (x.reading i).1), (16, b2n (x.reading i).2), (17, b2n (x.suspects.getLsbD (i / 2)))]

/-- Fields parked or deep-parked. -/
def Hw.parkedCount (s : Hw) : Nat :=
  ((List.range 48).filter fun f => decide ((s.fld f).park = .parked) || decide ((s.fld f).park = .deepParked)).length

/-- PWR and THM (R368). -/
def Hw.readPwr (s : Hw) (o : Nat) : Nat :=
  let w := s.pwr
  match o with
  | 0x00 => pack [(0, w.shed), (2, min 4 s.rampsOn.length), (5, b2n (decide (s.ballastSum > 0))), (6, b2n w.rampExceeded)
                  , (7, s.coreRails), (31, w.memOn.toNat)]
  | 0x08 => pack [(0, w.volts.toNat), (16, w.amps.toNat), (32, w.power.toNat)]
  | 0x10 => pack [(0, s.declaredNow / 10 % 2 ^ 16), (16, s.ballastSum / 10 % 2 ^ 16), (32, w.rampCount.toNat)]
  | 0x20 => pack [(0, w.policyNext.toNat), (2, w.rotate.toNat), (9, w.stretch.toNat), (16, w.park.toNat), (23, b2n w.deepEnable)]
  | 0x28 => pack [(0, w.topStep), (3, w.hottest.toNat), (9, half w.forecast), (25, s.parkedCount)]
  | 0x30 => pack [(0, w.inlet.toNat), (16, w.outlet.toNat), (32, w.flow.toNat), (48, b2n w.valid)]
  | 0x38 => pack [(0, w.selField.toNat), (6, w.selSensor.toNat)]
  | 0x40 => s.readThmField
  | 0x48 => s.readThmSensor
  | 0x50 => pack [(0, w.prkField.toNat), (8, w.prkOp.toNat), (10, w.prkStroke.toNat), (46, w.prkStatus.toNat), (48, b2n w.prkDone)]
  | 0x58 => pack [(0, w.rCond.toNat), (16, w.rConv.toNat), (32, w.cF.toNat), (48, w.qNom.toNat)]
  | 0x60 => pack ((48, b2n w.suspectFlag) :: (List.range 48).map fun f => (f, b2n (decide ((s.fld f).suspects ≠ 0))))
  | 0x68 => pack [(0, w.phasesCnt.toNat), (32, w.parksCnt.toNat), (48, w.haltsCnt.toNat), (56, w.shedsCnt.toNat)]
  | _ => 0

/-- FLT (R346). -/
def Flt.read (x : Flt) (o : Nat) : Nat := match o with
  | 0x00 => pack [(0, b2n x.uncontained), (1, b2n x.recovery.isSome), (2, b2n (x.highFault || x.highTrail))
                  , (3, b2n (x.fullFault || x.fullTrail)), (4, b2n (decide (x.tValid ≠ x.tHead)))
                  , (5, b2n (decide (x.valid ≠ x.head))), (6, b2n x.gwekuRestarted)]
  | 0x08 => x.ringBase.toNat
  | 0x10 => pack [(0, x.head.toNat), (32, x.valid.toNat)]
  | 0x18 => pack [(0, x.tail.toNat), (32, x.flashed.toNat)]
  | 0x20 => x.trailPage.toNat
  | 0x28 => x.tHead.toNat
  | 0x30 => x.tTail.toNat
  | 0x38 => x.tValid.toNat
  | 0x40 => x.tFlashed.toNat
  | 0x48 => x.telBase.toNat
  | 0x50 => pack [(0, x.telSize.toNat), (5, b2n x.telEnable), (6, x.telHead.toNat), (38, x.telTail.toNat)]
  | 0x58 => pack ((List.range 4).map fun p => (16 * p, nget 0 x.telDrop p % 2 ^ 16))
  | 0x60 => x.replayCnt.toNat
  | 0x68 => x.remapCnt.toNat
  | 0x70 => pack [(0, x.lastNs.toNat), (32, x.lastClass.toNat), (40, x.lastOutcome.toNat)]
  | _ => 0

/-- TST; a stored count of 0 reads as 1 (R143). -/
def Tst.read (x : Tst) (o : Nat) : Nat := match o with
  | 0x08 => pack [(0, b2n x.unlocked), (8, x.discarded.toNat), (32, x.injections.toNat)]
  | 0x10 => x.arb.toNat
  | 0x18 => x.bp.toNat
  | 0x20 => x.lat.toNat
  | 0x28 => x.cred.toNat
  | 0x30 =>
    let v := x.inj.toNat
    v + (if bits v 30 23 = 0 then 2 ^ 23 else 0) + b2n x.injArm * 2 ^ 63
  | _ => 0

/-- The selected arbiter's registers; zero where FLD_ARB_SEL selects none (R141). -/
def Hw.readArb (s : Hw) (f o : Nat) : Nat := match (if s.selOk f then s.selArb f else none) with
  | none => 0
  | some k =>
    let a := s.arb k
    let i := (s.fld f).selInput.toNat
    match o with
    | 0x18 => pack [(0, b2n a.fixed), (1, a.slots.length - 1), (9, a.shadowCount.toNat), (17, b2n a.commit), (18, b2n a.commitErr)
                    , (19, b2n (a.reqs.any fun e => e.2.flagged))]
    | 0x20 => (nget (0xFF : Byte) a.shadow (s.fld f).selSlot.toNat).toNat
    | 0x28 => nget 0 a.grants i
    | 0x30 => nget 0 a.wait i
    | 0x38 => nget 0 a.longest i
    | 0x40 => nget 0 a.thresh i
    | _ => 0

/-- FLD of a field (R27, R141). -/
def Hw.readFld (s : Hw) (f o : Nat) : Nat :=
  let x := s.fld f
  match o with
  | 0x00 => pack [(0, f), (6, f / 2), (12, x.state.code), (15, b2n x.gwekuLink), (16, x.ringsOk.toNat), (34, x.shortBlocks)]
  | 0x08 => s.routeEpoch.toNat
  | 0x10 => pack [(0, x.selKind.toNat), (3, x.selInst.toNat), (12, x.selInput.toNat), (19, x.selSlot.toNat), (27, b2n x.selAutoinc)]
  | 0x48 => pack [(0, b2n x.starveFlag), (1, x.starveKind.toNat), (4, x.starveInst.toNat), (13, x.starveInput.toNat)
                  , (20, x.starveCount.toNat)]
  | 0x50 => pack [(0, x.wdogLimit.toNat), (8, b2n x.wdogBit), (9, x.wdogKind.toNat), (12, x.wdogInst.toNat)
                  , (21, x.wdogHolder.toNat), (28, x.wdogCount.toNat)]
  | 0x58 => pack [(0, x.fabLocal.toNat), (24, x.fabExpress.toNat), (48, b2n x.fabFlag), (49, x.fabPort.toNat)
                  , (52, b2n x.fabPlane), (53, x.fabBlock.toNat)]
  | _ => s.readArb f o

/-- HRD of a herder; it shows FAULTED while its field is (R180). -/
def Hw.readHrd (s : Hw) (h o : Nat) : Nat :=
  let x := s.herder h
  match o with
  | 0x00 => pack [(0, if (s.fld h).state = .faulted then 2 else x.state.toNat), (2, b2n x.sorting), (3, x.sortQ.length)
                  , (6, x.lastLayer.toNat), (14, (x.pool.length + x.reenter.length) % 2 ^ 16), (30, x.remap.length)]
  | 0x08 => pack [(0, x.biasLayer.toNat), (8, b2n x.biasCommit), (9, b2n x.biasCommitErr), (10, b2n x.sortAbort)]
  | 0x10 => x.tokens.toNat
  | 0x18 => x.subst.toNat
  | 0x20 => x.deferCnt.toNat
  | 0x28 => x.nextCnt.toNat
  | 0x30 => x.spillCnt.toNat
  | 0x38 => x.dropCnt.toNat
  | 0x40 => x.trailCnt.toNat
  | 0x48 => x.pfCnt.toNat
  | 0x50 => pack [(0, b2n x.errFlag), (1, x.errCode.toNat), (5, x.errToken.toNat), (22, x.errLayer.toNat), (30, x.errCount.toNat)]
  | 0x58 => pack [(0, x.sortPass.toNat), (5, x.sortDone.toNat), (34, x.sortJobs.toNat)]
  | 0x60 => x.recId.toNat
  | _ => 0

/-- TNG (R293); `short` says that an order waits for room. -/
def Tng.read (t : Tng) (short : Bool) (o : Nat) : Nat := match o with
  | 0x00 => pack [(6, b2n short), (7, b2n t.lost)
                  , (8, (t.orders.filter fun o => o.phase.inProgress).length % 2 ^ 18), (26, t.dropped.toNat)]
  | 0x08 => t.hostBase.toNat
  | 0x10 => t.hostPages.toNat
  | 0x18 => t.nbrSel.toNat
  | 0x20 => (nget 0 t.nbr t.nbrSel.toNat).toNat
  | 0x28 => t.pin.toNat
  | 0x30 => t.req0.toNat
  | 0x40 => pack [(0, t.reqTag.toNat), (16, t.reqStatus.toNat), (20, b2n t.reqDone)]
  | 0x48 => t.moveCnt.toNat
  | 0x50 => t.pinnedCnt.toNat
  | 0x58 => t.abandonCnt.toNat
  | 0x60 => t.lostCnt.toNat
  | 0x68 => t.shortCnt.toNat
  | _ => 0

/-- LNK of a port; version reads 0 unless UP (R320). -/
def Port.read (x : Port) (o : Nat) : Nat := match o with
  | 0x00 => pack [(0, b2n x.enable), (1, b2n x.retire), (2, b2n x.syncMember)]
  | 0x08 => pack [(0, x.state.code), (3, b2n x.partnerRetiring), (4, x.partnerRole.toNat)
                  , (6, if x.state = .up then x.version.toNat else 0)]
  | 0x10 => pack [(0, x.node.toNat), (16, x.rank.toNat), (32, x.partnerPort.toNat)]
  | 0x18 => x.delayNs.toNat
  | 0x20 => pack [(0, x.fecCorrected.toNat), (40, x.fecUncorrectable.toNat)]
  | 0x28 => pack [(0, x.errCrc.toNat), (32, x.errReplays.toNat)]
  | 0x30 => pack [(0, x.retrains.toNat), (32, x.downs.toNat)]
  | _ => 0

/-- SPN (R321). -/
def Spn.read (x : Spn) (o : Nat) : Nat := match o with
  | 0x00 => pack [(0, Config.strapsNode.toNat), (16, x.rank.toNat)]
  | 0x08 => x.timeout.toNat
  | 0x10 => x.tblBase.toNat
  | 0x18 => pack [(0, x.tblStroke.toNat), (36, b2n x.commit), (37, b2n x.loading)]
  | 0x20 => pack [(0, x.epoch.toNat), (32, x.gen.toNat), (40, b2n x.tables)]
  | 0x28 => x.journalBase.toNat
  | 0x30 => pack [(0, x.journal.length), (21, x.young.toNat)]
  | 0x38 => x.deadCnt.toNat
  | 0x40 => x.unknownCnt.toNat
  | 0x48 => x.reissueCnt.toNat
  | 0x50 => x.dropCnt.toNat
  | 0x58 => x.skewCnt.toNat
  | _ => 0

/-- RED, backward, by offset from 0x500000 (R229). -/
def Bwd.read (b : Bwd) (o : Nat) : Nat := match o with
  | 0xF00 => pack [(0, b.exp.toNat), (8, b.minExp.toNat), (16, b.maxExp.toNat), (24, b2n b.dynamic), (25, b.interval.toNat)
                   , (41, b.clean.toNat)]
  | 0xF10 => pack [(0, b.newest.toNat), (34, b2n b.none), (35, b.e0.state.code), (37, b.e1.state.code), (39, b.queue.length)
                   , (42, b2n b.openErr), (43, b2n b.closeErr), (44, b.lost.toNat)]
  | 0xF18 => pack [(0, b.resStep.toNat), (32, b.resNonfinite.toNat)]
  | 0xF20 => pack [(0, b.flLost.toNat), (32, b.flExp.toNat), (40, b2n b.flSkip)]
  | 0xF28 => b.masked.toNat
  | 0xF30 => b.mismatch.toNat
  | 0xF38 => b.stashLost.toNat
  | _ => 0

/-- Hw of a reduction engine: FAULTED with its field, ACTIVE where the running billet gives it a bucket (R249, the
states' conditions are not written out, DEDUCED). -/
def Hw.engineState (s : Hw) (e : Nat) : Nat :=
  if (s.fld e).state = .faulted then 2
  else if (s.running.bind (·.img.reduction)).any fun r => r.buckets.any fun b => decide (b.engine = e) then 1 else 0

/-- An open instance is past its deadline with a slot empty (R249). -/
def Hw.instWaits (s : Hw) (i : Inst) : Bool := !i.complete && i.pastDeadline && s.redSec.any fun r =>
  (r.buckets[i.bucket]?).any fun b =>
    let g := r.groupOf b
    decide (shardLen b.values g.m g.self > 0) && (List.range g.m).any fun k => (nget none i.slots k).isNone

/-- Completed instances that stand in the window and wait for those before them (R245, R249). -/
def Hw.instsHeld (s : Hw) (e : Nat) : Nat :=
  let x := s.engine e
  (x.insts.filter fun i => i.complete && !s.instOpen e i && decide (i.seq < x.nextPost.toNat + 16)).length

/-- RED of an engine (R249). -/
def Hw.readEng (s : Hw) (e o : Nat) : Nat :=
  let x := s.engine e
  match o with
  | 0x00 => pack [(0, (x.insts.filter (s.instOpen e)).length), (5, s.engineState e)
                  , (7, b2n (x.insts.any fun i => s.instWaits i)), (8, s.instsHeld e)]
  | 0x08 => x.nextPost.toNat
  | 0x10 => pack [(0, x.cplHead.toNat), (32, x.cplTail.toNat)]
  | 0x18 => x.doneCnt.toNat
  | 0x20 => x.lateCnt.toNat
  | 0x28 => x.backupCnt.toNat
  | 0x30 => x.dropCnt.toNat
  | 0x38 => x.failCnt.toNat
  | 0x40 => pack [(0, b2n x.errFlag), (1, x.errCode.toNat), (8, x.errBucket.toNat), (24, x.errCount.toNat)]
  | _ => 0

/-- QPC of a queue pair (R397). -/
def Qp.read (x : Qp) (o : Nat) : Nat := match o with
  | 0x00 => x.sqBase.toNat
  | 0x08 => x.cqBase.toNat
  | 0x10 => pack [(0, b2n x.enable), (1, b2n x.irq), (2, x.sqLog.toNat), (7, x.cqLog.toNat), (12, x.vector.toNat)
                  , (23, x.aliveInit.toNat)]
  | 0x18 => pack [(0, x.sqHead.toNat), (32, x.sqTail.toNat)]
  | 0x20 => pack [(0, x.cqTail.toNat), (32, x.cqHead.toNat)]
  | 0x28 => pack [(0, b2n x.errRepeat), (1, b2n x.errGap), (2, b2n x.errCrc), (3, b2n x.errKind), (4, b2n x.errDoorbell)
                  , (5, b2n x.cplFull), (6, x.gapSize.toNat), (22, x.errCount.toNat)]
  | 0x30 => x.inCnt.toNat
  | 0x38 => x.outCnt.toNat
  | _ => 0

/-- KVP_FREE: the lowest free frame count, the first field that has it, and the pool indices whose count is 0 (R209). -/
def Hw.readFree (s : Hw) : Nat :=
  let fs := (List.range 48).map fun f => (s.freeFrames f, f)
  let least := fs.foldl (fun m e => if e.1 < m.1 then e else m) (fs.headD (0, 0))
  let n := s.kv.poolSize.toNat
  let used := ((List.range n).filter fun i => decide (s.refCount i ≠ 0)).length
  pack [(0, least.1 % 2 ^ 20), (20, least.2), (26, n - used)]

/-- KVP (R209). -/
def Hw.readKvp (s : Hw) (o : Nat) : Nat :=
  let k := s.kv
  match o with
  | 0x00 => pack [(0, k.lowWater.toNat), (20, k.highWater.toNat), (40, k.protect.toNat), (48, b2n k.autoPreempt)]
  | 0x08 => k.seqBase.toNat
  | 0x10 => k.poolBase.toNat
  | 0x18 => k.poolSize.toNat
  | 0x20 => k.meta'.toNat
  | 0x28 => pack [(0, k.live.length), (17, k.opQueue.length), (26, b2n k.pfxBusy.isSome), (27, b2n s.kvShort), (28, k.opLost.toNat)]
  | 0x38 => pack [(0, k.pfxSeq.toNat), (16, k.pfxCount.toNat), (33, k.pfxOpCode.toNat)]
  | 0x40 => k.pfxIds.toNat
  | 0x48 => pack [(0, k.resMatched.toNat), (17, k.resStatus.toNat), (20, b2n k.resDone)]
  | 0x50 => pack [(0, k.bBits), (5, b2n k.pfxEnable)]
  | 0x58 => k.pfxBase.toNat
  | 0x60 => k.pfxGroup.toNat
  | 0x68 => k.salt.toNat
  | 0x70 => s.readFree
  | 0x78 => k.deferCnt.toNat
  | 0x80 => k.nopageCnt.toNat
  | 0x88 => k.cowCnt.toNat
  | 0x90 => k.preemptCnt.toNat
  | 0x98 => k.pfxFull.toNat
  | _ => 0

/-! ## The map (R425) -/

/-- Offset of the MSI-X table and of the pending bit array in BAR0 (R376). -/
def inTable (off : Nat) : Bool := decide (0x18000 ≤ off) && decide (off < 0x20000)
def inPba (off : Nat) : Bool := decide (0x13000 ≤ off) && decide (off < 0x13100)

/-- The 64-bit value at an aligned BAR0 offset outside the touchmark units. -/
def Hw.regRead (s : Hw) (off : Nat) : Nat :=
  if off < 0x10000 then s.readGlb off
  else if inTable off then s.tableDword ((off - 0x18000) / 4) + s.tableDword ((off - 0x18000) / 4 + 1) * 2 ^ 32
  else if inPba off then s.pbaDword ((off - 0x13000) / 4) + s.pbaDword ((off - 0x13000) / 4 + 1) * 2 ^ 32
  else if off < 0x20000 then s.readMbx (off - 0x10000)
  else if off < 0x30000 then s.readStk (off - 0x20000)
  else if off < 0x40000 then s.readEvt (off - 0x30000)
  else if off < 0x50000 then 0
  else if off < 0x60000 then s.readPwr (off - 0x50000)
  else if off < 0x70000 then s.flt.read (off - 0x60000)
  else if off < 0x80000 then s.tst.read (off - 0x70000)
  else if off < 0xB0000 then s.readFld ((off - 0x80000) / 0x1000) (off % 0x1000)
  else if off < 0x100000 then 0
  else if off < 0x130000 then s.readHrd ((off - 0x100000) / 0x1000) (off % 0x1000)
  else if off < 0x200000 then 0
  else if off < 0x300000 then s.tng.read (s.tng.orders.any fun o => decide (o.phase = .wait) && !s.orderOff o) (off - 0x200000)
  else if off < 0x340000 then (s.port ((off - 0x300000) / 0x1000)).read (off % 0x1000)
  else if off < 0x400000 then 0
  else if off < 0x500000 then s.spn.read (off - 0x400000)
  else if off < 0x510000 then s.bwd.read (off - 0x500000)
  else if off < 0x540000 then s.readEng ((off - 0x510000) / 0x1000) (off % 0x1000)
  else if off < 0x600000 then 0
  else if off < 0xA00000 then (s.qp ((off - 0x600000) / 0x40)).read (off % 0x40)
  else s.readKvp (off - 0xA00000)

/-- The 64-bit value at an aligned BAR0 offset. -/
def State.regRead (s : State) (off : Nat) : Nat :=
  if 0x40000 ≤ off ∧ off < 0x40800 then (s.tmk ((off - 0x40000) / 0x40)).read (off % 0x40) else s.hw.regRead off

/-- A BAR0 read of `width` bytes: all-ones where the access is narrow or misaligned outside the places that allow it, zero
before the firmware runs but for GLB_ID and GLB_READY (R5, R376, R403). -/
def State.bar0Read (s : State) (off width : Nat) : List Byte :=
  if !s.hw.barOpen && decide (off ≠ 0) && decide (off ≠ 8) then List.replicate width 0
  else if width = 8 ∧ off % 8 = 0 then leBytes 8 (s.regRead off)
  else if width = 4 ∧ off % 4 = 0 ∧ inTable off then leBytes 4 (s.hw.tableDword ((off - 0x18000) / 4))
  else if width = 4 ∧ off % 4 = 0 ∧ inPba off then leBytes 4 (s.hw.pbaDword ((off - 0x13000) / 4))
  else List.replicate width 0xFF

end Sys2Proof.Machine
end

