-- ==== Sys2Proof/Machine/Bar0.lean ====
section
/-!
DEFINITION. A BAR0 write (R5-R7, R425): by access code where the register has no row of its own, and with the effect of
that row where it has one.
-/
namespace Sys2Proof.Machine

/-- The state that a meaning answers, or the one before where it answers none. -/
def nextOr (s : State) : Out → State
  | .next t => t
  | _ => s

/-! ## The mailbox (R381-R387) -/

/-- Reserved bytes of a command header are zero and its length is in range (R381, R382). -/
def headerOk (h : List Byte) : Bool := zeros (sub h 2 2) && zeros (sub h 12 4) && decide (at' h 8 4 ≤ 4080)

/-- LOAD_WEIGHTS by its op (R260). -/
def State.loadCommand (s : State) (tag : W32) (p : List Byte) : Out :=
  let c : Byte := BitVec.ofNat 8 (at' p 0 1)
  let a : W16 := BitVec.ofNat 16 (at' p 2 2)
  let src : W64 := BitVec.ofNat 64 (at' p 8 8)
  if !paramsOk p 16 [(4, 4)] then s.act (fun s => s.mbxCommand 0x20 tag fun s => s.respond badParams)
  else match at' p 1 1 with
  | 0 => execLoadBase tag c src s
  | 1 => execLoadAdapter tag c a src s
  | 2 => execDropAdapter tag c a s
  | _ => s.act (fun s => s.mbxCommand 0x20 tag fun s => s.respond (refused 0x20))

/-- The commands of the mailbox (R386). -/
def mailboxOpcodes : List Nat := [0x01, 0x10, 0x11, 0x20, 0x21, 0x22, 0x30, 0x40, 0x41, 0x42, 0x43]

/-- The doorbell rings: the command in the buffer is carried out (R381, R386). -/
def State.doorbell (s : State) : Out :=
  let h := ngetList 0 s.hw.mbx.cmdBuf 0 16
  let op := at' h 0 2
  let tag : W32 := BitVec.ofNat 32 (at' h 4 4)
  let p := ngetList 0 s.hw.mbx.cmdBuf 16 (min 4080 (at' h 8 4))
  if mailboxOpcodes.contains op && !headerOk h then s.act (fun s => s.mbxCommand op tag fun s => s.respond badParams)
  else match op with
  | 0x01 => execVersion tag p s
  | 0x10 => execAdmitBillet tag p s
  | 0x11 => execRetireBillet tag p s
  | 0x20 => s.loadCommand tag p
  | 0x21 => execEpochCommit tag p s
  | 0x22 => execEpochDrop tag p s
  | 0x30 => execLogRead tag p s
  | 0x40 => execSelfTest tag p s
  | 0x41 => execScrub tag p s
  | 0x42 => execAttest tag p s
  | 0x43 => execFwUpdate tag p s
  | _ => execBadOpcode tag (BitVec.ofNat 16 op) s

/-- MBX: the command buffer is written while no command runs; the response buffer is never the driver's (R383, R387). -/
def State.writeMbx (s : State) (o : Nat) (v : W64) : Out :=
  if o < 0x1000 then
    s.act (fun s => s.bar0 fun s => if s.mbx.state = .running ∨ s.mbx.state = .busy then s
      else { s with mbx := { s.mbx with cmdBuf := nputList 0 s.mbx.cmdBuf o (leBytes 8 v.toNat) } })
  else match o with
  | 0x2000 => if v.getLsbD 0 then s.doorbell else s.act (fun s => s.bar0 id)
  | 0x2008 => s.act (fun s => s.bar0 fun s => { s with mbx := { s.mbx with done := s.mbx.done && !v.getLsbD 2 } })
  | 0x2018 => s.act (fun s => s.bar0 fun s => { s with mbx := { s.mbx with
      winErr := s.mbx.winErr && !v.getLsbD 0, winBase := BitVec.ofNat 28 (bits v.toNat 63 36) } })
  | _ => s.act (fun s => s.bar0 id)

/-- DWORDs of the MSI-X table; vector control keeps its mask bit. Vectors held behind a mask go out once it is cleared
(R376). -/
def Hw.writeTable1 (s : Hw) (i : Nat) (v : W32) : Hw :=
  let v := if i % 4 = 3 then v &&& 1 else v
  { s with evt := { s.evt with table := nput (if i % 4 = 3 then 1 else 0) s.evt.table i v } }
def Hw.writeTableDw (s : Hw) (i : Nat) (vs : List W32) : Hw :=
  ((vs.zip (List.range vs.length)).foldl (fun (s : Hw) (e : W32 × Nat) => s.writeTable1 (i + e.2) e.1) s).firePending

/-! ## The blocks -/

/-- GLB (R424). -/
def Hw.writeGlb (s : Hw) (o : Nat) (v : W64) : Hw :=
  if !s.glb.gweku then s
  else match o with
  | 0x18 => s.setPace v.toNat
  | 0x20 => { s with glb := { s.glb with treeBase := v } }
  | _ => s

/-- EVT: flags clear where a 1 is written (R7, R378). -/
def Hw.writeEvt (s : Hw) (o : Nat) (v : W64) : Hw :=
  if 0x300 ≤ o ∧ o < 0x500 then
    { s with evt := { s.evt with vec := nput 0 s.evt.vec ((o - 0x300) / 8) (v.setWidth 11) } }
  else match o with
  | 0x00 => { s with evt := { s.evt with flags := s.evt.flags &&& ~~~(v.setWidth 44) } }
  | 0x08 => { s with evt := { s.evt with mask := v.setWidth 44 } }
  | _ => s

/-- PWR and THM beside THM_CFG and PWR_SHED (R368). -/
def Hw.writePwr (s : Hw) (o : Nat) (v : W64) : Hw :=
  let n := v.toNat
  match o with
  | 0x00 => { s with pwr := { s.pwr with rampExceeded := s.pwr.rampExceeded && !bit n 6 } }
  | 0x38 => { s with pwr := { s.pwr with selField := BitVec.ofNat 6 n, selSensor := BitVec.ofNat 3 (bits n 8 6) } }
  | 0x50 =>
    let s := { s with pwr := { s.pwr with prkDone := s.pwr.prkDone && !bit n 48 } }
    s.submitPark (BitVec.ofNat 2 (bits n 9 8)) (BitVec.ofNat 6 n) (BitVec.ofNat 36 (bits n 45 10))
  | 0x60 => { s with pwr := { s.pwr with suspectFlag := s.pwr.suspectFlag && !bit n 48 } }
  | _ => s

/-- FLT beside the two tails: the bases are writable in IDLE only (R346). -/
def Hw.writeFlt (s : Hw) (o : Nat) (v : W64) : Hw :=
  let x := s.flt
  let n := v.toNat
  match o with
  | 0x00 => { s with flt := { x with uncontained := x.uncontained && !bit n 0, gwekuRestarted := x.gwekuRestarted && !bit n 6 } }
  | 0x08 => if s.idle then { s with flt := { x with ringBase := v } } else s
  | 0x20 => if s.idle then { s with flt := { x with trailPage := BitVec.ofNat 31 n } } else s
  | 0x48 => if s.idle then { s with flt := { x with telBase := v } } else s
  | 0x50 =>
    let size := bits n 4 0
    { s with flt := { x with telSize := BitVec.ofNat 5 (if size > 10 then 0 else size), telEnable := bit n 5
                             telTail := BitVec.ofNat 26 (bits n 63 38) } }
  | _ => s

/-- TST beside TST_UNLOCK and TST_INJ; while the block is locked the write is discarded and counted (R142, R143). -/
def Hw.writeTst (s : Hw) (o : Nat) (v : W64) : Hw :=
  let t := s.tst
  if !t.unlocked then { s with tst := t.discard }
  else match o with
  | 0x10 => { s with tst := { t with arb := v &&& 0x800001FFFFFFFFFF } }
  | 0x18 => { s with tst := { t with bp := v &&& 0x800000003FFFFFFF } }
  | 0x20 => { s with tst := { t with lat := v &&& 0x80000000000FFFFF } }
  | 0x28 => { s with tst := { t with cred := v &&& 0x800000003FFFFFFF } }
  | _ => s

/-- FLD_ARB_CTL and FLD_ARB_THRESH of the selected arbiter; discarded where FLD_ARB_SEL selects none (R141). -/
def Hw.writeArb (s : Hw) (f o : Nat) (v : W64) : Hw := match (if s.selOk f then s.selArb f else none) with
  | none => s
  | some k =>
    let a := s.arb k
    match o with
    | 0x18 => s.setArb k { a with shadowCount := BitVec.ofNat 8 (bits v.toNat 16 9), commit := a.commit || v.getLsbD 17
                                  commitErr := a.commitErr && !v.getLsbD 18 }
    | 0x40 => s.setArb k { a with thresh := nput 0 a.thresh (s.fld f).selInput.toNat (v.toNat % 2 ^ 32) }
    | _ => s

/-- FLD (R141). -/
def Hw.writeFld (s : Hw) (f o : Nat) (v : W64) : Hw :=
  let n := v.toNat
  match o with
  | 0x10 => s.onFld f fun x => { x with
      selKind := BitVec.ofNat 3 n, selInst := BitVec.ofNat 9 (bits n 11 3), selInput := BitVec.ofNat 7 (bits n 18 12)
      selSlot := BitVec.ofNat 8 (bits n 26 19), selAutoinc := bit n 27 }
  | 0x20 => s.slotAccess f (some v)
  | 0x48 => s.onFld f fun x => { x with starveFlag := x.starveFlag && !bit n 0 }
  | 0x50 => s.onFld f fun x => { x with wdogBit := x.wdogBit && !bit n 8, wdogLimit := BitVec.ofNat 8 (max 1 (bits n 7 0)) }
  | 0x58 => s.onFld f fun x => { x with fabFlag := x.fabFlag && !bit n 48 }
  | _ => s.writeArb f o v

/-- HRD_CTL: its W1C bit and bias_layer here, a commit and an abort by the effects of their rows (R180). -/
def writeHrdCtl (h : FieldIx) (v : W64) (s : State) : Out :=
  let layer : Byte := BitVec.ofNat 8 v.toNat
  let s := nextOr s (s.act fun s => s.bar0 fun s => s.onHerder h.val fun x =>
    { x with biasLayer := layer, biasCommitErr := x.biasCommitErr && !v.getLsbD 9 })
  let s := if v.getLsbD 8 then nextOr s (execBiasCommit h layer s) else s
  if v.getLsbD 10 then execSortAbort h s else .next s

/-- HRD (R180). -/
def writeHrd (h : FieldIx) (o : Nat) (v : W64) (s : State) : Out := match o with
  | 0x08 => writeHrdCtl h v s
  | 0x50 => s.act (fun s => s.bar0 fun s => s.onHerder h.val fun x => { x with errFlag := x.errFlag && !v.getLsbD 0 })
  | _ => s.act (fun s => s.bar0 id)

/-- A page has a tier 4 home, a home uses loan `i` (R290, R293). -/
def Hw.tier4Used (s : Hw) : Bool := !(s.usedLocs 4).isEmpty
def Hw.loanUsed (s : Hw) (i : Nat) : Bool :=
  let (rank, page, count) := s.loan i
  (s.usedLocs 3).any fun l =>
    decide (l.toNat % 2 ^ 16 = rank) && decide (page ≤ l.toNat / 2 ^ 16) && decide (l.toNat / 2 ^ 16 < page + count)

/-- TNG beside TNG_REQ1 (R293). -/
def Hw.writeTng (s : Hw) (o : Nat) (v : W64) : Hw :=
  let t := s.tng
  match o with
  | 0x00 => { s with tng := { t with lost := t.lost && !v.getLsbD 7 } }
  | 0x08 => if s.tier4Used then s else { s with tng := { t with hostBase := v } }
  | 0x10 => if s.tier4Used then s else { s with tng := { t with hostPages := v.setWidth 32 } }
  | 0x18 => { s with tng := { t with nbrSel := v.setWidth 4 } }
  | 0x20 => if s.loanUsed t.nbrSel.toNat then s
    else { s with tng := { t with nbr := nput 0 t.nbr t.nbrSel.toNat (v &&& 0x7FFFFFFFFFFFFFFF) } }
  | 0x28 => { s with tng := { t with pin := v &&& 0x7FFFFFFFFFFFFFFF } }
  | 0x30 => { s with tng := { t with req0 := v } }
  | 0x40 => { s with tng := { t with reqDone := t.reqDone && !v.getLsbD 20 } }
  | _ => s

/-- LNK_CTL: enable and retire by the effects of their rows where they change; sync_member is a peer link's (R296, R320). -/
def writeLnkCtl (p : PortIx) (v : W64) (s : State) : Out :=
  let s := nextOr s (s.act fun s => s.bar0 fun s => s.onPort p.val fun x => { x with syncMember := v.getLsbD 2 && decide (p.val < 48) })
  let x := s.hw.port p.val
  let s := if v.getLsbD 0 = x.enable then s else nextOr s (if v.getLsbD 0 then execLinkEnable p s else execLinkDisable p s)
  if v.getLsbD 1 = (s.hw.port p.val).retire then .next s
  else if v.getLsbD 1 then execLinkRetire p s else execLinkRetireCancel p s

/-- SPN beside a table commit (R321). -/
def Hw.writeSpn (s : Hw) (o : Nat) (v : W64) : Hw :=
  let x := s.spn
  match o with
  | 0x00 => if s.idle then { s with spn := { x with rank := BitVec.ofNat 16 (bits v.toNat 31 16) } } else s
  | 0x08 => { s with spn := { x with timeout := BitVec.ofNat 11 (min 2000 (max 2 (bits v.toNat 10 0))) } }
  | 0x10 => { s with spn := { x with tblBase := v } }
  | 0x18 => { s with spn := { x with tblStroke := v.setWidth 36 } }
  | 0x28 => if s.idle then { s with spn := { x with journalBase := v } } else s
  | _ => s

/-- RED_STEP_CTL and the error bits of RED_STEP_STATUS (R229). -/
def writeRed (o : Nat) (v : W64) (s : State) : Out :=
  let stroke : BitVec 36 := BitVec.ofNat 36 (bits v.toNat 37 2)
  match o with
  | 0xF00 => execLscaleWrite v s
  | 0xF08 => match bits v.toNat 1 0 with
    | 1 => execRedStepOpen stroke s
    | 2 => execRedStepClose stroke s
    | _ => s.act (fun s => s.bar0 id)
  | 0xF10 => s.act (fun s => s.bar0 fun s => { s with bwd := { s.bwd with
      openErr := s.bwd.openErr && !v.getLsbD 42, closeErr := s.bwd.closeErr && !v.getLsbD 43 } })
  | _ => s.act (fun s => s.bar0 id)

/-- RED of an engine (R249). -/
def writeEng (e : FieldIx) (o : Nat) (v : W64) (s : State) : Out := match o with
  | 0x10 => s.act (fun s => s.bar0 fun s => s.onEngine e.val fun x => { x with cplTail := BitVec.ofNat 32 (bits v.toNat 63 32) })
  | 0x40 => s.act (fun s => s.bar0 fun s => s.onEngine e.val fun x => { x with errFlag := x.errFlag && !v.getLsbD 0 })
  | 0x48 => execRedEngAbort e v s
  | _ => s.act (fun s => s.bar0 id)

/-- QPC beside QPC_CFG: the bases are discarded while the queue pair is enabled (R388, R397). -/
def Qp.write (x : Qp) (o : Nat) (v : W64) : Qp := match o with
  | 0x00 => if x.enable then x else { x with sqBase := v }
  | 0x08 => if x.enable then x else { x with cqBase := v }
  | 0x28 => { x with errRepeat := x.errRepeat && !v.getLsbD 0, errGap := x.errGap && !v.getLsbD 1, errCrc := x.errCrc && !v.getLsbD 2
                     errKind := x.errKind && !v.getLsbD 3, errDoorbell := x.errDoorbell && !v.getLsbD 4 }
  | _ => x

/-- KVP_OP by its operation (R182, R209). -/
def writeKvOp (v : W64) (s : State) : Out :=
  let q : W16 := v.setWidth 16
  let stroke : BitVec 36 := BitVec.ofNat 36 (bits v.toNat 63 28)
  match bits v.toNat 19 16 with
  | 1 => execKvOpen q stroke s
  | 2 => execKvEdit q stroke s
  | 3 => execKvCommit q stroke s
  | 4 => execKvAbandon q stroke s
  | 5 => execKvPreempt q stroke s
  | 6 => execKvResume q stroke s
  | 7 => execKvClose q stroke s
  | 8 => execKvPrio q (BitVec.ofNat 8 (bits v.toNat 27 20)) stroke s
  | _ => s.act (fun s => s.bar0 id)

/-- KVP_PFX: the register takes the fields, and LOOKUP or INSERT starts (R209). -/
def writePfx (v : W64) (s : State) : Out :=
  let q : W16 := v.setWidth 16
  let n : BitVec 17 := BitVec.ofNat 17 (bits v.toNat 32 16)
  match bits v.toNat 34 33 with
  | 1 => execLookup q n s
  | 2 => execInsert q n s
  | op => s.act (fun s => s.bar0 fun s => { s with kv := { s.kv with pfxSeq := q, pfxCount := n, pfxOpCode := BitVec.ofNat 2 op } })

/-- KVP beside its operations: bases and geometry only while every sequence is FREE (R209). -/
def Hw.writeKvp (s : Hw) (o : Nat) (v : W64) : Hw :=
  let k := s.kv
  let n := v.toNat
  let free (x : Kv) : Hw := if k.live.isEmpty then { s with kv := x } else s
  let pool (x : Kv) : Hw := free { x with freeList := [], fresh := 0, freeing := [] }
  match o with
  | 0x00 => { s with kv := { k with lowWater := BitVec.ofNat 20 n, highWater := BitVec.ofNat 20 (bits n 39 20)
                                    protect := BitVec.ofNat 8 (bits n 47 40), autoPreempt := bit n 48 } }
  | 0x08 => free { k with seqBase := v }
  | 0x10 => pool { k with poolBase := v }
  | 0x18 => free { k with poolSize := v.setWidth 32 }
  | 0x20 => pool { k with meta' := v }
  | 0x40 => { s with kv := { k with pfxIds := v } }
  | 0x48 => { s with kv := { k with resDone := k.resDone && !bit n 20 } }
  | 0x50 => free { k with pfxB := BitVec.ofNat 5 n, pfxEnable := bit n 5 }
  | 0x58 => free { k with pfxBase := v }
  | 0x60 => free { k with pfxGroup := v }
  | 0x68 => { s with kv := { k with salt := v } }
  | _ => s

/-! ## The map (R425) -/

/-- A unit of a run of windows, where the offset lies in one. -/
def window (n off base size : Nat) : Option (Fin n) :=
  if h : (off - base) / size < n then some ⟨(off - base) / size, h⟩ else none

/-- The touchmark registers of a unit (R402). -/
def writeTmk (u : Fin 32) (o : Nat) (v : W64) (s : State) : Out := match o with
  | 0x00 => execTmkCfgWrite u v s
  | 0x08 => execTmkDataWrite u 8 v s
  | 0x10 => execTmkValueWrite u v s
  | 0x20 => execTmkStatusWrite u v s
  | _ => s.act (fun s => s.bar0 id)

/-- Registers below 0x80000. -/
def writeLow (off : Nat) (v : W64) (s : State) : Out :=
  if off < 0x10000 then s.act (fun s => s.bar0 fun s => s.writeGlb off v)
  else if inTable off then
    s.act (fun s => s.bar0 fun s => s.writeTableDw ((off - 0x18000) / 4) [v.setWidth 32, BitVec.ofNat 32 (bits v.toNat 63 32)])
  else if off < 0x20000 then s.writeMbx (off - 0x10000) v
  else if off = 0x20000 then execStkCfgWrite v s
  else if off = 0x20020 then s.act (fun s => s.bar0 fun s => if s.idle then { s with stk := { s.stk with origin := v } } else s)
  else if off < 0x30000 then s.act (fun s => s.bar0 id)
  else if off < 0x40000 then s.act (fun s => s.bar0 fun s => s.writeEvt (off - 0x30000) v)
  else if off < 0x50000 then
    match window 32 off 0x40000 0x40 with
    | some u => writeTmk u (off % 0x40) v s
    | none => s.act (fun s => s.bar0 id)
  else if off = 0x50018 then execPwrShed (v.setWidth 32) s
  else if off = 0x50020 then execThmCfgWrite v s
  else if off < 0x60000 then s.act (fun s => s.bar0 fun s => s.writePwr (off - 0x50000) v)
  else if off = 0x60018 then execFltRingTailWrite v s
  else if off = 0x60030 then execFltTrailTailWrite v s
  else if off < 0x70000 then s.act (fun s => s.bar0 fun s => s.writeFlt (off - 0x60000) v)
  else if off = 0x70000 then execTstUnlock (v.setWidth 32) s
  else if off = 0x70030 then execTstInjArm v s
  else if off < 0x70030 then s.act (fun s => s.bar0 fun s => s.writeTst (off - 0x70000) v)
  else s.act (fun s => s.bar0 id)

/-- Registers from 0x80000. -/
def writeHigh (off : Nat) (v : W64) (s : State) : Out :=
  let none' : Out := s.act (fun s => s.bar0 id)
  if off < 0x100000 then match window 48 off 0x80000 0x1000 with
    | some f => s.act (fun s => s.bar0 fun s => s.writeFld f.val (off % 0x1000) v)
    | none => none'
  else if off < 0x200000 then match window 48 off 0x100000 0x1000 with
    | some h => writeHrd h (off % 0x1000) v s
    | none => none'
  else if off = 0x200038 then
    if s.hw.barOpen then (nextOr s (s.act fun s => s.bar0 id)).driverReq v else .next s
  else if off < 0x300000 then s.act (fun s => s.bar0 fun s => s.writeTng (off - 0x200000) v)
  else if off < 0x400000 then match window 64 off 0x300000 0x1000 with
    | some p => if off % 0x1000 = 0 then writeLnkCtl p v s else none'
    | none => none'
  else if off = 0x400018 ∧ v.getLsbD 36 then execTableCommit (v.setWidth 36) s
  else if off < 0x500000 then s.act (fun s => s.bar0 fun s => s.writeSpn (off - 0x400000) v)
  else if off < 0x510000 then writeRed (off - 0x500000) v s
  else if off < 0x600000 then match window 48 off 0x510000 0x1000 with
    | some e => writeEng e (off % 0x1000) v s
    | none => none'
  else if off < 0xA00000 then
    let q := (off - 0x600000) / 0x40
    if off % 0x40 = 0x10 then execQpcCfgWrite (BitVec.ofNat 16 q) v s
    else s.act (fun s => s.bar0 fun s => s.onQp q fun x => x.write (off % 0x40) v)
  else if off = 0xA00030 then writeKvOp v s
  else if off = 0xA00038 then writePfx v s
  else s.act (fun s => s.bar0 fun s => s.writeKvp (off - 0xA00000) v)

/-- A narrow write: the touchmark data ports take 1, 2 and 4 bytes, aligned; the MSI-X table takes 4; every other one is
discarded (R5, R376, R400). -/
def writeNarrow (off width : Nat) (v : W64) (s : State) : Out :=
  if width = 4 ∧ off % 4 = 0 ∧ inTable off then
    s.act (fun s => s.bar0 fun s => s.writeTableDw ((off - 0x18000) / 4) [v.setWidth 32])
  else if (width = 1 ∨ width = 2 ∨ width = 4) ∧ off % width = 0 ∧ 0x40000 ≤ off ∧ off % 0x40 / 8 = 1 then
    match window 32 off 0x40000 0x40 with
    | some u => execTmkDataWrite u width v s
    | none => s.act (fun s => s.bar0 id)
  else s.act (fun s => s.bar0 id)

/-- REGISTER_WRITE: a BAR0 write of `width` bytes (R5-R7). -/
def execRegisterWrite (off : BitVec 24) (width : Nat) (value : W64) (s : State) : Out :=
  let o := off.toNat
  if width ≠ 8 ∨ o % 8 ≠ 0 then writeNarrow o width value s
  else if o < 0x80000 then writeLow o value s
  else writeHigh o value s

end Sys2Proof.Machine
end

