-- ==== Sys2Proof/Machine/CoreMma.lean ====
section
/-!
DEFINITION. The anvil and the accumulator: MMA, CLR, DRAIN, LOAD, TOV and their completions (R61-R69, R99).
-/
namespace Sys2Proof.Machine

/-! ## The anvil -/

/-- The operation that an MMA word and its captured descriptors name (R62, R83). -/
def mmaOf (x : CoreState) (i : Ins) : MmaOp :=
  let imm := i.imm.toNat
  { a := x.dreg i.srcA.toNat, b := x.dreg i.srcB.toNat, transA := i.mod.getLsbD 3, transB := i.mod.getLsbD 2,
    acc := i.mod.getLsbD 1, kc := bits imm 31 20, m := bits imm 19 15 + 1, n := bits imm 14 10 + 1,
    ro := bits imm 9 5, co := bits imm 4 0, tok := i.tok.toNat }

/-- Rows and columns that an MMA reads of a descriptor (R62, R68). -/
def mmaNeedA (o : MmaOp) : Nat × Nat := if o.transA then (o.kc * 32, o.m) else (o.m, o.kc * 32)
def mmaNeedB (o : MmaOp) : Nat × Nat := if o.transB then (o.n, o.kc * 32) else (o.kc * 32, o.n)

/-- A descriptor covers the rows and columns an MMA reads (R62). -/
def dCovers (d : Desc) (need : Nat × Nat) : Bool := decide (need.1 ≤ dRows d) && decide (need.2 ≤ dCols d)

/-- The pair is the one the image's format list records for this instruction, and is admitted (R61, R98). -/
def CoreState.pairListed (x : CoreState) (a b : Nat) : Bool :=
  x.formats.any (fun e => decide (e = (x.pc, a, b))) && pairOk a b

/-- The program error of an MMA, if any (R57, R58, R61, R62, R68, R87). Of a descriptor, the rows and columns that the MMA reads
must lie in the SRAM: elements beyond them are not reached (R58 says "reaches"; DEDUCED, log 189). -/
def mmaError (x : CoreState) (o : MmaOp) : Option Nat :=
  if o.transA && o.transB then some 0x06
  else if !(dValid o.a && dValid o.b && dAligned o.a && dAligned o.b) then some 0x04
  else if decide (o.kc = 0) || decide (o.ro + o.m > 32) || decide (o.co + o.n > 32)
      || !dCovers o.a (mmaNeedA o) || !dCovers o.b (mmaNeedB o) then some 0x05
  else if !x.pairListed (dFmt o.a) (dFmt o.b) then some 0x07
  else if !(dInSram o.a (mmaNeedA o).1 (mmaNeedA o).2 && dInSram o.b (mmaNeedB o).1 (mmaNeedB o).2) then some 0x03
  else none

/-- MMA queues an anvil product, operation 0 of its class (R82, R84): it waits while the queue holds four, its token is full, or an accumulator operation
still touches its region (R62, R64, R66, R85). -/
def execMma (c : CoreId) (i : Ins) (s : State) : Out :=
  s.act fun s => (s.issue c.toNat 3 i fun x =>
    let o := mmaOf x i
    if bits x.word.toNat 59 54 ≠ 0 then .error 0x01 else guarded i { tok := true, srcA := true, srcB := true, mod := 0xE, imm := 0xFFFFFFFF } true
      (match mmaError x o with
       | some e => .error e
       | none =>
         if decide (x.anvil.length ≥ 4) || x.tokFull o.tok || x.accMeets o.ro o.co o.m o.n then .wait
         else .done (CoreState.tokAdd { x with anvil := x.anvil ++ [o] } o.tok)))

/-- The value of A[i][k], and of B[k][j] (R62, R68, R69). -/
def mmaA (sram : NMap Byte) (o : MmaOp) (i k : Nat) : Val :=
  if o.transA then elemVal sram o.a k i else elemVal sram o.a i k
def mmaB (sram : NMap Byte) (o : MmaOp) (k j : Nat) : Val :=
  if o.transB then elemVal sram o.b j k else elemVal sram o.b k j

/-- One output element: chunks of 32 along K in ascending order, each summed exactly and rounded once (R65). -/
def mmaCell (sram : NMap Byte) (o : MmaOp) (start : W32) (i j : Nat) : W32 :=
  (List.range o.kc).foldl (fun v q =>
    fadd v (chunkSum ((List.range 32).map fun k => vmul (mmaA sram o i (32 * q + k)) (mmaB sram o (32 * q + k) j)))) start

/-- The positions of a region, row by row (R67). -/
def regionCells (m n : Nat) : List (Nat × Nat) :=
  (List.range m).flatMap fun i => (List.range n).map fun j => (i, j)

/-- Entries of the transpose buffer after a transposed read: the codes of its last tile of 32 k, written along the axis
that alternates from tile to tile (R68). -/
def transposeTile (x : CoreState) (o : MmaOp) : NMap W32 :=
  if !(o.transA || o.transB) then x.transpose
  else
    let d := if o.transA then o.a else o.b
    let outs := if o.transA then o.m else o.n
    let k0 := 32 * (o.kc - 1)
    (regionCells 32 outs).foldl (fun m p =>
      let code := if o.transA then sramBits x.sram (elemBit d (k0 + p.1) p.2) (fmtBits (dFmt d))
        else sramBits x.sram (elemBit d p.2 (k0 + p.1)) (fmtBits (dFmt d))
      nput 0 m (if o.kc % 2 = 1 then 32 * p.1 + p.2 else 32 * p.2 + p.1) (BitVec.ofNat 32 code)) x.transpose

/-- The accumulator after an MMA: the region starts from its value or, with acc 0, from +0 (R62). -/
def mmaRun (x : CoreState) (o : MmaOp) : CoreState :=
  let y := (regionCells o.m o.n).foldl (fun y p =>
    y.setAcc (o.ro + p.1) (o.co + p.2)
      (mmaCell x.sram o (if o.acc then x.accAt (o.ro + p.1) (o.co + p.2) else 0) p.1 p.2)) x
  { y with transpose := transposeTile x o }

/-- The first MMA of the anvil queue completes: its region is written and its token counts down (R64, R85). -/
def execMmaComplete (c : CoreId) (s : State) : Out :=
  s.act fun s => (match (s.core c.toNat).anvil with
    | [] => s
    | o :: rest => if (s.core c.toNat).dead then s else s.sramChecked c.toNat fun s =>
        s.onCore c.toNat fun x => CoreState.tokDone { mmaRun x o with anvil := rest } o.tok)

/-! ## The accumulator unit -/

/-- The region of an ACC word, laid out as the MMA immediate (PRESUMED, log 11). -/
def accRegion (i : Ins) (kind : AccKind) (desc : Desc) : AccOp :=
  let imm := i.imm.toNat
  { kind := kind, desc := desc, reg := 0, m := bits imm 19 15 + 1, n := bits imm 14 10 + 1,
    ro := bits imm 9 5, co := bits imm 4 0, tok := i.tok.toNat }

/-- Queue an accumulator operation: it waits for a queued MMA that writes its region, and for its token (R66, R85). -/
def accIssue (x : CoreState) (o : AccOp) : Issue :=
  if decide (o.ro + o.m > 32) || decide (o.co + o.n > 32) then .error 0x05
  else if x.mmaMeets o.ro o.co o.m o.n || x.tokFull o.tok then .wait
  else .done (CoreState.tokAdd { x with accQ := x.accQ ++ [o] } o.tok)

/-- CLR sets a region to +0 (R67). -/
def execClr (c : CoreId) (i : Ins) (s : State) : Out :=
  s.act fun s => (s.issue c.toNat 4 i fun x => guarded i { tok := true, imm := 0xFFFFF } true (accIssue x (accRegion i .clr 0)))

/-- Formats a drain writes: FP32, FP16, BF16, E4M3, E5M2 (R67). -/
def drainFmt (f : Nat) : Bool := decide (f ≤ 4)

/-- A drain of a gradient that the running billet's backward section rounds stochastically: into grad_fmt, on a core whose image has
an entry of the gradient product list (R212; which drains those are is DEDUCED, log 208). -/
def Hw.stochasticGrad (s : Hw) (c fmt : Nat) : Bool :=
  let image := (s.core c).image
  (s.running.bind fun l => l.img.backward).any fun w =>
    w.stochastic && decide (fmt = if w.fp16 then 1 else 2) && w.products.any fun p => decide (p.image = image)

/-- DRAIN converts a region and writes it to the descriptor dst, row by row; it rounds as mod bit 0 says, and a gradient as the
backward section does too (R58, R67, R83, R212). -/
def execDrain (c : CoreId) (i : Ins) (s : State) : Out :=
  s.act fun s => (s.issue c.toNat 4 i fun x =>
    let d := x.dreg i.dst.toNat
    let o := accRegion i (.drain (i.mod.getLsbD 0 || s.stochasticGrad c.toNat (dFmt d))) d
    guarded i { tok := true, dst := true, mod := 0x1, imm := 0xFFFFF } true
      (if !(dValid d && dAligned d && drainFmt (dFmt d)) then .error 0x04
       else if !dInSram d o.m o.n then .error 0x03
       else accIssue x o))

/-- LOAD reads a region from an FP32 descriptor src_a (R67). -/
def execLoad (c : CoreId) (i : Ins) (s : State) : Out :=
  s.act fun s => (s.issue c.toNat 4 i fun x =>
    let d := x.dreg i.srcA.toNat
    let o := accRegion i .load d
    guarded i { tok := true, srcA := true, imm := 0xFFFFF } true
      (if !(dValid d && decide (dFmt d = 0)) then .error 0x04
       else if !dInSram d o.m o.n then .error 0x03
       else accIssue x o))

/-- TOV copies 16 consecutive values of accumulator row ro, from column co, to the vector register dst (R67). -/
def execTov (c : CoreId) (i : Ins) (s : State) : Out :=
  s.act fun s => (s.issue c.toNat 4 i fun x =>
    let o := { accRegion i .tov 0 with m := 1, n := 16, reg := i.dst.toNat }
    guarded i { tok := true, dst := true, imm := 0x3FF } (isS i.dst) (accIssue x o))

/-- What an accumulator operation does when it completes; a stochastic drain draws row by row (R67, R104, R110). -/
def accRun (x : CoreState) (o : AccOp) : CoreState :=
  let cells := regionCells o.m o.n
  match o.kind with
  | .clr => cells.foldl (fun y p => y.setAcc (o.ro + p.1) (o.co + p.2) 0) x
  | .load => cells.foldl (fun y p => y.setAcc (o.ro + p.1) (o.co + p.2) (f32of (elemVal x.sram o.desc p.1 p.2))) x
  | .tov => (List.range 16).foldl (fun y l => y.setLane o.reg l (x.accAt o.ro (o.co + l))) x
  | .drain stoch =>
    let (rs, g) := roundings stoch cells.length x.srState
    { x with
      sram := (cells.zip rs).foldl (fun m e => elemPut m o.desc e.1.1 e.1.2
        (narrowCode (dFmt o.desc) e.2 (x.accAt (o.ro + e.1.1) (o.co + e.1.2)))) x.sram
      srState := g }

/-- An accumulator operation reads SRAM words: a load does, and a drain whose rows do not cover whole words (R56). -/
def AccOp.readsSram (o : AccOp) : Bool := match o.kind with
  | .load => true
  | .drain _ => !(descSpans o.desc o.m o.n).all wholeSpan
  | _ => false

/-- The first accumulator operation in progress completes and its token counts down (R67, R85). -/
def execAccComplete (c : CoreId) (s : State) : Out :=
  s.act fun s => (match (s.core c.toNat).accQ with
    | [] => s
    | o :: rest => if (s.core c.toNat).dead then s
      else
        let done (s : Hw) : Hw := s.onCore c.toNat fun x => CoreState.tokDone { accRun x o with accQ := rest } o.tok
        if o.readsSram then s.sramChecked c.toNat done else done s)

end Sys2Proof.Machine
end

