-- ==== Sys2Proof/Machine/Hop.lean ====
section
/-!
DEFINITION. A hop of a message (R120, R121), and what an endpoint does with a message that has reached it (R116, R131, R145).
-/
namespace Sys2Proof.Machine

/-- The input of a herder's or reduction engine's arbiter that a message comes in by: own field, other fields, peer links,
or for a reduction engine the bellows ports (R131). -/
def unitInput (m : FMsg) : Nat :=
  let own := if m.sourceEndpoint then decide (endpointField m.source = endpointField m.dest)
    else decide (coreField m.source = endpointField m.dest)
  match (if m.sourceEndpoint then endpointPort m.source else none) with
  | some p => if p < 48 then 2 else if endpointUnit m.dest = 1 then 3 else b2n !own
  | none => b2n !own

/-- An endpoint other than a core takes a message out of the fabric: a herder's or reduction engine's arbiter input sees its
request, and a herder discards a message of a kind that it does not accept (R145). What a unit does with a message that it
accepts is the unit's own command. -/
def Hw.endpointTakes (s : Hw) (m : FMsg) : Hw :=
  let f := endpointField m.dest
  let input := unitInput m
  let n := (m.payload.length + 63) / 64
  match endpointUnit m.dest with
  | 0 =>
    let s := s.arbRaise f 3 0 input n
    if m.kind = 1 ∨ m.kind = 2 ∨ m.kind = 3 then s else s.herdErr f 1 0 0
  | 1 => s.arbRaise f 4 0 input n
  | _ => s

/-- A core message that reaches a port site waits there for its beat to commit (R333); what it carries goes to the
partner as an ACT, ATTN or other message of its kind. -/
def Hw.portTakes (s : Hw) (m : FMsg) (p : Nat) : Hw :=
  s.onPort p fun x => { x with held := x.held ++ [(m.stroke, m.beat,
    { kind := at' m.payload 4 1, destRank := BitVec.ofNat 16 (at' m.payload 0 2), srcRank := s.spn.rank, ttl := 15,
      gen := s.spn.gen, vc := 2, word1 := at' m.payload 8 8 % 2 ^ 44, stroke := m.stroke, specific := at' m.payload 16 16, payload := m.payload.drop 32 })] }

/-- A message whose tail has left the fabric: a core's waits for the core to take it, an endpoint's is taken, a poisoned one
counts for nothing there (R78, R120). -/
def Hw.delivered (s : Hw) (m : FMsg) : Hw :=
  if !m.destEndpoint then { s with fabric := s.fabric ++ [{ m with arrived := true, bufs := [] }] }
  else if m.poisoned then s
  else match endpointPort m.dest with
    | some p => s.portTakes m p
    | none => s.endpointTakes m

/-- Routers take flits of message `n` of the fabric, check them and forward them: the head by dimension order against credits,
the flits behind it as buffers free (R119-R121, R124, R125). `noise` is what the links do to the bits of one flit. A message that
is absorbed leaves with what its source still holds, except what has yet to come through the injection arbiter. A message whose
head moves is listed behind the others: heads stand in the order in which they last moved. -/
def execFabricMessageHop (n : Nat) (noise : FlitNoise) (s : State) : Out :=
  s.act fun s => (match s.fabric[n]? with
    | none => s
    | some m =>
      if m.arrived || m.absorbed then s
      else
        let m' := s.moved n m
        let (s, m') := (s.sendDone m m').checkFlits noise (received m m') m'
        let out := s.fabric.eraseIdx n
        if m'.absorbed then
          if m'.byArbiter && decide (m'.waiting ≠ 0) then { s with fabric := s.fabric.set n { m' with bufs := [] } }
          else { s with fabric := out }
        else if m'.ejected = m'.size then Hw.delivered { s with fabric := out } m'
        else { s with fabric := if m'.ready = m.ready then s.fabric.set n m' else out ++ [m'] })

end Sys2Proof.Machine
end

