-- ==== Sys2Proof/Machine/Dispatch.lean ====
section
/-! DEFINITION. exec: the one dispatch from a command to its meaning, one arm per row of spec/opcode_table.json. -/
namespace Sys2Proof.Machine

/-- The effect of a command on everything but the queue. -/
def exec (i : Instr) (s : State) : Host.Outcome State Fault Refusal :=
  match i with
  | .powerGood => Sys2Proof.Machine.execPowerGood s
  | .fieldTestDone f wardenOk clockOk rings scanFailed reports marchFailed => Sys2Proof.Machine.execFieldTestDone f wardenOk clockOk rings scanFailed reports marchFailed s
  | .flashMounted => Sys2Proof.Machine.execFlashMounted s
  | .logsRecovered => Sys2Proof.Machine.execLogsRecovered s
  | .powerLoss => Sys2Proof.Machine.execPowerLoss s
  | .functionLevelReset => Sys2Proof.Machine.execFunctionLevelReset s
  | .busMasterEnableChange on => Sys2Proof.Machine.execBusMasterEnableChange on s
  | .registerWrite off width value => Sys2Proof.Machine.execRegisterWrite off width value s
  | .strokeBoundary => Sys2Proof.Machine.execStrokeBoundary s
  | .beatBoundary measured => Sys2Proof.Machine.execBeatBoundary measured s
  | .beatCommit => Sys2Proof.Machine.execBeatCommit s
  | .intake => Sys2Proof.Machine.execIntake s
  | .beatTaskTrigger => Sys2Proof.Machine.execBeatTaskTrigger s
  | .stkCfgWrite value => Sys2Proof.Machine.execStkCfgWrite value s
  | .admitBillet tag params => Sys2Proof.Machine.execAdmitBillet tag params s
  | .retireBillet tag params => Sys2Proof.Machine.execRetireBillet tag params s
  | .version tag params => Sys2Proof.Machine.execVersion tag params s
  | .loadBase tag context source => Sys2Proof.Machine.execLoadBase tag context source s
  | .loadAdapter tag context adapter source => Sys2Proof.Machine.execLoadAdapter tag context adapter source s
  | .dropAdapter tag context adapter => Sys2Proof.Machine.execDropAdapter tag context adapter s
  | .loadWeightsEnd => Sys2Proof.Machine.execLoadWeightsEnd s
  | .epochCommit tag params => Sys2Proof.Machine.execEpochCommit tag params s
  | .epochDrop tag params => Sys2Proof.Machine.execEpochDrop tag params s
  | .logRead tag params => Sys2Proof.Machine.execLogRead tag params s
  | .selfTest tag params => Sys2Proof.Machine.execSelfTest tag params s
  | .scrub tag params => Sys2Proof.Machine.execScrub tag params s
  | .scrubComplete => Sys2Proof.Machine.execScrubComplete s
  | .attest tag params => Sys2Proof.Machine.execAttest tag params s
  | .attestComplete => Sys2Proof.Machine.execAttestComplete s
  | .fwUpdate tag params => Sys2Proof.Machine.execFwUpdate tag params s
  | .fwUpdateComplete => Sys2Proof.Machine.execFwUpdateComplete s
  | .fwMinVersionRaise => Sys2Proof.Machine.execFwMinVersionRaise s
  | .pldmFwUpdate image => Sys2Proof.Machine.execPldmFwUpdate image s
  | .mctpControl eid => Sys2Proof.Machine.execMctpControl eid s
  | .pace value => Sys2Proof.Machine.execPace value s
  | .health => Sys2Proof.Machine.execHealth s
  | .ppsEdge tod => Sys2Proof.Machine.execPpsEdge tod s
  | .timeHoldover => Sys2Proof.Machine.execTimeHoldover s
  | .sync p fr => Sys2Proof.Machine.execSync p fr s
  | .stretchSyncResend => Sys2Proof.Machine.execStretchSyncResend s
  | .syncLost => Sys2Proof.Machine.execSyncLost s
  | .syncRestored => Sys2Proof.Machine.execSyncRestored s
  | .resultRecord records => Sys2Proof.Machine.execResultRecord records s
  | .trailNotice eventId arrival serial h => Sys2Proof.Machine.execTrailNotice eventId arrival serial h s
  | .deferralNotice eventId arrival => Sys2Proof.Machine.execDeferralNotice eventId arrival s
  | .nop c w => Sys2Proof.Machine.execNop c w s
  | .br c w => Sys2Proof.Machine.execBr c w s
  | .brz c w => Sys2Proof.Machine.execBrz c w s
  | .brnz c w => Sys2Proof.Machine.execBrnz c w s
  | .wait c w => Sys2Proof.Machine.execWait c w s
  | .endTask c w => Sys2Proof.Machine.execEndTask c w s
  | .scalarAlu c op w => Sys2Proof.Machine.execScalarAlu c op w s
  | .li c w => Sys2Proof.Machine.execLi c w s
  | .csrr c w => Sys2Proof.Machine.execCsrr c w s
  | .csrw c w => Sys2Proof.Machine.execCsrw c w s
  | .set c fld fromScalar w => Sys2Proof.Machine.execSet c fld fromScalar w s
  | .setf c w => Sys2Proof.Machine.execSetf c w s
  | .addb c w => Sys2Proof.Machine.execAddb c w s
  | .ldd c w => Sys2Proof.Machine.execLdd c w s
  | .std c w => Sys2Proof.Machine.execStd c w s
  | .mma c w => Sys2Proof.Machine.execMma c w s
  | .mmaComplete c => Sys2Proof.Machine.execMmaComplete c s
  | .clr c w => Sys2Proof.Machine.execClr c w s
  | .drain c w => Sys2Proof.Machine.execDrain c w s
  | .load c w => Sys2Proof.Machine.execLoad c w s
  | .tov c w => Sys2Proof.Machine.execTov c w s
  | .accComplete c => Sys2Proof.Machine.execAccComplete c s
  | .vecAdd c w => Sys2Proof.Machine.execVecAdd c w s
  | .vecMul c w => Sys2Proof.Machine.execVecMul c w s
  | .vecFma c w => Sys2Proof.Machine.execVecFma c w s
  | .vecMin c w => Sys2Proof.Machine.execVecMin c w s
  | .vecMax c w => Sys2Proof.Machine.execVecMax c w s
  | .vecCompare c op w => Sys2Proof.Machine.execVecCompare c op w s
  | .vecSelect c w => Sys2Proof.Machine.execVecSelect c w s
  | .hsum c w => Sys2Proof.Machine.execHsum c w s
  | .hmax c w => Sys2Proof.Machine.execHmax c w s
  | .exp c w => Sys2Proof.Machine.execExp c w s
  | .rcp c w => Sys2Proof.Machine.execRcp c w s
  | .rsq c w => Sys2Proof.Machine.execRsq c w s
  | .vld c w => Sys2Proof.Machine.execVld c w s
  | .vst c w => Sys2Proof.Machine.execVst c w s
  | .cvt c w => Sys2Proof.Machine.execCvt c w s
  | .send c w => Sys2Proof.Machine.execSend c w s
  | .chan c w => Sys2Proof.Machine.execChan c w s
  | .bld c w => Sys2Proof.Machine.execBld c w s
  | .bst c w => Sys2Proof.Machine.execBst c w s
  | .vportTransferComplete c strike => Sys2Proof.Machine.execVportTransferComplete c strike s
  | .lineReread f wafer line noise => Sys2Proof.Machine.execLineReread f wafer line noise s
  | .spn c w => Sys2Proof.Machine.execSpn c w s
  | .trig c w => Sys2Proof.Machine.execTrig c w s
  | .coreMessageArrival c => Sys2Proof.Machine.execCoreMessageArrival c s
  | .heartbeat c => Sys2Proof.Machine.execHeartbeat c s
  | .missedHeartbeats reporter neighbour => Sys2Proof.Machine.execMissedHeartbeats reporter neighbour s
  | .boundaryHeartbeatMiss reporter neighbour => Sys2Proof.Machine.execBoundaryHeartbeatMiss reporter neighbour s
  | .fabricMessageHop msg noise => Sys2Proof.Machine.execFabricMessageHop msg noise s
  | .arbDecision f kind inst => Sys2Proof.Machine.execArbDecision f kind inst s
  | .arbStarve f kind inst input => Sys2Proof.Machine.execArbStarve f kind inst input s
  | .arbWatchdog f kind inst => Sys2Proof.Machine.execArbWatchdog f kind inst s
  | .slotTableCommit f => Sys2Proof.Machine.execSlotTableCommit f s
  | .fldArbSlotAccess f write => Sys2Proof.Machine.execFldArbSlotAccess f write s
  | .tstUnlock key => Sys2Proof.Machine.execTstUnlock key s
  | .tstInjArm value => Sys2Proof.Machine.execTstInjArm value s
  | .tstCredExpire => Sys2Proof.Machine.execTstCredExpire s
  | .routeSwitch => Sys2Proof.Machine.execRouteSwitch s
  | .logits h m => Sys2Proof.Machine.execLogits h m s
  | .tokenSettle h layer => Sys2Proof.Machine.execTokenSettle h layer s
  | .layerClose h layer => Sys2Proof.Machine.execLayerClose h layer s
  | .flag h token mask values => Sys2Proof.Machine.execFlag h token mask values s
  | .sortJob h source j => Sys2Proof.Machine.execSortJob h source j s
  | .sortComplete h => Sys2Proof.Machine.execSortComplete h s
  | .sortAbort h => Sys2Proof.Machine.execSortAbort h s
  | .biasCommit h layer => Sys2Proof.Machine.execBiasCommit h layer s
  | .kvOpen seq stroke => Sys2Proof.Machine.execKvOpen seq stroke s
  | .kvEdit seq stroke => Sys2Proof.Machine.execKvEdit seq stroke s
  | .kvCommit seq stroke => Sys2Proof.Machine.execKvCommit seq stroke s
  | .kvAbandon seq stroke => Sys2Proof.Machine.execKvAbandon seq stroke s
  | .kvPreempt seq stroke => Sys2Proof.Machine.execKvPreempt seq stroke s
  | .kvResume seq stroke => Sys2Proof.Machine.execKvResume seq stroke s
  | .kvClose seq stroke => Sys2Proof.Machine.execKvClose seq stroke s
  | .kvPrio seq value stroke => Sys2Proof.Machine.execKvPrio seq value stroke s
  | .commitPrepared seq => Sys2Proof.Machine.execCommitPrepared seq s
  | .shadowSyncDone seq => Sys2Proof.Machine.execShadowSyncDone seq s
  | .lookup seq count => Sys2Proof.Machine.execLookup seq count s
  | .insert seq count => Sys2Proof.Machine.execInsert seq count s
  | .prefixOpComplete => Sys2Proof.Machine.execPrefixOpComplete s
  | .redStepOpen stroke => Sys2Proof.Machine.execRedStepOpen stroke s
  | .redStepClose stroke => Sys2Proof.Machine.execRedStepClose stroke s
  | .lscaleWrite value => Sys2Proof.Machine.execLscaleWrite value s
  | .grad e m => Sys2Proof.Machine.execGrad e m s
  | .contrib e m => Sys2Proof.Machine.execContrib e m s
  | .result e m => Sys2Proof.Machine.execResult e m s
  | .shardReduced e seq => Sys2Proof.Machine.execShardReduced e seq s
  | .resultWriteAck e seq => Sys2Proof.Machine.execResultWriteAck e seq s
  | .completionPost e => Sys2Proof.Machine.execCompletionPost e s
  | .redEngAbort e seq => Sys2Proof.Machine.execRedEngAbort e seq s
  | .session p context session offset last data => Sys2Proof.Machine.execSession p context session offset last data s
  | .chunk p slot fillSeq chunk piece data => Sys2Proof.Machine.execChunk p slot fillSeq chunk piece data s
  | .fillTimeout slot => Sys2Proof.Machine.execFillTimeout slot s
  | .streamErr p of code => Sys2Proof.Machine.execStreamErr p of code s
  | .gradAck p id => Sys2Proof.Machine.execGradAck p id s
  | .prefetch q r => Sys2Proof.Machine.execPrefetch q r s
  | .move q r => Sys2Proof.Machine.execMove q r s
  | .evict q r => Sys2Proof.Machine.execEvict q r s
  | .clone q r => Sys2Proof.Machine.execClone q r s
  | .release q r => Sys2Proof.Machine.execRelease q r s
  | .place q r => Sys2Proof.Machine.execPlace q r s
  | .moveCopyDone q page => Sys2Proof.Machine.execMoveCopyDone q page s
  | .flashUncorrectable logicalPage => Sys2Proof.Machine.execFlashUncorrectable logicalPage s
  | .linkEnable p => Sys2Proof.Machine.execLinkEnable p s
  | .linkDisable p => Sys2Proof.Machine.execLinkDisable p s
  | .linkRetire p => Sys2Proof.Machine.execLinkRetire p s
  | .linkRetireCancel p => Sys2Proof.Machine.execLinkRetireCancel p s
  | .linkLock p => Sys2Proof.Machine.execLinkLock p s
  | .trainingTimeout p => Sys2Proof.Machine.execTrainingTimeout p s
  | .hello p m => Sys2Proof.Machine.execHello p m s
  | .lossOfLock p => Sys2Proof.Machine.execLossOfLock p s
  | .fecUncorrectable p sixteenInMs => Sys2Proof.Machine.execFecUncorrectable p sixteenInMs s
  | .retrainTimeout p => Sys2Proof.Machine.execRetrainTimeout p s
  | .downRetry p => Sys2Proof.Machine.execDownRetry p s
  | .dataFrame p fr => Sys2Proof.Machine.execDataFrame p fr s
  | .nakFrame p next fr => Sys2Proof.Machine.execNakFrame p next fr s
  | .idleFrame p fr => Sys2Proof.Machine.execIdleFrame p fr s
  | .ackTimer p => Sys2Proof.Machine.execAckTimer p s
  | .replayTimeout p => Sys2Proof.Machine.execReplayTimeout p s
  | .spanReq p m => Sys2Proof.Machine.execSpanReq p m s
  | .spanRsp engine tag status data old => Sys2Proof.Machine.execSpanRsp engine tag status data old s
  | .sweep engine rank epoch => Sys2Proof.Machine.execSweep engine rank epoch s
  | .flagStoreRelease c => Sys2Proof.Machine.execFlagStoreRelease c s
  | .spanTimeout engine due => Sys2Proof.Machine.execSpanTimeout engine due s
  | .act p m => Sys2Proof.Machine.execAct p m s
  | .attn p m part => Sys2Proof.Machine.execAttn p m part s
  | .event p srcRank entry => Sys2Proof.Machine.execEvent p srcRank entry s
  | .sqDoorbell q value => Sys2Proof.Machine.execSqDoorbell q value s
  | .cqDoorbell q value => Sys2Proof.Machine.execCqDoorbell q value s
  | .sqEntryTake q => Sys2Proof.Machine.execSqEntryTake q s
  | .qpcCfgWrite q value => Sys2Proof.Machine.execQpcCfgWrite q value s
  | .tableCommit stroke => Sys2Proof.Machine.execTableCommit stroke s
  | .tableLoadDone => Sys2Proof.Machine.execTableLoadDone s
  | .bcastData p tree offset last data => Sys2Proof.Machine.execBcastData p tree offset last data s
  | .bcastAck tree child offset => Sys2Proof.Machine.execBcastAck tree child offset s
  | .bcastReport tree child rank => Sys2Proof.Machine.execBcastReport tree child rank s
  | .treeChildLost tree child => Sys2Proof.Machine.execTreeChildLost tree child s
  | .faultReport d => Sys2Proof.Machine.execFaultReport d s
  | .wardenAck f => Sys2Proof.Machine.execWardenAck f s
  | .beatReplay => Sys2Proof.Machine.execBeatReplay s
  | .wardenStatus f => Sys2Proof.Machine.execWardenStatus f s
  | .wardenLinkLoss f => Sys2Proof.Machine.execWardenLinkLoss f s
  | .gwekuWatchdog => Sys2Proof.Machine.execGwekuWatchdog s
  | .gwekuRestartDone => Sys2Proof.Machine.execGwekuRestartDone s
  | .refetchTimeout page => Sys2Proof.Machine.execRefetchTimeout page s
  | .logCopy trail => Sys2Proof.Machine.execLogCopy trail s
  | .spillRefill trail => Sys2Proof.Machine.execSpillRefill trail s
  | .fltRingTailWrite value => Sys2Proof.Machine.execFltRingTailWrite value s
  | .fltTrailTailWrite value => Sys2Proof.Machine.execFltTrailTailWrite value s
  | .telemetryRecord bytes => Sys2Proof.Machine.execTelemetryRecord bytes s
  | .hearthTick powers => Sys2Proof.Machine.execHearthTick powers s
  | .thermalStepExit => Sys2Proof.Machine.execThermalStepExit s
  | .deepParkTimer f => Sys2Proof.Machine.execDeepParkTimer f s
  | .parkWithdraw f => Sys2Proof.Machine.execParkWithdraw f s
  | .thmPark f stroke => Sys2Proof.Machine.execThmPark f stroke s
  | .thmDeepPark f stroke => Sys2Proof.Machine.execThmDeepPark f stroke s
  | .thmUnpark f stroke => Sys2Proof.Machine.execThmUnpark f stroke s
  | .rampComplete f => Sys2Proof.Machine.execRampComplete f s
  | .thmCfgWrite value => Sys2Proof.Machine.execThmCfgWrite value s
  | .sensorSample readings => Sys2Proof.Machine.execSensorSample readings s
  | .sensorSuspect f pair => Sys2Proof.Machine.execSensorSuspect f pair s
  | .coolantSample inlet outlet flow => Sys2Proof.Machine.execCoolantSample inlet outlet flow s
  | .coolantTelemetry => Sys2Proof.Machine.execCoolantTelemetry s
  | .flowStop samples => Sys2Proof.Machine.execFlowStop samples s
  | .junctionBackstop => Sys2Proof.Machine.execJunctionBackstop s
  | .pwrShed key => Sys2Proof.Machine.execPwrShed key s
  | .shedRecord => Sys2Proof.Machine.execShedRecord s
  | .retentionTimeout => Sys2Proof.Machine.execRetentionTimeout s
  | .flowReturn => Sys2Proof.Machine.execFlowReturn s
  | .tmkCfgWrite u value => Sys2Proof.Machine.execTmkCfgWrite u value s
  | .tmkDataWrite u width value => Sys2Proof.Machine.execTmkDataWrite u width value s
  | .tmkValueWrite u value => Sys2Proof.Machine.execTmkValueWrite u value s
  | .tmkStatusWrite u value => Sys2Proof.Machine.execTmkStatusWrite u value s
  | .resultWindowRead u final => Sys2Proof.Machine.execResultWindowRead u final s
  | .bar4Read off len => Sys2Proof.Machine.execBar4Read off len s
  | .bar4Write off data => Sys2Proof.Machine.execBar4Write off data s
  | .coreLoss c => Sys2Proof.Machine.execCoreLoss c s
  | .fieldClockLoss f => Sys2Proof.Machine.execFieldClockLoss f s
  | .badOpcode tag opcode => Sys2Proof.Machine.execBadOpcode tag opcode s
  | .closeDone seq => Sys2Proof.Machine.execCloseDone seq s
  | .treeArmed tree => Sys2Proof.Machine.execTreeArmed tree s

end Sys2Proof.Machine
end

