-- ==== Sys2Proof/Safety.lean ====
section
/-!
DEFINITION. The terms that statements use: what a step goes on to, what a core instruction leaves, what counts as a state
in good form.
-/
namespace Sys2Proof.Machine

/-- Every memory of the state is in its canonical form: rising addresses, no entry equal to what an unlisted one reads. -/
def State.memOk (s : State) : Prop := Memory.wf s.hw.mem = true ∧ Memory.wf s.hw.hostMem = true

/-- The state with core `c` put to `x`, and nothing else changed. -/
def State.coreTo (s : State) (c : CoreId) (x : CoreState) : State := { s with hw := s.hw.setCore c.toNat x }

/-- The state of core `c`. -/
def State.coreOf (s : State) (c : CoreId) : CoreState := s.hw.core c.toNat

/-- `t` is `s` but for core `c`, which is `x`: every other core and everything outside the cores is as it was. -/
def State.CoreGoes (s : State) (c : CoreId) (x : CoreState) (t : State) : Prop :=
  t = { s with hw := { s.hw with cores := t.hw.cores } } ∧ ∀ n, t.hw.core n = if n = c.toNat then x else s.hw.core n

/-- What a vector instruction leaves: the lanes of register dst that the mask of s15 admits hold `f`, every other lane and
everything else of the core is as it was, and the instruction counter moves on (R70). -/
def VecResult (i : Ins) (f : Nat → W32) (x y : CoreState) : Prop :=
  y = { x with vregs := y.vregs, pc := (x.pc + 1) % 512 } ∧
  ∀ r < 16, ∀ l < 16, y.vlane r l =
    if r = i.dst.toNat ∧ (masked i = false ∨ (x.sreg 15).getLsbD l = true) then f l else x.vlane r l

/-- What a scalar instruction leaves: register dst holds `v`, unless it is s0, which reads zero and ignores writes; every
other scalar and everything else of the core is as it was, and the instruction counter moves on (R53). -/
def ScalarResult (i : Ins) (v : W32) (x y : CoreState) : Prop :=
  y = { x with sregs := y.sregs, pc := (x.pc + 1) % 512 } ∧
  ∀ r < 16, y.sreg r = if r = 0 then 0 else if r = i.dst.toNat then v else x.sreg r

/-- What a descriptor instruction leaves: register dst holds `v`, all else of the core is as it was. -/
def DescResult (i : Ins) (v : Desc) (x y : CoreState) : Prop :=
  y = { x with dregs := y.dregs, pc := (x.pc + 1) % 512 } ∧
  ∀ r < 32, y.dreg r = if r = i.dst.toNat then v else x.dreg r

/-- The program store's word at the core's instruction counter spells instruction `i` of a class, its operation bits [59:54]
aside, whose meaning within a class the manual withholds (R82, R84). -/
def Fetches (s : State) (c : CoreId) (cls : Nat) (i : Ins) : Prop :=
  bits (s.coreOf c).word.toNat 63 60 < 12 ∧ (s.coreOf c).word &&& ~~~ opBits = insWord cls i

/-- A core may issue instruction `i` of a class: it issues, the word at its instruction counter spells it, the fields that the
operation does not use are zero and its register codes lie in their spaces (R82, R83, R87). -/
def MayIssue (s : State) (c : CoreId) (cls : Nat) (i : Ins) (u : Use) (regs : Bool) : Prop :=
  s.hw.canIssue c.toNat = true ∧ Fetches s c cls i ∧ insClean i u = true ∧ regs = true

/-- Nothing that an asynchronous instruction of the core has still to write lies in these pieces of its SRAM (R85). -/
def Settled (s : State) (c : CoreId) (pieces : List (Nat × Nat)) : Prop := spansMeet (s.hw.owed c.toNat) pieces = false

/-- Distance of two places along the axes. -/
def placeGap (a b : Nat × Nat) : Nat := (max a.1 b.1 - min a.1 b.1) + (max a.2 b.2 - min a.2 b.2)

/-- The mailbox takes a command: the driver may write BAR0, a version is negotiated, no command is under way (R383, R384). -/
def MailboxReady (s : State) : Prop := s.hw.barOpen = true ∧ s.hw.mbx.state = .idle ∧ s.hw.mbx.version ≠ 0

/-- A command has been answered: the response stands in the buffer, the mailbox is IDLE, MBX_DONE is set (R381, R383). -/
def Answered (t : State) (opcode : Nat) (tag : W32) (r : Rsp) : Prop :=
  t.hw.mbx.state = .idle ∧ t.hw.mbx.done = true ∧ t.hw.mbx.long = none ∧ t.hw.mbx.rspBuf = r.bytes opcode tag ∧
  t.hw.evt.flags.getLsbD 40 = true

/-- What a touchmark unit keeps: a listed algorithm, a 32-bit algorithm's register in bits [31:0], a queue that waits for a
byte to be fed, an init bit that stands exactly while a queued write asks for it, no queued change to algorithm 3 (R399-R402). -/
def Tmk.sound (x : Tmk) : Prop :=
  x.alg ≠ 3 ∧ (x.alg = 2 ∨ x.value.toNat < 2 ^ 32) ∧
  (x.queue = [] ∨ ∃ b rest, x.queue = .byte b :: rest) ∧
  (x.init = true ↔ ∃ v, TmkIn.cfg v ∈ x.queue ∧ v.getLsbD 2 = true) ∧
  ∀ v, TmkIn.cfg v ∈ x.queue → bits v.toNat 1 0 ≠ 3

/-- Every touchmark unit of the module is sound, and there are 32 of them, each listed once in canonical form. -/
def State.tmksSound (s : State) : Prop :=
  nwf {} s.tmks = true ∧ (∀ e ∈ s.tmks, e.1 < 32) ∧ ∀ u, (s.tmk u).sound

end Sys2Proof.Machine
end

