-- ==== Sys2Proof/WellFormed.lean ====
section
/-!
DEFINITION. Well-formed commands: what the manual's own shapes require of the operands that their types do not already
bound. A command that is not well-formed stands for nothing that can reach the module.
-/
namespace Sys2Proof

/-- A core ID names a core: field below 48, block below 396 (R15). -/
def coreIdOk (c : CoreId) : Bool := decide (c.toNat / 2 ^ 15 < 48) && decide (c.toNat / 2 ^ 6 % 2 ^ 9 < 396)

/-- Widths that the bus of BAR0 carries (R5). -/
def widthOk (w : Nat) : Bool := [1, 2, 4, 8].contains w

/-- A value fits its width. -/
def valueOk (w : Nat) (v : W64) : Bool := widthOk w && decide (v.toNat < 2 ^ (8 * w))

/-- Parameters of a mailbox command (R381). -/
def paramsFit (p : List Byte) : Bool := decide (p.length ≤ 4080)

/-- Payload of a DATA frame, in 16 B units (R298). -/
def payloadOk (fr : DataFrame) : Bool := decide (fr.payload.length ≤ 256) && decide (fr.payload.length % 16 = 0)

/-- Payload of a Leash message (R301), and one of fewer bytes. -/
def messageOk (bs : List Byte) : Bool := decide (bs.length ≤ 4096)

/-- Size of a span request and the data of a store (R310). -/
def spanOk (m : SpanReqMsg) : Bool := decide (m.data.length ≤ 4096)

/-- An access through BAR4: 1 to 4,096 bytes inside the window (R373). -/
def windowOk (off : BitVec 36) (n : Nat) : Bool := decide (0 < n) && decide (n ≤ 4096) && decide (off.toNat + n ≤ 2 ^ 36)

/-- Fields of LOGITS that fill whole values (R146). -/
def logitsOk (m : LogitsMsg) : Bool := decide (m.values.length ≤ 2 ^ 14)

/-- The cores that a detection names (R15). -/
def detectionOk : Detection → Bool
  | .sramCrc c _ => coreIdOk c
  | .coreDead c _ => coreIdOk c
  | .flit _ _ _ _ _ _ _ => true
  | .memLine _ _ _ => true

/-- Every test report names two cores of the field under test (R408). -/
def reportsOk (f : FieldIx) (rs : List TestReport) : Bool := rs.all fun r =>
  coreIdOk r.tester && coreIdOk r.subject && decide (r.subject.toNat / 2 ^ 15 = f.val)

/-- Well-formed commands. -/
def Instr.wf : Instr → Bool
  | .powerGood | .flashMounted | .logsRecovered | .powerLoss | .functionLevelReset | .busMasterEnableChange _ => true
  | .fieldTestDone f _ _ _ scan reports march => scan.all coreIdOk && march.all coreIdOk && reportsOk f reports
  | .registerWrite _ w v => valueOk w v
  | .strokeBoundary | .beatBoundary _ | .beatCommit | .intake | .beatTaskTrigger | .stkCfgWrite _ => true
  | .admitBillet _ p | .retireBillet _ p | .version _ p | .epochCommit _ p | .epochDrop _ p | .logRead _ p | .selfTest _ p
  | .scrub _ p | .attest _ p | .fwUpdate _ p => paramsFit p
  | .loadBase _ _ _ | .loadAdapter _ _ _ _ | .dropAdapter _ _ _ | .loadWeightsEnd | .scrubComplete | .attestComplete
  | .fwUpdateComplete | .fwMinVersionRaise | .pldmFwUpdate _ | .mctpControl _ | .pace _ | .health | .ppsEdge _
  | .timeHoldover | .sync _ _ | .stretchSyncResend | .syncLost | .syncRestored | .resultRecord _ | .trailNotice _ _ _ _
  | .deferralNotice _ _ => true
  | .nop c _ | .br c _ | .brz c _ | .brnz c _ | .wait c _ | .endTask c _ | .li c _ | .csrr c _ | .csrw c _ | .setf c _
  | .addb c _ | .ldd c _ | .std c _ | .mma c _ | .clr c _ | .drain c _ | .load c _ | .tov c _ | .vecAdd c _ | .vecMul c _
  | .vecFma c _ | .vecMin c _ | .vecMax c _ | .vecSelect c _ | .hsum c _ | .hmax c _ | .exp c _ | .rcp c _ | .rsq c _
  | .vld c _ | .vst c _ | .cvt c _ | .send c _ | .chan c _ | .bld c _ | .bst c _ | .spn c _ | .trig c _ => coreIdOk c
  | .scalarAlu c _ _ | .vecCompare c _ _ | .vportTransferComplete c _ => coreIdOk c
  | .set c _ _ _ => coreIdOk c
  | .mmaComplete c | .accComplete c | .coreMessageArrival c | .heartbeat c | .flagStoreRelease c | .coreLoss c => coreIdOk c
  | .missedHeartbeats a b | .boundaryHeartbeatMiss a b => coreIdOk a && coreIdOk b
  | .lineReread _ _ _ _ | .fabricMessageHop _ _ | .arbDecision _ _ _ | .arbStarve _ _ _ _ | .arbWatchdog _ _ _
  | .slotTableCommit _ | .fldArbSlotAccess _ _ | .tstUnlock _ | .tstInjArm _ | .tstCredExpire | .routeSwitch => true
  | .logits _ m => logitsOk m
  | .tokenSettle _ _ | .layerClose _ _ | .sortComplete _ | .sortAbort _ | .biasCommit _ _ => true
  | .flag _ _ mask vs => decide (vs.length = ((List.range 16).filter fun i => mask.getLsbD i).length)
  | .sortJob _ c _ => coreIdOk c
  | .kvOpen _ _ | .kvEdit _ _ | .kvCommit _ _ | .kvAbandon _ _ | .kvPreempt _ _ | .kvResume _ _ | .kvClose _ _ | .kvPrio _ _ _
  | .commitPrepared _ | .shadowSyncDone _ | .lookup _ _ | .insert _ _ | .prefixOpComplete | .redStepOpen _ | .redStepClose _
  | .lscaleWrite _ => true
  | .grad _ m => decide (m.values.length ≤ 2040)
  | .contrib _ m | .result _ m => decide (m.values.length ≤ 1016)
  | .shardReduced _ _ | .resultWriteAck _ _ | .completionPost _ | .redEngAbort _ _ => true
  | .session _ _ _ _ _ d | .chunk _ _ _ _ _ d | .bcastData _ _ _ _ d => messageOk d
  | .fillTimeout _ | .streamErr _ _ _ | .gradAck _ _ | .prefetch _ _ | .move _ _ | .evict _ _ | .clone _ _ | .release _ _
  | .place _ _ | .moveCopyDone _ _ | .flashUncorrectable _ | .linkEnable _ | .linkDisable _ | .linkRetire _
  | .linkRetireCancel _ | .linkLock _ | .trainingTimeout _ | .hello _ _ | .lossOfLock _ | .fecUncorrectable _ _
  | .retrainTimeout _ | .downRetry _ => true
  | .dataFrame _ fr => payloadOk fr
  | .nakFrame _ _ _ | .idleFrame _ _ | .ackTimer _ | .replayTimeout _ => true
  | .spanReq _ m => spanOk m
  | .spanRsp _ _ _ d _ => messageOk d
  | .sweep _ _ _ | .spanTimeout _ _ => true
  | .act _ m | .attn _ m _ => messageOk m.payload
  | .event _ _ e => decide (e.length = 64)
  | .sqDoorbell _ _ | .cqDoorbell _ _ | .sqEntryTake _ | .qpcCfgWrite _ _ | .tableCommit _ | .tableLoadDone | .bcastAck _ _ _
  | .bcastReport _ _ _ | .treeChildLost _ _ => true
  | .faultReport d => detectionOk d
  | .wardenAck _ | .beatReplay | .wardenStatus _ | .wardenLinkLoss _ | .gwekuWatchdog | .gwekuRestartDone | .refetchTimeout _
  | .logCopy _ | .spillRefill _ | .fltRingTailWrite _ | .fltTrailTailWrite _ => true
  | .telemetryRecord bs => decide (bs.length = 64)
  | .hearthTick ps => decide (ps.length = 48)
  | .thermalStepExit | .deepParkTimer _ | .parkWithdraw _ | .thmPark _ _ | .thmDeepPark _ _ | .thmUnpark _ _ | .rampComplete _
  | .thmCfgWrite _ => true
  | .sensorSample rs => decide (rs.length = 384)
  | .sensorSuspect _ _ | .coolantSample _ _ _ | .coolantTelemetry => true
  | .flowStop _ | .junctionBackstop | .pwrShed _ | .shedRecord | .retentionTimeout | .flowReturn | .tmkCfgWrite _ _ => true
  | .tmkDataWrite _ w v => valueOk w v
  | .tmkValueWrite _ _ | .tmkStatusWrite _ _ | .resultWindowRead _ _ => true
  | .bar4Read off n => windowOk off n
  | .bar4Write off d => windowOk off d.length
  | .fieldClockLoss _ | .badOpcode _ _ | .closeDone _ | .treeArmed _ => true

end Sys2Proof
end

