-- ==== Sys2Proof/Certificates/Slice0/Obligations.lean ====
section
/-!
DEFINITION. The statements for the provers.
-/
open Sys2Proof Sys2Proof.Machine

/-! ## Cores -/

/-- NOP does nothing but move on, BR branches, BRZ and BRNZ branch on the scalar src_a, and WAIT passes once every token it
names has count 0 and leaves the core where it is until then. A core that may not issue (not mapped, its field FAULTED,
gated, stopped, dead, running no task, held by a recovery, or with no billet's work under way) does nothing on any of its
instructions. One that may, and whose program store holds a word of a reserved class, or a word that sets a field which its
operation does not use, stops with an uncontained fault; a fetch that does not give the stored word is a check error: the
core stops and signals it (R56, R83-R85, R87). -/
def Obligations.CoreControl : Prop :=
  (∀ (s : State) (c : CoreId) (i : Ins),
  let x := s.coreOf c
  let on := (x.pc + 1) % 512
  (MayIssue s c 0 i {} true → exec (.nop c i) s = .next (s.coreTo c { x with pc := on })) ∧
  (MayIssue s c 0 i { imm := 0x1FF } true → exec (.br c i) s = .next (s.coreTo c { x with pc := i.imm.toNat % 512 })) ∧
  (MayIssue s c 0 i { srcA := true, imm := 0x1FF } (isS i.srcA) →
    exec (.brz c i) s = .next (s.coreTo c { x with pc := if x.sreg i.srcA.toNat = 0 then i.imm.toNat % 512 else on }) ∧
    exec (.brnz c i) s = .next (s.coreTo c { x with pc := if x.sreg i.srcA.toNat = 0 then on else i.imm.toNat % 512 })) ∧
  (MayIssue s c 0 i { imm := 0xFE } true →
    ((∀ t, 0 < t → t < 8 → i.imm.getLsbD t = true → nget 0 x.toks t = 0) →
      exec (.wait c i) s = .next (s.coreTo c { x with pc := on })) ∧
    ((∃ t, 0 < t ∧ t < 8 ∧ i.imm.getLsbD t = true ∧ nget 0 x.toks t ≠ 0) → exec (.wait c i) s = .next s))) ∧
  (∀ (s : State) (c : CoreId) (i : Ins),
  (s.hw.canIssue c.toNat = false →
    ∀ k ∈ [Instr.nop c i, .br c i, .brz c i, .brnz c i, .wait c i, .endTask c i, .li c i, .csrr c i, .csrw c i, .setf c i, .addb c i,
      .ldd c i, .std c i, .mma c i, .clr c i, .drain c i, .load c i, .tov c i, .vecAdd c i, .hsum c i, .exp c i, .vld c i, .vst c i,
      .cvt c i, .send c i, .chan c i, .bld c i, .bst c i, .spn c i, .trig c i], exec k s = .next s) ∧
  (s.hw.canIssue c.toNat = true →
    let stops (k : Instr) := ∃ t, exec k s = .next t ∧ (t.coreOf c).stopped = true ∧ (t.coreOf c).pc = (s.coreOf c).pc ∧
      t.hw.flt.uncontained = true ∧ t.hw.flt.stopAll = true ∧ t.hw.evt.flags.getLsbD 32 = true
    (bits (s.coreOf c).word.toNat 63 60 ≥ 12 → stops (.nop c i)) ∧
    (Fetches s c 0 i → insClean i {} = false → stops (.nop c i)) ∧
    (bits (s.coreOf c).word.toNat 63 60 < 12 → (s.coreOf c).word &&& ~~~ opBits ≠ insWord 0 i →
      exec (.nop c i) s = .next (s.coreTo c (s.coreOf c).crcError))))

/-- END closes the running task: with a pending count the task is ready again and the count is one less; then the ready task
that comes first runs from its entry. TRIG makes a valid software task ready, or adds one to the pending count of one that
is ready or runs; the core that runs a task goes on with it. Of two ready tasks the one of higher priority comes first, of
equal priority the one triggered earlier, of one cycle the one of lower index (R74, R75). -/
def Obligations.CoreTasks : Prop := ∀ (s : State) (c : CoreId) (i : Ins) (t : Nat),
  let x := s.coreOf c
  x.running = some t →
  (MayIssue s c 0 i {} true → nget 0 x.taskPend t = 0 →
    (x.ready = [] → exec (.endTask c i) s = .next (s.coreTo c { x with running := none })) ∧
    (∀ r, x.ready = [r] → exec (.endTask c i) s = .next (s.coreTo c { x with
      running := some r.task, pc := taskEntry (x.task r.task), ready := [] })) ∧
    (∀ a b, x.ready = [a, b] → a.task ≠ b.task → x.before b a = true → exec (.endTask c i) s = .next (s.coreTo c { x with
      running := some b.task, pc := taskEntry (x.task b.task), ready := [a] }))) ∧
  (MayIssue s c 0 i {} true → nget 0 x.taskPend t > 0 → x.ready = [] →
    exec (.endTask c i) s = .next (s.coreTo c { x with
      running := some t, pc := taskEntry (x.task t), taskPend := nput 0 x.taskPend t (nget 0 x.taskPend t - 1), ready := [] })) ∧
  (MayIssue s c 11 i { imm := 0x1F } true → taskValid (x.task i.imm.toNat) = true → taskKind (x.task i.imm.toNat) = 2 →
    (t ≠ i.imm.toNat → (∀ r ∈ x.ready, r.task ≠ i.imm.toNat) →
      ∃ u, exec (.trig c i) s = .next u ∧ s.CoreGoes c { x with
        pc := (x.pc + 1) % 512, ready := x.ready ++ [{ task := i.imm.toNat, cycle := s.hw.now }] } u) ∧
    (t = i.imm.toNat → nget 0 x.taskPend t < 15 →
      ∃ u, exec (.trig c i) s = .next u ∧ s.CoreGoes c { x with
        pc := (x.pc + 1) % 512, taskPend := nput 0 x.taskPend t (nget 0 x.taskPend t + 1) } u)) ∧
  ∀ a b : Ready, a.task ≠ b.task →
    (x.before a b = true ↔ ¬ x.before b a = true) ∧
    (taskPrio (x.task a.task) > taskPrio (x.task b.task) → x.before a b = true) ∧
    (taskPrio (x.task a.task) = taskPrio (x.task b.task) → a.cycle < b.cycle → x.before a b = true) ∧
    (taskPrio (x.task a.task) = taskPrio (x.task b.task) → a.cycle = b.cycle → a.task < b.task → x.before a b = true)

/-- The scalar operations, LI, CSRR and CSRW: the result in the scalar dst, s0 excepted, and every other scalar unchanged;
CSRW of SR_SEED reseeds the generator and writes no register. The descriptor operations: SET and SETF put one field of the
descriptor dst, ADDB adds to its base modulo 2^16, LDD takes the whole descriptor from 16 bytes of the SRAM and STD stores
one there; nothing else of the core changes (R53, R57, R61, R84, R86). -/
def Obligations.CoreScalarsAndDescriptors : Prop :=
  (∀ (s : State) (c : CoreId) (i : Ins),
  let x := s.coreOf c
  (∀ op, MayIssue s c 1 i { dst := true, srcA := true, srcB := true } (isS i.dst && isS i.srcA && isS i.srcB) →
    ∃ y, exec (.scalarAlu c op i) s = .next (s.coreTo c y) ∧
      ScalarResult i (aluResult op (x.sreg i.srcA.toNat) (x.sreg i.srcB.toNat)) x y) ∧
  (MayIssue s c 1 i { dst := true, imm := 0xFFFFFFFF } (isS i.dst) →
    (∃ y, exec (.li c i) s = .next (s.coreTo c y) ∧ ScalarResult i i.imm x y) ∧
    (i.imm.toNat ≤ 5 → ∃ y, exec (.csrr c i) s = .next (s.coreTo c y) ∧
      ScalarResult i (s.hw.controlWord c.toNat i.imm.toNat) x y)) ∧
  (MayIssue s c 1 i { srcA := true, imm := 0xFFFFFFFF } (isS i.srcA) → i.imm = 3 →
    exec (.csrw c i) s = .next (s.coreTo c { x with
      srSeed := x.sreg i.srcA.toNat, srState := srSeedState (x.sreg i.srcA.toNat), pc := (x.pc + 1) % 512 }))) ∧
  (∀ (s : State) (c : CoreId) (i : Ins),
  let x := s.coreOf c
  let d := x.dreg i.dst.toNat
  (∀ fld, MayIssue s c 2 i { dst := true, imm := 0xFFFFFFFF } true →
    ∃ y, exec (.set c fld false i) s = .next (s.coreTo c y) ∧
      DescResult i (dPut d (fieldPlace fld).1 (fieldPlace fld).2 i.imm.toNat) x y) ∧
  (∀ fld, MayIssue s c 2 i { dst := true, srcA := true } (isS i.srcA) →
    ∃ y, exec (.set c fld true i) s = .next (s.coreTo c y) ∧
      DescResult i (dPut d (fieldPlace fld).1 (fieldPlace fld).2 (x.sreg i.srcA.toNat).toNat) x y) ∧
  (MayIssue s c 2 i { dst := true, imm := 0x1F } true →
    ∃ y, exec (.setf c i) s = .next (s.coreTo c y) ∧ DescResult i (dPut d 96 5 i.imm.toNat) x y) ∧
  (MayIssue s c 2 i { dst := true, srcA := true, imm := 0xFFFFFFFF } (isS i.srcA) →
    (∃ y, exec (.addb c i) s = .next (s.coreTo c y) ∧
      DescResult i (dPut d 0 16 (dBase d + (x.sreg i.srcA.toNat).toNat + i.imm.toNat)) x y) ∧
    (s.hw.tst.injArm = false → (x.sreg i.srcA.toNat + i.imm).toNat + 16 ≤ sramSize →
      Settled s c [((x.sreg i.srcA.toNat + i.imm).toNat, 16)] →
      ∃ y, exec (.ldd c i) s = .next (s.coreTo c y) ∧
        DescResult i (BitVec.ofNat 128 (leNat (ngetList 0 x.sram (x.sreg i.srcA.toNat + i.imm).toNat 16))) x y)) ∧
  (MayIssue s c 2 i { srcA := true, srcB := true, imm := 0xFFFFFFFF } (isS i.srcB) →
    s.hw.tst.injArm = false → (x.sreg i.srcB.toNat + i.imm).toNat + 16 ≤ sramSize →
    ∃ y, exec (.std c i) s = .next (s.coreTo c y) ∧ y = { x with sram := y.sram, pc := (x.pc + 1) % 512 } ∧
      ∀ a, nget 0 y.sram a =
        if (x.sreg i.srcB.toNat + i.imm).toNat ≤ a ∧ a < (x.sreg i.srcB.toNat + i.imm).toNat + 16 then
          (leBytes 16 (x.dreg i.srcA.toNat).toNat).getD (a - (x.sreg i.srcB.toNat + i.imm).toNat) 0
        else nget 0 x.sram a))

/-! ## Anvil, accumulator, vector unit -/

/-- MMA captures its descriptors and joins the anvil queue of four, waits while that is full, and its completion writes the
region, frees its place and counts its token down; no other part of the core changes. The accumulator operations queue with
the region that their word names, and their completion acts: CLR puts +0, LOAD widens an FP32 matrix of the SRAM, TOV copies
sixteen values of a row to a vector register, DRAIN writes the converted region to the SRAM and leaves the accumulator as it
was, with stochastic rounding row by row under one draw each; a gradient drains with stochastic rounding where the backward
section asks for it (R62, R64, R66, R67, R85, R110, R212). -/
def Obligations.AnvilAndAccumulator : Prop :=
  (∀ (s : State) (c : CoreId) (i : Ins),
  let x := s.coreOf c
  let o := mmaOf x i
  (MayIssue s c 3 i { tok := true, srcA := true, srcB := true, mod := 0xE, imm := 0xFFFFFFFF } true → bits x.word.toNat 59 54 = 0 → mmaError x o = none →
    (x.anvil.length < 4 → x.tokFull o.tok = false → x.accMeets o.ro o.co o.m o.n = false →
      exec (.mma c i) s = .next (s.coreTo c { x with
        anvil := x.anvil ++ [o]
        toks := if o.tok = 0 then x.toks else nput 0 x.toks o.tok (nget 0 x.toks o.tok + 1)
        pc := (x.pc + 1) % 512 })) ∧
    (x.anvil.length ≥ 4 → exec (.mma c i) s = .next s)) ∧
  (∀ q rest, x.anvil = q :: rest → x.dead = false → s.hw.tst.injArm = false → q.ro + q.m ≤ 32 → q.co + q.n ≤ 32 →
    ∃ y, exec (.mmaComplete c) s = .next (s.coreTo c y) ∧
      y = { x with acc := y.acc, transpose := y.transpose, anvil := rest, toks := y.toks } ∧
      (∀ row col, row < 32 → col < 32 → y.accAt row col =
        if q.ro ≤ row ∧ row < q.ro + q.m ∧ q.co ≤ col ∧ col < q.co + q.n then
          mmaCell x.sram q (if q.acc then x.accAt row col else 0) (row - q.ro) (col - q.co)
        else x.accAt row col) ∧
      ∀ t, nget 0 y.toks t = if t ≠ 0 ∧ t = q.tok then nget 0 x.toks t - 1 else nget 0 x.toks t)) ∧
  (∀ (s : State) (c : CoreId) (i : Ins),
  let x := s.coreOf c
  let queued (o : AccOp) (r : Out) := o.ro + o.m ≤ 32 → o.co + o.n ≤ 32 → x.mmaMeets o.ro o.co o.m o.n = false →
    x.tokFull o.tok = false → r = .next (s.coreTo c { x with
      accQ := x.accQ ++ [o]
      toks := if o.tok = 0 then x.toks else nput 0 x.toks o.tok (nget 0 x.toks o.tok + 1)
      pc := (x.pc + 1) % 512 })
  (MayIssue s c 4 i { tok := true, imm := 0xFFFFF } true → queued (accRegion i .clr 0) (exec (.clr c i) s)) ∧
  (let d := x.dreg i.dst.toNat
   let o := accRegion i (.drain (i.mod.getLsbD 0 || s.hw.stochasticGrad c.toNat (dFmt d))) d
   MayIssue s c 4 i { tok := true, dst := true, mod := 0x1, imm := 0xFFFFF } true → dValid d = true → dAligned d = true →
    dFmt d ≤ 4 → dInSram d o.m o.n = true → queued o (exec (.drain c i) s)) ∧
  (let d := x.dreg i.srcA.toNat
   let o := accRegion i .load d
   MayIssue s c 4 i { tok := true, srcA := true, imm := 0xFFFFF } true → dValid d = true → dFmt d = 0 →
    dInSram d o.m o.n = true → queued o (exec (.load c i) s)) ∧
  (MayIssue s c 4 i { tok := true, dst := true, imm := 0x3FF } (isS i.dst) →
    queued { accRegion i .tov 0 with m := 1, n := 16, reg := i.dst.toNat } (exec (.tov c i) s)) ∧
  (∀ o rest, x.accQ = o :: rest → x.dead = false → s.hw.tst.injArm = false →
    ∃ y, exec (.accComplete c) s = .next (s.coreTo c y) ∧ y.accQ = rest ∧ y.pc = x.pc ∧ y.sregs = x.sregs ∧
      (∀ t, nget 0 y.toks t = if t ≠ 0 ∧ t = o.tok then nget 0 x.toks t - 1 else nget 0 x.toks t) ∧
      (o.kind = .clr → y.sram = x.sram ∧ y.vregs = x.vregs ∧ ∀ r < o.m, ∀ k < o.n, o.co + o.n ≤ 32 →
        y.accAt (o.ro + r) (o.co + k) = 0) ∧
      (o.kind = .load → y.sram = x.sram ∧ y.vregs = x.vregs ∧ ∀ r < o.m, ∀ k < o.n, o.co + o.n ≤ 32 →
        y.accAt (o.ro + r) (o.co + k) = f32of (elemVal x.sram o.desc r k)) ∧
      (o.kind = .tov → y.sram = x.sram ∧ y.acc = x.acc ∧ ∀ r < 16, ∀ l < 16,
        y.vlane r l = if r = o.reg then x.accAt o.ro (o.co + l) else x.vlane r l) ∧
      (o.kind = .drain false → y.acc = x.acc ∧ y.vregs = x.vregs ∧ y.srState = x.srState ∧
        y.sram = (regionCells o.m o.n).foldl (fun m p => elemPut m o.desc p.1 p.2
          (narrowCode (dFmt o.desc) .rne (x.accAt (o.ro + p.1) (o.co + p.2)))) x.sram) ∧
      (o.kind = .drain true → y.acc = x.acc ∧ y.vregs = x.vregs ∧
        let z := roundings true (o.m * o.n) x.srState
        y.srState = z.2 ∧ y.sram = ((regionCells o.m o.n).zip z.1).foldl (fun m e => elemPut m o.desc e.1.1 e.1.2
          (narrowCode (dFmt o.desc) e.2 (x.accAt (o.ro + e.1.1) (o.co + e.1.2)))) x.sram)))

/-- The lane-wise vector operations: sum, product, fused multiply-add into the destination, minimum, maximum, the special
functions and select put their value into the admitted lanes of dst and change nothing else. HSUM and HMAX put the reduction
of the sixteen lanes in the fixed pair order into lane 0 of dst alone, and a compare puts its lane mask into the scalar dst.
Under the masked bit s15 bit 0 admits lane 0 of a reduction, and the mask bits of lanes that s15 excludes stay: these are
the model's choices, log 190 and 191 (R70-R72, R100-R102). -/
def Obligations.VectorArithmetic : Prop :=
  (∀ (s : State) (c : CoreId) (i : Ins),
  let x := s.coreOf c
  let a (l : Nat) := x.vlane i.srcA.toNat l
  let b (l : Nat) := x.vlane i.srcB.toNat l
  let goes (k : Instr) (f : Nat → W32) := ∃ y, exec k s = .next (s.coreTo c y) ∧ VecResult i f x y
  let free (rs : List (BitVec 5)) : Prop := ∀ r ∈ rs, x.owesV r.toNat = false
  (MayIssue s c 5 i useVec (isS i.dst) → free [i.dst, i.srcA, i.srcB] →
    goes (.vecAdd c i) (fun l => fadd (a l) (b l)) ∧ goes (.vecMul c i) (fun l => fmul (a l) (b l)) ∧
    goes (.vecFma c i) (fun l => ffma (a l) (b l) (x.vlane i.dst.toNat l)) ∧
    goes (.vecMin c i) (fun l => fmin (a l) (b l)) ∧ goes (.vecMax c i) (fun l => fmax (a l) (b l))) ∧
  (MayIssue s c 6 i useVec1 (isS i.dst) → free [i.dst, i.srcA] →
    goes (.exp c i) (fun l => expF32 0 (a l)) ∧ goes (.rcp c i) (fun l => rcpF32 (a l)) ∧
    goes (.rsq c i) (fun l => rsqF32 (a l))) ∧
  (MayIssue s c 5 i { useVec with imm := 0xF } (isS i.dst) → free [i.dst, i.srcA, i.srcB] →
    goes (.vecSelect c i) (fun l => canonF32 (if (x.sreg i.imm.toNat).getLsbD l then a l else b l)))) ∧
  (∀ (s : State) (c : CoreId) (i : Ins),
  let x := s.coreOf c
  let a (l : Nat) := x.vlane i.srcA.toNat l
  let into0 (k : Instr) (v : W32) := ∃ y, exec k s = .next (s.coreTo c y) ∧
    y = { x with vregs := y.vregs, pc := (x.pc + 1) % 512 } ∧
    ∀ r < 16, ∀ l < 16, y.vlane r l = if r = i.dst.toNat ∧ l = 0 then v else x.vlane r l
  let free (rs : List (BitVec 5)) : Prop := ∀ r ∈ rs, x.owesV r.toNat = false
  (MayIssue s c 5 i useVec1 (isS i.dst) → free [i.dst, i.srcA] → (masked i = false ∨ (x.sreg 15).getLsbD 0 = true) →
    into0 (.hsum c i) (pairTree fadd a) ∧ into0 (.hmax c i) (pairTree fmax a)) ∧
  (MayIssue s c 5 i useVec1 (isS i.dst) → free [i.dst, i.srcA] → masked i = true → (x.sreg 15).getLsbD 0 = false →
    exec (.hsum c i) s = .next (s.coreTo c { x with pc := (x.pc + 1) % 512 })) ∧
  (MayIssue s c 5 i useVec (isS i.dst) → free [i.srcA, i.srcB] →
    ∀ op, ∃ y, exec (.vecCompare c op i) s = .next (s.coreTo c y) ∧
      ScalarResult i (laneMask fun l => if masked i = true ∧ (x.sreg 15).getLsbD l = false then (x.sreg i.dst.toNat).getLsbD l
        else compareLane op (a l) (x.vlane i.srcB.toNat l)) x y))

/-- VLD widens sixteen elements into the admitted lanes of dst; VST stores FP32 lanes as the elements of an FP32 descriptor,
CVT their conversions lane by lane, or of 32 lanes the block with its scale, and neither changes a register but for the
rounding generator of a stochastic CVT (R70, R103, R105-R107, R110). -/
def Obligations.VectorMemory : Prop := ∀ (s : State) (c : CoreId) (i : Ins),
  let x := s.coreOf c
  let rc := x.sreg i.srcB.toNat
  let free (r : Nat) : Prop := x.owesV r = false
  s.hw.tst.injArm = false →
  (let d := x.dreg i.srcA.toNat
   MayIssue s c 7 i useVec (isS i.dst && isS i.srcB) → free i.dst.toNat → dValid d = true → isMx (dFmt d) = false → isLq4 (dFmt d) = false →
    lineInSram d rc 16 = true → Settled s c (lineSpans d rc 16) →
    ∃ y, exec (.vld c i) s = .next (s.coreTo c y) ∧
      VecResult i (fun l => f32of (elemVal x.sram d (alongAxis d rc l).1 (alongAxis d rc l).2)) x y) ∧
  (let d := x.dreg i.dst.toNat
   (MayIssue s c 7 i useVec (isS i.srcB) → free i.srcA.toNat → dValid d = true → dFmt d = 0 → lineInSram d rc 16 = true →
    exec (.vst c i) s = .next (s.coreTo c { x with
      sram := putLanes x d rc (masked i) ((List.range 16).map fun l => (x.vlane i.srcA.toNat l).toNat)
      pc := (x.pc + 1) % 512 })) ∧
   (MayIssue s c 8 i { useVec with mod := 0x9 } (isS i.srcB) → free i.srcA.toNat → dValid d = true → lineInSram d rc 16 = true →
    isMx (dFmt d) = false → isLq4 (dFmt d) = false →
    let z := roundings (i.mod.getLsbD 0) 16 x.srState
    exec (.cvt c i) s = .next (s.coreTo c { x with
      sram := putLanes x d rc (masked i) (((List.range 16).zip z.1).map fun e => narrowCode (dFmt d) e.2 (x.vlane i.srcA.toNat e.1))
      srState := z.2
      pc := (x.pc + 1) % 512 })) ∧
   (let p := alongAxis d rc 0
    let pos := posOf d p.1 p.2
    let line := lineOf d p.1 p.2
    MayIssue s c 8 i { useVec with mod := 0x9 } (isS i.srcB) → free i.srcA.toNat → free (i.srcA.toNat + 1) → dValid d = true →
    lineInSram d rc 32 = true → isMx (dFmt d) = true ∨ isLq4 (dFmt d) = true → masked i = false → i.srcA.toNat % 2 = 0 →
    pos % 32 = 0 → scaleAddr d line pos < sramSize →
    (isLq4 (dFmt d) = true → Settled s c [(bookAddr d line pos, 16)] ∧
      (codebook x d line pos).any (fun v => v.isFinite && !v.isZero) = true) →
    exec (.cvt c i) s = .next (s.coreTo c { blockCvt x d rc i.srcA.toNat (i.mod.getLsbD 0) with pc := (x.pc + 1) % 512 })))

/-! ## Fabric, vertical ports, span engines of cores -/

/-- SEND puts one message with the bytes that its descriptor names before the fabric, on the route entry's destination, all
of it still at its source, and its token counts until the injection; CHAN binds a receive channel to its region with the
write pointer at the start; nothing else changes. A core takes the first message that has arrived for it: the payload at its
channel's write pointer, the pointer and the count moved on, the message out of the fabric; where the count reaches that of
an arrival task, the task is triggered, starts on an idle core, and the count is 0 again. A poisoned message writes and
counts nothing; one that does not fit stops the core (R74, R75, R77, R78, R85, R87, R118, R120, R122). -/
def Obligations.CoreMessages : Prop :=
  (∀ (s : State) (c : CoreId) (i : Ins),
  let x := s.coreOf c
  let d := x.dreg i.srcA.toNat
  let w := (nget 0 x.routes (i.imm.toNat % 256)).toNat
  (MayIssue s c 9 i { tok := true, srcA := true, mod := 1, imm := 0xFFFF } true → dValid d = true →
    dInSram d (dRows d) (dCols d) = true → dRows d * rowBytes d ≤ 4096 → x.tokFull i.tok.toNat = false →
    s.hw.tst.injArm = false → bit w 26 = false →
    ∀ dest ep, routeDest c.toNat w = some (dest, ep) →
      ∃ m, exec (.send c i) s = .next { s with hw := { s.hw.setCore c.toNat { x with
            toks := if i.tok.toNat = 0 then x.toks else nput 0 x.toks i.tok.toNat (nget 0 x.toks i.tok.toNat + 1)
            pc := (x.pc + 1) % 512 } with
          fabric := s.hw.fabric ++ [m] } } ∧
        m.dest = dest ∧ m.destEndpoint = ep ∧ m.source = c.toNat ∧ m.sourceEndpoint = false ∧ m.payload = descBytes x.sram d ∧
        m.channel = bits i.imm.toNat 11 8 ∧ m.waypoint = (if bit w 28 then some (bits w 43 29) else none) ∧ m.yFirst = bit w 27 ∧
        m.arrived = false ∧ m.express = false ∧ m.bufs = [] ∧ m.waiting = 1 + (m.payload.length + 15) / 16 ∧
        m.tok = i.tok.toNat ∧ m.beat = s.hw.stk.beat) ∧
  (MayIssue s c 9 i { srcA := true, srcB := true, imm := 0xF } (isS i.srcA && isS i.srcB) →
    (x.sreg i.srcA.toNat).toNat + (x.sreg i.srcB.toNat).toNat ≤ sramSize →
    exec (.chan c i) s = .next (s.coreTo c { x with
      chans := nput {} x.chans i.imm.toNat
        { bound := true, start := (x.sreg i.srcA.toNat).toNat, len := (x.sreg i.srcB.toNat).toNat }
      pc := (x.pc + 1) % 512 }))) ∧
  (∀ (s : State) (c : CoreId) (n : Nat) (m : FMsg),
  let x := s.coreOf c
  let ch := nget {} x.chans m.channel
  let without : State := { s with hw := { s.hw with fabric := s.hw.fabric.eraseIdx n } }
  let taken (count : Nat) : CoreState := { x with
    sram := nputList 0 x.sram (ch.start + ch.wp) m.payload
    chans := nput {} x.chans m.channel { ch with wp := ch.wp + m.payload.length, count := count } }
  s.hw.arrivedFor c.toNat = some n → s.hw.fabric[n]? = some m → x.dead = false → x.gated = false → x.mapped = true →
  s.hw.tst.injArm = false →
  (m.poisoned = false → ch.bound = true → ch.wp + m.payload.length ≤ ch.len → ch.start + ch.wp + m.payload.length ≤ sramSize →
    (x.arrivalTasks m.channel (ch.count + 1) = [] → (x.running.isSome = true ∨ x.ready = []) →
      ∃ u, exec (.coreMessageArrival c) s = .next u ∧ without.CoreGoes c (taken (ch.count + 1)) u) ∧
    (∀ k, x.arrivalTasks m.channel (ch.count + 1) = [k] → x.running = none → x.ready = [] →
      ∃ u, exec (.coreMessageArrival c) s = .next u ∧
        without.CoreGoes c { taken 0 with running := some k, pc := taskEntry (x.task k) } u)) ∧
  (m.poisoned = true → exec (.coreMessageArrival c) s = .next without) ∧
  (m.poisoned = false → ch.bound = false ∨ ch.wp + m.payload.length > ch.len →
    ∃ t, exec (.coreMessageArrival c) s = .next t ∧ (t.coreOf c).stopped = true ∧ (t.coreOf c).sram = x.sram ∧
      t.hw.flt.uncontained = true))

/-- A router forwards a message that stands in one of its buffers, as far as the next router has credits: its flits stand
there, in the buffer of its port and phase, and its head may go on after the hop's latency; no other message moves. A body
flit whose check fails poisons the message and sets FAB_CRC, and the message goes on; a head flit that fails is absorbed
with all that follows it. At its destination a core's message leaves the fabric and waits for the core (R114, R119-R121,
R125). -/
def Obligations.FabricHop : Prop := ∀ (s : State) (n : Nat) (m : FMsg) (b t : FBuf),
  let out := s.hw.fabric.eraseIdx n
  let next : FMsg := { m with bufs := [{ t with flits := b.flits }], ready := s.hw.now + m.latency }
  s.hw.fabric[n]? = some m → m.arrived = false → m.absorbed = false → m.poisoned = false → m.waiting = 0 → m.bufs = [b] →
  0 < b.flits → m.ejected + b.flits = m.size → m.ready ≤ s.hw.now → s.hw.isBehind n m b = false → s.hw.tst.injArm = false →
  (m.nextBuf b = some t → s.hw.mayEnter n m t = true → b.flits ≤ s.hw.credits out m t →
    exec (.fabricMessageHop n FlitNoise.none) s = .next { s with hw := { s.hw with fabric := out ++ [next] } } ∧
    (∀ z : FlitNoise, m.ejected ≤ z.flit → z.flit < m.size → z.data = 0 → z.crc ≠ 0 →
      ∃ u, exec (.fabricMessageHop n z) s = .next u ∧ u.hw.evt.flags.getLsbD 5 = true ∧ u.hw.mem = s.hw.mem ∧
        u.hw.cores = s.hw.cores ∧
        u.hw.fabric = if z.flit = 0 then out else out ++ [{ next with poisoned := true }])) ∧
  (m.nextBuf b = none → m.destEndpoint = false →
    exec (.fabricMessageHop n FlitNoise.none) s = .next { s with hw := { s.hw with
      fabric := out ++ [{ m with ejected := m.size, arrived := true, bufs := [] }] } })

/-- Every hop brings a message's head one place nearer to the target of its phase, along its dimension order, and there is
none from the target itself, so that it arrives after as many hops as the places lie apart; the phase turns from 0 to 1 at
the waypoint and never back (R121). -/
def Obligations.FabricHopNearer : Prop := ∀ (m : FMsg) (b : FBuf),
  let goal := (m.aim b).1
  (m.nextBuf b = none ↔ (b.x, b.y) = goal) ∧
  ∀ t, m.nextBuf b = some t →
    placeGap (t.x, t.y) goal + 1 = placeGap (b.x, b.y) goal ∧
    (m.yFirst = false → b.x ≠ goal.1 → t.y = b.y) ∧ (m.yFirst = true → b.y ≠ goal.2 → t.x = b.x) ∧
    t.phase = (m.aim b).2 ∧ (b.phase = 1 → t.phase = 1) ∧ t.port < 4

/-- BLD and BST join the core's port queue with the descriptor and the line that their operands name and raise the block's
vertical port request. The transfer at the head of a core's port queue ends once the arbiter has had its lines moved: a load
puts the lines' bytes into the SRAM of that core, a store puts one line's bytes into bonded memory, and every byte of memory
outside the lines stored to is as it was; a line is loaded as the port reads it where its check passes (a line that nothing
strikes gives its bytes), and one that fails it in a committed beat is read again and then gives its data. A transfer past
its region's last line goes on at the first, the model's choice, log 193 (R84, R85, R131, R323, R326). -/
def Obligations.BondedMemoryAccess : Prop :=
  (∀ (s : State) (c : CoreId) (i : Ins),
  let x := s.coreOf c
  let d := x.dreg i.srcA.toNat
  let v := x.sreg i.srcB.toNat
  MayIssue s c 10 i { tok := true, srcA := true, srcB := true } (isS i.srcB) → dValid d = true →
  dInSram d (dRows d) (dCols d) = true → x.tokFull i.tok.toNat = false →
  let issued (store : Bool) : CoreState := { x with
    portQ := x.portQ ++ [{
      store := store, desc := d, wafer := portWafer v, line := portLine v
      stroke := s.hw.curBeat.1, beat := s.hw.curBeat.2, reread := false, tok := i.tok.toNat }]
    toks := if i.tok.toNat = 0 then x.toks else nput 0 x.toks i.tok.toNat (nget 0 x.toks i.tok.toNat + 1)
    pc := (x.pc + 1) % 512 }
  let after (store : Bool) : State := { s with
    hw := (s.hw.setCore c.toNat (issued store)).arbRaise (coreField c.toNat) 0 (coreBlock c.toNat) (coreIndex c.toNat)
      (lineCount d) }
  exec (.bld c i) s = .next (after false) ∧ exec (.bst c i) s = .next (after true)) ∧
  (∀ (s : State) (c : CoreId) (o : PortOp) (rest : List PortOp)
    (line : BitVec 29) (z : LineNoise),
  let x := s.coreOf c
  let f := coreField c.toNat
  let w := b2n o.wafer
  let done : CoreState := { x with
    portQ := rest, portMoved := x.portMoved - lineCount o.desc
    toks := if o.tok = 0 then x.toks else nput 0 x.toks o.tok (nget 0 x.toks o.tok - 1) }
  let k : LineStrike := { line := line, noise := z }
  let seen := s.hw.lineSeen f w line.toNat z
  let ok := seen.2 || !o.takes o.wafer line.toNat
  let loaded (got : Nat → List Byte) : State := s.coreTo c { done with sram := putDescBytes x.sram o.desc (padTo (descLen o.desc)
    ((List.range (lineCount o.desc)).flatMap fun k => got (o.lineAt k))) }
  let struck (l : Nat) : List Byte := if l = line.toNat then seen.1 else s.hw.lineRead f w l
  x.portQ = o :: rest → s.hw.tst.injArm = false →
  (x.stopped = false → x.dead = false → o.reread = false → s.hw.portReady c.toNat o = true →
    (o.store = false → ok = true → exec (.vportTransferComplete c k) s = .next (loaded struck)) ∧
    (o.store = false → z = { data := 0, code := 0, address := 0 } →
      exec (.vportTransferComplete c k) s = .next (loaded (s.hw.lineRead f w))) ∧
    (o.store = true → ∃ t, exec (.vportTransferComplete c k) s = .next t ∧ t.coreOf c = done ∧
      (∀ a, (∀ k < lineCount o.desc, a < s.hw.bondedAt f w (o.lineAt k * 64) ∨
        s.hw.bondedAt f w (o.lineAt k * 64) + 64 ≤ a) → nget 0 t.hw.mem a = nget 0 s.hw.mem a) ∧
      (lineCount o.desc = 1 → s.hw.bondedAt f w (o.lineAt 0 * 64) < migBase →
        t.hw.mem = nputList 0 s.hw.mem (s.hw.bondedAt f w (o.lineAt 0 * 64)) ((descBytes x.sram o.desc).take 64))) ∧
    (o.store = false → ok = false → s.hw.uncommittedBeat (o.stroke, o.beat) = false →
      exec (.vportTransferComplete c k) s = .next (s.coreTo c { x with portQ := { o with reread := true } :: rest }))) ∧
  (∀ (fx : FieldIx), o.reread = true → s.hw.cores = [(c.toNat, x)] → fx.val = f → o.store = false →
    o.takes o.wafer line.toNat = true → seen.2 = true → s.hw.lineLost f w line.toNat = false →
    exec (.lineReread fx o.wafer line z) s = .next (loaded struck)))

/-- SPN hands its command block to the core's span engine in order, and a block that breaks a rule of R310 completes
BAD_REQUEST at once; a held FLAG store that need no longer wait leaves its engine, and one to this module's own memory is
written and completes (R309-R312, R315). -/
def Obligations.SpanIssue : Prop := ∀ (s : State) (c : CoreId) (i : Ins),
  let x := s.coreOf c
  let a := (x.sreg i.srcB.toNat).toNat
  let e := engineOf c.toNat
  let g := s.hw.spanEng e
  let r := parseBlock x c.toNat g.nextOrder i.tok.toNat a s.hw.stk.workStroke s.hw.stk.beat
  let on : CoreState := { x with
    toks := if i.tok.toNat = 0 then x.toks else nput 0 x.toks i.tok.toNat (nget 0 x.toks i.tok.toNat + 1)
    pc := (x.pc + 1) % 512 }
  (MayIssue s c 10 i { tok := true, srcB := true } (isS i.srcB) → a + 32 ≤ sramSize → x.tokFull i.tok.toNat = false →
    g.reqs.length + g.fences.length < 576 → s.hw.tst.injArm = false →
    (badRequest r.op r.address r.localAddr r.size = false →
      exec (.spn c i) s = .next { s with
        hw := (s.hw.setCore c.toNat on).setSpanEng e { g with reqs := g.reqs ++ [r], nextOrder := g.nextOrder + 1 } }) ∧
    (badRequest r.op r.address r.localAddr r.size = true →
      ∃ u, exec (.spn c i) s = .next u ∧ s.CoreGoes c (on.spanDone r 5 [] 0) u)) ∧
  (∀ q ∈ g.reqs, q.core = c.toNat → q.taken = true → q.left = false → q.op = 1 → q.flag = true →
    (∀ r ∈ g.reqs, r.order = q.order → r = q) → (∀ r ∈ g.reqs, r ≠ q → r.taken = false ∨ r.left = true) →
    s.hw.mustWait g q true = false → s.hw.spn.deadLoans = [] →
    ∃ t, exec (.flagStoreRelease c) s = .next t ∧ (∀ r ∈ (t.hw.spanEng e).reqs, r.order = q.order → r.left = true) ∧
      (t.coreOf c).pc = x.pc ∧
      (s.hw.ownRank (addrRank q.address) = true → s.hw.loanAddr (addrOff q.address) = none →
        s.hw.spanStatus s.hw.spn.rank.toNat (addrOff q.address) q.data.length = 0 → (∀ f ∈ g.fences, q.order ∉ f.covers ∧ f.covers ≠ []) →
        (t.hw.spanEng e).reqs = g.reqs.filter (fun r => decide (r.order ≠ q.order)) ∧
        t.hw.mem = nputList 0 s.hw.mem (addrOff q.address) q.data ∧ nget 0 (t.coreOf c).sram (q.cmdAddr + 13) = 0))

/-! ## Heartbeats, reports, arbiters, test registers -/

/-- A live core that is to send heartbeats sends one: its neighbours' counts of it go to 0 unless it signals an error, the
dead neighbours that it expects are counted, and nothing but the cores changes. A neighbour reports a core that has missed
three heartbeats, or the heartbeat of a boundary: with no billet under way the core enters the pending list and stops;
CORE_LOSS is the failure itself, after which the core answers nothing (R79, R330, R332). -/
def Obligations.HeartbeatsAndCoreDeath : Prop :=
  (∀ (s : State) (c : CoreId),
  s.hw.beats c.toNat = true → (s.coreOf c).dead = false →
  ∃ t, exec (.heartbeat c) s = .next t ∧ t = { s with hw := { s.hw with cores := t.hw.cores } } ∧
    (t.coreOf c).lastBeatSent = s.hw.now ∧ (t.coreOf c).errSym = false ∧ (t.coreOf c).sram = (s.coreOf c).sram ∧
    ((s.coreOf c).errSym = false → ∀ k ∈ neighbours c.toNat, s.hw.beats k = true → (s.hw.core k).dead = false →
      nget 0 (t.hw.core k).missed c.toNat = 0) ∧
    ∀ k ∈ neighbours c.toNat, s.hw.beats k = true → (s.hw.core k).dead = true → k ≠ c.toNat →
      nget 0 (t.coreOf c).missed k > nget 0 (s.coreOf c).missed k) ∧
  (∀ (s : State) (r n : CoreId),
  let dead (k : Instr) := ∃ t, exec k s = .next t ∧ n.toNat ∈ t.hw.flt.pending ∧ n.toNat ∈ t.hw.flt.declared ∧
    (t.coreOf n).stopped = true ∧ t.hw.stk = s.hw.stk
  (s.hw.live = false → s.hw.mayReport r.toNat n.toNat = true → n.toNat ∉ s.hw.flt.declared →
    dead (.missedHeartbeats r n) ∧ dead (.boundaryHeartbeatMiss r n)) ∧
  (coreOk n.toNat = true → exec (.coreLoss n) s = .next (s.coreTo n
    { s.coreOf n with
      dead := true, diedAt := if (s.coreOf n).dead then (s.coreOf n).diedAt else s.hw.now, stopped := true, errSym := false, missed := [] })))

/-- A warden's report of a failed check in a beat that has not committed opens a recovery of that beat: it is held to be
replayed, unless it has been started four times, which is uncontained (R325-R328, R340). -/
def Obligations.FaultReports : Prop := ∀ (s : State),
  let opens (d : Detection) (b : Nat × Nat) := ∃ t v, exec (.faultReport d) s = .next t ∧
    t.hw.flt.recovery = some v ∧ v.hold = true ∧ (v.stroke, v.beat) = b ∧ t.hw.mem = s.hw.mem ∧ t.hw.stk = s.hw.stk
  s.hw.live = true → s.hw.flt.stopAll = false → s.hw.flt.recovery = none →
  (s.hw.flt.starts < 4 →
    (∀ c addr, coreOk c.toNat = true → (s.hw.stk.workStroke, s.hw.stk.beat, c.toNat) ∉ s.hw.flt.seenSym →
      opens (.sramCrc c addr) s.hw.curBeat) ∧
    (∀ f b k e p stroke, (∀ x ∈ s.hw.flt.seenPort, (x.1, x.2.1) ≠ s.hw.curBeat) →
      s.hw.stk.beat < 4096 → s.hw.stk.workStroke % 4 = stroke.toNat →
      opens (.flit f b k e p (BitVec.ofNat 12 s.hw.stk.beat) stroke) s.hw.curBeat) ∧
    (∀ f w l, s.hw.lineReader f.val (b2n w) l.toNat = s.hw.curBeat →
      (s.hw.curBeat.1, s.hw.curBeat.2, lineKey f.val (b2n w) l.toNat) ∉ s.hw.flt.badLines →
      opens (.memLine f w l) s.hw.curBeat)) ∧
  (s.hw.flt.starts ≥ 4 → ∀ c addr, coreOk c.toNat = true →
    (s.hw.stk.workStroke, s.hw.stk.beat, c.toNat) ∉ s.hw.flt.seenSym →
    ∃ t, exec (.faultReport (.sramCrc c addr)) s = .next t ∧ t.hw.flt.uncontained = true ∧ t.hw.flt.stopAll = true)

/-- A free arbiter grants: the only request that is raised, under fixed precedence the highest numbered one, and under slots
the owner of the period that begins two cycles later, if it requests; the data phase starts in that cycle, the grant is
counted, and nothing but the arbiter changes (R132, R133, R135, R136). -/
def Obligations.ArbiterGrants : Prop := ∀ (s : State) (f : FieldIx) (kind : Fin 6) (inst : Fin 396) (i : Nat),
  let k := arbKey f.val kind.val inst.val
  let a := s.hw.arb k
  let d := s.hw.arbCycle kind.val s.hw.now
  arbExists f.val kind.val inst.val = true → a.tenures = [] → (∃ r, (i, r) ∈ a.reqs) →
  ((a.fixed = true ∧ ∀ e ∈ a.reqs, e.1 ≤ i) ∨ (∀ e ∈ a.reqs, e.1 = i) ∨
    (a.fixed = false ∧ (d + 2) % arbPeriod kind.val = 0 ∧ a.owner ((d + 2) / arbPeriod kind.val) = some i)) →
  ∃ t b, exec (.arbDecision f kind inst) s = .next t ∧ t = { s with hw := s.hw.setArb k b } ∧
    b.tenures = [{ input := i, start := s.hw.arbOrigin +
      (d + 2 + s.hw.arbDelay f.val kind.val inst.val i (a.perturbed + 1)) * arbLen kind.val }] ∧
    nget 0 b.grants i = satAdd 64 (nget 0 a.grants i) 1 ∧
    (∀ j, j ≠ i → nget 0 b.grants j = nget 0 a.grants j) ∧ b.slots = a.slots ∧ b.fixed = a.fixed ∧ b.reqs = a.reqs

/-- A wait that exceeds its threshold is flagged once, counted and captured, with ARB_STARVE; the watchdog of a resource
whose holder has moved nothing for its limit resets the arbiter, captures the holder and replays the beat (R136, R140). -/
def Obligations.ArbiterWatch : Prop := ∀ (s : State) (f : FieldIx) (kind : Fin 6) (inst : Fin 396),
  let k := arbKey f.val kind.val inst.val
  let a := s.hw.arb k
  let x := s.hw.fld f.val
  (∀ (input : BitVec 7) r, a.reqs.find? (fun e => decide (e.1 = input.toNat)) = some (input.toNat, r) → r.flagged = false →
    nget 0 a.thresh input.toNat ≠ 0 → r.waited > nget 0 a.thresh input.toNat →
    ∃ t, exec (.arbStarve f kind inst input) s = .next t ∧ t.hw.evt.flags.getLsbD 6 = true ∧
      (t.hw.fld f.val).starveCount = satInc x.starveCount ∧ (t.hw.fld f.val).starveFlag = true ∧
      (x.starveFlag = false → (t.hw.fld f.val).starveInput = input) ∧
      (x.starveFlag = true → (t.hw.fld f.val).starveInput = x.starveInput) ∧
      (t.hw.arb k).tenures = a.tenures ∧ (t.hw.arb k).grants = a.grants ∧ t.hw.mem = s.hw.mem) ∧
  (∀ u h, a.holderAt (s.hw.now * 125) = some u → u.input = h → h < 128 →
    a.lastMove + x.wdogLimit.toNat * 256 ≤ s.hw.now → (s.hw.stk.workStroke, s.hw.stk.beat, k, h) ∉ s.hw.flt.seenHolder →
    s.hw.live = true → s.hw.flt.stopAll = false → s.hw.flt.recovery = none → s.hw.flt.starts < 4 →
    ∃ t v, exec (.arbWatchdog f kind inst) s = .next t ∧ (t.hw.arb k).tenures = [] ∧ (t.hw.arb k).reqs = [] ∧
      (t.hw.fld f.val).wdogBit = true ∧ (t.hw.fld f.val).wdogHolder.toNat = h ∧
      (t.hw.fld f.val).wdogCount = satInc x.wdogCount ∧ t.hw.evt.flags.getLsbD 7 = true ∧
      t.hw.flt.recovery = some v ∧ (v.stroke, v.beat) = s.hw.curBeat ∧ v.hold = true)

/-- FLD_ARB_CTL.commit asks for the shadow table, and an access to FLD_ARB_SLOT writes or reads the selected entry of the
shadow and, with autoinc, steps the selected slot modulo 256. TST_UNLOCK opens the test block for its two keys in turn and
for nothing else, any other value locks it and disarms what is armed; TST_INJ is stored and armed while it is open and
counted as discarded while it is not; withheld credits return (R137, R141-R143). -/
def Obligations.SlotTablesAndTestBlock : Prop :=
  (∀ (s : State) (f : FieldIx) (k : Nat) (v : W64),
  let x := s.hw.fld f.val
  let h : Hw := { s.hw with tst := { s.hw.tst with armedKey := false } }
  let stepped (h : Hw) : Hw := if x.selAutoinc then h.setFld f.val { x with selSlot := x.selSlot + 1 } else h
  s.hw.barOpen = true → s.hw.selArb f.val = some k → s.hw.selOk f.val = true →
  exec (.slotTableCommit f) s = .next { s with hw := h.setArb k { s.hw.arb k with commit := true } } ∧
  exec (.fldArbSlotAccess f (some v)) s = .next { s with hw := stepped (h.setArb k { s.hw.arb k with
    shadow := nput 0xFF (s.hw.arb k).shadow x.selSlot.toNat (v.setWidth 8) }) } ∧
  exec (.fldArbSlotAccess f none) s = .next { s with hw := stepped { s.hw with
    readData := leBytes 8 (nget (0xFF : Byte) (s.hw.arb k).shadow x.selSlot.toNat).toNat } }) ∧
  (∀ (s : State) (key : W32) (v : W64),
  let x := s.hw.tst
  let after (x : Tst) : Out := .next { s with hw := { s.hw with tst := x } }
  (s.hw.barOpen = true →
    exec (.tstUnlock 0x7E570A11) s = after { x with armedKey := true } ∧
    exec (.tstUnlock 0x11A0757E) s = after (if x.armedKey then { x with armedKey := false, unlocked := true } else x) ∧
    (key ≠ 0x7E570A11 → key ≠ 0x11A0757E → ∃ y, exec (.tstUnlock key) s = after y ∧ y.unlocked = false ∧
      y.armedKey = false ∧ y.injArm = false ∧ y.arb.getLsbD 63 = false ∧ y.inj = x.inj ∧ y.injections = x.injections) ∧
    (x.unlocked = false →
      exec (.tstInjArm v) s = after { x with armedKey := false, discarded := satInc x.discarded }) ∧
    (x.unlocked = true → ∃ y, exec (.tstInjArm v) s = after y ∧ y.inj = v &&& 0x1FFFFFFFFF ∧
      y.injArm = (x.injArm || v.getLsbD 63) ∧ (v.getLsbD 63 = true → y.injLeft = max 1 (bits v.toNat 30 23)))) ∧
  exec .tstCredExpire s = after { x with cred := x.cred &&& 0x7FFFFFFFFFFFFFFF })

/-! ## Herders -/

/-- A LOGITS part that meets an error is counted, captured where nothing is captured, and flagged, and enters nothing; any
other part enters its logits, and the one that brings the last expert's scores the token by the layer's table as the herder
has loaded it (R145-R149, R163, R180). -/
def Obligations.HerderLogits : Prop := ∀ (s : State) (h : FieldIx) (m : LogitsMsg),
  let x := s.hw.herder h.val
  (∀ code, (s.hw.logitsError h.val m).1 = some code →
    ∃ t, exec (.logits h m) s = .next t ∧ t.hw.evt.flags.getLsbD 8 = true ∧
      (t.hw.herder h.val).errCount = satInc x.errCount ∧ (t.hw.herder h.val).errFlag = true ∧
      (x.errFlag = false → (t.hw.herder h.val).errCode = BitVec.ofNat 4 code ∧ (t.hw.herder h.val).errToken = m.token) ∧
      (x.errFlag = true → (t.hw.herder h.val).errCode = x.errCode) ∧
      (t.hw.herder h.val).logits = x.logits ∧ (t.hw.herder h.val).scored = x.scored) ∧
  (∀ sec l e, s.hw.herderSec = some sec → s.hw.logitsError h.val m = (none, some (l, e)) →
    let key := s.hw.tokKey l.layer e
    ∃ t got, exec (.logits h m) s = .next t ∧ t = { s with hw := { s.hw with herders := t.hw.herders } } ∧
      (∀ n, n ≠ h.val → t.hw.herder n = s.hw.herder n) ∧
      (∀ i < m.values.length, nget 0 got (m.first.toNat + i) = widenLogit m.format.toNat (m.values.getD i 0)) ∧
      (∀ e, e < m.first.toNat ∨ m.first.toNat + m.values.length ≤ e → nget 0 got e = nget 0 (nget [] x.logits key) e) ∧
      (got.length ≠ l.e → nget [] (t.hw.herder h.val).logits key = got ∧ (t.hw.herder h.val).scored = x.scored) ∧
      (got.length = l.e → nget [] (t.hw.herder h.val).logits key = [] ∧ (t.hw.herder h.val).scored = x.scored ++
        [(key, selectExperts l (fun i => BitVec.ofNat 32 ((s.hw.loadTables h.val sec l).expertEntry h.val l i))
          fun i => nget 0 got i)]))

/-- TOKEN_SETTLE settles the next token of the layer: it is marked settled and counted, and its combine list goes to its
home core; a token that must be deferred goes whole into the layer's pool instead, counted, and the event unit is told. A
layer whose tokens have all settled closes, once; flag values wait for the post beat; HRD_CTL.bias_commit waits for the
boundary, or is discarded for a layer that the billet does not have (R153-R157, R165, R170). -/
def Obligations.HerderSettling : Prop :=
  (∀ (s : State) (h : FieldIx) (layer : BitVec 8) (sec : HerderSec) (l : Layer)
    (t : Settling) (sc : Scored),
  let x := s.hw.herder h.val
  let loaded := s.hw.loadTables h.val sec l
  s.hw.herderSec = some sec → sec.layerOf layer.toNat = some l → loaded.nextToken h.val sec l = some (t, false) →
  t.scored = some sc → t.excess = false →
  (loaded.mustDefer h.val l sc t.defers = false →
    ∃ u m, exec (.tokenSettle h layer) s = .next u ∧ u.hw.fabric = s.hw.fabric ++ [m] ∧
      m.dest = x.remapTo t.entry.home ∧ m.source = mkEndpoint h.val 0 ∧ m.channel = l.tokenChannel ∧
      (u.hw.herder h.val).settled = s.hw.tokKey l.layer t.entry :: x.settled ∧ (u.hw.herder h.val).tokens = x.tokens + 1 ∧
      (u.hw.herder h.val).pool = x.pool ∧ u.hw.evt = s.hw.evt) ∧
  (loaded.mustDefer h.val l sc t.defers = true →
    ∃ u m, exec (.tokenSettle h layer) s = .next u ∧ u.hw.fabric = s.hw.fabric ++ [m] ∧ m.dest = 8 ∧ m.destEndpoint = true ∧
      (u.hw.herder h.val).pool = x.pool ++ [{
        layer := l.layer, stroke := s.hw.stk.workStroke, entry := t.entry, scored := sc, defers := t.defers + 1 }] ∧
      (u.hw.herder h.val).deferCnt = x.deferCnt + 1 ∧ (u.hw.herder h.val).tokens = x.tokens ∧ u.hw.mem = s.hw.mem)) ∧
  (∀ (s : State) (h : FieldIx) (layer : BitVec 8) (token : BitVec 17) (mask : W16)
    (values : List W32),
  let x := s.hw.herder h.val
  (∀ sec l, s.hw.herderSec = some sec → sec.layerOf layer.toNat = some l →
    (l.layer ∉ x.closed → s.hw.nextToken h.val sec l = none →
      ∃ t, exec (.layerClose h layer) s = .next t ∧ l.layer ∈ (t.hw.herder h.val).closed ∧
        (t.hw.herder h.val).lastLayer = layer) ∧
    (l.layer ∈ x.closed → exec (.layerClose h layer) s = .next s)) ∧
  (∀ sec e es, s.hw.herderSec = some sec → s.hw.openTokens h.val sec sec.layers.length token.toNat = e :: es →
    x.evaluated = false →
    values.length = (maskBits 16 mask.toNat).length → (∀ i ∈ maskBits 16 mask.toNat, i < sec.flagCount) →
    exec (.flag h token mask values) s = .next { s with hw := s.hw.setHerder h.val { x with
      flagVals := ((maskBits 16 mask.toNat).zip values).foldl
        (fun m e => ninsert (token.toNat * 16 + e.1) (some e.2) m) x.flagVals } }) ∧
  (s.hw.barOpen = true →
    exec (.biasCommit h layer) s = .next { s with
      hw := ({ s.hw with tst := { s.hw.tst with armedKey := false } }).setHerder h.val
        (if (s.hw.herderSec.bind fun sec => sec.layerOf layer.toNat).isSome then
          { x with biasLayer := layer, biasCommit := true } else { x with biasLayer := layer, biasCommitErr := true }) }))

/-- The jobs of sort mode: a valid job joins the queue of four, an invalid one and one beyond the queue are answered; the
running job ends with dst in order, counted, its source told; an abort takes it out (R177). -/
def Obligations.SortJobs : Prop := ∀ (s : State) (h : FieldIx) (c : CoreId) (m : SortJobMsg) (j : SortJob) (rest : List SortJob),
  let x := s.hw.herder h.val
  (j = {
      source := c.toNat, src := m.src.toNat, dst := m.dst.toNat, scratch := m.scratch.toNat, count := m.count.toNat
      signed := m.flags.getLsbD 0, descending := m.flags.getLsbD 1, channel := bits m.flags.toNat 7 4, tag := m.tag } →
    (sortValid j = true → x.sortQ = [] → ∃ t, exec (.sortJob h c m) s = .next t ∧ (t.hw.herder h.val).sortQ = [j] ∧
      (t.hw.herder h.val).sorting = true ∧ (t.hw.herder h.val).sortPass = 0 ∧ (t.hw.herder h.val).staging = x.staging ∧
      t.hw.mem = s.hw.mem ∧ t.hw.fabric = s.hw.fabric) ∧
    (sortValid j = true → x.sortQ ≠ [] → x.sortQ.length < 4 →
      exec (.sortJob h c m) s = .next { s with hw := s.hw.setHerder h.val { x with sortQ := x.sortQ ++ [j] } }) ∧
    (sortValid j = true → x.sortQ.length ≥ 4 → ∃ t, exec (.sortJob h c m) s = .next t ∧
      (t.hw.herder h.val).sortQ = x.sortQ ∧ t.hw.fabric.length = s.hw.fabric.length + 1 ∧ t.hw.evt.flags.getLsbD 9 = true) ∧
    (sortValid j = false → ∃ t, exec (.sortJob h c m) s = .next t ∧ (t.hw.herder h.val).sortQ = x.sortQ ∧
      t.hw.evt.flags.getLsbD 8 = true ∧ t.hw.evt.flags.getLsbD 9 = true)) ∧
  (x.sortQ = j :: rest →
    (∃ t, exec (.sortComplete h) s = .next t ∧ (t.hw.herder h.val).sortQ = rest ∧
      (t.hw.herder h.val).sortJobs = x.sortJobs + 1 ∧ t.hw.evt.flags.getLsbD 9 = true ∧
      t.hw.fabric.length = s.hw.fabric.length + 1 ∧
      t.hw.mem = nputList 0 (nputList 0 s.hw.mem (bonded h.val 0 j.scratch) (openBytes s.hw.draws j.scratch (16 * j.count)))
        (bonded h.val 0 j.dst) ((sortEntries j ((List.range j.count).map fun i =>
          (BitVec.ofNat 64 (at' (s.hw.memRead (bonded h.val 0 j.src) (16 * j.count)) (16 * i) 8),
           BitVec.ofNat 64 (at' (s.hw.memRead (bonded h.val 0 j.src) (16 * j.count)) (16 * i + 8) 8)))).flatMap
            fun e => leBytes 8 e.1.toNat ++ leBytes 8 e.2.toNat)) ∧
    (s.hw.barOpen = true → ∃ t, exec (.sortAbort h) s = .next t ∧ (t.hw.herder h.val).sortQ = rest ∧
      (t.hw.herder h.val).sortJobs = x.sortJobs ∧ t.hw.evt.flags.getLsbD 9 = true))

/-- A sort puts the entries in ascending order of their keys, or in descending order, compared as unsigned or as signed
numbers, and keeps the order of equal keys (R177). -/
def Obligations.SortOrder : Prop := ∀ (j : SortJob) (es : List (W64 × W64)) (key : W64),
  (sortEntries j es).Perm es ∧
  (sortEntries j es).Pairwise (fun a b =>
    if j.signed then (if j.descending then b.1.toInt ≤ a.1.toInt else a.1.toInt ≤ b.1.toInt)
    else if j.descending then b.1.toNat ≤ a.1.toNat else a.1.toNat ≤ b.1.toNat) ∧
  (sortEntries j es).filter (fun e => decide (e.1 = key)) = es.filter fun e => decide (e.1 = key)

/-! ## Key-value cache -/

/-- A write of KVP_OP joins the operation queue in order and leaves the sequence's last_op PENDING; beyond 256 operations it
is discarded and counted. LOOKUP and INSERT are refused without prefix sharing and while another runs, and otherwise run
until their completion publishes how many ranges matched and raises PFX_DONE (R182, R202, R203, R209). -/
def Obligations.KvAndPrefixQueue : Prop :=
  (∀ (s : State) (q : W16) (v : Byte) (n : BitVec 36),
  let h : Hw := { s.hw with tst := { s.hw.tst with armedKey := false } }
  let takes (i : Instr) (kind : KvOpKind) (value : Byte) :=
    (s.hw.kv.opQueue.length < 256 → exec i s = .next { s with
      hw := ({ h with kv := { h.kv with opQueue := h.kv.opQueue ++
        [({ seq := q.toNat, kind := kind, value := value, stroke := n.toNat } : KvOp)] } }).memWrite (s.hw.seqOff q.toNat + 6) [1] }) ∧
    (s.hw.kv.opQueue.length ≥ 256 → exec i s = .next { s with
      hw := { h with kv := { h.kv with opLost := satInc h.kv.opLost } } })
  s.hw.barOpen = true →
  takes (.kvOpen q n) .open' 0 ∧ takes (.kvEdit q n) .edit 0 ∧ takes (.kvCommit q n) .commit 0 ∧
  takes (.kvAbandon q n) .abandon 0 ∧ takes (.kvPreempt q n) .preempt 0 ∧ takes (.kvResume q n) .resume 0 ∧
  takes (.kvClose q n) .close 0 ∧ takes (.kvPrio q v n) .prio v) ∧
  (∀ (s : State) (q : W16) (n : BitVec 17) (k : KvSec),
  s.hw.kv.sec = some k →
  (s.hw.barOpen = true →
    (s.hw.kv.pfxBusy = none → s.hw.kv.pfxEnable = true → s.hw.seqFlag q.toNat 0 = true →
      ∃ t m, exec (.lookup q n) s = .next t ∧ m ≤ n.toNat ∧ t.hw.kv.pfxSeq = q ∧ t.hw.kv.pfxCount = n ∧
        t.hw.kv.pfxBusy = some { insert := false, seq := q.toNat, count := n.toNat, matched := m, full := false } ∧
        t.hw.evt = s.hw.evt) ∧
    (s.hw.kv.pfxBusy = none → s.hw.kv.pfxEnable = true → s.hw.seqState q.toNat ≠ 0 →
      ∃ t m f, exec (.insert q n) s = .next t ∧ m ≤ n.toNat ∧
        t.hw.kv.pfxBusy = some { insert := true, seq := q.toNat, count := n.toNat, matched := m, full := f } ∧
        t.hw.evt = s.hw.evt) ∧
    (s.hw.kv.pfxBusy ≠ none → ∃ t, exec (.lookup q n) s = .next t ∧ t.hw.kv.pfxBusy = s.hw.kv.pfxBusy ∧
      t.hw.kv.resStatus = 2 ∧ t.hw.kv.resDone = true ∧ t.hw.evt.flags.getLsbD 13 = true ∧ t.hw.mem = s.hw.mem) ∧
    (s.hw.kv.pfxBusy = none → s.hw.kv.pfxEnable = false → ∃ t, exec (.insert q n) s = .next t ∧
      t.hw.kv.pfxBusy = none ∧ t.hw.kv.resStatus = 1 ∧ t.hw.mem = s.hw.mem)) ∧
  (∀ o, s.hw.kv.pfxBusy = some o → ∃ t, exec .prefixOpComplete s = .next t ∧ t.hw.kv.pfxBusy = none ∧
    t.hw.kv.resMatched = BitVec.ofNat 17 o.matched ∧ t.hw.kv.resStatus = (if o.full then 3 else 0) ∧
    t.hw.kv.resDone = true ∧ t.hw.evt.flags.getLsbD 13 = true ∧ t.hw.mem = s.hw.mem))

/-- What the queued operations do at their boundary to a sequence's flags: EDIT opens an edit of an ACTIVE or PREEMPTED
sequence without one, COMMIT turns it into a pending commit, ABANDON into a sync, an operation on a FREE sequence fails with
BAD_STATE and KV_OP_ERR; every byte of memory outside the sequence's entry is as it was. A CLOSING sequence that is done
leaves the list of sequences in use and its binding; a commit is prepared, or SHORT where it needs indices or frames that
there are not; a sync that is done clears its flag (R182, R187, R268). -/
def Obligations.KvSequences : Prop :=
  (∀ (s : Hw) (k : KvSec) (q : Nat) (st : Nat),
  let op (kind : KvOpKind) : KvOp := { seq := q, kind := kind, value := 7, stroke := st }
  let kept (t : Hw) := ∀ a, a < s.seqOff q ∨ s.seqOff q + 64 ≤ a → nget 0 t.mem a = nget 0 s.mem a
  ((s.seqState q = 1 ∨ s.seqState q = 2) → s.seqFlag q 0 = false → s.seqFlag q 2 = false →
    let t := s.kvApply k (op .edit)
    t.seqFlag q 0 = true ∧ t.seqState q = s.seqState q ∧ t.seqGet q 6 1 = 0 ∧ kept t) ∧
  (s.seqFlag q 0 = true →
    (let t := s.kvApply k (op .commit)
     t.seqFlag q 0 = false ∧ t.seqFlag q 1 = true ∧ t.seqGet q 6 1 = 1 ∧
      t.kv.commits = (s.kv.commits.filter fun c => decide (c.seq ≠ q)) ++ 
        [{ seq := q, prepared := false, removed := [], added := (s.kv.commits.filter fun c => decide (c.seq = q)).flatMap (·.added) }] ∧ kept t) ∧
    (let t := s.kvApply k (op .abandon)
     t.seqFlag q 0 = false ∧ t.seqFlag q 2 = true ∧ t.seqGet q 6 1 = 0 ∧ kept t)) ∧
  (s.seqState q ≠ 0 → let t := s.kvApply k (op .prio); t.seqGet q 1 1 = 7 ∧ t.seqState q = s.seqState q ∧ kept t) ∧
  (s.seqState q = 0 → s.seqFlag q 0 = false → ∀ kind, kind ≠ .open' →
    let t := s.kvApply k (op kind)
    t.seqGet q 6 1 = 2 ∧ t.seqState q = 0 ∧ t.evt.flags.getLsbD 12 = true ∧ kept t)) ∧
  (∀ (s : State) (q : W16) (k : KvSec), s.hw.kv.sec = some k →
  (s.hw.seqState q.toNat = 4 → ∃ t, exec (.closeDone q) s = .next t ∧ q.toNat ∉ t.hw.kv.live ∧
    nget none t.hw.wgt.bindSeq q.toNat = none ∧ t.hw.stk = s.hw.stk ∧ t.hw.kv.opQueue = s.hw.kv.opQueue) ∧
  ((∃ c ∈ s.hw.kv.commits, c.seq = q.toNat ∧ c.prepared = false) →
    (∃ t, exec (.commitPrepared q) s = .next t ∧ (∀ c ∈ s.hw.kv.commits, c.seq ≠ q.toNat → c ∈ t.hw.kv.commits) ∧
      ((∀ c ∈ t.hw.kv.commits, c.seq = q.toNat → c.prepared = true) ∨
        (∀ c ∈ t.hw.kv.commits, c.seq = q.toNat → c.short = true) ∧ t.hw.evt.flags.getLsbD 10 = true) ∧
      ((∀ ix ∈ s.hw.changed k q.toNat, s.hw.ptGet k q.toNat (s.hw.shadowCopy q.toNat) ix ≠ pageAlloc) →
        ∀ c ∈ t.hw.kv.commits, c.seq = q.toNat → c.prepared = true)) ∧
    ((∀ c ∈ s.hw.kv.commits, c.seq = q.toNat → c.added = []) → s.hw.changed k q.toNat = [] →
      ∃ t, exec (.commitPrepared q) s = .next t ∧ t.hw.mem = s.hw.mem ∧ t.hw.kv.commits = s.hw.kv.commits.map fun c =>
        if c.seq = q.toNat then { seq := q.toNat, prepared := true, added := [], removed := [] } else c)) ∧
  (s.hw.seqFlag q.toNat 2 = true → ∃ t, exec (.shadowSyncDone q) s = .next t ∧ t.hw.seqFlag q.toNat 2 = false ∧
    t.hw.kv = s.hw.kv))

/-! ## Weights -/

/-- An accepted LOAD_WEIGHTS takes the lowest FREE slot of its context under the context's next epoch number: where the
package's signature, leaf list, kind and base hold, the slot is PREPARING and the mailbox BUSY until the load ends, and
otherwise the slot is FREE again and the command is answered. DROP_ADAPTER begins from CURRENT without that adapter, and its
end prepares the slot. EPOCH_COMMIT names a PREPARED slot and its stroke and answers with the slot's epoch; EPOCH_DROP frees
a PREPARED slot and withdraws a commit that waits on it; a slot that is not PREPARED is refused (R256, R260, R262, R266,
R267). -/
def Obligations.WeightLoading : Prop :=
  (∀ (s : State) (tag : W32) (c : Byte) (a : W16) (source : W64) (k : Nat),
  let h := s.hw
  let x := h.ctx c.toNat
  let off := addrOff source.toNat
  let m := parseManifest (h.memRead off 512)
  let taken (t : State) := (t.hw.ctx c.toNat).nextEpoch = x.nextEpoch + 1 ∧ t.hw.mbx.tag = tag ∧
    ∀ d, d ≠ c.toNat → t.hw.ctx d = h.ctx d
  let working (t : State) (op : Nat) := t.hw.mbx.state = .busy ∧ (t.hw.slot c.toNat k).state = .preparing ∧
    (t.hw.slot c.toNat k).epoch = BitVec.ofNat 64 x.nextEpoch ∧
    ∃ w, t.hw.mbx.long = some (.loadWeights w) ∧ w.context = c.toNat ∧ w.op = op ∧ w.slot = k
  let answered (t : State) := t.hw.mbx.state = .idle ∧ t.hw.mbx.done = true ∧ (t.hw.slot c.toNat k).state = .free
  let accepted (op n : Nat) : Hw := Hw.acceptLoad { h with
    tst := { h.tst with armedKey := false }
    mbx := { h.mbx with state := .running, opcode := 0x0020, tag := tag } } c.toNat op n source.toNat m.chunks
  let holds (op n : Nat) := (∃ ls, ((accepted op n).openPackage source.toNat (h.memRead off 512)).2 = .ok ls) ∧ m.kind = op ∧
    (op = 1 → m.baseId = ((accepted op n).slot c.toNat k).packageId)
  MailboxReady s → h.freeCtxSlot c.toNat = some k →
  (h.ownRank (addrRank source.toNat) = true → migBase ≤ off → off % pageBytes + 512 ≤ pageBytes →
    (h.home (pageOf off)).state = .home → (h.home (pageOf off)).tier = 2 → (h.home (pageOf off)).lent = false →
    m.versionOk = true →
    (h.loadRefusal c.toNat 0 0 = none → ∃ t, exec (.loadBase tag c source) s = .next t ∧ taken t ∧
      (holds 0 0 → working t 0) ∧ (¬ holds 0 0 → answered t)) ∧
    (h.loadRefusal c.toNat 1 a.toNat = none → ∃ t, exec (.loadAdapter tag c a source) s = .next t ∧ taken t ∧
      (holds 1 a.toNat → working t 1) ∧ (¬ holds 1 a.toNat → answered t))) ∧
  (h.loadRefusal c.toNat 2 a.toNat = none →
    ∃ t, exec (.dropAdapter tag c a) s = .next t ∧ taken t ∧ working t 2 ∧
      let cur := h.slot c.toNat (x.current.getD 0)
      (x.current ≠ some k → (t.hw.slot c.toNat k).images = cur.images ∧
        (t.hw.slot c.toNat k).adapters = cur.adapters.filter fun e => decide (e.number ≠ a.toNat)))) ∧
  (∀ (s : State) (tag : W32) (ps : List Byte),
  let c := at' ps 0 1
  let k := at' ps 1 1
  let x := s.hw.ctx c
  MailboxReady s → c ≤ 63 → k ≤ 3 →
  (paramsOk ps 16 [(2, 6)] = true → (s.hw.slot c k).state = .prepared →
    ∃ t, exec (.epochCommit tag ps) s = .next t ∧ Answered t 0x0021 tag { data := leBytes 8 (s.hw.slot c k).epoch.toNat } ∧
      t.hw.ctx c = { x with pendingSlot := k, commitStroke := at' ps 8 8, commitPending := true }) ∧
  (paramsOk ps 8 [(2, 6)] = true → (s.hw.slot c k).state = .prepared →
    ∃ t, exec (.epochDrop tag ps) s = .next t ∧ Answered t 0x0022 tag {} ∧ t.hw.slot c k = {} ∧
      (t.hw.ctx c).commitPending = (x.commitPending && decide (x.pendingSlot ≠ k))) ∧
  (paramsOk ps 16 [(2, 6)] = true → (s.hw.slot c k).state ≠ .prepared →
    ∃ t, exec (.epochCommit tag ps) s = .next t ∧ Answered t 0x0021 tag (refused 0x2A) ∧ t.hw.wgt = s.hw.wgt))

/-- The end of a load answers and leaves its slot PREPARED or, where it fails, FREE; that of a DROP_ADAPTER prepares its
slot, writes its descriptor table and answers with slot and epoch; every other slot is as it was (R257, R260, R262, R264,
R266). -/
def Obligations.WeightLoadEnds : Prop := ∀ (s : State) (w : WLoad) (g : WgtSec),
  s.hw.mbx.long = some (.loadWeights w) → s.hw.wgt.sec = some g →
    let old := s.hw.slot w.context w.slot
    ∃ t, exec .loadWeightsEnd s = .next t ∧ t.hw.mbx.state = .idle ∧ t.hw.mbx.long = none ∧ t.hw.evt.flags.getLsbD 40 = true ∧
      ((t.hw.slot w.context w.slot).state = .prepared ∨ (t.hw.slot w.context w.slot).state = .free) ∧
      (∀ c k, (c, k) ≠ (w.context, w.slot) → t.hw.slot c k = s.hw.slot c k) ∧
      (w.op = 2 →
        t.hw.mbx.rspBuf = Rsp.bytes { data := leBytes 1 w.slot ++ leBytes 7 0 ++ leBytes 8 old.epoch.toNat } s.hw.mbx.opcode.toNat
          s.hw.mbx.tag ∧
        t.hw.slot w.context w.slot = { old with refs := 0, state := .prepared, stream := false })

/-- The first SESSION message of a stream on a bellows port takes a FREE slot under the context's next epoch, a later one
adds its bytes, and the last one leaves the slot PREPARED, or FREE with WGT_FILL_FAIL; a piece of a chunk is kept in its
weight slot, a whole chunk is verified against its leaf, and a fill that fails or times out makes its slot FAILED. What the
weight server answers on a bellows port: GRAD_ACK completes the instance that its identity names, the first STREAM_ERR for
it has the shard sent again at the next stroke, and one for a fill marks the weight slot (R243, R270, R271, R318, R319). -/
def Obligations.StreamedWeights : Prop :=
  (∀ (s : State) (p : PortIx) (c : BitVec 6) (id : W32) (bs : List Byte) (k : Nat)
    (w sq : Byte) (i : W32) (n : BitVec 10) (off : BitVec 41) (last : Bool) (z : Session),
  let x := s.hw.wslot w.toNat
  let mine (z : Session) : Bool := decide (z.context = c.toNat) && decide (z.id = id.toNat)
  p.val ≥ 48 →
  (∀ g, s.hw.streamed = true → s.hw.wgtSec = some g →
    (s.hw.wgt.sessions.find? mine = none → s.hw.freeCtxSlot c.toNat = some k →
      ∃ t, exec (.session p c id 0 false bs) s = .next t ∧ (t.hw.slot c.toNat k).state = .preparing ∧
        (t.hw.slot c.toNat k).stream = true ∧ (t.hw.ctx c.toNat).nextEpoch = (s.hw.ctx c.toNat).nextEpoch + 1 ∧
        t.hw.wgt.sessions = s.hw.wgt.sessions ++ [{ context := c.toNat, id := id.toNat, bytes := nputList 0 [] 0 bs, slot := k }] ∧
        ∀ a, (∀ f < 48, a < bonded f 0 (g.tableOff c.toNat k) ∨
          bonded f 0 (g.tableOff c.toNat k) + ((g.tensorCount * 16 + 63) / 64 * 64 + 32768) ≤ a) →
          nget 0 t.hw.mem a = nget 0 s.hw.mem a) ∧
    (s.hw.wgt.sessions.find? mine = some z →
      let y : Session := { z with bytes := nputList 0 z.bytes off.toNat bs }
      let others := s.hw.wgt.sessions.filter fun v => decide (v ≠ z)
      ∃ t, exec (.session p c id off last bs) s = .next t ∧ t.hw.mem = s.hw.mem ∧
        (last = false → t.hw.wgt.sessions = others ++ [y]) ∧
        (last = true → t.hw.wgt.sessions = (others ++ [y]).filter (fun v => decide (v ≠ y)) ∧
          ((t.hw.slot z.context z.slot).state = .prepared ∨
            (t.hw.slot z.context z.slot).state = .free ∧ t.hw.evt.flags.getLsbD 22 = true)))) ∧
  (∀ cx sl, x.session = some (cx, sl) → x.state = .filling → x.fillSeq = sq → i.toNat < (s.hw.slot cx sl).leaves.length →
    nget none x.verified i.toNat = none →
    let ps := nput none (nget [] x.pieces i.toNat) n.toNat (some bs)
    let whole := wholeChunk ps (chunkLen (s.hw.slot cx sl).bodyLen i.toNat)
    (whole = none → ∃ t, exec (.chunk p w sq i n bs) s = .next t ∧
      t.hw.wslot w.toNat = { x with pieces := nput [] x.pieces i.toNat ps } ∧ t.hw.mem = s.hw.mem) ∧
    (∀ b, whole = some b → leafHash i.toNat b = (s.hw.slot cx sl).leaves.getD i.toNat [] →
      ∃ t, exec (.chunk p w sq i n bs) s = .next t ∧ nget none (t.hw.wslot w.toNat).verified i.toNat = some b ∧
        (t.hw.wslot w.toNat).state = .filling ∧ t.hw.mem = s.hw.mem) ∧
    (∀ b, whole = some b → leafHash i.toNat b ≠ (s.hw.slot cx sl).leaves.getD i.toNat [] →
      ∃ t, exec (.chunk p w sq i n bs) s = .next t ∧ (t.hw.wslot w.toNat).state = .failed ∧
        (t.hw.wslot w.toNat).failures = x.failures + 1)) ∧
  (x.state = .filling → x.filled = false →
    ∃ t, exec (.fillTimeout w) s = .next t ∧ t.hw.wslot w.toNat = { x with
      state := .failed, failures := x.failures + 1, pieces := [], verified := [], filled := false, session := none
      err := false } ∧
      (x.failures = 2 → t.hw.evt.flags.getLsbD 22 = true))) ∧
  (∀ (s : State) (p : PortIx) (d : GradOutId) (code : BitVec 3),
  p.val ≥ 48 →
  (∀ e b g i, s.hw.gradOutInst d = some (e, b, g, i) →
    (∃ t, exec (.gradAck p d) s = .next t ∧ (t.hw.engine e).inst i.seq = some { i with
      complete := true, status := 0, doneStroke := s.hw.stk.num.toNat } ∧ t.hw.mem = s.hw.mem) ∧
    (i.streamErrs = 0 → ∃ t, exec (.streamErr p (.grad d) code) s = .next t ∧ t.hw.evt.flags.getLsbD 31 = true ∧
      (t.hw.engine e).inst i.seq = some { i with streamErrs := 1, resendAt := some (s.hw.stk.num.toNat + 1) })) ∧
  (∀ (c : BitVec 6) (w l sq : Byte) sl, (s.hw.wslot w.toNat).state = .filling → (s.hw.wslot w.toNat).layer = l.toNat →
    (s.hw.wslot w.toNat).fillSeq = sq → (s.hw.wslot w.toNat).session = some (c.toNat, sl) →
    ∃ t, exec (.streamErr p (.fill c w l sq) code) s = .next t ∧ (t.hw.wslot w.toNat).err = true ∧
      t.hw.evt.flags.getLsbD 31 = true))

/-! ## Steps and reduction -/

/-- RED_STEP queues OPEN and CLOSE in order, up to four, and a write of RED_LSCALE clears clean and holds the exponent
between its limits. A GRAD message whose first value is the first of its bucket instance opens the instance in a buffer and
enters the value there; the values of one for an open instance enter their positions; an unknown bucket, and positions past
the bucket's values, are errors that enter nothing (R213, R216, R229, R234, R235, R244). -/
def Obligations.StepsAndGradients : Prop :=
  (∀ (s : State) (n : BitVec 36) (v : W64),
  let h : Hw := { s.hw with tst := { s.hw.tst with armedKey := false } }
  let lo : Byte := BitVec.ofNat 8 (bits v.toNat 15 8)
  let hi : Byte := BitVec.ofNat 8 (bits v.toNat 23 16)
  s.hw.barOpen = true →
  (s.hw.bwd.queue.length < 4 →
    exec (.redStepOpen n) s = .next { s with hw := { h with bwd := { h.bwd with queue := h.bwd.queue ++ [(true, n.toNat)] } } } ∧
    exec (.redStepClose n) s = .next { s with hw := { h with bwd := { h.bwd with
      queue := h.bwd.queue ++ [(false, n.toNat)] } } }) ∧
  (s.hw.bwd.queue.length ≥ 4 →
    exec (.redStepOpen n) s = .next { s with hw := { h with bwd := { h.bwd with lost := satInc h.bwd.lost } } }) ∧
  ∃ t, exec (.lscaleWrite v) s = .next t ∧ t = { s with hw := { h with bwd := t.hw.bwd } } ∧ t.hw.bwd.clean = 0 ∧
    t.hw.bwd.maxExp = hi ∧ t.hw.bwd.minExp = lo ∧ t.hw.bwd.dynamic = v.getLsbD 24 ∧ t.hw.bwd.interval ≠ 0 ∧
    (lo.toInt > hi.toInt → t.hw.bwd.exp = hi) ∧ (lo.toInt ≤ hi.toInt → lo.toInt ≤ t.hw.bwd.exp.toInt ∧ t.hw.bwd.exp.toInt ≤ hi.toInt) ∧ t.hw.bwd.queue = h.bwd.queue) ∧
  (∀ (s : State) (e : FieldIx) (m : GradMsg) (r : RedSec),
  let x := s.hw.engine e.val
  s.hw.redSec = some r →
  (∀ b g ent buf, r.buckets[m.bucket.toNat]? = some b → b.engine = e.val → m.values = [g] → m.offset.toNat < b.values →
    1 < b.values → ent = stepEntry s.hw.bwd (m.step.toNat % 2) → ent.step = m.step.toNat → ent.state = .open' →
    x.inst (ent.step * r.count e.val + r.index m.bucket.toNat) = none →
    x.nextPost.toNat ≤ ent.step * r.count e.val + r.index m.bucket.toNat →
    ent.step * r.count e.val + r.index m.bucket.toNat < x.nextPost.toNat + 16 → x.freeBuf = some buf →
    ∃ t i, exec (.grad e m) s = .next t ∧ (t.hw.engine e.val).inst i.seq = some i ∧
      i.seq = ent.step * r.count e.val + r.index m.bucket.toNat ∧ i.buf = some buf ∧ i.bucket = m.bucket.toNat ∧
      i.complete = false ∧ i.vals = nput none [] m.offset.toNat (some (enterValue (s.hw.bwdSec.any fun b => b.fp16)
        ent.exp.toInt (s.hw.maskBit e.val (m.step.toNat % 2) m.segment.toNat) g)) ∧
      (∀ a, a < r.place e.val buf 0 m.offset.toNat ∨ r.place e.val buf 0 m.offset.toNat + 4 ≤ a →
        nget 0 t.hw.mem a = nget 0 s.hw.mem a)) ∧
  (∀ b ent i buf, r.buckets[m.bucket.toNat]? = some b → b.engine = e.val → m.offset.toNat + m.values.length ≤ b.values →
    ent = stepEntry s.hw.bwd (m.step.toNat % 2) → ent.step = m.step.toNat → ent.state = .open' ∨ ent.state = .closing →
    i.seq = ent.step * r.count e.val + r.index m.bucket.toNat → x.inst i.seq = some i → x.nextPost.toNat ≤ i.seq →
    i.complete = false → i.buf = some buf → (∀ k < m.values.length, nget none i.vals (m.offset.toNat + k) = none) →
    i.vals.length + m.values.length < b.values →
    let at0 := r.place e.val buf 0 m.offset.toNat
    (∀ w, s.hw.bwdSec = some w →
      let y := bonded e.val 0 (w.maskOff + m.step.toNat % 2 * w.maskBytes + m.segment.toNat / 8)
      y < at0 ∨ at0 + 4 * m.values.length ≤ y) →
    ∃ t j, exec (.grad e m) s = .next t ∧ (t.hw.engine e.val).inst i.seq = some j ∧ j.buf = some buf ∧ j.complete = false ∧
      (∀ p, nget none j.vals p = if m.offset.toNat ≤ p ∧ p < m.offset.toNat + m.values.length then
        some (enterValue (s.hw.bwdSec.any fun b => b.fp16) ent.exp.toInt
          (s.hw.maskBit e.val (m.step.toNat % 2) m.segment.toNat) (m.values.getD (p - m.offset.toNat) 0))
        else nget none i.vals p) ∧
      ∀ a, a < at0 ∨ at0 + 4 * m.values.length ≤ a → nget 0 t.hw.mem a = nget 0 s.hw.mem a) ∧
  (r.buckets[m.bucket.toNat]? = none → ∃ t, exec (.grad e m) s = .next t ∧ (t.hw.engine e.val).insts = x.insts ∧
    (t.hw.engine e.val).errCount = satInc x.errCount ∧ t.hw.evt.flags.getLsbD 19 = true ∧ t.hw.mem = s.hw.mem ∧
    (x.errFlag = false → (t.hw.engine e.val).errCode = 1 ∧ (t.hw.engine e.val).errBucket = m.bucket)) ∧
  (∀ b, r.buckets[m.bucket.toNat]? = some b → b.engine = e.val → m.offset.toNat + m.values.length > b.values →
    ∃ t, exec (.grad e m) s = .next t ∧ (t.hw.engine e.val).insts = x.insts ∧ t.hw.mem = s.hw.mem ∧
      (x.errFlag = false → (t.hw.engine e.val).errCode = 3)))

/-- Copies and results of an open instance, which come out of a peer link's port through RIN input 2: a member's primary
copy is written into its part of the buffer and, once it is whole, takes its slot of the own shard; a backup copy is held
until the deadline; a summed shard of another owner takes its place in the result. The end of an instance: the owner's sum
in member order under SHARD goes to memory and is delivered; the acknowledgement of the last write, or of the weight server,
completes it; a completed instance is posted in its ring; an abort is kept for the boundary; a stream error has the shard
sent again (R131, R233, R239-R248, R319). -/
def Obligations.ReductionOfInstances : Prop :=
  (∀ (s : State) (e : FieldIx) (m : ReduceMsg) (r : RedSec) (b : Bucket) (g : RedGroup)
    (i : Inst) (f : Nat),
  let came := s.hw.reduceIn e.val m.values.length
  let len := shardLen b.values g.m g.self
  let p := m.member.toNat * len + m.offset.toNat
  (s.hw.engine e.val).inst i.seq = some i → i.complete = false → i.buf = some f →
  (came.matchMsg e.val false m = some (r, b, g, came, i) → p + m.values.length ≤ r.nmax e.val →
    (m.backup = false → nget none i.slots m.member.toNat = none →
      let c := putValues (nget [] i.prim m.member.toNat) m.offset.toNat m.values
      let i' : Inst := { i with prim := nput [] i.prim m.member.toNat c }
      ∃ t, exec (.contrib e m) s = .next t ∧
        t.hw.mem = nputList 0 s.hw.mem (r.place e.val f 1 p) (wordBytes m.values) ∧
        (t.hw.engine e.val).inst i.seq = some (if c.length < len then i' else { i' with
          slots := nput none i.slots m.member.toNat (some (copyValues c len)) })) ∧
    (m.backup = true → nget none i.slots m.member.toNat = none → i.pastDeadline = false →
      ∃ t, exec (.contrib e m) s = .next t ∧
        t.hw.mem = nputList 0 s.hw.mem (r.place e.val f 2 p) (wordBytes m.values) ∧
        (t.hw.engine e.val).inst i.seq = some { i with
          back := nput [] i.back m.member.toNat (putValues (nget [] i.back m.member.toNat) m.offset.toNat m.values) })) ∧
  (came.matchMsg e.val true m = some (r, b, g, came, i) → i.delivered = false →
    let p0 := m.shard.toNat * shardCut b.values g.m + m.offset.toNat
    let res := putValues i.res p0 m.values
    res.length < b.values →
    ∃ t, exec (.result e m) s = .next t ∧ (t.hw.engine e.val).inst i.seq = some { i with res := res } ∧
      t.hw.mem = nputList 0 s.hw.mem (r.place e.val f 3 p0) (wordBytes m.values))) ∧
  (∀ (s : State) (e : FieldIx) (r : RedSec) (i : Inst) (n : W64),
  let x := s.hw.engine e.val
  let ready (j : Inst) : Prop := j.complete = false ∧ j.full.isSome = true ∧ j.sum = none ∧
    ∃ b, r.buckets[j.bucket]? = some b ∧ j.slotsFull b.values (r.groupOf b) = true
  s.hw.redSec = some r → x.inst i.seq = some i → n.toNat = i.seq →
  (∀ b pre post, r.buckets[i.bucket]? = some b → x.insts = pre ++ i :: post → ready i → (∀ j ∈ pre, ¬ ready j ∧ j.seq ≠ i.seq) →
    let g := r.groupOf b
    let len := shardLen b.values g.m g.self
    let first := g.self * shardCut b.values g.m
    let slot (k p : Nat) : W32 := ((nget none i.slots k).getD []).getD p 0
    ∃ t j v, exec (.shardReduced e n) s = .next t ∧ (t.hw.engine e.val).inst i.seq = some j ∧ j.sum = some v ∧
      j.res = putValues i.res first v ∧ j.delivered = (b.shardMode || decide (j.res.length = b.values) || i.delivered) ∧
      ((∀ k < g.m, ((nget none i.slots k).getD []).length = len) → v.length = len ∧
        ∀ p < len, v.getD p 0 = (List.range (g.m - 1)).foldl (fun a k => fadd a (slot (k + 1) p)) (slot 0 p)) ∧
      (let a := b.dest.toNat + first * 4
       b.shardMode = true → b.bellows = false → s.hw.ownRank (addrRank a) = true →
        s.hw.spanStatus s.hw.spn.rank.toNat (addrOff a) (4 * v.length) = 0 → addrOff a % pageBytes + 4 * v.length ≤ pageBytes →
        t.hw.mem = nputList 0 (match i.buf with
          | some f => nputList 0 s.hw.mem (r.place e.val f 3 first) (wordBytes v)
          | none => s.hw.mem) (addrOff a) (wordBytes v))) ∧
  (∀ b, r.buckets[i.bucket]? = some b → b.bellows = false → i.delivered = true → i.complete = false →
    ∃ t, exec (.resultWriteAck e n) s = .next t ∧ (t.hw.engine e.val).inst i.seq = some { i with
      complete := true, status := 0, doneStroke := s.hw.stk.num.toNat }) ∧
  (i.complete = true → x.nextPost = n → (x.cplHead - x.cplTail).toNat < r.cplEntries →
    ∃ t, exec (.completionPost e) s = .next t ∧ (t.hw.engine e.val).nextPost = n + 1 ∧
      (t.hw.engine e.val).cplHead = x.cplHead + 1 ∧ (t.hw.engine e.val).doneCnt = x.doneCnt + 1 ∧
      ((∀ b, r.buckets[i.bucket]? = some b → b.notify = false) →
        t.hw.mem = nputList 0 s.hw.mem (bonded e.val 0 (r.cplOff + x.cplHead.toNat % r.cplEntries * 32))
          (complRecord s.hw.draws i))) ∧
  (i.complete = false → s.hw.barOpen = true →
    ∃ t, exec (.redEngAbort e n) s = .next t ∧ (t.hw.engine e.val).inst i.seq = some { i with abort := true } ∧
      t.hw.mem = s.hw.mem))

/-! ## Leash links -/

/-- The states of a port: LNK_CTL enables, disables, retires and restores it, and an UP port tells its partner of both; lock
and its absence move it and send HELLO, a retrain and a fall to DOWN are counted and flagged, and HELLO brings it UP,
resumes it or fails it; a HELLO whose CRC fails only counts. Frames of a port that carries traffic: a DATA frame in sequence
is taken into its message, one out of sequence or with a failed CRC is discarded with a NAK and its credit owed;
acknowledgements release frames and bring credit, and a control frame with a failed CRC only counts; a NAK and the replay
timer send what is left again, as credit allows, and the eighth resend in a row without progress retrains the port
(R295-R300). -/
def Obligations.LinkStatesAndFrames : Prop :=
  (∀ (s : State) (p : PortIx) (m : HelloMsg),
  let x := s.hw.port p.val
  let h : Hw := { s.hw with tst := { s.hw.tst with armedKey := false } }
  let goes (h : Hw) (y : Port) : Host.Outcome State Fault Refusal := .next { s with hw := h.setPort p.val y }
  let hello (retiring resume : Bool) : List Byte :=
    let m := { s.hw.ownHello p.val resume with retiring := retiring }
    frameBytes (ctrlHead frHello 0 m.head (helloPayload m)) (helloPayload m)
  let becomes (c : Instr) (y : Port) : Prop := ∃ t, exec c s = .next t ∧ t.hw.port p.val = y ∧
    (∀ q, q ≠ p.val → t.hw.port q = s.hw.port q) ∧
    t = { s with hw := { s.hw with ports := t.hw.ports, tst := t.hw.tst } }
  (s.hw.barOpen = true →
    (x.state = .disabled → exec (.linkEnable p) s = goes h { x with enable := true, state := .training }) ∧
    (∃ t, exec (.linkDisable p) s = .next t ∧ (t.hw.port p.val).state = .disabled ∧ (t.hw.port p.val).enable = false ∧
      (t.hw.port p.val).replay = [] ∧ (t.hw.port p.val).outQ = [] ∧ (t.hw.port p.val).egress = [] ∧ ∀ q, q ≠ p.val → t.hw.port q = s.hw.port q) ∧
    (x.state = .up → becomes (.linkRetire p)
      { x with retire := true, state := .retiring, ctrlOut := hello true false :: x.ctrlOut }) ∧
    (x.state = .retiring → becomes (.linkRetireCancel p)
      { x with retire := false, state := .up, ctrlOut := hello false false :: x.ctrlOut })) ∧
  (x.state = .training →
    becomes (.linkLock p) { x with state := .negotiating, ctrlOut := hello x.retire false :: x.ctrlOut } ∧
    exec (.trainingTimeout p) s = goes s.hw { x with state := .failed }) ∧
  (x.state = .retraining → becomes (.linkLock p) { x with ctrlOut := hello x.retire true :: x.ctrlOut }) ∧
  (x.state = .down → x.enable = true → exec (.downRetry p) s = goes s.hw { x with state := .training }) ∧
  (x.state = .up →
    let down (y : Port) : Port := { y with state := .retraining, version := 0, retrains := y.retrains + 1, resends := 0 }
    let word : Port := { x with fecUncorrectable := satInc x.fecUncorrectable }
    (∃ t, exec (.lossOfLock p) s = .next t ∧ t.hw.port p.val = down x ∧ t.hw.evt.flags.getLsbD 25 = true) ∧
    exec (.fecUncorrectable p false) s = goes s.hw word ∧
    ∃ t, exec (.fecUncorrectable p true) s = .next t ∧ t.hw.port p.val = down word ∧ t.hw.evt.flags.getLsbD 25 = true) ∧
  (x.state = .retraining →
    let fallen (t : State) : Prop := (t.hw.port p.val).state = .down ∧ (t.hw.port p.val).replay = [] ∧
      (t.hw.port p.val).downs = x.downs + 1 ∧ t.hw.evt.flags.getLsbD 26 = true ∧
      (x.forwarded = true → t.hw.spn.failover = true)
    (∃ t, exec (.retrainTimeout p) s = .next t ∧ fallen t) ∧
    (m.crcOk = true →
      (m.serial ≠ x.partnerSerial → ∃ t, exec (.hello p m) s = .next t ∧ fallen t) ∧
      (m.serial = x.partnerSerial → m.resume = true → ∃ t, exec (.hello p m) s = .next t ∧
        (t.hw.port p.val).state = .up ∧ (t.hw.port p.val).version = 1 ∧
        t = { s with hw := { s.hw with ports := t.hw.ports } }))) ∧
  (x.state = .negotiating → m.crcOk = true →
    (m.versions.getLsbD 0 = true → roleOk p.val m.role = true → ∃ t, exec (.hello p m) s = .next t ∧
      (t.hw.port p.val).state = .up ∧ (t.hw.port p.val).version = 1 ∧
      (t.hw.port p.val).partnerSerial = m.serial ∧ (t.hw.port p.val).delayNs = m.delayNs ∧ (t.hw.port p.val).rxNext = 0 ∧
      t = { s with hw := { s.hw with ports := t.hw.ports } }) ∧
    (m.versions.getLsbD 0 = false → exec (.hello p m) s = goes s.hw { x with state := .failed })) ∧
  (m.crcOk = true → x.state = .up → exec (.hello p m) s = goes s.hw { x with partnerRetiring := m.retiring }) ∧
  (m.crcOk = false → x.listens = true → exec (.hello p m) s = goes s.hw { x with errCrc := x.errCrc + 1 })) ∧
  (∀ (s : State) (p : PortIx) (fr : DataFrame) (id : IdleFrame) (next : BitVec 12),
  let x := s.hw.port p.val
  let whole := (if fr.som then [] else nget [] x.assembly fr.vc.val) ++ fr.payload
  let counts (c : Instr) : Prop := exec c s = .next { s with hw := s.hw.setPort p.val { x with errCrc := x.errCrc + 1 } }
  x.carries = true →
  (s.hw.tst.injArm = false →
    (fr.crcOk = true → fr.seq = x.rxNext → ∃ t, exec (.dataFrame p fr) s = .next t ∧
      (t.hw.port p.val).rxNext = x.rxNext + 1 ∧ (t.hw.port p.val).nakOut = false ∧
      nget [] (t.hw.port p.val).assembly fr.vc.val = (if fr.eom then [] else whole) ∧
      (fr.eom = false → (t.hw.port p.val).inbox = x.inbox ∧ t.hw.mem = s.hw.mem) ∧
      (fr.eom = true → p.val ≥ 48 → kindOk p.val (parseLMsg fr.vc.val whole).kind = true →
        (t.hw.port p.val).inbox = x.inbox ++ [(fr.vc.val, whole)])) ∧
    (fr.crcOk = true → fr.seq ≠ x.rxNext → ∃ t, exec (.dataFrame p fr) s = .next t ∧
      (t.hw.port p.val).rxNext = x.rxNext ∧ (t.hw.port p.val).nakOut = true ∧ (t.hw.port p.val).inbox = x.inbox ∧
      (t.hw.port p.val).assembly = x.assembly ∧
      nget 0 (t.hw.port p.val).creditsDue fr.vc.val = nget 0 x.creditsDue fr.vc.val + 1) ∧
    (fr.crcOk = false → ∃ t, exec (.dataFrame p fr) s = .next t ∧ (t.hw.port p.val).errCrc = x.errCrc + 1 ∧
      (t.hw.port p.val).rxNext = x.rxNext ∧ (t.hw.port p.val).nakOut = true ∧ (t.hw.port p.val).inbox = x.inbox ∧
      nget 0 (t.hw.port p.val).creditsDue fr.vc.val = nget 0 x.creditsDue fr.vc.val + 1)) ∧
  (id.crcOk frIdle 0 [] = true → ∃ t, exec (.idleFrame p id) s = .next t ∧
    dropAcked id.ack x.replay <+: (t.hw.port p.val).replay ∧ (t.hw.port p.val).rxNext = x.rxNext ∧
    t = { s with hw := s.hw.setPort p.val (t.hw.port p.val) } ∧
    (x.outQ = [] → (t.hw.port p.val).replay = dropAcked id.ack x.replay ∧
      (x.again = 0 → nget 0 (t.hw.port p.val).txCredit id.creditVc.val = nget 0 x.txCredit id.creditVc.val + id.credit.toNat))) ∧
  (id.crcOk frNak next.toNat [] = true → ∃ t, exec (.nakFrame p next id) s = .next t ∧
    let y := x.takeAck (next - 1) id.creditVc.val id.credit.toNat
    dropAcked (next - 1) x.replay <+: y.replay ∧ (t.hw.port p.val).replay = y.replay ∧
    (x.outQ = [] → y.replay = dropAcked (next - 1) x.replay) ∧ (y.replay = [] → t.hw.port p.val = y) ∧
    (y.replay ≠ [] → y.resends < 7 → t.hw.port p.val = y.resend) ∧
    (y.replay ≠ [] → y.resends ≥ 7 → x.state = .up → (t.hw.port p.val).state = .retraining ∧ t.hw.evt.flags.getLsbD 25 = true)) ∧
  (id.crcOk frIdle 0 [] = false → counts (.idleFrame p id)) ∧
  (id.crcOk frNak next.toNat [] = false → counts (.nakFrame p next id)) ∧
  (s.hw.withholds p.val = false → ∃ t v n, exec (.ackTimer p) s = .next t ∧ v < 4 ∧
    (∀ w, w < 4 → nget 0 x.creditsDue w ≤ nget 0 x.creditsDue v) ∧ n = min 255 (nget 0 x.creditsDue v) ∧
    (t.hw.port p.val).ctrlOut = frameBytes (ctrlHead frIdle 0
      { ack := x.rxNext - 1, creditVc := Fin.ofNat 4 v, credit := BitVec.ofNat 8 n, crc := 0 } []) [] :: x.ctrlOut ∧
    (t.hw.port p.val).sinceAck = 0 ∧ nget 0 (t.hw.port p.val).creditsDue v + n = nget 0 x.creditsDue v) ∧
  (x.replay ≠ [] →
    (x.resends < 7 → exec (.replayTimeout p) s = .next { s with hw := s.hw.setPort p.val x.resend } ∧
      x.resend.replay = x.replay ∧ x.resend.resends = x.resends + 1) ∧
    (x.resends = 7 → x.state = .up → ∃ t, exec (.replayTimeout p) s = .next t ∧
      (t.hw.port p.val).state = .retraining ∧ t.hw.evt.flags.getLsbD 25 = true)))

/-! ## Span messages -/

/-- A request that reaches its module with a usable way back leaves the port's buffer and is answered: a load with the bytes
of memory, a store when it has written them, either with the status of an access that fails, an atomic with the old value
when it is applied and recorded, a repeated atomic with its recorded result and nothing applied, one for a dead rank with
TARGET_DEAD; what cannot pass is discarded and counted, with LEASH_DROP where the table or the path fails. An answer
completes the request that its tag names, one to an open load of another rank gives its core the data, or the host, all-ones
with TARGET_DEAD when the timeout expires; a SWEEP ends the wait for its rank, after which a request lost a second time
completes TARGET_DEAD, as one does whose rank's sweep times out; a fence that times out completes (the model's choice of its
status, log 218); a target answers a SWEEP (R305, R310, R312-R314, R316). -/
def Obligations.SpanTraffic : Prop :=
  (∀ (s : State) (p : PortIx) (m : SpanReqMsg) (tb : Tables) (node q : Nat) (d : Bool),
  let off := addrOff m.address.toNat
  let n := m.size.toNat + 1
  let status (k : Nat) : Nat := s.hw.spanStatus m.srcRank.toNat off k
  let h := s.hw.popInbox p.val 0
  let msg (status : Nat) (bs : List Byte) : LMsg := rspMsg s.hw m.srcRank m.tag m.engine.toNat status false bs
  let answers (status : Nat) (bs : List Byte) (mem : NMap Byte) : Prop := ∃ t, exec (.spanReq p m) s = .next t ∧
    t.hw.mem = mem ∧ t.hw.port q = { h.port q with egress := (h.port q).egress ++ [(1, (msg status bs).frames, msg status bs)] } ∧
    t.hw.cores = s.hw.cores
  let known := s.hw.spn.journal.find? fun e => decide (e.src = m.srcRank) && decide (e.engine = m.engine.toNat) &&
    decide (e.tag = m.tag)
  (s.hw.tablesOf s.hw.spn.gen = some tb → rankEntry tb m.srcRank = (node, true, d) → s.hw.linkTo tb node = some q →
    (s.hw.ingress 0 m.destRank m.gen m.ttl.toNat = .dead → answers 1 [] s.hw.mem) ∧
    (s.hw.ingress 0 m.destRank m.gen m.ttl.toNat = .own → s.hw.regionOff off = false →
      badRequest m.op.toNat m.address.toNat 0 n = false →
      (m.op = 0 → status n = 0 → answers 0 (s.hw.memRead off n) s.hw.mem) ∧
      (m.op = 0 → status n ≠ 0 → s.hw.inPool off n = false →
        answers (status n) (List.replicate n 0xFF) s.hw.mem) ∧
      (m.op = 1 → m.data.length = n → status n = 0 → answers 0 [] (nputList 0 s.hw.mem off m.data)) ∧
      (m.op = 1 → m.data.length = n → status n ≠ 0 → s.hw.inPool off n = false → answers (status n) [] s.hw.mem) ∧
      (isAtomic m.op.toNat = true →
        (∀ e, known = some e → exec (.spanReq p m) s =
          .next { s with hw := h.sendPort q (msg 0 (leBytes 8 e.result.toNat)) }) ∧
        (known = none → s.hw.spn.horizon = none → s.hw.spn.journal.length < journalMax → status (atomicBytes m.op.toNat) = 0 →
          let k := atomicBytes m.op.toNat
          let old : W64 := BitVec.ofNat 64 (s.hw.memNat off k)
          let new := atomicResult m.op.toNat old m.operand m.compare
          let e : JEntry := { src := m.srcRank, engine := m.engine.toNat, tag := m.tag, result := old, arrival := s.hw.stk.time }
          answers 0 (leBytes 8 old.toNat) (nputList 0 (nputList 0 s.hw.mem off (leBytes k new.toNat))
            (s.hw.spn.journalBase.toNat + s.hw.spn.jCount % journalMax * 32) e.bytes) ∧
          ∃ t, exec (.spanReq p m) s = .next t ∧ t.hw.spn.journal = s.hw.spn.journal ++ [e])))) ∧
  (∀ r, s.hw.ingress 0 m.destRank m.gen m.ttl.toNat = .drop r → ∃ t, exec (.spanReq p m) s = .next t ∧
    t.hw.spn.dropCnt = s.hw.spn.dropCnt + 1 ∧ (r = true → t.hw.evt.flags.getLsbD 29 = true)) ∧
  (∀ k, s.hw.ingress 0 m.destRank m.gen m.ttl.toNat = .forward k → ∃ t, exec (.spanReq p m) s = .next t ∧
    (t.hw.port k).forwarded = true ∧ t.hw.mem = s.hw.mem ∧ t.hw.spn = s.hw.spn)) ∧
  (∀ (s : State) (e : Fin 96) (c : CoreId) (r : SpanReq) (data : List Byte) (old : W64)
    (rank : W16) (ep tag : W32) (status : BitVec 4),
  let x := s.hw.spanEng e.val
  let y := s.coreOf c
  let awaited := ∃ w ∈ x.sweeps, w.rank = rank.toNat ∧ w.epoch = ep.toNat
  let rest := x.reqs.filter fun q => decide (q.order ≠ r.order)
  let gone (t : State) : Prop := ∀ q ∈ (t.hw.spanEng e.val).reqs, q.order ≠ r.order
  let swept (t : State) : Prop := ∀ w ∈ (t.hw.spanEng e.val).sweeps, ¬(w.rank = rank.toNat ∧ w.epoch = ep.toNat)
  let dead (t : State) : Prop := t.hw.spn.deadCnt = s.hw.spn.deadCnt + 1 ∧ t.hw.evt.flags.getLsbD 27 = true ∧
    (t.coreOf c).pc = y.pc
  (x.byTag tag = some r →
    (∃ t, exec (.spanRsp e tag status data old) s = .next t ∧ gone t) ∧
    (∃ t, exec (.spanTimeout e (.request tag)) s = .next t ∧ gone t) ∧
    (r.core = c.toNat → r.op = 0 → s.hw.spn.deadLoans = [] → s.hw.ownRank (addrRank r.address) = false →
      (∀ q ∈ x.reqs, q.taken = false ∨ q.left = true) → (∀ f ∈ x.fences, r.order ∉ f.covers ∧ f.covers ≠ []) →
      (∃ t, exec (.spanRsp e tag 0 data old) s = .next t ∧ (t.hw.spanEng e.val).reqs = rest ∧
        (t.coreOf c).sram = nputList 0 (nput 0 y.sram (r.cmdAddr + 13) 0) r.localAddr (padTo r.size data) ∧
        t.hw.mem = s.hw.mem) ∧
      ∃ t, exec (.spanTimeout e (.request tag)) s = .next t ∧ (t.hw.spanEng e.val).reqs = rest ∧ dead t ∧
        (t.coreOf c).sram = nputList 0 (nput 0 y.sram (r.cmdAddr + 13) 1) r.localAddr (List.replicate r.size 0xFF)) ∧
    (r.core = hostCore → r.op = 0 → (∀ q ∈ x.reqs, q.taken = false ∨ q.left = true) →
      ∃ t, exec (.spanRsp e tag 0 data old) s = .next t ∧ t.hw.readData = padTo r.size data)) ∧
  (awaited →
    (∃ t, exec (.sweep e rank ep) s = .next t ∧ swept t) ∧
    (∃ t, exec (.spanTimeout e (.sweep rank ep)) s = .next t ∧ swept t) ∧
    (x.reqs = [r] → x.fences = [] → s.hw.spn.deadLoans = [] → r.core = c.toNat → r.left = true → r.op = 1 → r.via = rank →
      s.hw.ownRank (addrRank r.address) = false →
      (r.reissued = true → r.epoch ≤ ep.toNat → ∃ t, exec (.sweep e rank ep) s = .next t ∧ dead t ∧
        (t.hw.spanEng e.val).reqs = [] ∧ (t.coreOf c).sram = nput 0 y.sram (r.cmdAddr + 13) 1) ∧
      ∃ t, exec (.spanTimeout e (.sweep rank ep)) s = .next t ∧ dead t ∧ (t.hw.spanEng e.val).reqs = [] ∧
        (t.coreOf c).sram = nput 0 y.sram (r.cmdAddr + 13) 1)) ∧
  (∀ f pre post, x.fences = pre ++ f :: post → f.core = c.toNat →
    (∀ g ∈ pre ++ post, g.covers ≠ [] ∧ ¬(g.core = c.toNat ∧ g.order = f.order)) →
    ∃ t, exec (.spanTimeout e (.fence c f.order)) s = .next t ∧
    (t.hw.spanEng e.val).fences = pre ++ post ∧ (t.hw.spanEng e.val).reqs = x.reqs ∧
    (t.coreOf c).sram = nput 0 y.sram (f.cmdAddr + 13) (BitVec.ofNat 8 (max f.worst 1))) ∧
  (∀ tb node d q, ¬awaited → s.hw.tablesOf s.hw.spn.gen = some tb →
    rankEntry tb rank = (node, true, d) → s.hw.linkTo tb node = some q →
    exec (.sweep e rank ep) s = .next { s with
      hw := (s.hw.popAny 2 (isSweep e.val rank)).sendPort q (rspMsg s.hw rank 0 e.val 0 true []) }))

/-- ACT and ATTN messages of this stroke are delivered over the fabric to their destination and kept until the beat commits,
a partial joins its merge, one that is ABSENT as nothing; a message of another stroke is discarded, counted and flagged; an
EVENT message is stamped and presented to the intake. SPN_TBL_CTL.commit starts a load of the shadow tables, whose end
leaves the 384 KiB at their base as the generation to come; a BAR4 read that nothing holds back answers the bytes of this
module's memory, a write puts them there, and no other byte changes (R42, R199, R303, R305-R307, R373, R393). -/
def Obligations.PeerMessagesAndWindows : Prop :=
  (∀ (s : State) (p : PortIx) (m : PeerMsg) (part : AttnPart) (src : W16)
    (en : List Byte),
  let delivered (t : State) := ∃ k, t.hw.fabric = s.hw.fabric ++ [k] ∧ k.payload = m.payload ∧ k.dest = m.dest.toNat ∧
    k.destEndpoint = m.destEndpoint ∧ k.channel = m.channel.toNat ∧ t.hw.cores = s.hw.cores ∧
    (s.hw.stk.workStroke, s.hw.stk.beat, k) ∈ (t.hw.port p.val).kept
  let skewed (t : State) := t.hw.fabric = s.hw.fabric ∧ t.hw.spn.skewCnt = s.hw.spn.skewCnt + 1 ∧
    t.hw.evt.flags.getLsbD 30 = true
  let merges (t : State) (e : Nat × Nat × Nat × Option Nat) := t.hw.kv.partials = s.hw.kv.partials ++ [e]
  p.val < 48 →
  (m.stroke.toNat = s.hw.stk.num.toNat % 4 →
    (∃ t, exec (.act p m) s = .next t ∧ delivered t ∧ t.hw.mem = s.hw.mem ∧ t.hw.spn = s.hw.spn) ∧
    (∃ t, exec (.attn p m part) s = .next t ∧ delivered t) ∧
    ((s.hw.running.bind fun l => l.img.kv).isSome = true → ∀ tok slot mb,
      (∀ bs hd, part = .partialOf tok hd slot mb bs →
        ∃ t, exec (.attn p m part) s = .next t ∧ merges t (tok.toNat, slot.toNat, mb.toNat, some hd.toNat)) ∧
      (part = .absent tok slot mb → ∃ t, exec (.attn p m part) s = .next t ∧ merges t (tok.toNat, slot.toNat, mb.toNat, none)))) ∧
  (m.stroke.toNat ≠ s.hw.stk.num.toNat % 4 →
    (∃ t, exec (.act p m) s = .next t ∧ skewed t) ∧ ∃ t, exec (.attn p m part) s = .next t ∧ skewed t) ∧
  (en.length = 64 → entryCrcOk en = true → ∃ t v, exec (.event p src en) s = .next t ∧ t.hw.evu.fresh = s.hw.evu.fresh ++ [v] ∧
    v.entry = en ∧ v.rank = src ∧ v.qp = none ∧ v.arrival = s.hw.stk.time ∧ v.ord = s.hw.evu.nextOrd ∧ t.hw.qps = s.hw.qps)) ∧
  (∀ (s : State) (n : BitVec 36) (off : BitVec 36) (len : Nat) (bs : List Byte),
  let a := s.hw.windowAddr off.toNat
  let frame (t : State) := t.hw.cores = s.hw.cores ∧ t.hw.spn = s.hw.spn ∧ t.hw.mbx = s.hw.mbx
  (s.hw.barOpen = true → exec (.tableCommit n) s = .next { s with hw := { s.hw with
    tst := { s.hw.tst with armedKey := false }
    spn := { s.hw.spn with tblStroke := n, commit := true, loading := true, loaded := false } } }) ∧
  (s.hw.spn.loading = true → nwf 0 s.hw.mem = true → ∃ t, exec .tableLoadDone s = .next t ∧ t.hw.spn.loaded = true ∧
    t.hw.spn.loading = false ∧ t.hw.spn.active = s.hw.spn.active ∧ t.hw.mem = s.hw.mem ∧
    ∀ i, i < 0x60000 → nget 0 t.hw.spn.shadowCopy i = nget 0 s.hw.mem (s.hw.spn.tblBase.toNat + i)) ∧
  (s.hw.glb.field.getLsbD 0 = true → s.hw.inD0 = true → s.hw.windowFree a = true →
    (0 < len → s.hw.spanStatus s.hw.spn.rank.toNat (addrOff a) len = 0 → addrOff a % pageBytes + len ≤ pageBytes →
      ∃ t, exec (.bar4Read off len) s = .next t ∧ t.hw.readData = s.hw.memRead (addrOff a) len ∧ t.hw.mem = s.hw.mem ∧
        frame t) ∧
    (0 < bs.length → s.hw.spanStatus s.hw.spn.rank.toNat (addrOff a) bs.length = 0 → addrOff a % pageBytes + bs.length ≤ pageBytes →
      ∃ t, exec (.bar4Write off bs) s = .next t ∧ t.hw.mem = nputList 0 s.hw.mem (addrOff a) bs ∧ frame t)))

/-! ## Tongs -/

/-- Requests of one page to a queue with room, whatever orders are open. MOVE and PREFETCH make a HOME page MOVING and start
its copy into the room found, CLONE copies into an UNMAPPED page, PLACE takes room for one, EVICT is held and RELEASE noted
for the boundary; orders of other requests stay, and what no request moves keeps its home. A round of a copy ends once its
pieces have been copied: clean, or goes on with the pieces written meanwhile, raised at the queue again, at most four times,
after which the page is HOME at its source and the order waits for the boundary; a copy to host memory waits while Bus
Master Enable is 0; a home in flash that cannot be read is LOST; a refetch out of time is uncontained (R278, R279, R281,
R282, R284, R286-R289, R337, R374). -/
def Obligations.TongsOrders : Prop :=
  (∀ (s : State) (q : Fin 96) (r : TongsReq) (l : W64),
  let h := s.hw
  let p := reqPage r
  let src := reqPage r
  let dst := bits r.w1.toNat 61 31
  let f := rBits r 35 30
  let w := rBits r 36 36
  let tier := rBits r 7 5
  let accepted (t : State) : Prop := t.hw.tng.nextReq = h.tng.nextReq + 1 ∧
    ∀ x ∈ h.tng.orders, x.req ≠ h.tng.nextReq → x ∈ t.hw.tng.orders
  let one (t : State) (pg : Nat) (k : OrdKind) (ph : OrdPhase) (l : W64) : Prop := accepted t ∧ ∃ o ∈ t.hw.tng.orders,
    o.page = pg ∧ o.req = h.tng.nextReq ∧ o.queue = q.val ∧ o.kind = k ∧ o.phase = ph ∧ o.location = l
  let kept (p : Nat) : Prop := ∀ sec, h.tng.sec = some sec → p < sec.homePages
  let movable (g : Home) : Prop := g.state = .home ∧ g.fixed = false ∧ g.pinned = false
  h.queueLen q.val < 1024 → (∀ g, h.deepOff g = false) → h.mayMaster = true →
  (reqCount r = 1 → 1 ≤ tier → tier ≤ 4 → (tier = 1 → f < 48) →
    (kept p → movable (h.home p) → (h.home p).tier ≠ tier → h.pageUsable p = false → (tier = 1 → h.mergeable p f w = false) →
      h.findRoom tier f w = some l →
      ∃ t, exec (.move q r) s = .next t ∧ one t p .move (.copying 0 []) l ∧
        t.hw.home p = { h.home p with state := .moving, destTier := tier } ∧ ∀ g, g ≠ p → t.hw.home g = h.home g) ∧
    (tier = 1 → h.mergeable p f w = true → ∃ t, exec (.move q r) s = .next t ∧ t.hw.tng.merges = h.tng.merges + 1 ∧
      t.hw.tng.orders = h.tng.orders ∧ t.hw.tng.homes = h.tng.homes) ∧
    ((h.home p).state = .unmapped → h.pageOk p = true → h.underOrder p = false → h.findRoom tier f w = some l →
      ∃ t, exec (.place q r) s = .next t ∧ one t p .place (.clean 0) l ∧ t.hw.tng.homes = h.tng.homes ∧
        t.hw.mem = h.mem)) ∧
  (∀ x pg, h.resRec (rBits r 15 8) (rBits r 29 16) = some x → x.valid = true → x.pages = [pg] → kept pg → movable (h.home pg) →
    (h.home pg).tier ≠ 1 → h.underOrder pg = false → h.findRoom 1 x.field x.wafer = some l →
    ∃ t, exec (.prefetch q r) s = .next t ∧ one t pg .move (.copying 0 []) l ∧ (t.hw.home pg).state = .moving) ∧
  (r.w0.getLsbD 53 = true → f < 48 → (h.home src).state = .home → (h.home dst).state = .unmapped → h.pageOk dst = true →
    h.underOrder dst = false → h.findRoom 1 f w = some l →
    ∃ t, exec (.clone q r) s = .next t ∧ one t dst (.clone src) (.copying 0 []) l ∧ t.hw.tng.homes = h.tng.homes) ∧
  (reqPages r ≠ [] →
    (rBits r 29 16 = 0x3FFF → tier ≤ 4 → ∃ t, exec (.evict q r) s = .next t ∧ accepted t ∧
      t.hw.tng.orders = h.tng.orders ++ (reqPages r).map (fun p => {
        queue := q.val, req := h.tng.nextReq, input := r.input.val, page := p, kind := .evict (r.w0.getLsbD 4)
        destTier := tier, destField := f, destWafer := w, location := 0, phase := .held, expert := none }) ∧
      t.hw.tng.homes = h.tng.homes ∧ t.hw.mem = h.mem) ∧
    ∃ t, exec (.release q r) s = .next t ∧ t = { s with hw := { h with tng := t.hw.tng } } ∧ accepted t ∧
      t.hw.tng.releases = h.tng.releases ++ (reqPages r).map fun p => (p, h.tng.nextReq))) ∧
  (∀ (s : State) (q : Fin 96) (pg : BitVec 31) (o : Order) (n : Nat) (d : List Nat),
  let kept (p : Nat) : Prop := ∀ sec, s.hw.tng.sec = some sec → p < sec.homePages
  let now (o' : Order) : List Order := s.hw.tng.orders.map fun x => if x = o then o' else x
  (o ∈ s.hw.tng.orders → o.queue = q.val → o.page = pg.toNat → o.phase = .copying n d →
    (∀ x ∈ s.hw.tng.orders, x.queue = q.val → x.page = pg.toNat → x.phase.inProgress = true → x = o) →
    (o.todo ≠ [] → exec (.moveCopyDone q pg) s = .next s) ∧
    (s.hw.orderOff o = false → o.todo = [] →
      (d = [] → n ≤ 4 → exec (.moveCopyDone q pg) s =
        .next { s with hw := { s.hw with tng := { s.hw.tng with orders := now { o with phase := .clean n } } } }) ∧
      (d ≠ [] → n < 4 → exec (.moveCopyDone q pg) s = .next { s with hw :=
        ({ s.hw with tng := { s.hw.tng with orders := now { o with phase := .copying (n + 1) [], todo := d } } }).raisePieces o d.length }) ∧
      (d ≠ [] → n ≥ 4 → kept o.page → o.kind = .move → (s.hw.home o.page).state = .moving →
        (∀ x ∈ s.hw.tng.orders, x.page = o.page → x = o) →
        ∃ t, exec (.moveCopyDone q pg) s = .next t ∧ t.hw.tng.orders = now { o with phase := .held } ∧
          t.hw.home o.page = { s.hw.home o.page with state := .home, destTier := 0 } ∧
          t.hw.tng.abandonCnt = s.hw.tng.abandonCnt + 1)) ∧
    (s.hw.mayMaster = false → o.destTier = 4 → exec (.moveCopyDone q pg) s = .next s)) ∧
  (∀ (lp : W32) (p : Nat) (g : Home), (p, g) ∈ s.hw.tng.homes → s.hw.home p = g → g.tier = 2 →
    g.state = .home ∨ g.state = .moving → g.location.toNat = lp.toNat →
    (∀ x ∈ s.hw.tng.homes, x.2.tier = 2 → x.2.state ≠ .unmapped → x.2.location.toNat = lp.toNat → x.1 = p) →
    (∃ t, exec (.flashUncorrectable lp) s = .next t ∧ t.hw.tng.lost = true ∧ t.hw.evt.flags.getLsbD 23 = true) ∧
    (kept p → g.state = .home → g.cls ≠ 1 → g.cls ≠ 2 → g.cls ≠ 3 →
      ∃ t, exec (.flashUncorrectable lp) s = .next t ∧ t.hw.home p = { g with state := .lost } ∧
        t.hw.tng.lostCnt = s.hw.tng.lostCnt + 1)) ∧
  (∀ k, (pg.toNat, k) ∈ s.hw.flt.refetch → (∀ x ∈ s.hw.flt.refetch, x.1 = pg.toNat → x = (pg.toNat, k)) →
    ∃ t, exec (.refetchTimeout pg) s = .next t ∧
      t.hw.flt.refetch = s.hw.flt.refetch.filter (fun x => decide (x ≠ (pg.toNat, k))) ∧
      t.hw.flt.uncontained = true ∧ t.hw.evt.flags.getLsbD 32 = true))

/-- Requests of several pages, or of an expert's, are taken whole under one number into a queue with room, each page judged
on its own; one to a full queue is discarded and counted (R281, R282, R284). -/
def Obligations.TongsQueues : Prop := ∀ (s : State) (q : Fin 96) (r : TongsReq),
  let h := s.hw
  let tier := rBits r 7 5
  let dropped (k : Instr) : Prop := ∃ t, exec k s = .next t ∧ t.hw.tng.dropped = satInc h.tng.dropped ∧
    t.hw.tng.orders = h.tng.orders ∧ t.hw.tng.homes = h.tng.homes ∧ t.hw.tng.nextReq = h.tng.nextReq ∧ t.hw.mem = h.mem
  let taken (k : Instr) : Prop := ∃ t, exec k s = .next t ∧ t.hw.tng.nextReq = h.tng.nextReq + 1 ∧
    t.hw.tng.dropped = h.tng.dropped ∧ t.hw.cores = h.cores ∧ t.hw.stk = h.stk
  reqPages r ≠ [] → 1 ≤ tier → tier ≤ 4 → rBits r 35 30 < 48 → rBits r 29 16 = 0x3FFF →
  (h.queueLen q.val < 1024 →
    (tier ≠ 1 → taken (.move q r)) ∧ taken (.place q r) ∧ taken (.evict q r) ∧ taken (.release q r)) ∧
  (h.queueLen q.val ≥ 1024 → (tier ≠ 1 → dropped (.move q r)) ∧ dropped (.place q r) ∧ dropped (.evict q r) ∧
    dropped (.release q r))

/-! ## Queue pairs and the event unit -/

/-- QPC_CFG enables a queue pair with its ring sizes and empty rings, and disables it. The entry at an enabled queue pair's
head: a good one is presented to the intake as an event, one whose CRC fails completes at once with status 2 at the ring's
tail (R388, R389, R391, R394). -/
def Obligations.QueuePairEntries : Prop :=
  (∀ (s : State) (q : W16) (v : W64),
  let h : Hw := { s.hw with tst := { s.hw.tst with armedKey := false } }
  let x := s.hw.qp q.toNat
  let is (k : Hw) (y : Qp) : Host.Outcome State Fault Refusal := .next { s with hw := k.setQp q.toNat y }
  s.hw.barOpen = true →
  (x.enable = false → v.getLsbD 0 = true → within (bits v.toNat 6 2) 6 16 = true → within (bits v.toNat 11 7) 6 16 = true →
    exec (.qpcCfgWrite q v) s = is h { x with
      enable := true, irq := v.getLsbD 1, vector := BitVec.ofNat 11 (bits v.toNat 22 12)
      sqLog := BitVec.ofNat 5 (bits v.toNat 6 2), cqLog := BitVec.ofNat 5 (bits v.toNat 11 7)
      aliveInit := BitVec.ofNat 16 (bits v.toNat 38 23), expected := BitVec.ofNat 16 (bits v.toNat 38 23)
      sqHead := 0, sqTail := 0, cqTail := 0, cqHead := 0, errCount := 0, inCnt := 0, outCnt := 0
      stamps := [], waiting := [], cplFull := false, irqStroke := none }) ∧
  (x.enable = true → v.getLsbD 0 = false → ∃ t, exec (.qpcCfgWrite q v) s = .next t ∧ (t.hw.qp q.toNat).enable = false ∧
    (t.hw.qp q.toNat).sqHead = x.sqHead ∧ (t.hw.qp q.toNat).waiting = [])) ∧
  (∀ (s : State) (q : W16),
  let x := s.hw.qp q.toNat
  let idx := x.sqHead.toNat
  let e := s.hw.hostRead (x.sqBase.toNat + idx % x.sqSize * 64) 64
  x.enable = true → s.hw.mayMaster = true → s.hw.runs = true → x.waiting = [] → x.sqHead ≠ x.sqTail →
  (entryCrcOk e = true → BitVec.ofNat 16 (at' e 2 2) = x.expected → at' e 0 1 = 1 →
    ∃ t v, exec (.sqEntryTake q) s = .next t ∧ (t.hw.qp q.toNat).sqHead = x.sqHead + 1 ∧
      (t.hw.qp q.toNat).inCnt = x.inCnt + 1 ∧ (t.hw.qp q.toNat).expected = x.expected + 1 ∧
      t.hw.evu.fresh = s.hw.evu.fresh ++ [v] ∧ v.entry = e ∧ v.qp = some q.toNat ∧ v.gap = false ∧ v.sqIndex = x.sqHead ∧
      t.hw.hostMem = s.hw.hostMem ∧ t.hw.mem = s.hw.mem) ∧
  (entryCrcOk e = false → x.cqFill < x.cqSize → x.stamps = [] →
    ∃ t, exec (.sqEntryTake q) s = .next t ∧ (t.hw.qp q.toNat).sqHead = x.sqHead + 1 ∧ (t.hw.qp q.toNat).errCrc = true ∧
      (t.hw.qp q.toNat).cqTail = x.cqTail + 1 ∧ t.hw.evu = s.hw.evu ∧ t.hw.evt.flags.getLsbD 41 = true ∧
      t.hw.hostMem = nputList 0 s.hw.hostMem (x.cqBase.toNat + x.cqTail.toNat % x.cqSize * 32)
        (({ entryCpl idx 2 s.hw.stk.num.toNat with marks := 4 * b2n (!s.hw.stk.syncOk) } : Cpl).bytes x.cqTail.toNat x.cqSize)))

/-- The intake takes the event of the stroke before and sends its record to the first intake core; a result record, a trail
notice and a deferral notice are kept for the stroke, and a result that names no owed event is counted (R43-R46). -/
def Obligations.IntakeAndResults : Prop := ∀ (s : State) (x : StrokeSec) (d : Beat) (e : Ev) (c : Nat) (cs : List Nat)
    (r : ResultRec) (id arrival : W64) (serial : BitVec 58) (hx : FieldIx),
  (s.hw.strokeSec = some x → s.hw.curDesc = some d → d.intake = true → s.hw.flt.held = false → s.hw.flt.stopAll = false →
    s.hw.evu.takenFor = none → s.hw.evu.deferred = [] → s.hw.evu.back = [] → s.hw.evu.fresh = [e] → e.arrivalStroke + 1 = s.hw.stk.workStroke →
    1 ≤ x.intakeCap → x.intakeCores = c :: cs → s.hw.qps = [] →
    ∃ t k, exec .intake s = .next t ∧ t.hw.evu.taken = [{ e with took := s.hw.stk.workStroke }] ∧
      t.hw.evu.owed = s.hw.evu.owed ++ [{ e with took := s.hw.stk.workStroke }] ∧ t.hw.evu.fresh = [] ∧
      t.hw.evu.deferred = [] ∧ t.hw.evu.takenFor = some s.hw.stk.workStroke ∧ t.hw.fabric = s.hw.fabric ++ [k] ∧ k.dest = c ∧
      k.payload = e.record 0 ∧ k.channel = x.intakeChannel ∧ t.hw.stk.deferCnt = s.hw.stk.deferCnt) ∧
  (let owed := s.hw.evu.owed.any fun e => decide (e.qp = some r.qp.toNat) && decide (e.sqIndex = r.sqIndex) &&
     decide (e.took ≤ s.hw.stk.workStroke)
   let again := s.hw.evu.results.any fun z => decide (z.1.1 = s.hw.stk.workStroke) && decide (z.2.1 = r.qp.toNat) && decide (z.2.2.1 = r.sqIndex)
   (owed = true → again = false → exec (.resultRecord [r]) s = .next { s with hw := { s.hw with evu := { s.hw.evu with
     results := s.hw.evu.results ++ [(s.hw.curBeat, r.qp.toNat, r.sqIndex, r.result)] } } }) ∧
   (owed = false ∨ again = true → exec (.resultRecord [r]) s = .next { s with hw := { s.hw with stk := { s.hw.stk with
     postDiscarded := satInc s.hw.stk.postDiscarded } } })) ∧
  exec (.trailNotice id arrival serial hx) s = .next { s with hw := { s.hw with evu := { s.hw.evu with
    trails := s.hw.evu.trails ++ [(s.hw.curBeat, id, arrival, serial.toNat, hx.val)] } } } ∧
  exec (.deferralNotice id arrival) s = .next { s with hw := { s.hw with evu := { s.hw.evu with
    deferrals := s.hw.evu.deferrals ++ [(s.hw.curBeat, id, arrival)] } } }

/-- A set of an event flag leaves the others, counts, and where the flag was 0 and its mask bit is 1 sends its vector; a
vector that may not go is held, and goes when the module may master the bus again (R374, R376, R378, R379). -/
def Obligations.Interrupts : Prop := ∀ (s : State) (n : Nat) (v : Nat), n < 44 →
  let e := s.hw.evt
  let t := s.hw.raise n
  (∀ j, j < 44 → t.evt.flags.getLsbD j = (decide (j = n) || e.flags.getLsbD j)) ∧
  nget 0 t.evt.cnt n = (nget 0 e.cnt n + 1) % 2 ^ 64 ∧ (∀ j, j ≠ n → nget 0 t.evt.cnt j = nget 0 e.cnt j) ∧
  (e.flags.getLsbD n = true ∨ e.mask.getLsbD n = false → t.evt.sent = e.sent ∧ t.evt.pba = e.pba) ∧
  (e.flags.getLsbD n = false → e.mask.getLsbD n = true → (nget 0 e.vec n).toNat = v →
    (s.hw.mayMaster = true → (s.hw.msixDword v 3).getLsbD 0 = false →
      t.evt.sent = e.sent ++ [{ addr := s.hw.msixDword v 1 ++ s.hw.msixDword v 0, data := s.hw.msixDword v 2 }]) ∧
    (s.hw.mayMaster = false ∨ (s.hw.msixDword v 3).getLsbD 0 = true → nget false t.evt.pba v = true ∧ t.evt.sent = e.sent)) ∧
  exec (.busMasterEnableChange false) s = .next { s with hw := { s.hw with evt := { e with busMaster := false } } } ∧
  (s.hw.inD0 = true → s.hw.qps = [] → e.pba = [(v, true)] → (s.hw.msixDword v 3).getLsbD 0 = false →
    exec (.busMasterEnableChange true) s = .next { s with hw := { s.hw with evt := { e with
      busMaster := true, pba := []
      sent := e.sent ++ [{ addr := s.hw.msixDword v 1 ++ s.hw.msixDword v 0, data := s.hw.msixDword v 2 }] } } })

/-! ## Mailbox -/

/-- VERSION answers version 1 and the running firmware's serial and sets the version, an unknown opcode is refused, LOG_READ
answers the bytes of its log within their range; a doorbell while the mailbox works, or is OFFLINE, shows in MBX_STATUS
alone (R343, R381-R386). -/
def Obligations.MailboxCommands : Prop := ∀ (s : State) (tag : W32) (ps : List Byte) (op : W16),
  let h : Hw := { s.hw with tst := { s.hw.tst with armedKey := false } }
  let off := at' ps 8 8
  let n := at' ps 16 4
  (s.hw.barOpen = true → s.hw.mbx.state = .idle → ps.length = 4 → (ps.getD 0 0).getLsbD 0 = true →
    ∃ t serial, exec (.version tag ps) s = .next t ∧ t.hw.mbx.version = 1 ∧
      Answered t 1 tag { data := leBytes 4 1 ++ leBytes 4 0 ++ leBytes 8 serial }) ∧
  (MailboxReady s →
    (op ≠ 1 → ∃ t, exec (.badOpcode tag op) s = .next t ∧ Answered t op.toNat tag (refused 0x31)) ∧
    (paramsOk ps 20 [(1, 7)] = true →
      (at' ps 0 1 = 0 → 1 ≤ n → n ≤ 31 →
        (off + n ≤ s.hw.flt.flashed.toNat → s.hw.flt.flashed.toNat ≤ off + faultLogSize →
          ∃ t, exec (.logRead tag ps) s = .next t ∧ Answered t 0x30 tag { data := s.hw.faultLogBytes off n }) ∧
        (off + n > s.hw.flt.flashed.toNat →
          ∃ t, exec (.logRead tag ps) s = .next t ∧ Answered t 0x30 tag (refused 0x30))) ∧
      (at' ps 0 1 = 1 → 8 ≤ n → n ≤ 4064 → n % 8 = 0 → off + n ≤ s.hw.flt.tFlashed.toNat →
        s.hw.flt.tFlashed.toNat ≤ off + trailLogSize →
        ∃ t, exec (.logRead tag ps) s = .next t ∧ Answered t 0x30 tag { data := s.hw.trailLogBytes off n }))) ∧
  (s.hw.barOpen = true → s.hw.mbx.state ≠ .idle → ∀ k ∈ [Instr.version tag ps, .badOpcode tag op, .admitBillet tag ps,
    .retireBillet tag ps, .epochCommit tag ps, .epochDrop tag ps, .logRead tag ps, .selfTest tag ps, .scrub tag ps,
    .attest tag ps, .fwUpdate tag ps],
    exec k s = .next { s with hw := { h with mbx := { h.mbx with
      lastRefused := if s.hw.mbx.state = .offline then 3 else 1, refused := satInc h.mbx.refused } } })

/-- ADMIT_BILLET of bytes that pass every check arms the billet and answers its digest; a failed check answers its reason
and shows it in STK_ADMIT; RETIRE_BILLET names the stroke at which a running billet leaves, and discards an armed one (R38,
R40, R41, R386, R431). -/
def Obligations.BilletCommands : Prop := ∀ (s : State) (tag : W32) (ps bs : List Byte),
  let addr := at' ps 0 8
  let len := at' ps 8 8
  let act := at' ps 16 8
  MailboxReady s →
  (ps.length = 24 → addr % 64 = 0 → s.hw.stk.state ≠ .shed → (s.hw.readSpan addr len).2 = (bs, 0) →
    (s.hw.admissionFault bs len act = none →
      ∃ t, exec (.admitBillet tag ps) s = .next t ∧ Answered t 0x10 tag { data := shake256 32 bs } ∧
        t.hw.armed = some { addr := addr, length := len, activation := act, digest := shake256 32 bs, img := parseBillet bs } ∧
        t.hw.stk.state = s.hw.stk.state ∧
        t.hw.stk.admStatus = 0 ∧ t.hw.stk.admReason = 0 ∧ t.hw.running = s.hw.running ∧ t.hw.mem = s.hw.mem) ∧
    (∀ r, s.hw.admissionFault bs len act = some r →
      ∃ t, exec (.admitBillet tag ps) s = .next t ∧ t.hw.armed = s.hw.armed ∧ t.hw.stk.state = s.hw.stk.state ∧
        t.hw.stk.admStatus = BitVec.ofNat 8 r.status ∧ t.hw.stk.admReason = BitVec.ofNat 16 r.reason ∧
        t.hw.stk.admBeat = BitVec.ofNat 12 r.beat ∧ t.hw.stk.admField = BitVec.ofNat 6 r.field ∧
        t.hw.mbx.state = .idle ∧ t.hw.mbx.done = true)) ∧
  (paramsOk ps 16 [(9, 7)] = true →
    (at' ps 8 1 = 0 → s.hw.runs = true ∨ s.hw.stk.state = .halted →
      ∃ t, exec (.retireBillet tag ps) s = .next t ∧ Answered t 0x11 tag {} ∧ t.hw.running = s.hw.running ∧
        t.hw.stk = { s.hw.stk with retireAt := some (max (at' ps 0 8) (s.hw.stk.num.toNat + 1)) }) ∧
    (at' ps 8 1 = 1 → s.hw.stk.state = .armed → s.hw.armed.isSome = true →
      ∃ t, exec (.retireBillet tag ps) s = .next t ∧ Answered t 0x11 tag {} ∧ t.hw.armed = none ∧
        t.hw.running = s.hw.running ∧ t.hw.stk.state = (if s.hw.running.isSome && !s.hw.stk.closing then .halted else .idle)) ∧
    (s.hw.stk.state = .idle → s.hw.armed = none → at' ps 8 1 ≤ 1 →
      ∃ t, exec (.retireBillet tag ps) s = .next t ∧ Answered t 0x11 tag (refused 0x33)))

/-- The long commands start: SELF_TEST sends its fields to TEST, SCRUB, ATTEST and FW_UPDATE leave the mailbox BUSY with
their work. The long commands end: a scrub of the logs empties them, a report is written where its buffer holds it, an image
that verifies goes into the slot that does not run; the minimum version rises; PLDM stages an image that verifies and writes
it; the controller tree assigns the endpoint, sets the pace and takes the health (R405, R412-R419). -/
def Obligations.MaintenanceCommands : Prop :=
  (∀ (s : State) (tag : W32) (ps image : List Byte) (st : Nat),
  let busy (t : State) (op : Nat) (l : LongOp) := t.hw.mbx.state = .busy ∧ t.hw.mbx.opcode = BitVec.ofNat 16 op ∧
    t.hw.mbx.tag = tag ∧ t.hw.mbx.long = some l ∧ t.hw.mbx.progDone = 0
  let fs := (List.range 48).filter fun f => bit (at' ps 0 8) f
  let scope := at' ps 0 1
  MailboxReady s →
  (ps.length = 9 → at' ps 0 8 < 2 ^ 48 → fs ≠ [] → (∀ f ∈ fs, f ∉ s.hw.usedFields) →
    at' ps 8 1 = 0 ∨ (at' ps 8 1 = 1 ∧ s.hw.stk.state = .idle ∧ s.hw.tng.homes = []) →
    ∃ t, exec (.selfTest tag ps) s = .next t ∧ busy t 0x40 (.selfTest fs (decide (at' ps 8 1 = 1))) ∧
      t.hw.mbx.progTotal = BitVec.ofNat 32 fs.length ∧
      (∀ f ∈ fs, (t.hw.fld f).state = .test ∧ t.hw.glb.field.getLsbD f = false ∧
        ∀ e ∈ t.hw.cores, coreField e.1 ≠ f) ∧
      (∀ f, f ∉ fs → t.hw.fld f = s.hw.fld f)) ∧
  (ps.length = 1 → scope ≤ 7 → scope ≠ 0 → s.hw.stk.state = .idle → s.hw.flt.tail = s.hw.flt.head →
    s.hw.flt.tTail = s.hw.flt.tHead →
    ∃ t, exec (.scrub tag ps) s = .next t ∧ busy t 0x41 (.scrub scope) ∧
      t.hw.mbx.progTotal = BitVec.ofNat 32 (scrubUnits scope) ∧ t.hw.mem = s.hw.mem) ∧
  (ps.length = 48 → at' ps 0x20 8 % 64 = 0 →
    (s.hw.reportLen ≤ at' ps 0x28 8 → ∃ t, exec (.attest tag ps) s = .next t ∧ t.hw.mem = s.hw.mem ∧
      busy t 0x42 (.attest (sub ps 0 32) (at' ps 0x20 8) (at' ps 0x28 8))) ∧
    (at' ps 0x28 8 < s.hw.reportLen → ∃ t, exec (.attest tag ps) s = .next t ∧ Answered t 0x42 tag badParams)) ∧
  (s.hw.glb.pldm = none → ps.length = 18 → at' ps 0x10 1 ≤ 1 → at' ps 0x11 1 = 0 →
    (s.hw.readSpan (at' ps 0 8) (at' ps 8 8)).2 = (image, st) →
    ∃ t, exec (.fwUpdate tag ps) s = .next t ∧ t.hw.flash = s.hw.flash ∧
      busy t 0x43 (.fwUpdate (if st = 0 then some image else none) (decide (at' ps 0x10 1 = 1)) false))) ∧
  (∀ (s : State) (scope addr len : Nat) (nonce image : List Byte) (eid : Byte) (v : W64),
  let h := s.hw
  let g := h.glb
  let done (t : State) (r : Rsp) := Answered t h.mbx.opcode.toNat h.mbx.tag r
  (h.mbx.long = some (.scrub scope) → ∃ t, exec .scrubComplete s = .next t ∧ done t {} ∧
    (bit scope 2 = true → t.hw.flash.faultLog = [] ∧ t.hw.flash.trailLog = []) ∧
    (bit scope 0 = true → t.hw.mem = []) ∧ (scope = 4 → t.hw.mem = h.mem ∧ t.hw.tng = h.tng)) ∧
  (h.mbx.long = some (.attest nonce addr len) →
    (h.reportLen ≤ len → ∃ t, exec .attestComplete s = .next t ∧ done t { data := leBytes 4 h.reportLen ++ leBytes 4 0 } ∧
      t.hw.mem = (h.writeSpan 0 addr (h.report nonce)).mem) ∧
    (len < h.reportLen → ∃ t, exec .attestComplete s = .next t ∧ done t badParams ∧ t.hw.mem = h.mem)) ∧
  (h.mbx.long = some (.fwUpdate (some image) false false) → ∃ t, exec .fwUpdateComplete s = .next t ∧ t.hw.glb = g ∧
    match h.fwRefusal image false with
    | some r => done t r ∧ t.hw.flash = h.flash
    | none => done t {} ∧ (g.gweku = true →
      (g.image = 0 → t.hw.flash = { h.flash with imageB := { bytes := image } }) ∧
      (g.image ≠ 0 → t.hw.flash = { h.flash with imageA := { bytes := image } }))) ∧
  (h.mbx.long = some (.fwUpdate none false false) → ∃ t, exec .fwUpdateComplete s = .next t ∧
    done t { status := mbBadSig, detail := 1 } ∧ t.hw.flash = h.flash) ∧
  (h.mbx.long = none → g.pldm = some image → g.gweku = true → ∃ t, exec .fwUpdateComplete s = .next t ∧ t.hw.glb.pldm = none ∧
    t.hw.flash = (if g.image = 0 then { h.flash with imageB := { bytes := image } } else { h.flash with imageA := { bytes := image } })) ∧
  (g.gweku = true →
    exec .fwMinVersionRaise s = .next { s with hw := { h with flash := { h.flash with minSvn := max h.flash.minSvn g.svn.toNat } } } ∧
    (h.mbx.long = none → g.restarting = false → g.pldm = none → ∃ t, exec (.pldmFwUpdate image) s = .next t ∧
      match h.fwRefusal image false with
      | some _ => t = s
      | none => t = { s with hw := { h with glb := { g with pldm := some image } } }) ∧
    (∃ t, exec (.pace v) s = .next t ∧ t = { s with hw := { h with glb := t.hw.glb } } ∧
      t.hw.glb.paceRate.toNat = max 1 (bits v.toNat 23 0) ∧ t.hw.glb.paceBurst.toNat = max 1 (bits v.toNat 39 24) ∧
      t.hw.glb.paceEnable = v.getLsbD 40) ∧
    ∃ m, exec .health s = .next { s with hw := { h with glb := { g with up := g.up ++ [m] } } } ∧
      m = .health h.glbReady h.stk.state.code h.pwr.topStep h.flt.uncontained (h.flt.nextSerial - 1)) ∧
  exec (.mctpControl eid) s = .next { s with hw := { h with glb := { g with eid := eid } } })

/-- A broadcast tree: a member takes content at its place and counts it, an acknowledgement counts for its child, an armed
root begins with the whole content and its named children, a child silent with content outstanding is lost and reported up
the tree (R420, R421). -/
def Obligations.BroadcastTrees : Prop := ∀ (s : State) (p : PortIx) (tr : Fin 16) (tree child : W16) (off : BitVec 40)
    (bs : List Byte) (c : Child),
  let h := s.hw
  let t := tr.val
  h.treeOf tree = some t →
  (p.val < 48 →
    (h.treeState t = 2 → ∃ u, exec (.bcastData p tree off false bs) s = .next u ∧
      u.hw.got t = if off.toNat ≤ h.got t then max (h.got t) (off.toNat + bs.length) else h.got t) ∧
    (h.treeState t = 1 → ∃ u, exec (.bcastData p tree off false bs) s = .next u ∧
      u.hw.got t = if off.toNat = 0 then bs.length else 0) ∧
    (h.treeState t = 2 → off.toNat ≤ h.got t → h.got t ≤ off.toNat + bs.length → off.toNat + bs.length < h.treeLen t →
      (h.treeOff t + 256 ≤ h.treeDest t + off.toNat ∨ h.treeDest t + off.toNat + bs.length ≤ h.treeOff t) →
      ∃ u, exec (.bcastData p tree off false bs) s = .next u ∧ u.hw.got t = off.toNat + bs.length ∧
        u.hw.mem = nputList 0 h.mem (h.treeDest t + off.toNat) bs)) ∧
  (p.val < 48 → h.treeState t = 3 → ∃ u, exec (.bcastData p tree off false bs) s = .next u ∧
    u.hw.glb.discarded = satInc h.glb.discarded ∧ u.hw.mem = h.mem) ∧
  (∃ u, exec (.bcastAck tree child off) s = .next u ∧ u.hw.mem = h.mem ∧ u.hw.childrenOf t = (h.childrenOf t).map fun c =>
    if c.rank = child ∧ c.lost = false then { c with acked := max c.acked off.toNat } else c) ∧
  (c ∈ h.childrenOf t → c.rank = child → c.lost = false → c.acked < c.sent →
    ∃ u, exec (.treeChildLost tree child) s = .next u ∧ u.hw.glb.up = h.glb.up ++ [.treeReport tree child] ∧
      ∀ z ∈ u.hw.childrenOf t, z.rank = child → z.lost = true) ∧
  (∃ u, exec (.bcastReport tree child child) s = .next u ∧ u = { s with hw := { h with ports := u.hw.ports } }) ∧
  (h.treeState tr.val = 1 → h.treeParent tr.val = 0xFFFF →
    ∃ u, exec (.treeArmed tr) s = .next u ∧ u.hw.got tr.val = h.treeLen tr.val ∧
      (∀ r ∈ h.treeChildren tr.val, ∃ z ∈ u.hw.childrenOf tr.val, z.rank = r) ∧
      (u.hw.treeState tr.val = 3 ∨ u.hw.treeState tr.val = 4))

/-! ## Strokes, beats and time -/

/-- The stroke boundary steps the stroke number and stamps it, whatever runs; in SHED it places nothing. An idle module only
goes on to the next stroke; an admitted billet is ARMED; with the work of the stroke before ended, the running billet's next
stroke begins with its beat 0, and every beginning of a beat takes a snapshot. The clauses on idle, armed and running
modules are about modules with the units beside the stroke generator at rest (R28, R33, R41, R80). -/
def Obligations.StrokeBoundary : Prop := ∀ (s : State) (k : Stk) (m : NMap Byte) (l : Loaded) (c : Nat),
  (s.hw.stk.state = .shed → exec .strokeBoundary s = .next s) ∧
  (s.hw.stk.state ≠ .shed → ∃ t, exec .strokeBoundary s = .next t ∧ t.hw.stk.num = s.hw.stk.num + 1 ∧
    t.hw.stk.boundTime = s.hw.stk.time ∧ t.tmks = s.tmks ∧ t.pending = s.pending) ∧
  (s.hw = { State.reset.hw with stk := k, mem := m, now := c } → k.state = .idle → k.inBeat = false → k.haltNext = false →
    k.retireAt = none → k.endDue = false → k.groupS = [] → k.stretchNext = 16 →
    ∃ t, exec .strokeBoundary s = .next t ∧ t.hw.stk.num = k.num + 1 ∧ t.hw.stk.boundTime = k.time ∧
      t.hw.stk.state = .idle ∧ t.hw.stk.inBeat = false ∧ t.hw.mem = m ∧ t.hw.evt.flags = 0) ∧
  (s.hw = { State.reset.hw with stk := k, mem := m, now := c, armed := some l } → k.state = .idle → k.inBeat = false →
    k.haltNext = false → k.retireAt = none → k.endDue = false → k.groupS = [] → k.stretchNext = 16 →
    k.num.toNat + 1 < l.activation → k.num.toNat + 1 < 2 ^ 64 →
    ∃ t, exec .strokeBoundary s = .next t ∧ t.hw.stk.state = .armed ∧ t.hw.armed = some l ∧ t.hw.running = none) ∧
  (s.hw = { State.reset.hw with stk := k, mem := m, now := c, running := some l } → k.state = .running → k.inBeat = false →
    k.uncommitted = none → k.haltNext = false → k.retireAt = none → k.endDue = false → k.closing = false →
    k.workHalted = false →
    k.ended = k.num.toNat → k.num.toNat + 1 < 2 ^ 64 → l.img.herder = none → l.img.kv = none → l.img.backward = none →
    l.img.reduction = none → l.img.weight = none → l.img.thermal = none → l.img.stroke.lastWork.isSome = true →
    l.img.stroke.firstPost ≠ some 0 →
    ∃ t, exec .strokeBoundary s = .next t ∧ t.hw.stk.num = k.num + 1 ∧ t.hw.stk.workStroke = k.num.toNat + 1 ∧
      t.hw.stk.beat = 0 ∧ t.hw.stk.inBeat = true ∧ t.hw.stk.working = true ∧ t.hw.running = some l ∧
      t.hw.snaps = [{ stroke := k.num.toNat + 1, beat := 0, epoch := 0, cores := [], herders := [] }])

/-- A beat ends and waits to commit, and the next of the stroke begins where work goes on; at cycle 48 of the next the ended
beat commits and its snapshot is gone; at cycle 24 the tasks of the beat are triggered on every core that may run; a hold
stops each of these (R30, R74, R75, R80, R324, R327). -/
def Obligations.BeatCycle : Prop := ∀ (s : State) (k : Stk) (l : Loaded) (ps : List Snap) (m : NMap Byte) (n : Nat) (x : Beat)
    (c : Nat) (b : Nat × Nat),
  let z := s.hw.stk
  (z.inBeat = true → z.uncommitted = none → s.hw.flt.held = false → s.hw.flt.stopAll = false →
    ∃ t, exec (.beatBoundary n) s = .next t ∧ t.hw.stk.uncommitted = some (z.workStroke, z.beat) ∧ t.hw.stk.num = z.num ∧
      (∀ r, s.hw.running = some r → s.hw.runs = true → z.working = true → z.closing = false → z.workHalted = false →
        s.hw.routesDue = false → z.beat + 1 < r.img.stroke.beats.length → r.img.stroke.lastWork ≠ some z.beat →
        t.hw.stk.beat = z.beat + 1 ∧ t.hw.stk.inBeat = true ∧ t.hw.stk.workStroke = z.workStroke ∧ t.hw.running = some r)) ∧
  (s.hw = { State.reset.hw with stk := k, mem := m, running := some l, snaps := ps, now := c } → k.state = .running →
    k.inBeat = true → k.uncommitted = none → k.working = true → k.closing = false → k.endDue = false → k.workHalted = false →
    k.num.toNat ≤ k.workStroke → l.img.stroke.beats[k.beat]? = some x → n ≤ x.worst → k.beat + 1 < l.img.stroke.beats.length →
    l.img.stroke.lastWork ≠ some k.beat → l.img.stroke.firstPost ≠ some (k.beat + 1) → l.img.herder = none →
    l.img.kv = none →
    ∃ t, exec (.beatBoundary n) s = .next t ∧ t.hw.stk.excess = k.excess ∧ t.hw.mem = m ∧
      t.hw.snaps = { stroke := k.workStroke, beat := k.beat + 1, epoch := 0, cores := [], herders := [] } :: ps) ∧
  (z.uncommitted = some b → z.inBeat = true → s.hw.flt.stopAll = false →
    (∀ v, s.hw.flt.recovery = some v → v.hold = true → (v.stroke, v.beat) ≠ b) →
    ∃ t, exec .beatCommit s = .next t ∧ t.hw.stk.uncommitted = none ∧ t.hw.stk.inBeat = true ∧
      t.hw.stk.beat = z.beat ∧ t.hw.stk.workStroke = z.workStroke ∧ t.hw.stk.num = z.num ∧
      t.hw.snaps = s.hw.snaps.filter fun p => decide ((p.stroke, p.beat) ≠ b)) ∧
  (let due (y : CoreState) : List Nat := (List.range 32).filter fun i =>
     taskValid (y.task i) && decide (taskKind (y.task i) = 0) && decide (taskParam (y.task i) = z.beat)
   let after (y : CoreState) : Option CoreState :=
     if y.mapped = true ∧ y.gated = false ∧ y.stopped = false ∧ y.dead = false then
       ((due y).foldl (fun y i => y.bind fun y => y.trigger s.hw.now i) (some y)).map CoreState.dispatch
     else some y
   z.inBeat = true → z.triggered = false → s.hw.flt.held = false → s.hw.flt.stopAll = false →
   nwf {} s.hw.cores = true → (∀ d, (after (s.hw.core d)).isSome = true) →
   ∃ t, exec .beatTaskTrigger s = .next t ∧ (∀ d, some (t.hw.core d) = after (s.hw.core d)) ∧
     t = { s with hw := { s.hw with cores := t.hw.cores, stk := { z with triggered := true } } }) ∧
  (s.hw.flt.held = true → exec (.beatBoundary n) s = .next s ∧ exec .beatTaskTrigger s = .next s)

/-- STK_CFG is taken in IDLE with a period in range and keeps its fields within their limits, otherwise discarded; an edge
with a time of day is slewed out, or stepped out in IDLE above 1 ms; 2 s without one is holdover. A SYNC frame whose CRC
passes raises, on a sync-member link, the largest s of its stroke, and on the followed link places the boundary; a rise for
the current stroke is passed on, and a frame goes out on every sync-member link that carries traffic, what it announces
holding for this module too; a frame whose CRC fails counts; sync_ok falls with SYNC_LOST and returns (R29, R47, R48,
R50-R52, R308). -/
def Obligations.TimeAndSync : Prop :=
  (∀ (s : State) (v tod : W64),
  let k := s.hw.stk
  let period := bits v.toNat 17 0
  let err := s.hw.timeError tod
  let h : Hw := { s.hw with tst := { s.hw.tst with armedKey := false } }
  (s.hw.barOpen = true →
    (k.state = .idle → 35 ≤ period → period ≤ 163840 →
      ∃ t, exec (.stkCfgWrite v) s = .next t ∧ t = { s with hw := { h with stk := t.hw.stk } } ∧
        t.hw.stk.period = BitVec.ofNat 18 period ∧ t.hw.stk.syncMode = BitVec.ofNat 2 (bits v.toNat 26 25) ∧
        1 ≤ t.hw.stk.lateLimit.toNat ∧ t.hw.stk.lateLimit.toNat ≤ 126 ∧ 1 ≤ t.hw.stk.syncTol.toNat ∧
        t.hw.stk.num = k.num ∧ (bits v.toNat 26 25 = 0 → t.hw.stk.syncOk = true)) ∧
    (k.state ≠ .idle ∨ period < 35 ∨ 163840 < period → exec (.stkCfgWrite v) s = .next { s with hw := h })) ∧
  exec (.ppsEdge none) s = .next { s with hw := { s.hw with stk := { k with ppsPresent := true, todValid := false } } } ∧
  (err.natAbs ≤ 1000000 ∨ k.state ≠ .idle →
    ∃ t, exec (.ppsEdge (some tod)) s = .next t ∧ t.hw.stk.time = k.time ∧ t.hw.stk.slew = -err ∧ t.hw.stk.holdover = false ∧
      t.hw.stk.locked = decide (err.natAbs < 100) ∧ t.hw.glb.time = true ∧ t.hw.stk.num = k.num) ∧
  (err.natAbs > 1000000 → k.state = .idle →
    ∃ t, exec (.ppsEdge (some tod)) s = .next t ∧ t.hw.stk.time = tod ∧ t.hw.stk.slew = 0 ∧ t.hw.stk.holdover = false ∧
      t.hw.glb.time = true) ∧
  (k.holdover = false → ∃ t, exec .timeHoldover s = .next t ∧ t.hw.stk = { k with
      ppsPresent := false, holdover := true, slew := 0, slewPhase := 0 } ∧
    t.hw.evt.flags.getLsbD 4 = true ∧ t.hw.flt = s.hw.flt)) ∧
  (∀ (s : State) (p : PortIx) (fr : SyncFrame),
  let k := s.hw.stk
  let n := fr.stroke.toNat
  let old := max s.hw.pwr.ownS (nget 16 k.groupS n)
  let v := min 32 (max (nget 16 k.groupS n) fr.s.toNat)
  let x := s.hw.port p.val
  let sends (q : Nat) : Prop := q < 48 ∧ (s.hw.port q).carries = true ∧ (s.hw.port q).syncMember = true
  let out (w : Nat) : List Byte := s.hw.syncOut w
  let frame (y : Port) (w : Nat) : List Byte :=
    frameBytes (ctrlHead frSync 0 { ack := y.rxNext - 1, creditVc := 0, credit := 0, crc := 0 } (out w)) (out w)
  (x.carries = true → fr.crcOk = false → exec (.sync p fr) s = .next { s with hw := s.hw.setPort p.val { x with errCrc := x.errCrc + 1 } }) ∧
  (fr.crcOk = true → sends p.val →
    (n ≠ k.num.toNat ∨ v ≤ old → ∃ t, exec (.sync p fr) s = .next t ∧
      t = { s with hw := { s.hw with stk := t.hw.stk, ports := t.hw.ports } } ∧ nget 16 t.hw.stk.groupS n = v ∧
      t.hw.stk.num = k.num ∧ (k.syncMode ≠ 2 ∨ k.syncLink.toNat ≠ p.val →
        t.hw.stk = { k with groupS := nput 16 k.groupS n v }) ∧
      (k.syncMode = 2 → k.syncLink.toNat = p.val →
        t.hw.stk.lastSync = some (n, s.hw.syncPlace p.val fr, fr.s.toNat))) ∧
    (n = k.num.toNat → v > old → ∃ t y, exec (.sync p fr) s = .next t ∧ nget 16 t.hw.stk.groupS n = max s.hw.pwr.ownS v ∧
      (t.hw.port p.val).ctrlOut = frame y (max s.hw.pwr.ownS v) :: y.ctrlOut ∧ y.rxNext = x.rxNext ∧ y.ctrlOut = x.ctrlOut)) ∧
  (let w := max s.hw.pwr.ownS (nget 16 k.groupS k.num.toNat)
   k.state ≠ .shed → ∃ t, exec .stretchSyncResend s = .next t ∧
    t = { s with hw := { s.hw with stk := { k with groupS := t.hw.stk.groupS }, ports := t.hw.ports } } ∧
    (sends p.val → nget 16 t.hw.stk.groupS k.num.toNat = w) ∧
    ∀ q, (sends q → t.hw.port q = { s.hw.port q with ctrlOut := frame (s.hw.port q) w :: (s.hw.port q).ctrlOut }) ∧
      (¬sends q → t.hw.port q = s.hw.port q)) ∧
  (s.hw.syncLocal = false → k.syncOk = true → ∃ t, exec .syncLost s = .next t ∧ t.hw.stk = { k with syncOk := false } ∧
    t.hw.evt.flags.getLsbD 3 = true) ∧
  exec .syncRestored s = .next { s with hw := { s.hw with stk := { k with syncOk := true } } })

/-! ## Recovery, restarts and readiness -/

/-- A boundary action waits for every warden it orders: an acknowledgement is struck off, the last one arms a remap's detour
set and parks a field whose ramp has ended; at the switch, which waits for the drain, the armed set is in force, the epoch
steps once and every mapped core has the routes of its image under it; a warden's status word shows its link up, three
missing ones fail it, with a record, and make a recovery that waits for it uncontained. A held beat is replayed: it starts
anew under its number, its starts and the replays are counted, the hold is released, and every mapped core has the
registers, accumulator and tasks of its snapshot, with its SRAM, program and routes as they stand (R23, R26, R80, R126-R128,
R327, R328, R341, R361). -/
def Obligations.ReplaysAndActions : Prop :=
  (∀ (s : State) (f g : FieldIx) (a : BAction) (r : Remap) (b : Billet),
  let x := s.hw.flt
  let left := a.awaits.erase f.val
  let on := x.detoursOn.filter (fun n => !x.withdrawArmed.contains n)
    ++ (s.hw.chooseSets x.detoursArmed).filter fun n => !x.detoursOn.contains n
  (x.actions = [a] → a.started = true → f.val ∈ a.awaits → a.inField = true ∨ s.hw.reaches f.val = true →
    (left ≠ [] →
      (∃ t, exec (.wardenAck f) s = .next t ∧ (∀ y ∈ t.hw.flt.actions, y = { a with awaits := left }) ∧
        t.hw.flt.detoursArmed = x.detoursArmed) ∧
      (s.hw.spn.engines = [] → exec (.wardenAck f) s = .next { s with
        hw := { s.hw with flt := { x with actions := [{ a with awaits := left }] } } })) ∧
    (left = [] → a.act = .remap r → ∃ t, exec (.wardenAck f) s = .next t ∧ t.hw.flt.actions = [] ∧
      r.detour ∈ t.hw.flt.detoursArmed ∧ t.hw.routeEpoch = s.hw.routeEpoch) ∧
    (left = [] → a.act = .park g.val → s.hw.rampPending g.val = false → ∃ t, exec (.wardenAck f) s = .next t ∧
      t.hw.flt.actions = [] ∧ (t.hw.fld g.val).state = .parked ∧ (t.hw.fld g.val).park = .parked)) ∧
  (∀ pre post, x.actions = pre ++ a :: post → a.started = true → f.val ∈ a.awaits → a.awaits.Nodup →
    a.inField = true ∨ s.hw.reaches f.val = true → (∀ z ∈ pre ++ post, z.act ≠ a.act) →
    (∀ z ∈ pre, z.started = true → f.val ∈ z.awaits → z.inField = false ∧ s.hw.reaches f.val = false) →
    ∃ t, exec (.wardenAck f) s = .next t ∧ ∀ y ∈ t.hw.flt.actions, y.act = a.act → f.val ∉ y.awaits) ∧
  (s.hw.routesDue = true → s.hw.stk.inBeat = false → x.held = false → s.hw.drained = true →
    (∃ t, exec .routeSwitch s = .next t ∧ t.hw.routeEpoch = s.hw.routeEpoch + 1 ∧ t.hw.flt.detoursOn = on) ∧
    (x.actions = [] → s.hw.spn.engines = [] → s.hw.image = some b → nwf {} s.hw.cores = true →
      s.hw.chooseSets x.detoursArmed = x.detoursArmed →
      ∃ t, exec .routeSwitch s = .next t ∧ t.hw.flt.detoursArmed = [] ∧ t.hw.flt.withdrawArmed = [] ∧
        ∀ c, (s.hw.core c).mapped = true → t.hw.core c = { s.hw.core c with
          routes := routesUnder b on (s.hw.core c).image c, routesShadow := [] })) ∧
  (s.hw.drained = false → exec .routeSwitch s = .next s) ∧
  exec (.wardenStatus f) s = .next { s with hw := s.hw.setFld f.val { s.hw.fld f.val with statusMissing := 0, gwekuLink := true } } ∧
  ((s.hw.fld f.val).gwekuLink = true → ∃ t, exec (.wardenLinkLoss f) s = .next t ∧
    t.hw.fld f.val = { s.hw.fld f.val with statusMissing := 3, gwekuLink := false } ∧
    x.nextSerial < t.hw.flt.nextSerial ∧ t.hw.stk.num = s.hw.stk.num ∧
    (a ∈ x.actions → a.inField = false → a.started = true → f.val ∈ a.awaits → a.act = .remap r →
      t.hw.flt.uncontained = true))) ∧
  (∀ (s : State) (v : Recovery) (p : Snap),
  let k := s.hw.stk
  let x := s.hw.flt
  x.recovery = some v → v.hold = true → v.page = none → v.remaps = [] → (v.stroke, v.beat) = (k.workStroke, k.beat) →
  x.stopAll = false → (∀ a ∈ x.actions, ∀ r, a.act ≠ .remap r) → s.hw.routesDue = false →
  s.hw.snaps.find? (fun q => decide ((q.stroke, q.beat) = (v.stroke, v.beat))) = some p →
  (∀ b, s.hw.image = some b → b.stroke.firstPost ≠ some v.beat ∧ ∀ kv, b.kv = some kv → kv.walkBeat ≠ v.beat) →
  ∃ t, exec .beatReplay s = .next t ∧ t.hw.flt.starts = x.starts + 1 ∧ t.hw.flt.replayCnt = x.replayCnt + 1 ∧
    t.hw.flt.recovery = some { v with hold := false } ∧ t.hw.stk.inBeat = true ∧ t.hw.stk.triggered = false ∧
    t.hw.stk.workStroke = k.workStroke ∧ t.hw.stk.beat = k.beat ∧ t.hw.stk.num = k.num ∧
    ∀ c, (s.hw.core c).mapped = true →
      let y := nget {} p.cores c
      let z := t.hw.core c
      z.pc = y.pc ∧ z.sregs = y.sregs ∧ z.dregs = y.dregs ∧ z.vregs = y.vregs ∧ z.acc = y.acc ∧ z.running = y.running ∧
      z.ready = y.ready ∧ z.taskPend = y.taskPend ∧ z.srState = y.srState ∧ z.chans = y.chans ∧
      z.sram = (s.hw.core c).sram ∧ z.prog = (s.hw.core c).prog ∧ z.routes = (s.hw.core c).routes ∧ z.mapped = true ∧
      z.errSym = false)

/-- The Gweku's watchdog takes the firmware down: the mailbox is OFFLINE and a command at work is owed an answer; when the
restart ends the firmware runs again where an image may start, with the mailbox IDLE and no version; the flash and the logs
become ready, the pointers at the ends of the logs where memory was not retained (R341, R385, R405, R407, R410, R411). -/
def Obligations.GwekuRestart : Prop := ∀ (s : State),
  let h := s.hw
  let boots (h : Hw) := (if h.factoryOk then h.bootChoice else none).isSome
  (h.glb.gweku = true →
    (∃ t, exec .gwekuWatchdog s = .next t ∧ t.hw.glb.gweku = false ∧ t.hw.glb.restarting = true ∧ t.hw.mbx.state = .offline ∧
      t.hw.mbx.version = 0 ∧ t.hw.mbx.long = none) ∧
    (h.mbx.long = none → ∃ t, exec .gwekuWatchdog s = .next t ∧ t = { s with hw := { h with glb := t.hw.glb, mbx := t.hw.mbx } } ∧
      (h.mbx.state = .running → t.hw.mbx.interrupted = true)) ∧
    exec .flashMounted s = .next { s with hw := { h with glb := { h.glb with flash := true } } } ∧
    (h.glb.logs = false → ∃ t, exec .logsRecovered s = .next t ∧ t.hw.glb = { h.glb with logs := true } ∧
      (h.glb.retained = false → t.hw.flt.head = h.flash.faultFlashed ∧ t.hw.flt.tail = h.flash.faultFlashed ∧
        t.hw.flt.tHead = h.flash.trailFlashed) ∧ (h.glb.retained = true → t.hw.flt = h.flt))) ∧
  (h.glb.restarting = true →
    ∃ t, exec .gwekuRestartDone s = .next t ∧ t.hw.glb.restarting = false ∧ t.hw.glb.gweku = boots h ∧ t.hw.mbx.version = 0 ∧
      t.hw.mbx.state = (if boots h then .idle else .offline) ∧ (boots h = true → t.hw.flt.gwekuRestarted = true) ∧
      t.hw.stk.num = h.stk.num)

/-- Power-good resets everything but flash, the pending dead cores and host memory, and boots where an image may start,
every field under test; a test's result makes its field READY or FAULTED; power loss leaves flash alone; a function-level
reset clears the driver's registers; a field that loses its clock is FAULTED (R27, R351, R375, R403-R409, R411). -/
def Obligations.PowerAndFields : Prop := ∀ (s : State) (f : FieldIx) (rings : BitVec 18) (scan march : List CoreId)
    (rs : List TestReport),
  let h := s.hw
  let boots := (if h.factoryOk then h.bootChoice else none).isSome
  let fresh (t : State) := t.tmks = [] ∧ t.hw.mem = [] ∧ t.hw.hostMem = h.hostMem ∧ t.hw.stk.num = 0 ∧
    t.hw.running = none ∧ t.hw.armed = none ∧ t.hw.evt = {} ∧ t.hw.qps = [] ∧ t.pending = s.pending
  (∃ t, exec .powerGood s = .next t ∧ fresh t ∧ t.hw.glb.gweku = boots ∧ t.hw.mbx.state = (if boots then .idle else .offline) ∧
    (boots = true → ∀ g < 48, (t.hw.fld g).state = .test)) ∧
  (∃ t, exec .powerLoss s = .next t ∧ fresh t ∧ t.hw.glb.gweku = false ∧ t.hw.flash.failed = h.flash.failed ∧
    t.hw.flt.pending = h.flt.pending) ∧
  (∃ t, exec .functionLevelReset s = .next t ∧ t.tmks = [] ∧ t.hw.qps = [] ∧ t.hw.evt.mask = 0 ∧ t.hw.stk.state = .idle ∧
    t.hw.armed = none ∧ t.hw.running = none ∧ t.hw.mbx.version = 0 ∧ t.hw.tst.unlocked = false ∧
    (∀ p < 64, (t.hw.port p).state = .disabled) ∧
    (h.running = none → h.armed = none → h.flt.recovery = none → h.mbx.long = none → h.stk.state ≠ .shed →
      t.hw.evt.flags = 0 ∧ t.hw.mem = h.mem)) ∧
  ((h.fld f.val).state = .test → h.mbx.long = none →
    (∃ t, exec (.fieldTestDone f true true (BitVec.allOnes 18) scan rs march) s = .next t ∧
      (t.hw.fld f.val).state = .ready ∧ t.hw.glb.field.getLsbD f.val = true ∧ t.hw.flt.pending = []) ∧
    (rings ≠ BitVec.allOnes 18 → ∃ t, exec (.fieldTestDone f true true rings scan rs march) s = .next t ∧
      (t.hw.fld f.val).state = .faulted ∧ t.hw.glb.field = h.glb.field ∧ t.hw.flash = h.flash)) ∧
  ((h.fld f.val).state ≠ .off → h.mbx.long = none → ∃ t, exec (.fieldClockLoss f) s = .next t ∧
    t.hw.fld f.val = { h.fld f.val with state := .faulted } ∧ t.hw.glb.field.getLsbD f.val = false)

/-! ## Rings and logs -/

/-- A fault or trail record of the ring goes to its log, and flashed to head; a spilled record goes back where there is
room; a tail is taken up to valid and discarded beyond; telemetry is written to its ring or dropped and counted by its
priority (R343, R345). -/
def Obligations.RingsAndLogs : Prop := ∀ (s : State) (v : W64) (bs : List Byte),
  let x := s.hw.flt
  let h : Hw := { s.hw with tst := { s.hw.tst with armedKey := false } }
  let low := x.faultFill ≤ faultLogSize / 2 ∧ x.trailFill ≤ trailLogSize / 2
  let rec' (i : W32) := s.hw.memRead (x.ringBase.toNat + i.toNat % faultRing * 128) 128
  (low → x.valid = x.flashed + 1 → x.head = x.valid → ∃ t, exec (.logCopy false) s = .next t ∧
    t.hw.flash.faultLog = putFaultLog s.hw.flash.faultLog x.flashed.toNat (rec' x.flashed) ∧ t.hw.flt.flashed = x.head ∧
    t.hw.flt.head = x.head ∧ t.hw.flash.trailLog = s.hw.flash.trailLog) ∧
  (low → x.tHead = x.tValid → 0 < (x.tValid - x.tFlashed).toNat → (x.tValid - x.tFlashed).toNat ≤ trailRing →
    ∃ t, exec (.logCopy true) s = .next t ∧ t.hw.flash.trailLog = s.hw.flash.trailLog ++
      [(x.tFlashed.toNat, s.hw.trailRead x.tFlashed.toNat (x.tValid - x.tFlashed).toNat)] ∧ t.hw.flt.tFlashed = x.tHead) ∧
  (∀ e, x.head ≠ x.valid → max (x.valid - x.tail).toNat (x.valid - x.flashed).toNat + 1 ≤ faultRing →
    s.hw.flash.faultLog.find? (fun e => decide (e.1 = x.valid.toNat % faultLogSize)) = some e →
    ∃ t k, exec (.spillRefill false) s = .next t ∧ 1 ≤ k ∧ t.hw.flt = { x with valid := x.valid + BitVec.ofNat 32 k } ∧
      t.hw.flash = s.hw.flash ∧ t.hw.cores = s.hw.cores) ∧
  (∀ e, x.head = x.valid + 1 → max (x.valid - x.tail).toNat (x.valid - x.flashed).toNat + 1 ≤ faultRing →
    s.hw.flash.faultLog.find? (fun e => decide (e.1 = x.valid.toNat % faultLogSize)) = some e →
    exec (.spillRefill false) s = .next { s with hw := { s.hw with
      mem := nputList 0 s.hw.mem (x.ringBase.toNat + x.valid.toNat % faultRing * 128) e.2
      flt := { x with valid := x.head } } }) ∧
  (∀ e, s.hw.flash.trailLog.find? (fun e => decide (e.1 = x.tValid.toNat) && !e.2.isEmpty) = some e → x.tHead ≠ x.tValid →
    x.tValid.toNat + e.2.length ≤ min x.tTail.toNat x.tFlashed.toNat + trailRing →
    ∃ t k, exec (.spillRefill true) s = .next t ∧ e.2.length ≤ k ∧ t.hw.flt = { x with tValid := x.tValid + BitVec.ofNat 64 k } ∧
      t.hw.flash = s.hw.flash ∧ t.hw.cores = s.hw.cores) ∧
  (∀ e, s.hw.flash.trailLog = [e] → e.1 = x.tValid.toNat → e.2 ≠ [] →
    x.tValid.toNat + e.2.length ≤ min x.tTail.toNat x.tFlashed.toNat + trailRing → x.tHead ≠ x.tValid →
    ∃ t, exec (.spillRefill true) s = .next t ∧ t.hw.mem = nputList 0 s.hw.mem (s.hw.trailAt x.tValid.toNat) e.2 ∧
      t.hw.flt.tValid = x.tValid + BitVec.ofNat 64 e.2.length) ∧
  (s.hw.barOpen = true →
    (let d : W32 := v.setWidth 32
     ((d - x.tail).toNat ≤ (x.valid - x.tail).toNat → ∃ t, exec (.fltRingTailWrite v) s = .next t ∧ t.hw.flt.tail = d) ∧
     ((d - x.tail).toNat > (x.valid - x.tail).toNat → exec (.fltRingTailWrite v) s = .next { s with hw := h })) ∧
    (v.toNat % 8 = 0 → (v - x.tTail).toNat ≤ (x.tValid - x.tTail).toNat →
      ∃ t, exec (.fltTrailTailWrite v) s = .next t ∧ t.hw.flt.tTail = v) ∧
    (v.toNat % 8 ≠ 0 → exec (.fltTrailTailWrite v) s = .next { s with hw := h })) ∧
  (x.telEnable = true →
    (x.telDrops (min (at' bs 1 1) 3) = false → addrOff x.telBase.toNat % 64 = 0 → bs.length ≤ 64 →
      s.hw.spanStatus s.hw.spn.rank.toNat (addrOff x.telBase.toNat + x.telHead.toNat % x.telRecords * 64) 64 = 0 →
      ∃ t, exec (.telemetryRecord bs) s = .next t ∧ t.hw.flt = { x with telHead := x.telHead + 1 } ∧ t.hw.mem =
        nputList 0 s.hw.mem (addrOff x.telBase.toNat + x.telHead.toNat % x.telRecords * 64) (padTo 64 bs)) ∧
    (x.telDrops (min (at' bs 1 1) 3) = true → ∃ t, exec (.telemetryRecord bs) s = .next t ∧ t.hw.mem = s.hw.mem ∧
      t.hw.flt.telHead = x.telHead ∧
      nget 0 t.hw.flt.telDrop (min (at' bs 1 1) 3) = satAdd 16 (nget 0 x.telDrop (min (at' bs 1 1) 3)) 1))

/-! ## Hearth, parks, power -/

/-- Sensors and coolant: a sample is kept with its validity, a suspect pair and the loss of the tray's telemetry are
flagged; the tick keeps each field's power and the flow, and reports the input; a step whose condition is long past is left,
the step entered last first; THM_CFG takes thresholds in order only (R347, R353-R356, R368). -/
def Obligations.HearthReadings : Prop := ∀ (s : State) (rs : List Int) (f : FieldIx) (pair : Fin 4) (inlet outlet flow : W16)
    (ps : List Nat) (v : W64) (n : Nat) (ns : List Nat),
  let w := s.hw.pwr
  let h : Hw := { s.hw with tst := { s.hw.tst with armedKey := false } }
  (∃ t, exec (.sensorSample rs) s = .next t ∧ ∀ g < 48, (t.hw.fld g).sensors =
    ((rs.drop (8 * g)).take 8).map fun r => (r, decide (-20 * 16 ≤ r) && decide (r ≤ 150 * 16))) ∧
  ((s.hw.fld f.val).apart pair.val = true → (s.hw.fld f.val).suspects.getLsbD pair.val = false →
    ∃ t, exec (.sensorSuspect f pair) s = .next t ∧ (t.hw.fld f.val).suspects.getLsbD pair.val = true ∧ t.hw.pwr.suspectFlag = true ∧ t.hw.evt.flags.getLsbD 37 = true) ∧
  exec (.coolantSample inlet outlet flow) s = .next { s with hw := { s.hw with pwr := { w with
    inlet := inlet, outlet := outlet, flow := flow, valid := true, coolantLost := false } } } ∧
  (w.coolantLost = false → ∃ t, exec .coolantTelemetry s = .next t ∧ t.hw.pwr.valid = false ∧ t.hw.pwr.inlet = w.inlet ∧
    t.hw.evt.flags.getLsbD 38 = true) ∧
  (∃ t, exec (.hearthTick ps) s = .next t ∧ (∀ g < 48, (t.hw.fld g).powerW = ps.getD g 0) ∧
    t.hw.pwr.flowHist = (w.flow.toNat :: w.flowHist).take 100 ∧ t.hw.pwr.volts = Config.inputSample (3 * s.hw.draws) ∧
    t.hw.pwr.forecast = (t.hw.fld t.hw.pwr.hottest.toNat).forecast ∧ t.hw.stk.num = s.hw.stk.num) ∧
  (w.steps = n :: ns → n ∉ ns → w.forecast < w.entry n - 48 → (n = 2 → w.ownS = 16) →
    ∃ t, exec .thermalStepExit s = .next t ∧ t.hw.pwr = { w with steps := ns } ∧ t.hw.evt.flags.getLsbD 36 = true) ∧
  (s.hw.barOpen = true →
    (bits v.toNat 8 2 < bits v.toNat 15 9 ∧ bits v.toNat 15 9 < bits v.toNat 22 16 ∧ bits v.toNat 22 16 < 95 →
      exec (.thmCfgWrite v) s = .next { s with hw := { h with pwr := { w with
        deepEnable := v.getLsbD 23, park := BitVec.ofNat 7 (bits v.toNat 22 16)
        stretch := BitVec.ofNat 7 (bits v.toNat 15 9), rotate := BitVec.ofNat 7 (bits v.toNat 8 2)
        policyNext := if bits v.toNat 1 0 = 3 then 0 else BitVec.ofNat 2 (bits v.toNat 1 0) } } }) ∧
    (bits v.toNat 15 9 ≤ bits v.toNat 8 2 → exec (.thmCfgWrite v) s = .next { s with hw := h }))

/-- The driver's park requests stand until their boundary, one for a field that does not exist is refused; a parked field
that cools unparks, one that does not is marked for a deep park; a ramp's end is counted, gives its ballast its target, and
in emergency shed leaves its fields OFF (R349, R360, R363, R365, R368). -/
def Obligations.FieldParks : Prop := ∀ (s : State) (f : BitVec 6) (n : BitVec 36) (g : FieldIx),
  let w := s.hw.pwr
  let x := s.hw.fld g.val
  let h : Hw := { s.hw with tst := { s.hw.tst with armedKey := false } }
  let asked (op : BitVec 2) (done : Bool) (status : BitVec 2) : Host.Outcome State Fault Refusal :=
    .next { s with hw := { h with pwr := { w with
      prkOp := op, prkField := f, prkStroke := n, prkDone := done, prkStatus := status } } }
  (s.hw.barOpen = true → w.prkStatus ≠ 1 →
    (f.toNat < 48 → exec (.thmPark f n) s = asked 1 false 1 ∧ exec (.thmDeepPark f n) s = asked 2 false 1 ∧
      exec (.thmUnpark f n) s = asked 3 false 1) ∧
    (f.toNat ≥ 48 → exec (.thmPark f n) s = asked 1 true 3 ∧ exec (.thmDeepPark f n) s = asked 2 true 3 ∧
      exec (.thmUnpark f n) s = asked 3 true 3)) ∧
  (s.hw.barOpen = true → w.prkStatus = 1 → exec (.thmUnpark f n) s = .next { s with hw := h }) ∧
  (x.park = .parked → w.entry 3 ≤ x.forecast →
    exec (.deepParkTimer g) s = .next { s with hw := s.hw.setFld g.val { x with deepTest := true } }) ∧
  (x.park = .parked → x.state = .parked → x.parkedByDriver = false → s.hw.flt.actions = [] → x.forecast < w.entry 3 - 48 →
    s.hw.reaches g.val = true → s.hw.reaches (g.val ^^^ 1) = true →
    ∃ t a, exec (.parkWithdraw g) s = .next t ∧ t.hw.flt.actions = [a] ∧ a.act = .unpark g.val ∧ a.started = true ∧
      a.byDriver = false ∧ g.val ∈ a.awaits ∧ (t.hw.fld g.val).park = .unparking ∧ (t.hw.fld g.val).state = .parked) ∧
  (x.park = .parked ∨ x.park = .deepParked → x.parkedByDriver = false → s.hw.actionOn g.val = false → x.forecast < w.entry 3 - 48 →
    (∀ n ∈ s.hw.unparkFields g.val, s.hw.reaches n = true) →
    ∃ t, exec (.parkWithdraw g) s = .next t ∧ ∃ a ∈ t.hw.flt.actions, a.act = .unpark g.val ∧ a.byDriver = false) ∧
  (x.ramping = true → ∃ t, exec (.rampComplete g) s = .next t ∧ t.hw.pwr.rampCount = satInc w.rampCount ∧
    (w.shed ≠ 0 → (t.hw.fld g.val).state = .off ∧ (t.hw.fld g.val).coreOn = false ∧ t.hw.glb.field.getLsbD g.val = false)) ∧
  (x.ramping = true → w.shed = 0 → w.rampQ = [] → s.hw.flt.actions = [] → s.hw.spn.engines = [] →
    ∃ t, exec (.rampComplete g) s = .next t ∧ t.hw.fld g.val = { x with ramping := false, ballast := x.target } ∧
      t.hw.pwr = { w with rampCount := satInc w.rampCount })

/-- The four triggers of emergency shed put the module in SHED, its ports DISABLED and the TST block locked; the SHED record
goes to the log and memory into retention, from which it falls at 105 degrees or after 60 s without flow (R344, R354, R365,
R366). -/
def Obligations.EmergencyShed : Prop := ∀ (s : State) (samples : List W16),
  let sheds (t : State) := t.hw.stk.state = .shed ∧ t.hw.stk.inBeat = false ∧ t.hw.pwr.shed = 1 ∧
    t.hw.flt.recovery = none ∧ t.hw.flt.actions = [] ∧ t.hw.fabric = [] ∧ t.hw.tst.unlocked = false ∧
    (∀ p < 64, (t.hw.port p).state = .disabled) ∧ t.hw.running = s.hw.running ∧ t.hw.stk.num = s.hw.stk.num
  let dark (t : State) := t.hw.pwr.memOn = 0 ∧ t.hw.pwr.shed = 3 ∧ ∀ a, a < migBase → nget 0 t.hw.mem a = 0
  (s.hw.stk.state ≠ .shed →
    (∃ t, exec (.pwrShed 0x5AED0054) s = .next t ∧ sheds t) ∧
    (∀ k, k ≠ 0x5AED0054 → exec (.pwrShed k) s = .next { s with hw := s.hw.bar0 fun h => h }) ∧
    (s.hw.pwr.shed ≠ 2 → s.hw.anyPairAt 105 = true → ∃ t, exec .junctionBackstop s = .next t ∧ sheds t) ∧
    (s.hw.pwr.valid = true → s.hw.pwr.flow.toNat < 1800 → (∀ v ∈ samples, v.toNat < 1800) → ∃ t, exec (.flowStop samples) s = .next t ∧ sheds t)) ∧
  (s.hw.pwr.shed = 1 → s.hw.pwr.recordsSecured = false → ∃ t, exec .shedRecord s = .next t ∧ t.hw.pwr.shed = 2 ∧
    t.hw.pwr.recordsSecured = true ∧ t.hw.flash.shedMarker = s.hw.flash.shedMarker + 1 ∧ t.hw.flt.flashed = t.hw.flt.head ∧
    s.hw.flt.nextSerial < t.hw.flt.nextSerial ∧ t.hw.flt.tFlashed = s.hw.flt.tHead) ∧
  (s.hw.pwr.shed = 2 → s.hw.anyPairAt 105 = true → ∃ t, exec .junctionBackstop s = .next t ∧ dark t) ∧
  (s.hw.anyPairAt 105 = false → exec .junctionBackstop s = .next s) ∧
  (s.hw.pwr.shed = 2 → s.hw.pwr.flowReturned = false → ∃ t, exec .retentionTimeout s = .next t ∧ dark t) ∧
  (s.hw.pwr.shed = 1 ∨ s.hw.pwr.shed = 2 → s.hw.pwr.valid = true → 3600 ≤ s.hw.pwr.flow.toNat →
    exec .flowReturn s = .next { s with hw := { s.hw with pwr := { s.hw.pwr with flowReturned := true } } })

/-! ## Touchmarks -/

/-- A unit with nothing queued takes a change of algorithm and a value at once, one that waits for a byte queues them behind
it; data bytes are queued, one of which a core cycle feeds, and TMK_STATUS sets the count and clears RD_EARLY (R399-R402).
-/
def Obligations.Touchmarks : Prop := ∀ (s : State) (u : Fin 32) (v : W64) (b : Byte),
  let x := s.tmk u.val
  let to' (y : Tmk) : Host.Outcome State Fault Refusal := .next { s with
    hw := { s.hw with tst := { s.hw.tst with armedKey := false } }
    tmks := nput {} s.tmks u.val y }
  (s.hw.barOpen = true → x.queue = [] →
    (bits v.toNat 1 0 ≠ 3 → v.getLsbD 2 = true → ∃ y, exec (.tmkCfgWrite u v) s = to' y ∧
      y.alg = BitVec.ofNat 2 v.toNat ∧ y.value = tmkInit (BitVec.ofNat 2 v.toNat) ∧ y.count = 0 ∧ y.queue = []) ∧
    (bits v.toNat 1 0 = 3 → exec (.tmkCfgWrite u v) s = to' x) ∧
    (∀ w ∈ [1, 2, 4, 8], exec (.tmkDataWrite u w v) s = to' { x with queue := (leBytes w v.toNat).map .byte }) ∧
    exec (.tmkValueWrite u v) s = to' { x with value := if x.alg = 2 then v else v &&& 0xFFFFFFFF }) ∧
  (s.hw.barOpen = true → ∀ rest, x.queue = .byte b :: rest →
    (bits v.toNat 1 0 ≠ 3 → exec (.tmkCfgWrite u v) s = to' { x with
      init := x.init || v.getLsbD 2, queue := x.queue ++ [.cfg v] }) ∧
    (∀ w ∈ [1, 2, 4, 8], exec (.tmkDataWrite u w v) s = to' { x with queue := x.queue ++ (leBytes w v.toNat).map .byte }) ∧
    exec (.tmkValueWrite u v) s = to' { x with queue := x.queue ++ [.value v] }) ∧
  (s.hw.barOpen = true → exec (.tmkStatusWrite u v) s = to' { x with
    count := BitVec.ofNat 32 (bits v.toNat 63 32), rdEarly := x.rdEarly && !v.getLsbD 1 }) ∧
  (s.pending = [] → s.tmks = [(u.val, x)] → x.queue = [.byte b] → ∃ t, step s = .next t ∧
    t.tmk u.val = { x with value := tmkFeed x.alg x.value b, count := x.count + 1, queue := [] })

/-! ## BAR0 writes -/

/-- A BAR0 write before the firmware runs, or one narrower than a register or off its place, is discarded; EVT flags clear
where a 1 is written and the mask takes its value; a write to a register whose row has its own command has that command's
effect (R5-R7, R378, R403, R425). -/
def Obligations.RegisterWrites : Prop := ∀ (s : State) (v : W64) (off : BitVec 24) (w : Nat),
  let h : Hw := { s.hw with tst := { s.hw.tst with armedKey := false } }
  let e := s.hw.evt
  (s.hw.barOpen = false → off.toNat ≠ 0x50018 → exec (.registerWrite off w v) s = .next s) ∧
  (s.hw.barOpen = true →
    (w ≠ 8 ∨ off.toNat % 8 ≠ 0 → ¬ (0x18000 ≤ off.toNat ∧ off.toNat < 0x20000) →
      ¬ (0x40000 ≤ off.toNat ∧ off.toNat < 0x40800) → exec (.registerWrite off w v) s = .next { s with hw := h }) ∧
    exec (.registerWrite 0x30000 8 v) s = .next { s with hw := { h with evt := { e with
      flags := e.flags &&& ~~~(v.setWidth 44) } } } ∧
    exec (.registerWrite 0x30008 8 v) s = .next { s with hw := { h with evt := { e with mask := v.setWidth 44 } } }) ∧
  exec (.registerWrite 0x20000 8 v) s = exec (.stkCfgWrite v) s ∧
  exec (.registerWrite 0x50018 8 v) s = exec (.pwrShed (v.setWidth 32)) s ∧
  exec (.registerWrite 0x50020 8 v) s = exec (.thmCfgWrite v) s ∧
  exec (.registerWrite 0x70000 8 v) s = exec (.tstUnlock (v.setWidth 32)) s ∧
  exec (.registerWrite 0x500F00 8 v) s = exec (.lscaleWrite v) s

/-! ## The machine as a whole -/

/-- A step takes the command at the front of the queue and runs it on the state with the queue's rest; with nothing waiting,
one core cycle passes (the model's choice, log 5). -/
def Obligations.StepRunsFront : Prop := ∀ (s : State) (c : Instr) (cs : List Instr),
  step { s with pending := c :: cs } = exec c { s with pending := cs } ∧
  step { s with pending := [] } = .next (tick { s with pending := [] })

/-- Every command of every state goes on to a next state and leaves the queue of waiting commands as it is. With no
injection armed, one core cycle advances the clock by one and changes nothing but it, STK_TIME, the token bucket's level,
how far each sort job is, the touchmark units, what the arbiters count, and what their holders move: the lines that a core's
port has moved, flits that enter the fabric with the tokens of their messages, messages at the ports' egress, and pieces of
the pages that the tongs copy. -/
def Obligations.EveryCommandGoesOn : Prop := ∀ (s : State) (c : Instr),
  let h := s.hw
  let u := (tick s).hw
  (∃ t, exec c s = .next t ∧ t.pending = s.pending) ∧ (tick s).pending = s.pending ∧
  (h.tst.injArm = false →
    u = { h with
      now := h.now + 1, stk := u.stk, glb := u.glb, herders := u.herders, arbs := u.arbs, cores := u.cores, fabric := u.fabric
      ports := u.ports, tng := u.tng } ∧
    u.stk.num = h.stk.num ∧ u.stk.state = h.stk.state ∧ u.glb = { h.glb with paceLevel := u.glb.paceLevel } ∧
    u.tng = { h.tng with orders := u.tng.orders } ∧
    (u.tng.orders.map fun o => { o with todo := [] }) = (h.tng.orders.map fun o => { o with todo := [] }) ∧
    (nwf {} h.herders = true → ∀ k, u.herder k = { h.herder k with
      sortDone := (u.herder k).sortDone, sortPass := (u.herder k).sortPass }) ∧
    (∀ k, u.core k = { h.core k with
      portMoved := (u.core k).portMoved, portLast := (u.core k).portLast, toks := (u.core k).toks }) ∧
    (∀ k, u.port k = { h.port k with
      egress := (u.port k).egress, outQ := (u.port k).outQ, replay := (u.port k).replay, txNext := (u.port k).txNext
      txCredit := (u.port k).txCredit, again := (u.port k).again, errReplays := (u.port k).errReplays }))

/-- Every step of the module, whatever command it runs, keeps the touchmark units sound: a 32-bit algorithm's register lies
in bits [31:0], no unit computes algorithm 3, a queue that is not empty waits for a byte, and TMK_CFG.init reads 1 exactly
while a write that asks for it waits (R399-R402). -/
def Obligations.TouchmarksStaySound : Prop := ∀ (s t : State), s.tmksSound → step s = .next t → t.tmksSound

/-- What reset leaves, and that the touchmark units are sound there: memories, queues and cores with nothing in them, the
registers at the values of their tables (R52, R126, R143, R229, R268, R293, R321, R346, R368, R379, R397, R402). -/
def Obligations.ResetState : Prop :=
  let s := State.reset
  let read (off : Nat) := s.regRead off
  s.pending = [] ∧ s.memOk ∧ s.tmksSound ∧ s.hw.fabric = [] ∧ s.hw.routeEpoch = 0 ∧ s.hw.stk.state = .idle ∧
  s.hw.running = none ∧ s.hw.armed = none ∧ s.hw.wgt.ctxs = [] ∧ s.hw.glb.gweku = false ∧
  read 0x00000 = 0xD2215748 ∧
  read 0x20000 = 0x19 * 2 ^ 34 + 0x10 * 2 ^ 27 + 0x4E2 ∧ read 0x20008 = 0x10 * 2 ^ 18 + 0x10 * 2 ^ 12 + 8 ∧
  read 0x30000 = 0 ∧ read 0x40020 = 1 ∧ read 0x70008 = 0 ∧ read 0x70010 = 0 ∧ read 0x70030 = 1 * 2 ^ 23 ∧
  read 0x50020 = 0xDCB354 ∧ read 0x50058 = 0x02D000FA5DC03E80 ∧ (∀ f < 48, read (0x80000 + f * 0x1000 + 0x20) = 0xFF ∧
    read (0x80000 + f * 0x1000 + 0x50) = 0x10 ∧ read (0x80000 + f * 0x1000 + 8) = 0) ∧
  read 0x400000 = 0xFFFF * 2 ^ 16 ∧ read 0x400008 = 0x14 ∧ read 0x500F00 = 0x7D0 * 2 ^ 25 + 0x18 * 2 ^ 16 + 0xF0 * 2 ^ 8 ∧
  read 0xA00050 = 0xA ∧ read 0x18 = 0x40 * 2 ^ 24 ∧
  (∀ q < 65536, read (0x600000 + q * 0x40 + 0x10) = 0)

/-- GLB_ID reads 0x0000_0000_D221_5748 in every state, from reset and before any function is ready: mem_step 0xD2,
logic_step 0x21, part 0x5748; a write to it changes nothing that it reads (R8). -/
def Obligations.ModuleIdentity : Prop := ∀ (s t : State) (v : W64),
  s.bar0Read 0 8 = leBytes 8 0x00000000D2215748 ∧ State.reset.bar0Read 0 8 = leBytes 8 0x00000000D2215748 ∧
  (bits (s.regRead 0) 63 32 = 0 ∧ bits (s.regRead 0) 31 24 = 0xD2 ∧ bits (s.regRead 0) 23 16 = 0x21 ∧
    bits (s.regRead 0) 15 0 = 0x5748) ∧
  (exec (.registerWrite 0 8 v) s = .next t → t.bar0Read 0 8 = s.bar0Read 0 8)

/-- The generator of stochastic rounding: a draw steps the 64-bit xorshift register, which is never zero, and shows its top
16 bits; CSRW of SR_SEED sets it from the word written, CSRR of it returns that word, and activation seeds each mapped core
with its ID xor bits [31:0] of the activation stroke (R111). -/
def Obligations.RoundingGenerator : Prop :=
  (∀ (g : W64) (n : Nat),
    let a := g ^^^ (g <<< 13)
    let b := a ^^^ (a >>> 7)
    let d := b ^^^ (b <<< 17)
    roundings true (n + 1) g = (.sr (bits d.toNat 63 48) :: (roundings true n d).1, (roundings true n d).2) ∧
    (g ≠ 0 → d ≠ 0)) ∧
  (∀ (s : State) (c : CoreId) (i : Ins), i.imm = 3 →
    (MayIssue s c 1 i { srcA := true, imm := 0xFFFFFFFF } (isS i.srcA) →
      let w := (s.coreOf c).sreg i.srcA.toNat
      let g : W64 := BitVec.ofNat 64 (w.toNat * 2 ^ 32 + (w ^^^ 0x9E3779B9).toNat)
      exec (.csrw c i) s = .next (s.coreTo c { s.coreOf c with srSeed := w, srState := g, pc := ((s.coreOf c).pc + 1) % 512 }) ∧
      g ≠ 0) ∧
    (MayIssue s c 1 i { dst := true, imm := 0xFFFFFFFF } (isS i.dst) →
      ∃ y, exec (.csrr c i) s = .next (s.coreTo c y) ∧ ScalarResult i (s.coreOf c).srSeed (s.coreOf c) y)) ∧
  (∀ (s : Hw) (b : Billet) (c image n : Nat) (im : Image), (c, image) ∈ b.core.map →
    (∀ e ∈ b.core.map, e.1 = c → e.2 = image) → b.core.images[image]? = some im →
    let y := (s.loadCores b n).core c
    let w : W32 := BitVec.ofNat 32 c ^^^ BitVec.ofNat 32 n
    y.srSeed = w ∧ y.srState = w ++ (w ^^^ 0x9E3779B9))

/-- An E8M0 byte e from 0 to 254 holds the scale 2^(e - 127) and 0xFF is NaN: every element whose scale byte is 0xFF is NaN
whatever its own code, in MX formats and in LQ4, and every other finite element is its own value times that scale (R94). -/
def Obligations.ScaleBytes : Prop := ∀ (m : NMap Byte) (d : Desc) (r c : Nat),
  let f := dFmt d
  let b := (nget 0 m (scaleAddr d (lineOf d r c) (posOf d r c))).toNat
  let code := sramBits m (elemBit d r c) (fmtBits f)
  let own := if isLq4 f then fmtE4M3.decode (nget 0 m (bookAddr d (lineOf d r c) (posOf d r c) + code)).toNat else codeVal f code
  isMx f = true ∨ isLq4 f = true →
  (b = 0xFF → elemVal m d r c = .nan) ∧
  (b ≠ 0xFF → (∀ neg k e, own = .fin neg k e → elemVal m d r c = .fin neg k (e + ((b : Int) - 127))) ∧
    ((∀ neg k e, own ≠ .fin neg k e) → elemVal m d r c = own))

/-- Doorbell word 0 sets the submission tail and word 1 the completion head from bits [31:0]; a write is discarded with
QPC_ERR.doorbell set and RING_ERR raised where the pair is disabled, the new tail lies behind the last accepted one or more
than the size beyond the head, or the new completion head lies behind the old one or beyond the tail (R390). -/
def Obligations.Doorbells : Prop := ∀ (s : State) (q : W16) (v : W64),
  let x := s.hw.qp q.toNat
  let n : W32 := v.setWidth 32
  let dropped (r : Host.Outcome State Fault Refusal) := ∃ t, r = .next t ∧ (t.hw.qp q.toNat).errDoorbell = true ∧
    t.hw.evt.flags.getLsbD 41 = true ∧ (t.hw.qp q.toNat).sqTail = x.sqTail ∧ (t.hw.qp q.toNat).cqHead = x.cqHead ∧
    (t.hw.qp q.toNat).stamps = x.stamps ∧ (t.hw.qp q.toNat).waiting = x.waiting ∧ t.hw.hostMem = s.hw.hostMem
  s.hw.barOpen = true → x.cqFill ≤ x.cqSize →
  (let out := x.enable = false ∨ (n - x.sqTail).toNat ≥ 2 ^ 31 ∨ (n - x.sqHead).toNat > 2 ^ x.sqLog.toNat
   (out → dropped (exec (.sqDoorbell q v) s)) ∧
   (¬ out → ∃ y, exec (.sqDoorbell q v) s = .next { s with hw := s.hw.setQp q.toNat y } ∧
     y = { x with sqTail := n, stamps := y.stamps } ∧ y.stamps.take x.stamps.length = x.stamps)) ∧
  (let out := x.enable = false ∨ (n - x.cqHead).toNat > (x.cqTail - x.cqHead).toNat
   (out → dropped (exec (.cqDoorbell q v) s)) ∧
   (¬ out → ∃ t, exec (.cqDoorbell q v) s = .next t ∧ (t.hw.qp q.toNat).cqHead = n ∧ (t.hw.qp q.toNat).sqTail = x.sqTail ∧
     (t.hw.qp q.toNat).errDoorbell = x.errDoorbell ∧
     (x.waiting = [] → t = { s with hw := s.hw.setQp q.toNat { x with cqHead := n } })))

/-- TMK_VALUE and TMK_RESULT are result windows: a read while the unit is not ready returns zero, sets rd_early, which stays
set until the driver clears it, and raises RD_EARLY; a read while it is ready returns the value and changes nothing, so that
a repeated read returns the same (R398). -/
def Obligations.ResultWindows : Prop := ∀ (s : State) (u : Fin 32) (final : Bool) (v : W64) (w : Nat),
  let x := s.tmk u.val
  s.hw.barOpen = true →
  (x.queue = [] → exec (.resultWindowRead u final) s = .next { s with hw := { s.hw with
    readData := leBytes 8 (if final then x.value ^^^ tmkXor x.alg else x.value).toNat } }) ∧
  (x.queue ≠ [] → ∃ t, exec (.resultWindowRead u final) s = .next t ∧ t.hw.readData = leBytes 8 0 ∧
    t.tmk u.val = { x with rdEarly := true } ∧ t.hw.evt.flags.getLsbD 42 = true) ∧
  (x.rdEarly = true →
    (∀ k ∈ [Instr.tmkCfgWrite u v, .tmkDataWrite u w v, .tmkValueWrite u v, .resultWindowRead u final],
      ∃ t, exec k s = .next t ∧ (t.tmk u.val).rdEarly = true) ∧
    (nwf {} s.tmks = true → ((tick s).tmk u.val).rdEarly = true) ∧
    (v.getLsbD 1 = false → ∃ t, exec (.tmkStatusWrite u v) s = .next t ∧ (t.tmk u.val).rdEarly = true) ∧
    (v.getLsbD 1 = true → ∃ t, exec (.tmkStatusWrite u v) s = .next t ∧ (t.tmk u.val).rdEarly = false))
end

