-- ==== Sys2Proof/Laws/NMap.lean ====
section
/-!
SUPPORT. Laws of sparse maps: what a read gives after a write, and that a write keeps the canonical form.
-/
namespace Sys2Proof.Machine

variable {V : Type}

theorem nget_ninsert (d : V) (m : NMap V) (q r : Nat) (x : V) :
    nget d (ninsert q x m) r = if r = q then x else nget d m r := by
  induction m with
  | nil => simp [ninsert, nget, eq_comm]
  | cons e m ih =>
    obtain ⟨k, v⟩ := e
    simp only [ninsert]
    by_cases h1 : q < k
    · rw [if_pos h1]
      by_cases h2 : q = r
      · simp [nget, h2]
      · have h3 : ¬ r = q := fun h => h2 h.symm
        simp [nget, h2, h3]
    · rw [if_neg h1]
      by_cases h2 : q = k
      · rw [if_pos h2]
        by_cases h3 : q = r
        · simp [nget, h3]
        · have h4 : ¬ r = q := fun h => h3 h.symm
          have h5 : ¬ k = r := by omega
          simp [nget, h3, h4, h5]
      · rw [if_neg h2]
        by_cases h3 : k = r
        · have h4 : ¬ r = q := by omega
          simp [nget, h3, h4]
        · simp [nget, h3, ih]

theorem nget_nerase (d : V) (m : NMap V) (q r : Nat) :
    nget d (nerase q m) r = if r = q then d else nget d m r := by
  induction m with
  | nil => simp [nerase, nget]
  | cons e m ih =>
    obtain ⟨k, v⟩ := e
    simp only [nerase]
    split
    · rw [ih]; simp only [nget]; split <;> first | rfl | (split <;> first | rfl | omega)
    · simp only [nget, ih]; split <;> split <;> first | rfl | omega

/-- A read after a write: the written value at its key, the old one elsewhere. -/
@[simp] theorem nget_nput [DecidableEq V] (d : V) (m : NMap V) (q r : Nat) (x : V) :
    nget d (nput d m q x) r = if r = q then x else nget d m r := by
  simp only [nput]
  split
  · next h => rw [nget_nerase]; split <;> simp_all
  · exact nget_ninsert d m q r x

/-! ## The canonical form -/

/-- Every key of a map is above `b`. -/
def above (b : Nat) (m : NMap V) : Prop := ∀ e ∈ m, b < e.1

theorem nwf_cons [DecidableEq V] (d : V) (k : Nat) (v : V) (m : NMap V) :
    nwf d ((k, v) :: m) = true ↔ v ≠ d ∧ above k m ∧ nwf d m = true := by
  induction m generalizing k v with
  | nil => simp [nwf, above]
  | cons e m ih =>
    obtain ⟨k', v'⟩ := e
    simp only [nwf, Bool.and_eq_true, decide_eq_true_eq]
    constructor
    · rintro ⟨⟨h1, h2⟩, h3⟩
      refine ⟨h1, ?_, h3⟩
      intro e he
      rcases List.mem_cons.1 he with rfl | he
      · exact h2
      · exact Nat.lt_trans h2 (((ih k' v').1 h3).2.1 e he)
    · rintro ⟨h1, h2, h3⟩
      exact ⟨⟨h1, h2 (k', v') (List.mem_cons_self ..)⟩, h3⟩

theorem above_ninsert {b q : Nat} {x : V} {m : NMap V} (h : above b m) (hq : b < q) : above b (ninsert q x m) := by
  induction m with
  | nil => intro e he; simp [ninsert] at he; subst he; exact hq
  | cons e m ih =>
    obtain ⟨k, v⟩ := e
    have hm : above b m := fun e he => h e (List.mem_cons_of_mem _ he)
    have hk : b < k := h (k, v) (List.mem_cons_self ..)
    intro e he
    simp only [ninsert] at he
    split at he
    · rcases List.mem_cons.1 he with rfl | he
      · exact hq
      · exact h e he
    · split at he
      · rcases List.mem_cons.1 he with rfl | he
        · exact hq
        · exact hm e he
      · rcases List.mem_cons.1 he with rfl | he
        · exact hk
        · exact ih hm e he

theorem above_nerase {b q : Nat} {m : NMap V} (h : above b m) : above b (nerase q m) := by
  induction m with
  | nil => exact h
  | cons e m ih =>
    obtain ⟨k, v⟩ := e
    have hm : above b m := fun e he => h e (List.mem_cons_of_mem _ he)
    simp only [nerase]
    split
    · exact ih hm
    · intro e he
      rcases List.mem_cons.1 he with rfl | he
      · exact h _ (List.mem_cons_self ..)
      · exact ih hm e he

theorem nwf_ninsert [DecidableEq V] {d x : V} {q : Nat} {m : NMap V} (hx : x ≠ d) (h : nwf d m = true) :
    nwf d (ninsert q x m) = true := by
  induction m with
  | nil => simp [ninsert, nwf, hx]
  | cons e m ih =>
    obtain ⟨k, v⟩ := e
    obtain ⟨h1, h2, h3⟩ := (nwf_cons d k v m).1 h
    simp only [ninsert]
    split
    · next hq =>
      refine (nwf_cons d q x _).2 ⟨hx, ?_, h⟩
      intro e he
      rcases List.mem_cons.1 he with rfl | he
      · exact hq
      · exact Nat.lt_trans hq (h2 e he)
    · split
      · next hq => subst hq; exact (nwf_cons d q x m).2 ⟨hx, h2, h3⟩
      · exact (nwf_cons d k v _).2 ⟨h1, above_ninsert h2 (by omega), ih h3⟩

theorem nwf_nerase [DecidableEq V] {d : V} {q : Nat} {m : NMap V} (h : nwf d m = true) : nwf d (nerase q m) = true := by
  induction m with
  | nil => rfl
  | cons e m ih =>
    obtain ⟨k, v⟩ := e
    obtain ⟨h1, h2, h3⟩ := (nwf_cons d k v m).1 h
    simp only [nerase]
    split
    · exact ih h3
    · exact (nwf_cons d k v _).2 ⟨h1, above_nerase h2, ih h3⟩

/-- A write keeps the canonical form. -/
theorem nwf_nput [DecidableEq V] {d : V} {m : NMap V} (q : Nat) (x : V) (h : nwf d m = true) :
    nwf d (nput d m q x) = true := by
  simp only [nput]
  split
  · exact nwf_nerase h
  · next hx => exact nwf_ninsert hx h

theorem nwf_nputList [DecidableEq V] {d : V} {m : NMap V} (q : Nat) (xs : List V) (h : nwf d m = true) :
    nwf d (nputList d m q xs) = true := by
  induction xs generalizing m q with
  | nil => exact h
  | cons x xs ih => exact ih _ (nwf_nput q x h)

theorem above_filter {b : Nat} {m : NMap V} {p : Nat × V → Bool} (h : above b m) : above b (m.filter p) :=
  fun e he => h e (List.mem_of_mem_filter he)

theorem nwf_filter [DecidableEq V] {d : V} {m : NMap V} (p : Nat × V → Bool) (h : nwf d m = true) :
    nwf d (m.filter p) = true := by
  induction m with
  | nil => rfl
  | cons e m ih =>
    obtain ⟨k, v⟩ := e
    obtain ⟨h1, h2, h3⟩ := (nwf_cons d k v m).1 h
    simp only [List.filter_cons]
    split
    · exact (nwf_cons d k v _).2 ⟨h1, above_filter h2, ih h3⟩
    · exact ih h3

/-! ## Memory operations keep the canonical form -/

theorem memWrite_wf (s : Hw) (off : Nat) (bs : List Byte) (h : Memory.wf s.mem = true) :
    Memory.wf (s.memWrite off bs).mem = true := nwf_nputList off bs h

theorem hostWrite_wf (s : Hw) (a : Nat) (bs : List Byte) (h : Memory.wf s.hostMem = true) :
    Memory.wf (s.hostWrite a bs).hostMem = true := nwf_nputList a bs h

theorem memErase_wf (s : Hw) (off n : Nat) (h : Memory.wf s.mem = true) : Memory.wf (s.memErase off n).mem = true :=
  nwf_filter _ h

theorem memCopy_wf (s : Hw) (src dst n : Nat) (h : Memory.wf s.mem = true) :
    Memory.wf (s.memCopy src dst n).mem = true := by
  have key : ∀ (es : List (Nat × Byte)) (m : NMap Byte), nwf 0 m = true →
      nwf 0 (es.foldl (fun m e => nput 0 m (e.1 - src + dst) e.2) m) = true := by
    intro es
    induction es with
    | nil => intro m hm; exact hm
    | cons e es ih => intro m hm; exact ih _ (nwf_nput _ _ hm)
  exact key _ _ (nwf_filter _ h)

theorem memWriteAll_wf (s : Hw) (off : Nat) (bs : List Byte) (h : Memory.wf s.mem = true) :
    Memory.wf (s.memWriteAll off bs).mem = true := by
  have key : ∀ (fs : List Nat) (s : Hw), Memory.wf s.mem = true →
      Memory.wf (fs.foldl (fun (s : Hw) f => if s.deepOff f then s else s.memWrite (bonded f 0 off) bs) s).mem = true := by
    intro fs
    induction fs with
    | nil => intro s hs; exact hs
    | cons f fs ih =>
      intro s hs
      refine ih _ ?_
      show Memory.wf (if s.deepOff f then s else s.memWrite (bonded f 0 off) bs).mem = true
      by_cases hd : s.deepOff f = true
      · rw [if_pos hd]; exact hs
      · rw [if_neg hd]; exact memWrite_wf s _ bs hs
  exact key _ _ h

/-- A byte read after a write: the written byte inside the range, the old one outside. -/
theorem nget_nputList [DecidableEq V] (d : V) (m : NMap V) (q : Nat) (xs : List V) (r : Nat) :
    nget d (nputList d m q xs) r = if q ≤ r ∧ r < q + xs.length then xs.getD (r - q) d else nget d m r := by
  induction xs generalizing m q with
  | nil => simp [nputList]
  | cons x xs ih =>
    simp only [nputList, ih, nget_nput, List.length_cons]
    by_cases h1 : r = q
    · subst h1; simp
    · by_cases h2 : q + 1 ≤ r ∧ r < q + 1 + xs.length
      · have h3 : q ≤ r ∧ r < q + (xs.length + 1) := by omega
        have h4 : r - q = (r - (q + 1)) + 1 := by omega
        simp [h2, h3, h4]
      · have h3 : ¬ (q ≤ r ∧ r < q + (xs.length + 1)) := by omega
        rw [if_neg h2, if_neg h3, if_neg h1]

theorem ngetList_length (d : V) (m : NMap V) (q n : Nat) : (ngetList d m q n).length = n := by
  induction n generalizing q with
  | zero => rfl
  | succ n ih => simp [ngetList, ih]

theorem ngetList_getElem (d : V) (m : NMap V) (q n i : Nat) (h : i < (ngetList d m q n).length) :
    (ngetList d m q n)[i] = nget d m (q + i) := by
  induction n generalizing q i with
  | zero => simp [ngetList] at h
  | succ n ih =>
    cases i with
    | zero => simp [ngetList]
    | succ i => simp only [ngetList, List.getElem_cons_succ, ih, Nat.add_right_comm, ← Nat.add_assoc]

/-- The bytes read where a list was written are that list. -/
theorem ngetList_nputList [DecidableEq V] (d : V) (m : NMap V) (q : Nat) (xs : List V) :
    ngetList d (nputList d m q xs) q xs.length = xs := by
  refine List.ext_getElem (ngetList_length ..) fun i h1 h2 => ?_
  rw [ngetList_getElem, nget_nputList, if_pos ⟨by omega, by omega⟩]
  simp [h2]

end Sys2Proof.Machine
end

