-- ==== Sys2Proof/Laws/State.lean ====
section
/-!
SUPPORT. What each update of one unit leaves alone, field by field, and what a unit reads after it is set.
-/
namespace Sys2Proof.Machine

/-! ### setCore -/

@[simp] theorem setCore_glb (s : Hw) (c : Nat) (x : CoreState) : (s.setCore c x).glb = s.glb := rfl
@[simp] theorem setCore_mbx (s : Hw) (c : Nat) (x : CoreState) : (s.setCore c x).mbx = s.mbx := rfl
@[simp] theorem setCore_stk (s : Hw) (c : Nat) (x : CoreState) : (s.setCore c x).stk = s.stk := rfl
@[simp] theorem setCore_evt (s : Hw) (c : Nat) (x : CoreState) : (s.setCore c x).evt = s.evt := rfl
@[simp] theorem setCore_evu (s : Hw) (c : Nat) (x : CoreState) : (s.setCore c x).evu = s.evu := rfl
@[simp] theorem setCore_armed (s : Hw) (c : Nat) (x : CoreState) : (s.setCore c x).armed = s.armed := rfl
@[simp] theorem setCore_running (s : Hw) (c : Nat) (x : CoreState) : (s.setCore c x).running = s.running := rfl
@[simp] theorem setCore_incoming (s : Hw) (c : Nat) (x : CoreState) : (s.setCore c x).incoming = s.incoming := rfl
@[simp] theorem setCore_snaps (s : Hw) (c : Nat) (x : CoreState) : (s.setCore c x).snaps = s.snaps := rfl
@[simp] theorem setCore_fabric (s : Hw) (c : Nat) (x : CoreState) : (s.setCore c x).fabric = s.fabric := rfl
@[simp] theorem setCore_routeEpoch (s : Hw) (c : Nat) (x : CoreState) : (s.setCore c x).routeEpoch = s.routeEpoch := rfl
@[simp] theorem setCore_arbs (s : Hw) (c : Nat) (x : CoreState) : (s.setCore c x).arbs = s.arbs := rfl
@[simp] theorem setCore_flds (s : Hw) (c : Nat) (x : CoreState) : (s.setCore c x).flds = s.flds := rfl
@[simp] theorem setCore_tst (s : Hw) (c : Nat) (x : CoreState) : (s.setCore c x).tst = s.tst := rfl
@[simp] theorem setCore_herders (s : Hw) (c : Nat) (x : CoreState) : (s.setCore c x).herders = s.herders := rfl
@[simp] theorem setCore_kv (s : Hw) (c : Nat) (x : CoreState) : (s.setCore c x).kv = s.kv := rfl
@[simp] theorem setCore_bwd (s : Hw) (c : Nat) (x : CoreState) : (s.setCore c x).bwd = s.bwd := rfl
@[simp] theorem setCore_engines (s : Hw) (c : Nat) (x : CoreState) : (s.setCore c x).engines = s.engines := rfl
@[simp] theorem setCore_wgt (s : Hw) (c : Nat) (x : CoreState) : (s.setCore c x).wgt = s.wgt := rfl
@[simp] theorem setCore_tng (s : Hw) (c : Nat) (x : CoreState) : (s.setCore c x).tng = s.tng := rfl
@[simp] theorem setCore_ports (s : Hw) (c : Nat) (x : CoreState) : (s.setCore c x).ports = s.ports := rfl
@[simp] theorem setCore_spn (s : Hw) (c : Nat) (x : CoreState) : (s.setCore c x).spn = s.spn := rfl
@[simp] theorem setCore_flt (s : Hw) (c : Nat) (x : CoreState) : (s.setCore c x).flt = s.flt := rfl
@[simp] theorem setCore_flash (s : Hw) (c : Nat) (x : CoreState) : (s.setCore c x).flash = s.flash := rfl
@[simp] theorem setCore_pwr (s : Hw) (c : Nat) (x : CoreState) : (s.setCore c x).pwr = s.pwr := rfl
@[simp] theorem setCore_qps (s : Hw) (c : Nat) (x : CoreState) : (s.setCore c x).qps = s.qps := rfl
@[simp] theorem setCore_mem (s : Hw) (c : Nat) (x : CoreState) : (s.setCore c x).mem = s.mem := rfl
@[simp] theorem setCore_hostMem (s : Hw) (c : Nat) (x : CoreState) : (s.setCore c x).hostMem = s.hostMem := rfl
@[simp] theorem setCore_readData (s : Hw) (c : Nat) (x : CoreState) : (s.setCore c x).readData = s.readData := rfl
@[simp] theorem setCore_now (s : Hw) (c : Nat) (x : CoreState) : (s.setCore c x).now = s.now := rfl

/-! ### setFld -/

@[simp] theorem setFld_glb (s : Hw) (f : Nat) (x : Field) : (s.setFld f x).glb = s.glb := rfl
@[simp] theorem setFld_mbx (s : Hw) (f : Nat) (x : Field) : (s.setFld f x).mbx = s.mbx := rfl
@[simp] theorem setFld_stk (s : Hw) (f : Nat) (x : Field) : (s.setFld f x).stk = s.stk := rfl
@[simp] theorem setFld_evt (s : Hw) (f : Nat) (x : Field) : (s.setFld f x).evt = s.evt := rfl
@[simp] theorem setFld_evu (s : Hw) (f : Nat) (x : Field) : (s.setFld f x).evu = s.evu := rfl
@[simp] theorem setFld_armed (s : Hw) (f : Nat) (x : Field) : (s.setFld f x).armed = s.armed := rfl
@[simp] theorem setFld_running (s : Hw) (f : Nat) (x : Field) : (s.setFld f x).running = s.running := rfl
@[simp] theorem setFld_incoming (s : Hw) (f : Nat) (x : Field) : (s.setFld f x).incoming = s.incoming := rfl
@[simp] theorem setFld_cores (s : Hw) (f : Nat) (x : Field) : (s.setFld f x).cores = s.cores := rfl
@[simp] theorem setFld_snaps (s : Hw) (f : Nat) (x : Field) : (s.setFld f x).snaps = s.snaps := rfl
@[simp] theorem setFld_fabric (s : Hw) (f : Nat) (x : Field) : (s.setFld f x).fabric = s.fabric := rfl
@[simp] theorem setFld_routeEpoch (s : Hw) (f : Nat) (x : Field) : (s.setFld f x).routeEpoch = s.routeEpoch := rfl
@[simp] theorem setFld_arbs (s : Hw) (f : Nat) (x : Field) : (s.setFld f x).arbs = s.arbs := rfl
@[simp] theorem setFld_tst (s : Hw) (f : Nat) (x : Field) : (s.setFld f x).tst = s.tst := rfl
@[simp] theorem setFld_herders (s : Hw) (f : Nat) (x : Field) : (s.setFld f x).herders = s.herders := rfl
@[simp] theorem setFld_kv (s : Hw) (f : Nat) (x : Field) : (s.setFld f x).kv = s.kv := rfl
@[simp] theorem setFld_bwd (s : Hw) (f : Nat) (x : Field) : (s.setFld f x).bwd = s.bwd := rfl
@[simp] theorem setFld_engines (s : Hw) (f : Nat) (x : Field) : (s.setFld f x).engines = s.engines := rfl
@[simp] theorem setFld_wgt (s : Hw) (f : Nat) (x : Field) : (s.setFld f x).wgt = s.wgt := rfl
@[simp] theorem setFld_tng (s : Hw) (f : Nat) (x : Field) : (s.setFld f x).tng = s.tng := rfl
@[simp] theorem setFld_ports (s : Hw) (f : Nat) (x : Field) : (s.setFld f x).ports = s.ports := rfl
@[simp] theorem setFld_spn (s : Hw) (f : Nat) (x : Field) : (s.setFld f x).spn = s.spn := rfl
@[simp] theorem setFld_flt (s : Hw) (f : Nat) (x : Field) : (s.setFld f x).flt = s.flt := rfl
@[simp] theorem setFld_flash (s : Hw) (f : Nat) (x : Field) : (s.setFld f x).flash = s.flash := rfl
@[simp] theorem setFld_pwr (s : Hw) (f : Nat) (x : Field) : (s.setFld f x).pwr = s.pwr := rfl
@[simp] theorem setFld_qps (s : Hw) (f : Nat) (x : Field) : (s.setFld f x).qps = s.qps := rfl
@[simp] theorem setFld_mem (s : Hw) (f : Nat) (x : Field) : (s.setFld f x).mem = s.mem := rfl
@[simp] theorem setFld_hostMem (s : Hw) (f : Nat) (x : Field) : (s.setFld f x).hostMem = s.hostMem := rfl
@[simp] theorem setFld_readData (s : Hw) (f : Nat) (x : Field) : (s.setFld f x).readData = s.readData := rfl
@[simp] theorem setFld_now (s : Hw) (f : Nat) (x : Field) : (s.setFld f x).now = s.now := rfl

/-! ### setHerder -/

@[simp] theorem setHerder_glb (s : Hw) (h : Nat) (x : Herder) : (s.setHerder h x).glb = s.glb := rfl
@[simp] theorem setHerder_mbx (s : Hw) (h : Nat) (x : Herder) : (s.setHerder h x).mbx = s.mbx := rfl
@[simp] theorem setHerder_stk (s : Hw) (h : Nat) (x : Herder) : (s.setHerder h x).stk = s.stk := rfl
@[simp] theorem setHerder_evt (s : Hw) (h : Nat) (x : Herder) : (s.setHerder h x).evt = s.evt := rfl
@[simp] theorem setHerder_evu (s : Hw) (h : Nat) (x : Herder) : (s.setHerder h x).evu = s.evu := rfl
@[simp] theorem setHerder_armed (s : Hw) (h : Nat) (x : Herder) : (s.setHerder h x).armed = s.armed := rfl
@[simp] theorem setHerder_running (s : Hw) (h : Nat) (x : Herder) : (s.setHerder h x).running = s.running := rfl
@[simp] theorem setHerder_incoming (s : Hw) (h : Nat) (x : Herder) : (s.setHerder h x).incoming = s.incoming := rfl
@[simp] theorem setHerder_cores (s : Hw) (h : Nat) (x : Herder) : (s.setHerder h x).cores = s.cores := rfl
@[simp] theorem setHerder_snaps (s : Hw) (h : Nat) (x : Herder) : (s.setHerder h x).snaps = s.snaps := rfl
@[simp] theorem setHerder_fabric (s : Hw) (h : Nat) (x : Herder) : (s.setHerder h x).fabric = s.fabric := rfl
@[simp] theorem setHerder_routeEpoch (s : Hw) (h : Nat) (x : Herder) : (s.setHerder h x).routeEpoch = s.routeEpoch := rfl
@[simp] theorem setHerder_arbs (s : Hw) (h : Nat) (x : Herder) : (s.setHerder h x).arbs = s.arbs := rfl
@[simp] theorem setHerder_flds (s : Hw) (h : Nat) (x : Herder) : (s.setHerder h x).flds = s.flds := rfl
@[simp] theorem setHerder_tst (s : Hw) (h : Nat) (x : Herder) : (s.setHerder h x).tst = s.tst := rfl
@[simp] theorem setHerder_kv (s : Hw) (h : Nat) (x : Herder) : (s.setHerder h x).kv = s.kv := rfl
@[simp] theorem setHerder_bwd (s : Hw) (h : Nat) (x : Herder) : (s.setHerder h x).bwd = s.bwd := rfl
@[simp] theorem setHerder_engines (s : Hw) (h : Nat) (x : Herder) : (s.setHerder h x).engines = s.engines := rfl
@[simp] theorem setHerder_wgt (s : Hw) (h : Nat) (x : Herder) : (s.setHerder h x).wgt = s.wgt := rfl
@[simp] theorem setHerder_tng (s : Hw) (h : Nat) (x : Herder) : (s.setHerder h x).tng = s.tng := rfl
@[simp] theorem setHerder_ports (s : Hw) (h : Nat) (x : Herder) : (s.setHerder h x).ports = s.ports := rfl
@[simp] theorem setHerder_spn (s : Hw) (h : Nat) (x : Herder) : (s.setHerder h x).spn = s.spn := rfl
@[simp] theorem setHerder_flt (s : Hw) (h : Nat) (x : Herder) : (s.setHerder h x).flt = s.flt := rfl
@[simp] theorem setHerder_flash (s : Hw) (h : Nat) (x : Herder) : (s.setHerder h x).flash = s.flash := rfl
@[simp] theorem setHerder_pwr (s : Hw) (h : Nat) (x : Herder) : (s.setHerder h x).pwr = s.pwr := rfl
@[simp] theorem setHerder_qps (s : Hw) (h : Nat) (x : Herder) : (s.setHerder h x).qps = s.qps := rfl
@[simp] theorem setHerder_mem (s : Hw) (h : Nat) (x : Herder) : (s.setHerder h x).mem = s.mem := rfl
@[simp] theorem setHerder_hostMem (s : Hw) (h : Nat) (x : Herder) : (s.setHerder h x).hostMem = s.hostMem := rfl
@[simp] theorem setHerder_readData (s : Hw) (h : Nat) (x : Herder) : (s.setHerder h x).readData = s.readData := rfl
@[simp] theorem setHerder_now (s : Hw) (h : Nat) (x : Herder) : (s.setHerder h x).now = s.now := rfl

/-! ### setEngine -/

@[simp] theorem setEngine_glb (s : Hw) (e : Nat) (x : Engine) : (s.setEngine e x).glb = s.glb := rfl
@[simp] theorem setEngine_mbx (s : Hw) (e : Nat) (x : Engine) : (s.setEngine e x).mbx = s.mbx := rfl
@[simp] theorem setEngine_stk (s : Hw) (e : Nat) (x : Engine) : (s.setEngine e x).stk = s.stk := rfl
@[simp] theorem setEngine_evt (s : Hw) (e : Nat) (x : Engine) : (s.setEngine e x).evt = s.evt := rfl
@[simp] theorem setEngine_evu (s : Hw) (e : Nat) (x : Engine) : (s.setEngine e x).evu = s.evu := rfl
@[simp] theorem setEngine_armed (s : Hw) (e : Nat) (x : Engine) : (s.setEngine e x).armed = s.armed := rfl
@[simp] theorem setEngine_running (s : Hw) (e : Nat) (x : Engine) : (s.setEngine e x).running = s.running := rfl
@[simp] theorem setEngine_incoming (s : Hw) (e : Nat) (x : Engine) : (s.setEngine e x).incoming = s.incoming := rfl
@[simp] theorem setEngine_cores (s : Hw) (e : Nat) (x : Engine) : (s.setEngine e x).cores = s.cores := rfl
@[simp] theorem setEngine_snaps (s : Hw) (e : Nat) (x : Engine) : (s.setEngine e x).snaps = s.snaps := rfl
@[simp] theorem setEngine_fabric (s : Hw) (e : Nat) (x : Engine) : (s.setEngine e x).fabric = s.fabric := rfl
@[simp] theorem setEngine_routeEpoch (s : Hw) (e : Nat) (x : Engine) : (s.setEngine e x).routeEpoch = s.routeEpoch := rfl
@[simp] theorem setEngine_arbs (s : Hw) (e : Nat) (x : Engine) : (s.setEngine e x).arbs = s.arbs := rfl
@[simp] theorem setEngine_flds (s : Hw) (e : Nat) (x : Engine) : (s.setEngine e x).flds = s.flds := rfl
@[simp] theorem setEngine_tst (s : Hw) (e : Nat) (x : Engine) : (s.setEngine e x).tst = s.tst := rfl
@[simp] theorem setEngine_herders (s : Hw) (e : Nat) (x : Engine) : (s.setEngine e x).herders = s.herders := rfl
@[simp] theorem setEngine_kv (s : Hw) (e : Nat) (x : Engine) : (s.setEngine e x).kv = s.kv := rfl
@[simp] theorem setEngine_bwd (s : Hw) (e : Nat) (x : Engine) : (s.setEngine e x).bwd = s.bwd := rfl
@[simp] theorem setEngine_wgt (s : Hw) (e : Nat) (x : Engine) : (s.setEngine e x).wgt = s.wgt := rfl
@[simp] theorem setEngine_tng (s : Hw) (e : Nat) (x : Engine) : (s.setEngine e x).tng = s.tng := rfl
@[simp] theorem setEngine_ports (s : Hw) (e : Nat) (x : Engine) : (s.setEngine e x).ports = s.ports := rfl
@[simp] theorem setEngine_spn (s : Hw) (e : Nat) (x : Engine) : (s.setEngine e x).spn = s.spn := rfl
@[simp] theorem setEngine_flt (s : Hw) (e : Nat) (x : Engine) : (s.setEngine e x).flt = s.flt := rfl
@[simp] theorem setEngine_flash (s : Hw) (e : Nat) (x : Engine) : (s.setEngine e x).flash = s.flash := rfl
@[simp] theorem setEngine_pwr (s : Hw) (e : Nat) (x : Engine) : (s.setEngine e x).pwr = s.pwr := rfl
@[simp] theorem setEngine_qps (s : Hw) (e : Nat) (x : Engine) : (s.setEngine e x).qps = s.qps := rfl
@[simp] theorem setEngine_mem (s : Hw) (e : Nat) (x : Engine) : (s.setEngine e x).mem = s.mem := rfl
@[simp] theorem setEngine_hostMem (s : Hw) (e : Nat) (x : Engine) : (s.setEngine e x).hostMem = s.hostMem := rfl
@[simp] theorem setEngine_readData (s : Hw) (e : Nat) (x : Engine) : (s.setEngine e x).readData = s.readData := rfl
@[simp] theorem setEngine_now (s : Hw) (e : Nat) (x : Engine) : (s.setEngine e x).now = s.now := rfl

/-! ### setPort -/

@[simp] theorem setPort_glb (s : Hw) (p : Nat) (x : Port) : (s.setPort p x).glb = s.glb := rfl
@[simp] theorem setPort_mbx (s : Hw) (p : Nat) (x : Port) : (s.setPort p x).mbx = s.mbx := rfl
@[simp] theorem setPort_stk (s : Hw) (p : Nat) (x : Port) : (s.setPort p x).stk = s.stk := rfl
@[simp] theorem setPort_evt (s : Hw) (p : Nat) (x : Port) : (s.setPort p x).evt = s.evt := rfl
@[simp] theorem setPort_evu (s : Hw) (p : Nat) (x : Port) : (s.setPort p x).evu = s.evu := rfl
@[simp] theorem setPort_armed (s : Hw) (p : Nat) (x : Port) : (s.setPort p x).armed = s.armed := rfl
@[simp] theorem setPort_running (s : Hw) (p : Nat) (x : Port) : (s.setPort p x).running = s.running := rfl
@[simp] theorem setPort_incoming (s : Hw) (p : Nat) (x : Port) : (s.setPort p x).incoming = s.incoming := rfl
@[simp] theorem setPort_cores (s : Hw) (p : Nat) (x : Port) : (s.setPort p x).cores = s.cores := rfl
@[simp] theorem setPort_snaps (s : Hw) (p : Nat) (x : Port) : (s.setPort p x).snaps = s.snaps := rfl
@[simp] theorem setPort_fabric (s : Hw) (p : Nat) (x : Port) : (s.setPort p x).fabric = s.fabric := rfl
@[simp] theorem setPort_routeEpoch (s : Hw) (p : Nat) (x : Port) : (s.setPort p x).routeEpoch = s.routeEpoch := rfl
@[simp] theorem setPort_arbs (s : Hw) (p : Nat) (x : Port) : (s.setPort p x).arbs = s.arbs := rfl
@[simp] theorem setPort_flds (s : Hw) (p : Nat) (x : Port) : (s.setPort p x).flds = s.flds := rfl
@[simp] theorem setPort_tst (s : Hw) (p : Nat) (x : Port) : (s.setPort p x).tst = s.tst := rfl
@[simp] theorem setPort_herders (s : Hw) (p : Nat) (x : Port) : (s.setPort p x).herders = s.herders := rfl
@[simp] theorem setPort_kv (s : Hw) (p : Nat) (x : Port) : (s.setPort p x).kv = s.kv := rfl
@[simp] theorem setPort_bwd (s : Hw) (p : Nat) (x : Port) : (s.setPort p x).bwd = s.bwd := rfl
@[simp] theorem setPort_engines (s : Hw) (p : Nat) (x : Port) : (s.setPort p x).engines = s.engines := rfl
@[simp] theorem setPort_wgt (s : Hw) (p : Nat) (x : Port) : (s.setPort p x).wgt = s.wgt := rfl
@[simp] theorem setPort_tng (s : Hw) (p : Nat) (x : Port) : (s.setPort p x).tng = s.tng := rfl
@[simp] theorem setPort_spn (s : Hw) (p : Nat) (x : Port) : (s.setPort p x).spn = s.spn := rfl
@[simp] theorem setPort_flt (s : Hw) (p : Nat) (x : Port) : (s.setPort p x).flt = s.flt := rfl
@[simp] theorem setPort_flash (s : Hw) (p : Nat) (x : Port) : (s.setPort p x).flash = s.flash := rfl
@[simp] theorem setPort_pwr (s : Hw) (p : Nat) (x : Port) : (s.setPort p x).pwr = s.pwr := rfl
@[simp] theorem setPort_qps (s : Hw) (p : Nat) (x : Port) : (s.setPort p x).qps = s.qps := rfl
@[simp] theorem setPort_mem (s : Hw) (p : Nat) (x : Port) : (s.setPort p x).mem = s.mem := rfl
@[simp] theorem setPort_hostMem (s : Hw) (p : Nat) (x : Port) : (s.setPort p x).hostMem = s.hostMem := rfl
@[simp] theorem setPort_readData (s : Hw) (p : Nat) (x : Port) : (s.setPort p x).readData = s.readData := rfl
@[simp] theorem setPort_now (s : Hw) (p : Nat) (x : Port) : (s.setPort p x).now = s.now := rfl

/-! ### setQp -/

@[simp] theorem setQp_glb (s : Hw) (q : Nat) (x : Qp) : (s.setQp q x).glb = s.glb := rfl
@[simp] theorem setQp_mbx (s : Hw) (q : Nat) (x : Qp) : (s.setQp q x).mbx = s.mbx := rfl
@[simp] theorem setQp_stk (s : Hw) (q : Nat) (x : Qp) : (s.setQp q x).stk = s.stk := rfl
@[simp] theorem setQp_evt (s : Hw) (q : Nat) (x : Qp) : (s.setQp q x).evt = s.evt := rfl
@[simp] theorem setQp_evu (s : Hw) (q : Nat) (x : Qp) : (s.setQp q x).evu = s.evu := rfl
@[simp] theorem setQp_armed (s : Hw) (q : Nat) (x : Qp) : (s.setQp q x).armed = s.armed := rfl
@[simp] theorem setQp_running (s : Hw) (q : Nat) (x : Qp) : (s.setQp q x).running = s.running := rfl
@[simp] theorem setQp_incoming (s : Hw) (q : Nat) (x : Qp) : (s.setQp q x).incoming = s.incoming := rfl
@[simp] theorem setQp_cores (s : Hw) (q : Nat) (x : Qp) : (s.setQp q x).cores = s.cores := rfl
@[simp] theorem setQp_snaps (s : Hw) (q : Nat) (x : Qp) : (s.setQp q x).snaps = s.snaps := rfl
@[simp] theorem setQp_fabric (s : Hw) (q : Nat) (x : Qp) : (s.setQp q x).fabric = s.fabric := rfl
@[simp] theorem setQp_routeEpoch (s : Hw) (q : Nat) (x : Qp) : (s.setQp q x).routeEpoch = s.routeEpoch := rfl
@[simp] theorem setQp_arbs (s : Hw) (q : Nat) (x : Qp) : (s.setQp q x).arbs = s.arbs := rfl
@[simp] theorem setQp_flds (s : Hw) (q : Nat) (x : Qp) : (s.setQp q x).flds = s.flds := rfl
@[simp] theorem setQp_tst (s : Hw) (q : Nat) (x : Qp) : (s.setQp q x).tst = s.tst := rfl
@[simp] theorem setQp_herders (s : Hw) (q : Nat) (x : Qp) : (s.setQp q x).herders = s.herders := rfl
@[simp] theorem setQp_kv (s : Hw) (q : Nat) (x : Qp) : (s.setQp q x).kv = s.kv := rfl
@[simp] theorem setQp_bwd (s : Hw) (q : Nat) (x : Qp) : (s.setQp q x).bwd = s.bwd := rfl
@[simp] theorem setQp_engines (s : Hw) (q : Nat) (x : Qp) : (s.setQp q x).engines = s.engines := rfl
@[simp] theorem setQp_wgt (s : Hw) (q : Nat) (x : Qp) : (s.setQp q x).wgt = s.wgt := rfl
@[simp] theorem setQp_tng (s : Hw) (q : Nat) (x : Qp) : (s.setQp q x).tng = s.tng := rfl
@[simp] theorem setQp_ports (s : Hw) (q : Nat) (x : Qp) : (s.setQp q x).ports = s.ports := rfl
@[simp] theorem setQp_spn (s : Hw) (q : Nat) (x : Qp) : (s.setQp q x).spn = s.spn := rfl
@[simp] theorem setQp_flt (s : Hw) (q : Nat) (x : Qp) : (s.setQp q x).flt = s.flt := rfl
@[simp] theorem setQp_flash (s : Hw) (q : Nat) (x : Qp) : (s.setQp q x).flash = s.flash := rfl
@[simp] theorem setQp_pwr (s : Hw) (q : Nat) (x : Qp) : (s.setQp q x).pwr = s.pwr := rfl
@[simp] theorem setQp_mem (s : Hw) (q : Nat) (x : Qp) : (s.setQp q x).mem = s.mem := rfl
@[simp] theorem setQp_hostMem (s : Hw) (q : Nat) (x : Qp) : (s.setQp q x).hostMem = s.hostMem := rfl
@[simp] theorem setQp_readData (s : Hw) (q : Nat) (x : Qp) : (s.setQp q x).readData = s.readData := rfl
@[simp] theorem setQp_now (s : Hw) (q : Nat) (x : Qp) : (s.setQp q x).now = s.now := rfl

/-! ### setSpanEng -/

@[simp] theorem setSpanEng_glb (s : Hw) (e : Nat) (x : SpanEng) : (s.setSpanEng e x).glb = s.glb := rfl
@[simp] theorem setSpanEng_mbx (s : Hw) (e : Nat) (x : SpanEng) : (s.setSpanEng e x).mbx = s.mbx := rfl
@[simp] theorem setSpanEng_stk (s : Hw) (e : Nat) (x : SpanEng) : (s.setSpanEng e x).stk = s.stk := rfl
@[simp] theorem setSpanEng_evt (s : Hw) (e : Nat) (x : SpanEng) : (s.setSpanEng e x).evt = s.evt := rfl
@[simp] theorem setSpanEng_evu (s : Hw) (e : Nat) (x : SpanEng) : (s.setSpanEng e x).evu = s.evu := rfl
@[simp] theorem setSpanEng_armed (s : Hw) (e : Nat) (x : SpanEng) : (s.setSpanEng e x).armed = s.armed := rfl
@[simp] theorem setSpanEng_running (s : Hw) (e : Nat) (x : SpanEng) : (s.setSpanEng e x).running = s.running := rfl
@[simp] theorem setSpanEng_incoming (s : Hw) (e : Nat) (x : SpanEng) : (s.setSpanEng e x).incoming = s.incoming := rfl
@[simp] theorem setSpanEng_cores (s : Hw) (e : Nat) (x : SpanEng) : (s.setSpanEng e x).cores = s.cores := rfl
@[simp] theorem setSpanEng_snaps (s : Hw) (e : Nat) (x : SpanEng) : (s.setSpanEng e x).snaps = s.snaps := rfl
@[simp] theorem setSpanEng_fabric (s : Hw) (e : Nat) (x : SpanEng) : (s.setSpanEng e x).fabric = s.fabric := rfl
@[simp] theorem setSpanEng_routeEpoch (s : Hw) (e : Nat) (x : SpanEng) : (s.setSpanEng e x).routeEpoch = s.routeEpoch := rfl
@[simp] theorem setSpanEng_arbs (s : Hw) (e : Nat) (x : SpanEng) : (s.setSpanEng e x).arbs = s.arbs := rfl
@[simp] theorem setSpanEng_flds (s : Hw) (e : Nat) (x : SpanEng) : (s.setSpanEng e x).flds = s.flds := rfl
@[simp] theorem setSpanEng_tst (s : Hw) (e : Nat) (x : SpanEng) : (s.setSpanEng e x).tst = s.tst := rfl
@[simp] theorem setSpanEng_herders (s : Hw) (e : Nat) (x : SpanEng) : (s.setSpanEng e x).herders = s.herders := rfl
@[simp] theorem setSpanEng_kv (s : Hw) (e : Nat) (x : SpanEng) : (s.setSpanEng e x).kv = s.kv := rfl
@[simp] theorem setSpanEng_bwd (s : Hw) (e : Nat) (x : SpanEng) : (s.setSpanEng e x).bwd = s.bwd := rfl
@[simp] theorem setSpanEng_engines (s : Hw) (e : Nat) (x : SpanEng) : (s.setSpanEng e x).engines = s.engines := rfl
@[simp] theorem setSpanEng_wgt (s : Hw) (e : Nat) (x : SpanEng) : (s.setSpanEng e x).wgt = s.wgt := rfl
@[simp] theorem setSpanEng_tng (s : Hw) (e : Nat) (x : SpanEng) : (s.setSpanEng e x).tng = s.tng := rfl
@[simp] theorem setSpanEng_ports (s : Hw) (e : Nat) (x : SpanEng) : (s.setSpanEng e x).ports = s.ports := rfl
@[simp] theorem setSpanEng_flt (s : Hw) (e : Nat) (x : SpanEng) : (s.setSpanEng e x).flt = s.flt := rfl
@[simp] theorem setSpanEng_flash (s : Hw) (e : Nat) (x : SpanEng) : (s.setSpanEng e x).flash = s.flash := rfl
@[simp] theorem setSpanEng_pwr (s : Hw) (e : Nat) (x : SpanEng) : (s.setSpanEng e x).pwr = s.pwr := rfl
@[simp] theorem setSpanEng_qps (s : Hw) (e : Nat) (x : SpanEng) : (s.setSpanEng e x).qps = s.qps := rfl
@[simp] theorem setSpanEng_mem (s : Hw) (e : Nat) (x : SpanEng) : (s.setSpanEng e x).mem = s.mem := rfl
@[simp] theorem setSpanEng_hostMem (s : Hw) (e : Nat) (x : SpanEng) : (s.setSpanEng e x).hostMem = s.hostMem := rfl
@[simp] theorem setSpanEng_readData (s : Hw) (e : Nat) (x : SpanEng) : (s.setSpanEng e x).readData = s.readData := rfl
@[simp] theorem setSpanEng_now (s : Hw) (e : Nat) (x : SpanEng) : (s.setSpanEng e x).now = s.now := rfl

/-! ### setArb -/

@[simp] theorem setArb_glb (s : Hw) (k : Nat) (x : Arb) : (s.setArb k x).glb = s.glb := rfl
@[simp] theorem setArb_mbx (s : Hw) (k : Nat) (x : Arb) : (s.setArb k x).mbx = s.mbx := rfl
@[simp] theorem setArb_stk (s : Hw) (k : Nat) (x : Arb) : (s.setArb k x).stk = s.stk := rfl
@[simp] theorem setArb_evt (s : Hw) (k : Nat) (x : Arb) : (s.setArb k x).evt = s.evt := rfl
@[simp] theorem setArb_evu (s : Hw) (k : Nat) (x : Arb) : (s.setArb k x).evu = s.evu := rfl
@[simp] theorem setArb_armed (s : Hw) (k : Nat) (x : Arb) : (s.setArb k x).armed = s.armed := rfl
@[simp] theorem setArb_running (s : Hw) (k : Nat) (x : Arb) : (s.setArb k x).running = s.running := rfl
@[simp] theorem setArb_incoming (s : Hw) (k : Nat) (x : Arb) : (s.setArb k x).incoming = s.incoming := rfl
@[simp] theorem setArb_cores (s : Hw) (k : Nat) (x : Arb) : (s.setArb k x).cores = s.cores := rfl
@[simp] theorem setArb_snaps (s : Hw) (k : Nat) (x : Arb) : (s.setArb k x).snaps = s.snaps := rfl
@[simp] theorem setArb_fabric (s : Hw) (k : Nat) (x : Arb) : (s.setArb k x).fabric = s.fabric := rfl
@[simp] theorem setArb_routeEpoch (s : Hw) (k : Nat) (x : Arb) : (s.setArb k x).routeEpoch = s.routeEpoch := rfl
@[simp] theorem setArb_flds (s : Hw) (k : Nat) (x : Arb) : (s.setArb k x).flds = s.flds := rfl
@[simp] theorem setArb_tst (s : Hw) (k : Nat) (x : Arb) : (s.setArb k x).tst = s.tst := rfl
@[simp] theorem setArb_herders (s : Hw) (k : Nat) (x : Arb) : (s.setArb k x).herders = s.herders := rfl
@[simp] theorem setArb_kv (s : Hw) (k : Nat) (x : Arb) : (s.setArb k x).kv = s.kv := rfl
@[simp] theorem setArb_bwd (s : Hw) (k : Nat) (x : Arb) : (s.setArb k x).bwd = s.bwd := rfl
@[simp] theorem setArb_engines (s : Hw) (k : Nat) (x : Arb) : (s.setArb k x).engines = s.engines := rfl
@[simp] theorem setArb_wgt (s : Hw) (k : Nat) (x : Arb) : (s.setArb k x).wgt = s.wgt := rfl
@[simp] theorem setArb_tng (s : Hw) (k : Nat) (x : Arb) : (s.setArb k x).tng = s.tng := rfl
@[simp] theorem setArb_ports (s : Hw) (k : Nat) (x : Arb) : (s.setArb k x).ports = s.ports := rfl
@[simp] theorem setArb_spn (s : Hw) (k : Nat) (x : Arb) : (s.setArb k x).spn = s.spn := rfl
@[simp] theorem setArb_flt (s : Hw) (k : Nat) (x : Arb) : (s.setArb k x).flt = s.flt := rfl
@[simp] theorem setArb_flash (s : Hw) (k : Nat) (x : Arb) : (s.setArb k x).flash = s.flash := rfl
@[simp] theorem setArb_pwr (s : Hw) (k : Nat) (x : Arb) : (s.setArb k x).pwr = s.pwr := rfl
@[simp] theorem setArb_qps (s : Hw) (k : Nat) (x : Arb) : (s.setArb k x).qps = s.qps := rfl
@[simp] theorem setArb_mem (s : Hw) (k : Nat) (x : Arb) : (s.setArb k x).mem = s.mem := rfl
@[simp] theorem setArb_hostMem (s : Hw) (k : Nat) (x : Arb) : (s.setArb k x).hostMem = s.hostMem := rfl
@[simp] theorem setArb_readData (s : Hw) (k : Nat) (x : Arb) : (s.setArb k x).readData = s.readData := rfl
@[simp] theorem setArb_now (s : Hw) (k : Nat) (x : Arb) : (s.setArb k x).now = s.now := rfl

/-! ### memWrite -/

@[simp] theorem memWrite_glb (s : Hw) (a : Nat) (b : List Byte) : (s.memWrite a b).glb = s.glb := rfl
@[simp] theorem memWrite_mbx (s : Hw) (a : Nat) (b : List Byte) : (s.memWrite a b).mbx = s.mbx := rfl
@[simp] theorem memWrite_stk (s : Hw) (a : Nat) (b : List Byte) : (s.memWrite a b).stk = s.stk := rfl
@[simp] theorem memWrite_evt (s : Hw) (a : Nat) (b : List Byte) : (s.memWrite a b).evt = s.evt := rfl
@[simp] theorem memWrite_evu (s : Hw) (a : Nat) (b : List Byte) : (s.memWrite a b).evu = s.evu := rfl
@[simp] theorem memWrite_armed (s : Hw) (a : Nat) (b : List Byte) : (s.memWrite a b).armed = s.armed := rfl
@[simp] theorem memWrite_running (s : Hw) (a : Nat) (b : List Byte) : (s.memWrite a b).running = s.running := rfl
@[simp] theorem memWrite_incoming (s : Hw) (a : Nat) (b : List Byte) : (s.memWrite a b).incoming = s.incoming := rfl
@[simp] theorem memWrite_cores (s : Hw) (a : Nat) (b : List Byte) : (s.memWrite a b).cores = s.cores := rfl
@[simp] theorem memWrite_snaps (s : Hw) (a : Nat) (b : List Byte) : (s.memWrite a b).snaps = s.snaps := rfl
@[simp] theorem memWrite_fabric (s : Hw) (a : Nat) (b : List Byte) : (s.memWrite a b).fabric = s.fabric := rfl
@[simp] theorem memWrite_routeEpoch (s : Hw) (a : Nat) (b : List Byte) : (s.memWrite a b).routeEpoch = s.routeEpoch := rfl
@[simp] theorem memWrite_arbs (s : Hw) (a : Nat) (b : List Byte) : (s.memWrite a b).arbs = s.arbs := rfl
@[simp] theorem memWrite_flds (s : Hw) (a : Nat) (b : List Byte) : (s.memWrite a b).flds = s.flds := rfl
@[simp] theorem memWrite_tst (s : Hw) (a : Nat) (b : List Byte) : (s.memWrite a b).tst = s.tst := rfl
@[simp] theorem memWrite_herders (s : Hw) (a : Nat) (b : List Byte) : (s.memWrite a b).herders = s.herders := rfl
@[simp] theorem memWrite_kv (s : Hw) (a : Nat) (b : List Byte) : (s.memWrite a b).kv = s.kv := rfl
@[simp] theorem memWrite_bwd (s : Hw) (a : Nat) (b : List Byte) : (s.memWrite a b).bwd = s.bwd := rfl
@[simp] theorem memWrite_engines (s : Hw) (a : Nat) (b : List Byte) : (s.memWrite a b).engines = s.engines := rfl
@[simp] theorem memWrite_wgt (s : Hw) (a : Nat) (b : List Byte) : (s.memWrite a b).wgt = s.wgt := rfl
@[simp] theorem memWrite_tng (s : Hw) (a : Nat) (b : List Byte) : (s.memWrite a b).tng = s.tng := rfl
@[simp] theorem memWrite_ports (s : Hw) (a : Nat) (b : List Byte) : (s.memWrite a b).ports = s.ports := rfl
@[simp] theorem memWrite_spn (s : Hw) (a : Nat) (b : List Byte) : (s.memWrite a b).spn = s.spn := rfl
@[simp] theorem memWrite_flt (s : Hw) (a : Nat) (b : List Byte) : (s.memWrite a b).flt = s.flt := rfl
@[simp] theorem memWrite_flash (s : Hw) (a : Nat) (b : List Byte) : (s.memWrite a b).flash = s.flash := rfl
@[simp] theorem memWrite_pwr (s : Hw) (a : Nat) (b : List Byte) : (s.memWrite a b).pwr = s.pwr := rfl
@[simp] theorem memWrite_qps (s : Hw) (a : Nat) (b : List Byte) : (s.memWrite a b).qps = s.qps := rfl
@[simp] theorem memWrite_hostMem (s : Hw) (a : Nat) (b : List Byte) : (s.memWrite a b).hostMem = s.hostMem := rfl
@[simp] theorem memWrite_readData (s : Hw) (a : Nat) (b : List Byte) : (s.memWrite a b).readData = s.readData := rfl
@[simp] theorem memWrite_now (s : Hw) (a : Nat) (b : List Byte) : (s.memWrite a b).now = s.now := rfl

/-! ### hostWrite -/

@[simp] theorem hostWrite_glb (s : Hw) (a : Nat) (b : List Byte) : (s.hostWrite a b).glb = s.glb := rfl
@[simp] theorem hostWrite_mbx (s : Hw) (a : Nat) (b : List Byte) : (s.hostWrite a b).mbx = s.mbx := rfl
@[simp] theorem hostWrite_stk (s : Hw) (a : Nat) (b : List Byte) : (s.hostWrite a b).stk = s.stk := rfl
@[simp] theorem hostWrite_evt (s : Hw) (a : Nat) (b : List Byte) : (s.hostWrite a b).evt = s.evt := rfl
@[simp] theorem hostWrite_evu (s : Hw) (a : Nat) (b : List Byte) : (s.hostWrite a b).evu = s.evu := rfl
@[simp] theorem hostWrite_armed (s : Hw) (a : Nat) (b : List Byte) : (s.hostWrite a b).armed = s.armed := rfl
@[simp] theorem hostWrite_running (s : Hw) (a : Nat) (b : List Byte) : (s.hostWrite a b).running = s.running := rfl
@[simp] theorem hostWrite_incoming (s : Hw) (a : Nat) (b : List Byte) : (s.hostWrite a b).incoming = s.incoming := rfl
@[simp] theorem hostWrite_cores (s : Hw) (a : Nat) (b : List Byte) : (s.hostWrite a b).cores = s.cores := rfl
@[simp] theorem hostWrite_snaps (s : Hw) (a : Nat) (b : List Byte) : (s.hostWrite a b).snaps = s.snaps := rfl
@[simp] theorem hostWrite_fabric (s : Hw) (a : Nat) (b : List Byte) : (s.hostWrite a b).fabric = s.fabric := rfl
@[simp] theorem hostWrite_routeEpoch (s : Hw) (a : Nat) (b : List Byte) : (s.hostWrite a b).routeEpoch = s.routeEpoch := rfl
@[simp] theorem hostWrite_arbs (s : Hw) (a : Nat) (b : List Byte) : (s.hostWrite a b).arbs = s.arbs := rfl
@[simp] theorem hostWrite_flds (s : Hw) (a : Nat) (b : List Byte) : (s.hostWrite a b).flds = s.flds := rfl
@[simp] theorem hostWrite_tst (s : Hw) (a : Nat) (b : List Byte) : (s.hostWrite a b).tst = s.tst := rfl
@[simp] theorem hostWrite_herders (s : Hw) (a : Nat) (b : List Byte) : (s.hostWrite a b).herders = s.herders := rfl
@[simp] theorem hostWrite_kv (s : Hw) (a : Nat) (b : List Byte) : (s.hostWrite a b).kv = s.kv := rfl
@[simp] theorem hostWrite_bwd (s : Hw) (a : Nat) (b : List Byte) : (s.hostWrite a b).bwd = s.bwd := rfl
@[simp] theorem hostWrite_engines (s : Hw) (a : Nat) (b : List Byte) : (s.hostWrite a b).engines = s.engines := rfl
@[simp] theorem hostWrite_wgt (s : Hw) (a : Nat) (b : List Byte) : (s.hostWrite a b).wgt = s.wgt := rfl
@[simp] theorem hostWrite_tng (s : Hw) (a : Nat) (b : List Byte) : (s.hostWrite a b).tng = s.tng := rfl
@[simp] theorem hostWrite_ports (s : Hw) (a : Nat) (b : List Byte) : (s.hostWrite a b).ports = s.ports := rfl
@[simp] theorem hostWrite_spn (s : Hw) (a : Nat) (b : List Byte) : (s.hostWrite a b).spn = s.spn := rfl
@[simp] theorem hostWrite_flt (s : Hw) (a : Nat) (b : List Byte) : (s.hostWrite a b).flt = s.flt := rfl
@[simp] theorem hostWrite_flash (s : Hw) (a : Nat) (b : List Byte) : (s.hostWrite a b).flash = s.flash := rfl
@[simp] theorem hostWrite_pwr (s : Hw) (a : Nat) (b : List Byte) : (s.hostWrite a b).pwr = s.pwr := rfl
@[simp] theorem hostWrite_qps (s : Hw) (a : Nat) (b : List Byte) : (s.hostWrite a b).qps = s.qps := rfl
@[simp] theorem hostWrite_mem (s : Hw) (a : Nat) (b : List Byte) : (s.hostWrite a b).mem = s.mem := rfl
@[simp] theorem hostWrite_readData (s : Hw) (a : Nat) (b : List Byte) : (s.hostWrite a b).readData = s.readData := rfl
@[simp] theorem hostWrite_now (s : Hw) (a : Nat) (b : List Byte) : (s.hostWrite a b).now = s.now := rfl

/-! ### A unit after it is set -/

@[simp] theorem setCore_core (s : Hw) (c c' : Nat) (x : CoreState) : (s.setCore c x).core c' = if c' = c then x else s.core c' :=
  nget_nput _ _ _ _ _
@[simp] theorem setFld_fld (s : Hw) (f f' : Nat) (x : Field) : (s.setFld f x).fld f' = if f' = f then x else s.fld f' :=
  nget_nput _ _ _ _ _
@[simp] theorem setHerder_herder (s : Hw) (h h' : Nat) (x : Herder) : (s.setHerder h x).herder h' = if h' = h then x else s.herder h' :=
  nget_nput _ _ _ _ _
@[simp] theorem setEngine_engine (s : Hw) (e e' : Nat) (x : Engine) : (s.setEngine e x).engine e' = if e' = e then x else s.engine e' :=
  nget_nput _ _ _ _ _
@[simp] theorem setPort_port (s : Hw) (p p' : Nat) (x : Port) : (s.setPort p x).port p' = if p' = p then x else s.port p' :=
  nget_nput _ _ _ _ _
@[simp] theorem setQp_qp (s : Hw) (q q' : Nat) (x : Qp) : (s.setQp q x).qp q' = if q' = q then x else s.qp q' :=
  nget_nput _ _ _ _ _
@[simp] theorem setArb_arb (s : Hw) (k k' : Nat) (x : Arb) : (s.setArb k x).arb k' = if k' = k then x else s.arb k' :=
  nget_nput _ _ _ _ _

/-- A unit that another unit's update does not touch reads as before. -/
@[simp] theorem setFld_core (s : Hw) (f n : Nat) (x : Field) : (s.setFld f x).core n = s.core n := rfl
@[simp] theorem setHerder_core (s : Hw) (h n : Nat) (x : Herder) : (s.setHerder h x).core n = s.core n := rfl
@[simp] theorem setEngine_core (s : Hw) (e n : Nat) (x : Engine) : (s.setEngine e x).core n = s.core n := rfl
@[simp] theorem setPort_core (s : Hw) (p n : Nat) (x : Port) : (s.setPort p x).core n = s.core n := rfl
@[simp] theorem setQp_core (s : Hw) (q n : Nat) (x : Qp) : (s.setQp q x).core n = s.core n := rfl
@[simp] theorem setArb_core (s : Hw) (k n : Nat) (x : Arb) : (s.setArb k x).core n = s.core n := rfl
@[simp] theorem memWrite_core (s : Hw) (a : Nat) (b : List Byte) (n : Nat) : (s.memWrite a b).core n = s.core n := rfl
@[simp] theorem hostWrite_core (s : Hw) (a : Nat) (b : List Byte) (n : Nat) : (s.hostWrite a b).core n = s.core n := rfl
@[simp] theorem setCore_fld (s : Hw) (c n : Nat) (x : CoreState) : (s.setCore c x).fld n = s.fld n := rfl
@[simp] theorem setHerder_fld (s : Hw) (h n : Nat) (x : Herder) : (s.setHerder h x).fld n = s.fld n := rfl
@[simp] theorem setEngine_fld (s : Hw) (e n : Nat) (x : Engine) : (s.setEngine e x).fld n = s.fld n := rfl
@[simp] theorem setPort_fld (s : Hw) (p n : Nat) (x : Port) : (s.setPort p x).fld n = s.fld n := rfl
@[simp] theorem setQp_fld (s : Hw) (q n : Nat) (x : Qp) : (s.setQp q x).fld n = s.fld n := rfl
@[simp] theorem setArb_fld (s : Hw) (k n : Nat) (x : Arb) : (s.setArb k x).fld n = s.fld n := rfl
@[simp] theorem memWrite_fld (s : Hw) (a : Nat) (b : List Byte) (n : Nat) : (s.memWrite a b).fld n = s.fld n := rfl
@[simp] theorem hostWrite_fld (s : Hw) (a : Nat) (b : List Byte) (n : Nat) : (s.hostWrite a b).fld n = s.fld n := rfl
@[simp] theorem setCore_herder (s : Hw) (c n : Nat) (x : CoreState) : (s.setCore c x).herder n = s.herder n := rfl
@[simp] theorem setFld_herder (s : Hw) (f n : Nat) (x : Field) : (s.setFld f x).herder n = s.herder n := rfl
@[simp] theorem setEngine_herder (s : Hw) (e n : Nat) (x : Engine) : (s.setEngine e x).herder n = s.herder n := rfl
@[simp] theorem setPort_herder (s : Hw) (p n : Nat) (x : Port) : (s.setPort p x).herder n = s.herder n := rfl
@[simp] theorem setQp_herder (s : Hw) (q n : Nat) (x : Qp) : (s.setQp q x).herder n = s.herder n := rfl
@[simp] theorem setArb_herder (s : Hw) (k n : Nat) (x : Arb) : (s.setArb k x).herder n = s.herder n := rfl
@[simp] theorem memWrite_herder (s : Hw) (a : Nat) (b : List Byte) (n : Nat) : (s.memWrite a b).herder n = s.herder n := rfl
@[simp] theorem hostWrite_herder (s : Hw) (a : Nat) (b : List Byte) (n : Nat) : (s.hostWrite a b).herder n = s.herder n := rfl
@[simp] theorem setCore_engine (s : Hw) (c n : Nat) (x : CoreState) : (s.setCore c x).engine n = s.engine n := rfl
@[simp] theorem setFld_engine (s : Hw) (f n : Nat) (x : Field) : (s.setFld f x).engine n = s.engine n := rfl
@[simp] theorem setHerder_engine (s : Hw) (h n : Nat) (x : Herder) : (s.setHerder h x).engine n = s.engine n := rfl
@[simp] theorem setPort_engine (s : Hw) (p n : Nat) (x : Port) : (s.setPort p x).engine n = s.engine n := rfl
@[simp] theorem setQp_engine (s : Hw) (q n : Nat) (x : Qp) : (s.setQp q x).engine n = s.engine n := rfl
@[simp] theorem setArb_engine (s : Hw) (k n : Nat) (x : Arb) : (s.setArb k x).engine n = s.engine n := rfl
@[simp] theorem memWrite_engine (s : Hw) (a : Nat) (b : List Byte) (n : Nat) : (s.memWrite a b).engine n = s.engine n := rfl
@[simp] theorem hostWrite_engine (s : Hw) (a : Nat) (b : List Byte) (n : Nat) : (s.hostWrite a b).engine n = s.engine n := rfl
@[simp] theorem setCore_port (s : Hw) (c n : Nat) (x : CoreState) : (s.setCore c x).port n = s.port n := rfl
@[simp] theorem setFld_port (s : Hw) (f n : Nat) (x : Field) : (s.setFld f x).port n = s.port n := rfl
@[simp] theorem setHerder_port (s : Hw) (h n : Nat) (x : Herder) : (s.setHerder h x).port n = s.port n := rfl
@[simp] theorem setEngine_port (s : Hw) (e n : Nat) (x : Engine) : (s.setEngine e x).port n = s.port n := rfl
@[simp] theorem setQp_port (s : Hw) (q n : Nat) (x : Qp) : (s.setQp q x).port n = s.port n := rfl
@[simp] theorem setArb_port (s : Hw) (k n : Nat) (x : Arb) : (s.setArb k x).port n = s.port n := rfl
@[simp] theorem memWrite_port (s : Hw) (a : Nat) (b : List Byte) (n : Nat) : (s.memWrite a b).port n = s.port n := rfl
@[simp] theorem hostWrite_port (s : Hw) (a : Nat) (b : List Byte) (n : Nat) : (s.hostWrite a b).port n = s.port n := rfl
@[simp] theorem setCore_qp (s : Hw) (c n : Nat) (x : CoreState) : (s.setCore c x).qp n = s.qp n := rfl
@[simp] theorem setFld_qp (s : Hw) (f n : Nat) (x : Field) : (s.setFld f x).qp n = s.qp n := rfl
@[simp] theorem setHerder_qp (s : Hw) (h n : Nat) (x : Herder) : (s.setHerder h x).qp n = s.qp n := rfl
@[simp] theorem setEngine_qp (s : Hw) (e n : Nat) (x : Engine) : (s.setEngine e x).qp n = s.qp n := rfl
@[simp] theorem setPort_qp (s : Hw) (p n : Nat) (x : Port) : (s.setPort p x).qp n = s.qp n := rfl
@[simp] theorem setArb_qp (s : Hw) (k n : Nat) (x : Arb) : (s.setArb k x).qp n = s.qp n := rfl
@[simp] theorem memWrite_qp (s : Hw) (a : Nat) (b : List Byte) (n : Nat) : (s.memWrite a b).qp n = s.qp n := rfl
@[simp] theorem hostWrite_qp (s : Hw) (a : Nat) (b : List Byte) (n : Nat) : (s.hostWrite a b).qp n = s.qp n := rfl
@[simp] theorem setCore_arb (s : Hw) (c n : Nat) (x : CoreState) : (s.setCore c x).arb n = s.arb n := rfl
@[simp] theorem setFld_arb (s : Hw) (f n : Nat) (x : Field) : (s.setFld f x).arb n = s.arb n := rfl
@[simp] theorem setHerder_arb (s : Hw) (h n : Nat) (x : Herder) : (s.setHerder h x).arb n = s.arb n := rfl
@[simp] theorem setEngine_arb (s : Hw) (e n : Nat) (x : Engine) : (s.setEngine e x).arb n = s.arb n := rfl
@[simp] theorem setPort_arb (s : Hw) (p n : Nat) (x : Port) : (s.setPort p x).arb n = s.arb n := rfl
@[simp] theorem setQp_arb (s : Hw) (q n : Nat) (x : Qp) : (s.setQp q x).arb n = s.arb n := rfl
@[simp] theorem memWrite_arb (s : Hw) (a : Nat) (b : List Byte) (n : Nat) : (s.memWrite a b).arb n = s.arb n := rfl
@[simp] theorem hostWrite_arb (s : Hw) (a : Nat) (b : List Byte) (n : Nat) : (s.hostWrite a b).arb n = s.arb n := rfl

end Sys2Proof.Machine
end

