-- ==== Sys2Proof/Laws/Ops.lean ====
section
/-!
SUPPORT. What the shared operations can do: an event touches EVT alone, a record the fault path and where it is written,
an uncontained fault these and the halt.
-/
namespace Sys2Proof.Machine

/-! ### A vector sent changes EVT alone -/

@[simp] theorem fireVector_glb (s : Hw) (v : Nat) : (s.fireVector v).glb = s.glb := by
  unfold Hw.fireVector; split <;> rfl
@[simp] theorem fireVector_mbx (s : Hw) (v : Nat) : (s.fireVector v).mbx = s.mbx := by
  unfold Hw.fireVector; split <;> rfl
@[simp] theorem fireVector_stk (s : Hw) (v : Nat) : (s.fireVector v).stk = s.stk := by
  unfold Hw.fireVector; split <;> rfl
@[simp] theorem fireVector_evu (s : Hw) (v : Nat) : (s.fireVector v).evu = s.evu := by
  unfold Hw.fireVector; split <;> rfl
@[simp] theorem fireVector_armed (s : Hw) (v : Nat) : (s.fireVector v).armed = s.armed := by
  unfold Hw.fireVector; split <;> rfl
@[simp] theorem fireVector_running (s : Hw) (v : Nat) : (s.fireVector v).running = s.running := by
  unfold Hw.fireVector; split <;> rfl
@[simp] theorem fireVector_incoming (s : Hw) (v : Nat) : (s.fireVector v).incoming = s.incoming := by
  unfold Hw.fireVector; split <;> rfl
@[simp] theorem fireVector_cores (s : Hw) (v : Nat) : (s.fireVector v).cores = s.cores := by
  unfold Hw.fireVector; split <;> rfl
@[simp] theorem fireVector_snaps (s : Hw) (v : Nat) : (s.fireVector v).snaps = s.snaps := by
  unfold Hw.fireVector; split <;> rfl
@[simp] theorem fireVector_fabric (s : Hw) (v : Nat) : (s.fireVector v).fabric = s.fabric := by
  unfold Hw.fireVector; split <;> rfl
@[simp] theorem fireVector_routeEpoch (s : Hw) (v : Nat) : (s.fireVector v).routeEpoch = s.routeEpoch := by
  unfold Hw.fireVector; split <;> rfl
@[simp] theorem fireVector_arbs (s : Hw) (v : Nat) : (s.fireVector v).arbs = s.arbs := by
  unfold Hw.fireVector; split <;> rfl
@[simp] theorem fireVector_flds (s : Hw) (v : Nat) : (s.fireVector v).flds = s.flds := by
  unfold Hw.fireVector; split <;> rfl
@[simp] theorem fireVector_tst (s : Hw) (v : Nat) : (s.fireVector v).tst = s.tst := by
  unfold Hw.fireVector; split <;> rfl
@[simp] theorem fireVector_herders (s : Hw) (v : Nat) : (s.fireVector v).herders = s.herders := by
  unfold Hw.fireVector; split <;> rfl
@[simp] theorem fireVector_kv (s : Hw) (v : Nat) : (s.fireVector v).kv = s.kv := by
  unfold Hw.fireVector; split <;> rfl
@[simp] theorem fireVector_bwd (s : Hw) (v : Nat) : (s.fireVector v).bwd = s.bwd := by
  unfold Hw.fireVector; split <;> rfl
@[simp] theorem fireVector_engines (s : Hw) (v : Nat) : (s.fireVector v).engines = s.engines := by
  unfold Hw.fireVector; split <;> rfl
@[simp] theorem fireVector_wgt (s : Hw) (v : Nat) : (s.fireVector v).wgt = s.wgt := by
  unfold Hw.fireVector; split <;> rfl
@[simp] theorem fireVector_tng (s : Hw) (v : Nat) : (s.fireVector v).tng = s.tng := by
  unfold Hw.fireVector; split <;> rfl
@[simp] theorem fireVector_ports (s : Hw) (v : Nat) : (s.fireVector v).ports = s.ports := by
  unfold Hw.fireVector; split <;> rfl
@[simp] theorem fireVector_spn (s : Hw) (v : Nat) : (s.fireVector v).spn = s.spn := by
  unfold Hw.fireVector; split <;> rfl
@[simp] theorem fireVector_flt (s : Hw) (v : Nat) : (s.fireVector v).flt = s.flt := by
  unfold Hw.fireVector; split <;> rfl
@[simp] theorem fireVector_flash (s : Hw) (v : Nat) : (s.fireVector v).flash = s.flash := by
  unfold Hw.fireVector; split <;> rfl
@[simp] theorem fireVector_pwr (s : Hw) (v : Nat) : (s.fireVector v).pwr = s.pwr := by
  unfold Hw.fireVector; split <;> rfl
@[simp] theorem fireVector_qps (s : Hw) (v : Nat) : (s.fireVector v).qps = s.qps := by
  unfold Hw.fireVector; split <;> rfl
@[simp] theorem fireVector_mem (s : Hw) (v : Nat) : (s.fireVector v).mem = s.mem := by
  unfold Hw.fireVector; split <;> rfl
@[simp] theorem fireVector_hostMem (s : Hw) (v : Nat) : (s.fireVector v).hostMem = s.hostMem := by
  unfold Hw.fireVector; split <;> rfl
@[simp] theorem fireVector_readData (s : Hw) (v : Nat) : (s.fireVector v).readData = s.readData := by
  unfold Hw.fireVector; split <;> rfl
@[simp] theorem fireVector_now (s : Hw) (v : Nat) : (s.fireVector v).now = s.now := by
  unfold Hw.fireVector; split <;> rfl

/-! ### An event changes EVT alone -/

@[simp] theorem raise_glb (s : Hw) (n : Nat) : (s.raise n).glb = s.glb := by
  unfold Hw.raise; dsimp only; split <;> simp
@[simp] theorem raise_mbx (s : Hw) (n : Nat) : (s.raise n).mbx = s.mbx := by
  unfold Hw.raise; dsimp only; split <;> simp
@[simp] theorem raise_stk (s : Hw) (n : Nat) : (s.raise n).stk = s.stk := by
  unfold Hw.raise; dsimp only; split <;> simp
@[simp] theorem raise_evu (s : Hw) (n : Nat) : (s.raise n).evu = s.evu := by
  unfold Hw.raise; dsimp only; split <;> simp
@[simp] theorem raise_armed (s : Hw) (n : Nat) : (s.raise n).armed = s.armed := by
  unfold Hw.raise; dsimp only; split <;> simp
@[simp] theorem raise_running (s : Hw) (n : Nat) : (s.raise n).running = s.running := by
  unfold Hw.raise; dsimp only; split <;> simp
@[simp] theorem raise_incoming (s : Hw) (n : Nat) : (s.raise n).incoming = s.incoming := by
  unfold Hw.raise; dsimp only; split <;> simp
@[simp] theorem raise_cores (s : Hw) (n : Nat) : (s.raise n).cores = s.cores := by
  unfold Hw.raise; dsimp only; split <;> simp
@[simp] theorem raise_snaps (s : Hw) (n : Nat) : (s.raise n).snaps = s.snaps := by
  unfold Hw.raise; dsimp only; split <;> simp
@[simp] theorem raise_fabric (s : Hw) (n : Nat) : (s.raise n).fabric = s.fabric := by
  unfold Hw.raise; dsimp only; split <;> simp
@[simp] theorem raise_routeEpoch (s : Hw) (n : Nat) : (s.raise n).routeEpoch = s.routeEpoch := by
  unfold Hw.raise; dsimp only; split <;> simp
@[simp] theorem raise_arbs (s : Hw) (n : Nat) : (s.raise n).arbs = s.arbs := by
  unfold Hw.raise; dsimp only; split <;> simp
@[simp] theorem raise_flds (s : Hw) (n : Nat) : (s.raise n).flds = s.flds := by
  unfold Hw.raise; dsimp only; split <;> simp
@[simp] theorem raise_tst (s : Hw) (n : Nat) : (s.raise n).tst = s.tst := by
  unfold Hw.raise; dsimp only; split <;> simp
@[simp] theorem raise_herders (s : Hw) (n : Nat) : (s.raise n).herders = s.herders := by
  unfold Hw.raise; dsimp only; split <;> simp
@[simp] theorem raise_kv (s : Hw) (n : Nat) : (s.raise n).kv = s.kv := by
  unfold Hw.raise; dsimp only; split <;> simp
@[simp] theorem raise_bwd (s : Hw) (n : Nat) : (s.raise n).bwd = s.bwd := by
  unfold Hw.raise; dsimp only; split <;> simp
@[simp] theorem raise_engines (s : Hw) (n : Nat) : (s.raise n).engines = s.engines := by
  unfold Hw.raise; dsimp only; split <;> simp
@[simp] theorem raise_wgt (s : Hw) (n : Nat) : (s.raise n).wgt = s.wgt := by
  unfold Hw.raise; dsimp only; split <;> simp
@[simp] theorem raise_tng (s : Hw) (n : Nat) : (s.raise n).tng = s.tng := by
  unfold Hw.raise; dsimp only; split <;> simp
@[simp] theorem raise_ports (s : Hw) (n : Nat) : (s.raise n).ports = s.ports := by
  unfold Hw.raise; dsimp only; split <;> simp
@[simp] theorem raise_spn (s : Hw) (n : Nat) : (s.raise n).spn = s.spn := by
  unfold Hw.raise; dsimp only; split <;> simp
@[simp] theorem raise_flt (s : Hw) (n : Nat) : (s.raise n).flt = s.flt := by
  unfold Hw.raise; dsimp only; split <;> simp
@[simp] theorem raise_flash (s : Hw) (n : Nat) : (s.raise n).flash = s.flash := by
  unfold Hw.raise; dsimp only; split <;> simp
@[simp] theorem raise_pwr (s : Hw) (n : Nat) : (s.raise n).pwr = s.pwr := by
  unfold Hw.raise; dsimp only; split <;> simp
@[simp] theorem raise_qps (s : Hw) (n : Nat) : (s.raise n).qps = s.qps := by
  unfold Hw.raise; dsimp only; split <;> simp
@[simp] theorem raise_mem (s : Hw) (n : Nat) : (s.raise n).mem = s.mem := by
  unfold Hw.raise; dsimp only; split <;> simp
@[simp] theorem raise_hostMem (s : Hw) (n : Nat) : (s.raise n).hostMem = s.hostMem := by
  unfold Hw.raise; dsimp only; split <;> simp
@[simp] theorem raise_readData (s : Hw) (n : Nat) : (s.raise n).readData = s.readData := by
  unfold Hw.raise; dsimp only; split <;> simp
@[simp] theorem raise_now (s : Hw) (n : Nat) : (s.raise n).now = s.now := by
  unfold Hw.raise; dsimp only; split <;> simp

/-- The flags, counters and masks that a vector sent leaves alone. -/
@[simp] theorem fireVector_flags (s : Hw) (v : Nat) : (s.fireVector v).evt.flags = s.evt.flags := by
  unfold Hw.fireVector; split <;> rfl
@[simp] theorem fireVector_cnt (s : Hw) (v : Nat) : (s.fireVector v).evt.cnt = s.evt.cnt := by
  unfold Hw.fireVector; split <;> rfl
@[simp] theorem fireVector_mask (s : Hw) (v : Nat) : (s.fireVector v).evt.mask = s.evt.mask := by
  unfold Hw.fireVector; split <;> rfl

/-- Raising an event sets its flag and no other. -/
@[simp] theorem raise_flags (s : Hw) (n : Nat) : (s.raise n).evt.flags = s.evt.flags ||| BitVec.ofNat 44 (2 ^ n) := by
  unfold Hw.raise; dsimp only; split <;> simp

/-- Raising an event counts it (R378). -/
@[simp] theorem raise_cnt (s : Hw) (n : Nat) :
    (s.raise n).evt.cnt = nput 0 s.evt.cnt n ((nget 0 s.evt.cnt n + 1) % 2 ^ 64) := by
  unfold Hw.raise; dsimp only; split <;> simp

/-! ### A record written changes FLT, the ring in memory and the log in flash -/

@[simp] theorem commitRecord_glb (s : Hw) (r : FaultRec) : (s.commitRecord r).glb = s.glb := by
  unfold Hw.commitRecord; simp [apply_ite Hw.glb]
@[simp] theorem commitRecord_mbx (s : Hw) (r : FaultRec) : (s.commitRecord r).mbx = s.mbx := by
  unfold Hw.commitRecord; simp [apply_ite Hw.mbx]
@[simp] theorem commitRecord_stk (s : Hw) (r : FaultRec) : (s.commitRecord r).stk = s.stk := by
  unfold Hw.commitRecord; simp [apply_ite Hw.stk]
@[simp] theorem commitRecord_evt (s : Hw) (r : FaultRec) : (s.commitRecord r).evt = s.evt := by
  unfold Hw.commitRecord; simp [apply_ite Hw.evt]
@[simp] theorem commitRecord_evu (s : Hw) (r : FaultRec) : (s.commitRecord r).evu = s.evu := by
  unfold Hw.commitRecord; simp [apply_ite Hw.evu]
@[simp] theorem commitRecord_armed (s : Hw) (r : FaultRec) : (s.commitRecord r).armed = s.armed := by
  unfold Hw.commitRecord; simp [apply_ite Hw.armed]
@[simp] theorem commitRecord_running (s : Hw) (r : FaultRec) : (s.commitRecord r).running = s.running := by
  unfold Hw.commitRecord; simp [apply_ite Hw.running]
@[simp] theorem commitRecord_incoming (s : Hw) (r : FaultRec) : (s.commitRecord r).incoming = s.incoming := by
  unfold Hw.commitRecord; simp [apply_ite Hw.incoming]
@[simp] theorem commitRecord_cores (s : Hw) (r : FaultRec) : (s.commitRecord r).cores = s.cores := by
  unfold Hw.commitRecord; simp [apply_ite Hw.cores]
@[simp] theorem commitRecord_snaps (s : Hw) (r : FaultRec) : (s.commitRecord r).snaps = s.snaps := by
  unfold Hw.commitRecord; simp [apply_ite Hw.snaps]
@[simp] theorem commitRecord_fabric (s : Hw) (r : FaultRec) : (s.commitRecord r).fabric = s.fabric := by
  unfold Hw.commitRecord; simp [apply_ite Hw.fabric]
@[simp] theorem commitRecord_routeEpoch (s : Hw) (r : FaultRec) : (s.commitRecord r).routeEpoch = s.routeEpoch := by
  unfold Hw.commitRecord; simp [apply_ite Hw.routeEpoch]
@[simp] theorem commitRecord_arbs (s : Hw) (r : FaultRec) : (s.commitRecord r).arbs = s.arbs := by
  unfold Hw.commitRecord; simp [apply_ite Hw.arbs]
@[simp] theorem commitRecord_flds (s : Hw) (r : FaultRec) : (s.commitRecord r).flds = s.flds := by
  unfold Hw.commitRecord; simp [apply_ite Hw.flds]
@[simp] theorem commitRecord_tst (s : Hw) (r : FaultRec) : (s.commitRecord r).tst = s.tst := by
  unfold Hw.commitRecord; simp [apply_ite Hw.tst]
@[simp] theorem commitRecord_herders (s : Hw) (r : FaultRec) : (s.commitRecord r).herders = s.herders := by
  unfold Hw.commitRecord; simp [apply_ite Hw.herders]
@[simp] theorem commitRecord_kv (s : Hw) (r : FaultRec) : (s.commitRecord r).kv = s.kv := by
  unfold Hw.commitRecord; simp [apply_ite Hw.kv]
@[simp] theorem commitRecord_bwd (s : Hw) (r : FaultRec) : (s.commitRecord r).bwd = s.bwd := by
  unfold Hw.commitRecord; simp [apply_ite Hw.bwd]
@[simp] theorem commitRecord_engines (s : Hw) (r : FaultRec) : (s.commitRecord r).engines = s.engines := by
  unfold Hw.commitRecord; simp [apply_ite Hw.engines]
@[simp] theorem commitRecord_wgt (s : Hw) (r : FaultRec) : (s.commitRecord r).wgt = s.wgt := by
  unfold Hw.commitRecord; simp [apply_ite Hw.wgt]
@[simp] theorem commitRecord_tng (s : Hw) (r : FaultRec) : (s.commitRecord r).tng = s.tng := by
  unfold Hw.commitRecord; simp [apply_ite Hw.tng]
@[simp] theorem commitRecord_ports (s : Hw) (r : FaultRec) : (s.commitRecord r).ports = s.ports := by
  unfold Hw.commitRecord; simp [apply_ite Hw.ports]
@[simp] theorem commitRecord_spn (s : Hw) (r : FaultRec) : (s.commitRecord r).spn = s.spn := by
  unfold Hw.commitRecord; simp [apply_ite Hw.spn]
@[simp] theorem commitRecord_pwr (s : Hw) (r : FaultRec) : (s.commitRecord r).pwr = s.pwr := by
  unfold Hw.commitRecord; simp [apply_ite Hw.pwr]
@[simp] theorem commitRecord_qps (s : Hw) (r : FaultRec) : (s.commitRecord r).qps = s.qps := by
  unfold Hw.commitRecord; simp [apply_ite Hw.qps]
@[simp] theorem commitRecord_hostMem (s : Hw) (r : FaultRec) : (s.commitRecord r).hostMem = s.hostMem := by
  unfold Hw.commitRecord; simp [apply_ite Hw.hostMem]
@[simp] theorem commitRecord_readData (s : Hw) (r : FaultRec) : (s.commitRecord r).readData = s.readData := by
  unfold Hw.commitRecord; simp [apply_ite Hw.readData]
@[simp] theorem commitRecord_now (s : Hw) (r : FaultRec) : (s.commitRecord r).now = s.now := by
  unfold Hw.commitRecord; simp [apply_ite Hw.now]

/-! ### The next record -/

@[simp] theorem emitRecord_glb (s : Hw) (r : FaultRec) : (s.emitRecord r).glb = s.glb := by
  unfold Hw.emitRecord; simp [apply_ite Hw.glb]
@[simp] theorem emitRecord_mbx (s : Hw) (r : FaultRec) : (s.emitRecord r).mbx = s.mbx := by
  unfold Hw.emitRecord; simp [apply_ite Hw.mbx]
@[simp] theorem emitRecord_stk (s : Hw) (r : FaultRec) : (s.emitRecord r).stk = s.stk := by
  unfold Hw.emitRecord; simp [apply_ite Hw.stk]
@[simp] theorem emitRecord_evt (s : Hw) (r : FaultRec) : (s.emitRecord r).evt = s.evt := by
  unfold Hw.emitRecord; simp [apply_ite Hw.evt]
@[simp] theorem emitRecord_evu (s : Hw) (r : FaultRec) : (s.emitRecord r).evu = s.evu := by
  unfold Hw.emitRecord; simp [apply_ite Hw.evu]
@[simp] theorem emitRecord_armed (s : Hw) (r : FaultRec) : (s.emitRecord r).armed = s.armed := by
  unfold Hw.emitRecord; simp [apply_ite Hw.armed]
@[simp] theorem emitRecord_running (s : Hw) (r : FaultRec) : (s.emitRecord r).running = s.running := by
  unfold Hw.emitRecord; simp [apply_ite Hw.running]
@[simp] theorem emitRecord_incoming (s : Hw) (r : FaultRec) : (s.emitRecord r).incoming = s.incoming := by
  unfold Hw.emitRecord; simp [apply_ite Hw.incoming]
@[simp] theorem emitRecord_cores (s : Hw) (r : FaultRec) : (s.emitRecord r).cores = s.cores := by
  unfold Hw.emitRecord; simp [apply_ite Hw.cores]
@[simp] theorem emitRecord_snaps (s : Hw) (r : FaultRec) : (s.emitRecord r).snaps = s.snaps := by
  unfold Hw.emitRecord; simp [apply_ite Hw.snaps]
@[simp] theorem emitRecord_fabric (s : Hw) (r : FaultRec) : (s.emitRecord r).fabric = s.fabric := by
  unfold Hw.emitRecord; simp [apply_ite Hw.fabric]
@[simp] theorem emitRecord_routeEpoch (s : Hw) (r : FaultRec) : (s.emitRecord r).routeEpoch = s.routeEpoch := by
  unfold Hw.emitRecord; simp [apply_ite Hw.routeEpoch]
@[simp] theorem emitRecord_arbs (s : Hw) (r : FaultRec) : (s.emitRecord r).arbs = s.arbs := by
  unfold Hw.emitRecord; simp [apply_ite Hw.arbs]
@[simp] theorem emitRecord_flds (s : Hw) (r : FaultRec) : (s.emitRecord r).flds = s.flds := by
  unfold Hw.emitRecord; simp [apply_ite Hw.flds]
@[simp] theorem emitRecord_tst (s : Hw) (r : FaultRec) : (s.emitRecord r).tst = s.tst := by
  unfold Hw.emitRecord; simp [apply_ite Hw.tst]
@[simp] theorem emitRecord_herders (s : Hw) (r : FaultRec) : (s.emitRecord r).herders = s.herders := by
  unfold Hw.emitRecord; simp [apply_ite Hw.herders]
@[simp] theorem emitRecord_kv (s : Hw) (r : FaultRec) : (s.emitRecord r).kv = s.kv := by
  unfold Hw.emitRecord; simp [apply_ite Hw.kv]
@[simp] theorem emitRecord_bwd (s : Hw) (r : FaultRec) : (s.emitRecord r).bwd = s.bwd := by
  unfold Hw.emitRecord; simp [apply_ite Hw.bwd]
@[simp] theorem emitRecord_engines (s : Hw) (r : FaultRec) : (s.emitRecord r).engines = s.engines := by
  unfold Hw.emitRecord; simp [apply_ite Hw.engines]
@[simp] theorem emitRecord_wgt (s : Hw) (r : FaultRec) : (s.emitRecord r).wgt = s.wgt := by
  unfold Hw.emitRecord; simp [apply_ite Hw.wgt]
@[simp] theorem emitRecord_tng (s : Hw) (r : FaultRec) : (s.emitRecord r).tng = s.tng := by
  unfold Hw.emitRecord; simp [apply_ite Hw.tng]
@[simp] theorem emitRecord_ports (s : Hw) (r : FaultRec) : (s.emitRecord r).ports = s.ports := by
  unfold Hw.emitRecord; simp [apply_ite Hw.ports]
@[simp] theorem emitRecord_spn (s : Hw) (r : FaultRec) : (s.emitRecord r).spn = s.spn := by
  unfold Hw.emitRecord; simp [apply_ite Hw.spn]
@[simp] theorem emitRecord_pwr (s : Hw) (r : FaultRec) : (s.emitRecord r).pwr = s.pwr := by
  unfold Hw.emitRecord; simp [apply_ite Hw.pwr]
@[simp] theorem emitRecord_qps (s : Hw) (r : FaultRec) : (s.emitRecord r).qps = s.qps := by
  unfold Hw.emitRecord; simp [apply_ite Hw.qps]
@[simp] theorem emitRecord_hostMem (s : Hw) (r : FaultRec) : (s.emitRecord r).hostMem = s.hostMem := by
  unfold Hw.emitRecord; simp [apply_ite Hw.hostMem]
@[simp] theorem emitRecord_readData (s : Hw) (r : FaultRec) : (s.emitRecord r).readData = s.readData := by
  unfold Hw.emitRecord; simp [apply_ite Hw.readData]
@[simp] theorem emitRecord_now (s : Hw) (r : FaultRec) : (s.emitRecord r).now = s.now := by
  unfold Hw.emitRecord; simp [apply_ite Hw.now]

/-! ### A record formed and written -/

@[simp] theorem writeRecord_glb (s : Hw) (i : RecIn) : (s.writeRecord i).glb = s.glb := by
  unfold Hw.writeRecord; simp
@[simp] theorem writeRecord_mbx (s : Hw) (i : RecIn) : (s.writeRecord i).mbx = s.mbx := by
  unfold Hw.writeRecord; simp
@[simp] theorem writeRecord_stk (s : Hw) (i : RecIn) : (s.writeRecord i).stk = s.stk := by
  unfold Hw.writeRecord; simp
@[simp] theorem writeRecord_evt (s : Hw) (i : RecIn) : (s.writeRecord i).evt = s.evt := by
  unfold Hw.writeRecord; simp
@[simp] theorem writeRecord_evu (s : Hw) (i : RecIn) : (s.writeRecord i).evu = s.evu := by
  unfold Hw.writeRecord; simp
@[simp] theorem writeRecord_armed (s : Hw) (i : RecIn) : (s.writeRecord i).armed = s.armed := by
  unfold Hw.writeRecord; simp
@[simp] theorem writeRecord_running (s : Hw) (i : RecIn) : (s.writeRecord i).running = s.running := by
  unfold Hw.writeRecord; simp
@[simp] theorem writeRecord_incoming (s : Hw) (i : RecIn) : (s.writeRecord i).incoming = s.incoming := by
  unfold Hw.writeRecord; simp
@[simp] theorem writeRecord_cores (s : Hw) (i : RecIn) : (s.writeRecord i).cores = s.cores := by
  unfold Hw.writeRecord; simp
@[simp] theorem writeRecord_snaps (s : Hw) (i : RecIn) : (s.writeRecord i).snaps = s.snaps := by
  unfold Hw.writeRecord; simp
@[simp] theorem writeRecord_fabric (s : Hw) (i : RecIn) : (s.writeRecord i).fabric = s.fabric := by
  unfold Hw.writeRecord; simp
@[simp] theorem writeRecord_routeEpoch (s : Hw) (i : RecIn) : (s.writeRecord i).routeEpoch = s.routeEpoch := by
  unfold Hw.writeRecord; simp
@[simp] theorem writeRecord_arbs (s : Hw) (i : RecIn) : (s.writeRecord i).arbs = s.arbs := by
  unfold Hw.writeRecord; simp
@[simp] theorem writeRecord_flds (s : Hw) (i : RecIn) : (s.writeRecord i).flds = s.flds := by
  unfold Hw.writeRecord; simp
@[simp] theorem writeRecord_tst (s : Hw) (i : RecIn) : (s.writeRecord i).tst = s.tst := by
  unfold Hw.writeRecord; simp
@[simp] theorem writeRecord_herders (s : Hw) (i : RecIn) : (s.writeRecord i).herders = s.herders := by
  unfold Hw.writeRecord; simp
@[simp] theorem writeRecord_kv (s : Hw) (i : RecIn) : (s.writeRecord i).kv = s.kv := by
  unfold Hw.writeRecord; simp
@[simp] theorem writeRecord_bwd (s : Hw) (i : RecIn) : (s.writeRecord i).bwd = s.bwd := by
  unfold Hw.writeRecord; simp
@[simp] theorem writeRecord_engines (s : Hw) (i : RecIn) : (s.writeRecord i).engines = s.engines := by
  unfold Hw.writeRecord; simp
@[simp] theorem writeRecord_wgt (s : Hw) (i : RecIn) : (s.writeRecord i).wgt = s.wgt := by
  unfold Hw.writeRecord; simp
@[simp] theorem writeRecord_tng (s : Hw) (i : RecIn) : (s.writeRecord i).tng = s.tng := by
  unfold Hw.writeRecord; simp
@[simp] theorem writeRecord_ports (s : Hw) (i : RecIn) : (s.writeRecord i).ports = s.ports := by
  unfold Hw.writeRecord; simp
@[simp] theorem writeRecord_spn (s : Hw) (i : RecIn) : (s.writeRecord i).spn = s.spn := by
  unfold Hw.writeRecord; simp
@[simp] theorem writeRecord_pwr (s : Hw) (i : RecIn) : (s.writeRecord i).pwr = s.pwr := by
  unfold Hw.writeRecord; simp
@[simp] theorem writeRecord_qps (s : Hw) (i : RecIn) : (s.writeRecord i).qps = s.qps := by
  unfold Hw.writeRecord; simp
@[simp] theorem writeRecord_hostMem (s : Hw) (i : RecIn) : (s.writeRecord i).hostMem = s.hostMem := by
  unfold Hw.writeRecord; simp
@[simp] theorem writeRecord_readData (s : Hw) (i : RecIn) : (s.writeRecord i).readData = s.readData := by
  unfold Hw.writeRecord; simp
@[simp] theorem writeRecord_now (s : Hw) (i : RecIn) : (s.writeRecord i).now = s.now := by
  unfold Hw.writeRecord; simp

/-! ### The high condition -/

@[simp] theorem judgeHigh_glb (s : Hw) : s.judgeHigh.glb = s.glb := by
  unfold Hw.judgeHigh; simp [apply_ite Hw.glb]
@[simp] theorem judgeHigh_mbx (s : Hw) : s.judgeHigh.mbx = s.mbx := by
  unfold Hw.judgeHigh; simp [apply_ite Hw.mbx]
@[simp] theorem judgeHigh_stk (s : Hw) : s.judgeHigh.stk = s.stk := by
  unfold Hw.judgeHigh; simp [apply_ite Hw.stk]
@[simp] theorem judgeHigh_evu (s : Hw) : s.judgeHigh.evu = s.evu := by
  unfold Hw.judgeHigh; simp [apply_ite Hw.evu]
@[simp] theorem judgeHigh_armed (s : Hw) : s.judgeHigh.armed = s.armed := by
  unfold Hw.judgeHigh; simp [apply_ite Hw.armed]
@[simp] theorem judgeHigh_running (s : Hw) : s.judgeHigh.running = s.running := by
  unfold Hw.judgeHigh; simp [apply_ite Hw.running]
@[simp] theorem judgeHigh_incoming (s : Hw) : s.judgeHigh.incoming = s.incoming := by
  unfold Hw.judgeHigh; simp [apply_ite Hw.incoming]
@[simp] theorem judgeHigh_cores (s : Hw) : s.judgeHigh.cores = s.cores := by
  unfold Hw.judgeHigh; simp [apply_ite Hw.cores]
@[simp] theorem judgeHigh_snaps (s : Hw) : s.judgeHigh.snaps = s.snaps := by
  unfold Hw.judgeHigh; simp [apply_ite Hw.snaps]
@[simp] theorem judgeHigh_fabric (s : Hw) : s.judgeHigh.fabric = s.fabric := by
  unfold Hw.judgeHigh; simp [apply_ite Hw.fabric]
@[simp] theorem judgeHigh_routeEpoch (s : Hw) : s.judgeHigh.routeEpoch = s.routeEpoch := by
  unfold Hw.judgeHigh; simp [apply_ite Hw.routeEpoch]
@[simp] theorem judgeHigh_arbs (s : Hw) : s.judgeHigh.arbs = s.arbs := by
  unfold Hw.judgeHigh; simp [apply_ite Hw.arbs]
@[simp] theorem judgeHigh_flds (s : Hw) : s.judgeHigh.flds = s.flds := by
  unfold Hw.judgeHigh; simp [apply_ite Hw.flds]
@[simp] theorem judgeHigh_tst (s : Hw) : s.judgeHigh.tst = s.tst := by
  unfold Hw.judgeHigh; simp [apply_ite Hw.tst]
@[simp] theorem judgeHigh_herders (s : Hw) : s.judgeHigh.herders = s.herders := by
  unfold Hw.judgeHigh; simp [apply_ite Hw.herders]
@[simp] theorem judgeHigh_kv (s : Hw) : s.judgeHigh.kv = s.kv := by
  unfold Hw.judgeHigh; simp [apply_ite Hw.kv]
@[simp] theorem judgeHigh_bwd (s : Hw) : s.judgeHigh.bwd = s.bwd := by
  unfold Hw.judgeHigh; simp [apply_ite Hw.bwd]
@[simp] theorem judgeHigh_engines (s : Hw) : s.judgeHigh.engines = s.engines := by
  unfold Hw.judgeHigh; simp [apply_ite Hw.engines]
@[simp] theorem judgeHigh_wgt (s : Hw) : s.judgeHigh.wgt = s.wgt := by
  unfold Hw.judgeHigh; simp [apply_ite Hw.wgt]
@[simp] theorem judgeHigh_tng (s : Hw) : s.judgeHigh.tng = s.tng := by
  unfold Hw.judgeHigh; simp [apply_ite Hw.tng]
@[simp] theorem judgeHigh_ports (s : Hw) : s.judgeHigh.ports = s.ports := by
  unfold Hw.judgeHigh; simp [apply_ite Hw.ports]
@[simp] theorem judgeHigh_spn (s : Hw) : s.judgeHigh.spn = s.spn := by
  unfold Hw.judgeHigh; simp [apply_ite Hw.spn]
@[simp] theorem judgeHigh_flash (s : Hw) : s.judgeHigh.flash = s.flash := by
  unfold Hw.judgeHigh; simp [apply_ite Hw.flash]
@[simp] theorem judgeHigh_pwr (s : Hw) : s.judgeHigh.pwr = s.pwr := by
  unfold Hw.judgeHigh; simp [apply_ite Hw.pwr]
@[simp] theorem judgeHigh_qps (s : Hw) : s.judgeHigh.qps = s.qps := by
  unfold Hw.judgeHigh; simp [apply_ite Hw.qps]
@[simp] theorem judgeHigh_mem (s : Hw) : s.judgeHigh.mem = s.mem := by
  unfold Hw.judgeHigh; simp [apply_ite Hw.mem]
@[simp] theorem judgeHigh_hostMem (s : Hw) : s.judgeHigh.hostMem = s.hostMem := by
  unfold Hw.judgeHigh; simp [apply_ite Hw.hostMem]
@[simp] theorem judgeHigh_readData (s : Hw) : s.judgeHigh.readData = s.readData := by
  unfold Hw.judgeHigh; simp [apply_ite Hw.readData]
@[simp] theorem judgeHigh_now (s : Hw) : s.judgeHigh.now = s.now := by
  unfold Hw.judgeHigh; simp [apply_ite Hw.now]

/-! ### Closing a recovery, and the stop of an uncontained fault -/

theorem foldEmit_glb (g : FaultRec → FaultRec) (rs : List FaultRec) (s : Hw) :
    (rs.foldl (fun s r => s.emitRecord (g r)) s).glb = s.glb := by
  induction rs generalizing s with
  | nil => rfl
  | cons r rs ih => simp [ih]
@[simp] theorem closeRecovery_glb (s : Hw) (n : Nat) : (s.closeRecovery n).glb = s.glb := by
  unfold Hw.closeRecovery; split
  · rfl
  · exact foldEmit_glb _ _ s
theorem foldEmit_mbx (g : FaultRec → FaultRec) (rs : List FaultRec) (s : Hw) :
    (rs.foldl (fun s r => s.emitRecord (g r)) s).mbx = s.mbx := by
  induction rs generalizing s with
  | nil => rfl
  | cons r rs ih => simp [ih]
@[simp] theorem closeRecovery_mbx (s : Hw) (n : Nat) : (s.closeRecovery n).mbx = s.mbx := by
  unfold Hw.closeRecovery; split
  · rfl
  · exact foldEmit_mbx _ _ s
theorem foldEmit_stk (g : FaultRec → FaultRec) (rs : List FaultRec) (s : Hw) :
    (rs.foldl (fun s r => s.emitRecord (g r)) s).stk = s.stk := by
  induction rs generalizing s with
  | nil => rfl
  | cons r rs ih => simp [ih]
@[simp] theorem closeRecovery_stk (s : Hw) (n : Nat) : (s.closeRecovery n).stk = s.stk := by
  unfold Hw.closeRecovery; split
  · rfl
  · exact foldEmit_stk _ _ s
theorem foldEmit_evt (g : FaultRec → FaultRec) (rs : List FaultRec) (s : Hw) :
    (rs.foldl (fun s r => s.emitRecord (g r)) s).evt = s.evt := by
  induction rs generalizing s with
  | nil => rfl
  | cons r rs ih => simp [ih]
@[simp] theorem closeRecovery_evt (s : Hw) (n : Nat) : (s.closeRecovery n).evt = s.evt := by
  unfold Hw.closeRecovery; split
  · rfl
  · exact foldEmit_evt _ _ s
theorem foldEmit_evu (g : FaultRec → FaultRec) (rs : List FaultRec) (s : Hw) :
    (rs.foldl (fun s r => s.emitRecord (g r)) s).evu = s.evu := by
  induction rs generalizing s with
  | nil => rfl
  | cons r rs ih => simp [ih]
@[simp] theorem closeRecovery_evu (s : Hw) (n : Nat) : (s.closeRecovery n).evu = s.evu := by
  unfold Hw.closeRecovery; split
  · rfl
  · exact foldEmit_evu _ _ s
theorem foldEmit_armed (g : FaultRec → FaultRec) (rs : List FaultRec) (s : Hw) :
    (rs.foldl (fun s r => s.emitRecord (g r)) s).armed = s.armed := by
  induction rs generalizing s with
  | nil => rfl
  | cons r rs ih => simp [ih]
@[simp] theorem closeRecovery_armed (s : Hw) (n : Nat) : (s.closeRecovery n).armed = s.armed := by
  unfold Hw.closeRecovery; split
  · rfl
  · exact foldEmit_armed _ _ s
theorem foldEmit_running (g : FaultRec → FaultRec) (rs : List FaultRec) (s : Hw) :
    (rs.foldl (fun s r => s.emitRecord (g r)) s).running = s.running := by
  induction rs generalizing s with
  | nil => rfl
  | cons r rs ih => simp [ih]
@[simp] theorem closeRecovery_running (s : Hw) (n : Nat) : (s.closeRecovery n).running = s.running := by
  unfold Hw.closeRecovery; split
  · rfl
  · exact foldEmit_running _ _ s
theorem foldEmit_incoming (g : FaultRec → FaultRec) (rs : List FaultRec) (s : Hw) :
    (rs.foldl (fun s r => s.emitRecord (g r)) s).incoming = s.incoming := by
  induction rs generalizing s with
  | nil => rfl
  | cons r rs ih => simp [ih]
@[simp] theorem closeRecovery_incoming (s : Hw) (n : Nat) : (s.closeRecovery n).incoming = s.incoming := by
  unfold Hw.closeRecovery; split
  · rfl
  · exact foldEmit_incoming _ _ s
theorem foldEmit_cores (g : FaultRec → FaultRec) (rs : List FaultRec) (s : Hw) :
    (rs.foldl (fun s r => s.emitRecord (g r)) s).cores = s.cores := by
  induction rs generalizing s with
  | nil => rfl
  | cons r rs ih => simp [ih]
@[simp] theorem closeRecovery_cores (s : Hw) (n : Nat) : (s.closeRecovery n).cores = s.cores := by
  unfold Hw.closeRecovery; split
  · rfl
  · exact foldEmit_cores _ _ s
theorem foldEmit_snaps (g : FaultRec → FaultRec) (rs : List FaultRec) (s : Hw) :
    (rs.foldl (fun s r => s.emitRecord (g r)) s).snaps = s.snaps := by
  induction rs generalizing s with
  | nil => rfl
  | cons r rs ih => simp [ih]
@[simp] theorem closeRecovery_snaps (s : Hw) (n : Nat) : (s.closeRecovery n).snaps = s.snaps := by
  unfold Hw.closeRecovery; split
  · rfl
  · exact foldEmit_snaps _ _ s
theorem foldEmit_fabric (g : FaultRec → FaultRec) (rs : List FaultRec) (s : Hw) :
    (rs.foldl (fun s r => s.emitRecord (g r)) s).fabric = s.fabric := by
  induction rs generalizing s with
  | nil => rfl
  | cons r rs ih => simp [ih]
@[simp] theorem closeRecovery_fabric (s : Hw) (n : Nat) : (s.closeRecovery n).fabric = s.fabric := by
  unfold Hw.closeRecovery; split
  · rfl
  · exact foldEmit_fabric _ _ s
theorem foldEmit_routeEpoch (g : FaultRec → FaultRec) (rs : List FaultRec) (s : Hw) :
    (rs.foldl (fun s r => s.emitRecord (g r)) s).routeEpoch = s.routeEpoch := by
  induction rs generalizing s with
  | nil => rfl
  | cons r rs ih => simp [ih]
@[simp] theorem closeRecovery_routeEpoch (s : Hw) (n : Nat) : (s.closeRecovery n).routeEpoch = s.routeEpoch := by
  unfold Hw.closeRecovery; split
  · rfl
  · exact foldEmit_routeEpoch _ _ s
theorem foldEmit_arbs (g : FaultRec → FaultRec) (rs : List FaultRec) (s : Hw) :
    (rs.foldl (fun s r => s.emitRecord (g r)) s).arbs = s.arbs := by
  induction rs generalizing s with
  | nil => rfl
  | cons r rs ih => simp [ih]
@[simp] theorem closeRecovery_arbs (s : Hw) (n : Nat) : (s.closeRecovery n).arbs = s.arbs := by
  unfold Hw.closeRecovery; split
  · rfl
  · exact foldEmit_arbs _ _ s
theorem foldEmit_flds (g : FaultRec → FaultRec) (rs : List FaultRec) (s : Hw) :
    (rs.foldl (fun s r => s.emitRecord (g r)) s).flds = s.flds := by
  induction rs generalizing s with
  | nil => rfl
  | cons r rs ih => simp [ih]
@[simp] theorem closeRecovery_flds (s : Hw) (n : Nat) : (s.closeRecovery n).flds = s.flds := by
  unfold Hw.closeRecovery; split
  · rfl
  · exact foldEmit_flds _ _ s
theorem foldEmit_tst (g : FaultRec → FaultRec) (rs : List FaultRec) (s : Hw) :
    (rs.foldl (fun s r => s.emitRecord (g r)) s).tst = s.tst := by
  induction rs generalizing s with
  | nil => rfl
  | cons r rs ih => simp [ih]
@[simp] theorem closeRecovery_tst (s : Hw) (n : Nat) : (s.closeRecovery n).tst = s.tst := by
  unfold Hw.closeRecovery; split
  · rfl
  · exact foldEmit_tst _ _ s
theorem foldEmit_herders (g : FaultRec → FaultRec) (rs : List FaultRec) (s : Hw) :
    (rs.foldl (fun s r => s.emitRecord (g r)) s).herders = s.herders := by
  induction rs generalizing s with
  | nil => rfl
  | cons r rs ih => simp [ih]
@[simp] theorem closeRecovery_herders (s : Hw) (n : Nat) : (s.closeRecovery n).herders = s.herders := by
  unfold Hw.closeRecovery; split
  · rfl
  · exact foldEmit_herders _ _ s
theorem foldEmit_kv (g : FaultRec → FaultRec) (rs : List FaultRec) (s : Hw) :
    (rs.foldl (fun s r => s.emitRecord (g r)) s).kv = s.kv := by
  induction rs generalizing s with
  | nil => rfl
  | cons r rs ih => simp [ih]
@[simp] theorem closeRecovery_kv (s : Hw) (n : Nat) : (s.closeRecovery n).kv = s.kv := by
  unfold Hw.closeRecovery; split
  · rfl
  · exact foldEmit_kv _ _ s
theorem foldEmit_bwd (g : FaultRec → FaultRec) (rs : List FaultRec) (s : Hw) :
    (rs.foldl (fun s r => s.emitRecord (g r)) s).bwd = s.bwd := by
  induction rs generalizing s with
  | nil => rfl
  | cons r rs ih => simp [ih]
@[simp] theorem closeRecovery_bwd (s : Hw) (n : Nat) : (s.closeRecovery n).bwd = s.bwd := by
  unfold Hw.closeRecovery; split
  · rfl
  · exact foldEmit_bwd _ _ s
theorem foldEmit_engines (g : FaultRec → FaultRec) (rs : List FaultRec) (s : Hw) :
    (rs.foldl (fun s r => s.emitRecord (g r)) s).engines = s.engines := by
  induction rs generalizing s with
  | nil => rfl
  | cons r rs ih => simp [ih]
@[simp] theorem closeRecovery_engines (s : Hw) (n : Nat) : (s.closeRecovery n).engines = s.engines := by
  unfold Hw.closeRecovery; split
  · rfl
  · exact foldEmit_engines _ _ s
theorem foldEmit_wgt (g : FaultRec → FaultRec) (rs : List FaultRec) (s : Hw) :
    (rs.foldl (fun s r => s.emitRecord (g r)) s).wgt = s.wgt := by
  induction rs generalizing s with
  | nil => rfl
  | cons r rs ih => simp [ih]
@[simp] theorem closeRecovery_wgt (s : Hw) (n : Nat) : (s.closeRecovery n).wgt = s.wgt := by
  unfold Hw.closeRecovery; split
  · rfl
  · exact foldEmit_wgt _ _ s
theorem foldEmit_tng (g : FaultRec → FaultRec) (rs : List FaultRec) (s : Hw) :
    (rs.foldl (fun s r => s.emitRecord (g r)) s).tng = s.tng := by
  induction rs generalizing s with
  | nil => rfl
  | cons r rs ih => simp [ih]
@[simp] theorem closeRecovery_tng (s : Hw) (n : Nat) : (s.closeRecovery n).tng = s.tng := by
  unfold Hw.closeRecovery; split
  · rfl
  · exact foldEmit_tng _ _ s
theorem foldEmit_ports (g : FaultRec → FaultRec) (rs : List FaultRec) (s : Hw) :
    (rs.foldl (fun s r => s.emitRecord (g r)) s).ports = s.ports := by
  induction rs generalizing s with
  | nil => rfl
  | cons r rs ih => simp [ih]
@[simp] theorem closeRecovery_ports (s : Hw) (n : Nat) : (s.closeRecovery n).ports = s.ports := by
  unfold Hw.closeRecovery; split
  · rfl
  · exact foldEmit_ports _ _ s
theorem foldEmit_spn (g : FaultRec → FaultRec) (rs : List FaultRec) (s : Hw) :
    (rs.foldl (fun s r => s.emitRecord (g r)) s).spn = s.spn := by
  induction rs generalizing s with
  | nil => rfl
  | cons r rs ih => simp [ih]
@[simp] theorem closeRecovery_spn (s : Hw) (n : Nat) : (s.closeRecovery n).spn = s.spn := by
  unfold Hw.closeRecovery; split
  · rfl
  · exact foldEmit_spn _ _ s
theorem foldEmit_pwr (g : FaultRec → FaultRec) (rs : List FaultRec) (s : Hw) :
    (rs.foldl (fun s r => s.emitRecord (g r)) s).pwr = s.pwr := by
  induction rs generalizing s with
  | nil => rfl
  | cons r rs ih => simp [ih]
@[simp] theorem closeRecovery_pwr (s : Hw) (n : Nat) : (s.closeRecovery n).pwr = s.pwr := by
  unfold Hw.closeRecovery; split
  · rfl
  · exact foldEmit_pwr _ _ s
theorem foldEmit_qps (g : FaultRec → FaultRec) (rs : List FaultRec) (s : Hw) :
    (rs.foldl (fun s r => s.emitRecord (g r)) s).qps = s.qps := by
  induction rs generalizing s with
  | nil => rfl
  | cons r rs ih => simp [ih]
@[simp] theorem closeRecovery_qps (s : Hw) (n : Nat) : (s.closeRecovery n).qps = s.qps := by
  unfold Hw.closeRecovery; split
  · rfl
  · exact foldEmit_qps _ _ s
theorem foldEmit_hostMem (g : FaultRec → FaultRec) (rs : List FaultRec) (s : Hw) :
    (rs.foldl (fun s r => s.emitRecord (g r)) s).hostMem = s.hostMem := by
  induction rs generalizing s with
  | nil => rfl
  | cons r rs ih => simp [ih]
@[simp] theorem closeRecovery_hostMem (s : Hw) (n : Nat) : (s.closeRecovery n).hostMem = s.hostMem := by
  unfold Hw.closeRecovery; split
  · rfl
  · exact foldEmit_hostMem _ _ s
theorem foldEmit_readData (g : FaultRec → FaultRec) (rs : List FaultRec) (s : Hw) :
    (rs.foldl (fun s r => s.emitRecord (g r)) s).readData = s.readData := by
  induction rs generalizing s with
  | nil => rfl
  | cons r rs ih => simp [ih]
@[simp] theorem closeRecovery_readData (s : Hw) (n : Nat) : (s.closeRecovery n).readData = s.readData := by
  unfold Hw.closeRecovery; split
  · rfl
  · exact foldEmit_readData _ _ s
theorem foldEmit_now (g : FaultRec → FaultRec) (rs : List FaultRec) (s : Hw) :
    (rs.foldl (fun s r => s.emitRecord (g r)) s).now = s.now := by
  induction rs generalizing s with
  | nil => rfl
  | cons r rs ih => simp [ih]
@[simp] theorem closeRecovery_now (s : Hw) (n : Nat) : (s.closeRecovery n).now = s.now := by
  unfold Hw.closeRecovery; split
  · rfl
  · exact foldEmit_now _ _ s
/-! ### The stop -/

@[simp] theorem stopUncontained_glb (s : Hw) (n : Nat) : (s.stopUncontained n).glb = s.glb := by
  unfold Hw.stopUncontained; simp [apply_ite Hw.glb]
@[simp] theorem stopUncontained_mbx (s : Hw) (n : Nat) : (s.stopUncontained n).mbx = s.mbx := by
  unfold Hw.stopUncontained; simp [apply_ite Hw.mbx]
@[simp] theorem stopUncontained_evu (s : Hw) (n : Nat) : (s.stopUncontained n).evu = s.evu := by
  unfold Hw.stopUncontained; simp [apply_ite Hw.evu]
@[simp] theorem stopUncontained_armed (s : Hw) (n : Nat) : (s.stopUncontained n).armed = s.armed := by
  unfold Hw.stopUncontained; simp [apply_ite Hw.armed]
@[simp] theorem stopUncontained_running (s : Hw) (n : Nat) : (s.stopUncontained n).running = s.running := by
  unfold Hw.stopUncontained; simp [apply_ite Hw.running]
@[simp] theorem stopUncontained_incoming (s : Hw) (n : Nat) : (s.stopUncontained n).incoming = s.incoming := by
  unfold Hw.stopUncontained; simp [apply_ite Hw.incoming]
@[simp] theorem stopUncontained_cores (s : Hw) (n : Nat) : (s.stopUncontained n).cores = s.cores := by
  unfold Hw.stopUncontained; simp [apply_ite Hw.cores]
@[simp] theorem stopUncontained_snaps (s : Hw) (n : Nat) : (s.stopUncontained n).snaps = s.snaps := by
  unfold Hw.stopUncontained; simp [apply_ite Hw.snaps]
@[simp] theorem stopUncontained_fabric (s : Hw) (n : Nat) : (s.stopUncontained n).fabric = s.fabric := by
  unfold Hw.stopUncontained; simp [apply_ite Hw.fabric]
@[simp] theorem stopUncontained_routeEpoch (s : Hw) (n : Nat) : (s.stopUncontained n).routeEpoch = s.routeEpoch := by
  unfold Hw.stopUncontained; simp [apply_ite Hw.routeEpoch]
@[simp] theorem stopUncontained_arbs (s : Hw) (n : Nat) : (s.stopUncontained n).arbs = s.arbs := by
  unfold Hw.stopUncontained; simp [apply_ite Hw.arbs]
@[simp] theorem stopUncontained_flds (s : Hw) (n : Nat) : (s.stopUncontained n).flds = s.flds := by
  unfold Hw.stopUncontained; simp [apply_ite Hw.flds]
@[simp] theorem stopUncontained_tst (s : Hw) (n : Nat) : (s.stopUncontained n).tst = s.tst := by
  unfold Hw.stopUncontained; simp [apply_ite Hw.tst]
@[simp] theorem stopUncontained_herders (s : Hw) (n : Nat) : (s.stopUncontained n).herders = s.herders := by
  unfold Hw.stopUncontained; simp [apply_ite Hw.herders]
@[simp] theorem stopUncontained_kv (s : Hw) (n : Nat) : (s.stopUncontained n).kv = s.kv := by
  unfold Hw.stopUncontained; simp [apply_ite Hw.kv]
@[simp] theorem stopUncontained_bwd (s : Hw) (n : Nat) : (s.stopUncontained n).bwd = s.bwd := by
  unfold Hw.stopUncontained; simp [apply_ite Hw.bwd]
@[simp] theorem stopUncontained_engines (s : Hw) (n : Nat) : (s.stopUncontained n).engines = s.engines := by
  unfold Hw.stopUncontained; simp [apply_ite Hw.engines]
@[simp] theorem stopUncontained_wgt (s : Hw) (n : Nat) : (s.stopUncontained n).wgt = s.wgt := by
  unfold Hw.stopUncontained; simp [apply_ite Hw.wgt]
@[simp] theorem stopUncontained_tng (s : Hw) (n : Nat) : (s.stopUncontained n).tng = s.tng := by
  unfold Hw.stopUncontained; simp [apply_ite Hw.tng]
@[simp] theorem stopUncontained_ports (s : Hw) (n : Nat) : (s.stopUncontained n).ports = s.ports := by
  unfold Hw.stopUncontained; simp [apply_ite Hw.ports]
@[simp] theorem stopUncontained_spn (s : Hw) (n : Nat) : (s.stopUncontained n).spn = s.spn := by
  unfold Hw.stopUncontained; simp [apply_ite Hw.spn]
@[simp] theorem stopUncontained_pwr (s : Hw) (n : Nat) : (s.stopUncontained n).pwr = s.pwr := by
  unfold Hw.stopUncontained; simp [apply_ite Hw.pwr]
@[simp] theorem stopUncontained_qps (s : Hw) (n : Nat) : (s.stopUncontained n).qps = s.qps := by
  unfold Hw.stopUncontained; simp [apply_ite Hw.qps]
@[simp] theorem stopUncontained_hostMem (s : Hw) (n : Nat) : (s.stopUncontained n).hostMem = s.hostMem := by
  unfold Hw.stopUncontained; simp [apply_ite Hw.hostMem]
@[simp] theorem stopUncontained_readData (s : Hw) (n : Nat) : (s.stopUncontained n).readData = s.readData := by
  unfold Hw.stopUncontained; simp [apply_ite Hw.readData]
@[simp] theorem stopUncontained_now (s : Hw) (n : Nat) : (s.stopUncontained n).now = s.now := by
  unfold Hw.stopUncontained; simp [apply_ite Hw.now]

/-! ### The full limit -/

@[simp] theorem judgeFull_glb (s : Hw) : (s.judgeFull ).glb = s.glb := by
  unfold Hw.judgeFull; simp [apply_ite Hw.glb]
@[simp] theorem judgeFull_mbx (s : Hw) : (s.judgeFull ).mbx = s.mbx := by
  unfold Hw.judgeFull; simp [apply_ite Hw.mbx]
@[simp] theorem judgeFull_evu (s : Hw) : (s.judgeFull ).evu = s.evu := by
  unfold Hw.judgeFull; simp [apply_ite Hw.evu]
@[simp] theorem judgeFull_armed (s : Hw) : (s.judgeFull ).armed = s.armed := by
  unfold Hw.judgeFull; simp [apply_ite Hw.armed]
@[simp] theorem judgeFull_running (s : Hw) : (s.judgeFull ).running = s.running := by
  unfold Hw.judgeFull; simp [apply_ite Hw.running]
@[simp] theorem judgeFull_incoming (s : Hw) : (s.judgeFull ).incoming = s.incoming := by
  unfold Hw.judgeFull; simp [apply_ite Hw.incoming]
@[simp] theorem judgeFull_cores (s : Hw) : (s.judgeFull ).cores = s.cores := by
  unfold Hw.judgeFull; simp [apply_ite Hw.cores]
@[simp] theorem judgeFull_snaps (s : Hw) : (s.judgeFull ).snaps = s.snaps := by
  unfold Hw.judgeFull; simp [apply_ite Hw.snaps]
@[simp] theorem judgeFull_fabric (s : Hw) : (s.judgeFull ).fabric = s.fabric := by
  unfold Hw.judgeFull; simp [apply_ite Hw.fabric]
@[simp] theorem judgeFull_routeEpoch (s : Hw) : (s.judgeFull ).routeEpoch = s.routeEpoch := by
  unfold Hw.judgeFull; simp [apply_ite Hw.routeEpoch]
@[simp] theorem judgeFull_arbs (s : Hw) : (s.judgeFull ).arbs = s.arbs := by
  unfold Hw.judgeFull; simp [apply_ite Hw.arbs]
@[simp] theorem judgeFull_flds (s : Hw) : (s.judgeFull ).flds = s.flds := by
  unfold Hw.judgeFull; simp [apply_ite Hw.flds]
@[simp] theorem judgeFull_tst (s : Hw) : (s.judgeFull ).tst = s.tst := by
  unfold Hw.judgeFull; simp [apply_ite Hw.tst]
@[simp] theorem judgeFull_herders (s : Hw) : (s.judgeFull ).herders = s.herders := by
  unfold Hw.judgeFull; simp [apply_ite Hw.herders]
@[simp] theorem judgeFull_kv (s : Hw) : (s.judgeFull ).kv = s.kv := by
  unfold Hw.judgeFull; simp [apply_ite Hw.kv]
@[simp] theorem judgeFull_bwd (s : Hw) : (s.judgeFull ).bwd = s.bwd := by
  unfold Hw.judgeFull; simp [apply_ite Hw.bwd]
@[simp] theorem judgeFull_engines (s : Hw) : (s.judgeFull ).engines = s.engines := by
  unfold Hw.judgeFull; simp [apply_ite Hw.engines]
@[simp] theorem judgeFull_wgt (s : Hw) : (s.judgeFull ).wgt = s.wgt := by
  unfold Hw.judgeFull; simp [apply_ite Hw.wgt]
@[simp] theorem judgeFull_tng (s : Hw) : (s.judgeFull ).tng = s.tng := by
  unfold Hw.judgeFull; simp [apply_ite Hw.tng]
@[simp] theorem judgeFull_ports (s : Hw) : (s.judgeFull ).ports = s.ports := by
  unfold Hw.judgeFull; simp [apply_ite Hw.ports]
@[simp] theorem judgeFull_spn (s : Hw) : (s.judgeFull ).spn = s.spn := by
  unfold Hw.judgeFull; simp [apply_ite Hw.spn]
@[simp] theorem judgeFull_pwr (s : Hw) : (s.judgeFull ).pwr = s.pwr := by
  unfold Hw.judgeFull; simp [apply_ite Hw.pwr]
@[simp] theorem judgeFull_qps (s : Hw) : (s.judgeFull ).qps = s.qps := by
  unfold Hw.judgeFull; simp [apply_ite Hw.qps]
@[simp] theorem judgeFull_hostMem (s : Hw) : (s.judgeFull ).hostMem = s.hostMem := by
  unfold Hw.judgeFull; simp [apply_ite Hw.hostMem]
@[simp] theorem judgeFull_readData (s : Hw) : (s.judgeFull ).readData = s.readData := by
  unfold Hw.judgeFull; simp [apply_ite Hw.readData]
@[simp] theorem judgeFull_now (s : Hw) : (s.judgeFull ).now = s.now := by
  unfold Hw.judgeFull; simp [apply_ite Hw.now]

/-! ### A record and the limits it may reach -/

@[simp] theorem record_glb (s : Hw) (i : RecIn) : (s.record i).glb = s.glb := by
  unfold Hw.record; simp
@[simp] theorem record_mbx (s : Hw) (i : RecIn) : (s.record i).mbx = s.mbx := by
  unfold Hw.record; simp
@[simp] theorem record_evu (s : Hw) (i : RecIn) : (s.record i).evu = s.evu := by
  unfold Hw.record; simp
@[simp] theorem record_armed (s : Hw) (i : RecIn) : (s.record i).armed = s.armed := by
  unfold Hw.record; simp
@[simp] theorem record_running (s : Hw) (i : RecIn) : (s.record i).running = s.running := by
  unfold Hw.record; simp
@[simp] theorem record_incoming (s : Hw) (i : RecIn) : (s.record i).incoming = s.incoming := by
  unfold Hw.record; simp
@[simp] theorem record_cores (s : Hw) (i : RecIn) : (s.record i).cores = s.cores := by
  unfold Hw.record; simp
@[simp] theorem record_snaps (s : Hw) (i : RecIn) : (s.record i).snaps = s.snaps := by
  unfold Hw.record; simp
@[simp] theorem record_fabric (s : Hw) (i : RecIn) : (s.record i).fabric = s.fabric := by
  unfold Hw.record; simp
@[simp] theorem record_routeEpoch (s : Hw) (i : RecIn) : (s.record i).routeEpoch = s.routeEpoch := by
  unfold Hw.record; simp
@[simp] theorem record_arbs (s : Hw) (i : RecIn) : (s.record i).arbs = s.arbs := by
  unfold Hw.record; simp
@[simp] theorem record_flds (s : Hw) (i : RecIn) : (s.record i).flds = s.flds := by
  unfold Hw.record; simp
@[simp] theorem record_tst (s : Hw) (i : RecIn) : (s.record i).tst = s.tst := by
  unfold Hw.record; simp
@[simp] theorem record_herders (s : Hw) (i : RecIn) : (s.record i).herders = s.herders := by
  unfold Hw.record; simp
@[simp] theorem record_kv (s : Hw) (i : RecIn) : (s.record i).kv = s.kv := by
  unfold Hw.record; simp
@[simp] theorem record_bwd (s : Hw) (i : RecIn) : (s.record i).bwd = s.bwd := by
  unfold Hw.record; simp
@[simp] theorem record_engines (s : Hw) (i : RecIn) : (s.record i).engines = s.engines := by
  unfold Hw.record; simp
@[simp] theorem record_wgt (s : Hw) (i : RecIn) : (s.record i).wgt = s.wgt := by
  unfold Hw.record; simp
@[simp] theorem record_tng (s : Hw) (i : RecIn) : (s.record i).tng = s.tng := by
  unfold Hw.record; simp
@[simp] theorem record_ports (s : Hw) (i : RecIn) : (s.record i).ports = s.ports := by
  unfold Hw.record; simp
@[simp] theorem record_spn (s : Hw) (i : RecIn) : (s.record i).spn = s.spn := by
  unfold Hw.record; simp
@[simp] theorem record_pwr (s : Hw) (i : RecIn) : (s.record i).pwr = s.pwr := by
  unfold Hw.record; simp
@[simp] theorem record_qps (s : Hw) (i : RecIn) : (s.record i).qps = s.qps := by
  unfold Hw.record; simp
@[simp] theorem record_hostMem (s : Hw) (i : RecIn) : (s.record i).hostMem = s.hostMem := by
  unfold Hw.record; simp
@[simp] theorem record_readData (s : Hw) (i : RecIn) : (s.record i).readData = s.readData := by
  unfold Hw.record; simp
@[simp] theorem record_now (s : Hw) (i : RecIn) : (s.record i).now = s.now := by
  unfold Hw.record; simp

/-! ### An uncontained fault -/

@[simp] theorem uncontain_glb (s : Hw) (i : RecIn) : (s.uncontain i).glb = s.glb := by
  unfold Hw.uncontain; simp
@[simp] theorem uncontain_mbx (s : Hw) (i : RecIn) : (s.uncontain i).mbx = s.mbx := by
  unfold Hw.uncontain; simp
@[simp] theorem uncontain_evu (s : Hw) (i : RecIn) : (s.uncontain i).evu = s.evu := by
  unfold Hw.uncontain; simp
@[simp] theorem uncontain_armed (s : Hw) (i : RecIn) : (s.uncontain i).armed = s.armed := by
  unfold Hw.uncontain; simp
@[simp] theorem uncontain_running (s : Hw) (i : RecIn) : (s.uncontain i).running = s.running := by
  unfold Hw.uncontain; simp
@[simp] theorem uncontain_incoming (s : Hw) (i : RecIn) : (s.uncontain i).incoming = s.incoming := by
  unfold Hw.uncontain; simp
@[simp] theorem uncontain_cores (s : Hw) (i : RecIn) : (s.uncontain i).cores = s.cores := by
  unfold Hw.uncontain; simp
@[simp] theorem uncontain_snaps (s : Hw) (i : RecIn) : (s.uncontain i).snaps = s.snaps := by
  unfold Hw.uncontain; simp
@[simp] theorem uncontain_fabric (s : Hw) (i : RecIn) : (s.uncontain i).fabric = s.fabric := by
  unfold Hw.uncontain; simp
@[simp] theorem uncontain_routeEpoch (s : Hw) (i : RecIn) : (s.uncontain i).routeEpoch = s.routeEpoch := by
  unfold Hw.uncontain; simp
@[simp] theorem uncontain_arbs (s : Hw) (i : RecIn) : (s.uncontain i).arbs = s.arbs := by
  unfold Hw.uncontain; simp
@[simp] theorem uncontain_flds (s : Hw) (i : RecIn) : (s.uncontain i).flds = s.flds := by
  unfold Hw.uncontain; simp
@[simp] theorem uncontain_tst (s : Hw) (i : RecIn) : (s.uncontain i).tst = s.tst := by
  unfold Hw.uncontain; simp
@[simp] theorem uncontain_herders (s : Hw) (i : RecIn) : (s.uncontain i).herders = s.herders := by
  unfold Hw.uncontain; simp
@[simp] theorem uncontain_kv (s : Hw) (i : RecIn) : (s.uncontain i).kv = s.kv := by
  unfold Hw.uncontain; simp
@[simp] theorem uncontain_bwd (s : Hw) (i : RecIn) : (s.uncontain i).bwd = s.bwd := by
  unfold Hw.uncontain; simp
@[simp] theorem uncontain_engines (s : Hw) (i : RecIn) : (s.uncontain i).engines = s.engines := by
  unfold Hw.uncontain; simp
@[simp] theorem uncontain_wgt (s : Hw) (i : RecIn) : (s.uncontain i).wgt = s.wgt := by
  unfold Hw.uncontain; simp
@[simp] theorem uncontain_tng (s : Hw) (i : RecIn) : (s.uncontain i).tng = s.tng := by
  unfold Hw.uncontain; simp
@[simp] theorem uncontain_ports (s : Hw) (i : RecIn) : (s.uncontain i).ports = s.ports := by
  unfold Hw.uncontain; simp
@[simp] theorem uncontain_spn (s : Hw) (i : RecIn) : (s.uncontain i).spn = s.spn := by
  unfold Hw.uncontain; simp
@[simp] theorem uncontain_pwr (s : Hw) (i : RecIn) : (s.uncontain i).pwr = s.pwr := by
  unfold Hw.uncontain; simp
@[simp] theorem uncontain_qps (s : Hw) (i : RecIn) : (s.uncontain i).qps = s.qps := by
  unfold Hw.uncontain; simp
@[simp] theorem uncontain_hostMem (s : Hw) (i : RecIn) : (s.uncontain i).hostMem = s.hostMem := by
  unfold Hw.uncontain; simp
@[simp] theorem uncontain_readData (s : Hw) (i : RecIn) : (s.uncontain i).readData = s.readData := by
  unfold Hw.uncontain; simp
@[simp] theorem uncontain_now (s : Hw) (i : RecIn) : (s.uncontain i).now = s.now := by
  unfold Hw.uncontain; simp


end Sys2Proof.Machine
end

