-- ==== Sys2Proof/Laws/Core.lean ====
section
/-!
SUPPORT. Laws of a core's registers and of issue: what a register reads after a write, and what an instruction that may
issue does.
-/
namespace Sys2Proof.Machine

@[simp] theorem setS_sreg (x : CoreState) (n r : Nat) (v : W32) :
    (x.setS n v).sreg r = if r = 0 then 0 else if r = n then v else x.sreg r := by
  unfold CoreState.setS CoreState.sreg
  by_cases hr : r = 0
  · simp [hr]
  · by_cases hn : n = 0
    · subst hn; simp [hr]
    · simp [hr, hn]

@[simp] theorem setD_dreg (x : CoreState) (n r : Nat) (v : Desc) :
    (x.setD n v).dreg r = if r = n then v else x.dreg r := by
  simp [CoreState.setD, CoreState.dreg]

/-- setS changes the scalar registers alone. -/
theorem setS_frame (x : CoreState) (n : Nat) (v : W32) : x.setS n v = { x with sregs := (x.setS n v).sregs } := by
  unfold CoreState.setS; split <;> rfl

theorem setVec_frame (x : CoreState) (d : Nat) (m : Bool) (f : Nat → W32) :
    x.setVec d m f = { x with vregs := (x.setVec d m f).vregs } := by
  have key : ∀ (ls : List Nat) (y : CoreState), ∃ v, ls.foldl (fun y l =>
      if m && !(x.sreg 15).getLsbD l then y else y.setLane d l (f l)) y = { y with vregs := v } := by
    intro ls
    induction ls with
    | nil => intro y; exact ⟨y.vregs, rfl⟩
    | cons l ls ih =>
      intro y
      rw [List.foldl_cons]
      by_cases hc : (m && !(x.sreg 15).getLsbD l) = true
      · rw [if_pos hc]; exact ih y
      · rw [if_neg hc]
        obtain ⟨v, hv⟩ := ih (y.setLane d l (f l))
        exact ⟨v, by rw [hv]; rfl⟩
  obtain ⟨v, hv⟩ := key (List.range 16) x
  unfold CoreState.setVec
  rw [hv]

/-- The lanes of the vector registers after setVec. -/
theorem setVec_get (x : CoreState) (d : Nat) (m : Bool) (f : Nat → W32) (k : Nat) :
    nget 0 (x.setVec d m f).vregs k =
      if 16 * d ≤ k ∧ k < 16 * d + 16 ∧ (m && !(x.sreg 15).getLsbD (k - 16 * d)) = false then f (k - 16 * d)
      else nget 0 x.vregs k := by
  have key : ∀ (n : Nat) (y : CoreState), n ≤ 16 → nget 0 ((List.range n).foldl (fun y l =>
      if m && !(x.sreg 15).getLsbD l then y else y.setLane d l (f l)) y).vregs k =
      if 16 * d ≤ k ∧ k < 16 * d + n ∧ (m && !(x.sreg 15).getLsbD (k - 16 * d)) = false then f (k - 16 * d)
      else nget 0 y.vregs k := by
    intro n
    induction n with
    | zero =>
      intro y _
      have : ¬ (16 * d ≤ k ∧ k < 16 * d + 0 ∧ (m && !(x.sreg 15).getLsbD (k - 16 * d)) = false) := by omega
      rw [if_neg this]; rfl
    | succ n ih =>
      intro y hn
      rw [List.range_succ, List.foldl_append, List.foldl_cons, List.foldl_nil]
      by_cases hk : k = 16 * d + n
      · have hsub : k - 16 * d = n := by omega
        have hlt : ¬ (16 * d ≤ k ∧ k < 16 * d + n ∧ (m && !(x.sreg 15).getLsbD (k - 16 * d)) = false) := by omega
        have hold := ih y (by omega)
        rw [if_neg hlt] at hold
        by_cases hc : (m && !(x.sreg 15).getLsbD n) = true
        · rw [if_pos hc, hold]
          have : ¬ (16 * d ≤ k ∧ k < 16 * d + (n + 1) ∧ (m && !(x.sreg 15).getLsbD (k - 16 * d)) = false) := by
            rw [hsub, hc]; simp
          rw [if_neg this]
        · have hf : (m && !(x.sreg 15).getLsbD n) = false := by simpa using hc
          rw [if_neg hc]
          have : 16 * d ≤ k ∧ k < 16 * d + (n + 1) ∧ (m && !(x.sreg 15).getLsbD (k - 16 * d)) = false := by
            rw [hsub]; exact ⟨by omega, by omega, hf⟩
          rw [if_pos this, hsub, hk]
          simp [CoreState.setLane]
      · have hiff : (16 * d ≤ k ∧ k < 16 * d + (n + 1) ∧ (m && !(x.sreg 15).getLsbD (k - 16 * d)) = false) ↔
            (16 * d ≤ k ∧ k < 16 * d + n ∧ (m && !(x.sreg 15).getLsbD (k - 16 * d)) = false) := by
          constructor
          · rintro ⟨h1, h2, h3⟩; exact ⟨h1, by omega, h3⟩
          · rintro ⟨h1, h2, h3⟩; exact ⟨h1, by omega, h3⟩
        rw [if_congr hiff rfl rfl, ← ih y (by omega)]
        split
        · rfl
        · simp [CoreState.setLane, hk]
  exact key 16 x (le_refl _)

/-- A core that issues fetches the instruction that its program store spells at the counter. -/
theorem fetch_ok (s : State) (c : CoreId) (cls : Nat) (i : Ins) (u : Use) (regs : Bool) (k : Hw → Hw)
    (h : MayIssue s c cls i u regs) : s.hw.fetch c.toNat cls i k = k s.hw := by
  obtain ⟨h1, ⟨h2, h3⟩, -, -⟩ := h
  have h2' : ¬ bits (s.hw.core c.toNat).word.toNat 63 60 ≥ 12 := by
    have : bits (s.hw.core c.toNat).word.toNat 63 60 < 12 := h2
    omega
  have h3' : (s.hw.core c.toNat).word &&& ~~~ opBits = insWord cls i := h3
  unfold Hw.fetch
  rw [if_pos h1]
  show (if bits (s.hw.core c.toNat).word.toNat 63 60 ≥ 12 then _ else _) = _
  rw [if_neg h2', if_pos h3']

/-- An instruction that may issue and is done: the core takes its result and the counter moves on. -/
theorem issue_done (s : State) (c : CoreId) (cls : Nat) (i : Ins) (u : Use) (regs : Bool) (f : CoreState → Issue) (y : CoreState)
    (h : MayIssue s c cls i u regs) (hf : f (s.coreOf c) = .done y) :
    s.hw.issue c.toNat cls i f = s.hw.setCore c.toNat { y with pc := (y.pc + 1) % 512 } := by
  unfold Hw.issue
  rw [fetch_ok s c cls i u regs _ h]
  show s.hw.answer c.toNat (f (s.coreOf c)) = _
  rw [hf]; rfl

/-- An instruction that may issue and branches. -/
theorem issue_jump (s : State) (c : CoreId) (cls : Nat) (i : Ins) (u : Use) (regs : Bool) (f : CoreState → Issue) (y : CoreState)
    (pc : Nat) (h : MayIssue s c cls i u regs) (hf : f (s.coreOf c) = .jump y pc) :
    s.hw.issue c.toNat cls i f = s.hw.setCore c.toNat { y with pc := pc % 512 } := by
  unfold Hw.issue
  rw [fetch_ok s c cls i u regs _ h]
  show s.hw.answer c.toNat (f (s.coreOf c)) = _
  rw [hf]; rfl

/-- An instruction that may issue and waits changes nothing. -/
theorem issue_wait (s : State) (c : CoreId) (cls : Nat) (i : Ins) (u : Use) (regs : Bool) (f : CoreState → Issue)
    (h : MayIssue s c cls i u regs) (hf : f (s.coreOf c) = .wait) : s.hw.issue c.toNat cls i f = s.hw := by
  unfold Hw.issue
  rw [fetch_ok s c cls i u regs _ h]
  show s.hw.answer c.toNat (f (s.coreOf c)) = _
  rw [hf]; rfl

/-- A core that may not issue does nothing. -/
theorem fetch_off (s : Hw) (c cls : Nat) (i : Ins) (k : Hw → Hw) (h : s.canIssue c = false) : s.fetch c cls i k = s := by
  simp [Hw.fetch, h]

theorem issue_off (s : Hw) (c cls : Nat) (i : Ins) (f : CoreState → Issue) (h : s.canIssue c = false) :
    s.issue c cls i f = s := fetch_off s c cls i _ h

theorem issueRead_off (s : Hw) (c cls : Nat) (i : Ins) (f : CoreState → Issue) (h : s.canIssue c = false) :
    s.issueRead c cls i f = s := fetch_off s c cls i _ h

end Sys2Proof.Machine
end

