-- ==== Sys2Proof/Laws/Lines.lean ====
section
/-!
SUPPORT. A bonded memory line that nothing strikes: the port reads the line's own bytes, and its check passes.
-/
namespace Sys2Proof.Machine

theorem leBytes_leNat : ∀ bs : List Byte, leBytes bs.length (leNat bs) = bs
  | [] => rfl
  | b :: r => by
    have h : (b.toNat + 256 * leNat r) / 256 = leNat r := by have := b.isLt; omega
    have g : BitVec.ofNat 8 (b.toNat + 256 * leNat r) = b := by
      apply BitVec.eq_of_toNat_eq; have := b.isLt; simp only [BitVec.toNat_ofNat]; omega
    simp only [List.length_cons, leBytes, leNat, h, g, leBytes_leNat r]

theorem lineRead_length (s : Hw) (f w line : Nat) : (s.lineRead f w line).length = 64 := by
  unfold Hw.lineRead Hw.memRead; split
  · exact List.length_replicate
  · exact ngetList_length ..

/-- The port reads an unstruck line as it stands, and its check passes (R323). -/
theorem lineSeen_clean (s : Hw) (f w line : Nat) :
    s.lineSeen f w line { data := 0, code := 0, address := 0 } = (s.lineRead f w line, true) := by
  have h := leBytes_leNat (s.lineRead f w line)
  rw [lineRead_length] at h
  simp [Hw.lineSeen, h]

end Sys2Proof.Machine
end

