-- ==== Sys2Proof/Tests/Slice0.lean ====
section
/-!
SUPPORT. Small tests: ill-formed commands that the check refuses, one witness for the hypotheses of every clause of every
statement, and a few values worked out by hand from the manual. witness_<S>... is about statement <S>; where <S> joins two halves, the half's name follows.
-/


namespace Sys2Proof.Tests
open Sys2Proof Sys2Proof.Machine
set_option Elab.async false

/-! ## Helpers -/

/-- A command goes on to a state with property `p`. -/
def goes (r : Out) (p : State → Bool) : Bool := match r with | .next t => p t | _ => false

/-- A read of one part of the own span. -/
theorem readSpan_one_part (h : Hw) (addr n : Nat) (own : h.ownRank (addrRank addr) = true)
    (part : pageParts (n / pageBytes + 2) (addrOff addr) n = [(addrOff addr, n)])
    (good : h.spanStatus h.spn.rank.toNat (addrOff addr) n = 0) :
    (h.readSpan addr n).2 = (h.memRead (addrOff addr) n, 0) := by
  simp [Hw.readSpan, own, Hw.spanLoadAny, part, Hw.spanLoad, good]

/-! ## States -/

/-- A core under way: three descriptors, some scalars and lanes, a task running and two software tasks. -/
def coreX : CoreState := {
  mapped := true, running := some 0, pc := 5, formats := [(5, 0, 0)], sregs := [(1, 7), (2, 3), (3, 0x80), (15, 0x00FF)]
  vregs := [(16, 0x3F800000), (17, 0x40000000), (32, 0x40400000), (48, 0x41000000)], tasks := [0x203, 0xA00, 0xA05]
  dregs := [(1, 0x00000000000000000004000400200020), (2, BitVec.ofNat 128 (0x100 + 128 * 2 ^ 16 + 32 * 2 ^ 32 + 32 * 2 ^ 48)),
    (3, BitVec.ofNat 128 (0x2000 + 128 * 2 ^ 16 + 32 * 2 ^ 32 + 32 * 2 ^ 48)), (6, BitVec.ofNat 128 (0x100 + 32 * 2 ^ 16 + 2 * 2 ^ 32 + 8 * 2 ^ 48))]
  sram := [(0x20, 0x11), (0x103, 0x3F), (0x102, 0x80)], routes := [(4, BitVec.ofNat 64 (77 * 4 + 2 ^ 27))] }
/-- The module in beat 2 of stroke 5 with core 0 at `x`. -/
def withCore (x : CoreState) : State := { hw := {
  glb := { gweku := true }
  stk := { state := .running, inBeat := true, working := true, num := 5, workStroke := 5, beat := 2 }
  cores := [(0, x)] } }
/-- The module in a beat with `coreX` running on core 0. -/
def sRun : State := withCore coreX
/-- The module in a beat with `x` on core 0, before instruction `i` of a class. -/
def fetching (x : CoreState) (cls : Nat) (i : Ins) : State := withCore { x with prog := [0, 0, 0, 0, 0, insWord cls i] }
/-- There that instruction may issue. -/
def may (x : CoreState) (cls : Nat) (i : Ins) (u : Use) (regs : Bool) : Prop := MayIssue (fetching x cls i) 0 cls i u regs

/-! ## Well-formed commands -/

theorem test_wf_core_id : (Instr.nop 0 {}).wf = true ∧ (Instr.nop (BitVec.ofNat 21 (48 * 2 ^ 15)) {}).wf = false ∧
  (Instr.nop (BitVec.ofNat 21 (396 * 2 ^ 6)) {}).wf = false := by decide +kernel
theorem test_wf_register_value : (Instr.registerWrite 0 4 0xFFFFFFFF).wf = true ∧
  (Instr.registerWrite 0 4 0x100000000).wf = false ∧ (Instr.registerWrite 0 3 0).wf = false := by decide +kernel
theorem test_wf_touchmark_value : (Instr.tmkDataWrite 0 1 0xFF).wf = true ∧ (Instr.tmkDataWrite 0 1 0x100).wf = false := by decide +kernel
theorem test_wf_parameters : (Instr.version 0 []).wf = true ∧ (Instr.version 0 (List.replicate 4081 0)).wf = false := by
  decide +kernel
theorem test_wf_parameters_longest : (Instr.attest 0 (List.replicate 4080 0)).wf = true := by decide +kernel
theorem test_wf_payload : let f : DataFrame := { seq := 0, ack := 0, vc := 0, som := true, eom := true, creditVc := 0, credit := 0, payload := [], crc := 0 }
    (Instr.dataFrame 0 { f with payload := List.replicate 256 0 }).wf = true ∧
    (Instr.dataFrame 0 { f with payload := List.replicate 15 0 }).wf = false ∧
    (Instr.dataFrame 0 { f with payload := List.replicate 272 0 }).wf = false := by decide +kernel
theorem test_wf_message : (Instr.bcastData 0 0 0 true [1]).wf = true ∧
    (Instr.bcastData 0 0 0 true (List.replicate 4097 0)).wf = false := by decide +kernel
theorem test_wf_span_request : let m : SpanReqMsg := { srcRank := 1, destRank := 2, ttl := 15, gen := 0, address := 0, op := 1, flag := false, reissue := false, size := 64, tag := 0, engine := 0, data := [], operand := 0, compare := 0, firstIssue := 0 }
    (Instr.spanReq 0 { m with data := List.replicate 4096 0 }).wf = true ∧
    (Instr.spanReq 0 { m with data := List.replicate 4097 0 }).wf = false := by decide +kernel
theorem test_wf_window : (Instr.bar4Read 0 4096).wf = true ∧ (Instr.bar4Read 0 0).wf = false ∧
    (Instr.bar4Read 0 4097).wf = false ∧ (Instr.bar4Read (BitVec.ofNat 36 (2 ^ 36 - 1)) 2).wf = false := by decide +kernel
theorem test_wf_bar4_write : (Instr.bar4Write 0 [1]).wf = true ∧ (Instr.bar4Write 0 []).wf = false := by decide +kernel
theorem test_wf_logits : let m : LogitsMsg := { token := 0, layer := 0, first := 0, format := 0, values := [] }
    (Instr.logits 0 { m with values := [1] }).wf = true ∧
    (Instr.logits 0 { m with values := List.replicate (2 ^ 14 + 1) 0 }).wf = false := by decide +kernel
theorem test_wf_flag : (Instr.flag 0 0 5 [1, 2]).wf = true ∧ (Instr.flag 0 0 5 [1]).wf = false := by decide +kernel
theorem test_wf_sort_job : let j : SortJobMsg := { src := 0, dst := 0, scratch := 0, count := 0, flags := 0, tag := 0 }
    (Instr.sortJob 0 1 j).wf = true ∧ (Instr.sortJob 0 (BitVec.ofNat 21 (48 * 2 ^ 15)) j).wf = false := by decide +kernel
theorem test_wf_grad : let m : GradMsg := { bucket := 0, step := 0, segment := 0, offset := 0, values := [] }
    (Instr.grad 0 { m with values := List.replicate 2040 0 }).wf = true ∧
    (Instr.grad 0 { m with values := List.replicate 2041 0 }).wf = false := by decide +kernel
theorem test_wf_reduce : let m : ReduceMsg := { backup := false, group := 0, bucket := 0, step := 0, shard := 0, member := 0, offset := 0, values := [] }
    (Instr.contrib 0 { m with values := List.replicate 1016 0 }).wf = true ∧
    (Instr.contrib 0 { m with values := List.replicate 1017 0 }).wf = false ∧
    (Instr.result 0 { m with values := List.replicate 1017 0 }).wf = false := by decide +kernel
theorem test_wf_detection : (Instr.faultReport (.sramCrc 5 0)).wf = true ∧
    (Instr.faultReport (.coreDead (BitVec.ofNat 21 (396 * 2 ^ 6)) false)).wf = false := by decide +kernel
theorem test_wf_reports : (Instr.fieldTestDone 1 true true 0 [] [{ tester := BitVec.ofNat 21 (2 ^ 15), subject := BitVec.ofNat 21 (2 ^ 15 + 1), failed := false }] []).wf = true ∧
    (Instr.fieldTestDone 1 true true 0 [] [{ tester := 0, subject := 1, failed := false }] []).wf = false := by decide +kernel
theorem test_wf_event : (Instr.event 0 0 (List.replicate 64 0)).wf = true ∧ (Instr.event 0 0 []).wf = false := by decide +kernel
theorem test_wf_telemetry : (Instr.telemetryRecord (List.replicate 64 0)).wf = true ∧
    (Instr.telemetryRecord (List.replicate 63 0)).wf = false := by decide +kernel
theorem test_wf_hearth : (Instr.hearthTick (List.replicate 48 0)).wf = true ∧ (Instr.hearthTick []).wf = false ∧
    (Instr.sensorSample (List.replicate 384 0)).wf = true ∧ (Instr.sensorSample (List.replicate 383 0)).wf = false := by decide +kernel
theorem test_no_word_spells_a_command : decodeTableWord 8 0xFF = none := by decide +kernel

/-! ## Witnesses: cores, anvil, vector unit -/

theorem witness_CoreControl_CoreControlFlow : may coreX 0 {} {} true ∧ may coreX 0 { imm := 9 } { imm := 0x1FF } true ∧
    may coreX 0 { srcA := 1, imm := 9 } { srcA := true, imm := 0x1FF } (isS (1 : BitVec 5)) ∧
    may coreX 0 { imm := 4 } { imm := 0xFE } true := by
  unfold may MayIssue Fetches; decide +kernel
theorem witness_CoreControl_CoreControlFlow_wait_passes : ∀ t, 0 < t → t < 8 → (4 : W32).getLsbD t = true →
    nget 0 ((fetching coreX 0 { imm := 4 }).coreOf 0).toks t = 0 := fun _ _ _ _ => rfl
theorem witness_CoreControl_CoreControlFlow_wait_stays : let x := { coreX with toks := [(2, 1)] }
    (4 : W32).getLsbD 2 = true ∧ nget 0 ((fetching x 0 { imm := 4 }).coreOf 0).toks 2 ≠ 0 ∧
    may x 0 { imm := 4 } { imm := 0xFE } true := by
  unfold may MayIssue Fetches; decide +kernel

theorem witness_CoreTasks_end : let s := fetching coreX 0 {}
    (s.coreOf 0).running = some 0 ∧ may coreX 0 {} {} true ∧
    nget 0 (s.coreOf 0).taskPend 0 = 0 ∧ (s.coreOf 0).ready = [] := by unfold may MayIssue Fetches; decide +kernel
theorem witness_CoreTasks_end_next : let x := { coreX with ready := [{ task := 1, cycle := 4 }] }
    ((fetching x 0 {}).coreOf 0).running = some 0 ∧ may x 0 {} {} true ∧
    ((fetching x 0 {}).coreOf 0).ready = [{ task := 1, cycle := 4 }] := by
  unfold may MayIssue Fetches; decide +kernel
theorem witness_CoreTasks_end_two : let x := { coreX with ready := [{ task := 2, cycle := 4 }, { task := 1, cycle := 4 }] }
    may x 0 {} {} true ∧ x.before { task := 1, cycle := 4 } { task := 2, cycle := 4 } = true := by
  unfold may MayIssue Fetches; decide +kernel
theorem witness_CoreTasks_end_pending : let x := { coreX with taskPend := [(0, 2)] }
    ((fetching x 0 {}).coreOf 0).running = some 0 ∧ may x 0 {} {} true ∧
    nget 0 ((fetching x 0 {}).coreOf 0).taskPend 0 > 0 ∧ ((fetching x 0 {}).coreOf 0).ready = [] := by
  unfold may MayIssue Fetches; decide +kernel
theorem witness_CoreTasks_trig : let s := fetching coreX 11 { imm := 1 }
    may coreX 11 { imm := 1 } { imm := 0x1F } true ∧
    taskValid ((s.coreOf 0).task 1) = true ∧ taskKind ((s.coreOf 0).task 1) = 2 ∧
    (∀ r ∈ (s.coreOf 0).ready, r.task ≠ 1) := by unfold may MayIssue Fetches; decide +kernel
theorem witness_CoreTasks_trig_running : let x := { coreX with running := some 1, taskPend := [(1, 14)] }
    may x 11 { imm := 1 } { imm := 0x1F } true ∧ taskValid (x.task 1) = true ∧ taskKind (x.task 1) = 2 ∧
    nget 0 ((fetching x 11 { imm := 1 }).coreOf 0).taskPend 1 < 15 := by
  unfold may MayIssue Fetches; decide +kernel
/-- END runs the one of two ready tasks of one cycle and priority that has the lower index (R75). -/
theorem test_end_picks_lower_index : let x := { coreX with ready := [{ task := 2, cycle := 4 }, { task := 1, cycle := 4 }] }
    goes (exec (.endTask 0 {}) (fetching x 0 {})) fun t => (t.coreOf 0).running == some 1 &&
      (t.coreOf 0).ready == [{ task := 2, cycle := 4 }] && (t.coreOf 0).pc == 0 := by decide +kernel

theorem witness_CoreScalarsAndDescriptors_CoreScalars : let i : Ins := { dst := 4, srcA := 1, srcB := 2 }
    may coreX 1 i { dst := true, srcA := true, srcB := true } (isS i.dst && isS i.srcA && isS i.srcB) ∧
    may coreX 1 { dst := 0, imm := 5 } { dst := true, imm := 0xFFFFFFFF } (isS (0 : BitVec 5)) ∧
    may coreX 1 { srcA := 1, imm := 3 } { srcA := true, imm := 0xFFFFFFFF } (isS (1 : BitVec 5)) := by
  unfold may MayIssue Fetches; decide +kernel
/-- R53: s0 reads zero and ignores writes. -/
theorem test_s0_stays_zero : goes (exec (.li 0 { dst := 0, imm := 5 }) (fetching coreX 1 { dst := 0, imm := 5 }))
    fun t => (t.coreOf 0).sreg 0 == 0 && (t.coreOf 0).pc == 6 := by decide +kernel
theorem test_scalar_sub_wraps : let i : Ins := { dst := 1, srcA := 2, srcB := 1 }
    goes (exec (.scalarAlu 0 .sub i) (fetching coreX 1 i)) fun t => (t.coreOf 0).sreg 1 == 0xFFFFFFFC := by decide +kernel

theorem witness_CoreScalarsAndDescriptors_CoreDescriptors : let i : Ins := { dst := 2, srcA := 3, imm := 0x20 }; let s := fetching coreX 2 i
    may coreX 2 { dst := 2, imm := 64 } { dst := true, imm := 0xFFFFFFFF } true ∧
    may coreX 2 { dst := 2, srcA := 1 } { dst := true, srcA := true } (isS (1 : BitVec 5)) ∧
    may coreX 2 { dst := 2, imm := 0x1F } { dst := true, imm := 0x1F } true ∧
    may coreX 2 i { dst := true, srcA := true, imm := 0xFFFFFFFF } (isS (3 : BitVec 5)) ∧
    s.hw.tst.injArm = false ∧ ((s.coreOf 0).sreg 3 + 0x20).toNat + 16 ≤ sramSize ∧
    Settled s 0 [(((s.coreOf 0).sreg 3 + 0x20).toNat, 16)] ∧
    may coreX 2 { srcA := 2, srcB := 3, imm := 0x20 } { srcA := true, srcB := true, imm := 0xFFFFFFFF }
      (isS (3 : BitVec 5)) := by unfold may MayIssue Fetches Settled; decide +kernel
theorem witness_CoreScalarsAndDescriptors_CoreDescriptors_top : (0 + BitVec.ofNat 32 (sramSize - 16)).toNat + 16 ≤ sramSize ∧
    may coreX 2 { dst := 31, srcA := 0, imm := BitVec.ofNat 32 (sramSize - 16) }
      { dst := true, srcA := true, imm := 0xFFFFFFFF } (isS (0 : BitVec 5)) := by unfold may MayIssue Fetches; decide +kernel

theorem witness_CoreControl_CoreStandsStill : State.reset.hw.canIssue 0 = false ∧
    (fetching coreX 12 {}).hw.canIssue 0 = true ∧ bits ((fetching coreX 12 {}).coreOf 0).word.toNat 63 60 ≥ 12 ∧
    (fetching coreX 0 { imm := 1 }).hw.canIssue 0 = true ∧ insClean { imm := 1 } {} = false ∧
    bits ((fetching coreX 1 {}).coreOf 0).word.toNat 63 60 < 12 ∧
    ((fetching coreX 1 {}).coreOf 0).word &&& ~~~ opBits ≠ insWord 0 {} := by decide +kernel
theorem witness_CoreControl_CoreStandsStill_fetched : Fetches (fetching coreX 0 { imm := 1 }) 0 0 { imm := 1 } := by
  unfold Fetches; decide +kernel
/-- A FAULTED field's core does not issue (R27). -/
theorem test_faulted_field_does_not_issue : let s := fetching coreX 0 {}
    ({ s.hw with flds := [(0, { state := .faulted })] } : Hw).canIssue 0 = false := by decide +kernel

/-- A word of MMA: the descriptors 2 and 3, 4 rows and 4 columns of 2 elements. -/
def insMma : Ins := { srcA := 2, srcB := 3, imm := BitVec.ofNat 32 (1 * 2 ^ 20 + 3 * 2 ^ 15 + 3 * 2 ^ 10) }
theorem witness_AnvilAndAccumulator_Anvil : let o := mmaOf coreX insMma
    may coreX 3 insMma { tok := true, srcA := true, srcB := true, mod := 0xE, imm := 0xFFFFFFFF } true ∧
    bits ((fetching coreX 3 insMma).coreOf 0).word.toNat 59 54 = 0 ∧
    mmaError ((fetching coreX 3 insMma).coreOf 0) o = none ∧ coreX.anvil.length < 4 ∧ coreX.tokFull o.tok = false ∧
    coreX.accMeets o.ro o.co o.m o.n = false := by unfold may MayIssue Fetches; decide +kernel
theorem witness_AnvilAndAccumulator_Anvil_full : let o := mmaOf coreX insMma; let x := { coreX with anvil := [o, o, o, o] }
    may x 3 insMma { tok := true, srcA := true, srcB := true, mod := 0xE, imm := 0xFFFFFFFF } true ∧
    mmaError x (mmaOf x insMma) = none ∧ x.anvil.length ≥ 4 := by unfold may MayIssue Fetches; decide +kernel
theorem witness_AnvilAndAccumulator_Anvil_complete : let q := mmaOf coreX insMma; let x := { coreX with anvil := [q] }
    x.anvil = q :: [] ∧ x.dead = false ∧ (withCore x).hw.tst.injArm = false ∧ q.ro + q.m ≤ 32 ∧ q.co + q.n ≤ 32 := by
  decide +kernel
theorem witness_AnvilAndAccumulator_Anvil_complete_edge : let q := { mmaOf coreX insMma with ro := 28, co := 28 }
    q.ro + q.m = 32 ∧ q.co + q.n = 32 := by decide +kernel

/-- A word that names region rows 1 to 4, columns 1 to 4 of the accumulator. -/
def insAcc : Ins := { imm := BitVec.ofNat 32 (3 * 2 ^ 15 + 3 * 2 ^ 10 + 2 * 2 ^ 5 + 1) }
theorem witness_AnvilAndAccumulator_Accumulator_queued : let x := coreX; let o := accRegion insAcc .clr 0
    o.ro + o.m ≤ 32 ∧ o.co + o.n ≤ 32 ∧ x.mmaMeets o.ro o.co o.m o.n = false ∧ x.tokFull o.tok = false ∧
    may x 4 insAcc { tok := true, imm := 0xFFFFF } true := by unfold may MayIssue Fetches; decide +kernel
theorem witness_AnvilAndAccumulator_Accumulator_drain : let i : Ins := { insAcc with dst := 3 }; let d := coreX.dreg 3
    let o := accRegion i (.drain false) d
    may coreX 4 i { tok := true, dst := true, mod := 0x1, imm := 0xFFFFF } true ∧ dValid d = true ∧
    dAligned d = true ∧ dFmt d ≤ 4 ∧ dInSram d o.m o.n = true := by unfold may MayIssue Fetches; decide +kernel
theorem witness_AnvilAndAccumulator_Accumulator_load : let i : Ins := { insAcc with srcA := 3 }; let d := coreX.dreg 3
    let o := accRegion i .load d
    may coreX 4 i { tok := true, srcA := true, imm := 0xFFFFF } true ∧ dValid d = true ∧ dFmt d = 0 ∧
    dInSram d o.m o.n = true := by unfold may MayIssue Fetches; decide +kernel
theorem witness_AnvilAndAccumulator_Accumulator_tov : may coreX 4 { dst := 5, imm := 0x21 } { tok := true, dst := true, imm := 0x3FF }
    (isS (5 : BitVec 5)) := by unfold may MayIssue Fetches; decide +kernel
theorem witness_AnvilAndAccumulator_Accumulator_complete : let q k (d : Desc) := accRegion insAcc k d
    ∀ k ∈ [AccKind.clr, .load, .tov, .drain false, .drain true],
      let x := { coreX with accQ := [q k (coreX.dreg 3)] }
      x.accQ = q k (coreX.dreg 3) :: [] ∧ x.dead = false ∧ (q k (coreX.dreg 3)).kind = k ∧
      (q k (coreX.dreg 3)).co + (q k (coreX.dreg 3)).n ≤ 32 := by decide +kernel

/-- A core whose accumulator queue owes vector register 9 and no other. -/
def owing9 : CoreState := { coreX with accQ := [{ accRegion insAcc .tov 0 with m := 1, n := 16, reg := 9 }] }
theorem witness_VectorArithmetic_VectorLanes : let i : Ins := { dst := 4, srcA := 1, srcB := 2, mod := 8 }
    may owing9 5 i useVec (isS i.dst) ∧ may owing9 6 { dst := 4, srcA := 1 } useVec1 (isS (4 : BitVec 5)) ∧
    may owing9 5 { i with imm := 3 } { useVec with imm := 0xF } (isS i.dst) ∧
    (∀ r ∈ [i.dst, i.srcA, i.srcB], owing9.owesV r.toNat = false) ∧ owing9.owesV 9 = true := by
  unfold may MayIssue Fetches; decide +kernel
/-- 1 + 3 = 4 in the lane that the mask admits, lane 8 as it was (R70). -/
theorem test_vec_add : let i : Ins := { dst := 4, srcA := 1, srcB := 2, mod := 8 }
    goes (exec (.vecAdd 0 i) (fetching owing9 5 i)) fun t =>
      (t.coreOf 0).vlane 4 0 == 0x40800000 && (t.coreOf 0).vlane 4 8 == coreX.vlane 4 8 := by decide +kernel
theorem witness_VectorArithmetic_VectorReductions : let i : Ins := { dst := 4, srcA := 1 }
    (∀ r ∈ [i.dst, i.srcA], owing9.owesV r.toNat = false) ∧ may owing9 5 i useVec1 (isS i.dst) ∧ masked i = false ∧
    may owing9 5 { i with mod := 8 } useVec1 (isS i.dst) ∧ (owing9.sreg 15).getLsbD 0 = true ∧
    may owing9 5 { i with srcB := 2 } useVec (isS i.dst) ∧ masked { i with srcB := 2 } = false := by
  unfold may MayIssue Fetches; decide +kernel
theorem witness_VectorArithmetic_VectorReductions_masked : let x := { coreX with sregs := [(15, 2)] }; let i : Ins := { dst := 4, srcA := 1, mod := 8 }
    may x 5 i useVec1 (isS i.dst) ∧ masked i = true ∧ (x.sreg 15).getLsbD 0 = false := by
  unfold may MayIssue Fetches; decide +kernel
/-- 1 + 2 over the lanes 0 and 1, the others 0 (R72). -/
theorem test_hsum : let i : Ins := { dst := 4, srcA := 1 }
    goes (exec (.hsum 0 i) (fetching coreX 5 i)) fun t => (t.coreOf 0).vlane 4 0 == 0x40400000 := by decide +kernel
theorem witness_VectorMemory : let d := coreX.dreg 2; let i : Ins := { dst := 4, srcA := 2 }
    let k : Ins := { dst := 2, srcA := 1 }
    (fetching owing9 7 i).hw.tst.injArm = false ∧ owing9.owesV 4 = false ∧ owing9.owesV 1 = false ∧
    may owing9 7 i useVec (isS i.dst && isS i.srcB) ∧ dValid d = true ∧ isMx (dFmt d) = false ∧ isLq4 (dFmt d) = false ∧
    lineInSram d (coreX.sreg 0) 16 = true ∧ Settled (fetching owing9 7 i) 0 (lineSpans d (coreX.sreg 0) 16) ∧
    may owing9 7 k useVec (isS k.srcB) ∧ dFmt d = 0 ∧ may owing9 8 k { useVec with mod := 0x9 } (isS k.srcB) ∧
    may owing9 8 { k with mod := 1 } { useVec with mod := 0x9 } (isS k.srcB) := by
  unfold may MayIssue Fetches Settled; decide +kernel
/-- A core with an MX matrix in descriptor 7 and an LQ4 one in descriptor 8, whose codebook holds 1 at address 0. -/
def coreBlk : CoreState := { coreX with
  dregs := coreX.dregs ++ [(7, BitVec.ofNat 128 (0x1000 + 64 * 2 ^ 16 + 1 * 2 ^ 32 + 64 * 2 ^ 48 + 5 * 2 ^ 96)),
    (8, BitVec.ofNat 128 (0x1000 + 64 * 2 ^ 16 + 1 * 2 ^ 32 + 64 * 2 ^ 48 + 13 * 2 ^ 96))]
  sram := (0, 0x38) :: coreX.sram }
theorem witness_VectorMemory_block : let d := coreBlk.dreg 7; let i : Ins := { dst := 7, srcA := 2 }
    let p := alongAxis d (coreBlk.sreg 0) 0
    may coreBlk 8 i { useVec with mod := 0x9 } (isS i.srcB) ∧ coreBlk.owesV 2 = false ∧ coreBlk.owesV 3 = false ∧
    dValid d = true ∧ lineInSram d (coreBlk.sreg 0) 32 = true ∧ (isMx (dFmt d) = true ∨ isLq4 (dFmt d) = true) ∧ masked i = false ∧
    posOf d p.1 p.2 % 32 = 0 ∧ scaleAddr d (lineOf d p.1 p.2) (posOf d p.1 p.2) < sramSize := by
  unfold may MayIssue Fetches; decide +kernel
theorem witness_VectorMemory_book : let d := coreBlk.dreg 8; let i : Ins := { dst := 8, srcA := 2, mod := 1 }
    let p := alongAxis d (coreBlk.sreg 0) 0; let line := lineOf d p.1 p.2; let pos := posOf d p.1 p.2
    may coreBlk 8 i { useVec with mod := 0x9 } (isS i.srcB) ∧ isLq4 (dFmt d) = true ∧ dValid d = true ∧
    lineInSram d (coreBlk.sreg 0) 32 = true ∧ pos % 32 = 0 ∧ scaleAddr d line pos < sramSize ∧
    Settled (fetching coreBlk 8 i) 0 [(bookAddr d line pos, 16)] ∧
    (codebook coreBlk d line pos).any (fun v => v.isFinite && !v.isZero) = true := by
  unfold may MayIssue Fetches Settled; decide +kernel

/-! ## Witnesses: fabric, vertical ports, span engines -/

theorem witness_CoreMessages_CoreSends : let i : Ins := { srcA := 6, mod := 1, imm := 0x1204 }; let x := (fetching coreX 9 i).coreOf 0
    let d := x.dreg 6; let w := (nget 0 x.routes (i.imm.toNat % 256)).toNat
    may coreX 9 i { tok := true, srcA := true, mod := 1, imm := 0xFFFF } true ∧ dValid d = true ∧
    dInSram d (dRows d) (dCols d) = true ∧ dRows d * rowBytes d ≤ 4096 ∧ x.tokFull i.tok.toNat = false ∧
    (fetching coreX 9 i).hw.tst.injArm = false ∧ bit w 26 = false ∧ routeDest 0 w = some (77, false) := by
  unfold may MayIssue Fetches; decide +kernel
theorem witness_CoreMessages_CoreSends_channel : let k : Ins := { srcA := 1, srcB := 2, imm := 9 }; let x := (fetching coreX 9 k).coreOf 0
    may coreX 9 k { srcA := true, srcB := true, imm := 0xF } (isS k.srcA && isS k.srcB) ∧
    (x.sreg 1).toNat + (x.sreg 2).toNat ≤ sramSize := by unfold may MayIssue Fetches; decide +kernel

/-- A message for core 0 that stands three places away along x and one along y, all of it in one buffer. -/
def msg0 : FMsg := { dest := 0, destEndpoint := false, waypoint := none, yFirst := false, express := false, channel := 3, source := 77, sourceEndpoint := false, beat := 1, stroke := 1, epoch := 0, kind := 0, payload := [1, 2, 3], waiting := 0, bufs := [{ x := 3, y := 1, port := 4, phase := 1, flits := 2 }] }
/-- It at its destination: in the last buffer, and out of the fabric. -/
def msgNear : FMsg := { msg0 with bufs := [{ x := 0, y := 0, port := 2, phase := 1, flits := 2 }] }
def msgIn : FMsg := { msg0 with bufs := [], ejected := 2, arrived := true }
/-- Two messages in the fabric, and core 0 with `ch` on channel 3. -/
def sFab (m : FMsg) (ch : Chan) : State := let s := withCore { coreX with chans := [(3, ch)] }
  { s with hw := { s.hw with fabric := [msg0, m] } }
theorem witness_FabricHop : let s := sFab msgIn {}; let b : FBuf := { x := 3, y := 1, port := 4, phase := 1, flits := 2 }
    let t : FBuf := { x := 2, y := 1, port := 2, phase := 1, flits := 0 }
    (s.hw.fabric[0]? = some msg0 ∧ msg0.arrived = false ∧ msg0.absorbed = false ∧ msg0.poisoned = false ∧ msg0.waiting = 0 ∧
    msg0.bufs = [b] ∧ 0 < b.flits ∧ msg0.ejected + b.flits = msg0.size ∧ msg0.ready ≤ s.hw.now) ∧
    s.hw.isBehind 0 msg0 b = false ∧ s.hw.tst.injArm = false ∧ msg0.nextBuf b = some t ∧ s.hw.mayEnter 0 msg0 t = true ∧
    b.flits ≤ s.hw.credits (s.hw.fabric.eraseIdx 0) msg0 t := by decide +kernel
/-- A body flit and the head flit with a false check value. -/
theorem witness_FabricHop_noise : ∀ k ∈ [0, 1], let z : FlitNoise := { flit := k, data := 0, crc := 5 }
    msg0.ejected ≤ z.flit ∧ z.flit < msg0.size ∧ z.data = 0 ∧ z.crc ≠ 0 := by decide +kernel
theorem witness_FabricHop_arrives : let s := sFab msgNear {}; let b : FBuf := { x := 0, y := 0, port := 2, phase := 1, flits := 2 }
    s.hw.fabric[1]? = some msgNear ∧ msgNear.bufs = [b] ∧ msgNear.ejected + b.flits = msgNear.size ∧ msgNear.waiting = 0 ∧
    s.hw.isBehind 1 msgNear b = false ∧ s.hw.tst.injArm = false ∧ msgNear.nextBuf b = none ∧
    msgNear.destEndpoint = false := by decide +kernel
theorem witness_FabricHopNearer : ∀ y ∈ [false, true], let m := { msg0 with yFirst := y }
    ∀ b ∈ msg0.bufs, m.nextBuf b ≠ none ∧ (b.x, b.y) ≠ (m.aim b).1 ∧ b.x ≠ (m.aim b).1.1 ∧ b.y ≠ (m.aim b).1.2 ∧
    b.phase = 1 := by decide +kernel
/-- Dimension order takes the x axis first, unless the route entry says y first (R121). -/
theorem test_hop_x_first : (msg0.bufs.map msg0.nextBuf, msg0.bufs.map ({ msg0 with yFirst := true } : FMsg).nextBuf) =
    ([some { x := 2, y := 1, port := 2, phase := 1, flits := 0 }], [some { x := 3, y := 0, port := 1, phase := 1, flits := 0 }]) := by decide +kernel
/-- CRC-16/CCITT-FALSE of the nine characters 123456789 is 0x29B1, its bits here in the order in which R119 takes them. -/
theorem test_crc16_of_flit_polynomial : (([0x31, 0x32, 0x33, 0x34, 0x35, 0x36, 0x37, 0x38, 0x39] : List Nat).flatMap fun b => (List.range 8).reverse.map b.testBit).foldl (fun (r : BitVec 16) b => if r.getLsbD 15 != b then (r <<< 1) ^^^ 0x1021 else r <<< 1) 0xFFFF = 0x29B1 := by decide +kernel

theorem witness_CoreMessages_CoreReceives : let s := sFab msgIn { bound := true, start := 0x40, len := 5, wp := 2, count := 1 }
    let x := s.coreOf 0; let ch := nget {} x.chans 3
    s.hw.arrivedFor 0 = some 1 ∧ s.hw.fabric[1]? = some msgIn ∧ x.dead = false ∧ x.gated = false ∧ x.mapped = true ∧
    s.hw.tst.injArm = false ∧ msgIn.poisoned = false ∧
    ch.bound = true ∧ ch.wp + msgIn.payload.length = ch.len ∧ ch.start + ch.wp + msgIn.payload.length ≤ sramSize ∧
    x.arrivalTasks 3 (ch.count + 1) = [] ∧ x.running.isSome = true := by decide +kernel
/-- An idle core whose task 2 waits for two messages of channel 3. -/
def sArrival : State :=
  let s := sFab msgIn {}
  { s with hw := { s.hw with cores := [(0, { coreX with chans := [(3, { bound := true, start := 0x40, len := 5, count := 1 })], running := none, tasks := [0x203, 0xA00, 0x23609] })] } }
theorem witness_CoreMessages_CoreReceives_triggers : let x := sArrival.coreOf 0
    sArrival.hw.arrivedFor 0 = some 1 ∧ x.mapped = true ∧ x.arrivalTasks 3 2 = [2] ∧ x.running = none ∧ x.ready = [] := by
  decide +kernel
theorem test_arrival_task_starts : goes (exec (.coreMessageArrival 0) sArrival) fun t =>
    (t.coreOf 0).running == some 2 && (t.coreOf 0).pc == 9 && (nget {} (t.coreOf 0).chans 3).count == 0 &&
    nget 0 (t.coreOf 0).sram 0x42 == 3 := by decide +kernel
theorem witness_CoreMessages_CoreReceives_poisoned : let m := { msgIn with poisoned := true }; let s := sFab m {}
    s.hw.arrivedFor 0 = some 1 ∧ s.hw.fabric[1]? = some m ∧ (s.coreOf 0).dead = false ∧ (s.coreOf 0).gated = false ∧
    (s.coreOf 0).mapped = true := by decide +kernel
theorem witness_CoreMessages_CoreReceives_too_long : let s := sFab msgIn { bound := true, start := 0x40, len := 4, wp := 2, count := 1 }
    let ch := nget {} (s.coreOf 0).chans 3
    s.hw.arrivedFor 0 = some 1 ∧ (s.coreOf 0).mapped = true ∧ msgIn.poisoned = false ∧ ch.wp + msgIn.payload.length > ch.len := by
  decide +kernel
theorem witness_CoreMessages_CoreReceives_unbound : let s := sFab msgIn {}
    s.hw.arrivedFor 0 = some 1 ∧ msgIn.poisoned = false ∧ (nget {} (s.coreOf 0).chans 3 : Chan).bound = false := by
  decide +kernel

theorem witness_BondedMemoryAccess_BondedIssue : let i : Ins := { tok := 2, srcA := 6, srcB := 1 }; let x := (fetching coreX 10 i).coreOf 0
    let d := x.dreg 6
    may coreX 10 i { tok := true, srcA := true, srcB := true } (isS i.srcB) ∧ dValid d = true ∧
    dInSram d (dRows d) (dCols d) = true ∧ x.tokFull i.tok.toNat = false := by unfold may MayIssue Fetches; decide +kernel
/-- A transfer of one line at the head of the queue of core 0, its line moved. -/
def port0 : PortOp := { store := false, desc := coreX.dreg 6, wafer := false, line := 7, stroke := 5, beat := 1, reread := false, tok := 2 }
def sPort (o : PortOp) : State := let s := withCore { coreX with portQ := [o], toks := [(2, 1)], portMoved := 1 }
  { s with hw := { s.hw with mem := [(448, 9), (449, 8)] } }
theorem witness_BondedMemoryAccess_BondedTransfers : ∀ o ∈ [port0, { port0 with store := true }], let s := sPort o; let x := s.coreOf 0
    x.portQ = o :: [] ∧ s.hw.tst.injArm = false ∧ x.stopped = false ∧ x.dead = false ∧ o.reread = false ∧
    s.hw.portReady 0 o = true ∧ s.hw.uncommittedBeat (o.stroke, o.beat) = false ∧ lineCount o.desc = 1 ∧
    s.hw.bondedAt 0 0 (o.lineAt 0 * 64) < migBase ∧ s.hw.bondedAt 0 0 (o.lineAt 0 * 64) = 448 := by decide +kernel
theorem witness_BondedMemoryAccess_BondedTransfers_reread : let o := { port0 with reread := true }; let s := sPort o
    (s.coreOf 0).portQ = o :: [] ∧ o.reread = true ∧ o.store = false ∧ s.hw.cores = [(0, s.coreOf 0)] ∧
    coreField 0 = 0 ∧ o.takes o.wafer (7 : BitVec 29).toNat = true := by decide +kernel
/-- The line's own bytes pass its check; one with a bit flipped does not, whatever the descriptor takes of it. -/
theorem witness_BondedMemoryAccess_BondedTransfers_check : let s := (sPort port0).hw; let z : LineNoise := { data := 0, code := 0, address := 0 }
    (s.lineSeen 0 0 7 z).2 = true ∧ (s.lineSeen 0 0 7 { z with data := 1 }).2 = false ∧ (s.lineSeen 0 0 7 { z with code := 1 }).2 = false ∧
    (s.lineSeen 0 0 7 { z with address := 1 }).2 = false ∧ port0.takes false 7 = true ∧ s.lineLost 0 0 7 = false ∧
    (s.lineSeen 0 0 8 { z with address := 15, data := 1 }).1.head? = some 8 := by decide +kernel

/-- A span command block at 0x80 of the SRAM of core 0, before the SPN that hands it over. -/
def spnIns : Ins := { tok := 1, srcB := 1 }
def spnCore (addr loc size op : Nat) : CoreState := { coreX with
  sregs := [(1, 0x80)]
  sram := nputList 0 [] 0x80 (leBytes 8 addr ++ leBytes 2 loc ++ leBytes 2 (size - 1) ++ leBytes 1 op ++ List.replicate 19 0) }
theorem witness_SpanIssue : ∀ p ∈ [(spnCore (0xFFFF * 2 ^ 48 + 0x1000) 0x200 32 1, false), (spnCore 0x1000 0x200 32 12, true)],
    let s := fetching p.1 10 spnIns; let x := s.coreOf 0; let i := spnIns; let a := (x.sreg i.srcB.toNat).toNat
    let g := s.hw.spanEng (engineOf 0); let r := parseBlock x 0 g.nextOrder i.tok.toNat a s.hw.stk.workStroke s.hw.stk.beat
    may p.1 10 i { tok := true, srcB := true } (isS i.srcB) ∧ a + 32 ≤ sramSize ∧
    x.tokFull i.tok.toNat = false ∧ g.reqs.length + g.fences.length < 576 ∧ s.hw.tst.injArm = false ∧
    badRequest r.op r.address r.localAddr r.size = p.2 := by unfold may MayIssue Fetches; decide +kernel
/-- A flag store to the direct window, taken and waiting in the engine of core 0 behind a load that has still to leave. -/
def flagReq : SpanReq := { core := 0, order := 0, tok := 1, cmdAddr := 0x80, op := 1, flag := true, address := 0xFFFF * 2 ^ 48 + 0x1000, localAddr := 0x200, size := 32, operand := 0, compare := 0, data := leBytes 32 0x123456789, stroke := 4, beat := 0, taken := true }
def sFlag : State := let s := withCore (spnCore 0 0 32 1)
  { s with hw := { s.hw with spn := { engines := [(engineOf 0, { reqs := [flagReq, { flagReq with order := 1, core := 3, op := 0, flag := false, taken := false }], nextOrder := 3 })] } } }
theorem witness_SpanIssue_release : let q := flagReq; let g := sFlag.hw.spanEng (engineOf 0)
    q ∈ g.reqs ∧ q.core = 0 ∧ q.taken = true ∧ q.left = false ∧ q.op = 1 ∧ q.flag = true ∧
    (∀ r ∈ g.reqs, r.order = q.order → r = q) ∧ (∀ r ∈ g.reqs, r ≠ q → r.taken = false ∨ r.left = true) ∧
    sFlag.hw.mustWait g q true = false ∧ sFlag.hw.spn.deadLoans = [] ∧
    sFlag.hw.ownRank (addrRank q.address) = true ∧ sFlag.hw.loanAddr (addrOff q.address) = none ∧
    sFlag.hw.spanStatus sFlag.hw.spn.rank.toNat (addrOff q.address) q.data.length = 0 ∧
    (∀ f ∈ g.fences, q.order ∉ f.covers ∧ f.covers ≠ []) := by decide +kernel
/-- The flag's bytes stand in memory and the block's status byte is 0 (R311, R312). -/
theorem test_flag_store_is_written : goes (exec (.flagStoreRelease 0) sFlag) fun t =>
    nget 0 t.hw.mem 0x1000 == 0x89 && nget 0 t.hw.mem 0x1004 == 1 && (t.hw.spanEng (engineOf 0)).reqs.length == 1 &&
    nget 0 (t.coreOf 0).toks 1 == 0 := by decide +kernel

/-! ## Witnesses: heartbeats, reports, arbiters, test registers -/

def sBeat (dead : Bool) : State := { sRun with hw := { sRun.hw with cores := [(0, { coreX with missed := [(1, 1)] }), (1, { coreX with dead := dead, missed := [(0, 2)] })], now := 77, flds := [(0, { state := .ready, coreOn := true })] } }
theorem witness_HeartbeatsAndCoreDeath_Heartbeats : (sBeat false).hw.beats 0 = true ∧ ((sBeat false).coreOf 0).dead = false ∧
    ((sBeat false).coreOf 0).errSym = false ∧ 1 ∈ neighbours 0 ∧ (sBeat false).hw.beats 1 = true ∧
    ((sBeat false).hw.core 1).dead = false := by decide +kernel
theorem witness_HeartbeatsAndCoreDeath_Heartbeats_dead : (sBeat true).hw.beats 0 = true ∧ ((sBeat true).coreOf 0).dead = false ∧
    (sBeat true).hw.beats 1 = true ∧ ((sBeat true).hw.core 1).dead = true := by decide +kernel
theorem witness_HeartbeatsAndCoreDeath_CoreDeath : let s : State := { hw := { glb := { gweku := true }, cores := [(0, { missed := [(1, 3)], mapped := true })], flt := { ringBase := 0x1000 }, flds := [(0, { state := .ready, coreOn := true })] } }
    s.hw.live = false ∧ s.hw.mayReport 0 1 = true ∧ 1 ∉ s.hw.flt.declared ∧ coreOk 1 = true := by decide +kernel
def sFlt (starts : Nat) : State := { sRun with hw := { sRun.hw with flt := { ringBase := 0x1000, starts := starts } } }
theorem witness_FaultReports : let s := sFlt 3
    s.hw.live = true ∧ s.hw.flt.stopAll = false ∧ s.hw.flt.recovery = none ∧ s.hw.flt.starts < 4 ∧ coreOk 0 = true ∧
    (s.hw.stk.workStroke, s.hw.stk.beat, 0) ∉ s.hw.flt.seenSym ∧
    (∀ x ∈ s.hw.flt.seenPort, (x.1, x.2.1) ≠ s.hw.curBeat) ∧ s.hw.stk.beat < 4096 ∧
    s.hw.stk.workStroke % 4 = (1 : BitVec 2).toNat ∧ s.hw.lineReader 0 0 5 = s.hw.curBeat ∧
    (s.hw.curBeat.1, s.hw.curBeat.2, lineKey 0 0 5) ∉ s.hw.flt.badLines := by decide +kernel
theorem witness_FaultReports_fourth : let s := sFlt 4
    s.hw.live = true ∧ s.hw.flt.stopAll = false ∧ s.hw.flt.recovery = none ∧ s.hw.flt.starts ≥ 4 ∧
    (s.hw.stk.workStroke, s.hw.stk.beat, 0) ∉ s.hw.flt.seenSym := by decide +kernel

def sArb (a : Arb) : State := { sFlt 0 with hw := ((sFlt 0).hw.setArb (arbKey 0 0 3) a).setFld 0 { selInst := 3, selSlot := 255, selAutoinc := true, selInput := 2, wdogLimit := 1 } }
/-- One request; fixed precedence; and slots in whose second period, the next to begin, input 2 owns (cycle 6 of 8). -/
theorem witness_ArbiterGrants : ∀ p ∈ [(({ reqs := [(5, { count := 4 })] } : Arb), 0), ({ fixed := true, reqs := [(2, { count := 4 }), (5, { count := 1 })] }, 0), ({ slots := [2, 5], reqs := [(2, { count := 1 }), (5, { count := 4 })] }, 13)],
    let s := sArb p.1; let s := { s with hw := { s.hw with now := p.2 } }; let a := s.hw.arb (arbKey 0 0 3)
    let d := s.hw.arbCycle 0 s.hw.now
    arbExists 0 0 3 = true ∧ a = p.1 ∧ a.tenures = [] ∧ 5 ∈ a.reqs.map (·.1) ∧
    ((a.fixed = true ∧ ∀ e ∈ a.reqs, e.1 ≤ 5) ∨ (∀ e ∈ a.reqs, e.1 = 5) ∨
      (a.fixed = false ∧ (d + 2) % arbPeriod 0 = 0 ∧ a.owner ((d + 2) / arbPeriod 0) = some 5)) := by decide +kernel
theorem test_owner_of_next_period_wins : let s := sArb { slots := [2, 5], reqs := [(2, { count := 1 }), (5, { count := 4 })] }
    goes (exec (.arbDecision 0 0 3) { s with hw := { s.hw with now := 13 } }) fun t =>
      (t.hw.arb (arbKey 0 0 3)).tenures == [{ input := 5, start := 8 * 250 }] &&
      nget 0 (t.hw.arb (arbKey 0 0 3)).grants 5 == 1 := by decide +kernel
theorem witness_ArbiterWatch_starve : let r : ArbReq := { count := 4, waited := 10 }; let a : Arb := { reqs := [(5, r)], thresh := [(5, 9)] }
    (sArb a).hw.arb (arbKey 0 0 3) = a ∧ a.reqs.find? (fun e => decide (e.1 = (5 : BitVec 7).toNat)) = some (5, r) ∧
    r.flagged = false ∧ nget 0 a.thresh 5 ≠ 0 ∧ r.waited > nget 0 a.thresh 5 := by decide +kernel
theorem witness_ArbiterWatch_watchdog : let u : Tenure := { input := 127, start := 0 }
    let s := sArb { reqs := [(5, { count := 4 })], tenures := [u] }
    let s := { s with hw := { s.hw with now := 256 } }; let a := s.hw.arb (arbKey 0 0 3)
    a.holderAt (s.hw.now * 125) = some u ∧ u.input = 127 ∧ a.lastMove + (s.hw.fld 0).wdogLimit.toNat * 256 ≤ s.hw.now ∧
    (s.hw.stk.workStroke, s.hw.stk.beat, arbKey 0 0 3, 127) ∉ s.hw.flt.seenHolder ∧ s.hw.live = true ∧
    s.hw.flt.stopAll = false ∧ s.hw.flt.recovery = none ∧ s.hw.flt.starts < 4 := by decide +kernel
theorem witness_SlotTablesAndTestBlock_SlotTables : let s := sArb {}
    s.hw.barOpen = true ∧ s.hw.selArb 0 = some (arbKey 0 0 3) ∧ s.hw.selOk 0 = true ∧ (s.hw.fld 0).selAutoinc = true := by
  decide +kernel
/-- The selected slot steps modulo 256 (R141). -/
theorem test_slot_steps_round : goes (exec (.fldArbSlotAccess 0 (some 5)) (sArb {})) fun t =>
    (t.hw.fld 0).selSlot == 0 && nget (0xFF : Byte) (t.hw.arb (arbKey 0 0 3)).shadow 255 == 5 := by decide +kernel
theorem witness_SlotTablesAndTestBlock_TestRegisters : sRun.hw.barOpen = true ∧ sRun.hw.tst.unlocked = false ∧ (5 : W32) ≠ 0x7E570A11 ∧
    (5 : W32) ≠ 0x11A0757E ∧ (0x8000000000800003 : W64).getLsbD 63 = true ∧
    goes (exec (.tstUnlock 0x11A0757E) { sRun with hw := { sRun.hw with tst := { armedKey := true } } })
      (fun t => t.hw.tst.unlocked && t.hw.barOpen) = true := by decide +kernel

/-! ## Witnesses: herders and the key-value cache -/

def layer1 : Layer := {
  layer := 1, k := 1, e := 2, score := 0, normalise := false, biasMode := false, autoBias := false, logitFormat := 0, stash := false
  g := 1, t := 1, terms := 1, routeScale := 0x3F800000, capShare := 0xFFFF, overflow := 0, nextDepth := 0, shared := 0
  spillCap := 0, defer := false, capture := false, subDepth := 0, maxDefer := 0, tokenChannel := 2, expertChannel := 3
  deferSlots := 0, pfMax := 0, pfThreshold := 0, routeBeat := 1, biasStep := 0, biasLimit := 0, tableOff := 0x1000
  succOff := 0, stashOff := 0, reservedZero := true }
def herderSec (l : Layer) : HerderSec := {
  layers := [l], flags := [], flagCount := 2, layerCount := 1, extMax := 0, stagingOff := 0x10000, stagingSlots := 4, tokenCap := 8
  tokenOff := 0x400000, waypoints := [], inside := true }
def beatOf (post : Bool) (intake : Bool) : Beat := { worst := 10, post := post, intake := intake, reserve := false, length := 8 }
def billet0 : Billet := {
  stroke := {
    period := 1000, bare := false, intakeCap := 4, intakeChannel := 1, coreCount := 1, intakeCores := [9]
    beats := [beatOf false true, beatOf true false, beatOf false false, beatOf false false] }
  core := { imageCount := 0, map := [], images := [], alts := [], inside := true }
  fabric := { routeSets := [], detours := [], fieldDetour := [], inside := true }
  arbiter := none, herder := none, kv := none, backward := none, reduction := none, weight := none
  tongs := { plan := [], pools := [], resOff := 0, homeOff := 0, homePages := 0, inside := true }
  recovery := none, thermal := none }
def loadedOf (b : Billet) : Loaded := { addr := 0, length := 0, activation := 0, digest := [], img := b }
/-- A module whose field 0 herds token 3 of layer `l`. -/
def sHerd (l : Layer) (x : Herder) : State := { sRun with hw := { sRun.hw with
  running := some (loadedOf { billet0 with herder := some (herderSec l) })
  flt := { ringBase := 0x2000000000 }
  mem := nputList 0 [] (bonded 0 0 (0x400000 + 5 % 2 * 2 ^ 22 + 32 * 3)) (leBytes 8 77 ++ leBytes 8 9 ++ leBytes 2 1 ++ leBytes 1 0 ++ leBytes 1 0 ++ leBytes 4 0 ++ leBytes 4 123 ++ leBytes 4 0)
  herders := nput {} [] 0 x } }
def logits1 : LogitsMsg := { token := 3, layer := 1, first := 0, format := 0, values := [0x3F800000] }
theorem witness_HerderLogits : ((sHerd layer1 {}).hw.logitsError 0 { logits1 with token := 4 }).1 = some 2 ∧
    (((sHerd layer1 {}).hw.logitsError 0 logits1).1 = none ∧
      ((sHerd layer1 {}).hw.logitsError 0 logits1).2.map (fun p => (p.1, p.2.token)) = some (layer1, 3)) ∧
    (sHerd layer1 {}).hw.herderSec = some (herderSec layer1) := by decide +kernel
/-- Its score is entered as FP32; the layer of two experts waits for the other one. -/
theorem test_logits_wait_for_all_experts : goes (exec (.logits 0 logits1) (sHerd layer1 {})) fun t =>
    ((t.hw.herder 0).logits.map fun e => e.2) == [[(0, 0x3F800000)]] && (t.hw.herder 0).scored.isEmpty := by decide +kernel
def scored1 : Scored := { ranked := [(1, 0x40000000), (0, 0x3F800000)], gates := [0x3F800000], margin12 := 0, marginK := 0, nanLogit := false }
def herd1 : Herder := { scored := [(lt 1 3, scored1)], remap := [(123, 55)] }
def layerD : Layer := { layer1 with defer := true, maxDefer := 2, deferSlots := 1 }
/-- What the settle of token 3 shows, and whether it must be deferred. -/
def settles (l : Layer) (deferred : Bool) : Bool := let s : State := { sHerd l herd1 with hw := (sHerd l herd1).hw.loadTables 0 (herderSec l) l }
  match s.hw.nextToken 0 (herderSec l) l with
  | some (t, false) => t.scored == some scored1 && t.excess == false && s.hw.mustDefer 0 l scored1 t.defers == deferred
  | _ => false
theorem witness_HerderSettling_HerderSettles : (sHerd layer1 herd1).hw.herderSec = some (herderSec layer1) ∧
    (herderSec layer1).layerOf 1 = some layer1 ∧ settles layer1 false = true := by decide +kernel
theorem witness_HerderSettling_HerderSettles_defer : (sHerd layerD herd1).hw.herderSec = some (herderSec layerD) ∧
    (herderSec layerD).layerOf 1 = some layerD ∧ settles layerD true = true := by decide +kernel
theorem witness_HerderSettling_HerderLayers_close : let s := sHerd layer1 { herd1 with settled := [lt 1 3] }
    1 ∉ (s.hw.herder 0).closed ∧ (s.hw.nextToken 0 (herderSec layer1) layer1).isNone = true := by decide +kernel
theorem witness_HerderSettling_HerderLayers_closed : 1 ∈ ((sHerd layer1 { herd1 with closed := [1] }).hw.herder 0).closed := by decide +kernel
theorem witness_HerderSettling_HerderLayers_flag : let s := sHerd layer1 herd1
    (s.hw.openTokens 0 (herderSec layer1) 1 3).length = 1 ∧ s.hw.herderSec = some (herderSec layer1) ∧ (s.hw.herder 0).evaluated = false ∧
    [(5 : W32), 6].length = (maskBits 16 (3 : W16).toNat).length ∧ (∀ i ∈ maskBits 16 (3 : W16).toNat, i < 2) ∧
    s.hw.barOpen = true := by decide +kernel
def job7 : SortJob := { source := 7, src := 0x10000, dst := 0x10000, scratch := 0x20000, count := 3, signed := true, descending := true, channel := 4, tag := 99 }
def job7Msg : SortJobMsg := { src := 0x10000, dst := 0x10000, scratch := 0x20000, count := 3, flags := 0x43, tag := 99 }
theorem witness_SortJobs : let m := job7Msg
    job7 = { source := (7 : CoreId).toNat, src := m.src.toNat, dst := m.dst.toNat, scratch := m.scratch.toNat, count := m.count.toNat, signed := m.flags.getLsbD 0, descending := m.flags.getLsbD 1, channel := bits m.flags.toNat 7 4, tag := m.tag } ∧
    sortValid job7 = true ∧ sortValid { job7 with count := 0 } = false ∧
    ((sHerd layer1 herd1).hw.herder 0).sortQ = [] ∧
    ((sHerd layer1 { herd1 with sortQ := [job7] }).hw.herder 0).sortQ ≠ [] := by decide +kernel
theorem witness_SortJobs_full : let s := sHerd layer1 { herd1 with sortQ := [job7, job7, job7, job7] }
    (s.hw.herder 0).sortQ.length ≥ 4 ∧ (s.hw.herder 0).sortQ = job7 :: [job7, job7, job7] ∧ s.hw.barOpen = true := by
  decide +kernel
/-- Signed keys, descending: 1 before -1, equal keys in their order (R177). -/
theorem test_sort_signed_descending : sortEntries job7 [(0xFFFFFFFFFFFFFFFF, 1), (1, 2), (1, 3)] = [(1, 2), (1, 3), (0xFFFFFFFFFFFFFFFF, 1)] := by
  decide +kernel

def kvSec : KvSec := { a := 1, kvHeads := 1, group := 1, headDim := 64, kFmt := 0, vFmt := 0, pFmt := 0, frames := 1, parts := 1, placement := 0, members := 1, member := 0, stride := 1, scale := 0, seqTokens := 16, walkBeat := 0, maxLen := 256, itemsCap := 4, layers := [], slices := [], coreLists := [], ranks := [], lenOff := 0, workOff := 0, inside := true }
/-- A module with sequence 3 in state `st` with flags `fl`. -/
def sKv (st fl : Byte) (f : Kv → Kv) : State := { sRun with hw := { sRun.hw with
  kv := f { sec := some kvSec, seqBase := 0x10000 }
  mem := nputList 0 [] (0x10000 + 64 * 3) ([st, 0, 0, fl, 0, 0, 9, 0, 5] ++ List.replicate 3 0 ++ leBytes 4 256 ++ List.replicate 48 0)
  flt := { ringBase := 0x2000000000 } } }
def kvOpOf (k : KvOpKind) : KvOp := { seq := 3, kind := k, value := 7, stroke := 0 }
theorem witness_KvAndPrefixQueue_KvQueue : (sKv 1 0 id).hw.barOpen = true ∧ (sKv 1 0 id).hw.kv.opQueue.length < 256 ∧
    (sKv 1 0 fun k => { k with opQueue := List.replicate 256 (kvOpOf .edit) }).hw.kv.opQueue.length ≥ 256 := by decide +kernel
theorem witness_KvSequences_KvOperations : (sKv 1 0 id).hw.seqState 3 = 1 ∧ (sKv 2 0 id).hw.seqState 3 = 2 ∧
    (sKv 1 0 id).hw.seqFlag 3 0 = false ∧ (sKv 1 0 id).hw.seqFlag 3 2 = false ∧ (sKv 1 1 id).hw.seqFlag 3 0 = true ∧
    (sKv 1 0 id).hw.seqState 3 ≠ 0 ∧ (sKv 0 0 id).hw.seqState 3 = 0 ∧ (sKv 0 0 id).hw.seqFlag 3 0 = false := by decide +kernel
theorem witness_KvSequences_KvSequenceEnds : (sKv 4 0 fun k => { k with live := [3, 4] }).hw.seqState 3 = 4 ∧
    (sKv 1 4 id).hw.seqFlag 3 2 = true ∧ (sKv 1 0 id).hw.kv.sec = some kvSec := by decide +kernel
theorem witness_KvSequences_KvSequenceEnds_commit :
    let s := sKv 1 2 fun k => { k with commits := [{ seq := 3, prepared := false, added := [], removed := [] }] }
    (∃ c ∈ s.hw.kv.commits, c.seq = 3 ∧ c.prepared = false) ∧ (∀ c ∈ s.hw.kv.commits, c.seq = 3 → c.added = []) ∧
    s.hw.changed kvSec 3 = [] := by decide +kernel
def pfxOp : PfxOp := { insert := false, seq := 1, count := 1, matched := 0, full := false }
theorem witness_KvAndPrefixQueue_PrefixOps : let s := sKv 1 1 fun k => { k with pfxEnable := true }
    s.hw.barOpen = true ∧ s.hw.kv.pfxBusy = none ∧ s.hw.kv.pfxEnable = true ∧ s.hw.seqFlag 3 0 = true ∧
    s.hw.seqState 3 ≠ 0 ∧ (sKv 1 1 id).hw.kv.pfxEnable = false ∧
    (sKv 1 1 fun k => { k with pfxBusy := some pfxOp }).hw.kv.pfxBusy = some pfxOp := by decide +kernel

/-! ## Witnesses: weights, steps, reduction -/

def wgtSec : WgtSec := { tensorCount := 1, tensors := [], tiles := [], adapterTensors := 1, ctxOff := 0x3000000, dtOff := 0x4000000, dtSize := 0x1000, trainMask := 0, bindOff := 0x5000000, fills := [], inside := true, reservedZero := true }
/-- The first 512 B of a package, with the magic and version that R260 asks for. -/
def manifest512 : List Byte := leBytes 4 0x4B544852 ++ leBytes 4 1 ++ List.replicate 504 0
def slotCur : CtxSlot := { state := .current, epoch := 5, adapters := [{ number := 4, packageId := [], root := [], source := 0, images := [], table := { tensor := 0, first := 0, count := 0 } }] }
def ctx2 : Ctx := { slots := [(0, slotCur), (1, { state := .prepared, epoch := 6 })], current := some 0, nextEpoch := 7 }
def bwdSec : BwdSec := { arrangement := 1, fp16 := false, stochastic := false, segCount := 1, slotCount := 4, stepOff := 0x6000000, maskOff := 0x7000000, slotOff := 0x8000000, products := [], maskInit := [], reservedZero := true, inside := true }
/-- A running billet `b`, context 2 with a CURRENT and a PREPARED slot, the bytes `m` in page 0, which is at home in own flash. -/
def sWgtAt (m : List Byte) (b : Billet) (f : Wgt → Wgt) : State := { hw := {
  glb := { gweku := true }, mbx := { state := .idle, version := 1 }, stk := { state := .running, num := 9 }
  running := some (loadedOf b), wgt := f { sec := some wgtSec, ctxs := [(2, ctx2)] }, mem := nputList 0 [] migBase m
  tng := { homes := [(0, { state := .home, tier := 2 })] } } }
def sWgt : Billet → (Wgt → Wgt) → State := sWgtAt manifest512
def wgtBillet : Billet := { billet0 with weight := some wgtSec }
def sWg : State := sWgt wgtBillet id
def pkgAddr : W64 := BitVec.ofNat 64 (0xFFFF * 2 ^ 48 + migBase)
theorem witness_WeightLoading_WeightLoads : MailboxReady sWg ∧ sWg.hw.freeCtxSlot 2 = some 2 ∧ (parseManifest manifest512).versionOk = true ∧ sWg.hw.loadRefusal 2 0 0 = none ∧
    sWg.hw.loadRefusal 2 1 9 = none ∧ sWg.hw.loadRefusal 2 2 4 = none ∧
    (sWg.hw.ctx 2).current ≠ some 2 := by unfold MailboxReady; decide +kernel
theorem sWgt_read (b : Billet) (f : Wgt → Wgt) (m : List Byte) : (sWgtAt m b f).hw.memRead (addrOff pkgAddr.toNat) m.length = m :=
  ngetList_nputList 0 [] migBase m
theorem manifest512_length : manifest512.length = 512 := by decide +kernel
theorem witness_WeightLoading_WeightLoads_source : let h := sWg.hw; let off := addrOff pkgAddr.toNat
    h.ownRank (addrRank pkgAddr.toNat) = true ∧ migBase ≤ off ∧ off % pageBytes + 512 ≤ pageBytes ∧
    (h.home (pageOf off)).state = .home ∧ (h.home (pageOf off)).tier = 2 ∧ (h.home (pageOf off)).lent = false := by decide +kernel
theorem witness_WeightLoading_WeightLoads_read : (sWg.hw.readSpan pkgAddr.toNat 512).2 = (manifest512, 0) := by
  have h := sWgt_read wgtBillet id manifest512
  rw [manifest512_length] at h
  rw [readSpan_one_part _ _ _ (by decide +kernel) (by decide +kernel) (by decide +kernel)]
  exact congrArg (·, 0) h
def loadJob : WLoad := { context := 2, op := 2, adapter := 4, source := 0, slot := 2 }
theorem witness_WeightLoadEnds : let s := { sWg with hw := { sWg.hw with mbx := { sWg.hw.mbx with state := .busy, long := some (.loadWeights loadJob) } } }
    s.hw.mbx.long = some (.loadWeights loadJob) ∧ s.hw.wgt.sec = some wgtSec ∧ loadJob.op = 2 := by decide +kernel
/-- DROP_ADAPTER's end leaves the slot PREPARED, without the adapter. -/
theorem test_drop_adapter : goes (exec (.dropAdapter 1 2 4) sWg) fun t => (t.hw.slot 2 2).adapters.isEmpty &&
    goes (exec .loadWeightsEnd t) fun u => decide ((u.hw.slot 2 2).state = .prepared) && (u.hw.slot 2 2).epoch == 7 &&
      decide (u.hw.mbx.state = .idle) := by decide +kernel
theorem witness_WeightLoading_WeightEpochs : MailboxReady sWg ∧ (sWg.hw.slot 2 1).state = .prepared ∧ (sWg.hw.slot 2 0).state ≠ .prepared ∧
    (∀ k ∈ [0, 1], let ps := [2, BitVec.ofNat 8 k] ++ List.replicate 6 0 ++ leBytes 8 44
      paramsOk ps 16 [(2, 6)] = true ∧ at' ps 0 1 = 2 ∧ at' ps 1 1 = k) ∧
    paramsOk ([2, 1] ++ List.replicate 6 0) 8 [(2, 6)] = true := by unfold MailboxReady; decide +kernel
def sStream (f : Wgt → Wgt) : State := sWgt { wgtBillet with backward := some bwdSec } f
def sFill (x : Wslot) : State := sStream fun w => { w with wslots := [(1, x)], ctxs := [(2, { ctx2 with slots := [(1, { state := .prepared, epoch := 6, leaves := [[1]], bodyLen := 5000 })] })] }
def filling : Wslot := { state := .filling, fillSeq := 9, session := some (2, 1), epoch := 6, failures := 2 }
theorem witness_StreamedWeights_WeightFills : (sStream id).hw.streamed = true ∧ (sStream id).hw.wgtSec = some wgtSec ∧
    (sStream id).hw.wgt.sessions = [] ∧ (sStream id).hw.freeCtxSlot 2 = some 2 ∧ (48 : PortIx).val ≥ 48 := by decide +kernel
/-- A session under way. -/
def sess0 : Session := { context := 2, id := 6, bytes := [], slot := 2 }
def sSess : State := sStream fun w => { w with sessions := [sess0] }
theorem witness_StreamedWeights_WeightFills_later : sSess.hw.streamed = true ∧ sSess.hw.wgtSec = some wgtSec ∧
    sSess.hw.wgt.sessions.find? (fun z => decide (z.context = (2 : BitVec 6).toNat) && decide (z.id = (6 : W32).toNat)) = some sess0 := by
  decide +kernel
theorem witness_StreamedWeights_WeightFills_chunk : let s := sFill filling; let x := s.hw.wslot 1
    x.session = some (2, 1) ∧ x.state = .filling ∧ x.fillSeq = 9 ∧ 0 < (s.hw.slot 2 1).leaves.length ∧
    nget none x.verified 0 = none ∧ x.filled = false ∧ x.failures = 2 ∧
    wholeChunk (nput none (nget [] x.pieces 0) 1 (some [7, 8])) (chunkLen (s.hw.slot 2 1).bodyLen 0) = none := by decide +kernel
/-- A slot whose first chunk of three bytes has the leaf `leaf`. -/
def sLeaf (leaf : List Byte) : State := sStream fun w => { w with wslots := [(1, filling)], ctxs := [(2, { ctx2 with slots := [(1, { state := .prepared, epoch := 6, leaves := [leaf], bodyLen := 3 })] })] }
theorem witness_StreamedWeights_WeightFills_whole (leaf : List Byte) : let s := sLeaf leaf; let x := s.hw.wslot 1
    x.session = some (2, 1) ∧ x.state = .filling ∧ x.fillSeq = 9 ∧ 0 < (s.hw.slot 2 1).leaves.length ∧ nget none x.verified 0 = none ∧
    wholeChunk (nput none (nget [] x.pieces 0) 0 (some [7, 8, 9])) (chunkLen (s.hw.slot 2 1).bodyLen 0) = some [7, 8, 9] ∧
    (s.hw.slot 2 1).leaves.getD 0 [] = leaf := ⟨rfl, rfl, rfl, by simp [sLeaf, sStream, sWgt, sWgtAt, Hw.slot, Hw.ctx, nget, ctx2], rfl,
      by show wholeChunk (nput none [] 0 (some [7, 8, 9])) (chunkLen 3 0) = some [7, 8, 9]; decide +kernel, rfl⟩
theorem witness_StreamedWeights_WeightFills_good_leaf : leafHash 0 [7, 8, 9] = ((sLeaf (leafHash 0 [7, 8, 9])).hw.slot 2 1).leaves.getD 0 [] := rfl
theorem witness_StreamedWeights_WeightFills_bad_leaf : leafHash 0 [7, 8, 9] ≠ ((sLeaf []).hw.slot 2 1).leaves.getD 0 [] := by decide +kernel

theorem witness_StepsAndGradients_StepRegisters : sWg.hw.barOpen = true ∧ sWg.hw.bwd.queue.length < 4 ∧
    ({ sWg.hw.bwd with queue := [(true, 1), (false, 2), (true, 3), (false, 4)] } : Bwd).queue.length ≥ 4 ∧
    (BitVec.ofNat 8 (bits 0x14F000 15 8)).toInt ≤ (BitVec.ofNat 8 (bits 0x14F000 23 16)).toInt ∧
    (BitVec.ofNat 8 (bits 0xF01400 15 8)).toInt > (BitVec.ofNat 8 (bits 0xF01400 23 16)).toInt := by decide +kernel
/-- A negative lower limit is a signed exponent (R229). -/
theorem test_lscale_keeps_limits : goes (exec (.lscaleWrite 0x14F07F) sWg) fun t => t.hw.bwd.exp == 20 && t.hw.bwd.minExp == 0xF0 := by
  decide +kernel

def bucket0 : Bucket := { values := 16, engine := 3, group := 0, shardMode := true, bellows := false, port := 0, notify := false, channel := 0, dest := BitVec.ofNat 64 (7 * 2 ^ 48 + 0x200000), notifyCore := 0 }
def redSecOf (b : Bucket) (ms : List (Nat × Nat)) : RedSec := { buckets := [b], groups := [{ self := 0, members := ms }], deadline := 1, areaOff := 0x10000, cplOff := 0x20000, cplEntries := 64, bucketCount := 1, groupCount := 1, inside := true }
/-- Engine 3 with the entries `is`, step 4 open in the even entry, the module at rank 7. -/
def sRed (b : Bucket) (ms : List (Nat × Nat)) (is : List Inst) : State := let s := sWgt { wgtBillet with reduction := some (redSecOf b ms), backward := some bwdSec } id
  { s with hw := { s.hw with spn := { s.hw.spn with rank := 7 }, engines := [(3, { insts := is, nextPost := 4 })], bwd := { s.hw.bwd with e0 := { step := 4, state := .open' } } } }
def two : List (Nat × Nat) := [(7, 9), (8, 9)]
def inst4 : Inst := { bucket := 0, step := 4, seq := 4, buf := none, full := some 1, slots := [(0, some (List.replicate 16 5))] }
theorem witness_StepsAndGradients_GradEntry : let s := sRed bucket0 two []; let x := s.hw.engine 3; let r := redSecOf bucket0 two
    let ent := stepEntry s.hw.bwd (4 % 2)
    s.hw.redSec = some r ∧ r.buckets[0]? = some bucket0 ∧ bucket0.engine = 3 ∧ 15 < bucket0.values ∧ 1 < bucket0.values ∧
    ent.step = 4 ∧ ent.state = .open' ∧ x.inst (ent.step * r.count 3 + r.index 0) = none ∧
    x.nextPost.toNat ≤ ent.step * r.count 3 + r.index 0 ∧ ent.step * r.count 3 + r.index 0 < x.nextPost.toNat + 16 ∧
    x.freeBuf = some 0 ∧ r.buckets[1]? = none ∧ 15 + [(1 : W16), 2].length > bucket0.values := by decide +kernel
/-- An open instance with the values of positions 3 and 4 entered. -/
def instO : Inst := { inst4 with full := none, slots := [], buf := some 0, vals := [(3, some 7), (4, some 8)] }
theorem witness_StepsAndGradients_GradEntry_into_open : let s := sRed bucket0 two [instO]; let x := s.hw.engine 3; let r := redSecOf bucket0 two
    let ent := stepEntry s.hw.bwd (4 % 2)
    s.hw.redSec = some r ∧ r.buckets[0]? = some bucket0 ∧ bucket0.engine = 3 ∧ 5 + 3 ≤ bucket0.values ∧ ent.step = 4 ∧ ent.state = .open' ∧
    instO.seq = ent.step * r.count 3 + r.index 0 ∧ x.inst instO.seq = some instO ∧ x.nextPost.toNat ≤ instO.seq ∧ instO.complete = false ∧
    instO.buf = some 0 ∧ (∀ k < 3, nget none instO.vals (5 + k) = none) ∧ instO.vals.length + 3 < bucket0.values ∧
    ∀ w ∈ s.hw.bwdSec, let y := bonded 3 0 (w.maskOff + 4 % 2 * w.maskBytes + 0 / 8); let a := r.place 3 0 0 5
      y < a ∨ a + 4 * 3 ≤ y := by decide +kernel
def copyMsg (shard : Nat) : ReduceMsg := { backup := false, group := 0, bucket := 0, step := 4, shard := BitVec.ofNat 12 shard, member := 1, offset := 0, values := List.replicate 8 9 }
def instC : Inst := { inst4 with full := none, slots := [], buf := some 0 }
/-- The message `m` meets the open instance of engine 3 and fits its buffer. -/
def matches' (s : State) (result : Bool) (m : ReduceMsg) (i : Inst) : Bool :=
  let came := s.hw.reduceIn 3 m.values.length
  match came.matchMsg 3 result m with
  | some (r, b, g, h, j) => decide (h = came) && decide (j = i) && g.self == 0 && (s.hw.engine 3).inst j.seq == some j &&
      decide (m.member.toNat * shardLen b.values g.m g.self + m.offset.toNat + m.values.length ≤ r.nmax 3)
  | none => false
theorem witness_ReductionOfInstances_ReduceMessages : let b := { bucket0 with values := 32 }; let s := sRed b two [instC]
    matches' s false (copyMsg 0) instC = true ∧ instC.complete = false ∧ instC.buf = some 0 ∧ (copyMsg 0).backup = false ∧
    nget none instC.slots 1 = none ∧ instC.pastDeadline = false ∧
    matches' s false { copyMsg 0 with backup := true } instC = true := by decide +kernel
theorem witness_ReductionOfInstances_ReduceMessages_result : let b := { bucket0 with shardMode := false, values := 32 }; let s := sRed b two [instC]
    matches' s true (copyMsg 1) instC = true ∧ instC.delivered = false ∧
    (putValues instC.res ((copyMsg 1).shard.toNat * shardCut b.values 2 + (copyMsg 1).offset.toNat) (copyMsg 1).values).length < b.values := by
  decide +kernel
/-- An instance with both slots filled, behind one that waits for its slots. -/
def instF (buf : Option Nat) : Inst := { inst4 with seq := 5, step := 5, buf := buf, slots := [(0, some (List.replicate 16 0x3F800000)), (1, some (List.replicate 16 0x40000000))] }
theorem witness_ReductionOfInstances_ReduceCompletes_shard : ∀ f ∈ [none, some 1], let i := instF f
    let s := sRed bucket0 two [instC, i]; let r := redSecOf bucket0 two; let g := r.groupOf bucket0
    s.hw.redSec = some r ∧ (s.hw.engine 3).inst i.seq = some i ∧ (5 : W64).toNat = i.seq ∧ r.buckets[i.bucket]? = some bucket0 ∧
    (s.hw.engine 3).insts = [instC] ++ i :: [] ∧ i.complete = false ∧ i.full.isSome = true ∧ i.sum = none ∧
    i.slotsFull bucket0.values g = true ∧ instC.full.isSome = false ∧ instC.seq ≠ i.seq ∧
    (∀ k < g.m, ((nget none i.slots k).getD []).length = shardLen bucket0.values g.m g.self) ∧
    (let a := bucket0.dest.toNat + g.self * shardCut bucket0.values g.m * 4
     bucket0.shardMode = true ∧ bucket0.bellows = false ∧ s.hw.ownRank (addrRank a) = true ∧
      s.hw.spanStatus s.hw.spn.rank.toNat (addrOff a) (4 * 16) = 0 ∧ addrOff a % pageBytes + 4 * 16 ≤ pageBytes) ∧
    s.hw.barOpen = true := by decide +kernel
/-- The sum of 1 and 2 in member order is 3 (R241). -/
theorem test_shard_sum : goes (exec (.shardReduced 3 5) (sRed bucket0 two [instC, instF none])) fun t =>
    ((t.hw.engine 3).inst 5).any (fun i => i.sum == some (List.replicate 16 0x40400000) && i.delivered) &&
    nget 0 t.hw.mem 0x200003 == 0x40 && nget 0 t.hw.mem 0x20003E == 0x40 && nget 0 t.hw.mem 0x200040 == 0 := by decide +kernel
theorem witness_ReductionOfInstances_ReduceCompletes_ack : let i := { inst4 with delivered := true }; let s := sRed bucket0 [(7, 9)] [i]
    (s.hw.engine 3).inst 4 = some i ∧ bucket0.bellows = false ∧ i.delivered = true ∧ i.complete = false := by decide +kernel
theorem witness_ReductionOfInstances_ReduceCompletes_post : let i := { inst4 with delivered := true, complete := true }
    let s := sRed bucket0 [(7, 9)] [i]; let x := s.hw.engine 3
    x.inst 4 = some i ∧ x.nextPost = 4 ∧ (x.cplHead - x.cplTail).toNat < 64 ∧
    (redSecOf bucket0 [(7, 9)]).buckets[i.bucket]? = some bucket0 ∧ bucket0.notify = false := by decide +kernel
def gradId : GradOutId := { tag := bucket0.dest, step := 4, bucket := 0, shard := 0, whole := false }
theorem witness_StreamedWeights_WeightServerAnswers : let i := { inst4 with delivered := true }
    let s := sRed { bucket0 with bellows := true } [(7, 9)] [i]
    (s.hw.gradOutInst gradId).isSome = true ∧ i.streamErrs = 0 := by decide +kernel
theorem witness_StreamedWeights_WeightServerAnswers_fill : let s := sFill { filling with layer := 3 }
    (s.hw.wslot 1).state = .filling ∧ (s.hw.wslot 1).layer = 3 ∧ (s.hw.wslot 1).fillSeq = 9 ∧
    (s.hw.wslot 1).session = some (2, 1) := by decide +kernel

/-! ## Witnesses: links, span, tongs, host -/

/-- A HELLO frame as sent, and with another check value. -/
def hello1 : HelloMsg :=
  let h : IdleFrame := { ack := 0, creditVc := 0, credit := 0, crc := 0 }
  let m : HelloMsg := { versions := 1, role := 0, port := 3, node := 5, rank := 9, retiring := false, resume := true, nextExpected := 0, buffers := [64, 64, 64, 64], serial := 77, delayNs := 9, head := h }
  { m with head := { h with crc := frameCrc (ctrlHead frHello 0 h (helloPayload m)) (helloPayload m) } }
def helloBad : HelloMsg := { hello1 with head := { hello1.head with crc := hello1.head.crc + 1 } }
def hello2 : HelloMsg :=
  let m := { hello1 with versions := 2 }
  { m with head := { m.head with crc := frameCrc (ctrlHead frHello 0 m.head (helloPayload m)) (helloPayload m) } }
def sLink (x : Port) : State := { sRun with hw := { sRun.hw with flt := { ringBase := 0x2000000000 }, ports := nput {} [] 3 x } }
theorem witness_LinkStatesAndFrames_LinkStates : ((sLink {}).hw.port 3).state = .disabled ∧ (sLink {}).hw.barOpen = true ∧
    ∀ st ∈ [PortSt.up, .retiring, .training, .down, .retraining, .negotiating],
      ((sLink { state := st, enable := true }).hw.port 3).state = st := by decide +kernel
theorem witness_LinkStatesAndFrames_LinkStates_hello : let x := (sLink { state := .retraining, forwarded := true, partnerSerial := 77 }).hw.port 3
    x.state = .retraining ∧ x.forwarded = true ∧ hello1.serial = x.partnerSerial ∧ hello1.resume = true ∧
    hello1.versions.getLsbD 0 = true ∧ roleOk 3 hello1.role = true ∧ hello1.crcOk = true ∧ hello2.crcOk = true ∧
    hello2.versions.getLsbD 0 = false ∧ helloBad.crcOk = false ∧ x.listens = true ∧
    hello1.serial ≠ ((sLink { state := .retraining }).hw.port 3).partnerSerial := by decide +kernel
/-- Frames with the CRC that they should have. -/
def frameOf (seq : BitVec 12) (eom : Bool) (bs : List Byte) : DataFrame := { seq := seq, ack := 0, vc := 0, som := true, eom := eom, creditVc := 0, credit := 0, payload := bs, crc := frameCrc (frameHead seq.toNat 0 frData 0 (bs.length / 16) true eom 0 0) bs }
def frame1 : DataFrame := frameOf 0 false (List.replicate 16 7)
def ctrlOf (type seq : Nat) : IdleFrame :=
  let f : IdleFrame := { ack := 0, creditVc := 1, credit := 3, crc := 0 }
  { f with crc := frameCrc (ctrlHead type seq f []) [] }
theorem witness_LinkStatesAndFrames_LinkFrames : let x := (sLink { state := .up }).hw.port 3
    x.carries = true ∧ (sLink { state := .up }).hw.tst.injArm = false ∧ frame1.crcOk = true ∧ frame1.seq = x.rxNext ∧
    (frameOf 5 false [1]).crcOk = true ∧ (frameOf 5 false [1]).seq ≠ x.rxNext ∧ { frame1 with crc := frame1.crc + 1 }.crcOk = false ∧
    x.outQ = [] ∧ x.again = 0 ∧ (ctrlOf frIdle 0).crcOk frIdle 0 [] = true ∧ (ctrlOf frNak 0).crcOk frIdle 0 [] = false ∧
    (ctrlOf frNak 7).crcOk frNak (7 : BitVec 12).toNat [] = true ∧ (ctrlOf frNak 7).crcOk frNak (6 : BitVec 12).toNat [] = false ∧
    (sLink { state := .up }).hw.withholds 3 = false := by decide +kernel
/-- A message of kind 8 that stands whole in one frame of bellows port 50. -/
theorem witness_LinkStatesAndFrames_LinkFrames_bellows : let s := { sRun with hw := { sRun.hw with ports := [(50, { state := .up })] } }
    let fr := frameOf 0 true (leBytes 8 (8 * 2 ^ 32) ++ List.replicate 24 0)
    (s.hw.port 50).carries = true ∧ fr.crcOk = true ∧ fr.eom = true ∧ fr.seq = (s.hw.port 50).rxNext ∧ fr.som = true ∧
    kindOk 50 (parseLMsg 0 ([] ++ fr.payload)).kind = true := by decide +kernel
def tx4 : TxFrame := { seq := 4, vc := 0, som := true, eom := true, payload := [1] }
theorem witness_LinkStatesAndFrames_LinkFrames_replay : ∀ n ∈ [6, 7], let x := (sLink { state := .up, replay := [tx4], resends := n }).hw.port 3
    let y := x.takeAck ((4 : BitVec 12) - 1) (ctrlOf frNak 4).creditVc.val (ctrlOf frNak 4).credit.toNat
    x.replay ≠ [] ∧ x.resends = n ∧ x.state = .up ∧ (ctrlOf frNak 4).crcOk frNak (4 : BitVec 12).toNat [] = true ∧
    y.replay ≠ [] ∧ y.resends = n := by decide +kernel
theorem witness_LinkStatesAndFrames_LinkFrames_all_acknowledged : let x := (sLink { state := .up, replay := [tx4] }).hw.port 3
    (x.takeAck ((5 : BitVec 12) - 1) 1 3).replay = [] ∧ x.outQ = [] := by decide +kernel

/-- A rank table whose rank 2 is node `b1 b0` and rank 9 node 5, and a forwarding table that reaches nodes 5 and 6 by
link 3. -/
def tableOf (b0 b1 : Byte) : Tables := [(8, b0), (9, b1), (10, 1), (36, 5), (38, 1), (0x4000A, 0x43), (0x4000C, 0x43)]
def reqMsg (op : BitVec 4) : SpanReqMsg := { srcRank := 9, destRank := 2, ttl := 0, gen := 0, address := 0x1000, op := op, flag := false, reissue := false, size := 7, tag := 4, engine := 6, data := List.replicate 8 1, operand := 0, compare := 0, firstIssue := 0 }
def jEntry : JEntry := { src := 9, engine := 6, tag := 4, result := 77, arrival := 0 }
def sSpan (t : Tables) : State := { sRun with hw := { sRun.hw with spn := { rank := 7, tables := true, active := t, journal := [jEntry] }, ports := [(3, { state := .up })], flt := { ringBase := 0x2000000000 } } }
def tblOwn : Tables := tableOf (Config.strapsNode.setWidth 8) ((Config.strapsNode >>> 8).setWidth 8)
theorem rank2_own : rankEntry tblOwn 2 = (Config.strapsNode.toNat, true, false) := by
  generalize h : Config.strapsNode = n
  have e : rankEntry tblOwn 2 = (bits (leNat [n.setWidth 8, (n >>> 8).setWidth 8, 1, 0]) 15 0,
      bit (leNat [n.setWidth 8, (n >>> 8).setWidth 8, 1, 0]) 16, bit (leNat [n.setWidth 8, (n >>> 8).setWidth 8, 1, 0]) 17) := by
    rw [← h]; rfl
  have v : leNat [n.setWidth 8, (n >>> 8).setWidth 8, 1, 0] = n.toNat + 65536 := by
    have := n.isLt
    simp only [leNat, BitVec.toNat_setWidth, BitVec.toNat_ushiftRight, Nat.shiftRight_eq_div_pow]
    show _ % 256 + 256 * (_ / 256 % 256 + 256 * (1 + 256 * (0 + 256 * 0))) = _
    omega
  have lt := n.isLt
  rw [e, v]
  refine Prod.ext ?_ (Prod.ext ?_ ?_)
  · simp only [bits, Nat.shiftRight_zero]; omega
  all_goals
    simp only [bit, Nat.testBit_eq_decide_div_mod_eq]
    simp; omega
theorem ingress_other (s : Hw) (t : Tables) (dest : W16) (gen : Byte) (ttl node : Nat) (h : s.tablesOf gen = some t)
    (e : rankEntry t dest = (node, true, false)) : s.ingress 0 dest gen ttl =
      if node = Config.strapsNode.toNat then .own else if ttl = 0 then .drop true else match s.linkTo t node with
        | some q => .forward q
        | none => .drop true := by
  simp only [Hw.ingress, h, e]
  simp <;> rfl
/-- The module's own node is not both 5 and 6. -/
theorem some_other_node : 5 ≠ Config.strapsNode.toNat ∨ 6 ≠ Config.strapsNode.toNat := by omega
theorem witness_SpanTraffic_SpanRequests : (sSpan tblOwn).hw.ingress 0 2 0 0 = .own := by
  rw [ingress_other _ tblOwn 2 0 0 _ rfl rank2_own, if_pos rfl]
theorem witness_SpanTraffic_SpanRequests_back : let s := sSpan (tableOf 0 0)
    s.hw.regionOff (addrOff 0x1000) = false ∧ rankEntry (tableOf 0 0) 9 = (5, true, false) ∧ s.hw.linkTo (tableOf 0 0) 5 = some 3 ∧
    badRequest 0 0x1000 0 8 = false ∧ badRequest 1 0x1000 0 8 = false ∧ badRequest 2 0x1000 0 8 = false ∧
    s.hw.spanStatus 9 (addrOff 0x1000) 8 = 0 ∧ (reqMsg 1).data.length = (reqMsg 1).size.toNat + 1 ∧ isAtomic 2 = true ∧
    s.hw.spn.journal.find? (fun e => decide (e.src = 9) && decide (e.engine = 6) && decide (e.tag = 4)) = some jEntry := by decide +kernel
/-- An access to a page that is not mapped, and the first time that an atomic comes. -/
theorem witness_SpanTraffic_SpanRequests_fails : let s := sSpan (tableOf 0 0)
    s.hw.spanStatus 9 migBase 8 ≠ 0 ∧ s.hw.inPool migBase 8 = false ∧ s.hw.regionOff migBase = false ∧
    badRequest 0 migBase 0 8 = false ∧ badRequest 1 migBase 0 8 = false ∧
    s.hw.spn.journal.find? (fun e => decide (e.src = 9) && decide (e.engine = 6) && decide (e.tag = 5)) = none ∧
    s.hw.spn.horizon = none ∧ s.hw.spn.journal.length < journalMax ∧ s.hw.spanStatus 9 (addrOff 0x1000) (atomicBytes 2) = 0 := by
  decide +kernel
theorem witness_SpanTraffic_SpanRequests_dead : (sSpan (tableOf 0 0)).hw.ingress 0 3 0 0 = .dead := by decide +kernel
theorem witness_SpanTraffic_SpanRequests_back_own : (sSpan tblOwn).hw.tablesOf (sSpan tblOwn).hw.spn.gen = some tblOwn ∧
    rankEntry tblOwn 9 = (5, true, false) ∧ (sSpan tblOwn).hw.linkTo tblOwn 5 = some 3 := ⟨rfl, rfl, rfl⟩
theorem witness_SpanTraffic_SpanRequests_drop_old : (sSpan (tableOf 0 0)).hw.ingress 0 2 9 0 = .drop false := by decide +kernel
theorem witness_SpanTraffic_SpanRequests_drop_and_forward : ∃ s : State, s.hw.ingress 0 2 0 0 = .drop true ∧ s.hw.ingress 0 2 0 1 = .forward 3 := by
  rcases some_other_node with hb | hb
  · refine ⟨sSpan (tableOf 5 0), ?_, ?_⟩ <;> rw [ingress_other _ (tableOf 5 0) 2 0 _ 5 rfl (by decide +kernel), if_neg hb]
    · rfl
    · rw [if_neg (by decide)]; rfl
  · refine ⟨sSpan (tableOf 6 0), ?_, ?_⟩ <;> rw [ingress_other _ (tableOf 6 0) 2 0 _ 6 rfl (by decide +kernel), if_neg hb]
    · rfl
    · rw [if_neg (by decide)]; rfl

def openReq (op : Nat) : SpanReq := { flagReq with op := op, flag := false, left := true, tag := 2 ^ 32 - 1, reissued := true, address := 9 * 2 ^ 48 + 0x1000, via := 9 }
/-- An engine with one request that has left and awaits its answer, others about it, and a sweep of rank 9. -/
def sAns (rs : List SpanReq) (fs : List Fence) : State := { sSpan (tableOf 0 0) with hw := { (sSpan (tableOf 0 0)).hw with spn := { (sSpan (tableOf 0 0)).hw.spn with engines := [(5, { reqs := rs, fences := fs, sweeps := [{ rank := 9, epoch := 4 }] })] } } }
def fence0 : Fence := { core := 0, order := 5, tok := 0, cmdAddr := 0x40, covers := [], worst := 0 }
theorem witness_SpanTraffic_SpanAnswers : let r := openReq 0; let s := sAns [{ r with order := 7, left := false, taken := false }, r] [{ fence0 with covers := [7] }]
    let x := s.hw.spanEng 5
    x.byTag 0xFFFFFFFF = some r ∧ r.core = (0 : CoreId).toNat ∧ r.op = 0 ∧ s.hw.spn.deadLoans = [] ∧ s.hw.ownRank (addrRank r.address) = false ∧
    (∀ q ∈ x.reqs, q.taken = false ∨ q.left = true) ∧ (∀ f ∈ x.fences, r.order ∉ f.covers ∧ f.covers ≠ []) := by decide +kernel
theorem witness_SpanTraffic_SpanAnswers_host : let r := { openReq 0 with core := hostCore }; let x := (sAns [r] []).hw.spanEng 5
    x.byTag 0xFFFFFFFF = some r ∧ r.core = hostCore ∧ r.op = 0 ∧ (∀ q ∈ x.reqs, q.taken = false ∨ q.left = true) := by decide +kernel
theorem witness_SpanTraffic_SpanAnswers_swept : let r := openReq 1; let s := sAns [r] []; let x := s.hw.spanEng 5
    (∃ w ∈ x.sweeps, w.rank = (9 : W16).toNat ∧ w.epoch = (4 : W32).toNat) ∧ x.reqs = [r] ∧ x.fences = [] ∧ s.hw.spn.deadLoans = [] ∧
    r.core = (0 : CoreId).toNat ∧ r.left = true ∧ r.op = 1 ∧ r.via = 9 ∧ s.hw.ownRank (addrRank r.address) = false ∧ r.reissued = true ∧
    r.epoch ≤ (4 : W32).toNat := by decide +kernel
theorem witness_SpanTraffic_SpanAnswers_fence : let g := { fence0 with order := 6, covers := [7] }; let x := (sAns [] [g, fence0]).hw.spanEng 5
    x.fences = [g] ++ fence0 :: [] ∧ fence0.core = (0 : CoreId).toNat ∧
    g.covers ≠ [] ∧ ¬(g.core = (0 : CoreId).toNat ∧ g.order = fence0.order) := by decide +kernel
theorem witness_SpanTraffic_SpanAnswers_sweep : let s := sSpan (tableOf 0 0)
    (s.hw.spanEng 5).sweeps = [] ∧ s.hw.tablesOf s.hw.spn.gen = some (tableOf 0 0) ∧
    rankEntry (tableOf 0 0) 9 = (5, true, false) ∧ s.hw.linkTo (tableOf 0 0) 5 = some 3 := by decide +kernel
/-- The data stand at the local address of the request, and the status byte of its command block is 0 (R310). -/
theorem test_load_data_arrive : goes (exec (.spanRsp 5 0xFFFFFFFF 0 (List.replicate 32 6) 0) (sAns [openReq 0] [])) fun t =>
    nget 0 (t.coreOf 0).sram 0x200 == 6 && nget 0 (t.coreOf 0).sram 0x21F == 6 && (t.hw.spanEng 5).reqs.isEmpty := by decide +kernel

/-- A submission entry of kind 1 whose CRC holds. -/
def entry1 : List Byte := let e := leBytes 2 1 ++ List.replicate 58 0
  e ++ leBytes 4 (crc32c e)
theorem witness_PeerMessagesAndWindows_PeerMessages : sRun.hw.stk.num.toNat % 4 = (1 : BitVec 2).toNat ∧
    (0 : BitVec 2).toNat ≠ sRun.hw.stk.num.toNat % 4 ∧ ((sKv 1 0 id).hw.running.bind fun l => l.img.kv).isSome = false ∧
    ({ sRun with hw := { sRun.hw with running := some (loadedOf { billet0 with kv := some kvSec }) } }.hw.running.bind
      fun l => l.img.kv).isSome = true ∧ entry1.length = 64 ∧ entryCrcOk entry1 = true ∧ (47 : PortIx).val < 48 := by
  decide +kernel
/-- CRC-32C of "123456789" is 0xE3069283 (the check value of that polynomial). -/
theorem test_crc32c : crc32c [0x31, 0x32, 0x33, 0x34, 0x35, 0x36, 0x37, 0x38, 0x39] = 0xE3069283 := by decide +kernel

theorem witness_PeerMessagesAndWindows_SpanWindows : sRun.hw.barOpen = true ∧
    (let s := { sRun with hw := { sRun.hw with glb := { gweku := true, field := 1 }, spn := { loading := true } } }
     s.hw.spn.loading = true ∧ nwf 0 s.hw.mem = true ∧ s.hw.glb.field.getLsbD 0 = true ∧ s.hw.inD0 = true ∧
     s.hw.windowFree (s.hw.windowAddr 0x1000) = true ∧
     s.hw.spanStatus s.hw.spn.rank.toNat (addrOff (s.hw.windowAddr 0x1000)) 4096 = 0 ∧ addrOff (s.hw.windowAddr 0x1000) % pageBytes + 4096 ≤ pageBytes) := by
  decide +kernel

/-- A module whose home table holds `m`, with room in every pool, and one residency record of layer 0, expert 0, page 7. -/
def sTng (m : NMap Home) : State := { hw := {
  evt := { busMaster := true }
  tng := { homes := m, sec := some { plan := [], pools := List.replicate 96 (2, 5), resOff := 0, homeOff := 0x100000, homePages := 100, inside := true } }
  mem := nputList 0 (nputList 0 [] 0 (leBytes 8 (0x800 + 2 ^ 40))) 0x800 (leBytes 8 (2 ^ 24) ++ List.replicate 8 0 ++ leBytes 8 (7 + 2 ^ 31)) } }
def tngReq (op cnt p tier f : Nat) : TongsReq := { input := 1, w0 := BitVec.ofNat 64 (op + tier * 2 ^ 5 + 0x3FFF * 2 ^ 16 + f * 2 ^ 30 + 2 ^ 53), w1 := BitVec.ofNat 64 (p + cnt * 2 ^ 31) }
def home2 : Home := { state := .home, tier := 2, cls := 5, location := 44 }
theorem no_field_deep (m : NMap Home) : ∀ g, (sTng m).hw.deepOff g = false := fun _ => rfl
/-- A page of another order, whose copy goes on. -/
def order7 (n : Nat) (d : List Nat) : Order := { queue := 5, req := 0, input := 1, page := 7, kind := .move, destTier := 1, destField := 3, destWafer := 0, location := 5, phase := .copying n d, expert := none }
def order8 : Order := { order7 1 [2] with page := 8, req := 3, queue := 6 }
def sOrders (m : NMap Home) (os : List Order) : State := let s := sTng m
  { s with hw := { s.hw with tng := { s.hw.tng with orders := os, nextReq := 4 } } }
theorem witness_TongsOrders_TongsRequests_move : let s := sOrders [(7, home2)] [order8]; let r := tngReq 1 1 7 1 47; let h := s.hw
    h.queueLen 5 < 1024 ∧ h.mayMaster = true ∧ reqCount r = 1 ∧ reqPage r = 7 ∧
    rBits r 7 5 = 1 ∧ rBits r 35 30 = 47 ∧ (h.home 7).state = .home ∧ (h.home 7).fixed = false ∧ (h.home 7).pinned = false ∧
    (h.home 7).tier ≠ 1 ∧ h.pageUsable 7 = false ∧ h.mergeable 7 47 0 = false ∧ (h.findRoom 1 47 0).isSome = true ∧
    (∀ sec ∈ h.tng.sec, 7 < sec.homePages) := by decide +kernel
theorem witness_TongsOrders_TongsRequests_merges : let h := (sOrders [(7, { home2 with state := .moving, destTier := 1 })] [order7 0 []]).hw
    let r := tngReq 1 1 7 1 3; reqCount r = 1 ∧ reqPage r = 7 ∧ rBits r 7 5 = 1 ∧ rBits r 35 30 = 3 ∧ h.mergeable 7 3 0 = true ∧
    h.queueLen 5 < 1024 := by decide +kernel
theorem witness_TongsOrders_TongsRequests_others : let s := sOrders [(7, home2)] [order8]; let h := s.hw; let c := tngReq 3 9 7 0 3
    (h.home 9).state = .unmapped ∧ h.pageOk 9 = true ∧ h.underOrder 9 = false ∧ (h.findRoom 1 3 0).isSome = true ∧ c.w0.getLsbD 53 = true ∧
    rBits c 35 30 < 48 ∧ bits c.w1.toNat 61 31 = 9 ∧ (h.home (reqPage c)).state = .home ∧ rBits (tngReq 2 1 7 0 3) 29 16 = 0x3FFF ∧
    rBits (tngReq 2 1 7 4 3) 7 5 ≤ 4 ∧ reqPages (tngReq 2 3 7 4 3) = [7, 8, 9] := by decide +kernel
theorem witness_TongsOrders_TongsRequests_prefetch : let s := sTng [(7, home2)]; let r : TongsReq := { input := 1, w0 := 0, w1 := 0 }
    ((s.hw.resRec (rBits r 15 8) (rBits r 29 16)).map fun x => (x.valid, x.pages)) = some (true, [7]) ∧
    s.hw.underOrder 7 = false ∧ (s.hw.findRoom 1 0 0).isSome = true := by decide +kernel
theorem witness_TongsQueues : let r := tngReq 1 3 7 2 3; reqPages r ≠ [] ∧ 1 ≤ rBits r 7 5 ∧ rBits r 7 5 ≤ 4 ∧ rBits r 7 5 ≠ 1 ∧
    rBits r 35 30 < 48 ∧ rBits r 29 16 = 0x3FFF ∧ (sTng []).hw.queueLen 5 < 1024 := by decide +kernel
/-- A list without repeats has none to erase. -/
theorem eraseDups_of_nodup (l : List Nat) (h : l.Nodup) : l.eraseDups = l := by
  induction l with
  | nil => rfl
  | cons a r ih =>
    obtain ⟨ha, hr⟩ := List.nodup_cons.mp h
    have keep : r.filter (fun b => !b == a) = r := List.filter_eq_self.mpr fun b hb => by
      simp; rintro rfl; exact ha hb
    rw [List.eraseDups_cons, keep, ih hr]
theorem queueLen_of_orders (m : NMap Home) (l : List Order) : (sOrders m l).hw.queueLen 5 =
    ((l.filter fun o => decide (o.queue = 5)).map (·.req)).eraseDups.length :=
  congrArg (fun l => (List.eraseDups l).length) (List.append_nil _)
/-- Orders of different requests to one queue, one a number. -/
def ordersTo5 (l : List Nat) : List Order := l.map fun n => { order7 0 [] with req := n }
theorem ordersTo5_reqs (l : List Nat) : ((ordersTo5 l).filter fun o => decide (o.queue = 5)).map (·.req) = l := by
  induction l with
  | nil => rfl
  | cons a r ih => exact congrArg (a :: ·) ih
/-- A queue holds 1,024 requests, each an order. -/
theorem witness_TongsQueues_full : (sOrders [] (ordersTo5 (List.range 1024))).hw.queueLen 5 ≥ 1024 := by
  rw [queueLen_of_orders, ordersTo5_reqs, eraseDups_of_nodup _ List.nodup_range, List.length_range]
theorem witness_TongsOrders_PageCopies : ∀ o ∈ [order7 4 [], order7 3 [1], order7 4 [1]],
    let s := sOrders [(7, { home2 with state := .moving, destTier := 1 })] [order8, o]; let h := s.hw
    o ∈ h.tng.orders ∧ o.queue = 5 ∧ o.page = (7 : BitVec 31).toNat ∧
    (∀ x ∈ h.tng.orders, x.queue = 5 → x.page = 7 → x.phase.inProgress = true → x = o) ∧
    (∀ x ∈ h.tng.orders, x.page = o.page → x = o) ∧ o.kind = .move ∧ (h.home o.page).state = .moving ∧
    (∀ sec ∈ h.tng.sec, o.page < sec.homePages) ∧ h.orderOff o = false ∧ o.todo = [] := by decide +kernel
theorem witness_TongsOrders_PageCopies_copying : let o := { order7 0 [] with todo := [3] }
    let s : State := { hw := { tng := { orders := [order8, o] } } }
    o ∈ s.hw.tng.orders ∧ o.queue = 5 ∧ o.page = (7 : BitVec 31).toNat ∧ o.phase = .copying 0 [] ∧
    (∀ x ∈ s.hw.tng.orders, x.queue = 5 → x.page = 7 → x.phase.inProgress = true → x = o) ∧ o.todo ≠ [] := by decide +kernel
theorem witness_TongsOrders_PageCopies_held : let o := { order7 0 [] with destTier := 4 }
    let s : State := { hw := { tng := { orders := [order8, o] } } }
    o ∈ s.hw.tng.orders ∧ o.queue = 5 ∧ o.page = (7 : BitVec 31).toNat ∧ o.phase = .copying 0 [] ∧
    (∀ x ∈ s.hw.tng.orders, x.queue = 5 → x.page = 7 → x.phase.inProgress = true → x = o) ∧
    s.hw.mayMaster = false ∧ o.destTier = 4 := by decide +kernel
theorem witness_TongsOrders_PageCopies_lost : let h := (sTng [(7, home2), (9, { home2 with location := 45 })]).hw
    (7, home2) ∈ h.tng.homes ∧ h.home 7 = home2 ∧ home2.tier = 2 ∧ home2.state = .home ∧ home2.location.toNat = (44 : W32).toNat ∧
    (∀ x ∈ h.tng.homes, x.2.tier = 2 → x.2.state ≠ .unmapped → x.2.location.toNat = (44 : W32).toNat → x.1 = 7) ∧
    (∀ sec ∈ h.tng.sec, 7 < sec.homePages) ∧ home2.cls ≠ 1 ∧ home2.cls ≠ 2 ∧ home2.cls ≠ 3 := by decide +kernel
theorem witness_TongsOrders_PageCopies_refetch : let l : List (Nat × Nat) := [(3, 1), (7, 2)]
    let h : Hw := { flt := { refetch := l } }
    ((7 : BitVec 31).toNat, 2) ∈ h.flt.refetch ∧ ∀ x ∈ h.flt.refetch, x.1 = (7 : BitVec 31).toNat → x = ((7 : BitVec 31).toNat, 2) := by
  decide +kernel

theorem witness_QueuePairEntries_QueuePairs : let v : W64 := 1 + 6 * 4 + 16 * 128
    sRun.hw.barOpen = true ∧ (sRun.hw.qp 9).enable = false ∧ v.getLsbD 0 = true ∧ within (bits v.toNat 6 2) 6 16 = true ∧
    within (bits v.toNat 11 7) 6 16 = true ∧ ({ sRun.hw with qps := [(9, { enable := true })] } : Hw).qp 9 = { enable := true } := by
  decide +kernel
def sQp (good : Bool) : State := { sRun with hw := { sRun.hw with
  qps := [(9, { enable := true, sqLog := 6, cqLog := 6, sqTail := 1, sqBase := 0x1000, cqBase := 0x8000 })], evt := { busMaster := true }
  hostMem := nputList 0 [] 0x1000 (if good then entry1 else 1 :: List.replicate 63 0) } }
theorem witness_QueuePairEntries_EntryTake : ∀ g ∈ [true, false], let s := sQp g; let x := s.hw.qp 9
    let e := s.hw.hostRead (x.sqBase.toNat + x.sqHead.toNat % x.sqSize * 64) 64
    x.enable = true ∧ s.hw.mayMaster = true ∧ s.hw.runs = true ∧ x.waiting = [] ∧ x.sqHead ≠ x.sqTail ∧
    entryCrcOk e = g ∧ BitVec.ofNat 16 (at' e 2 2) = x.expected ∧ at' e 0 1 = 1 ∧ x.cqFill < x.cqSize ∧ x.stamps = [] := by
  decide +kernel
def ev1 : Ev := { arrival := 0, arrivalStroke := 4, qp := some 9, rank := 0xFFFF, sqIndex := 3, gap := false, defers := 0, deferred := false, entry := entry1, ord := 0 }
def sIntake : State := { sRun with hw := { sRun.hw with
  running := some (loadedOf billet0), stk := { sRun.hw.stk with beat := 0 }, evu := { fresh := [ev1] } } }
theorem witness_IntakeAndResults : let s := sIntake
    s.hw.strokeSec = some billet0.stroke ∧ s.hw.curDesc = some (beatOf false true) ∧ (beatOf false true).intake = true ∧
    s.hw.flt.held = false ∧ s.hw.flt.stopAll = false ∧ s.hw.evu.takenFor = none ∧ s.hw.evu.deferred = [] ∧ s.hw.evu.back = [] ∧
    s.hw.evu.fresh = [ev1] ∧ ev1.arrivalStroke + 1 = s.hw.stk.workStroke ∧ 1 ≤ billet0.stroke.intakeCap ∧
    billet0.stroke.intakeCores = [9] ∧ s.hw.qps = [] := by decide +kernel
theorem witness_IntakeAndResults_owed : let h : Hw := { sIntake.hw with evu := { owed := [ev1] } }
    (h.evu.owed.any fun e => decide (e.qp = some 9) && decide (e.sqIndex = 3) &&
      decide (e.took ≤ h.stk.workStroke)) = true ∧ h.evu.results = [] := by decide +kernel
theorem witness_Interrupts : let h : Hw := { evt := { mask := 2 ^ 40, busMaster := true, vec := [(40, 5)], table := [(5 * 4 + 3, 0)] } }
    h.evt.flags.getLsbD 40 = false ∧ h.evt.mask.getLsbD 40 = true ∧ (nget 0 h.evt.vec 40).toNat = 5 ∧ h.mayMaster = true ∧
    (h.msixDword 5 3).getLsbD 0 = false ∧ h.qps = [] := by decide +kernel
theorem witness_Interrupts_held : let h : Hw := { evt := { mask := 2 ^ 40, pba := [(5, true)], table := [(5 * 4 + 3, 0)] } }
    h.mayMaster = false ∧ h.inD0 = true ∧ (h.msixDword 7 3).getLsbD 0 = true ∧ h.evt.pba = [(5, true)] ∧
    (h.msixDword 5 3).getLsbD 0 = false ∧ h.qps = [] := by decide +kernel

/-! ## Witnesses: mailbox, maintenance, trees -/

/-- A module in IDLE with field 0 ready, `bs` at span offset 0x10000. -/
def sIdle (bs : List Byte) : State := { hw := {
  glb := { gweku := true }, mbx := { state := .idle, version := 1 }, stk := { state := .idle }, flds := [(0, { state := .ready })]
  mem := nputList 0 [] 0x10000 bs } }
theorem witness_MailboxCommands : let s := sIdle []; let ps : List Byte := [3, 0, 0, 0]
    MailboxReady s ∧ ps.length = 4 ∧ (ps.getD 0 0).getLsbD 0 = true ∧ (0x77 : W16) ≠ 1 ∧
    ({ s.hw with mbx := {} } : Hw).mbx.state ≠ .idle := by unfold MailboxReady; decide +kernel
theorem witness_MailboxCommands_logs : let ps (l n : Nat) := leBytes 8 l ++ leBytes 8 0 ++ leBytes 4 n
    let x : Flt := { flashed := 31, tFlashed := 4064 }
    paramsOk (ps 0 31) 20 [(1, 7)] = true ∧ at' (ps 0 31) 0 1 = 0 ∧ at' (ps 0 31) 8 8 + at' (ps 0 31) 16 4 ≤ x.flashed.toNat ∧
    x.flashed.toNat ≤ at' (ps 0 31) 8 8 + faultLogSize ∧ at' (ps 0 31) 8 8 + at' (ps 0 31) 16 4 > (0 : W64).toNat ∧
    paramsOk (ps 1 4064) 20 [(1, 7)] = true ∧ at' (ps 1 4064) 0 1 = 1 ∧ at' (ps 1 4064) 16 4 % 8 = 0 ∧
    at' (ps 1 4064) 8 8 + at' (ps 1 4064) 16 4 ≤ x.tFlashed.toNat ∧
    x.tFlashed.toNat ≤ at' (ps 1 4064) 8 8 + trailLogSize := by decide +kernel

/-- One directory entry of a billet. -/
def dirOf (kind off len : Nat) : List Byte := leBytes 8 kind ++ leBytes 8 off ++ leBytes 8 len ++ leBytes 8 0
/-- A bare billet of one beat of 35 units: core 0 runs an image of one NOP and one task, routes to itself. -/
def billetBytes : List Byte :=
  leBytes 4 0x4C425A56 ++ leBytes 4 1 ++ leBytes 8 0x800 ++ leBytes 8 4 ++ leBytes 8 0x40 ++ List.replicate 32 0 ++
  dirOf 1 0xC0 64 ++ dirOf 2 0x100 192 ++ dirOf 3 0x1C0 320 ++ dirOf 10 0x300 896 ++
  padTo 64 (leBytes 8 (35 + 2 ^ 18) ++ leBytes 8 35 ++ leBytes 8 1 ++ leBytes 8 0 ++ leBytes 4 0) ++
  padTo 192 (leBytes 4 1 ++ leBytes 4 1 ++ leBytes 8 64 ++ leBytes 8 1 ++ leBytes 8 72 ++ leBytes 8 0 ++ leBytes 8 0 ++
    List.replicate 16 0 ++ leBytes 8 0 ++ leBytes 8 80 ++ (leBytes 2 1 ++ leBytes 2 1 ++ List.replicate 28 0)) ++
  padTo 320 (leBytes 4 1 ++ leBytes 4 1 ++ leBytes 8 48 ++ leBytes 8 0 ++ leBytes 8 0 ++ leBytes 8 72 ++ leBytes 8 0 ++
    leBytes 8 56 ++ leBytes 8 1 ++ leBytes 8 0 ++ List.replicate 192 0xFF) ++
  padTo 896 (leBytes 4 1 ++ leBytes 4 0 ++ leBytes 8 0 ++ leBytes 8 64 ++ leBytes 8 0 ++ leBytes 8 0x1000 ++ leBytes 8 1)
def billetAddr : Nat := 0xFFFF * 2 ^ 48 + 0x10000
theorem witness_BilletCommands : let s := sIdle (padTo 0x800 billetBytes); let ps := leBytes 8 billetAddr ++ leBytes 8 0x800 ++ leBytes 8 5
    MailboxReady s ∧ ps.length = 24 ∧ at' ps 0 8 = billetAddr ∧ billetAddr % 64 = 0 ∧ s.hw.stk.state ≠ .shed ∧
    at' ps 8 8 = 0x800 ∧ at' ps 16 8 = 5 := by unfold MailboxReady; decide +kernel
/-- The bytes that stand at 0x10000 of `sIdle`, read back. -/
theorem sIdle_read (bs : List Byte) : (sIdle bs).hw.memRead (addrOff billetAddr) bs.length = bs := ngetList_nputList 0 [] 0x10000 bs
theorem billet_length : (padTo 0x800 billetBytes).length = 0x800 := by decide +kernel
theorem witness_BilletCommands_read : ((sIdle (padTo 0x800 billetBytes)).hw.readSpan billetAddr 0x800).2 =
    (padTo 0x800 billetBytes, 0) := by
  have h := sIdle_read (padTo 0x800 billetBytes)
  rw [billet_length] at h
  rw [readSpan_one_part _ _ _ rfl rfl rfl]
  exact congrArg (·, 0) h
theorem witness_BilletCommands_fits : (sIdle (padTo 0x800 billetBytes)).hw.admissionFault (padTo 0x800 billetBytes) 0x800 5 = none := by
  decide +kernel
/-- An activation stroke that is not ahead is refused with reason 0x0C (R38). -/
theorem witness_BilletCommands_refused : ((sIdle (padTo 0x800 billetBytes)).hw.admissionFault (padTo 0x800 billetBytes) 0x800 0).map
    (fun r => r.reason) = some 0x0C := by decide +kernel
theorem witness_BilletCommands_retire : let ps (op : Nat) := leBytes 8 99 ++ leBytes 8 op
    let a : Hw := { stk := { state := .armed }, armed := some (loadedOf billet0) }
    paramsOk (ps 0) 16 [(9, 7)] = true ∧ paramsOk (ps 1) 16 [(9, 7)] = true ∧ at' (ps 0) 8 1 = 0 ∧ at' (ps 1) 8 1 = 1 ∧
    sRun.hw.runs = true ∧ a.stk.state = .armed ∧ a.armed.isSome = true ∧ (sIdle []).hw.stk.state = .idle ∧
    (sIdle []).hw.armed = none := by decide +kernel

theorem witness_MaintenanceCommands_MaintenanceStarts : let s := sIdle []; let ps := leBytes 8 (2 ^ 47 + 1) ++ [1]
    MailboxReady s ∧ ps.length = 9 ∧ at' ps 0 8 < 2 ^ 48 ∧ ((List.range 48).filter fun f => bit (at' ps 0 8) f) = [0, 47] ∧
    (∀ f ∈ [0, 47], f ∉ s.hw.usedFields) ∧ at' ps 8 1 = 1 ∧ s.hw.stk.state = .idle ∧ s.hw.tng.homes = [] ∧
    at' (leBytes 8 1 ++ [0]) 8 1 = 0 ∧ at' [7] 0 1 = 7 ∧ s.hw.flt.tail = s.hw.flt.head ∧ s.hw.flt.tTail = s.hw.flt.tHead := by
  unfold MailboxReady; decide +kernel
theorem witness_MaintenanceCommands_MaintenanceStarts_reports : let s := sIdle []; let ps (n : Nat) := List.replicate 32 0 ++ leBytes 8 0x40 ++ leBytes 8 n
    (ps 100000).length = 48 ∧ at' (ps 100000) 0x20 8 % 64 = 0 ∧ s.hw.reportLen ≤ at' (ps 100000) 0x28 8 ∧
    at' (ps 0) 0x28 8 < s.hw.reportLen := by decide +kernel
theorem witness_MaintenanceCommands_MaintenanceStarts_image : let ps := leBytes 8 billetAddr ++ leBytes 8 3 ++ [1, 0]
    ps.length = 18 ∧ at' ps 0x10 1 ≤ 1 ∧ at' ps 0x11 1 = 0 ∧
    at' ps 0 8 = billetAddr ∧ at' ps 8 8 = 3 ∧ (sIdle [1, 2, 3]).hw.glb.pldm = none := by decide +kernel
theorem witness_MaintenanceCommands_MaintenanceStarts_image_read : ((sIdle [1, 2, 3]).hw.readSpan billetAddr 3).2 = ([1, 2, 3], 0) := by
  rw [readSpan_one_part _ _ _ rfl rfl rfl]; rfl
/-- The state of `sIdle` with a long command at work. -/
def longOf (l : LongOp) : Hw := let h := (sIdle []).hw
  { h with mbx := { h.mbx with state := .busy, long := some l } }
theorem witness_MaintenanceCommands_MaintenanceEnds : (longOf (.scrub 5)).mbx.long = some (.scrub 5) ∧ bit 5 2 = true ∧ bit 5 0 = true ∧
    (longOf (.scrub 4)).mbx.long = some (.scrub 4) ∧ ({ longOf (.scrub 4) with mbx := {}, glb := { gweku := true, pldm := some [1] } } : Hw).glb.pldm = some [1] ∧
    (sIdle []).hw.glb.pldm = none ∧
    (longOf (.attest [] 0x40 100000)).mbx.long = some (.attest [] 0x40 100000) ∧
    (longOf (.attest [] 0x40 100000)).reportLen ≤ 100000 ∧ 1000 < (longOf (.attest [] 0x40 1000)).reportLen ∧
    (longOf (.fwUpdate (some [1]) false false)).mbx.long = some (.fwUpdate (some [1]) false false) ∧
    (longOf (.fwUpdate none false false)).mbx.long = some (.fwUpdate none false false) ∧ (sIdle []).hw.glb.gweku = true ∧
    (sIdle []).hw.glb.image = 0 ∧ (sIdle []).hw.mbx.long = none ∧ (sIdle []).hw.glb.restarting = false := by decide +kernel

/-- Tree 5 in entry 0, in state `st`, without parent, its child 8 with no adoption ranks; content at 0x4000, `n` bytes. -/
def sTree (st : Nat) (kids n : Nat) (cs : List Child) (got : Nat) : State := { hw := {
  glb := { gweku := true, treeBase := 0x1000, children := nput [] [] 0 cs, received := nput 0 [] 0 got }
  mem := nputList 0 [] 0x1000 (leBytes 1 st ++ leBytes 1 kids ++ leBytes 2 0xFFFF ++ leBytes 4 5 ++ leBytes 8 0x4000 ++ leBytes 8 n ++
    List.replicate 32 0 ++ leBytes 2 8 ++ List.replicate 14 0 ++ List.replicate 64 0xFF) } }
theorem witness_BroadcastTrees_data : let h := (sTree 2 0 100 [] 10).hw
    h.treeOf 5 = some 0 ∧ h.treeState 0 = 2 ∧ h.childrenOf 0 = [] ∧ 8 ≤ h.got 0 ∧ h.got 0 ≤ 8 + 4 ∧ 8 + 4 < h.treeLen 0 ∧
    h.got 0 / 1048576 = (8 + 4) / 1048576 ∧ h.treeOff 0 + 256 ≤ h.treeDest 0 + 8 ∧ (47 : PortIx).val < 48 := by decide +kernel
theorem witness_BroadcastTrees_others : let c : Child := { rank := 8, sent := 10, acked := 4, lost := false }
    let h := (sTree 2 1 100 [c] 10).hw
    (sTree 3 0 100 [] 0).hw.treeOf 5 = some 0 ∧ (sTree 3 0 100 [] 0).hw.treeState 0 = 3 ∧ h.treeOf 5 = some 0 ∧
    h.childrenOf 0 = [c] ∧ c.acked < c.sent ∧ h.treeParent 0 = 0xFFFF ∧ (∀ i < 8, h.treeAdoption 0 i = []) ∧
    (sTree 1 0 100 [] 0).hw.treeOf 5 = some 0 ∧ (sTree 1 0 100 [] 0).hw.treeState 0 = 1 ∧
    (sTree 1 0 100 [] 0).hw.treeParent 0 = 0xFFFF ∧ (sTree 1 0 100 [] 0).hw.treeChildren 0 = [] := by decide +kernel
/-- Content that comes again in part, and one that leaves a gap, at a node with two children, one of them lost. -/
theorem witness_BroadcastTrees_children : let c : Child := { rank := 8, sent := 10, acked := 4, lost := false }
    let h := (sTree 2 2 100 [c, { c with rank := 9, lost := true }] 10).hw
    h.treeOf 5 = some 0 ∧ h.treeState 0 = 2 ∧ (3 : BitVec 40).toNat ≤ h.got 0 ∧ ¬(12 : BitVec 40).toNat ≤ h.got 0 ∧
    c ∈ h.childrenOf 0 ∧ c.lost = false ∧ c.acked < c.sent := by decide +kernel
theorem test_content_is_counted_once : goes (exec (.bcastData 3 5 3 false [1, 2, 3, 4]) (sTree 2 0 100 [] 10)) fun t => t.hw.got 0 == 10 := by
  decide +kernel
theorem test_content_behind_a_gap : goes (exec (.bcastData 3 5 12 false [1]) (sTree 2 0 100 [] 10)) fun t => t.hw.got 0 == 10 := by
  decide +kernel

/-! ## Witnesses: strokes, recovery, hearth, registers -/

def stkIdle : Stk := { state := .idle, num := 77, time := 123456789, bounds := [(76, 1), (77, 2)] }
def stkRun : Stk := { stkIdle with state := .running, ended := 77, workStroke := 77, beat := 3 }
def stkBeat : Stk := { stkRun with inBeat := true, beat := 2, working := true, ended := 76 }
def load0 : Loaded := loadedOf billet0
theorem witness_StrokeBoundary : let k := stkIdle
    ({ k with state := .shed } : Stk).state = .shed ∧ k.state = .idle ∧ k.inBeat = false ∧ k.haltNext = false ∧
    k.retireAt = none ∧ k.endDue = false ∧ k.groupS = [] ∧ k.stretchNext = 16 := by decide +kernel
theorem witness_StrokeBoundary_armed : let k := stkIdle; let l := { load0 with activation := 79 }
    k.num.toNat + 1 < l.activation ∧ k.num.toNat + 1 < 2 ^ 64 := by decide +kernel
theorem witness_StrokeBoundary_running : let k := stkRun; let l := load0
    k.state = .running ∧ k.inBeat = false ∧ k.uncommitted = none ∧ k.haltNext = false ∧ k.retireAt = none ∧
    k.endDue = false ∧ k.closing = false ∧ k.workHalted = false ∧ k.ended = k.num.toNat ∧ k.num.toNat + 1 < 2 ^ 64 ∧
    l.img.herder = none ∧ l.img.kv = none ∧ l.img.backward = none ∧ l.img.reduction = none ∧ l.img.weight = none ∧
    l.img.thermal = none ∧ l.img.stroke.lastWork.isSome = true ∧ l.img.stroke.firstPost ≠ some 0 := by decide +kernel
theorem test_idle_boundary : goes (exec .strokeBoundary (sIdle [])) fun t => t.hw.stk.num == 1 && decide (t.hw.stk.state = .idle) := by
  decide +kernel
theorem witness_BeatCycle : let k := stkBeat; let x := beatOf false false; let l := load0
    k.state = .running ∧ k.inBeat = true ∧ k.uncommitted = none ∧ k.working = true ∧ k.closing = false ∧ k.endDue = false ∧
    k.workHalted = false ∧ k.num.toNat ≤ k.workStroke ∧ l.img.stroke.beats[k.beat]? = some x ∧ 10 ≤ x.worst ∧ k.beat + 1 < l.img.stroke.beats.length ∧
    l.img.stroke.lastWork ≠ some k.beat ∧ l.img.stroke.firstPost ≠ some (k.beat + 1) := by decide +kernel
theorem witness_BeatCycle_ends : let s := { sRun with hw := { sRun.hw with running := some load0 } }; let z := s.hw.stk
    z.inBeat = true ∧ z.uncommitted = none ∧ s.hw.flt.held = false ∧ s.hw.flt.stopAll = false ∧ s.hw.running = some load0 ∧
    s.hw.runs = true ∧ z.working = true ∧ z.closing = false ∧ z.workHalted = false ∧ s.hw.routesDue = false ∧
    z.beat + 1 < load0.img.stroke.beats.length ∧ load0.img.stroke.lastWork ≠ some z.beat := by decide +kernel
theorem witness_BeatCycle_commit : let v : Recovery := { stroke := 5, beat := 2, failedAt := 0, hold := true, records := [], remaps := [], page := none }
    let s : State := { sRun with hw := { sRun.hw with stk := { sRun.hw.stk with uncommitted := some (5, 1) }, flt := { recovery := some v } } }
    s.hw.stk.uncommitted = some (5, 1) ∧ s.hw.stk.inBeat = true ∧ s.hw.flt.stopAll = false ∧ s.hw.flt.recovery = some v ∧
    v.hold = true ∧ (v.stroke, v.beat) ≠ (5, 1) := by decide +kernel
/-- Two cores, the first stopped, the second with two tasks of the beat and one of another. -/
def sTasks : State := let y : CoreState := { coreX with tasks := [3, 0x200 + 0x1000 * 2, 0x2000200 + 0x1000 * 2, 0x200 + 0x1000 * 3], running := none }
  let s := withCore { y with stopped := true }
  { s with hw := { s.hw with cores := [(0, { y with stopped := true }), (9, y)] } }
theorem witness_BeatCycle_tasks : sTasks.hw.stk.inBeat = true ∧ sTasks.hw.stk.triggered = false ∧ sTasks.hw.flt.held = false ∧
    sTasks.hw.flt.stopAll = false ∧ nwf {} sTasks.hw.cores = true ∧ (sTasks.hw.core 0).stopped = true ∧
    ((List.range 32).filter fun i => let y := sTasks.hw.core 9; taskValid (y.task i) && decide (taskKind (y.task i) = 0) &&
      decide (taskParam (y.task i) = sTasks.hw.stk.beat)) = [1, 2] ∧ (sTasks.hw.core 9).running = none ∧ (sTasks.hw.core 9).ready = [] := by
  decide +kernel
/-- Of two tasks of one beat the one of the higher priority starts (R75); a stopped core triggers none. -/
theorem test_beat_tasks : goes (exec .beatTaskTrigger sTasks) fun t => (t.hw.core 9).running == some 2 &&
    (t.hw.core 9).ready == [{ task := 1, cycle := 0 }] && (t.hw.core 0).ready.isEmpty && t.hw.stk.triggered := by decide +kernel
theorem witness_BeatCycle_held : ({ flt := { recovery := some { stroke := 1, beat := 1, failedAt := 0, hold := true, records := [], remaps := [], page := none } } } : Hw).flt.held = true := by
  decide +kernel
theorem witness_TimeAndSync_StrokeTime : (sIdle []).hw.barOpen = true ∧ (sIdle []).hw.stk.state = .idle ∧
    (∀ p ∈ [35, 163840], bits (BitVec.ofNat 64 p).toNat 17 0 = p) ∧ bits (34 : W64).toNat 17 0 < 35 ∧
    sRun.hw.stk.state ≠ .idle ∧ ((sIdle []).hw.timeError 1000000).natAbs ≤ 1000000 ∧
    ((sIdle []).hw.timeError 1000001).natAbs > 1000000 ∧ (sIdle []).hw.stk.holdover = false := by decide +kernel
def sSync (mode : BitVec 2) : State := { hw := { stk := { num := 5, syncMode := mode, syncLink := 3, syncOk := true }, ports := [(3, { state := .up, syncMember := true })], pwr := { ownS := 20 } } }
def syncFrame (n : Byte) : SyncFrame :=
  let h : IdleFrame := { ack := 0, creditVc := 0, credit := 0, crc := 0 }
  let bs := syncPayload 5 100 110 n.toNat false false
  { stroke := 5, boundary := 100, departure := 110, s := n, late := false, halted := false, arrival := 500
    head := { h with crc := frameCrc (ctrlHead frSync 0 h bs) bs } }
theorem witness_TimeAndSync_StrokeSync : ∀ m ∈ [(0 : BitVec 2), 2], let s := sSync m; let k := s.hw.stk
    (s.hw.port 3).carries = true ∧ (s.hw.port 3).syncMember = true ∧ (syncFrame 20).crcOk = true ∧
    min 32 (max (nget 16 k.groupS 5) (syncFrame 20).s.toNat) ≤ max s.hw.pwr.ownS (nget 16 k.groupS 5) ∧
    k.syncMode = m ∧ k.syncLink.toNat = 3 ∧ k.state ≠ .shed ∧ k.syncOk = true := by decide +kernel
theorem witness_TimeAndSync_StrokeSync_rise : let s := sSync 2; let k := s.hw.stk; (syncFrame 24).stroke.toNat = k.num.toNat ∧
    (syncFrame 24).crcOk = true ∧ { syncFrame 24 with s := 25 }.crcOk = false ∧
    min 32 (max (nget 16 k.groupS 5) (syncFrame 24).s.toNat) > max s.hw.pwr.ownS (nget 16 k.groupS 5) := by decide +kernel
theorem witness_TimeAndSync_StrokeSync_lost : (sSync 2).hw.syncLocal = false := by decide +kernel

def actionOf (a : BAct) (ws rails aw : List Nat) : BAction := { act := a, wardens := ws, rails := rails, awaits := aw, started := true, byDriver := false }
def sActs (as : List BAction) : State := { hw := { glb := { gweku := true }, flt := { actions := as }, flds := [(3, { gwekuLink := true })] } }
def remap0 : Remap := { dead := 9, original := 9, spare := 10, detour := 0 }
/-- An action of two fields that awaits two wardens or one, or a rail group. -/
theorem witness_ReplaysAndActions_BoundaryActions : ∀ a ∈ [actionOf (.remap remap0) [3, 4] [] [3, 4], actionOf (.remap remap0) [3, 4] [] [3], actionOf (.park 4) [3] [1] [3], actionOf (.park 4) [3] [] [3]],
    let s := sActs [a]; s.hw.flt.actions = [a] ∧ a.started = true ∧ (3 : FieldIx).val ∈ a.awaits ∧
    (a.inField = true ∨ s.hw.reaches 3 = true) ∧ s.hw.spn.engines = [] ∧ s.hw.rampPending 4 = false ∧
    (s.hw.fld 3).gwekuLink = true := by decide +kernel
theorem witness_ReplaysAndActions_BoundaryActions_lists : (actionOf (.remap remap0) [3, 4] [] [3, 4]).awaits.erase 3 ≠ [] ∧
    (actionOf (.remap remap0) [3, 4] [] [3]).awaits.erase 3 = [] ∧ (actionOf (.park 4) [3] [] [3]).inField = true ∧
    (actionOf (.remap remap0) [3, 4] [] [3]).inField = false := by decide +kernel
/-- An action of other fields stands before the one that the warden acknowledges. -/
theorem witness_ReplaysAndActions_BoundaryActions_several : let z := actionOf (.unpark 7) [6, 7] [] [6]; let a := actionOf (.park 4) [3, 4] [] [3, 4]
    let s := sActs [z, a]; s.hw.flt.actions = [z] ++ a :: [] ∧ a.started = true ∧ 3 ∈ a.awaits ∧ a.awaits.Nodup ∧
    s.hw.reaches 3 = true ∧ z.act ≠ a.act ∧ 3 ∉ z.awaits := by decide +kernel
theorem witness_ReplaysAndActions_BoundaryActions_switch : let b := { billet0 with fabric := { billet0.fabric with detours := [{ park := false, field := 0, entries := [] }] } }
    let h : Hw := { flt := { detoursArmed := [0] }, running := some (loadedOf b), cores := [(9, coreX)] }
    h.routesDue = true ∧ h.stk.inBeat = false ∧ h.flt.held = false ∧ h.drained = true ∧ h.flt.actions = [] ∧ h.spn.engines = [] ∧
    h.image = some b ∧ nwf {} h.cores = true ∧ h.chooseSets h.flt.detoursArmed = h.flt.detoursArmed ∧ (h.core 9).mapped = true := by
  decide +kernel
theorem witness_ReplaysAndActions_BoundaryActions_not_drained : ({ flt := { detoursArmed := [0] }, running := some (loadedOf { billet0 with fabric := { billet0.fabric with detours := [{ park := false, field := 0, entries := [(0, 4, 0)] }] } }), fabric := [msg0], cores := [(0, coreX)] } : Hw).drained = false := by
  decide +kernel
def rec72 : Recovery := { stroke := 77, beat := 2, hold := true, failedAt := 0, records := [], remaps := [], page := none }
def sReplay : State := { hw := { stk := stkBeat, flt := { recovery := some rec72 }, running := some load0, cores := [(9, coreX)], snaps := [{ stroke := 77, beat := 2, epoch := 0, cores := [(9, { coreX with pc := 1 })], herders := [] }] } }
theorem witness_ReplaysAndActions_BeatReplays : let h := sReplay.hw; let v := rec72; let k := h.stk
    h.flt.recovery = some v ∧ v.hold = true ∧ v.page = none ∧ v.remaps = [] ∧ (v.stroke, v.beat) = (k.workStroke, k.beat) ∧
    h.flt.stopAll = false ∧ h.flt.actions = [] ∧ h.routesDue = false ∧
    (h.snaps.find? fun q => decide ((q.stroke, q.beat) = (v.stroke, v.beat))).isSome = true ∧ h.image = some billet0 ∧
    billet0.stroke.firstPost ≠ some v.beat ∧ billet0.kv = none ∧ (h.core 9).mapped = true := by decide +kernel
theorem test_replay_rewinds : goes (exec .beatReplay sReplay) fun t => (t.hw.core 9).pc == 1 && t.hw.stk.inBeat && !t.hw.flt.held := by
  decide +kernel
theorem witness_GwekuRestart : sRun.hw.glb.gweku = true ∧ sRun.hw.mbx.long = none ∧ sRun.hw.glb.logs = false ∧
    sRun.hw.glb.retained = false ∧ ({ glb := { restarting := true, retained := true } } : Hw).glb.restarting = true ∧
    ({ mbx := { state := .running } } : Hw).mbx.state = .running := by decide +kernel
def sTest (st : FldState) : State := { sIdle [] with hw := { (sIdle []).hw with flds := [(3, { state := st })] } }
theorem witness_PowerAndFields : let h := (sTest .test).hw
    h.running = none ∧ h.armed = none ∧ h.flt.recovery = none ∧ h.mbx.long = none ∧ h.stk.state ≠ .shed ∧ (h.fld 3).state = .test ∧
    (5 : BitVec 18) ≠ BitVec.allOnes 18 ∧ ((sTest .ready).hw.fld 3).state ≠ .off := by decide +kernel

theorem witness_RingsAndLogs : let x : Flt := { valid := 1, head := 1, tValid := 8, tHead := 8 }
    x.faultFill ≤ faultLogSize / 2 ∧ x.trailFill ≤ trailLogSize / 2 ∧ x.valid = x.flashed + 1 ∧ x.head = x.valid ∧
    x.tHead = x.tValid ∧ 0 < (x.tValid - x.tFlashed).toNat ∧ (x.tValid - x.tFlashed).toNat ≤ trailRing ∧
    ((1 : W32) - x.tail).toNat ≤ (x.valid - x.tail).toNat ∧ ((2 : W32) - x.tail).toNat > (x.valid - x.tail).toNat ∧
    (8 : W64).toNat % 8 = 0 ∧ ((8 : W64) - x.tTail).toNat ≤ (x.tValid - x.tTail).toNat ∧ (7 : W64).toNat % 8 ≠ 0 := by
  decide +kernel
theorem witness_RingsAndLogs_refill : let x : Flt := { valid := 1, head := 2, tValid := 8, tHead := 16 }
    let l : Flash := { faultLog := [(1, [9])], trailLog := [(0, []), (8, [1, 2, 3, 4, 5, 6, 7, 8])] }
    x.head = x.valid + 1 ∧ max (x.valid - x.tail).toNat (x.valid - x.flashed).toNat + 1 ≤ faultRing ∧
    l.faultLog.find? (fun e => decide (e.1 = x.valid.toNat % faultLogSize)) = some (1, [9]) ∧
    x.head ≠ x.valid ∧ l.trailLog.find? (fun e => decide (e.1 = x.tValid.toNat) && !e.2.isEmpty) = some (8, [1, 2, 3, 4, 5, 6, 7, 8]) ∧
    x.tValid.toNat + 8 ≤ min x.tTail.toNat x.tFlashed.toNat + trailRing ∧ x.tHead ≠ x.tValid := by decide +kernel
theorem witness_RingsAndLogs_telemetry : let x : Flt := { telEnable := true }; let y : Flt := { telEnable := true, telHead := BitVec.ofNat 32 x.telRecords }
    x.telDrops 0 = false ∧ sRun.hw.spanStatus sRun.hw.spn.rank.toNat (addrOff x.telBase.toNat + x.telHead.toNat % x.telRecords * 64) 64 = 0 ∧ addrOff x.telBase.toNat % 64 = 0 ∧
    y.telDrops 0 = true ∧ y.telDrops 3 = true := by decide +kernel

theorem witness_HearthReadings : let w : Pwr := { steps := [2, 1], forecast := 100 }; let v : W64 := 0x5A0000 + 0x50 * 2 ^ 9 + 0x40 * 4
    w.steps = 2 :: [1] ∧ 2 ∉ [1] ∧ w.forecast < w.entry 2 - 48 ∧ w.ownS = 16 ∧ w.coolantLost = false ∧
    (sRun.hw.fld 3).suspects.getLsbD 2 = false ∧
    ({ sensors := List.replicate 4 (0, true) ++ [(320, true), (272, false), (320, true), (271, true)] } : Field).apart 3 = true ∧ sRun.hw.barOpen = true ∧ bits v.toNat 8 2 < bits v.toNat 15 9 ∧
    bits v.toNat 15 9 < bits v.toNat 22 16 ∧ bits v.toNat 22 16 < 95 ∧ bits (0 : W64).toNat 15 9 ≤ bits (0 : W64).toNat 8 2 := by
  decide +kernel
theorem witness_FieldParks : let s := sRun; let w := s.hw.pwr; let x : Field := { park := .parked, state := .parked, forecast := 100 }
    s.hw.barOpen = true ∧ w.prkStatus ≠ 1 ∧ (47 : BitVec 6).toNat < 48 ∧ (48 : BitVec 6).toNat ≥ 48 ∧ x.park = .parked ∧
    x.state = .parked ∧ x.parkedByDriver = false ∧ s.hw.flt.actions = [] ∧ x.forecast < w.entry 3 - 48 ∧
    w.entry 3 ≤ ({ x with forecast := 100000 } : Field).forecast ∧ ({ x with ramping := true } : Field).ramping = true ∧
    w.shed = 0 ∧ w.rampQ = [] ∧ s.hw.spn.engines = [] ∧ ({ w with prkStatus := 1 } : Pwr).prkStatus = 1 := by decide +kernel
/-- A field that is too hot no longer unparks, all its wardens reached. -/
theorem witness_FieldParks_withdraw : let x : Field := { park := .parked, state := .parked, forecast := 100, gwekuLink := true }
    let h : Hw := { glb := { gweku := true }, flds := [(2, x), (3, x)], flt := { actions := [actionOf (.unpark 7) [6, 7] [] [6]] } }
    let o : Hw := { h with flt := {} }
    x.parkedByDriver = false ∧ h.actionOn 3 = false ∧ x.forecast < h.pwr.entry 3 - 48 ∧ (∀ n ∈ h.unparkFields 3, h.reaches n = true) ∧
    o.flt.actions = [] ∧ o.reaches 3 = true ∧ o.reaches (3 ^^^ 1) = true := by decide +kernel
theorem witness_EmergencyShed : sRun.hw.stk.state ≠ .shed ∧ (5 : W32) ≠ 0x5AED0054 ∧ sRun.hw.pwr.shed ≠ 2 ∧
    ({ valid := true, flow := 1799 } : Pwr).flow.toNat < 1800 ∧ 3600 ≤ ({ valid := true, flow := 3600, shed := 1 } : Pwr).flow.toNat ∧
    sRun.hw.anyPairAt 105 = false ∧ ({ shed := 1 } : Pwr).recordsSecured = false ∧ ({ shed := 2 } : Pwr).flowReturned = false := by
  decide +kernel
theorem witness_EmergencyShed_hot : (({ flds := [(3, { sensors := [(1680, true)] })], pwr := { shed := 2 } } : Hw).anyPairAt 105) = true ∧
    (({ flds := [(3, { sensors := [(1679, true), (1680, false)] })] } : Hw).anyPairAt 105) = false := by
  decide +kernel
theorem witness_Touchmarks : sRun.hw.barOpen = true ∧ (sRun.tmk 31).queue = [] ∧ bits (6 : W64).toNat 1 0 ≠ 3 ∧
    (6 : W64).getLsbD 2 = true ∧ bits (7 : W64).toNat 1 0 = 3 ∧ State.reset.pending = [] ∧
    (let s : State := { State.reset with tmks := [(31, { queue := [.byte 5] })] }
     s.tmks = [(31, s.tmk 31)] ∧ (s.tmk 31).queue = .byte 5 :: [] ∧ { s with hw := sRun.hw }.hw.barOpen = true) := by decide +kernel
theorem witness_RegisterWrites : State.reset.hw.barOpen = false ∧ (0x50010 : BitVec 24).toNat ≠ 0x50018 ∧ sRun.hw.barOpen = true ∧
    (0x50014 : BitVec 24).toNat % 8 ≠ 0 ∧ ¬ (0x18000 ≤ (0x50014 : BitVec 24).toNat ∧ (0x50014 : BitVec 24).toNat < 0x20000) ∧
    ¬ (0x40000 ≤ (0x50014 : BitVec 24).toNat ∧ (0x50014 : BitVec 24).toNat < 0x40800) := by decide +kernel
theorem witness_StepRunsFront : ({ State.reset with pending := [.health] } : State).pending = [.health] := rfl
theorem witness_EveryCommandGoesOn : let h := (sHerd layer1 herd1).hw
    nwf {} h.herders = true ∧ h.tst.injArm = false := by decide +kernel
theorem witness_TouchmarksStaySound : State.reset.tmksSound ∧
    goes (exec (.tmkDataWrite 3 8 0x0102030405060708) sRun) (fun t => (t.tmk 3).queue.length == 8) = true := by
  refine ⟨⟨rfl, fun _ h => absurd h (by simp [State.reset]), fun u => ?_⟩, by decide +kernel⟩
  show Tmk.sound {}
  exact ⟨by decide, .inr (by decide), .inl rfl, by simp, by simp⟩
theorem witness_ModuleIdentity : goes (exec (.registerWrite 0 8 5) sRun) (fun _ => true) = true := by decide +kernel
theorem witness_RoundingGenerator : (5 : W64) ≠ 0 ∧ (3 : W32) = ({ imm := 3, srcA := 1 } : Ins).imm ∧
    (let c : CoreSec := { billet0.core with map := [(9, 0)], images := [{ instrCount := 0, taskCount := 0, routeSet := 0, tasks := [], instrs := [], formats := [], inits := [], inside := true }] }
     (9, 0) ∈ c.map ∧ (∀ e ∈ c.map, e.1 = 9 → e.2 = 0) ∧ c.images[0]?.isSome = true) ∧
    may coreX 1 { imm := 3, srcA := 1 } { srcA := true, imm := 0xFFFFFFFF } (isS (1 : BitVec 5)) ∧
    may coreX 1 { imm := 3, dst := 1 } { dst := true, imm := 0xFFFFFFFF } (isS (1 : BitVec 5)) := by
  unfold may MayIssue Fetches; decide +kernel
/-- A descriptor of an MX format, its scale bytes at 0x3000. -/
def descMx : Desc := BitVec.ofNat 128 (0x2000 + 32 * 2 ^ 16 + 1 * 2 ^ 32 + 32 * 2 ^ 48 + 0x3000 * 2 ^ 64 + 1 * 2 ^ 80 + 6 * 2 ^ 96)
theorem witness_ScaleBytes : isMx (dFmt descMx) = true ∧
    (nget (0 : Byte) [(scaleAddr descMx (lineOf descMx 0 0) (posOf descMx 0 0), 0xFF)] (scaleAddr descMx (lineOf descMx 0 0) (posOf descMx 0 0))).toNat = 0xFF ∧
    isLq4 (dFmt (BitVec.ofNat 128 (13 * 2 ^ 96))) = true := by decide +kernel
theorem witness_Doorbells : let x : Qp := { enable := true, sqLog := 6, cqLog := 6, cqTail := 5, cqHead := 4 }
    x.cqFill ≤ x.cqSize ∧ ¬ (x.enable = false ∨ ((64 : W32) - x.sqTail).toNat ≥ 2 ^ 31 ∨ ((64 : W32) - x.sqHead).toNat > 2 ^ x.sqLog.toNat) ∧
    ((65 : W32) - x.sqHead).toNat > 2 ^ x.sqLog.toNat ∧ ((0xFFFFFFFF : W32) - x.sqTail).toNat ≥ 2 ^ 31 ∧
    ¬ (x.enable = false ∨ ((5 : W32) - x.cqHead).toNat > (x.cqTail - x.cqHead).toNat) ∧
    ((6 : W32) - x.cqHead).toNat > (x.cqTail - x.cqHead).toNat ∧ ((3 : W32) - x.cqHead).toNat > (x.cqTail - x.cqHead).toNat := by
  decide +kernel
theorem witness_ResultWindows : sRun.hw.barOpen = true ∧ (sRun.tmk 0).queue = [] ∧
    (let s : State := { sRun with tmks := [(0, { queue := [.byte 1], rdEarly := true })] }
     (s.tmk 0).queue ≠ [] ∧ (s.tmk 0).rdEarly = true ∧ nwf {} s.tmks = true ∧ (1 : W64).getLsbD 1 = false ∧
     (2 : W64).getLsbD 1 = true) := by decide +kernel
/-- The check values that the manual gives for "123456789" under the three algorithms (R399). -/
theorem test_touchmark_crc32c :
    ([0x31, 0x32, 0x33, 0x34, 0x35, 0x36, 0x37, 0x38, 0x39] : List Byte).foldl (tmkFeed 0) (tmkInit 0) ^^^ tmkXor 0 = 0xE3069283 := by
  decide +kernel
theorem test_touchmark_ieee :
    ([0x31, 0x32, 0x33, 0x34, 0x35, 0x36, 0x37, 0x38, 0x39] : List Byte).foldl (tmkFeed 1) (tmkInit 1) ^^^ tmkXor 1 = 0xCBF43926 := by
  decide +kernel
theorem test_touchmark_ecma :
    ([0x31, 0x32, 0x33, 0x34, 0x35, 0x36, 0x37, 0x38, 0x39] : List Byte).foldl (crcByteL 64 polyEcma) 0 = 0x6C40DF5F0B497347 := by
  decide +kernel

end Sys2Proof.Tests
end

section
/-!
# BAR0 accesses: writes that are discarded, and the identity register (R5-R8, R378, R403, R425)

A write before the firmware runs is discarded because every command that REGISTER_WRITE carries out passes `Hw.bar0` or
`State.writeUnit`. The lemmas `…_of_closed` follow the map from those two gates up to the whole write; PWR_SHED alone has
an effect whether the gate is open or not.
-/
namespace Sys2Proof.Machine

/-! ## The two gates of a BAR0 write -/

theorem act_bar0_of_closed {s : State} (h : s.hw.barOpen = false) (k : Hw → Hw) :
    s.act (fun x => x.bar0 k) = .next s := by
  simp [State.act, Hw.bar0, h]

theorem act_bar0_of_open {s : State} (h : s.hw.barOpen = true) (k : Hw → Hw) :
    s.act (fun x => x.bar0 k) = .next { s with hw := k { s.hw with tst := { s.hw.tst with armedKey := false } } } := by
  simp [State.act, Hw.bar0, h]

theorem writeUnit_of_closed {s : State} (h : s.hw.barOpen = false) (u : Nat) (f : Tmk → Tmk) : s.writeUnit u f = s := by
  simp [State.writeUnit, h]

theorem ite_eq_of_both {α : Type} {p : Prop} [Decidable p] {x y r : α} (hx : x = r) (hy : y = r) :
    (if p then x else y) = r :=
  ite_eq_iff'.2 ⟨fun _ => hx, fun _ => hy⟩

@[simp] theorem nextOr_next (s t : State) : nextOr s (.next t) = t := rfl

/-! ## A write as REGISTER_WRITE: the three parts of the map -/

theorem exec_registerWrite_narrow {off : BitVec 24} {w : Nat} (h : w ≠ 8 ∨ off.toNat % 8 ≠ 0) (v : W64) (s : State) :
    exec (.registerWrite off w v) s = writeNarrow off.toNat w v s :=
  if_pos h

theorem exec_registerWrite_low {off : BitVec 24} (h8 : off.toNat % 8 = 0) (hoff : off.toNat < 0x80000) (v : W64) (s : State) :
    exec (.registerWrite off 8 v) s = writeLow off.toNat v s :=
  (if_neg (by simp [h8])).trans (if_pos hoff)

theorem exec_registerWrite_high {off : BitVec 24} (h8 : off.toNat % 8 = 0) (hoff : ¬ off.toNat < 0x80000) (v : W64) (s : State) :
    exec (.registerWrite off 8 v) s = writeHigh off.toNat v s :=
  (if_neg (by simp [h8])).trans (if_neg hoff)

/-! ## Writes before the firmware runs (R403) -/

section Closed
variable {s : State} (h : s.hw.barOpen = false)
include h

theorem loadPackage_of_closed (tag : W32) (c op a source : Nat) : s.hw.loadPackage tag c op a source = s.hw := by
  simp [Hw.loadPackage, Hw.mbxCommand, Hw.bar0, h]

theorem loadCommand_of_closed (tag : W32) (p : List Byte) : s.loadCommand tag p = .next s := by
  unfold State.loadCommand
  split
  · exact act_bar0_of_closed h _
  · dsimp only
    split
    case h_1 => simp only [execLoadBase, State.act, loadPackage_of_closed h]
    case h_2 => simp only [execLoadAdapter, State.act, loadPackage_of_closed h]
    all_goals exact act_bar0_of_closed h _

/-- The fourth command, LOAD_WEIGHTS, divides further by its op (R386). -/
theorem doorbell_of_closed : s.doorbell = .next s := by
  unfold State.doorbell
  dsimp only
  split
  · exact act_bar0_of_closed h _
  · split
    case h_4 => exact loadCommand_of_closed h _ _
    all_goals exact act_bar0_of_closed h _

theorem writeMbx_of_closed (o : Nat) (v : W64) : s.writeMbx o v = .next s := by
  unfold State.writeMbx
  split
  · exact act_bar0_of_closed h _
  · split
    case h_1 => simp only [doorbell_of_closed h, act_bar0_of_closed h, ite_self]
    all_goals exact act_bar0_of_closed h _

theorem writeTmk_of_closed (u : Fin 32) (o : Nat) (v : W64) : writeTmk u o v s = .next s := by
  unfold writeTmk
  split
  case h_5 => exact act_bar0_of_closed h _
  all_goals exact congrArg _ (writeUnit_of_closed h _ _)

theorem writeHrdCtl_of_closed (f : FieldIx) (v : W64) : writeHrdCtl f v s = .next s := by
  have hcommit (l : BitVec 8) : execBiasCommit f l s = .next s := act_bar0_of_closed h _
  have habort : execSortAbort f s = .next s := act_bar0_of_closed h _
  simp only [writeHrdCtl, act_bar0_of_closed h, nextOr_next, hcommit, habort, ite_self]

theorem writeHrd_of_closed (f : FieldIx) (o : Nat) (v : W64) : writeHrd f o v s = .next s := by
  unfold writeHrd
  split
  · exact writeHrdCtl_of_closed h _ _
  · exact act_bar0_of_closed h _
  · exact act_bar0_of_closed h _

theorem writeLnkCtl_of_closed (p : PortIx) (v : W64) : writeLnkCtl p v s = .next s := by
  have henable : execLinkEnable p s = .next s := act_bar0_of_closed h _
  have hdisable : execLinkDisable p s = .next s := act_bar0_of_closed h _
  have hretire : execLinkRetire p s = .next s := act_bar0_of_closed h _
  have hcancel : execLinkRetireCancel p s = .next s := act_bar0_of_closed h _
  simp only [writeLnkCtl, act_bar0_of_closed h, nextOr_next, henable, hdisable, hretire, hcancel, ite_self]

theorem writeRed_of_closed (o : Nat) (v : W64) : writeRed o v s = .next s := by
  unfold writeRed
  dsimp only
  split
  case h_2 => split <;> exact act_bar0_of_closed h _
  all_goals exact act_bar0_of_closed h _

theorem writeEng_of_closed (e : FieldIx) (o : Nat) (v : W64) : writeEng e o v s = .next s := by
  unfold writeEng
  split <;> exact act_bar0_of_closed h _

theorem writeKvOp_of_closed (v : W64) : writeKvOp v s = .next s := by
  unfold writeKvOp
  dsimp only
  split <;> exact act_bar0_of_closed h _

theorem writePfx_of_closed (v : W64) : writePfx v s = .next s := by
  unfold writePfx
  dsimp only
  split <;> exact act_bar0_of_closed h _

theorem execTstUnlock_of_closed (key : W32) : execTstUnlock key s = .next s := by
  simp [execTstUnlock, State.act, h]

theorem writeNarrow_of_closed (off w : Nat) (v : W64) : writeNarrow off w v s = .next s := by
  unfold writeNarrow
  split
  · exact act_bar0_of_closed h _
  · split
    · split
      · exact congrArg _ (writeUnit_of_closed h _ _)
      · exact act_bar0_of_closed h _
    · exact act_bar0_of_closed h _

/-- PWR_SHED at 0x50018 is left out: its key acts before the firmware runs too. -/
theorem writeLow_of_closed {off : Nat} (hoff : off ≠ 0x50018) (v : W64) : writeLow off v s = .next s := by
  have hcfg : execStkCfgWrite v s = .next s := act_bar0_of_closed h _
  have hthm : execThmCfgWrite v s = .next s := act_bar0_of_closed h _
  have hring : execFltRingTailWrite v s = .next s := act_bar0_of_closed h _
  have htrail : execFltTrailTailWrite v s = .next s := act_bar0_of_closed h _
  have hinj : execTstInjArm v s = .next s := act_bar0_of_closed h _
  unfold writeLow
  cases window 32 off 0x40000 0x40 <;>
    simp only [if_neg hoff, act_bar0_of_closed h, writeMbx_of_closed h, writeTmk_of_closed h, execTstUnlock_of_closed h, hcfg,
      hthm, hring, htrail, hinj, ite_self]

theorem writeHigh_of_closed (off : Nat) (v : W64) : writeHigh off v s = .next s := by
  unfold writeHigh
  refine ite_eq_of_both ?fld <| ite_eq_of_both ?hrd <| ite_eq_of_both ?tongsRequest <| ite_eq_of_both ?tng <|
    ite_eq_of_both ?lnk <| ite_eq_of_both ?tableCommit <| ite_eq_of_both ?spn <| ite_eq_of_both ?red <|
    ite_eq_of_both ?eng <| ite_eq_of_both ?qpc <| ite_eq_of_both ?kvOp <| ite_eq_of_both ?pfx ?kvp
  case fld => split <;> exact act_bar0_of_closed h _
  case hrd =>
    split
    · exact writeHrd_of_closed h _ _ _
    · exact act_bar0_of_closed h _
  case tongsRequest => exact if_neg (by simp [h])
  case lnk =>
    split
    · exact ite_eq_of_both (writeLnkCtl_of_closed h _ _) (act_bar0_of_closed h _)
    · exact act_bar0_of_closed h _
  case red => exact writeRed_of_closed h _ _
  case eng =>
    split
    · exact writeEng_of_closed h _ _ _
    · exact act_bar0_of_closed h _
  case qpc => exact ite_eq_of_both (act_bar0_of_closed h _) (act_bar0_of_closed h _)
  case kvOp => exact writeKvOp_of_closed h _
  case pfx => exact writePfx_of_closed h _
  case tng | tableCommit | spn | kvp => exact act_bar0_of_closed h _

theorem exec_registerWrite_of_closed {off : BitVec 24} (hoff : off.toNat ≠ 0x50018) (w : Nat) (v : W64) :
    exec (.registerWrite off w v) s = .next s := by
  by_cases hw : w ≠ 8 ∨ off.toNat % 8 ≠ 0
  · rw [exec_registerWrite_narrow hw, writeNarrow_of_closed h]
  · obtain ⟨rfl, h8⟩ : w = 8 ∧ off.toNat % 8 = 0 := by omega
    by_cases hlow : off.toNat < 0x80000
    · rw [exec_registerWrite_low h8 hlow, writeLow_of_closed h hoff]
    · rw [exec_registerWrite_high h8 hlow, writeHigh_of_closed h]

end Closed

/-! ## Writes that are discarded for their width or place (R5) -/

theorem window_eq_none {n off base size : Nat} (h : n ≤ (off - base) / size) : window n off base size = none :=
  dif_neg (by omega)

/-- Outside the MSI-X table and the touchmark units a narrow or misplaced write does no more than any BAR0 write does. -/
theorem writeNarrow_of_outside {off : Nat} (htable : ¬ (0x18000 ≤ off ∧ off < 0x20000))
    (htmk : ¬ (0x40000 ≤ off ∧ off < 0x40800)) (w : Nat) (v : W64) (s : State) :
    writeNarrow off w v s = s.act (fun x => x.bar0 id) := by
  have hno : inTable off = false := by simpa [inTable] using htable
  unfold writeNarrow
  rw [if_neg (by simp [hno])]
  refine ite_eq_iff'.2 ⟨fun hport => ?_, fun _ => rfl⟩
  rw [window_eq_none (by omega)]

/-! ## The statements -/

/-- Settles O51: the gates of a BAR0 write, followed up to the map, and the map evaluated at the offsets that are named. -/
theorem registerWrites : Obligations.RegisterWrites := by
  unfold Obligations.RegisterWrites
  intro s v off w
  refine ⟨fun hclosed hoff => exec_registerWrite_of_closed hclosed hoff w v, fun hopen => ⟨?narrow, ?flags, ?mask⟩,
    ?stkCfg, ?pwrShed, ?thmCfg, ?tstUnlock, ?lscale⟩
  case narrow =>
    intro hw htable htmk
    rw [exec_registerWrite_narrow hw, writeNarrow_of_outside htable htmk, act_bar0_of_open hopen]
    rfl
  case flags => exact act_bar0_of_open hopen (Hw.writeEvt · 0 v)
  case mask => exact act_bar0_of_open hopen (Hw.writeEvt · 8 v)
  case stkCfg | pwrShed | thmCfg | tstUnlock => rfl
  case lscale =>
    have hmap : writeHigh 0x500F00 v s = execLscaleWrite v s := by simp [writeHigh, writeRed]
    exact (exec_registerWrite_high (by decide) (by decide) v s).trans hmap

theorem regRead_glbId (s : State) : s.regRead 0 = 0xD2215748 := rfl

theorem bar0Read_glbId (s : State) : s.bar0Read 0 8 = leBytes 8 0xD2215748 := by
  simp [State.bar0Read, regRead_glbId]

/-- Settles O56: the read of GLB_ID depends on nothing in the state. -/
theorem moduleIdentity : Obligations.ModuleIdentity := by
  unfold Obligations.ModuleIdentity
  intro s t v
  refine ⟨bar0Read_glbId s, bar0Read_glbId _, ?fields, fun _ => ?afterWrite⟩
  case fields =>
    rw [regRead_glbId]
    decide
  case afterWrite => rw [bar0Read_glbId, bar0Read_glbId]

end Sys2Proof.Machine
end

section
/-!
# What the shared operations leave alone

Four relations between the module before and after an operation. `Quiet` holds of an operation that touches neither the
cores and the routes in force, nor the fields and what the wardens owe, nor what the driver set up; the other three are
its parts, for operations that keep one of them only. An uncontained fault gives up the remaps that wait, so the boundary
actions may become fewer (R340).
-/
namespace Sys2Proof.Machine

/-- The route epoch, the detour sets in force, those armed and those armed for withdrawal. -/
abbrev Hw.routing (s : Hw) : W64 × List Nat × List Nat × List Nat :=
  (s.routeEpoch, s.flt.detoursOn, s.flt.detoursArmed, s.flt.withdrawArmed)

/-- What the work of a stroke may not change: cores and routes. -/
abbrev Hw.workPart (s : Hw) := (s.cores, s.routing)

/-- What power and wardens decide: fields, routes, boundary actions. -/
abbrev Hw.powerPart (s : Hw) := (s.flds, s.routing, s.flt.actions)

/-- What the driver set up: queue pairs, event mask, mailbox version, test registers, ports, the armed billet. -/
abbrev Hw.driverPart (s : Hw) := (s.qps, s.evt.mask, s.mbx.version, s.tst, s.ports, s.armed)

/-- Cores and routes are the same. -/
structure SameWork (s t : Hw) : Prop where
  cores : t.cores = s.cores
  routing : t.routing = s.routing

/-- Fields and routes are the same, and no boundary action is new. -/
structure SamePower (s t : Hw) : Prop where
  flds : t.flds = s.flds
  routing : t.routing = s.routing
  actions : t.flt.actions.Sublist s.flt.actions

/-- What the driver set up is the same. -/
structure SameDriver (s t : Hw) : Prop where
  qps : t.qps = s.qps
  mask : t.evt.mask = s.evt.mask
  version : t.mbx.version = s.mbx.version
  tst : t.tst = s.tst
  ports : t.ports = s.ports
  armed : t.armed = s.armed

/-- Nothing of the three changes. -/
structure Quiet (s t : Hw) : Prop extends SameWork s t, SamePower s t, SameDriver s t

/-! ## The relations compose -/

theorem SameWork.refl (s : Hw) : SameWork s s := ⟨rfl, rfl⟩
theorem SamePower.refl (s : Hw) : SamePower s s := ⟨rfl, rfl, List.Sublist.refl _⟩
theorem SameDriver.refl (s : Hw) : SameDriver s s := ⟨rfl, rfl, rfl, rfl, rfl, rfl⟩
theorem Quiet.refl (s : Hw) : Quiet s s := ⟨.refl s, rfl, List.Sublist.refl _, .refl s⟩

section Compose
variable {s t u : Hw}

theorem SameWork.trans (h : SameWork s t) (g : SameWork t u) : SameWork s u :=
  ⟨g.cores.trans h.cores, g.routing.trans h.routing⟩
theorem SamePower.trans (h : SamePower s t) (g : SamePower t u) : SamePower s u :=
  ⟨g.flds.trans h.flds, g.routing.trans h.routing, g.actions.trans h.actions⟩
theorem SamePower.fld (h : SamePower s t) (n : Nat) : t.fld n = s.fld n := by rw [Hw.fld, h.flds, Hw.fld]
theorem SameDriver.trans (h : SameDriver s t) (g : SameDriver t u) : SameDriver s u :=
  ⟨g.qps.trans h.qps, g.mask.trans h.mask, g.version.trans h.version, g.tst.trans h.tst, g.ports.trans h.ports,
    g.armed.trans h.armed⟩

theorem Quiet.work (h : Quiet s t) : SameWork s t := h.toSameWork
theorem Quiet.power (h : Quiet s t) : SamePower s t := ⟨h.flds, h.routing, h.actions⟩
theorem Quiet.driver (h : Quiet s t) : SameDriver s t := h.toSameDriver
theorem Quiet.of (w : SameWork s t) (p : SamePower s t) (d : SameDriver s t) : Quiet s t := ⟨w, p.flds, p.actions, d⟩
theorem Quiet.trans (h : Quiet s t) (g : Quiet t u) : Quiet s u :=
  .of (h.work.trans g.work) (h.power.trans g.power) (h.driver.trans g.driver)

/-- A change elsewhere after what the relation covers, by the shape of the update. -/
theorem SameWork.set (h : SameWork s t) (same : u.workPart = t.workPart) : SameWork s u := by
  obtain ⟨cores, routing⟩ := Prod.mk.inj same
  exact h.trans ⟨cores, routing⟩
theorem SamePower.set (h : SamePower s t) (same : u.powerPart = t.powerPart) : SamePower s u := by
  obtain ⟨flds, rest⟩ := Prod.mk.inj same
  obtain ⟨routing, actions⟩ := Prod.mk.inj rest
  exact h.trans ⟨flds, routing, actions ▸ List.Sublist.refl _⟩
theorem SameDriver.set (h : SameDriver s t) (same : u.driverPart = t.driverPart) : SameDriver s u := by
  simp only [Hw.driverPart, Prod.mk.injEq] at same
  obtain ⟨qps, mask, version, tst, ports, armed⟩ := same
  exact h.trans ⟨qps, mask, version, tst, ports, armed⟩
theorem Quiet.set (h : Quiet s t) (same : (u.workPart, u.powerPart, u.driverPart) = (t.workPart, t.powerPart, t.driverPart)) :
    Quiet s u := by
  obtain ⟨work, rest⟩ := Prod.mk.inj same
  obtain ⟨power, driver⟩ := Prod.mk.inj rest
  exact .of (h.work.set work) (h.power.set power) (h.driver.set driver)

end Compose

section Folds
variable {α : Type} {f : Hw → α → Hw}

theorem SameWork.foldl (step : ∀ s x, SameWork s (f s x)) (l : List α) (s : Hw) : SameWork s (l.foldl f s) :=
  l.foldlRecOn f (.refl s) fun _ h x _ => h.trans (step _ x)
theorem SamePower.foldl (step : ∀ s x, SamePower s (f s x)) (l : List α) (s : Hw) : SamePower s (l.foldl f s) :=
  l.foldlRecOn f (.refl s) fun _ h x _ => h.trans (step _ x)
theorem SameDriver.foldl (step : ∀ s x, SameDriver s (f s x)) (l : List α) (s : Hw) : SameDriver s (l.foldl f s) :=
  l.foldlRecOn f (.refl s) fun _ h x _ => h.trans (step _ x)
theorem Quiet.foldl (step : ∀ s x, Quiet s (f s x)) (l : List α) (s : Hw) : Quiet s (l.foldl f s) :=
  l.foldlRecOn f (.refl s) fun _ h x _ => h.trans (step _ x)

end Folds

/-! ## Events and fault records -/

theorem fireVector_quiet (s : Hw) (v : Nat) : Quiet s (s.fireVector v) := by
  unfold Hw.fireVector
  split <;> exact (Quiet.refl s).set (by with_reducible rfl)

theorem raise_quiet (s : Hw) (n : Nat) : Quiet s (s.raise n) := by
  unfold Hw.raise
  dsimp only
  split
  · exact ((Quiet.refl s).set (by with_reducible rfl)).trans (fireVector_quiet _ _)
  · exact (Quiet.refl s).set (by with_reducible rfl)

theorem memWrite_quiet (s : Hw) (off : Nat) (bs : List Byte) : Quiet s (s.memWrite off bs) :=
  Quiet.set (t := s) (u := { s with mem := nputList 0 s.mem off bs }) (.refl s) (by with_reducible rfl)

theorem commitRecord_quiet (s : Hw) (r : FaultRec) : Quiet s (s.commitRecord r) := by
  have routes : (s.commitRecord r).routing = s.routing ∧ (s.commitRecord r).flt.actions = s.flt.actions := by
    unfold Hw.commitRecord
    dsimp only
    split <;> simp [Hw.routing]
  obtain ⟨routing, actions⟩ := routes
  exact .of ⟨commitRecord_cores s r, routing⟩ ⟨commitRecord_flds s r, routing, actions ▸ List.Sublist.refl _⟩
    ⟨commitRecord_qps s r, by rw [commitRecord_evt], by rw [commitRecord_mbx], commitRecord_tst s r, commitRecord_ports s r,
      commitRecord_armed s r⟩

theorem emitRecord_quiet (s : Hw) (r : FaultRec) : Quiet s (s.emitRecord r) := by
  unfold Hw.emitRecord
  dsimp only
  split <;> split
  case isTrue.isTrue | isFalse.isTrue => exact (Quiet.refl s).set (by with_reducible rfl)
  case isTrue.isFalse | isFalse.isFalse =>
    exact ((Quiet.refl s).set (by with_reducible rfl)).trans (commitRecord_quiet _ _)

theorem writeRecord_quiet (s : Hw) (i : RecIn) : Quiet s (s.writeRecord i) := emitRecord_quiet _ _

theorem judgeHigh_quiet (s : Hw) : Quiet s s.judgeHigh := by
  have high (b : Bool) (t : Hw) : Quiet t (if b then t.raise 33 else t) := by
    split
    · exact raise_quiet _ _
    · exact .refl _
  unfold Hw.judgeHigh
  exact ((high _ _).trans (high _ _)).set (by with_reducible rfl)

theorem closeRecovery_quiet (s : Hw) (serial : Nat) : Quiet s (s.closeRecovery serial) := by
  unfold Hw.closeRecovery
  split
  · exact .refl s
  · next v _ =>
    have h := Quiet.foldl (fun s (r : FaultRec) => emitRecord_quiet s { r with outcome := .uncontained, related := some serial })
      v.records s
    exact h.trans (.of ⟨rfl, rfl⟩ ⟨rfl, rfl, List.filter_sublist⟩ ⟨rfl, rfl, rfl, rfl, rfl, rfl⟩)

theorem stopUncontained_quiet (s : Hw) (serial : Nat) : Quiet s (s.stopUncontained serial) := by
  have h := (closeRecovery_quiet s serial).trans (raise_quiet _ 32)
  unfold Hw.stopUncontained
  dsimp only
  split <;> exact h.set (by with_reducible rfl)

theorem judgeFull_quiet (s : Hw) : Quiet s s.judgeFull := by
  have full (b : Bool) (t : Hw) (i : RecIn) (n : Nat) :
      Quiet t (if b then ((t.writeRecord i).stopUncontained n).raise 34 else t) := by
    split
    · exact ((writeRecord_quiet _ _).trans (stopUncontained_quiet _ _)).trans (raise_quiet _ _)
    · exact .refl _
  unfold Hw.judgeFull
  exact ((full _ _ _ _).trans (full _ _ _ _)).set (by with_reducible rfl)

theorem record_quiet (s : Hw) (i : RecIn) : Quiet s (s.record i) :=
  ((writeRecord_quiet s i).trans (judgeHigh_quiet _)).trans (judgeFull_quiet _)

theorem uncontain_quiet (s : Hw) (i : RecIn) : Quiet s (s.uncontain i) :=
  (((writeRecord_quiet s _).trans (stopUncontained_quiet _ _)).trans (judgeHigh_quiet _)).trans (judgeFull_quiet _)

/-! ## Requests at arbiters and memory -/

theorem setArb_quiet (s : Hw) (k : Nat) (a : Arb) : Quiet s (s.setArb k a) :=
  Quiet.set (t := s) (u := { s with arbs := nput {} s.arbs k a }) (.refl s) (by with_reducible rfl)

theorem arbRaise_quiet (s : Hw) (f kind inst input count : Nat) : Quiet s (s.arbRaise f kind inst input count) := by
  unfold Hw.arbRaise
  dsimp only
  split <;> exact setArb_quiet _ _ _

theorem arbSet_quiet (s : Hw) (f kind inst input n : Nat) : Quiet s (s.arbSet f kind inst input n) := by
  unfold Hw.arbSet
  dsimp only
  split
  · split
    · exact .refl s
    · exact setArb_quiet _ _ _
  · split
    · exact arbRaise_quiet _ _ _ _ _ _
    · exact setArb_quiet _ _ _

theorem portVisit_quiet (s : Hw) (f block n : Nat) (read : Bool) : Quiet s (s.portVisit f block n read) := by
  unfold Hw.portVisit
  dsimp only
  split
  · exact (arbRaise_quiet _ _ _ _ _ _).trans (arbRaise_quiet _ _ _ _ _ _)
  · exact arbRaise_quiet _ _ _ _ _ _

theorem unitTraffic_quiet (s : Hw) (block off n : Nat) (read : Bool) : Quiet s (s.unitTraffic block off n read) := by
  unfold Hw.unitTraffic
  split
  · exact portVisit_quiet _ _ _ _ _
  · exact .refl s

theorem raisePieces_quiet (s : Hw) (o : Order) (n : Nat) : Quiet s (s.raisePieces o n) := by
  have source (t : Hw) : Quiet t (match o.source with
      | some p => t.unitTraffic 186 (pageOff p) (4096 * n) true
      | none => t) := by
    split
    · exact unitTraffic_quiet _ _ _ _ _
    · exact .refl _
  have h := (arbRaise_quiet s (o.queue / 2) 5 (o.queue % 2) o.input n).trans (source _)
  unfold Hw.raisePieces
  dsimp only
  split
  · exact h.trans (portVisit_quiet _ _ _ _ _)
  · exact h

theorem memWriteAll_quiet (s : Hw) (off : Nat) (bs : List Byte) : Quiet s (s.memWriteAll off bs) :=
  Quiet.foldl (fun s f => by
    split
    · exact .refl s
    · exact memWrite_quiet _ _ _) _ _

end Sys2Proof.Machine
end

section
/-!
# The beginning of a beat changes no core and no route

The walk, the work lists, the flags and the end of a stroke's work write memory, tables and messages (R30, R33, R171, R191).
-/
namespace Sys2Proof.Machine

theorem ite_quiet {p : Prop} [Decidable p] {s t u : Hw} (h : Quiet s t) (g : Quiet s u) : Quiet s (if p then t else u) := by
  split
  · exact h
  · exact g

/-! ## Orders of the tongs -/

theorem setOrder_quiet (s : Hw) (o o' : Order) : Quiet s (s.setOrder o o') := by
  unfold Hw.setOrder
  exact (Quiet.refl s).set (by with_reducible rfl)

theorem reqFinal_quiet (s : Hw) (tag : W16) (status : Nat) : Quiet s (s.reqFinal tag status) := by
  unfold Hw.reqFinal
  exact (Quiet.refl s).set (by with_reducible rfl)

theorem reqEnds_quiet (s : Hw) (q : Nat) (r : TongsReq) (status : Nat) : Quiet s (s.reqEnds q r status) :=
  ite_quiet (reqFinal_quiet _ _ _) (.refl s)

theorem merge_quiet (s : Hw) (q : Nat) (r : TongsReq) : Quiet s (s.merge q r) :=
  ((Quiet.refl s).set (by with_reducible rfl)).trans
    (reqEnds_quiet { s with tng := { s.tng with merges := s.tng.merges + 1 } } _ _ _)

theorem reqFull_quiet (s : Hw) (q : Nat) (r : TongsReq) : Quiet s (s.reqFull q r) :=
  ((Quiet.refl s).set (by with_reducible rfl)).trans
    (reqEnds_quiet { s with tng := { s.tng with dropped := satInc s.tng.dropped } } _ _ _)

theorem openReq_quiet {s t : Hw} {q id : Nat} {r : TongsReq} {pages : List Nat} (h : s.openReq q r pages = some (t, id)) :
    Quiet s t := by
  unfold Hw.openReq at h
  split at h
  · cases h
  · dsimp only at h
    split at h <;> cases h <;> exact (Quiet.refl s).set (by with_reducible rfl)

theorem endPage_quiet (s : Hw) (req page status : Nat) : Quiet s (s.endPage req page status) := by
  unfold Hw.endPage
  split
  · exact .refl s
  · dsimp only
    split
    · exact ((Quiet.refl s).set (by with_reducible rfl)).trans (reqFinal_quiet _ _ _)
    · exact (Quiet.refl s).set (by with_reducible rfl)

theorem endOrder_quiet (s : Hw) (o : Order) (status : Nat) : Quiet s (s.endOrder o status) :=
  ((Quiet.refl s).set (by with_reducible rfl)).trans (endPage_quiet { s with tng := { s.tng with orders := _ } } _ _ _)

theorem setHome_quiet (s : Hw) (p : Nat) (h : Home) : Quiet s (s.setHome p h) := by
  have put : Quiet s { s with tng := { s.tng with homes := nput {} s.tng.homes p h } } := (Quiet.refl s).set (by with_reducible rfl)
  unfold Hw.setHome
  dsimp only
  split
  · exact put
  · exact ite_quiet (put.trans (memWrite_quiet _ _ _)) (.refl s)

theorem onHome_quiet (s : Hw) (p : Nat) (f : Home → Home) : Quiet s (s.onHome p f) := setHome_quiet _ _ _

theorem backHome_quiet (s : Hw) (o : Order) : Quiet s (s.backHome o) := by
  unfold Hw.backHome
  split
  · exact ite_quiet (onHome_quiet _ _ _) (.refl s)
  · exact ite_quiet (onHome_quiet _ _ _) (.refl s)
  · exact .refl s

theorem dropOrder_quiet (s : Hw) (o : Order) (status : Nat) : Quiet s (s.dropOrder o status) := by
  have h := (ite_quiet (p := o.phase.inProgress = true) (backHome_quiet s o) (.refl s)).trans (endOrder_quiet _ o status)
  exact ite_quiet h (h.trans (arbSet_quiet _ _ _ _ _ _))

theorem refusePinned_quiet (s : Hw) (o : Order) : Quiet s (s.refusePinned o) :=
  ((Quiet.refl s).set (by with_reducible rfl)).trans
    (dropOrder_quiet { s with tng := { s.tng with pinnedCnt := s.tng.pinnedCnt + 1 } } _ _)

theorem startOrder_quiet (s : Hw) (o : Order) : Quiet s (s.startOrder o) := by
  unfold Hw.startOrder
  split
  · exact setOrder_quiet _ _ _
  · dsimp only
    have h (o' : Order) := (setOrder_quiet s o o').trans
      (ite_quiet (p := o.kind = .place) (.refl _) (raisePieces_quiet _ o 16))
    split
    · exact (h _).trans (onHome_quiet _ _ _)
    · exact (h _).trans (onHome_quiet _ _ _)
    · exact h _

theorem judgeMove_quiet (s : Hw) (o : Order) : Quiet s (s.judgeMove o) :=
  ite_quiet (endOrder_quiet _ _ _) <| ite_quiet (endOrder_quiet _ _ _) <| ite_quiet (setOrder_quiet _ _ _) <|
    ite_quiet (endOrder_quiet _ _ _) <| ite_quiet (refusePinned_quiet _ _) (startOrder_quiet _ _)

theorem enter_quiet (s : Hw) (os : List Order) : Quiet s (s.enter os) := by
  unfold Hw.enter
  exact (Quiet.refl s).set (by with_reducible rfl)

theorem moveReq_quiet (s : Hw) (q : Nat) (r : TongsReq) (pages : List Nat) (tier f w : Nat) :
    Quiet s (s.moveReq q r pages tier f w) := by
  unfold Hw.moveReq
  refine ite_quiet (reqEnds_quiet _ _ _ _) (ite_quiet (merge_quiet _ _ _) ?_)
  split
  · exact reqFull_quiet _ _ _
  · next h => exact ((openReq_quiet h).trans (enter_quiet _ _)).trans (.foldl judgeMove_quiet _ _)

theorem cloneReq_quiet (s : Hw) (q : Nat) (r : TongsReq) (src dst : Nat) (dest : Option (Nat × Nat)) :
    Quiet s (s.cloneReq q r src dst dest) := by
  unfold Hw.cloneReq
  refine ite_quiet (reqEnds_quiet _ _ _ _) (ite_quiet (reqEnds_quiet _ _ _ _) ?_)
  split
  · exact reqFull_quiet _ _ _
  · next h => exact ((openReq_quiet h).trans (enter_quiet _ _)).trans (startOrder_quiet _ _)

theorem rejudge_quiet (s : Hw) (p : Nat) : Quiet s (s.rejudge p) := .foldl judgeMove_quiet _ _

theorem pinPage_quiet (s : Hw) (p : Nat) : Quiet s (s.pinPage p) := by
  have h (es : List Order) := (onHome_quiet s p fun h => if h.state = .unmapped then h else { h with pinned := true }).trans
    (.foldl refusePinned_quiet es _)
  exact ite_quiet (h _) ((h _).trans (rejudge_quiet _ _))

/-! ## The walk (R191-R193) -/

theorem herderMsg_quiet (s : Hw) (h dest : Nat) (e : Bool) (channel kind : Nat) (payload : List Byte) :
    Quiet s (s.herderMsg h dest e channel kind payload) := by
  unfold Hw.herderMsg
  exact (Quiet.refl s).set (by with_reducible rfl)

theorem noticeSend_quiet (s : Hw) (h kind : Nat) (words : List W64) : Quiet s (s.noticeSend h kind words) :=
  herderMsg_quiet _ _ _ _ _ _ _

theorem returnToken_quiet (s : Hw) (t : Nat) : Quiet s (s.returnToken t) := by
  unfold Hw.returnToken
  refine ite_quiet (.refl s) ?_
  dsimp only
  split
  · exact ((Quiet.refl s).set (by with_reducible rfl)).trans (noticeSend_quiet _ _ _ _)
  · exact (Quiet.refl s).set (by with_reducible rfl)

theorem deferEntry_quiet (s : Hw) (e : LenEntry) : Quiet s (s.deferEntry e) :=
  ((Quiet.refl s).set (by with_reducible rfl)).trans (.foldl returnToken_quiet _ { s with kv := { s.kv with absent := _ } })

theorem linkFree_quiet (s : Hw) (l : List Nat) : Quiet s (s.linkFree l) :=
  ((Quiet.refl s).set (by with_reducible rfl)).trans
    (.foldl (fun _ _ => memWrite_quiet _ _ _) _ { s with kv := { s.kv with freeList := l } })

theorem takeIndex_quiet (s : Hw) (i : Nat) : Quiet s (s.takeIndex i) :=
  ite_quiet (linkFree_quiet _ _) ((Quiet.refl s).set (by with_reducible rfl))

theorem setRef_quiet (s : Hw) (i v : Nat) : Quiet s (s.setRef i v) := memWrite_quiet _ _ _

theorem startCow_quiet (s : Hw) (k : KvSec) (q i : Nat) : Quiet s (s.startCow k q i) := by
  unfold Hw.startCow
  refine ite_quiet (.refl s) (ite_quiet (.refl s) ?_)
  split
  · exact raise_quiet _ _
  · next p _ =>
    have h := (takeIndex_quiet s p).trans (setRef_quiet _ p 1)
    exact ite_quiet (raise_quiet _ _) ((h.set (by with_reducible rfl)).trans (.foldl (fun _ _ => cloneReq_quiet _ _ _ _ _ _) _ _))

theorem walkEntry_quiet (k : KvSec) (p : Hw × WalkAcc) (e : LenEntry) : Quiet p.1 (Hw.walkEntry k p e).1 := by
  obtain ⟨s, a⟩ := p
  unfold Hw.walkEntry
  dsimp only
  split
  · exact (deferEntry_quiet _ _).trans (raise_quiet _ _)
  split
  · exact (Quiet.refl s).set (by with_reducible rfl)
  split
  · exact deferEntry_quiet _ _
  split
  · refine ((Quiet.trans ?_ (.foldl (fun _ _ => .foldl (fun _ _ => moveReq_quiet _ _ _ _ _ _ _) _ _) _ _)).trans
      (.foldl (fun _ _ => startCow_quiet _ _ _ _) _ _)).trans (deferEntry_quiet _ _)
    exact ite_quiet ((Quiet.refl s).set (by with_reducible rfl)) (.refl s)
  split
  · exact deferEntry_quiet _ _
  · exact (Quiet.foldl pinPage_quiet _ s).set (by with_reducible rfl)

theorem dealItems_quiet (s : Hw) (k : KvSec) (f : Nat) (items : List Item) : Quiet s (s.dealItems k f items) :=
  ite_quiet (.refl s) (.foldl (fun _ _ => memWrite_quiet _ _ _) _ _)

theorem walk_quiet (s : Hw) : Quiet s s.walk := by
  have entries (k : KvSec) (es : List LenEntry) (t : Hw) (a : WalkAcc) : Quiet t (es.foldl (Hw.walkEntry k) (t, a)).1 :=
    es.foldlRecOn (Hw.walkEntry k) (motive := fun p => Quiet t p.1) (.refl t) fun _ h e _ => h.trans (walkEntry_quiet k _ e)
  unfold Hw.walk
  split
  · exact .refl s
  · dsimp only
    refine Quiet.set (t := (List.range 48).foldl _ _) (Quiet.trans (Quiet.trans ?_ (entries _ _ _ _))
      (.foldl (fun _ _ => dealItems_quiet _ _ _ _) _ _)) (by with_reducible rfl)
    exact (Quiet.refl s).set (by with_reducible rfl)

/-! ## The end of a stroke's work (R33, R34, R43) -/

theorem seqPut_quiet (s : Hw) (q off n v : Nat) : Quiet s (s.seqPut q off n v) := memWrite_quiet _ _ _

theorem setFlag_quiet (s : Hw) (q n : Nat) (v : Bool) : Quiet s (s.setFlag q n v) := seqPut_quiet _ _ _ _ _

theorem kvStrokeEnd_quiet (s : Hw) : Quiet s s.kvStrokeEnd := by
  have grow (t : Hw) (q n w : Nat) :
      Quiet t (if n = 0 then t else (t.seqPut q 0x08 4 (t.seqLen q + n)).seqPut q 0x28 8 w) :=
    ite_quiet (.refl t) ((seqPut_quiet _ _ _ _ _).trans (seqPut_quiet _ _ _ _ _))
  unfold Hw.kvStrokeEnd
  split
  · exact .refl s
  · refine ((Quiet.foldl (fun t e => ?guest) _ s).trans (.foldl (fun t e => grow _ _ _ _) _ _)).trans
      (.foldl (fun t e => ?deferred) _ _)
    case guest => exact ite_quiet (((grow _ _ _ _).trans (setFlag_quiet _ _ _ _)).trans (seqPut_quiet _ _ _ _ _)) (.refl t)
    case deferred => exact (setFlag_quiet _ _ _ _).trans (seqPut_quiet _ _ _ _ _)

theorem onHerder_quiet (s : Hw) (h : Nat) (f : Herder → Herder) : Quiet s (s.onHerder h f) := by
  unfold Hw.onHerder Hw.setHerder
  exact (Quiet.refl s).set (by with_reducible rfl)

theorem runEnd_quiet (s : Hw) : Quiet s s.runEnd := by
  unfold Hw.runEnd
  exact ((ite_quiet (kvStrokeEnd_quiet s) (.refl s)).trans (.foldl (fun _ _ => onHerder_quiet _ _ _) _ _)).set (by with_reducible rfl)

theorem overrun_quiet (s : Hw) (stroke : Nat) : Quiet s (s.overrun stroke) := by
  unfold Hw.overrun
  split
  · exact .refl s
  · exact (((Quiet.refl s).set (by with_reducible rfl)).trans (raise_quiet _ _)).trans (record_quiet _ _)

theorem guardedOverrun_quiet (s : Hw) (final : Bool) : Quiet s (s.guardedOverrun final) :=
  ite_quiet (overrun_quiet _ _) (.refl s)

/-! ## Completions change the driver's queue pairs -/

theorem ite_work {p : Prop} [Decidable p] {s t u : Hw} (h : SameWork s t) (g : SameWork s u) :
    SameWork s (if p then t else u) := by
  split
  · exact h
  · exact g

theorem setQp_work (s : Hw) (q : Nat) (x : Qp) : SameWork s (s.setQp q x) := ⟨rfl, rfl⟩

theorem hostWrite_work (s : Hw) (a : Nat) (bs : List Byte) : SameWork s (s.hostWrite a bs) := ⟨rfl, rfl⟩

theorem writeCpl_work (s : Hw) (q : Nat) (c : Cpl) : SameWork s (s.writeCpl q c) :=
  have h (x : Qp) := (hostWrite_work s _ _).trans (setQp_work _ q x)
  ite_work ((h _).trans (fireVector_quiet _ _).work) (h _)

theorem pumpCpls_work (n : Nat) (s : Hw) (q : Nat) : SameWork s (Hw.pumpCpls n s q) := by
  induction n generalizing s with
  | zero => exact .refl s
  | succ n ih =>
    unfold Hw.pumpCpls
    dsimp only
    split
    · exact .refl s
    · exact ite_work (((setQp_work _ _ _).trans (writeCpl_work _ _ _)).trans (ih _)) (.refl s)

theorem postCpl_work (s : Hw) (q : Nat) (c : Cpl) : SameWork s (s.postCpl q c) :=
  ite_work (.refl s) <| ((setQp_work _ _ _).trans (ite_work (raise_quiet _ _).work (.refl _))).trans (pumpCpls_work _ _ _)

theorem completeStroke_work (s : Hw) (stroke : Nat) : SameWork s (s.completeStroke stroke) := by
  have post (t : Hw) (p : Prop) [Decidable p] (u : Hw) (h : SameWork t u) (muted : Bool) (q : Nat) (c : Cpl) :
      SameWork t (if muted then (if p then u else t) else (if p then u else t).postCpl q c) :=
    ite_work (ite_work h (.refl t)) ((ite_work h (.refl t)).trans (postCpl_work _ _ _))
  unfold Hw.completeStroke Hw.takeBack
  refine SameWork.set (SameWork.trans ?start (.foldl (fun t q => .foldl (fun t e => post t _ _ ?missed _ _ _) _ _) _ _))
    (by with_reducible rfl)
  case start => exact (SameWork.refl s).set (by with_reducible rfl)
  case missed => exact (SameWork.refl t).set (by with_reducible rfl)

theorem endWork_work (s : Hw) : SameWork s s.endWork := by
  have late (t : Hw) (c : Bool) (w : Nat) :
      Quiet t (if t.bareWork then (if c then t.overrun w else t) else t.guardedOverrun true) :=
    ite_quiet (ite_quiet (overrun_quiet _ _) (.refl t)) (guardedOverrun_quiet _ _)
  unfold Hw.endWork
  refine (SameWork.trans ?_ (late _ _ _).work).trans (ite_work (completeStroke_work _ _) (.refl _))
  exact (SameWork.refl s).set (by with_reducible rfl)

/-! ## The beat -/

theorem evalFlags_quiet (s : Hw) (h : Nat) (sec : HerderSec) : Quiet s (s.evalFlags h sec) := by
  unfold Hw.evalFlags
  refine (Quiet.foldl (fun t g => ite_quiet (.refl t) ?_) _ s).trans (onHerder_quiet _ _ _)
  exact (onHerder_quiet _ _ _).trans (noticeSend_quiet _ _ _ _)

theorem evalFlagsAll_quiet (s : Hw) : Quiet s s.evalFlagsAll := by
  unfold Hw.evalFlagsAll
  split
  · exact .refl s
  · exact .foldl (fun _ _ => evalFlags_quiet _ _ _) _ _

theorem startBeat_work (s : Hw) (w i : Nat) : SameWork s (s.startBeat w i) := by
  have ended : SameWork s (if s.stk.endDue then s.runEnd else s) := ite_work (runEnd_quiet s).work (.refl s)
  unfold Hw.startBeat
  dsimp only
  split
  · exact ended
  · refine SameWork.trans (SameWork.trans (SameWork.trans (ended.trans ((SameWork.refl _).set (by with_reducible rfl)))
      (ite_work (endWork_work _) (.refl _)))
      (ite_work (walk_quiet _).work (.refl _))) (ite_work (evalFlagsAll_quiet _).work (.refl _))

theorem tryStart_work (s : Hw) : SameWork s s.tryStart := ite_work (startBeat_work _ _ _) (.refl s)

theorem nextBeat_work (s : Hw) : SameWork s s.nextBeat := by
  unfold Hw.nextBeat
  split
  · exact .refl s
  · exact ite_work (.refl s) (ite_work (startBeat_work _ _ _) (tryStart_work s))

end Sys2Proof.Machine
end

section
/-!
# Span requests that leave change no field and no route

Requests held for a field's regions go on when its action is complete (R311-R316); they may find a fault, which writes a
record.
-/
namespace Sys2Proof.Machine

theorem ite_power {p : Prop} [Decidable p] {s t u : Hw} (h : SamePower s t) (g : SamePower s u) :
    SamePower s (if p then t else u) := by
  split
  · exact h
  · exact g

/-! ## Access to the module's own range -/

theorem markDirty_quiet (s : Hw) (off n : Nat) : Quiet s (s.markDirty off n) := by
  refine ite_quiet (.refl s) (Quiet.trans ?_ (.foldl (fun _ _ => raisePieces_quiet _ _ _) _ _))
  exact (Quiet.refl s).set (by with_reducible rfl)

theorem noHome_quiet (s : Hw) (src off n access : Nat) : Quiet s (s.noHome src off n access) :=
  ite_quiet (record_quiet _ _) (.refl s)

theorem spanLoad_quiet (s : Hw) (src off n : Nat) : Quiet s (s.spanLoad src off n).1 := by
  unfold Hw.spanLoad
  dsimp only
  split
  · exact unitTraffic_quiet _ _ _ _ _
  · exact noHome_quiet _ _ _ _ _

theorem spanStore_quiet (s : Hw) (src off : Nat) (bs : List Byte) : Quiet s (s.spanStore src off bs).1 := by
  unfold Hw.spanStore
  dsimp only
  split
  · exact ((unitTraffic_quiet _ _ _ _ _).trans (markDirty_quiet _ _ _)).trans (memWrite_quiet _ _ _)
  · exact noHome_quiet _ _ _ _ _

theorem journalInsert_quiet (s : Hw) (e : JEntry) : Quiet s (s.journalInsert e) := by
  unfold Hw.journalInsert
  refine Quiet.trans ?_ (memWrite_quiet _ _ _)
  exact (Quiet.refl s).set (by with_reducible rfl)

theorem atomicApply_quiet (s : Hw) (a : AtomicReq) : Quiet s (s.atomicApply a).1 := by
  unfold Hw.atomicApply
  split
  · exact .refl s
  split
  · exact .refl s
  dsimp only
  split
  · exact noHome_quiet _ _ _ _ _
  · exact ((((unitTraffic_quiet _ _ _ _ _).trans (unitTraffic_quiet _ _ _ _ _)).trans (markDirty_quiet _ _ _)).trans
      (memWrite_quiet _ _ _)).trans (journalInsert_quiet _ _)

/-! ## Completions -/

theorem setSpanEng_quiet (s : Hw) (e : Nat) (x : SpanEng) : Quiet s (s.setSpanEng e x) := by
  unfold Hw.setSpanEng
  exact (Quiet.refl s).set (by with_reducible rfl)

theorem onCore_power (s : Hw) (c : Nat) (f : CoreState → CoreState) : SamePower s (s.onCore c f) := by
  unfold Hw.onCore Hw.setCore
  exact (SamePower.refl s).set (by with_reducible rfl)

theorem windowDone_quiet (s : Hw) (r : SpanReq) (status : Nat) (data : List Byte) : Quiet s (s.windowDone r status data) := by
  have h (bs : List Byte) : Quiet s (if r.op = 0 then { s with readData := bs } else s) :=
    ite_quiet ((Quiet.refl s).set (by with_reducible rfl)) (.refl s)
  exact ite_quiet (h _) ((h _).set (by with_reducible rfl))

theorem runFences_power (s : Hw) (e : Nat) : SamePower s (s.runFences e) :=
  (SamePower.foldl (fun _ _ => ite_power (onCore_power _ _ _) (.refl _)) _ s).trans (setSpanEng_quiet _ _ _).power

theorem spanFault_quiet (s : Hw) (r : SpanReq) (status : Nat) : Quiet s (s.spanFault r status) := by
  unfold Hw.spanFault
  refine ite_quiet ?_ (ite_quiet ?_ (.refl s)) <;>
    exact (((Quiet.refl s).set (by with_reducible rfl)).trans (raise_quiet _ _)).trans (record_quiet _ _)

theorem spanComplete_power (s : Hw) (e : Nat) (r : SpanReq) (status : Nat) (data : List Byte) (old : W64) :
    SamePower s (s.spanComplete e r status data old) :=
  (((setSpanEng_quiet s _ _).power.trans (ite_power (windowDone_quiet _ _ _ _).power (onCore_power _ _ _))).trans
    (spanFault_quiet _ _ _).power).trans (runFences_power _ _)

/-! ## Sending -/

theorem leashDrop_quiet (s : Hw) (p : Nat) (recorded : Bool) (header : List Byte) :
    Quiet s (s.leashDrop p recorded header) := by
  have h : Quiet s { s with spn := { s.spn with dropCnt := s.spn.dropCnt + 1 } } := (Quiet.refl s).set (by with_reducible rfl)
  exact ite_quiet ((h.trans (raise_quiet _ _)).trans (record_quiet _ _)) h

theorem onPort_power (s : Hw) (p : Nat) (f : Port → Port) : SamePower s (s.onPort p f) := by
  unfold Hw.onPort Hw.setPort
  exact (SamePower.refl s).set (by with_reducible rfl)

theorem sendPort_power (s : Hw) (p : Nat) (m : LMsg) : SamePower s (s.sendPort p m) :=
  (onPort_power _ _ _).trans (arbRaise_quiet _ _ _ _ _ _).power

theorem setReq_quiet (s : Hw) (e : Nat) (r : SpanReq) : Quiet s (s.setReq e r) := setSpanEng_quiet _ _ _

theorem sendLoan_power (s : Hw) (e : Nat) (r : SpanReq) (addr : Nat) : SamePower s (s.sendLoan e r addr) := by
  have dead (u : List Nat) : SamePower s { s.spanComplete e r 1 [] 0 with spn :=
      { (s.spanComplete e r 1 [] 0).spn with deadLoans := u } } := (spanComplete_power _ _ _ _ _ _).set (by with_reducible rfl)
  unfold Hw.sendLoan
  dsimp only
  split
  · exact dead _
  · refine ite_power (dead _) ?_
    split
    · exact (leashDrop_quiet _ _ _ _).power
    · exact (setReq_quiet _ _ _).power.trans (sendPort_power _ _ _)

theorem serveOwn_power (s : Hw) (e : Nat) (r : SpanReq) : SamePower s (s.serveOwn e r) := by
  unfold Hw.serveOwn
  dsimp only
  split
  · exact (ite_power (spanStore_quiet _ _ _ _).power (.refl s)).trans (sendLoan_power _ _ _ _)
  split
  · exact (spanLoad_quiet _ _ _ _).power.trans (spanComplete_power _ _ _ _ _ _)
  split
  · exact (spanStore_quiet _ _ _ _).power.trans (spanComplete_power _ _ _ _ _ _)
  · exact (atomicApply_quiet _ _).power.trans (spanComplete_power _ _ _ _ _ _)

theorem sendReq_power (s : Hw) (e : Nat) (r : SpanReq) : SamePower s (s.sendReq e r) := by
  unfold Hw.sendReq
  split
  · exact spanComplete_power _ _ _ _ _ _
  · refine ite_power (spanComplete_power _ _ _ _ _ _) (ite_power (serveOwn_power _ _ _) ?_)
    split
    · exact (setReq_quiet _ _ _).power.trans (leashDrop_quiet _ _ _ _).power
    · exact (setReq_quiet _ _ _).power.trans (sendPort_power _ _ _)

theorem leave_power (s : Hw) (e : Nat) (r : SpanReq) : SamePower s (s.leave e r) :=
  ((setSpanEng_quiet s _ _).power.trans (setReq_quiet _ _ _).power).trans
    (ite_power (serveOwn_power _ _ _) (sendReq_power _ _ _))

theorem runEngine_power (s : Hw) (e : Nat) (flags : Bool) : SamePower s (s.runEngine e flags) := by
  refine .foldl (fun t r => ?_) _ s
  dsimp only
  split
  · exact .refl t
  · exact ite_power (.refl t) (leave_power _ _ _)

/-- The engines whose held requests go on when actions have been settled. -/
def Hw.runEngines (s : Hw) : Hw :=
  (List.range 96).foldl (fun s e => if (s.spanEng e).reqs.isEmpty then s else s.runEngine e false) s

theorem runEngines_power (s : Hw) : SamePower s s.runEngines :=
  .foldl (fun t _ => ite_power (.refl t) (runEngine_power _ _ _)) _ s

end Sys2Proof.Machine
end

section
/-!
# Boundary actions: what is settled, what starts, what is armed (R23-R26, R127)

Settling actions completes some, starts others, and changes no route. An action that waits for a warden stays as it is.
-/
namespace Sys2Proof.Machine

/-- The routes are the same, and no boundary action is new. -/
structure SameRoutes (s t : Hw) : Prop where
  routing : t.routing = s.routing
  actions : t.flt.actions.Sublist s.flt.actions

theorem SameRoutes.refl (s : Hw) : SameRoutes s s := ⟨rfl, List.Sublist.refl _⟩
theorem SameRoutes.trans {s t u : Hw} (h : SameRoutes s t) (g : SameRoutes t u) : SameRoutes s u :=
  ⟨g.routing.trans h.routing, g.actions.trans h.actions⟩
theorem SameRoutes.set {s t u : Hw} (h : SameRoutes s t)
    (same : (u.routing, u.flt.actions) = (t.routing, t.flt.actions)) : SameRoutes s u := by
  obtain ⟨routing, actions⟩ := Prod.mk.inj same
  exact h.trans ⟨routing, actions ▸ List.Sublist.refl _⟩
theorem SamePower.routes {s t : Hw} (h : SamePower s t) : SameRoutes s t := ⟨h.routing, h.actions⟩
theorem SameRoutes.foldl {α : Type} {f : Hw → α → Hw} (step : ∀ s x, SameRoutes s (f s x)) (l : List α) (s : Hw) :
    SameRoutes s (l.foldl f s) :=
  l.foldlRecOn f (.refl s) fun _ h x _ => h.trans (step _ x)
theorem ite_routes {p : Prop} [Decidable p] {s t u : Hw} (h : SameRoutes s t) (g : SameRoutes s u) :
    SameRoutes s (if p then t else u) := by
  split
  · exact h
  · exact g

/-! ## Ramps and power -/

theorem onFld_routes (s : Hw) (n : Nat) (f : Field → Field) : SameRoutes s (s.onFld n f) := ⟨rfl, List.Sublist.refl _⟩

theorem pumpRamps_routes (s : Hw) : SameRoutes s s.pumpRamps := by
  refine .foldl (fun t e => ite_routes (.refl t) ?_) _ s
  exact (onFld_routes t _ _).set (by with_reducible rfl)

theorem rampTo_routes (s : Hw) (f w : Nat) : SameRoutes s (s.rampTo f w) := by
  refine SameRoutes.trans ?_ (pumpRamps_routes _)
  unfold Hw.queueRamp
  exact (SameRoutes.refl s).set (by with_reducible rfl)

theorem startField_routes (s : Hw) (d f : Nat) : SameRoutes s (s.startField d f) := by
  have exceeded (u : Hw) (i : RecIn) : SameRoutes u ((u.raise 39).record i) :=
    (raise_quiet _ _).power.routes.trans (record_quiet _ _).power.routes
  have takes (u : Hw) (left : Nat) : SameRoutes u
      (let u1 := u.onFld f fun x => { x with ballast := left }
       let u2 := { u1 with pwr := { u1.pwr with working := nput 0 u1.pwr.working f d } }
       if left = 0 then u2 else u2.rampTo f 0) :=
    have h (w : Pwr) : SameRoutes u { u.onFld f fun x => { x with ballast := left } with pwr := w } :=
      (onFld_routes _ _ _).set (by with_reducible rfl)
    ite_routes (h _) ((h _).trans (rampTo_routes _ _ _))
  have marked : SameRoutes s { s with pwr := { s.pwr with rampExceeded := true } } := (SameRoutes.refl s).set (by with_reducible rfl)
  exact ite_routes (.refl s) ((ite_routes (.refl s) (marked.trans (exceeded _ _))).trans (takes _ _))

/-! ## Completing an action -/

theorem gateField_routes (s : Hw) (f : Nat) : SameRoutes s (s.gateField f) := by
  unfold Hw.gateField
  exact (SameRoutes.refl s).set (by with_reducible rfl)

theorem ungate_routes (s : Hw) (f : Nat) : SameRoutes s (s.ungate f) := by
  unfold Hw.ungate
  exact (SameRoutes.refl s).set (by with_reducible rfl)

theorem prkFinal_routes (s : Hw) (status : BitVec 2) : SameRoutes s (s.prkFinal status) := by
  unfold Hw.prkFinal
  exact (SameRoutes.refl s).set (by with_reducible rfl)

theorem memCopy_routes (s : Hw) (src dst n : Nat) : SameRoutes s (s.memCopy src dst n) := by
  unfold Hw.memCopy
  exact (SameRoutes.refl s).set (by with_reducible rfl)

theorem catchUp_routes (s : Hw) (f : Nat) : SameRoutes s (s.catchUp f) := by
  unfold Hw.catchUp
  extract_lets copy s1 s2 s3
  have copied (u : Hw) (off n : Nat) : SameRoutes u (copy u off n) := memCopy_routes _ _ _ _
  clear_value copy
  have h1 : SameRoutes s s1 := by
    simp only [s1]
    split
    · exact ((copied _ _ _).trans (copied _ _ _)).trans (copied _ _ _)
    · exact .refl s
  have h2 : SameRoutes s1 s2 := by
    simp only [s2]
    split
    · exact ((copied _ _ _).trans (copied _ _ _)).trans (copied _ _ _)
    · exact .refl s1
  have h3 : SameRoutes s2 s3 := by
    refine .foldl (fun u r => ?_) _ s2
    dsimp only
    split
    · exact (copied _ _ _).trans (copied _ _ _)
    · exact copied _ _ _
  refine ((h1.trans h2).trans h3).trans ?_
  split
  · exact copied _ _ _
  · exact .refl s3

theorem loadCore_routes (s : Hw) (b : Billet) (c image stroke : Nat) : SameRoutes s (s.loadCore b c image stroke) := by
  unfold Hw.loadCore
  exact (onCore_power _ _ _).routes

theorem reloadField_routes (s : Hw) (f : Nat) : SameRoutes s (s.reloadField f) := by
  unfold Hw.reloadField
  split
  · exact .refl s
  · have reread (l : Loaded) : SameRoutes s { s.drawn with running := some l } := by
      unfold Hw.drawn
      exact (SameRoutes.refl s).set (by with_reducible rfl)
    exact (reread _).trans (.foldl (fun _ _ => loadCore_routes _ _ _ _ _) _ _)

theorem parkRecord_routes (s : Hw) (f : Nat) (deep unpark driver : Bool) : SameRoutes s (s.parkRecord f deep unpark driver) :=
  (record_quiet _ _).power.routes

theorem actionDone_routes {s t : Hw} {a : BAction} (h : s.actionDone a = some t) : SameRoutes s t := by
  have final (u : Hw) : SameRoutes u (if a.byDriver then u.prkFinal 2 else u) := ite_routes (prkFinal_routes _ _) (.refl u)
  have parked (u : Hw) (w : Pwr) (f : Nat) (d : Bool) :
      SameRoutes u (({ u with pwr := w } : Hw).parkRecord f d false a.byDriver) :=
    ((SameRoutes.refl u).set (by with_reducible rfl)).trans (parkRecord_routes _ _ _ _ _)
  unfold Hw.actionDone at h
  obtain ⟨-, h⟩ := Option.ite_none_left_eq_some.1 h
  split at h
  case h_1 | h_2 =>
    obtain ⟨-, h⟩ := Option.ite_none_left_eq_some.1 h
    obtain rfl := Option.some.inj h
    exact ((onFld_routes _ _ _).trans (parked _ _ _ _)).trans (final _)
  case h_3 f _ =>
    obtain ⟨-, h⟩ := Option.ite_none_left_eq_some.1 h
    obtain rfl := Option.some.inj h
    have caught (u : Hw) (deep : Bool) : SameRoutes u (if deep then u.catchUp f else u) :=
      ite_routes (catchUp_routes u f) (.refl u)
    have reloaded (u : Hw) := (reloadField_routes u f).trans (startField_routes _ (u.unparkPower f) f)
    exact ((((ungate_routes s f).trans (onFld_routes _ _ _)).trans (caught _ _)).trans
      ((reloaded _).trans (parkRecord_routes _ _ _ _ _))).trans (final _)
  case h_4 => cases h

/-! ## Starting actions -/

/-- What an action is once it has started: it awaits all its wardens. -/
def BAction.begun (a : BAction) : BAction := { a with started := true, awaits := a.wardens }

theorem mem_startActions {orders : BAction → Bool} {as : List BAction} {y : BAction} (h : y ∈ startActions orders as) :
    y ∈ as ∨ ∃ z ∈ as, z.started = false ∧ y = z.begun := by
  have key : ∀ y ∈ startActions orders as, y ∈ as ∨ ∃ z ∈ as, z.started = false ∧ y = z.begun := by
    refine as.foldlRecOn _ (motive := fun done => ∀ y ∈ done, y ∈ as ∨ ∃ z ∈ as, z.started = false ∧ y = z.begun)
      (by simp) fun done ih a ha y hy => ?_
    split at hy <;> obtain hy | rfl := by simpa using hy
    · exact ih y hy
    · exact .inl ha
    · exact ih y hy
    · exact .inr ⟨a, ha, by simp_all, rfl⟩
  exact key y h

theorem startActions_of_started {orders : BAction → Bool} {as : List BAction} (h : ∀ a ∈ as, a.started = true) :
    startActions orders as = as := by
  have key (done : List BAction) : as.foldl (fun done a =>
      if a.started || done.any (a.conflicts ·) || !orders a then done ++ [a] else done ++ [a.begun]) done = done ++ as := by
    induction as generalizing done with
    | nil => simp
    | cons a as ih =>
      obtain ⟨ha, has⟩ := List.forall_mem_cons.1 h
      rw [List.foldl_cons, if_pos (by simp [ha]), ih has, List.append_assoc, List.singleton_append]
  exact key []

theorem stopField_routes (s : Hw) (f : Nat) : SameRoutes s (s.stopField f) := by
  unfold Hw.stopField
  exact (onFld_routes _ _ _).set (by with_reducible rfl)

theorem rampNotice_routes (s : Hw) (delta : Int) (ramps : Nat) : SameRoutes s (s.rampNotice delta ramps) := by
  unfold Hw.rampNotice
  exact (SameRoutes.refl s).set (by with_reducible rfl)

theorem actionStarts_routes (s : Hw) (a : BAction) : SameRoutes s (s.actionStarts a) := by
  have gated (f : Nat) (g : Field → Field) := ((gateField_routes s f).trans (stopField_routes _ f)).trans (onFld_routes _ f g)
  unfold Hw.actionStarts
  split
  · exact ((gated _ _).trans (rampTo_routes _ _ _)).trans (rampNotice_routes _ _ _)
  · exact (gated _ _).trans (rampNotice_routes _ _ _)
  · exact ((onFld_routes _ _ _).trans (rampTo_routes _ _ _)).trans (rampNotice_routes _ _ _)
  · exact .refl s

theorem dropUnfit_routes (s : Hw) : SameRoutes s s.dropUnfit := by
  have final (p : Prop) [Decidable p] : SameRoutes s (if p then s.prkFinal 3 else s) := ite_routes (prkFinal_routes _ _) (.refl s)
  unfold Hw.dropUnfit
  exact (final _).trans ⟨rfl, List.filter_sublist⟩

/-- What the actions of `t` may be after those of `s`: one of them as it stood, or one of them that has begun. -/
structure Begins (s t : Hw) : Prop where
  routing : t.routing = s.routing
  actions : ∀ y ∈ t.flt.actions, y ∈ s.flt.actions ∨ ∃ z ∈ s.flt.actions, z.started = false ∧ y = z.begun

theorem SameRoutes.begins {s t u : Hw} (h : SameRoutes s t) (g : Begins t u) : Begins s u :=
  ⟨g.routing.trans h.routing, fun y hy =>
    (g.actions y hy).imp (h.actions.subset ·) fun ⟨z, hz, hy⟩ => ⟨z, h.actions.subset hz, hy⟩⟩
theorem Begins.then {s t u : Hw} (h : Begins s t) (g : SameRoutes t u) : Begins s u :=
  ⟨g.routing.trans h.routing, fun y hy => h.actions y (g.actions.subset hy)⟩

theorem runActions_begins (s : Hw) : Begins s s.runActions := by
  have starts (u : Hw) : Begins u { u with flt := { u.flt with actions := startActions u.orders u.flt.actions } } :=
    ⟨rfl, fun _ => mem_startActions⟩
  exact ((dropUnfit_routes s).begins (starts _)).then (.foldl actionStarts_routes _ _)

/-! ## Settling -/

/-- Every action that is done leaves the list. -/
def Hw.completeActions (s : Hw) : Hw :=
  s.flt.actions.foldl (fun s a => match s.actionDone a with
    | some s => { s with flt := { s.flt with actions := s.flt.actions.erase a } }
    | none => s) s

theorem settleActions_eq (s : Hw) : s.settleActions = s.startRingTests.completeActions.runActions.runEngines := rfl

theorem startRingTests_routes (s : Hw) : SameRoutes s s.startRingTests := by
  refine .foldl (fun u a => ?_) _ s
  split
  · exact ite_routes (onFld_routes _ _ _) (.refl u)
  · exact .refl u

theorem erase_routes (s : Hw) (a : BAction) :
    SameRoutes s { s with flt := { s.flt with actions := s.flt.actions.erase a } } := ⟨rfl, List.erase_sublist⟩

theorem completeActions_routes (s : Hw) : SameRoutes s s.completeActions := by
  refine .foldl (fun u a => ?_) _ s
  split
  · next h => exact (actionDone_routes h).trans (erase_routes _ _)
  · exact .refl u

theorem settleActions_begins (s : Hw) : Begins s s.settleActions :=
  (((startRingTests_routes s).trans (completeActions_routes _)).begins (runActions_begins _)).then (runEngines_power _).routes

/-- An action that waits for a warden. -/
def BAction.waits (a : BAction) : Prop := a.started = true ∧ a.awaits ≠ []

theorem foldl_eq_self {α β : Type} {f : β → α → β} {b : β} {l : List α} (h : ∀ a ∈ l, f b a = b) : l.foldl f b = b :=
  l.foldlRecOn f (motive := (· = b)) rfl fun _ hb a ha => hb ▸ h a ha

theorem startRingTests_of_waits {s : Hw} (h : ∀ a ∈ s.flt.actions, a.waits) : s.startRingTests = s := by
  refine foldl_eq_self fun a ha => ?_
  obtain ⟨-, hw⟩ := h a ha
  split
  · simp [hw]
  · rfl

theorem actionDone_of_waits (s : Hw) {a : BAction} (h : a.waits) : s.actionDone a = none := by
  simp [Hw.actionDone, h.2]

theorem completeActions_of_waits {s : Hw} (h : ∀ a ∈ s.flt.actions, a.waits) : s.completeActions = s :=
  foldl_eq_self fun a ha => by rw [actionDone_of_waits s (h a ha)]

theorem dropUnfit_of_started {s : Hw} (h : ∀ a ∈ s.flt.actions, a.started = true) : s.dropUnfit = s := by
  have none' : s.flt.actions.filter s.unfit = [] := by
    refine List.filter_eq_nil_iff.2 fun a ha => ?_
    simp [Hw.unfit, h a ha]
  simp [Hw.dropUnfit, none']

theorem runActions_of_started {s : Hw} (h : ∀ a ∈ s.flt.actions, a.started = true) : s.runActions = s := by
  have fresh : ((s.flt.actions.zip s.flt.actions).filterMap fun e =>
      if !e.1.started && e.2.started then some e.2 else none) = [] := by
    refine List.filterMap_eq_nil_iff.2 fun e he => ?_
    simp [h e.1 (List.of_mem_zip he).1]
  unfold Hw.runActions
  rw [dropUnfit_of_started h]
  dsimp only
  rw [startActions_of_started h, fresh]
  rfl

/-- Where every action waits for a warden, settling changes none. -/
theorem settleActions_of_waits {s : Hw} (h : ∀ a ∈ s.flt.actions, a.waits) : s.settleActions = s.runEngines := by
  rw [settleActions_eq, startRingTests_of_waits h, completeActions_of_waits h, runActions_of_started fun a ha => (h a ha).1]

theorem runEngines_of_none {s : Hw} (h : s.spn.engines = []) : s.runEngines = s :=
  foldl_eq_self fun e _ => by simp [Hw.spanEng, h, nget]

end Sys2Proof.Machine
end

section
/-!
# Acknowledgements and the wardens' links (R23, R25, R26, R341)
-/
namespace Sys2Proof.Machine

theorem detoursArmed_of_routing {s t : Hw} (h : t.routing = s.routing) : t.flt.detoursArmed = s.flt.detoursArmed :=
  congrArg (fun r => r.2.2.1) h
theorem detoursOn_of_routing {s t : Hw} (h : t.routing = s.routing) : t.flt.detoursOn = s.flt.detoursOn :=
  congrArg (fun r => r.2.1) h
theorem withdrawArmed_of_routing {s t : Hw} (h : t.routing = s.routing) : t.flt.withdrawArmed = s.flt.withdrawArmed :=
  congrArg (fun r => r.2.2.2) h
theorem routeEpoch_of_routing {s t : Hw} (h : t.routing = s.routing) : t.routeEpoch = s.routeEpoch := congrArg Prod.fst h

/-! ## An acknowledgement strikes its warden off -/

/-- The order of an action has reached warden `f`, which can answer it. -/
def Hw.answers (s : Hw) (f : Nat) (a : BAction) : Bool := a.started && a.awaits.contains f && (a.inField || s.reaches f)

/-- The action without warden `f` among those that it awaits. -/
def BAction.struck (a : BAction) (f : Nat) : BAction := { a with awaits := a.awaits.erase f }

/-- Actions whose last acknowledgement arms their routes leave the list. -/
def Hw.armReady (s : Hw) : Hw :=
  s.flt.actions.foldl (fun s a => match s.readyAction a with
    | some s => { s with flt := { s.flt with actions := s.flt.actions.erase a } }
    | none => s) s

/-- The boundary actions are replaced. -/
def Hw.withActions (s : Hw) (as : List BAction) : Hw := { s with flt := { s.flt with actions := as } }

@[simp] theorem withActions_actions (s : Hw) (as : List BAction) : (s.withActions as).flt.actions = as := rfl

theorem exec_wardenAck {s : State} {f : FieldIx} {pre post : List BAction} {a : BAction}
    (hs : s.hw.flt.actions = pre ++ a :: post) (hpre : ∀ z ∈ pre, s.hw.answers f.val z = false)
    (ha : s.hw.answers f.val a = true) :
    exec (.wardenAck f) s =
      .next { s with hw := (s.hw.withActions (pre ++ a.struck f.val :: post)).armReady.settleActions } := by
  have found : s.hw.flt.actions.findIdx? (s.hw.answers f.val) = some pre.length := by
    rw [hs, List.findIdx?_append, List.findIdx?_eq_none_iff.2 hpre, List.findIdx?_cons, if_pos ha]
    simp
  have struck : s.hw.flt.actions.modify pre.length (·.struck f.val) = pre ++ a.struck f.val :: post := by
    rw [hs, List.modify_eq_take_drop]
    simp
  have ack : execWardenAck f s = s.act fun h => match h.flt.actions.findIdx? (h.answers f.val) with
      | none => h
      | some i => (h.withActions (h.flt.actions.modify i (·.struck f.val))).armReady.settleActions := rfl
  exact ack.trans (by simp only [State.act, found, struck])

/-! ## Arming a remap's detour set -/

theorem refresh_flt (s : Hw) : s.refresh.flt = s.flt := by
  unfold Hw.refresh Hw.drawn
  split <;> rfl

theorem refresh_routeEpoch (s : Hw) : s.refresh.routeEpoch = s.routeEpoch := by
  unfold Hw.refresh Hw.drawn
  split <;> rfl

/-- The wardens write the entries of a set into shadow registers, which are the cores' alone. -/
theorem armDetour_frame (s : Hw) (n : Nat) : ∃ t : Hw, t.flt = s.flt ∧ t.routeEpoch = s.routeEpoch ∧ s.armDetour n = { t with
    flt := { t.flt with detoursArmed :=
      if t.flt.detoursArmed.contains n then t.flt.detoursArmed else t.flt.detoursArmed ++ [n] } } := by
  have entries (d : Detour) (u : Hw) : let v := d.entries.foldl (fun (u : Hw) (e : Nat × Nat × W64) => u.onCore e.1 fun x =>
      { x with routesShadow := nput 0 x.routesShadow e.2.1 e.2.2 }) u
      v.flt = u.flt ∧ v.routeEpoch = u.routeEpoch :=
    d.entries.foldlRecOn _ (motive := fun v : Hw => v.flt = u.flt ∧ v.routeEpoch = u.routeEpoch) ⟨rfl, rfl⟩ fun _ h _ _ => h
  unfold Hw.armDetour
  dsimp only
  split
  · exact ⟨s.refresh, refresh_flt s, refresh_routeEpoch s, rfl⟩
  · next d _ =>
    obtain ⟨hflt, hepoch⟩ := entries d s.refresh
    exact ⟨_, hflt.trans (refresh_flt s), hepoch.trans (refresh_routeEpoch s), rfl⟩

theorem armDetour_actions (s : Hw) (n : Nat) : (s.armDetour n).flt.actions = s.flt.actions := by
  obtain ⟨t, hflt, -, h⟩ := armDetour_frame s n
  rw [h, ← hflt]

theorem armDetour_detoursOn (s : Hw) (n : Nat) : (s.armDetour n).flt.detoursOn = s.flt.detoursOn := by
  obtain ⟨t, hflt, -, h⟩ := armDetour_frame s n
  rw [h, ← hflt]

theorem armDetour_routeEpoch (s : Hw) (n : Nat) : (s.armDetour n).routeEpoch = s.routeEpoch := by
  obtain ⟨t, -, hepoch, h⟩ := armDetour_frame s n
  rw [h, ← hepoch]

theorem mem_armDetour (s : Hw) (n : Nat) : n ∈ (s.armDetour n).flt.detoursArmed := by
  obtain ⟨t, -, -, h⟩ := armDetour_frame s n
  rw [h]
  dsimp only
  split
  · next hn => simpa using hn
  · simp

theorem readyAction_actions {s t : Hw} {a : BAction} (h : s.readyAction a = some t) : t.flt.actions = s.flt.actions := by
  unfold Hw.readyAction at h
  obtain ⟨-, h⟩ := Option.ite_none_left_eq_some.1 h
  split at h <;> cases h
  exact armDetour_actions _ _

theorem readyAction_of_waits (s : Hw) {a : BAction} (h : a.waits) : s.readyAction a = none := by
  simp [Hw.readyAction, h.2]

theorem armReady_of_waits {s : Hw} (h : ∀ a ∈ s.flt.actions, a.waits) : s.armReady = s :=
  foldl_eq_self fun a ha => by rw [readyAction_of_waits s (h a ha)]

theorem armReady_actions (s : Hw) : s.armReady.flt.actions.Sublist s.flt.actions := by
  refine s.flt.actions.foldlRecOn _ (motive := fun u : Hw => u.flt.actions.Sublist s.flt.actions) (.refl _)
    fun u hu a _ => ?_
  dsimp only
  split
  · next t h =>
    rw [← readyAction_actions h] at hu
    exact List.erase_sublist.trans hu
  · exact hu

theorem armReady_remap {s : Hw} {a : BAction} {r : Remap} (hs : s.flt.actions = [a]) (started : a.started = true)
    (last : a.awaits = []) (act : a.act = .remap r) : s.armReady = (s.armDetour r.detour).withActions [] := by
  have ready : s.readyAction a = some (s.armDetour r.detour) := by simp [Hw.readyAction, started, last, act]
  simp only [Hw.armReady, hs, List.foldl_cons, List.foldl_nil, ready, armDetour_actions, List.erase_cons_head, Hw.withActions]

theorem armReady_park {s : Hw} {a : BAction} {g : Nat} (hs : s.flt.actions = [a]) (act : a.act = .park g) : s.armReady = s := by
  have ready : s.readyAction a = none := by simp [Hw.readyAction, act]
  simp only [Hw.armReady, hs, List.foldl_cons, List.foldl_nil, ready]

/-! ## A park that completes -/

@[simp] theorem onFld_fld_self (s : Hw) (n : Nat) (f : Field → Field) : (s.onFld n f).fld n = f (s.fld n) := by
  simp [Hw.onFld]

theorem record_fld (s : Hw) (i : RecIn) (n : Nat) : (s.record i).fld n = s.fld n := by rw [Hw.fld, record_flds, Hw.fld]

theorem actionDone_park {s : Hw} {a : BAction} {g : Nat} (started : a.started = true) (last : a.awaits = [])
    (act : a.act = .park g) (ramp : s.rampPending g = false) :
    ∃ t, s.actionDone a = some t ∧ (t.fld g).state = .parked ∧ (t.fld g).park = .parked := by
  have final (u : Hw) : (if a.byDriver then u.prkFinal 2 else u).fld g = u.fld g := by split <;> rfl
  have parked (u : Hw) (w : Pwr) :
      (({ u with pwr := w } : Hw).parkRecord g false false a.byDriver).fld g = u.fld g := record_fld _ _ g
  unfold Hw.actionDone
  rw [if_neg (by simp [started, last]), act]
  dsimp only
  rw [if_neg (by simp [ramp])]
  refine ⟨_, rfl, ?_⟩
  rw [final, parked, onFld_fld_self]
  exact ⟨rfl, rfl⟩

theorem settleActions_park {s : Hw} {a : BAction} {g : Nat} (hs : s.flt.actions = [a]) (started : a.started = true)
    (last : a.awaits = []) (act : a.act = .park g) (ramp : s.rampPending g = false) :
    s.settleActions.flt.actions = [] ∧ (s.settleActions.fld g).state = .parked ∧ (s.settleActions.fld g).park = .parked := by
  have rings : s.startRingTests = s := by simp only [Hw.startRingTests, hs, List.foldl_cons, List.foldl_nil, act]
  obtain ⟨t, done, state, park⟩ := actionDone_park started last act ramp
  have complete : s.completeActions = t.withActions (t.flt.actions.erase a) := by
    simp only [Hw.completeActions, hs, List.foldl_cons, List.foldl_nil, done, Hw.withActions]
  have gone : t.flt.actions.erase a = [] := by
    have sub := hs ▸ (actionDone_routes done).actions
    rcases List.sublist_singleton.1 sub with h | h <;> simp [h]
  have settled : s.settleActions = (t.withActions []).runEngines := by
    rw [settleActions_eq, rings, complete, gone, runActions_of_started (s := t.withActions []) (fun _ h => nomatch h)]
  have kept := runEngines_power (t.withActions [])
  rw [settled, kept.fld]
  exact ⟨List.sublist_nil.1 kept.actions, state, park⟩

/-! ## Records and what they count -/

/-- Serials only rise, an uncontained fault stays known, and the stroke goes on. -/
structure Reports (s t : Hw) : Prop where
  serial : s.flt.nextSerial ≤ t.flt.nextSerial
  uncontained : s.flt.uncontained = true → t.flt.uncontained = true
  num : t.stk.num = s.stk.num

theorem Reports.refl (s : Hw) : Reports s s := ⟨Nat.le_refl _, id, rfl⟩
theorem Reports.trans {s t u : Hw} (h : Reports s t) (g : Reports t u) : Reports s u :=
  ⟨h.serial.trans g.serial, g.uncontained ∘ h.uncontained, g.num.trans h.num⟩

theorem raise_reports (s : Hw) (n : Nat) : Reports s (s.raise n) := ⟨by simp, by simp, by simp⟩

theorem commitRecord_serial (s : Hw) (r : FaultRec) :
    (s.commitRecord r).flt.nextSerial = s.flt.nextSerial ∧ (s.commitRecord r).flt.uncontained = s.flt.uncontained := by
  unfold Hw.commitRecord
  dsimp only
  split <;> simp

theorem emitRecord_serial (s : Hw) (r : FaultRec) :
    (s.emitRecord r).flt.nextSerial = s.flt.nextSerial + 1 ∧ (s.emitRecord r).flt.uncontained = s.flt.uncontained := by
  unfold Hw.emitRecord
  dsimp only
  split <;> split <;> simp [commitRecord_serial]

theorem emitRecord_reports (s : Hw) (r : FaultRec) : Reports s (s.emitRecord r) := by
  obtain ⟨serial, uncontained⟩ := emitRecord_serial s r
  exact ⟨by omega, by rw [uncontained]; exact id, by simp⟩

theorem closeRecovery_reports (s : Hw) (serial : Nat) : Reports s (s.closeRecovery serial) := by
  unfold Hw.closeRecovery
  split
  · exact .refl s
  · next v _ =>
    obtain ⟨hs, hu, hn⟩ := v.records.foldlRecOn _ (motive := Reports s) (Reports.refl s) fun u h r _ =>
      h.trans (emitRecord_reports u { r with outcome := .uncontained, related := some serial })
    exact ⟨hs, hu, hn⟩

theorem stopUncontained_reports (s : Hw) (serial : Nat) :
    Reports s (s.stopUncontained serial) ∧ (s.stopUncontained serial).flt.uncontained = true := by
  obtain ⟨hs, -, hn⟩ := (closeRecovery_reports s serial).trans (raise_reports _ 32)
  unfold Hw.stopUncontained
  dsimp only
  split <;> exact ⟨⟨hs, fun _ => rfl, hn⟩, rfl⟩

theorem judgeHigh_reports (s : Hw) : Reports s s.judgeHigh := by
  have high (b : Bool) (t : Hw) : Reports t (if b then t.raise 33 else t) := by
    split
    · exact raise_reports _ _
    · exact .refl _
  obtain ⟨hs, hu, hn⟩ := (high _ s).trans (high _ _)
  unfold Hw.judgeHigh
  exact ⟨hs, hu, hn⟩

theorem judgeFull_reports (s : Hw) : Reports s s.judgeFull := by
  have full (b : Bool) (t : Hw) (i : RecIn) (n : Nat) :
      Reports t (if b then ((t.writeRecord i).stopUncontained n).raise 34 else t) := by
    split
    · exact ((emitRecord_reports _ _).trans (stopUncontained_reports _ _).1).trans (raise_reports _ _)
    · exact .refl _
  obtain ⟨hs, hu, hn⟩ := (full _ s _ _).trans (full _ _ _ _)
  unfold Hw.judgeFull
  exact ⟨hs, hu, hn⟩

theorem record_reports (s : Hw) (i : RecIn) : Reports s (s.record i) :=
  ((emitRecord_reports s _).trans (judgeHigh_reports _)).trans (judgeFull_reports _)

theorem record_serial_lt (s : Hw) (i : RecIn) : s.flt.nextSerial < (s.record i).flt.nextSerial := by
  have written : (s.writeRecord i).flt.nextSerial = s.flt.nextSerial + 1 := (emitRecord_serial _ _).1
  have judged := ((judgeHigh_reports (s.writeRecord i)).trans (judgeFull_reports _)).serial
  exact Nat.lt_of_lt_of_le (by omega) judged

theorem uncontain_reports (s : Hw) (i : RecIn) : Reports s (s.uncontain i) ∧ (s.uncontain i).flt.uncontained = true := by
  obtain ⟨stop, known⟩ := stopUncontained_reports (s.writeRecord { i with outcome := .uncontained }) s.flt.nextSerial
  have judged := (judgeHigh_reports ((s.writeRecord { i with outcome := .uncontained }).stopUncontained s.flt.nextSerial)).trans
    (judgeFull_reports _)
  exact ⟨((emitRecord_reports s _).trans stop).trans judged, judged.uncontained known⟩

end Sys2Proof.Machine
end

section
/-!
# The switch of routes (R126-R128)

The switch puts the chosen sets in force, steps the epoch once, and gives every mapped core the routes of its image under
the sets in force. What follows it at the boundary, the ramps of deep parks, the actions that are done and the next
beat, changes no route.
-/
namespace Sys2Proof.Machine

/-! ## Rewriting every entry of a map -/

section Rebuild
variable {V : Type}

theorem mem_keys_of_nget_ne {d : V} {m : NMap V} {k : Nat} (h : nget d m k ≠ d) : k ∈ m.map Prod.fst := by
  induction m with
  | nil => exact absurd rfl h
  | cons e m ih =>
    by_cases hk : e.1 = k
    · simp [hk]
    · rw [nget, if_neg hk] at h
      exact List.mem_cons_of_mem _ (ih h)

theorem nget_foldl_nput [DecidableEq V] {d : V} (g : Nat → V → V) {m : NMap V} (hm : nwf d m = true) (acc : NMap V) (k : Nat) :
    nget d (m.foldl (fun r e => nput d r e.1 (g e.1 e.2)) acc) k =
      if k ∈ m.map Prod.fst then g k (nget d m k) else nget d acc k := by
  induction m generalizing acc with
  | nil => rfl
  | cons e m ih =>
    obtain ⟨q, v⟩ := e
    obtain ⟨-, hq, hm⟩ := (nwf_cons d q v m).1 hm
    rw [List.foldl_cons, ih hm, nget_nput]
    have fresh : q ∉ m.map Prod.fst := fun hmem => by
      obtain ⟨e, he, rfl⟩ := List.mem_map.1 hmem
      exact absurd (hq e he) (Nat.lt_irrefl _)
    by_cases hk : k = q
    · subst hk
      simp [fresh, nget]
    · have tail : k ∈ ((q, v) :: m).map Prod.fst ↔ k ∈ m.map Prod.fst := by
        rw [List.map_cons, List.mem_cons]
        exact or_iff_right hk
      rw [if_neg hk, nget, if_neg (Ne.symm hk), if_congr tail rfl rfl]

theorem nwf_foldl_nput [DecidableEq V] {d : V} (g : Nat → V → V) (m : NMap V) {acc : NMap V} (h : nwf d acc = true) :
    nwf d (m.foldl (fun r e => nput d r e.1 (g e.1 e.2)) acc) = true :=
  m.foldlRecOn _ (motive := fun r => nwf d r = true) h fun _ hr _ _ => nwf_nput _ _ hr

/-- Every entry that a canonical map lists is rewritten. -/
theorem nget_rebuild [DecidableEq V] {d : V} (g : Nat → V → V) {m : NMap V} (hm : nwf d m = true) {k : Nat}
    (hk : nget d m k ≠ d) :
    nget d (m.foldl (fun r e => nput d r e.1 (g e.1 e.2)) []) k = g k (nget d m k) := by
  rw [nget_foldl_nput g hm, if_pos (mem_keys_of_nget_ne hk)]

end Rebuild

/-! ## The switch -/

/-- Sets in force after the switch. -/
def Hw.setsOn (s : Hw) : List Nat :=
  (s.flt.detoursOn.filter fun n => !s.flt.withdrawArmed.contains n)
    ++ (s.chooseSets s.flt.detoursArmed).filter fun n => !s.flt.detoursOn.contains n

/-- Armed sets that wait for a later boundary. -/
def Hw.setsLater (s : Hw) : List Nat := s.flt.detoursArmed.filter fun n => !(s.chooseSets s.flt.detoursArmed).contains n

/-- The state at the switch, before the sets that wait are armed again: the shadow entries are empty. -/
def Hw.freshRoutes (s : Hw) : Hw :=
  { s with
    flt := { s.flt with detoursOn := s.setsOn, detoursArmed := s.setsLater, withdrawArmed := [] }
    cores := s.cores.foldl (fun (m : NMap CoreState) (e : Nat × CoreState) => nput {} m e.1 { e.2 with routesShadow := [] }) []
    routeEpoch := s.routeEpoch + 1 }

theorem switchRoutes_eq (s : Hw) : s.switchRoutes = s.setsLater.foldl Hw.armDetour s.freshRoutes.applyRoutes := rfl

theorem applyRoutes_frame (s : Hw) : s.applyRoutes = { s with cores := s.applyRoutes.cores } := by
  unfold Hw.applyRoutes
  split <;> rfl

theorem switchRoutes_epoch (s : Hw) :
    s.switchRoutes.routeEpoch = s.routeEpoch + 1 ∧ s.switchRoutes.flt.detoursOn = s.setsOn := by
  have applied : s.freshRoutes.applyRoutes.routeEpoch = s.routeEpoch + 1 ∧ s.freshRoutes.applyRoutes.flt.detoursOn = s.setsOn := by
    rw [applyRoutes_frame]
    exact ⟨rfl, rfl⟩
  rw [switchRoutes_eq]
  exact s.setsLater.foldlRecOn Hw.armDetour (motive := fun t : Hw => t.routeEpoch = s.routeEpoch + 1 ∧ t.flt.detoursOn = s.setsOn)
    applied fun t ⟨he, ho⟩ n _ => ⟨(armDetour_routeEpoch t n).trans he, (armDetour_detoursOn t n).trans ho⟩

/-- No armed set waits where each is chosen. -/
theorem switchRoutes_of_all {s : Hw} (all : s.chooseSets s.flt.detoursArmed = s.flt.detoursArmed) :
    s.setsLater = [] ∧ s.switchRoutes = s.freshRoutes.applyRoutes := by
  have later : s.setsLater = [] := by
    rw [Hw.setsLater, all]
    exact List.filter_eq_nil_iff.2 fun n hn => by simp [hn]
  exact ⟨later, by rw [switchRoutes_eq, later, List.foldl_nil]⟩

theorem ne_default_of_mapped {x : CoreState} (h : x.mapped = true) : x ≠ {} := by
  rintro rfl
  cases h

theorem freshRoutes_core {s : Hw} (hs : nwf {} s.cores = true) {c : Nat} (mapped : (s.core c).mapped = true) :
    s.freshRoutes.core c = { s.core c with routesShadow := [] } :=
  nget_rebuild (fun _ (x : CoreState) => { x with routesShadow := [] }) hs (ne_default_of_mapped mapped)

/-- The routes of a mapped core after the switch. -/
theorem applyRoutes_core {s : Hw} {b : Billet} (image : s.image = some b) (hs : nwf {} s.cores = true) {c : Nat}
    (mapped : (s.core c).mapped = true) :
    s.applyRoutes.core c = { s.core c with routes := routesUnder b s.flt.detoursOn (s.core c).image c } := by
  have rebuilt := nget_rebuild
    (fun c (x : CoreState) => if x.mapped then { x with routes := routesUnder b s.flt.detoursOn x.image c } else x)
    hs (ne_default_of_mapped mapped)
  unfold Hw.applyRoutes
  rw [image]
  exact rebuilt.trans (if_pos mapped)

theorem switched_core {s : Hw} {b : Billet} (image : s.image = some b) (hs : nwf {} s.cores = true) {c : Nat}
    (mapped : (s.core c).mapped = true) :
    s.freshRoutes.applyRoutes.core c =
      { s.core c with routes := routesUnder b s.setsOn (s.core c).image c, routesShadow := [] } := by
  have step := freshRoutes_core hs mapped
  have canonical : nwf {} s.freshRoutes.cores = true :=
    nwf_foldl_nput (fun _ (x : CoreState) => { x with routesShadow := [] }) s.cores rfl
  rw [applyRoutes_core (s := s.freshRoutes) image canonical (by rw [step]; exact mapped), step]
  rfl

/-! ## What follows the switch at the boundary -/

/-- Deep parks whose routes have switched ramp down. -/
def Hw.rampDeeps (s : Hw) (was : List Nat) : Hw :=
  s.flt.actions.foldl (fun s a => match a.act with
    | .deepPark f => match s.fieldDetour f with
      | some n => if s.flt.detoursOn.contains n && !was.contains n then s.rampTo f 0 else s
      | none => s
    | _ => s) s

theorem rampDeeps_routes (s : Hw) (was : List Nat) : SameRoutes s (s.rampDeeps was) := by
  refine .foldl (fun u a => ?_) _ s
  split
  · split
    · exact ite_routes (rampTo_routes _ _ _) (.refl u)
    · exact .refl u
  · exact .refl u

theorem exec_routeSwitch {s : State} (due : s.hw.routesDue = true) (between : s.hw.stk.inBeat = false)
    (free : s.hw.flt.held = false) (drained : s.hw.drained = true) :
    exec .routeSwitch s =
      .next { s with hw := ((s.hw.switchRoutes.rampDeeps s.hw.flt.detoursOn).settleActions).nextBeat } := by
  have switch : execRouteSwitch s = s.act fun h => if !h.routesDue || h.stk.inBeat || h.flt.held || !h.drained then h
      else ((h.switchRoutes.rampDeeps h.flt.detoursOn).settleActions).nextBeat := rfl
  exact switch.trans (by simp [State.act, due, between, free, drained])

theorem exec_routeSwitch_undrained {s : State} (full : s.hw.drained = false) : exec .routeSwitch s = .next s := by
  have switch : execRouteSwitch s = s.act fun h => if !h.routesDue || h.stk.inBeat || h.flt.held || !h.drained then h
      else ((h.switchRoutes.rampDeeps h.flt.detoursOn).settleActions).nextBeat := rfl
  exact switch.trans (by simp [State.act, full])

theorem afterSwitch_routing (s : Hw) (was : List Nat) :
    ((s.rampDeeps was).settleActions).nextBeat.routing = s.routing :=
  ((nextBeat_work _).routing.trans (settleActions_begins _).routing).trans (rampDeeps_routes s was).routing

/-- With no boundary action and no span request under way nothing but the next beat follows. -/
theorem afterSwitch_idle {s : Hw} (was : List Nat) (actions : s.flt.actions = []) (engines : s.spn.engines = []) :
    ((s.rampDeeps was).settleActions).nextBeat = s.nextBeat := by
  have still : s.rampDeeps was = s := by simp only [Hw.rampDeeps, actions, List.foldl_nil]
  rw [still, settleActions_of_waits (fun a ha => absurd ha (by simp [actions])), runEngines_of_none engines]

end Sys2Proof.Machine
end

section
/-!
# The replay of a beat (R80, R327)

What the beat brought into being is discarded, and cores are put back to the snapshot; neither touches the fault path, the
stroke or the billet.
-/
namespace Sys2Proof.Machine

/-! ## Discarding touches no core -/

/-- The fault path, the stroke and the billet that runs are the same. -/
structure SameRun (s t : Hw) : Prop where
  flt : t.flt = s.flt
  stk : t.stk = s.stk
  running : t.running = s.running

/-- And so are the cores. -/
structure SameBeat (s t : Hw) : Prop extends SameRun s t where
  cores : t.cores = s.cores

section Compose
variable {s t u : Hw}

theorem SameRun.refl (s : Hw) : SameRun s s := ⟨rfl, rfl, rfl⟩
theorem SameRun.trans (h : SameRun s t) (g : SameRun t u) : SameRun s u :=
  ⟨g.flt.trans h.flt, g.stk.trans h.stk, g.running.trans h.running⟩
theorem SameRun.foldl {α : Type} {f : Hw → α → Hw} (step : ∀ s x, SameRun s (f s x)) (l : List α) (s : Hw) :
    SameRun s (l.foldl f s) := l.foldlRecOn f (.refl s) fun _ h x _ => h.trans (step _ x)

theorem SameBeat.refl (s : Hw) : SameBeat s s := ⟨.refl s, rfl⟩
theorem SameBeat.trans (h : SameBeat s t) (g : SameBeat t u) : SameBeat s u :=
  ⟨h.toSameRun.trans g.toSameRun, g.cores.trans h.cores⟩
theorem SameBeat.core (h : SameBeat s t) (c : Nat) : t.core c = s.core c := by rw [Hw.core, h.cores, Hw.core]
theorem SameBeat.set (h : SameBeat s t) (same : (u.flt, u.stk, u.running, u.cores) = (t.flt, t.stk, t.running, t.cores)) :
    SameBeat s u := by
  simp only [Prod.mk.injEq] at same
  obtain ⟨flt, stk, running, cores⟩ := same
  exact h.trans ⟨⟨flt, stk, running⟩, cores⟩
theorem SameBeat.foldl {α : Type} {f : Hw → α → Hw} (step : ∀ s x, SameBeat s (f s x)) (l : List α) (s : Hw) :
    SameBeat s (l.foldl f s) := l.foldlRecOn f (.refl s) fun _ h x _ => h.trans (step _ x)
theorem ite_beat {p : Prop} [Decidable p] (h : SameBeat s t) (g : SameBeat s u) : SameBeat s (if p then t else u) := by
  split
  · exact h
  · exact g

end Compose

theorem setArb_beat (s : Hw) (k : Nat) (a : Arb) : SameBeat s (s.setArb k a) := ⟨⟨rfl, rfl, rfl⟩, rfl⟩

theorem arbSet_beat (s : Hw) (f kind inst input n : Nat) : SameBeat s (s.arbSet f kind inst input n) := by
  unfold Hw.arbSet
  refine ite_beat (ite_beat (.refl s) (setArb_beat _ _ _)) ?_
  split
  · unfold Hw.arbRaise
    dsimp only
    split <;> exact setArb_beat _ _ _
  · exact setArb_beat _ _ _

theorem resetRequests_beat (s : Hw) (c : Nat) : SameBeat s (s.resetRequests c) :=
  (arbSet_beat _ _ _ _ _ _).trans (arbSet_beat _ _ _ _ _ _)

theorem dropUntaken_beat (s : Hw) (e stroke beat : Nat) : SameBeat s (s.dropUntaken e stroke beat) := by
  unfold Hw.dropUntaken Hw.setSpanEng
  exact (SameBeat.refl s).set (by with_reducible rfl)

theorem undoInst_beat (s : Hw) (e : Nat) (i : Inst) (t : Nat × Nat) : SameBeat s (s.undoInst e i t) := by
  unfold Hw.undoInst Hw.setInst Hw.onEngine Hw.setEngine
  refine ite_beat (.refl s) ?_
  exact (SameBeat.refl s).set (by with_reducible rfl)

theorem undoEntries_beat (s : Hw) (t : Nat × Nat) : SameBeat s (s.undoEntries t) :=
  .foldl (fun _ _ => .foldl (fun _ _ => undoInst_beat _ _ _ _) _ _) _ _

theorem onPort_beat (s : Hw) (p : Nat) (f : Port → Port) : SameBeat s (s.onPort p f) := by
  unfold Hw.onPort Hw.setPort
  exact (SameBeat.refl s).set (by with_reducible rfl)

theorem discardBeats_beat (s : Hw) (beats : List (Nat × Nat)) : SameBeat s (s.discardBeats beats) := by
  have fabric (ms : List FMsg) : SameBeat s { s with fabric := ms } := (SameBeat.refl s).set (by with_reducible rfl)
  refine ((fabric _).trans (.foldl (fun _ _ => resetRequests_beat _ _) _ _)).trans (.foldl (fun u b => ?_) _ _)
  refine SameBeat.set (t := Hw.undoEntries _ b)
    (SameBeat.trans (SameBeat.trans (.foldl (fun u e => ?_) _ u) (.foldl (fun u q => ?_) _ _))
    (undoEntries_beat _ b)) (by with_reducible rfl)
  · exact ite_beat (.refl u) (dropUntaken_beat _ _ _ _)
  · exact ite_beat (.refl u) (onPort_beat _ _ _)

theorem redeliver_beat (s : Hw) (beats : List (Nat × Nat)) : SameBeat s (s.redeliver beats) := by
  refine .foldl (fun u p => ite_beat (.refl u) ?_) _ s
  exact (SameBeat.refl u).set (by with_reducible rfl)

/-! ## Cores go back to their snapshot -/

/-- What a rewind leaves of a mapped core: its memory, program and routes. -/
structure CoreState.Stands (x z : CoreState) : Prop where
  sram : z.sram = x.sram
  prog : z.prog = x.prog
  routes : z.routes = x.routes
  mapped : z.mapped = true

/-- What a rewind takes from a core's snapshot. -/
structure CoreState.Restored (y z : CoreState) : Prop where
  pc : z.pc = y.pc
  sregs : z.sregs = y.sregs
  dregs : z.dregs = y.dregs
  vregs : z.vregs = y.vregs
  acc : z.acc = y.acc
  running : z.running = y.running
  ready : z.ready = y.ready
  taskPend : z.taskPend = y.taskPend
  srState : z.srState = y.srState
  chans : z.chans = y.chans
  errSym : z.errSym = false

/-- One core is put back to a snapshot. -/
def Hw.rewindCore (s : Hw) (p : Snap) (beats : List (Nat × Nat)) (c : Nat) : Hw :=
  ((s.onCore c fun x => x.rewind (nget {} p.cores c) beats).recount c).resetRequests c

theorem rewindCore_run (s : Hw) (p : Snap) (beats : List (Nat × Nat)) (c : Nat) : SameRun s (s.rewindCore p beats c) := by
  have core : SameRun s ((s.onCore c fun x => x.rewind (nget {} p.cores c) beats).recount c) := ⟨rfl, rfl, rfl⟩
  exact core.trans (resetRequests_beat _ c).toSameRun

theorem rewindCore_core_self {s : Hw} (p : Snap) (beats : List (Nat × Nat)) {c : Nat} (mapped : (s.core c).mapped = true) :
    ((s.core c).Stands ((s.rewindCore p beats c).core c)) ∧ (nget {} p.cores c).Restored ((s.rewindCore p beats c).core c) := by
  rw [Hw.rewindCore, (resetRequests_beat _ c).core, Hw.recount, Hw.onCore, setCore_core, if_pos rfl, Hw.onCore, setCore_core,
    if_pos rfl, CoreState.rewind, if_neg (by simp [mapped])]
  exact ⟨⟨rfl, rfl, rfl, mapped⟩, ⟨rfl, rfl, rfl, rfl, rfl, rfl, rfl, rfl, rfl, rfl, rfl⟩⟩

theorem rewindCore_core_of_ne (s : Hw) (p : Snap) (beats : List (Nat × Nat)) {c k : Nat} (h : c ≠ k) :
    (s.rewindCore p beats k).core c = s.core c := by
  rw [Hw.rewindCore, (resetRequests_beat _ k).core, Hw.recount, Hw.onCore, setCore_core, if_neg h, Hw.onCore, setCore_core, if_neg h]

theorem rewindCores_core (p : Snap) (beats : List (Nat × Nat)) {c : Nat} (cs : List Nat) {s : Hw}
    (mapped : (s.core c).mapped = true) :
    let t := cs.foldl (fun s k => s.rewindCore p beats k) s
    (s.core c).Stands (t.core c) ∧
      (c ∈ cs ∨ (nget {} p.cores c).Restored (s.core c) → (nget {} p.cores c).Restored (t.core c)) := by
  induction cs generalizing s with
  | nil => exact ⟨⟨rfl, rfl, rfl, mapped⟩, fun h => h.resolve_left (by simp)⟩
  | cons k cs ih =>
    by_cases hk : c = k
    · subst hk
      obtain ⟨stands, restored⟩ := rewindCore_core_self p beats mapped
      obtain ⟨later, kept⟩ := ih stands.mapped
      exact ⟨⟨later.sram.trans stands.sram, later.prog.trans stands.prog, later.routes.trans stands.routes, later.mapped⟩,
        fun _ => kept (.inr restored)⟩
    · have same := rewindCore_core_of_ne s p beats hk
      obtain ⟨later, kept⟩ := ih (s := s.rewindCore p beats k) (by rw [same]; exact mapped)
      rw [same] at later kept
      exact ⟨later, fun h => kept (h.imp_left fun hc => (List.mem_cons.1 hc).resolve_left hk)⟩

theorem rewindUnits_eq (s : Hw) (p : Snap) (beats : List (Nat × Nat)) :
    s.rewindUnits p beats = (List.range 48).foldl (fun s h => s.onHerder h fun x => x.rewind (nget {} p.herders h) beats)
      ((s.cores.map (·.1) ++ p.cores.map (·.1)).foldl (fun s k => s.rewindCore p beats k) s) := rfl

theorem onHerder_beat (s : Hw) (h : Nat) (f : Herder → Herder) : SameBeat s (s.onHerder h f) := ⟨⟨rfl, rfl, rfl⟩, rfl⟩

theorem rewindUnits_run (s : Hw) (p : Snap) (beats : List (Nat × Nat)) : SameRun s (s.rewindUnits p beats) :=
  (SameRun.foldl (fun s c => rewindCore_run s p beats c) _ s).trans (SameBeat.foldl (fun s h => onHerder_beat s h _) _ _).toSameRun

theorem rewindUnits_core {s : Hw} (p : Snap) (beats : List (Nat × Nat)) {c : Nat} (mapped : (s.core c).mapped = true) :
    (s.core c).Stands ((s.rewindUnits p beats).core c) ∧
      (nget {} p.cores c).Restored ((s.rewindUnits p beats).core c) := by
  have listed : c ∈ s.cores.map (·.1) ++ p.cores.map (·.1) :=
    List.mem_append_left _ (mem_keys_of_nget_ne (ne_default_of_mapped mapped))
  obtain ⟨stands, restored⟩ := rewindCores_core p beats (s.cores.map (·.1) ++ p.cores.map (·.1)) mapped
  rw [rewindUnits_eq, (SameBeat.foldl (fun s h => onHerder_beat s h _) _ _).core]
  exact ⟨stands, restored (.inl listed)⟩

/-! ## The replay -/

theorem drained_of_not_due {s : Hw} (h : s.routesDue = false) : s.drained = true := by
  obtain ⟨armed, withdrawn⟩ : s.flt.detoursArmed = [] ∧ s.flt.withdrawArmed = [] := by simpa [Hw.routesDue] using h
  have fields : s.switchFields = [] := by simp [Hw.switchFields, armed, withdrawn]
  simp [Hw.drained, fields]

theorem routesDue_congr {s t : Hw} (h : t.flt = s.flt) : t.routesDue = s.routesDue := by rw [Hw.routesDue, h, Hw.routesDue]

/-- The state in which the beat starts anew: its effects discarded, the cores and herders put back, the port sites
delivering again. -/
def Hw.rewound (s : Hw) (b : Nat × Nat) (p : Snap) : Hw := ((s.discardBeats [b]).rewindUnits p [b]).redeliver [b]

theorem rewound_run (s : Hw) (b : Nat × Nat) (p : Snap) : SameRun s (s.rewound b p) :=
  ((discardBeats_beat s [b]).toSameRun.trans (rewindUnits_run _ p [b])).trans (redeliver_beat _ [b]).toSameRun

theorem rewound_core {s : Hw} (b : Nat × Nat) (p : Snap) {c : Nat} (mapped : (s.core c).mapped = true) :
    (s.core c).Stands ((s.rewound b p).core c) ∧ (nget {} p.cores c).Restored ((s.rewound b p).core c) := by
  have discarded := (discardBeats_beat s [b]).core c
  rw [Hw.rewound, (redeliver_beat _ [b]).core, ← discarded]
  exact rewindUnits_core p [b] (by rw [discarded]; exact mapped)

end Sys2Proof.Machine
end

section
/-!
# A held beat begins anew (R327, R328)

Where the plan asks for nothing more at the beat's start, the replay is the rewind and the fresh start.
-/
namespace Sys2Proof.Machine

/-- The last work beat of a stroke that had ended runs again. -/
def Hw.endsAgain (s old : Hw) (v : Recovery) : Bool :=
  decide ((v.stroke, v.beat) ≠ old.curBeat) && decide (s.image.bind (fun i => i.stroke.lastWork) = some v.beat) &&
    decide (s.stk.ended = v.stroke)

/-- The named beat begins anew; `old` is the state before the replay. -/
def Hw.startAnew (s old : Hw) (v : Recovery) (beats : List (Nat × Nat)) : Hw :=
  { s with
    snaps := s.snaps.filter fun q => !beats.contains (q.stroke, q.beat) || decide ((q.stroke, q.beat) = (v.stroke, v.beat))
    stk := { s.stk with
      workStroke := v.stroke, beat := v.beat, inBeat := true, beatStart := s.now, triggered := false
      uncommitted := if s.stk.uncommitted = some (v.stroke, v.beat) then none else s.stk.uncommitted
      working := s.stk.working || s.endsAgain old v
      ended := if s.endsAgain old v then v.stroke - 1 else s.stk.ended
      carried := if s.endsAgain old v then s.stk.savedCarry else s.stk.carried
      endDue := s.stk.endDue && !s.endsAgain old v }
    flt := { s.flt with
      interrupt := if s.endsAgain old v then s.flt.interrupt + s.stk.savedInterrupt else s.flt.interrupt
      starts := old.startsOf (v.stroke, v.beat) + 1, replayCnt := s.flt.replayCnt + 1
      recovery := s.flt.recovery.map fun v => { v with hold := false } } }

/-- The billet's plan asks for nothing more at the start of beat `i`: it is no post beat that comes first, and no walk. -/
def Hw.plainBeat (s : Hw) (i : Nat) : Prop :=
  ∀ b, s.image = some b → b.stroke.firstPost ≠ some i ∧ ∀ kv, b.kv = some kv → kv.walkBeat ≠ i

theorem plainBeat_walk {s : Hw} {i : Nat} (h : s.plainBeat i) :
    ((s.image.bind (·.kv)).any fun k => decide (k.walkBeat = i)) = false := by
  cases hs : s.image with
  | none => rfl
  | some b =>
    cases hk : b.kv with
    | none => simp [hk]
    | some kv => simpa [hk] using (h b hs).2 kv hk

theorem plainBeat_post {s : Hw} {i : Nat} (h : s.plainBeat i) : (s.image.bind fun b => b.stroke.firstPost) ≠ some i := by
  cases hs : s.image with
  | none => simp
  | some b => exact (h b hs).1

theorem plainBeat_congr {s t : Hw} (h : t.running = s.running) {i : Nat} (g : s.plainBeat i) : t.plainBeat i := by
  intro b hb
  rw [Hw.image, h] at hb
  exact g b hb

theorem exec_beatReplay {s : State} {v : Recovery} {p : Snap} (recovery : s.hw.flt.recovery = some v)
    (hold : v.hold = true) (page : v.page = none) (remaps : v.remaps = []) (beat : (v.stroke, v.beat) = s.hw.curBeat)
    (run : s.hw.flt.stopAll = false) (ready : ∀ a ∈ s.hw.flt.actions, ∀ r, a.act ≠ .remap r)
    (due : s.hw.routesDue = false)
    (snap : s.hw.snaps.find? (fun q => decide ((q.stroke, q.beat) = (v.stroke, v.beat))) = some p)
    (plain : s.hw.plainBeat v.beat) :
    exec .beatReplay s =
      .next { s with hw := (s.hw.rewound (v.stroke, v.beat) p).startAnew s.hw v [(v.stroke, v.beat)] } := by
  have goes : s.hw.uncommittedBeat (v.stroke, v.beat) = true := by simp [Hw.uncommittedBeat, beat]
  have await : s.hw.awaitPage v = some s.hw := by simp only [Hw.awaitPage, page]
  have discarded := (discardBeats_beat s.hw [(v.stroke, v.beat)]).toSameRun
  have due' : (s.hw.discardBeats [(v.stroke, v.beat)]).routesDue = false := (routesDue_congr discarded.flt).trans due
  have kept := rewindUnits_run (s.hw.discardBeats [(v.stroke, v.beat)]) p [(v.stroke, v.beat)]
  have later := (routesDue_congr kept.flt).trans due'
  have plain' : (s.hw.rewound (v.stroke, v.beat) p).plainBeat v.beat := plainBeat_congr (rewound_run _ _ _).running plain
  have walk := plainBeat_walk plain'
  have post := plainBeat_post plain'
  have fold : ((s.hw.discardBeats [(v.stroke, v.beat)]).rewindUnits p [(v.stroke, v.beat)]).redeliver [(v.stroke, v.beat)] =
    s.hw.rewound (v.stroke, v.beat) p := rfl
  have call : exec .beatReplay s = execBeatReplay s := rfl
  rw [call]
  unfold execBeatReplay
  cases hl : ((s.hw.discardBeats [(v.stroke, v.beat)]).rewindUnits p [(v.stroke, v.beat)]).running <;>
  · simp only [State.act, recovery, hold, run, goes, Bool.or_false, Bool.false_or, Bool.not_true, await, snap, if_pos beat,
      drained_of_not_due due', Bool.false_eq_true, if_false, remaps, List.isEmpty_nil, if_true, List.foldl_nil, later, walk,
      post, fold, hl]
    rw [if_neg ?waits]
    case waits =>
      simp only [Bool.not_eq_true]
      refine List.any_eq_false.2 fun a ha => ?_
      split
      · next r hr => exact absurd hr (ready a ha r)
      · exact Bool.false_ne_true
    generalize s.hw.rewound (v.stroke, v.beat) p = u
    rfl

end Sys2Proof.Machine
end

section
/-!
# Boundary actions, the switch, warden links and the replay

The clauses of O43, each from the rule of its instruction.
-/
namespace Sys2Proof.Machine

/-! ## Warden links (R26, R341) -/

/-- The record of a warden that has missed three status words. -/
def linkRecord (f : FieldIx) : RecIn := { cls := 0x0A, loc := locField f.val, data := dat [f.val] }

/-- The link of field `f` is down, with its record. -/
def Hw.linkDown (s : Hw) (f : FieldIx) : Hw :=
  (s.onFld f.val fun x => { x with statusMissing := 3, gwekuLink := false }).record (linkRecord f)

theorem linkDown_fld (s : Hw) (f : FieldIx) :
    (s.linkDown f).fld f.val = { s.fld f.val with statusMissing := 3, gwekuLink := false } := by
  rw [Hw.linkDown, record_fld, onFld_fld_self]

theorem linkDown_reports (s : Hw) (f : FieldIx) :
    s.flt.nextSerial < (s.linkDown f).flt.nextSerial ∧ (s.linkDown f).stk.num = s.stk.num :=
  ⟨record_serial_lt (s.onFld f.val fun x => { x with statusMissing := 3, gwekuLink := false }) _,
    (record_reports (s.onFld f.val fun x => { x with statusMissing := 3, gwekuLink := false }) _).num⟩

/-- A lost link has its record; it is uncontained where a recovery waits for the warden. -/
theorem wardenLinkLoss_record {s : State} {f : FieldIx} (up : (s.hw.fld f.val).gwekuLink = true) :
    ∃ t, exec (.wardenLinkLoss f) s = .next t ∧
      t.hw.fld f.val = { s.hw.fld f.val with statusMissing := 3, gwekuLink := false } ∧
      s.hw.flt.nextSerial < t.hw.flt.nextSerial ∧ t.hw.stk.num = s.hw.stk.num ∧
      ∀ a ∈ s.hw.flt.actions, ∀ r, a.inField = false → a.started = true → f.val ∈ a.awaits → a.act = .remap r →
        t.hw.flt.uncontained = true := by
  have call : exec (.wardenLinkLoss f) s = execWardenLinkLoss f s := rfl
  obtain ⟨serial, num⟩ := linkDown_reports s.hw f
  have named : ({ cls := 0x0A, loc := locField f.val, data := dat [f.val] } : RecIn) = linkRecord f := rfl
  have down : (s.hw.onFld f.val fun x => { x with statusMissing := 3, gwekuLink := false }).record (linkRecord f) =
    s.hw.linkDown f := rfl
  rw [call]
  unfold execWardenLinkLoss
  refine ⟨_, rfl, ?_⟩
  simp only [up, Bool.not_true, Bool.false_eq_true, if_false, named, down]
  split
  case isTrue =>
    obtain ⟨reports, fails⟩ := uncontain_reports (s.hw.linkDown f) (linkRecord f)
    exact ⟨((uncontain_quiet _ _).power.fld _).trans (linkDown_fld s.hw f), serial.trans_le reports.serial,
      reports.num.trans num, fun _ _ _ _ _ _ _ => fails⟩
  case isFalse free =>
    refine ⟨linkDown_fld s.hw f, serial, num, fun a ha r central started awaited act => absurd ?_ free⟩
    exact List.any_eq_true.2 ⟨a, ha, by simp [central, started, awaited, act]⟩

/-! ## Acknowledgements (R23, R126, R361) -/

theorem answers_of_started {s : Hw} {f : Nat} {a : BAction} (started : a.started = true) (awaited : f ∈ a.awaits)
    (reach : a.inField = true ∨ s.reaches f = true) : s.answers f a = true := by
  simpa [Hw.answers, started, awaited] using reach

theorem answers_of_unreached {s : Hw} {f : Nat} {a : BAction}
    (h : a.started = true → f ∈ a.awaits → a.inField = false ∧ s.reaches f = false) : s.answers f a = false := by
  by_cases started : a.started = true <;> by_cases awaited : f ∈ a.awaits
  · obtain ⟨central, down⟩ := h started awaited
    simp [Hw.answers, central, down]
  all_goals simp [Hw.answers, started, awaited]

section Single
variable {s : State} {f : FieldIx} {a : BAction} (only : s.hw.flt.actions = [a]) (answers : s.hw.answers f.val a = true)
  (started : a.started = true)
include only answers

theorem exec_wardenAck_single : exec (.wardenAck f) s =
    .next { s with hw := (s.hw.withActions [a.struck f.val]).armReady.settleActions } :=
  exec_wardenAck (pre := []) (post := []) only (by simp) answers

include started

/-- Other wardens are still awaited: the acknowledgement is struck off and the action waits. -/
theorem wardenAck_waits (left : a.awaits.erase f.val ≠ []) :
    exec (.wardenAck f) s = .next { s with hw := (s.hw.withActions [a.struck f.val]).runEngines } := by
  have waits : ∀ z ∈ (s.hw.withActions [a.struck f.val]).flt.actions, z.waits := by
    rintro z hz
    obtain rfl : z = a.struck f.val := by simpa using hz
    exact ⟨started, left⟩
  rw [exec_wardenAck_single only answers, armReady_of_waits waits, settleActions_of_waits waits]

/-- The last acknowledgement of a remap arms its detour set and leaves the epoch. -/
theorem wardenAck_arms {r : Remap} (left : a.awaits.erase f.val = []) (act : a.act = .remap r) :
    ∃ t, exec (.wardenAck f) s = .next t ∧ t.hw.flt.actions = [] ∧ r.detour ∈ t.hw.flt.detoursArmed ∧
      t.hw.routeEpoch = s.hw.routeEpoch := by
  refine ⟨_, exec_wardenAck_single only answers, ?_⟩
  dsimp only
  rw [armReady_remap (withActions_actions s.hw [a.struck f.val]) started left act]
  set h := (s.hw.withActions [a.struck f.val]).armDetour r.detour with armed
  have engines := (settleActions_of_waits (s := h.withActions []) (by simp)).symm ▸ runEngines_power (h.withActions [])
  refine ⟨List.sublist_nil.1 engines.actions, ?_, ?_⟩
  · rw [detoursArmed_of_routing engines.routing]
    exact mem_armDetour (s.hw.withActions [a.struck f.val]) r.detour
  · rw [routeEpoch_of_routing engines.routing]
    exact armDetour_routeEpoch (s.hw.withActions [a.struck f.val]) r.detour

/-- The last acknowledgement of a park whose ramp has ended parks the field. -/
theorem wardenAck_parks {g : Nat} (left : a.awaits.erase f.val = []) (act : a.act = .park g)
    (ramp : s.hw.rampPending g = false) :
    ∃ t, exec (.wardenAck f) s = .next t ∧ t.hw.flt.actions = [] ∧ (t.hw.fld g).state = .parked ∧
      (t.hw.fld g).park = .parked := by
  refine ⟨_, exec_wardenAck_single only answers, ?_⟩
  dsimp only
  rw [armReady_park (withActions_actions s.hw [a.struck f.val]) act]
  exact settleActions_park (withActions_actions s.hw [a.struck f.val]) started left act ramp

end Single

/-- Beside other actions an acknowledgement is struck off the one that answers to it. -/
theorem wardenAck_strikes {s : State} {f : FieldIx} {a : BAction} {pre post : List BAction}
    (actions : s.hw.flt.actions = pre ++ a :: post) (started : a.started = true) (nodup : a.awaits.Nodup)
    (answers : s.hw.answers f.val a = true) (alone : ∀ z ∈ pre ++ post, z.act ≠ a.act)
    (before : ∀ z ∈ pre, s.hw.answers f.val z = false) :
    ∃ t, exec (.wardenAck f) s = .next t ∧ ∀ y ∈ t.hw.flt.actions, y.act = a.act → f.val ∉ y.awaits := by
  refine ⟨_, exec_wardenAck actions before answers, fun y hy act => ?_⟩
  dsimp only at hy
  have struck : ∀ z ∈ pre ++ a.struck f.val :: post, z.act = a.act → z = a.struck f.val := by
    intro z hz hact
    rcases List.mem_append.1 hz with hz | hz
    · exact absurd hact (alone z (List.mem_append_left _ hz))
    · exact (List.mem_cons.1 hz).resolve_right fun hz => alone z (List.mem_append_right _ hz) hact
  have listed := armReady_actions (s.hw.withActions (pre ++ a.struck f.val :: post))
  rcases (settleActions_begins _).actions y hy with hy | ⟨z, hz, waiting, rfl⟩
  · rw [struck y (listed.subset hy) act]
    exact nodup.not_mem_erase
  · rw [struck z (listed.subset hz) act] at waiting
    exact absurd (started.symm.trans waiting) (by decide)

/-! ## The switch (R127, R128) -/

theorem routeSwitch_switches {s : State} (due : s.hw.routesDue = true) (between : s.hw.stk.inBeat = false)
    (free : s.hw.flt.held = false) (drained : s.hw.drained = true) :
    ∃ t, exec .routeSwitch s = .next t ∧ t.hw.routeEpoch = s.hw.routeEpoch + 1 ∧ t.hw.flt.detoursOn = s.hw.setsOn := by
  have same := afterSwitch_routing s.hw.switchRoutes s.hw.flt.detoursOn
  obtain ⟨epoch, on⟩ := switchRoutes_epoch s.hw
  refine ⟨_, exec_routeSwitch due between free drained, ?_⟩
  dsimp only
  exact ⟨(routeEpoch_of_routing same).trans epoch, (detoursOn_of_routing same).trans on⟩

/-- With no action in hand and every armed set taken, the switch puts each mapped core on the routes of its image. -/
theorem routeSwitch_cores {s : State} {b : Billet} (due : s.hw.routesDue = true) (between : s.hw.stk.inBeat = false)
    (free : s.hw.flt.held = false) (drained : s.hw.drained = true) (actions : s.hw.flt.actions = [])
    (engines : s.hw.spn.engines = []) (image : s.hw.image = some b) (canonical : nwf {} s.hw.cores = true)
    (all : s.hw.chooseSets s.hw.flt.detoursArmed = s.hw.flt.detoursArmed) :
    ∃ t, exec .routeSwitch s = .next t ∧ t.hw.flt.detoursArmed = [] ∧ t.hw.flt.withdrawArmed = [] ∧
      ∀ c, (s.hw.core c).mapped = true → t.hw.core c = { s.hw.core c with
        routes := routesUnder b s.hw.setsOn (s.hw.core c).image c, routesShadow := [] } := by
  obtain ⟨later, switched⟩ := switchRoutes_of_all all
  have frame := applyRoutes_frame s.hw.freshRoutes
  have idle := afterSwitch_idle (s := s.hw.switchRoutes) s.hw.flt.detoursOn
    (by rw [switched, frame]; exact actions) (by rw [switched, frame]; exact engines)
  have work := nextBeat_work s.hw.switchRoutes
  refine ⟨_, exec_routeSwitch due between free drained, ?_, ?_, fun c mapped => ?_⟩ <;> rw [idle]
  · rw [detoursArmed_of_routing work.routing, switched, frame]
    exact later
  · rw [withdrawArmed_of_routing work.routing, switched, frame]
    rfl
  · rw [Hw.core, work.cores, switched]
    exact switched_core image canonical mapped

/-! ## The obligation -/

/-- Settles O43: the acknowledgement, the switch, the link and the replay each by the rule of its instruction; what
follows them (the engines, the next beat) leaves routes and fields alone. -/
theorem replaysAndActions : Obligations.ReplaysAndActions := by
  unfold Obligations.ReplaysAndActions
  refine ⟨fun s f g a r b => ⟨?single, ?several, ?switch, fun full => exec_routeSwitch_undrained full, rfl, ?link⟩, ?replay⟩
  case single =>
    intro only started awaited reach
    have answers := answers_of_started started awaited reach
    refine ⟨fun left => ?_, fun left act => wardenAck_arms only answers started left act,
      fun left act ramp => wardenAck_parks only answers started left act ramp⟩
    have waits := wardenAck_waits only answers started left
    have engines := runEngines_power (s.hw.withActions [a.struck f.val])
    refine ⟨⟨_, waits, ?_⟩, fun none => ?_⟩
    · dsimp only
      exact ⟨fun y hy => List.mem_singleton.1 (engines.actions.subset hy), detoursArmed_of_routing engines.routing⟩
    · rw [waits, runEngines_of_none (s := s.hw.withActions [a.struck f.val]) none]
      rfl
  case several =>
    intro pre post actions started awaited nodup reach alone before
    exact wardenAck_strikes actions started nodup (answers_of_started started awaited reach) alone
      fun z hz => answers_of_unreached (before z hz)
  case switch =>
    exact fun due between free drained => ⟨routeSwitch_switches due between free drained,
      fun actions engines image canonical all => routeSwitch_cores due between free drained actions engines image canonical all⟩
  case link =>
    intro up
    obtain ⟨t, ht, fld, serial, num, fails⟩ := wardenLinkLoss_record up
    exact ⟨t, ht, fld, serial, num, fun ha central started awaited act => fails a ha r central started awaited act⟩
  case replay =>
    intro s v p k x recovery hold page remaps beat run ready due snap plain
    have same := rewound_run s.hw (v.stroke, v.beat) p
    have units (c) (mapped) := rewound_core (s := s.hw) (c := c) (v.stroke, v.beat) p mapped
    have anew := exec_beatReplay recovery hold page remaps beat run ready due snap plain
    generalize s.hw.rewound (v.stroke, v.beat) p = u at same units anew
    obtain ⟨stroke, index⟩ := Prod.mk.inj beat
    refine ⟨_, anew, ?starts, ?count, ?held, rfl, rfl,
      stroke, index, congrArg (·.num) same.stk, fun c mapped => ?core⟩
    case starts => exact congrArg (· + 1) (if_pos beat)
    case count => exact congrArg (·.replayCnt + 1) same.flt
    case held =>
      exact congrArg (Option.map fun v : Recovery => { v with hold := false }) ((congrArg (·.recovery) same.flt).trans recovery)
    case core =>
      obtain ⟨stands, restored⟩ := units c mapped
      exact ⟨restored.pc, restored.sregs, restored.dregs, restored.vregs, restored.acc, restored.running, restored.ready,
        restored.taskPend, restored.srState, restored.chans, stands.sram, stands.prog, stands.routes, stands.mapped,
        restored.errSym⟩

end Sys2Proof.Machine
end

section
/-!
# Bringing the module up (R351, R404-R411)

A power loss leaves a fresh module with its flash and host memory; bringing it up then changes the boot's registers, the
fields and the map, and nothing else.
-/
namespace Sys2Proof.Machine

/-! ## What bringing the module up leaves alone -/

/-- What a power loss has emptied, and host memory. -/
abbrev Hw.coldPart (s : Hw) := (s.mem, s.hostMem, s.stk, s.running, s.armed, s.evt, s.qps)

/-- The cold part is the same, and what the Gweku's boot decided. -/
structure SameBoot (s t : Hw) : Prop where
  cold : t.coldPart = s.coldPart
  mbx : t.mbx = s.mbx
  gweku : t.glb.gweku = s.glb.gweku

section Compose
variable {s t u : Hw}

theorem SameBoot.refl (s : Hw) : SameBoot s s := ⟨rfl, rfl, rfl⟩
theorem SameBoot.trans (h : SameBoot s t) (g : SameBoot t u) : SameBoot s u :=
  ⟨g.cold.trans h.cold, g.mbx.trans h.mbx, g.gweku.trans h.gweku⟩
theorem SameBoot.set (h : SameBoot s t)
    (same : (u.coldPart, u.mbx, u.glb.gweku) = (t.coldPart, t.mbx, t.glb.gweku)) : SameBoot s u := by
  obtain ⟨cold, rest⟩ := Prod.mk.inj same
  obtain ⟨mbx, gweku⟩ := Prod.mk.inj rest
  exact h.trans ⟨cold, mbx, gweku⟩
theorem SameBoot.foldl {α : Type} {f : Hw → α → Hw} (step : ∀ s x, SameBoot s (f s x)) (l : List α) (s : Hw) :
    SameBoot s (l.foldl f s) := l.foldlRecOn f (.refl s) fun _ h x _ => h.trans (step _ x)

end Compose

theorem onFld_boot (s : Hw) (n : Nat) (f : Field → Field) : SameBoot s (s.onFld n f) := by
  unfold Hw.onFld Hw.setFld
  exact (SameBoot.refl s).set (by with_reducible rfl)

theorem unready_boot (s : Hw) (n : Nat) : SameBoot s (s.unready n) := by
  unfold Hw.unready
  exact (SameBoot.refl s).set (by with_reducible rfl)

theorem startTests_boot (s : Hw) (fs : List Nat) : SameBoot s (s.startTests fs) := by
  unfold Hw.startTests
  dsimp only
  refine SameBoot.set (SameBoot.trans (t := { s with glb := { s.glb with mapOpen := false } })
    ((SameBoot.refl s).set (by with_reducible rfl))
    (.foldl (fun _ _ => (onFld_boot _ _ _).trans (unready_boot _ _)) fs _)) (by with_reducible rfl)

theorem railsUp_boot (s : Hw) : SameBoot s s.railsUp := by
  unfold Hw.railsUp
  refine .trans (.trans ?_ (.foldl (fun _ _ => onFld_boot _ _ _) _ _)) (startTests_boot _ _)
  exact (SameBoot.refl s).set (by with_reducible rfl)

theorem checkMap_boot (s : Hw) : SameBoot s s.checkMap := by
  unfold Hw.checkMap
  split <;> exact (SameBoot.refl s).set (by with_reducible rfl)

/-! ## The map of failed cores -/

/-- The flash and the map's register are replaced, and nobody waits for the map. -/
def Hw.withMap (s : Hw) (flash : Flash) (mapOpen : Bool) : Hw :=
  { s with flash := flash, flt := { s.flt with pending := [] }, glb := { s.glb with mapOpen := mapOpen } }

theorem foldl_flash {g : Hw → Nat → Hw} (step : ∀ s c, ∃ x, g s c = { s with flash := x }) (l : List Nat) (s : Hw) :
    ∃ x, l.foldl g s = { s with flash := x } := by
  refine l.foldlRecOn g (motive := fun t => ∃ x, t = { s with flash := x }) ⟨s.flash, rfl⟩ ?_
  rintro _ ⟨x, rfl⟩ c -
  obtain ⟨y, hy⟩ := step { s with flash := x } c
  exact ⟨y, hy⟩

theorem useSpare_flash (s : Hw) (c : Nat) : ∃ x, s.useSpare c = { s with flash := x } := by
  unfold Hw.useSpare
  dsimp only
  split
  · exact ⟨s.flash, rfl⟩
  · exact ⟨_, rfl⟩

/-- The dead cores that the map does not hold yet. -/
abbrev Hw.newlyFailed (s : Hw) (newly : List Nat) : List Nat :=
  ((newly ++ s.flt.pending).filter fun c => coreOk c && !s.isFailed c).eraseDups

theorem updateMap_eq (s : Hw) (newly : List Nat) :
    ∃ flash mapOpen, s.updateMap newly = (s.withMap flash mapOpen).showShort := by
  unfold Hw.updateMap
  dsimp only
  split
  · exact ⟨s.flash, s.glb.mapOpen, rfl⟩
  · obtain ⟨x, hx⟩ := foldl_flash (fun s c => ⟨_, rfl⟩ : ∀ (s : Hw) c, ∃ x, s.markFailed c = { s with flash := x })
      (s.newlyFailed newly) { s with flt := { s.flt with pending := [] } }
    obtain ⟨y, hy⟩ := foldl_flash useSpare_flash ((s.newlyFailed newly).filter fun c => !s.isSpare c)
      { s with flt := { s.flt with pending := [] }, flash := x }
    rw [hx, hy]
    exact ⟨_, true, rfl⟩

theorem updateMap_boot (s : Hw) (newly : List Nat) : SameBoot s (s.updateMap newly) := by
  obtain ⟨flash, mapOpen, h⟩ := updateMap_eq s newly
  rw [h]
  unfold Hw.showShort
  refine .trans ?_ (.foldl (fun _ _ => onFld_boot _ _ _) _ (s.withMap flash mapOpen))
  unfold Hw.withMap
  exact (SameBoot.refl s).set (by with_reducible rfl)

/-! ## Fields under test (R404, R411) -/

theorem onFld_fld (s : Hw) (n g : Nat) (f : Field → Field) :
    (s.onFld n f).fld g = if g = n then f (s.fld g) else s.fld g := by
  rw [Hw.onFld, setFld_fld]
  split
  · next h => rw [h]
  · rfl

theorem unready_fld (s : Hw) (n g : Nat) : (s.unready n).fld g = s.fld g := rfl

theorem startTests_state {g : Nat} {fs : List Nat} (s : Hw) (hg : g ∈ fs) : ((s.startTests fs).fld g).state = .test := by
  have key (l : List Nat) (t : Hw) (h : g ∈ l ∨ (t.fld g).state = .test) :
      ((l.foldl (fun s f => (s.onFld f Field.toTest).unready f) t).fld g).state = .test := by
    induction l generalizing t with
    | nil => exact h.resolve_left (by simp)
    | cons f l ih =>
      refine ih _ ?_
      rw [unready_fld, onFld_fld]
      split
      · exact .inr rfl
      · next ne => exact h.imp_left fun h => (List.mem_cons.1 h).resolve_left ne
  exact key fs { s with glb := { s.glb with mapOpen := false } } (.inl hg)

theorem foldl_onFld_state {f : Hw → Nat → Field → Field} (keeps : ∀ s n x, (f s n x).state = x.state) (l : List Nat)
    (s : Hw) (g : Nat) : ((l.foldl (fun s n => s.onFld n (f s n)) s).fld g).state = (s.fld g).state := by
  refine l.foldlRecOn _ (motive := fun t : Hw => (t.fld g).state = (s.fld g).state) rfl fun t h n _ => ?_
  rw [onFld_fld]
  split
  · exact (keeps t n _).trans h
  · exact h

/-! ## The boot (R405, R407, R409) -/

/-- An image may start. -/
def Hw.boots (s : Hw) : Bool := (if s.factoryOk then s.bootChoice else none).isSome

theorem bootGweku_boots (s : Hw) : s.bootGweku.coldPart = s.coldPart ∧ s.bootGweku.glb.gweku = s.boots ∧
    s.bootGweku.mbx.state = if s.boots then .idle else .offline := by
  unfold Hw.bootGweku Hw.boots
  cases (if s.factoryOk then s.bootChoice else none) with
  | none => exact ⟨rfl, rfl, rfl⟩
  | some k => exact ⟨rfl, rfl, rfl⟩

theorem bringUp_boot (s : Hw) : SameBoot s.bootGweku s.bringUp := by
  unfold Hw.bringUp
  dsimp only
  split
  · exact ((checkMap_boot _).trans (railsUp_boot _)).trans (updateMap_boot _ _)
  · exact .refl _

theorem updateMap_state (s : Hw) (newly : List Nat) (g : Nat) : ((s.updateMap newly).fld g).state = (s.fld g).state := by
  obtain ⟨flash, mapOpen, h⟩ := updateMap_eq s newly
  rw [h]
  unfold Hw.showShort
  rw [foldl_onFld_state (f := fun s n x => { x with shortBlocks := s.shortIn n }) fun _ _ _ => rfl]
  rfl

theorem bringUp_state {s : Hw} (boots : s.boots = true) {g : Nat} (hg : g < 48) : (s.bringUp.fld g).state = .test := by
  obtain ⟨-, gweku, -⟩ := bootGweku_boots s
  have up : s.bringUp = (s.bootGweku.checkMap.railsUp).updateMap [] := if_pos (gweku.trans boots)
  rw [up, updateMap_state]
  exact startTests_state _ (List.mem_range.2 hg)

/-! ## Power-good and power loss -/

/-- The state is fresh: only host memory and the instruction streams are what they were in `s`. -/
structure Fresh (s t : State) : Prop where
  tmks : t.tmks = []
  mem : t.hw.mem = []
  host : t.hw.hostMem = s.hw.hostMem
  num : t.hw.stk.num = 0
  running : t.hw.running = none
  armed : t.hw.armed = none
  evt : t.hw.evt = {}
  qps : t.hw.qps = []
  pending : t.pending = s.pending

theorem powerLost_cold (s : Hw) : s.powerLost.coldPart = ([], s.hostMem, {}, none, none, {}, []) := rfl

theorem powerLost_boots (s : Hw) : s.powerLost.boots = s.boots := rfl

theorem fresh_of_cold {s : State} {h : Hw} (cold : h.coldPart = s.hw.powerLost.coldPart) :
    Fresh s { s with hw := h, tmks := [] } := by
  rw [powerLost_cold] at cold
  simp only [Prod.mk.injEq] at cold
  obtain ⟨mem, host, stk, running, armed, evt, qps⟩ := cold
  exact ⟨rfl, mem, host, congrArg (·.num) stk, running, armed, evt, qps, rfl⟩

theorem powerGood_boots (s : State) : ∃ t, exec .powerGood s = .next t ∧ Fresh s t ∧ t.hw.glb.gweku = s.hw.boots ∧
    t.hw.mbx.state = (if s.hw.boots then .idle else .offline) ∧
    (s.hw.boots = true → ∀ g < 48, (t.hw.fld g).state = .test) := by
  obtain ⟨cold, gweku, state⟩ := bootGweku_boots s.hw.powerLost
  have up := bringUp_boot s.hw.powerLost
  rw [powerLost_boots] at gweku state
  refine ⟨_, rfl, fresh_of_cold (up.cold.trans cold), ?_, ?_, fun boots g hg => ?_⟩
  · exact up.gweku.trans gweku
  · exact (congrArg (·.state) up.mbx).trans state
  · exact bringUp_state ((powerLost_boots s.hw).trans boots) hg

theorem powerLoss_keeps_flash (s : State) : ∃ t, exec .powerLoss s = .next t ∧ Fresh s t ∧ t.hw.glb.gweku = false ∧
    t.hw.flash.failed = s.hw.flash.failed ∧ t.hw.flt.pending = s.hw.flt.pending :=
  ⟨_, rfl, fresh_of_cold rfl, rfl, rfl, rfl⟩

end Sys2Proof.Machine
end

section
/-!
# A field's test and its clock (R27, R408, R411)
-/
namespace Sys2Proof.Machine

theorem selfTestStep_of_none {s : Hw} (idle : s.mbx.long = none) (f : Nat) : s.selfTestStep f = s := by
  simp only [Hw.selfTestStep, idle]

/-- The fields' ready bits with field `n` among them. -/
def Hw.readied (s : Hw) (n : Nat) : Hw := { s with glb := { s.glb with field := s.glb.field ||| BitVec.ofNat 48 (2 ^ n) } }

theorem bit_ofNat_two_pow (f : FieldIx) : (BitVec.ofNat 48 (2 ^ f.val)).getLsbD f.val = true := by
  rw [BitVec.getLsbD_ofNat]
  simp [f.isLt]

theorem readied_bit (s : Hw) (f : FieldIx) : (s.readied f.val).glb.field.getLsbD f.val = true := by
  show (s.glb.field ||| BitVec.ofNat 48 (2 ^ f.val)).getLsbD f.val = true
  rw [BitVec.getLsbD_or, bit_ofNat_two_pow, Bool.or_true]

theorem unready_bit (s : Hw) (f : FieldIx) : (s.unready f.val).glb.field.getLsbD f.val = false := by
  show (s.glb.field &&& ~~~BitVec.ofNat 48 (2 ^ f.val)).getLsbD f.val = false
  rw [BitVec.getLsbD_and, BitVec.getLsbD_not, bit_ofNat_two_pow]
  simp

/-- The field has its test's result. -/
def Hw.tested (s : Hw) (n : Nat) (good warden : Bool) (rings : BitVec 18) : Hw :=
  (s.unretire n).onFld n fun x => { x with state := if good then .ready else .faulted, ringsOk := rings, gwekuLink := warden }

/-- A good result enters the failed cores into the map and makes the field ready. -/
def Hw.readyField (s : Hw) (n : Nat) (fails : List Nat) : Hw := (s.updateMap fails).readied n

theorem updateMap_pending (s : Hw) (newly : List Nat) : (s.updateMap newly).flt.pending = [] := by
  obtain ⟨flash, mapOpen, h⟩ := updateMap_eq s newly
  rw [h, Hw.showShort]
  exact List.foldlRecOn _ _ (motive := fun t : Hw => t.flt.pending = []) rfl fun _ h _ _ => h

variable {s : State} {f : FieldIx}

theorem exec_fieldTestDone (test : (s.hw.fld f.val).state = .test) (warden clock : Bool) (rings : BitVec 18)
    (scan march : List CoreId) (rs : List TestReport) :
    let good := warden && clock && decide (rings = BitVec.allOnes 18)
    let u := s.hw.tested f.val good warden rings
    let fails := u.testFails f.val (scan.map BitVec.toNat) rs (march.map BitVec.toNat)
    let v := if good then u.readyField f.val fails else u
    exec (.fieldTestDone f warden clock rings scan rs march) s = .next { s with hw := v.mapCurrent.selfTestStep f.val } := by
  have call : exec (.fieldTestDone f warden clock rings scan rs march) s =
    execFieldTestDone f warden clock rings scan rs march s := rfl
  rw [call, execFieldTestDone, State.act]
  simp only [test, ne_eq, not_true_eq_false, if_false]
  rfl

theorem tested_boot (s : Hw) (n : Nat) (good warden : Bool) (rings : BitVec 18) : SameBoot s (s.tested n good warden rings) := by
  unfold Hw.tested
  refine .trans ?_ (onFld_boot _ _ _)
  unfold Hw.unretire
  exact (SameBoot.refl s).set (by with_reducible rfl)

theorem tested_state (s : Hw) (n : Nat) (good warden : Bool) (rings : BitVec 18) :
    ((s.tested n good warden rings).fld n).state = if good then .ready else .faulted := by
  rw [Hw.tested, onFld_fld_self]

/-- Under test, with every ring good, the field is ready and the pending cores are in the map. -/
theorem fieldTestDone_ready (test : (s.hw.fld f.val).state = .test) (idle : s.hw.mbx.long = none) (scan march : List CoreId)
    (rs : List TestReport) :
    ∃ t, exec (.fieldTestDone f true true (BitVec.allOnes 18) scan rs march) s = .next t ∧
      (t.hw.fld f.val).state = .ready ∧ t.hw.glb.field.getLsbD f.val = true ∧ t.hw.flt.pending = [] := by
  have result := exec_fieldTestDone test true true (BitVec.allOnes 18) scan march rs
  simp only [Bool.and_self, decide_true, if_true] at result
  have boot := tested_boot s.hw f.val true true (BitVec.allOnes 18)
  have state := tested_state s.hw f.val true true (BitVec.allOnes 18)
  generalize s.hw.tested f.val true true (BitVec.allOnes 18) = u at result boot state
  generalize u.testFails f.val (scan.map BitVec.toNat) rs (march.map BitVec.toNat) = fails at result
  have long : (u.updateMap fails).mbx.long = none := (congrArg (·.long) (boot.trans (updateMap_boot u fails)).mbx).trans idle
  rw [selfTestStep_of_none (s := (u.readyField f.val fails).mapCurrent) long] at result
  exact ⟨_, result, (updateMap_state u fails f.val).trans state, readied_bit (u.updateMap fails) f, updateMap_pending u fails⟩

/-- Under test, with a bad ring, the field is faulted; the ready bits and the flash stand. -/
theorem fieldTestDone_faulted {rings : BitVec 18} (test : (s.hw.fld f.val).state = .test) (idle : s.hw.mbx.long = none)
    (bad : rings ≠ BitVec.allOnes 18) (scan march : List CoreId) (rs : List TestReport) :
    ∃ t, exec (.fieldTestDone f true true rings scan rs march) s = .next t ∧
      (t.hw.fld f.val).state = .faulted ∧ t.hw.glb.field = s.hw.glb.field ∧ t.hw.flash = s.hw.flash := by
  have result := exec_fieldTestDone test true true rings scan march rs
  simp only [Bool.and_self, Bool.true_and, decide_eq_false bad, Bool.false_eq_true, if_false] at result
  rw [selfTestStep_of_none (s := (s.hw.tested f.val false true rings).mapCurrent) idle] at result
  exact ⟨_, result, tested_state s.hw f.val false true rings, rfl, rfl⟩

/-- A field that loses its clock is faulted and no longer ready, under test or not. -/
theorem fieldClockLoss_faulted (on : (s.hw.fld f.val).state ≠ .off) (idle : s.hw.mbx.long = none) :
    ∃ t, exec (.fieldClockLoss f) s = .next t ∧ t.hw.fld f.val = { s.hw.fld f.val with state := .faulted } ∧
      t.hw.glb.field.getLsbD f.val = false := by
  have call : exec (.fieldClockLoss f) s = execFieldClockLoss f s := rfl
  have lost : ((s.hw.onFld f.val fun x => { x with state := .faulted }).unready f.val).fld f.val =
      { s.hw.fld f.val with state := .faulted } := (unready_fld _ _ _).trans (onFld_fld_self _ _ _)
  have bit := unready_bit (s.hw.onFld f.val fun x => { x with state := .faulted }) f
  rw [call, execFieldClockLoss, State.act]
  refine ⟨_, rfl, ?_⟩
  simp only [on, if_false]
  split
  · rw [selfTestStep_of_none (by exact idle)]
    exact ⟨lost, bit⟩
  · rw [selfTestStep_of_none (by exact idle)]
    exact ⟨lost, bit⟩

end Sys2Proof.Machine
end

section
/-!
# Ending the run and clearing its billets changes nothing that the driver set up (R33, R375)
-/
namespace Sys2Proof.Machine

theorem ite_driver {p : Prop} [Decidable p] {s t u : Hw} (h : SameDriver s t) (g : SameDriver s u) :
    SameDriver s (if p then t else u) := by
  split
  · exact h
  · exact g

theorem respond_driver (s : Hw) (r : Rsp) : SameDriver s (s.respond r) := by
  unfold Hw.respond
  exact ((SameDriver.refl s).set (by with_reducible rfl)).trans (raise_quiet _ _).driver

/-! ## Weight slots are freed -/

theorem writeBinding_quiet (s : Hw) (q : Nat) : Quiet s (s.writeBinding q) := by
  unfold Hw.writeBinding
  split
  · exact .refl s
  · exact memWriteAll_quiet _ _ _

theorem unbindSequence_quiet (s : Hw) (q : Nat) : Quiet s (s.unbindSequence q) := by
  unfold Hw.unbindSequence
  exact ((Quiet.refl s).set (by with_reducible rfl)).trans (writeBinding_quiet _ _)

theorem setCtx_quiet (s : Hw) (c : Nat) (x : Ctx) : Quiet s (s.setCtx c x) := by
  unfold Hw.setCtx
  exact (Quiet.refl s).set (by with_reducible rfl)

theorem dropImages_quiet (s : Hw) (imgs : List Img) : Quiet s (s.dropImages imgs) := by
  unfold Hw.dropImages Hw.queueRelease
  exact (Quiet.refl s).set (by with_reducible rfl)

theorem freeSlot_quiet (s : Hw) (c k : Nat) : Quiet s (s.freeSlot c k) := by
  unfold Hw.freeSlot Hw.setSlot
  exact (setCtx_quiet _ _ _).trans (dropImages_quiet _ _)

theorem dropLayer_quiet (s : Hw) (x : Wslot) : Quiet s (s.dropLayer x) := by
  unfold Hw.dropLayer
  refine .trans ?_ (dropImages_quiet _ _)
  split
  · exact ite_quiet (.foldl (fun _ _ => memWriteAll_quiet _ _ _) _ s) (.refl s)
  · exact .refl s

theorem dropLayers_quiet (s : Hw) : Quiet s s.dropLayers := by
  unfold Hw.dropLayers
  refine .trans ?_ (.foldl dropLayer_quiet _ _)
  exact (Quiet.refl s).set (by with_reducible rfl)

theorem endLoad_driver (s : Hw) : SameDriver s s.endLoad := by
  unfold Hw.endLoad
  split
  · exact respond_driver _ _
  · exact .refl s

theorem withWgt_quiet (s : Hw) (w : Wgt) : Quiet s { s with wgt := w } := (Quiet.refl s).set (by with_reducible rfl)

theorem freeAllSlots_driver (s : Hw) : SameDriver s s.freeAllSlots := by
  unfold Hw.freeAllSlots
  dsimp only
  refine .trans ?_ ((withWgt_quiet _ _).trans (dropLayers_quiet _)).driver
  refine .trans ?_ (Quiet.foldl (fun _ _ => setCtx_quiet _ _ _) _ _).driver
  refine .trans ?_ (Quiet.foldl (fun _ _ => freeSlot_quiet _ _ _) _ _).driver
  exact (endLoad_driver s).trans (Quiet.foldl unbindSequence_quiet _ _).driver

theorem dropLoaded_driver (s : Hw) : SameDriver { s with armed := none } s.dropLoaded := by
  unfold Hw.dropLoaded
  refine ite_driver ?_ (.refl _)
  exact (freeAllSlots_driver _).set (by with_reducible rfl)

theorem dropRecovery_driver (s : Hw) : SameDriver s s.dropRecovery := by
  unfold Hw.dropRecovery
  split
  · exact .refl s
  · refine .trans ?_ (Quiet.foldl (fun _ _ => emitRecord_quiet _ _) _ _).driver
    exact (SameDriver.refl s).set (by with_reducible rfl)

/-! ## Work in flight is abandoned -/

theorem flushOverruns_quiet (s : Hw) : Quiet s s.flushOverruns :=
  ite_quiet (.refl s) (.foldl overrun_quiet _ s)

theorem abandonWork_quiet (s : Hw) (kind : Nat) (ids : List Nat) : Quiet s (s.abandonWork kind ids) := record_quiet _ _

theorem abandonPools_quiet (s : Hw) : Quiet s s.abandonPools :=
  .foldl (fun _ _ => .foldl (fun _ _ => abandonWork_quiet _ _ _) _ _) _ s

theorem onEngine_quiet (s : Hw) (e : Nat) (f : Engine → Engine) : Quiet s (s.onEngine e f) := by
  unfold Hw.onEngine Hw.setEngine
  exact (Quiet.refl s).set (by with_reducible rfl)

theorem abandonBuckets_quiet (s : Hw) : Quiet s s.abandonBuckets := by
  refine .foldl (fun t e => ?_) _ s
  exact ite_quiet (.foldl (fun _ _ => abandonWork_quiet _ _ _) _ t)
    (.trans (.foldl (fun _ _ => abandonWork_quiet _ _ _) _ t) (onEngine_quiet _ _ _))

theorem postCpl_of_none {s : Hw} (none : s.qps = []) (q : Nat) (c : Cpl) : s.postCpl q c = s := by
  have disabled : (s.qp q).enable = false := by rw [Hw.qp, none]; rfl
  rw [Hw.postCpl]
  simp only [disabled, Bool.not_false, if_true]

/-- With no queue pair left, the events' entries complete nowhere. -/
theorem abandonEvents_of_none {s : Hw} (none : s.qps = []) (es : List Ev) (stroke : Nat) : s.abandonEvents es stroke = s := by
  refine foldl_eq_self fun q _ => foldl_eq_self fun e _ => ?_
  dsimp only
  rw [postCpl_of_none none, ite_self]

theorem retireEvents_driver {s : Hw} (none : s.qps = []) (stroke : Nat) : SameDriver s (s.retireEvents stroke) := by
  unfold Hw.retireEvents
  rw [abandonEvents_of_none none]
  exact (SameDriver.refl s).set (by with_reducible rfl)

end Sys2Proof.Machine
end

section
/-!
# Power is ramped and fields are tested beside the driver's state (R354, R365, R375)
-/
namespace Sys2Proof.Machine

/-! ## What ramps and tests leave alone -/

/-- The driver's state is the same, and so are memory, events, the run, and the state of the stroke. -/
structure Still (s t : Hw) : Prop extends SameDriver s t where
  mem : t.mem = s.mem
  evt : t.evt = s.evt
  running : t.running = s.running
  stroke : t.stk.state = s.stk.state

section Compose
variable {s t u : Hw}

theorem Still.refl (s : Hw) : Still s s := ⟨.refl s, rfl, rfl, rfl, rfl⟩
theorem Still.trans (h : Still s t) (g : Still t u) : Still s u :=
  ⟨h.toSameDriver.trans g.toSameDriver, g.mem.trans h.mem, g.evt.trans h.evt, g.running.trans h.running,
    g.stroke.trans h.stroke⟩
theorem Still.set (h : Still s t)
    (same : (u.driverPart, u.mem, u.evt, u.running, u.stk.state) = (t.driverPart, t.mem, t.evt, t.running, t.stk.state)) :
    Still s u := by
  obtain ⟨driver, rest⟩ := Prod.mk.inj same
  simp only [Prod.mk.injEq] at rest
  obtain ⟨mem, evt, running, stroke⟩ := rest
  exact h.trans ⟨(SameDriver.refl t).set driver, mem, evt, running, stroke⟩
theorem Still.foldl {α : Type} {f : Hw → α → Hw} (step : ∀ s x, Still s (f s x)) (l : List α) (s : Hw) :
    Still s (l.foldl f s) := l.foldlRecOn f (.refl s) fun _ h x _ => h.trans (step _ x)
theorem ite_still {p : Prop} [Decidable p] (h : Still s t) (g : Still s u) : Still s (if p then t else u) := by
  split
  · exact h
  · exact g

end Compose

theorem onFld_still (s : Hw) (n : Nat) (f : Field → Field) : Still s (s.onFld n f) := by
  unfold Hw.onFld Hw.setFld
  exact (Still.refl s).set (by with_reducible rfl)

theorem queueRamp_still (s : Hw) (f w : Nat) : Still s (s.queueRamp f w) := by
  unfold Hw.queueRamp
  exact (Still.refl s).set (by with_reducible rfl)

theorem pumpRamps_still (s : Hw) : Still s s.pumpRamps := by
  refine .foldl (fun t e => ite_still (.refl t) ?_) _ s
  exact (onFld_still t _ _).set (by with_reducible rfl)

theorem rampNotice_still (s : Hw) (delta : Int) (ramps : Nat) : Still s (s.rampNotice delta ramps) := by
  unfold Hw.rampNotice
  exact (Still.refl s).set (by with_reducible rfl)

theorem rampBack_still (s : Hw) : Still s s.rampBack :=
  ite_still (.refl s) (.trans (.trans (.foldl (fun _ _ => queueRamp_still _ _ _) _ s) (pumpRamps_still _))
    (rampNotice_still _ _ _))

theorem unready_still (s : Hw) (n : Nat) : Still s (s.unready n) := by
  unfold Hw.unready
  exact (Still.refl s).set (by with_reducible rfl)

theorem startTests_still (s : Hw) (fs : List Nat) : Still s (s.startTests fs) := by
  unfold Hw.startTests
  dsimp only
  refine Still.set (.trans (t := { s with glb := { s.glb with mapOpen := false } }) ((Still.refl s).set (by with_reducible rfl))
    (.foldl (fun _ _ => (onFld_still _ _ _).trans (unready_still _ _)) fs _)) (by with_reducible rfl)

theorem railsUp_still (s : Hw) : Still s s.railsUp := by
  unfold Hw.railsUp
  refine .trans (.trans ?_ (.foldl (fun _ _ => onFld_still _ _ _) _ _)) (startTests_still _ _)
  exact (Still.refl s).set (by with_reducible rfl)

theorem clearWork_still (s : Hw) : Still s s.clearWork := by
  unfold Hw.clearWork Hw.clearCores Hw.dropCoreRequests
  exact (Still.refl s).set (by with_reducible rfl)

theorem withPwr_still (s : Hw) (p : Pwr) : Still s { s with pwr := p } := (Still.refl s).set (by with_reducible rfl)

theorem stopWork_still (s : Hw) (order : List Nat) : Still s (s.stopWork order) := by
  unfold Hw.stopWork
  dsimp only
  refine ite_still ?_ (.trans ?_ (rampNotice_still _ _ _)) <;>
  · refine .trans (.trans ?_ (withPwr_still _ _)) (pumpRamps_still _)
    exact .foldl (fun _ _ => (onFld_still _ _ _).trans (queueRamp_still _ _ _)) _ s

/-! ## The run ends (R33, R375) -/

theorem sortTraffic_quiet (s : Hw) (h : Nat) (j : SortJob) : Quiet s (s.sortTraffic h j) := by
  unfold Hw.sortTraffic
  refine .trans ?_ (arbRaise_quiet _ _ _ _ _ _)
  exact .foldl (fun _ _ => (portVisit_quiet _ _ _ _ _).trans (portVisit_quiet _ _ _ _ _)) _ _

theorem sortStart_quiet (s : Hw) (h : Nat) : Quiet s (s.sortStart h) := by
  unfold Hw.sortStart
  split
  · exact onHerder_quiet _ _ _
  · exact (onHerder_quiet _ _ _).trans (sortTraffic_quiet _ _ _)

theorem sortReply_quiet (s : Hw) (h : Nat) (j : SortJob) (status : Nat) : Quiet s (s.sortReply h j status) := by
  unfold Hw.sortReply Hw.herderSend
  exact (herderMsg_quiet _ _ _ _ _ _ _).trans (raise_quiet _ _)

theorem sortAbortOne_quiet (s : Hw) (h : Nat) : Quiet s (s.sortAbortOne h) := by
  unfold Hw.sortAbortOne
  split
  · exact .refl s
  · refine .trans (.trans ?_ ((onHerder_quiet _ _ _).trans (sortStart_quiet _ _))) (sortReply_quiet _ _ _ _)
    exact ((memWrite_quiet _ _ _).trans (memWrite_quiet _ _ _)).set (by with_reducible rfl)

theorem sortRetire_quiet (s : Hw) (h : Nat) : Quiet s (s.sortRetire h) := .foldl (fun _ _ => sortAbortOne_quiet _ _) _ s

theorem writeSteps_quiet (s : Hw) : Quiet s s.writeSteps := by
  unfold Hw.writeSteps
  split
  · exact .refl s
  · exact (memWriteAll_quiet _ _ _).trans (memWriteAll_quiet _ _ _)

theorem freeSteps_quiet (s : Hw) : Quiet s s.freeSteps := by
  unfold Hw.freeSteps Hw.unbindStep
  refine .trans ?_ (writeSteps_quiet _)
  exact (Quiet.refl s).set (by with_reducible rfl)

/-- Where no queue pair is left, the end of the run leaves what the driver set up. -/
theorem retireNow_driver {s : Hw} (none : s.qps = []) : SameDriver s s.retireNow := by
  have flushed : Quiet s (if s.stk.endDue then s.runEnd else s.flushOverruns) :=
    ite_quiet (runEnd_quiet s) (flushOverruns_quiet s)
  have abandoned := (flushed.trans (abandonPools_quiet _)).trans (abandonBuckets_quiet _)
  have events := abandoned.driver.trans (retireEvents_driver (abandoned.qps.trans none) (s.stk.num.toNat - 1))
  unfold Hw.retireNow
  dsimp only
  refine SameDriver.set (t := Hw.clearWork _) ?_ (by with_reducible rfl)
  refine .trans ?_ (clearWork_still _).toSameDriver
  refine .trans ?_ (stopWork_still _ _).toSameDriver
  refine .trans ?_ (freeAllSlots_driver _)
  refine .trans ?_ (freeSteps_quiet _).driver
  exact events.trans (Quiet.foldl (fun _ _ => (sortRetire_quiet _ _).trans (onHerder_quiet _ _ _)) _ _).driver

end Sys2Proof.Machine
end

section
/-!
# The function-level reset (R375)

The driver's registers are cleared first, the ports disabled, and the strokes reset; nothing after the first step gives the
driver's registers a value again.
-/
namespace Sys2Proof.Machine

/-! ## Ports -/

theorem disablePort_frame (s : Hw) (p : Nat) :
    ∃ arbs, s.disablePort p = { s.onPort p Port.disable with arbs := arbs } := by
  have step (t : Hw) (f k n i m : Nat) : ∃ arbs, t.arbSet f k n i m = { t with arbs := arbs } := by
    unfold Hw.arbSet Hw.arbRaise Hw.setArb
    dsimp only
    split
    · split
      · exact ⟨t.arbs, rfl⟩
      · exact ⟨_, rfl⟩
    · split
      · split <;> exact ⟨_, rfl⟩
      · exact ⟨_, rfl⟩
  refine (List.range 6).foldlRecOn _ (motive := fun t : Hw => ∃ arbs, t = { s.onPort p Port.disable with arbs := arbs })
    ⟨s.arbs, rfl⟩ ?_
  rintro _ ⟨arbs, rfl⟩ i -
  obtain ⟨next, h⟩ := step { s.onPort p Port.disable with arbs := arbs } (portField p) 2 (portSite p) i 0
  exact ⟨next, h⟩

/-- Every port is disabled. -/
def Hw.disablePorts (s : Hw) : Hw := (List.range 64).foldl (fun s p => s.disablePort p) s

theorem disablePorts_frame (s : Hw) : ∃ ports arbs, s.disablePorts = { s with ports := ports, arbs := arbs } := by
  refine (List.range 64).foldlRecOn _ (motive := fun t : Hw => ∃ ports arbs, t = { s with ports := ports, arbs := arbs })
    ⟨s.ports, s.arbs, rfl⟩ ?_
  rintro _ ⟨ports, arbs, rfl⟩ p -
  obtain ⟨next, h⟩ := disablePort_frame { s with ports := ports, arbs := arbs } p
  exact ⟨_, next, h⟩

theorem disablePort_port (s : Hw) (p q : Nat) :
    (s.disablePort p).port q = if q = p then (s.port q).disable else s.port q := by
  obtain ⟨arbs, h⟩ := disablePort_frame s p
  have same : (s.disablePort p).port q = (s.onPort p Port.disable).port q := by rw [h]; rfl
  rw [same, Hw.onPort, setPort_port]
  split
  · next eq => rw [eq]
  · rfl

theorem disablePorts_state (s : Hw) {q : Nat} (hq : q < 64) : (s.disablePorts.port q).state = .disabled := by
  have key (l : List Nat) (t : Hw) (h : q ∈ l ∨ (t.port q).state = .disabled) :
      ((l.foldl (fun s p => s.disablePort p) t).port q).state = .disabled := by
    induction l generalizing t with
    | nil => exact h.resolve_left (by simp)
    | cons p l ih =>
      refine ih _ ?_
      rw [disablePort_port]
      split
      · exact .inr rfl
      · next ne => exact h.imp_left fun h => (List.mem_cons.1 h).resolve_left ne
  exact key _ s (.inl (List.mem_range.2 hq))

/-! ## Strokes -/

/-- No recovery is open and no billet waits to run. -/
def Hw.unloaded (s : Hw) : Hw := Hw.dropLoaded { s.dropRecovery with incoming := none }

/-- The run is at its end, or what is left of one is cleared. -/
def Hw.runEnded (s : Hw) : Hw := if s.running.isSome then s.retireNow else s.clearWork

/-- The stroke is idle. -/
def Hw.idled (s : Hw) : Hw := { s with stk := { s.stk with state := .idle } }

theorem resetStrokes_eq (s : Hw) : s.resetStrokes = s.unloaded.runEnded.idled.rampBack := rfl

theorem unloaded_driver (s : Hw) : SameDriver { s with armed := none } s.unloaded := by
  have recovered := dropRecovery_driver s
  have loaded := dropLoaded_driver { s.dropRecovery with incoming := none }
  exact ⟨loaded.qps.trans recovered.qps, loaded.mask.trans recovered.mask, loaded.version.trans recovered.version,
    loaded.tst.trans recovered.tst, loaded.ports.trans recovered.ports, loaded.armed⟩

theorem runEnded_driver {s : Hw} (empty : s.qps = []) : SameDriver s s.runEnded ∧ s.runEnded.running = none := by
  unfold Hw.runEnded
  split
  · exact ⟨retireNow_driver empty, rfl⟩
  · next idle =>
    have cleared := clearWork_still s
    exact ⟨cleared.toSameDriver, cleared.running.trans (by simpa using idle)⟩

theorem idled_driver (s : Hw) : SameDriver s s.idled := by
  unfold Hw.idled
  exact (SameDriver.refl s).set (by with_reducible rfl)

/-- Without queue pairs, the reset of the strokes takes the billets out and keeps what else the driver set up. -/
theorem resetStrokes_driver {s : Hw} (empty : s.qps = []) : SameDriver { s with armed := none } s.resetStrokes ∧
    s.resetStrokes.running = none ∧ s.resetStrokes.stk.state = .idle := by
  have unloaded := unloaded_driver s
  obtain ⟨driver, running⟩ := runEnded_driver (unloaded.qps.trans empty)
  have back := rampBack_still s.unloaded.runEnded.idled
  rw [resetStrokes_eq]
  exact ⟨((unloaded.trans driver).trans (idled_driver _)).trans back.toSameDriver, back.running.trans running, back.stroke⟩

/-- With nothing at work, the reset of the strokes writes no memory and raises no event. -/
theorem resetStrokes_idle {s : Hw} (running : s.running = none) (armed : s.armed = none) (recovery : s.flt.recovery = none) :
    s.resetStrokes.mem = s.mem ∧ s.resetStrokes.evt = s.evt := by
  have unloaded : s.unloaded = { s with incoming := none, armed := none } := by
    simp only [Hw.unloaded, Hw.dropRecovery, recovery, Hw.dropLoaded, armed, Option.bind_none, Option.isSome_none, Bool.false_and,
      Bool.false_eq_true, if_false]
  have ended : s.unloaded.runEnded = s.unloaded.clearWork := by
    rw [Hw.runEnded, if_neg]
    rw [unloaded]
    simp [running]
  have cleared := clearWork_still s.unloaded
  have back := rampBack_still s.unloaded.clearWork.idled
  rw [resetStrokes_eq, ended]
  rw [unloaded] at back cleared ⊢
  exact ⟨back.mem.trans cleared.mem, back.evt.trans cleared.evt⟩

/-! ## The reset -/

/-- The driver's registers cleared: what a function-level reset does first. -/
def Hw.clearDriver (s : Hw) : Hw :=
  { s with
    mbx := { s.mbx with state := if s.glb.gweku then .idle else .offline, version := 0, interrupted := false }
    qps := [], pci := { s.pci with power := .d0 }, evu := { nextOrd := s.evu.nextOrd }, evt := { sent := s.evt.sent }
    tst := s.tst.lock }

/-- The reset ends with tests of the fields: after a shed of the whole module, or where fields are off. -/
def Hw.restTested (s : Hw) (shed : Bool) : Hw :=
  if shed then (if s.glb.gweku || s.glb.restarting then s.afterShed else s) else if s.glb.gweku then s.testAgain else s

theorem functionReset_eq (s : Hw) :
    s.functionReset = (s.endLong.clearDriver.disablePorts.resetStrokes).restTested (decide (s.stk.state = .shed)) := by
  unfold Hw.functionReset Hw.restTested Hw.disablePorts Hw.clearDriver
  dsimp only

/-- The run is at its end: what the driver set up is the same, no billet runs and the stroke is idle. -/
structure Ended (s t : Hw) : Prop extends SameDriver s t where
  running : t.running = none
  stroke : t.stk.state = .idle

theorem Ended.then {s t u : Hw} (h : Ended s t) (g : Still t u) : Ended s u :=
  ⟨h.toSameDriver.trans g.toSameDriver, g.running.trans h.running, g.stroke.trans h.stroke⟩

theorem Ended.set {s t u : Hw} (h : Ended s t)
    (same : (u.driverPart, u.running, u.stk.state) = (t.driverPart, t.running, t.stk.state)) : Ended s u := by
  obtain ⟨driver, rest⟩ := Prod.mk.inj same
  obtain ⟨running, stroke⟩ := Prod.mk.inj rest
  exact ⟨h.toSameDriver.set driver, running.trans h.running, stroke.trans h.stroke⟩

theorem Ended.afterShed {s t : Hw} (h : Ended s t) : Ended s t.afterShed := by
  unfold Hw.afterShed
  dsimp only
  refine .then ?_ (railsUp_still _)
  split
  · exact h.set (by with_reducible rfl)
  · unfold Hw.memoryEmpty Hw.pointersAt
    exact h.set (by with_reducible rfl)

theorem Ended.restTested {s t : Hw} (h : Ended s t) (shed : Bool) : Ended s (t.restTested shed) := by
  unfold Hw.restTested
  split <;> split
  · exact h.afterShed
  · exact h
  · exact h.then (startTests_still _ _)
  · exact h

/-- What the driver set up, with the reset behind it: only its cleared registers and the disabled ports. -/
theorem functionReset_clears (s : Hw) :
    Ended { s.endLong.clearDriver.disablePorts with armed := none } s.functionReset := by
  obtain ⟨ports, arbs, frame⟩ := disablePorts_frame s.endLong.clearDriver
  obtain ⟨driver, running, stroke⟩ := resetStrokes_driver (s := s.endLong.clearDriver.disablePorts) (by rw [frame]; rfl)
  rw [functionReset_eq]
  exact Ended.restTested ⟨driver, running, stroke⟩ _

theorem endLong_of_none {s : Hw} (long : s.mbx.long = none) :
    s.endLong = { s with mbx := { s.mbx with long := none, progDone := 0, progTotal := 0 } } := by
  simp only [Hw.endLong, long]

/-- With nothing at work, the reset writes no memory and leaves no event flag. -/
theorem functionReset_idle {s : Hw} (running : s.running = none) (armed : s.armed = none)
    (recovery : s.flt.recovery = none) (long : s.mbx.long = none) (up : s.stk.state ≠ .shed) :
    s.functionReset.evt.flags = 0 ∧ s.functionReset.mem = s.mem := by
  obtain ⟨ports, arbs, frame⟩ := disablePorts_frame s.endLong.clearDriver
  have ended := endLong_of_none long
  obtain ⟨mem, evt⟩ := resetStrokes_idle (s := s.endLong.clearDriver.disablePorts) (by rw [frame, ended]; exact running)
    (by rw [frame, ended]; exact armed) (by rw [frame, ended]; exact recovery)
  have tests (t : Hw) : Still t (t.restTested false) := by
    rw [Hw.restTested, if_neg Bool.false_ne_true]
    exact ite_still (startTests_still _ _) (.refl t)
  have rest := tests s.endLong.clearDriver.disablePorts.resetStrokes
  rw [functionReset_eq, decide_eq_false up]
  constructor
  · rw [rest.evt, evt, frame]
    rfl
  · rw [rest.mem, mem, frame, ended]
    rfl

/-- The function-level reset clears the driver's registers and ends what is at work. -/
theorem functionLevelReset_clears (s : State) : ∃ t, exec .functionLevelReset s = .next t ∧ t.tmks = [] ∧ t.hw.qps = [] ∧
    t.hw.evt.mask = 0 ∧ t.hw.stk.state = .idle ∧ t.hw.armed = none ∧ t.hw.running = none ∧ t.hw.mbx.version = 0 ∧
    t.hw.tst.unlocked = false ∧ (∀ p < 64, (t.hw.port p).state = .disabled) ∧
    (s.hw.running = none → s.hw.armed = none → s.hw.flt.recovery = none → s.hw.mbx.long = none →
      s.hw.stk.state ≠ .shed →
      t.hw.evt.flags = 0 ∧ t.hw.mem = s.hw.mem) := by
  have reset := functionReset_clears s.hw
  have disabled (p : Nat) (hp : p < 64) := disablePorts_state s.hw.endLong.clearDriver hp
  obtain ⟨ports, arbs, frame⟩ := disablePorts_frame s.hw.endLong.clearDriver
  refine ⟨{ s with hw := s.hw.functionReset, tmks := [] }, rfl, rfl, reset.qps.trans ?_, reset.mask.trans ?_, reset.stroke,
    reset.armed, reset.running, reset.version.trans ?_, ?_, fun p hp => ?_, functionReset_idle⟩
  · rw [frame]; rfl
  · rw [frame]; rfl
  · rw [frame]; rfl
  · show s.hw.functionReset.tst.unlocked = false
    rw [reset.tst, frame]
    rfl
  · show (s.hw.functionReset.port p).state = .disabled
    have kept := reset.ports
    dsimp only at kept
    rw [Hw.port, kept]
    exact disabled p hp

/-! ## The obligation -/

/-- Settles O45: each instruction by the rule of what it leaves alone; after a reset nothing gives the driver's registers
a value again. -/
theorem powerAndFields : Obligations.PowerAndFields := by
  unfold Obligations.PowerAndFields
  intro s f rings scan march rs h boots fresh
  have same {t : State} (new : Fresh s t) : fresh t :=
    ⟨new.tmks, new.mem, new.host, new.num, new.running, new.armed, new.evt, new.qps, new.pending⟩
  refine ⟨?good, ?loss, functionLevelReset_clears s, fun test idle => ⟨fieldTestDone_ready test idle scan march rs,
    fun bad => fieldTestDone_faulted test idle bad scan march rs⟩, fieldClockLoss_faulted⟩
  case good =>
    obtain ⟨t, ht, new, gweku, state, fields⟩ := powerGood_boots s
    exact ⟨t, ht, same new, gweku, state, fields⟩
  case loss =>
    obtain ⟨t, ht, new, gweku, flash, pending⟩ := powerLoss_keeps_flash s
    exact ⟨t, ht, same new, gweku, flash, pending⟩

end Sys2Proof.Machine
end

section
/-!
# Every command goes on

No command stops the module: its meaning answers a next state, and the queue of waiting commands is not its to change.
-/
namespace Sys2Proof.Machine

/-- A command goes on to a next state with the queue of waiting commands as it was. -/
def GoesOn (s : State) (r : Out) : Prop := ∃ t, r = .next t ∧ t.pending = s.pending

theorem act_goesOn (s : State) (k : Hw → Hw) : GoesOn s (s.act k) := ⟨_, rfl, rfl⟩

theorem goesOn_ite {p : Prop} [Decidable p] {s : State} {r q : Out} (h : GoesOn s r) (g : GoesOn s q) :
    GoesOn s (if p then r else q) := by
  split
  · exact h
  · exact g

theorem GoesOn.after {s t : State} {r : Out} (h : GoesOn t r) (same : t.pending = s.pending) : GoesOn s r := by
  obtain ⟨u, rfl, kept⟩ := h
  exact ⟨u, rfl, kept.trans same⟩

/-! ## Touchmark units -/

theorem writeUnit_goesOn (s : State) (u : Nat) (f : Tmk → Tmk) : GoesOn s (.next (s.writeUnit u f)) := by
  refine ⟨_, rfl, ?_⟩
  unfold State.writeUnit
  split <;> rfl

theorem resultWindowRead_goesOn (s : State) (u : Fin 32) (final : Bool) : GoesOn s (execResultWindowRead u final s) := by
  refine ⟨_, rfl, ?_⟩
  dsimp only
  split_ifs <;> rfl

theorem writeTmk_goesOn (s : State) (u : Fin 32) (o : Nat) (v : W64) : GoesOn s (writeTmk u o v s) := by
  unfold writeTmk
  split
  case h_5 => exact act_goesOn s _
  all_goals exact writeUnit_goesOn s _ _

/-! ## Writes of BAR0 that have the effect of a command -/

theorem driverReq_goesOn (s : State) (v : W64) : GoesOn s (s.driverReq v) := by
  unfold State.driverReq
  split <;> exact ⟨_, rfl, rfl⟩

theorem loadCommand_goesOn (s : State) (tag : W32) (p : List Byte) : GoesOn s (s.loadCommand tag p) := by
  unfold State.loadCommand
  dsimp only
  split
  · exact act_goesOn s _
  · split <;> exact ⟨_, rfl, rfl⟩

theorem doorbell_goesOn (s : State) : GoesOn s s.doorbell := by
  unfold State.doorbell
  dsimp only
  split
  · exact act_goesOn s _
  · split
    case h_4 => exact loadCommand_goesOn s _ _
    all_goals exact ⟨_, rfl, rfl⟩

theorem writeMbx_goesOn (s : State) (o : Nat) (v : W64) : GoesOn s (s.writeMbx o v) := by
  unfold State.writeMbx
  split
  · exact act_goesOn s _
  · split
    case h_1 =>
      split
      · exact doorbell_goesOn s
      · exact act_goesOn s _
    all_goals exact act_goesOn s _

theorem writeHrd_goesOn (s : State) (h : FieldIx) (o : Nat) (v : W64) : GoesOn s (writeHrd h o v s) := by
  unfold writeHrd
  split
  case h_1 =>
    unfold writeHrdCtl
    dsimp only
    split_ifs <;> exact ⟨_, rfl, rfl⟩
  all_goals exact act_goesOn s _

theorem writeLnkCtl_goesOn (s : State) (p : PortIx) (v : W64) : GoesOn s (writeLnkCtl p v s) := by
  unfold writeLnkCtl
  dsimp only
  split_ifs <;> exact ⟨_, rfl, rfl⟩

theorem writeRed_goesOn (s : State) (o : Nat) (v : W64) : GoesOn s (writeRed o v s) := by
  unfold writeRed
  split
  case h_2 => split <;> exact ⟨_, rfl, rfl⟩
  all_goals exact ⟨_, rfl, rfl⟩

theorem writeEng_goesOn (s : State) (e : FieldIx) (o : Nat) (v : W64) : GoesOn s (writeEng e o v s) := by
  unfold writeEng
  split <;> exact ⟨_, rfl, rfl⟩

theorem writeKvOp_goesOn (s : State) (v : W64) : GoesOn s (writeKvOp v s) := by
  unfold writeKvOp
  dsimp only
  split <;> exact ⟨_, rfl, rfl⟩

theorem writePfx_goesOn (s : State) (v : W64) : GoesOn s (writePfx v s) := by
  unfold writePfx
  dsimp only
  split <;> exact ⟨_, rfl, rfl⟩

theorem writeNarrow_goesOn (s : State) (off w : Nat) (v : W64) : GoesOn s (writeNarrow off w v s) := by
  unfold writeNarrow
  refine goesOn_ite (act_goesOn s _) (goesOn_ite ?_ (act_goesOn s _))
  split
  · exact writeUnit_goesOn s _ _
  · exact act_goesOn s _

theorem writeLow_goesOn (s : State) (off : Nat) (v : W64) : GoesOn s (writeLow off v s) := by
  unfold writeLow
  iterate 2 refine goesOn_ite (act_goesOn s _) ?_
  refine goesOn_ite (writeMbx_goesOn s _ v) (goesOn_ite ⟨_, rfl, rfl⟩ ?_)
  iterate 3 refine goesOn_ite (act_goesOn s _) ?_
  refine goesOn_ite ?tmk ?rest
  case tmk =>
    split
    · exact writeTmk_goesOn s _ _ v
    · exact act_goesOn s _
  case rest => split_ifs <;> exact ⟨_, rfl, rfl⟩

theorem writeHigh_goesOn (s : State) (off : Nat) (v : W64) : GoesOn s (writeHigh off v s) := by
  unfold writeHigh
  refine goesOn_ite ?fld (goesOn_ite ?hrd (goesOn_ite ?tng (goesOn_ite (act_goesOn s _) (goesOn_ite ?lnk
    (goesOn_ite ⟨_, rfl, rfl⟩ (goesOn_ite (act_goesOn s _) (goesOn_ite (writeRed_goesOn s _ v) (goesOn_ite ?eng
    (goesOn_ite ?qpc (goesOn_ite (writeKvOp_goesOn s v) (goesOn_ite (writePfx_goesOn s v) (act_goesOn s _))))))))))))
  case fld => split <;> exact act_goesOn s _
  case hrd =>
    split
    · exact writeHrd_goesOn s _ _ v
    · exact act_goesOn s _
  case tng => exact goesOn_ite ((driverReq_goesOn _ v).after rfl) ⟨s, rfl, rfl⟩
  case lnk =>
    split
    · exact goesOn_ite (writeLnkCtl_goesOn s _ v) (act_goesOn s _)
    · exact act_goesOn s _
  case eng =>
    split
    · exact writeEng_goesOn s _ _ v
    · exact act_goesOn s _
  case qpc => exact goesOn_ite ⟨_, rfl, rfl⟩ (act_goesOn s _)

theorem registerWrite_goesOn (s : State) (off : BitVec 24) (w : Nat) (v : W64) : GoesOn s (execRegisterWrite off w v s) := by
  unfold execRegisterWrite
  exact goesOn_ite (writeNarrow_goesOn s _ w v) (goesOn_ite (writeLow_goesOn s _ v) (writeHigh_goesOn s _ v))

/-! ## Every command -/

/-- A BAR0 write takes the branch of its register, a touchmark command acts on its unit, and every other command acts on the
module beside its queue. -/
theorem exec_goesOn (c : Instr) (s : State) : GoesOn s (exec c s) := by
  cases c with
  | registerWrite off w v => exact registerWrite_goesOn s off w v
  | tmkCfgWrite u v | tmkDataWrite u w v | tmkValueWrite u v | tmkStatusWrite u v => exact writeUnit_goesOn s _ _
  | resultWindowRead u final => exact resultWindowRead_goesOn s u final
  | _ => exact ⟨_, rfl, rfl⟩

end Sys2Proof.Machine
end

section
/-!
# What a core cycle changes (R47, R131, R132, R178, R419)

The clock's own registers go on, and then the holder of each arbiter moves at most one transfer: lines of a core's port, a
flit into the express router, a message at a port's egress, a piece of a page.
-/
namespace Sys2Proof.Machine

/-- What transfers of a core leave alone: all but its port's lines and its tokens. -/
def CoreState.Moves (x y : CoreState) : Prop := y = { x with portMoved := y.portMoved, portLast := y.portLast, toks := y.toks }

/-- What sending leaves alone of a port: all but the messages on their way out, and what their frames take. -/
def Port.Sends (x y : Port) : Prop :=
  y = { x with egress := y.egress, outQ := y.outQ, replay := y.replay, txNext := y.txNext, txCredit := y.txCredit
               again := y.again, errReplays := y.errReplays }

/-- An order without the pieces that its round has still to copy. -/
def Order.settled (o : Order) : Order := { o with todo := [] }

/-- What the arbiters' holders leave alone when they move their transfers. -/
structure HoldersMove (s t : Hw) : Prop where
  frame : t = { s with arbs := t.arbs, cores := t.cores, fabric := t.fabric, ports := t.ports, tng := t.tng }
  tongs : t.tng = { s.tng with orders := t.tng.orders }
  orders : t.tng.orders.map Order.settled = s.tng.orders.map Order.settled
  core : ∀ k, (s.core k).Moves (t.core k)
  port : ∀ k, (s.port k).Sends (t.port k)

theorem CoreState.Moves.trans {x y z : CoreState} (h : x.Moves y) (g : y.Moves z) : x.Moves z := by
  rw [CoreState.Moves] at g ⊢
  rw [g, h]

theorem Port.Sends.trans {x y z : Port} (h : x.Sends y) (g : y.Sends z) : x.Sends z := by
  rw [Port.Sends] at g ⊢
  rw [g, h]

theorem HoldersMove.refl (s : Hw) : HoldersMove s s := ⟨rfl, rfl, rfl, fun _ => rfl, fun _ => rfl⟩

theorem HoldersMove.trans {s t u : Hw} (h : HoldersMove s t) (g : HoldersMove t u) : HoldersMove s u where
  frame := by
    rw [g.frame, h.frame]
  tongs := by
    rw [g.tongs, h.tongs]
  orders := g.orders.trans h.orders
  core k := (h.core k).trans (g.core k)
  port k := (h.port k).trans (g.port k)

theorem HoldersMove.tst {s t : Hw} (h : HoldersMove s t) : t.tst = s.tst := by rw [h.frame]

/-! ## A port sends -/

theorem sendAgain_sends (n : Nat) (x : Port) : x.Sends (x.sendAgain n) := by
  induction n generalizing x with
  | zero => rfl
  | succ n ih =>
    unfold Port.sendAgain
    split
    · rfl
    · split
      · rfl
      · exact Port.Sends.trans (by exact rfl) (ih _)

theorem pumpOne_sends (x : Port) : x.Sends x.pumpOne := by
  unfold Port.pumpOne
  dsimp only
  split
  · rfl
  · split <;> rfl

theorem pump_sends (x : Port) : x.Sends x.pump := by
  unfold Port.pump
  dsimp only
  split
  · split
    · exact (sendAgain_sends _ x).trans (List.foldlRecOn _ _ (motive := fun y => (x.sendAgain x.again).Sends y) rfl
        fun y hy _ _ => hy.trans (pumpOne_sends y))
    · exact sendAgain_sends _ x
  · rfl

theorem passed_sends (input : Nat) (x : Port) : x.Sends (x.passed input) := by
  unfold Port.passed
  split
  · rfl
  · dsimp only
    split
    · exact Port.Sends.trans (by exact rfl) (pump_sends _)
    · rfl

/-! ## Holders move -/

theorem setCore_move {s : Hw} {c : Nat} {x : CoreState} (h : (s.core c).Moves x) : HoldersMove s (s.setCore c x) where
  frame := rfl
  tongs := rfl
  orders := rfl
  core k := by
    by_cases hk : k = c
    · subst hk
      simpa [Hw.core, Hw.setCore] using h
    · simp [Hw.core, Hw.setCore, hk, CoreState.Moves]
  port _ := rfl

theorem onPort_move {s : Hw} {p : Nat} {f : Port → Port} (h : (s.port p).Sends (f (s.port p))) :
    HoldersMove s (s.onPort p f) where
  frame := rfl
  tongs := rfl
  orders := rfl
  core _ := rfl
  port k := by
    by_cases hk : k = p
    · subst hk
      simpa [Hw.port, Hw.onPort, Hw.setPort] using h
    · simp [Hw.port, Hw.onPort, Hw.setPort, hk, Port.Sends]

theorem pieceCopied_move (s : Hw) (queue input : Nat) : HoldersMove s (s.pieceCopied queue input) := by
  unfold Hw.pieceCopied
  split
  · exact .refl s
  case h_2 o _ =>
    refine ⟨rfl, rfl, ?_, fun _ => rfl, fun _ => rfl⟩
    rw [List.map_map]
    refine List.map_congr_left fun q _ => ?_
    by_cases hq : q = o
    · simp [hq, Order.settled]
    · simp [hq]

theorem setFabric_move {s t : Hw} (h : HoldersMove s t) (l : List FMsg) : HoldersMove s { t with fabric := l } :=
  h.trans ⟨rfl, rfl, rfl, fun _ => rfl, fun _ => rfl⟩

theorem sendDone_move (s : Hw) (m m' : FMsg) : HoldersMove s (s.sendDone m m') := by
  unfold Hw.sendDone
  split
  · refine setCore_move ?_
    unfold CoreState.tokDone
    split <;> rfl
  · exact .refl s

/-- Without an armed injection a flit on which no bit changed passes its check. -/
theorem checkFlits_none {s : Hw} (unarmed : s.tst.injArm = false) (l : List (Nat × FBuf)) (m : FMsg) :
    s.checkFlits FlitNoise.none l m = (s, m) := by
  have hit (t loc : Nat) : s.injHit t loc = none := by simp [Hw.injHit, unarmed]
  have ok (i phase : Nat) : m.flitOk i phase FlitNoise.none = true := by
    simp only [FMsg.flitOk, FlitNoise.none, BitVec.ofNat_eq_ofNat, BitVec.toNat_zero, Nat.zero_mod, Nat.xor_zero, BitVec.xor_zero,
      decide_true, Bool.or_true]
  induction l with
  | nil => rfl
  | cons e l ih =>
    obtain ⟨i, b⟩ := e
    simp [Hw.checkFlits, hit, ok, ih, show FlitNoise.none.data = 0 from rfl]

theorem expressInject_move {s t : Hw} (unarmed : s.tst.injArm = false) {c : Nat} (h : s.expressInject c = some t) :
    HoldersMove s t := by
  unfold Hw.expressInject at h
  split at h
  · exact absurd h (by simp)
  · obtain ⟨m, -, h⟩ := Option.bind_eq_some_iff.1 h
    dsimp only at h
    split at h
    · cases h
      exact setFabric_move (sendDone_move ..) _
    · split at h
      · exact absurd h (by simp)
      · have same := (sendDone_move s m (if m.bufs.isEmpty then { m.injected 1 with ready := s.now + m.latency } else m.injected 1))
        rw [checkFlits_none (by rw [same.tst, unarmed])] at h
        cases h
        exact setFabric_move same _

theorem arbMove_move {s t : Hw} (unarmed : s.tst.injArm = false) {f kind inst input : Nat}
    (h : s.arbMove f kind inst input = some t) : HoldersMove s t := by
  have bus {p : Prop} [Decidable p] {t : Hw} (h : (if p then none else some s) = some t) : HoldersMove s t := by
    split at h
    · exact absurd h (by simp)
    · exact Option.some.inj h ▸ .refl s
  unfold Hw.arbMove at h
  dsimp only at h
  split at h
  case h_1 =>
    split at h
    · exact bus h
    · split at h
      · exact absurd h (by simp)
      · exact Option.some.inj h ▸ setCore_move rfl
  case h_2 =>
    split at h
    · exact bus h
    · exact expressInject_move unarmed h
  case h_3 =>
    split at h
    · split at h
      · obtain ⟨u, hu, rfl⟩ := Option.map_eq_some_iff.1 h
        exact (bus hu).trans (onPort_move (passed_sends ..))
      · exact absurd h (by simp)
    · exact absurd h (by simp)
  case h_4 =>
    obtain ⟨u, hu, rfl⟩ := Option.map_eq_some_iff.1 h
    exact (bus hu).trans (pieceCopied_move ..)
  case h_5 => exact bus h

theorem setArb_move {s t : Hw} (h : HoldersMove s t) (k : Nat) (a : Arb) : HoldersMove s (t.setArb k a) :=
  h.trans ⟨rfl, rfl, rfl, fun _ => rfl, fun _ => rfl⟩

theorem arbStep_move {s : Hw} (unarmed : s.tst.injArm = false) (k : Nat) : HoldersMove s (s.arbStep k) := by
  unfold Hw.arbStep
  dsimp only
  split
  · exact setArb_move (.refl s) k _
  · split
    · exact setArb_move (.refl s) k _
    · next h => exact setArb_move (arbMove_move unarmed h) k _

theorem arbTick_move {s : Hw} (unarmed : s.tst.injArm = false) : HoldersMove s s.arbTick := by
  unfold Hw.arbTick
  refine List.foldlRecOn _ _ (motive := HoldersMove s) (.refl s) fun t ht e _ => ?_
  dsimp only
  split
  · exact ht
  · exact ht.trans (arbStep_move (by rw [ht.tst, unarmed]) _)

/-! ## A core cycle -/

theorem tickTime_frame (k : Stk) : k.tickTime =
    { k with time := k.tickTime.time, frac := k.tickTime.frac, slew := k.tickTime.slew, slewPhase := k.tickTime.slewPhase } := by
  unfold Stk.tickTime
  dsimp only
  split_ifs <;> rfl

theorem sortTick_frame (x : Herder) : x.sortTick = { x with sortDone := x.sortTick.sortDone, sortPass := x.sortTick.sortPass } := by
  unfold Herder.sortTick
  split
  · rfl
  · split_ifs <;> rfl

theorem tickSorts_frame {m : NMap Herder} (wf : nwf {} m = true) (k : Nat) : nget {} (tickSorts m) k =
    { nget {} m k with sortDone := (nget {} (tickSorts m) k).sortDone, sortPass := (nget {} (tickSorts m) k).sortPass } := by
  rw [tickSorts, nget_foldl_nput (fun _ x => x.sortTick) wf]
  split
  · exact sortTick_frame _
  · next absent =>
    have idle : nget {} m k = {} := not_not.1 fun h => absent (mem_keys_of_nget_ne h)
    rw [idle]
    rfl

/-- The state in which the arbiters find a core cycle: clock, time, bucket and sort jobs have gone on. -/
def Hw.clocked (s : Hw) : Hw :=
  { s with now := s.now + 1, stk := s.stk.tickTime, glb := s.glb.fillPace, herders := tickSorts s.herders }

/-- A core cycle changes what the clock, the bucket and the sorts count, and what holders move. -/
theorem tick_changes (s : State) (unarmed : s.hw.tst.injArm = false) : HoldersMove s.hw.clocked (tick s).hw :=
  arbTick_move (s := s.hw.clocked) unarmed

/-! ## The obligation -/

/-- Settles O53: every arm of the dispatch goes on, and in a core cycle each arbiter's holder moves its transfer and no more. -/
theorem everyCommandGoesOn : Obligations.EveryCommandGoesOn := by
  unfold Obligations.EveryCommandGoesOn
  intro s c h u
  refine ⟨exec_goesOn c s, rfl, fun unarmed => ?_⟩
  have move := tick_changes s unarmed
  have stk : u.stk = h.stk.tickTime := congrArg Hw.stk move.frame
  have glb : u.glb = h.glb.fillPace := congrArg Hw.glb move.frame
  have herders : u.herders = tickSorts h.herders := congrArg Hw.herders move.frame
  refine ⟨?_, ?_, ?_, ?_, move.tongs, move.orders, fun wf k => ?_, move.core, move.port⟩
  · calc u = _ := move.frame
      _ = _ := by rw [stk, glb, herders]; rfl
  · rw [stk, tickTime_frame]
  · rw [stk, tickTime_frame]
  · rw [glb]; rfl
  · rw [Hw.herder, herders]
    exact tickSorts_frame wf k

end Sys2Proof.Machine
end
section
/-! # The intake of a stroke and its results

O34: one fresh event through `takeEvents` and `sendIntake`, and the records a stroke keeps. -/
namespace Sys2Proof.Machine

theorem sortEvs_nil : sortEvs [] = [] := rfl
theorem sortEvs_singleton (e : Ev) : sortEvs [e] = [e] := rfl

/-- With no event on its way back to the intake, `takeBack` leaves the event unit as it is when nothing is deferred either. -/
theorem takeBack_of_none {s : Hw} {w : Nat} (back : s.evu.back = []) (deferred : s.evu.deferred = []) :
    s.takeBack w = s := by
  have owed : s.evu.owed.filter (fun _ => true) = s.evu.owed := List.filter_true _
  simp only [Hw.takeBack, back, deferred, List.any_nil, Bool.not_false, owed, List.filter_false, List.filter_nil, List.map_nil,
    List.append_nil, sortEvs_nil]
  rw [← back, ← deferred]

/-- With no queue pair there is no entry to miss an intake. -/
theorem missIntake_of_none {s : Hw} {w : Nat} (qps : s.qps = []) : s.missIntake w = s := by
  rw [Hw.missIntake, qps, List.foldl_nil]

/-- The event unit after the intake of stroke `w` took the one event `e`. -/
def EvUnit.tookOne (u : EvUnit) (e : Ev) (w : Nat) : EvUnit :=
  { u with deferred := [], fresh := [], owed := u.owed ++ [{ e with took := w }], taken := [{ e with took := w }]
           takenFor := some w }

/-- One fresh event of the stroke before is taken, and the count of deferrals stays. -/
theorem takeEvents_one {s : Hw} {x : StrokeSec} {w : Nat} {e : Ev} (back : s.evu.back = []) (deferred : s.evu.deferred = [])
    (fresh : s.evu.fresh = [e]) (before : e.arrivalStroke + 1 = w) (cap : 1 ≤ x.intakeCap) (qps : s.qps = []) :
    s.takeEvents x w = { s with evu := s.evu.tookOne e w } := by
  obtain ⟨n, room⟩ : ∃ n, x.intakeCap = n + 1 := ⟨x.intakeCap - 1, by omega⟩
  have late : s.evu.fresh.filter (fun e => decide (e.arrivalStroke + 1 < w)) = [] := by simp [fresh, before]
  have own : s.evu.fresh.filter (fun e => decide (e.arrivalStroke + 1 = w)) = [e] := by simp [fresh, before]
  have rest : s.evu.fresh.filter (fun e => decide (w < e.arrivalStroke + 1)) = [] := by simp [fresh, ← before]
  rw [Hw.takeEvents, takeBack_of_none back deferred]
  simp only [late, own, rest, deferred, room, List.map_nil, List.filter_nil, List.append_nil, sortEvs_nil, sortEvs_singleton,
    List.nil_append, List.take_succ_cons, List.take_nil, List.drop_succ_cons, List.drop_nil, List.map_cons, List.length_nil,
    Nat.add_zero, BitVec.add_zero]
  exact missIntake_of_none qps

theorem sendIntake_one {s : Hw} {x : StrokeSec} {e : Ev} {c : Nat} {cs : List Nat} (taken : s.evu.taken = [e])
    (cores : x.intakeCores = c :: cs) :
    s.sendIntake x = s.unitSend 8 c false x.intakeChannel 0 (e.record 0) := by
  simp [Hw.sendIntake, taken, cores, numbered]

/-- `execIntake` in an intake beat that no fault holds, for a stroke whose events are not chosen yet. -/
theorem exec_intake_takes {s : State} {x : StrokeSec} {d : Beat} (sec : s.hw.strokeSec = some x) (desc : s.hw.curDesc = some d)
    (intake : d.intake = true) (held : s.hw.flt.held = false) (stopAll : s.hw.flt.stopAll = false)
    (untaken : s.hw.evu.takenFor = none) :
    exec .intake s = .next { s with hw := (s.hw.takeEvents x s.hw.stk.workStroke).sendIntake x } := by
  change execIntake s = _
  simp [execIntake, State.act, sec, desc, intake, held, stopAll, untaken]

/-- A result record is kept where it names an owed event for the first time in its stroke, and counted otherwise. -/
theorem exec_resultRecord_one (s : State) (r : ResultRec) : exec (.resultRecord [r]) s = .next { s with hw :=
    if (!(s.hw.evu.owed.any fun e => decide (e.qp = some r.qp.toNat) && decide (e.sqIndex = r.sqIndex) &&
          decide (e.took ≤ s.hw.stk.workStroke))) ||
        (s.hw.evu.results.any fun z => decide (z.1.1 = s.hw.stk.workStroke) && decide (z.2.1 = r.qp.toNat) &&
          decide (z.2.2.1 = r.sqIndex)) then
      { s.hw with stk := { s.hw.stk with postDiscarded := satInc s.hw.stk.postDiscarded } }
    else { s.hw with evu := { s.hw.evu with
      results := s.hw.evu.results ++ [(s.hw.curBeat, r.qp.toNat, r.sqIndex, r.result)] } } } := rfl

/-- Settles O34: the intake chooses the one fresh event and sends its record to the first intake core; each record of a stroke
is kept or counted by the model's own test. -/
theorem intakeAndResults : Obligations.IntakeAndResults := by
  unfold Obligations.IntakeAndResults
  intro s x d e c cs r id arrival serial hx
  refine ⟨?_, ?_, rfl, rfl⟩
  · intro sec desc intake held stopAll untaken deferred back fresh before cap cores qps
    have took := takeEvents_one back deferred fresh before cap qps
    have sent := sendIntake_one (s := s.hw.takeEvents x s.hw.stk.workStroke) (by rw [took]; rfl) cores
    rw [exec_intake_takes sec desc intake held stopAll untaken, sent, took]
    exact ⟨_, _, rfl, rfl, rfl, rfl, rfl, rfl, rfl, rfl, rfl, rfl, rfl⟩
  · intro owed again
    rw [exec_resultRecord_one]
    refine ⟨fun isOwed first => ?_, fun other => ?_⟩
    · have kept : (!owed || again) = false := by rw [isOwed, first]; rfl
      exact congrArg (fun h => Host.Outcome.next { s with hw := h }) (if_neg (Bool.eq_false_iff.mp kept))
    · have counted : (!owed || again) = true := by simpa using other
      exact congrArg (fun h => Host.Outcome.next { s with hw := h }) (if_pos counted)

end Sys2Proof.Machine
end
section
/-! # ADMIT_BILLET and RETIRE_BILLET

O37. A command of a mailbox that is ready runs on the module with its opcode and tag taken down; a read of span space that
succeeds costs a draw or the requests at the arbiters it passes, which no check of an admission looks at. -/
namespace Sys2Proof.Machine

/-! ## A command is taken and answered -/

/-- The module when the mailbox has taken a command: any BAR0 write drops a half-typed test key (R142). -/
def Hw.calling (s : Hw) (opcode : Nat) (tag : W32) : Hw :=
  { s with tst := { s.tst with armedKey := false }
           mbx := { s.mbx with state := .running, opcode := BitVec.ofNat 16 opcode, tag := tag } }

theorem mbxCommand_ready {s : State} (ready : MailboxReady s) (opcode : Nat) (tag : W32) (k : Hw → Hw) :
    s.hw.mbxCommand opcode tag k = k (s.hw.calling opcode tag) := by
  obtain ⟨opened, idle, version⟩ := ready
  simp only [Hw.mbxCommand, Hw.bar0, opened, idle, if_true, Hw.calling]
  rw [if_neg (by simp; exact fun _ => version)]

theorem answered_respond {t : State} {s : Hw} {opcode : Nat} {tag : W32} (r : Rsp) (done : t.hw = s.respond r)
    (small : opcode < 2 ^ 16) (op : s.mbx.opcode = BitVec.ofNat 16 opcode) (tagged : s.mbx.tag = tag) :
    Answered t opcode tag r := by
  have code : s.mbx.opcode.toNat = opcode := by rw [op, BitVec.toNat_ofNat, Nat.mod_eq_of_lt small]
  rw [Answered, done, Hw.respond, code, tagged]
  refine ⟨by rw [raise_mbx], by rw [raise_mbx], by rw [raise_mbx], by rw [raise_mbx], ?_⟩
  rw [raise_flags, BitVec.getLsbD_or, show (BitVec.ofNat 44 (2 ^ 40)).getLsbD 40 = true by decide, Bool.or_true]

theorem respond_stk (s : Hw) (r : Rsp) : (s.respond r).stk = s.stk := raise_stk _ _
theorem respond_running (s : Hw) (r : Rsp) : (s.respond r).running = s.running := raise_running _ _
theorem respond_armed (s : Hw) (r : Rsp) : (s.respond r).armed = s.armed := raise_armed _ _
theorem respond_mem (s : Hw) (r : Rsp) : (s.respond r).mem = s.mem := raise_mem _ _

/-! ## A read that succeeds -/

theorem arbRaise_arbs (s : Hw) (f kind inst input count : Nat) :
    ∃ arbs, s.arbRaise f kind inst input count = { s with arbs := arbs } := by
  unfold Hw.arbRaise
  dsimp only
  split <;> exact ⟨_, rfl⟩

theorem portVisit_arbs (s : Hw) (f block n : Nat) (read : Bool) :
    ∃ arbs, s.portVisit f block n read = { s with arbs := arbs } := by
  obtain ⟨a, first⟩ := arbRaise_arbs s f 0 block 64 n
  obtain ⟨b, second⟩ := arbRaise_arbs { s with arbs := a } f 1 block 64 n
  rw [Hw.portVisit, first]
  cases read with
  | true => exact ⟨b, second⟩
  | false => exact ⟨a, rfl⟩

theorem unitTraffic_arbs (s : Hw) (block off n : Nat) (read : Bool) :
    ∃ arbs, s.unitTraffic block off n read = { s with arbs := arbs } := by
  unfold Hw.unitTraffic
  split
  · exact portVisit_arbs _ _ _ _ _
  · exact ⟨s.arbs, rfl⟩

/-- One part of a read that may cross pages, in `Hw.spanLoadAny`. -/
def loadPart (src : Nat) (x : Hw × List Byte × SpanStatus) (p : Nat × Nat) : Hw × List Byte × SpanStatus :=
  ((x.1.spanLoad src p.1 p.2).1, x.2.1 ++ (x.1.spanLoad src p.1 p.2).2.1,
    if x.2.2 = 0 then (x.1.spanLoad src p.1 p.2).2.2 else x.2.2)

theorem spanLoadAny_eq (s : Hw) (src off n : Nat) :
    s.spanLoadAny src off n = (pageParts (n / pageBytes + 2) off n).foldl (loadPart src) (s, [], 0) := rfl

/-- The first status that is not 0 stands. -/
theorem loadParts_bad {src : Nat} (ps : List (Nat × Nat)) {x : Hw × List Byte × SpanStatus} (bad : x.2.2 ≠ 0) :
    (ps.foldl (loadPart src) x).2.2 ≠ 0 := by
  induction ps generalizing x with
  | nil => exact bad
  | cons p ps ih => exact ih (by rw [loadPart, if_neg bad]; exact bad)

theorem spanLoad_of_bad {s : Hw} {src off n : Nat} (bad : s.spanStatus src off n ≠ 0) : (s.spanLoad src off n).2.2 ≠ 0 := by
  simp only [Hw.spanLoad, if_neg bad]
  exact bad

/-- A read whose every part succeeds gives the same bytes whatever the mailbox, the test block and the arbiters hold, and leaves
all but the arbiters as it was. -/
theorem loadParts_good {src : Nat} (ps : List (Nat × Nat)) {s : Hw} {bs bs' : List Byte}
    (good : (ps.foldl (loadPart src) (s, bs, 0)).2 = (bs', 0)) (mbx : Mbx) (tst : Tst) (arbs : NMap Arb) :
    ∃ a, ps.foldl (loadPart src) ({ s with mbx := mbx, tst := tst, arbs := arbs }, bs, 0) =
      ({ s with mbx := mbx, tst := tst, arbs := a }, bs', 0) := by
  induction ps generalizing s bs arbs with
  | nil => exact ⟨arbs, by rw [List.foldl_nil, (Prod.mk.inj good).1]⟩
  | cons p ps ih =>
    rw [List.foldl_cons] at good
    by_cases st : s.spanStatus src p.1 p.2 = 0
    · obtain ⟨a, mine⟩ := unitTraffic_arbs s 209 p.1 p.2 true
      obtain ⟨b, theirs⟩ := unitTraffic_arbs { s with mbx := mbx, tst := tst, arbs := arbs } 209 p.1 p.2 true
      have here : loadPart src (s, bs, 0) p = ({ s with arbs := a }, bs ++ s.memRead p.1 p.2, 0) := by
        simp only [loadPart, Hw.spanLoad, st, if_true, mine]
      have st' : ({ s with mbx := mbx, tst := tst, arbs := arbs } : Hw).spanStatus src p.1 p.2 = 0 := st
      have there : loadPart src ({ s with mbx := mbx, tst := tst, arbs := arbs }, bs, 0) p =
          ({ s with mbx := mbx, tst := tst, arbs := b }, bs ++ s.memRead p.1 p.2, 0) := by
        simp only [loadPart, Hw.spanLoad, st', if_true, theirs]
        rfl
      rw [here] at good
      rw [List.foldl_cons, there]
      exact ih good b
    · exact absurd (congrArg Prod.snd good)
        (loadParts_bad ps (by rw [loadPart, if_pos rfl]; exact spanLoad_of_bad st))

theorem readSpan_good {s : Hw} {addr n : Nat} {bs : List Byte} (good : (s.readSpan addr n).2 = (bs, 0)) (mbx : Mbx) (tst : Tst) :
    ∃ arbs draws, ({ s with mbx := mbx, tst := tst } : Hw).readSpan addr n =
      ({ s with mbx := mbx, tst := tst, arbs := arbs, draws := draws }, bs, 0) := by
  by_cases own : s.ownRank (addrRank addr) = true
  · rw [Hw.readSpan, if_pos own, spanLoadAny_eq] at good
    obtain ⟨a, result⟩ := loadParts_good _ good mbx tst s.arbs
    refine ⟨a, s.draws, ?_⟩
    rw [Hw.readSpan, if_pos (by exact own), spanLoadAny_eq]
    exact result
  · rw [Hw.readSpan, if_neg own] at good
    refine ⟨s.arbs, s.draws + 1, ?_⟩
    rw [Hw.readSpan, if_neg (by exact own)]
    exact congrArg (_, ·) good

/-! ## What the checks of an admission do not look at -/

/-- The module with another mailbox, test block, arbiters and count of draws. -/
def Hw.aside (s : Hw) (mbx : Mbx) (tst : Tst) (arbs : NMap Arb) (draws : Nat) : Hw :=
  { s with mbx := mbx, tst := tst, arbs := arbs, draws := draws }

section Aside
variable (s : Hw) (mbx : Mbx) (tst : Tst) (arbs : NMap Arb) (draws : Nat)

theorem checkCores_aside (b : Billet) : (s.aside mbx tst arbs draws).checkCores b = s.checkCores b := rfl
theorem checkFabric_aside (b : Billet) : (s.aside mbx tst arbs draws).checkFabric b = s.checkFabric b := rfl
theorem checkKv_aside (b : Billet) : (s.aside mbx tst arbs draws).checkKv b = s.checkKv b := rfl
theorem checkWgt_aside (b : Billet) : (s.aside mbx tst arbs draws).checkWgt b = s.checkWgt b := rfl
theorem checkFields_aside (b : Billet) : (s.aside mbx tst arbs draws).checkFields b = s.checkFields b := rfl
theorem kvSpans_aside (k : KvSec) : (s.aside mbx tst arbs draws).kvSpans k = s.kvSpans k := rfl
theorem planBacks_aside (t : TngSec) (off n : Nat) :
    (s.aside mbx tst arbs draws).planBacks t off n = s.planBacks t off n := rfl
theorem planFits_aside (t : TngSec) : (s.aside mbx tst arbs draws).planFits t = s.planFits t := rfl
theorem imagesFit_aside (b : Billet) (g : WgtSec) : (s.aside mbx tst arbs draws).imagesFit b g = s.imagesFit b g := rfl
theorem trailPlaced_aside (t : TngSec) : (s.aside mbx tst arbs draws).trailPlaced t = s.trailPlaced t := rfl

theorem checkRoom_aside (b : Billet) : (s.aside mbx tst arbs draws).checkRoom b = s.checkRoom b := by
  simp only [Hw.checkRoom, kvSpans_aside, planBacks_aside, planFits_aside, imagesFit_aside, trailPlaced_aside]

theorem checkValues_aside (b : Billet) : (s.aside mbx tst arbs draws).checkValues b = s.checkValues b := by
  simp only [Hw.checkValues, checkCores_aside, checkFabric_aside, checkKv_aside, checkWgt_aside]

theorem admissionFault_aside (bs : List Byte) (len act : Nat) :
    (s.aside mbx tst arbs draws).admissionFault bs len act = s.admissionFault bs len act := by
  simp only [Hw.admissionFault, checkValues_aside, checkFields_aside, checkRoom_aside]
  rfl

end Aside

/-! ## What dropping a billet and ramping leave alone -/

/-- The stroke generator, the running billet, and the command that the mailbox answers. -/
def Hw.called (s : Hw) : Stk × Option Loaded × W16 × W32 := (s.stk, s.running, s.mbx.opcode, s.mbx.tag)

theorem foldl_called {α : Type} {f : Hw → α → Hw} (step : ∀ s x, (f s x).called = s.called) (l : List α) (s : Hw) :
    (l.foldl f s).called = s.called :=
  l.foldlRecOn f (motive := fun t => t.called = s.called) rfl fun t kept x _ => (step t x).trans kept

theorem ite_called {p : Prop} [Decidable p] {s t u : Hw} (yes : t.called = s.called) (no : u.called = s.called) :
    (if p then t else u).called = s.called := by
  split
  · exact yes
  · exact no

theorem respond_called (s : Hw) (r : Rsp) : (s.respond r).called = s.called := by
  simp only [Hw.called, Hw.respond, raise_stk, raise_running, raise_mbx]

theorem memWrite_called (s : Hw) (off : Nat) (bs : List Byte) : (s.memWrite off bs).called = s.called := rfl
theorem setCtx_called (s : Hw) (c : Nat) (x : Ctx) : (s.setCtx c x).called = s.called := rfl
theorem queueRamp_called (s : Hw) (f w : Nat) : (s.queueRamp f w).called = s.called := rfl

theorem memWriteAll_called (s : Hw) (off : Nat) (bs : List Byte) : (s.memWriteAll off bs).called = s.called :=
  foldl_called (fun t _ => ite_called (Eq.refl t.called) (memWrite_called _ _ _)) _ _

theorem writeBinding_called (s : Hw) (q : Nat) : (s.writeBinding q).called = s.called := by
  unfold Hw.writeBinding
  split
  · rfl
  · exact memWriteAll_called _ _ _

theorem unbindSequence_called (s : Hw) (q : Nat) : (s.unbindSequence q).called = s.called := writeBinding_called _ _

theorem endLoad_called (s : Hw) : s.endLoad.called = s.called := by
  unfold Hw.endLoad
  split
  · exact respond_called _ _
  · rfl

theorem freeSlot_called (s : Hw) (c k : Nat) : (s.freeSlot c k).called = s.called := rfl

theorem dropLayer_called (s : Hw) (x : Wslot) : (s.dropLayer x).called = s.called := by
  unfold Hw.dropLayer
  split
  · exact ite_called (foldl_called (fun _ _ => memWriteAll_called _ _ _) _ _) rfl
  · rfl

theorem freeAllSlots_called (s : Hw) : s.freeAllSlots.called = s.called := by
  unfold Hw.freeAllSlots Hw.dropLayers
  dsimp only
  refine (foldl_called dropLayer_called _ _).trans ?_
  refine (foldl_called (fun _ _ => setCtx_called _ _ _) _ _).trans ?_
  refine (foldl_called (fun _ _ => freeSlot_called _ _ _) _ _).trans ?_
  exact (foldl_called unbindSequence_called _ _).trans (endLoad_called s)

theorem dropLoaded_called (s : Hw) : s.dropLoaded.called = s.called := by
  unfold Hw.dropLoaded
  exact ite_called (freeAllSlots_called _) rfl

theorem pumpRamps_called (s : Hw) : s.pumpRamps.called = s.called := by
  refine foldl_called (fun t e => ?_) _ _
  exact ite_called (Eq.refl t.called) rfl

theorem rampBack_called (s : Hw) : s.rampBack.called = s.called := by
  unfold Hw.rampBack
  refine ite_called (Eq.refl s.called) ?_
  exact (pumpRamps_called _).trans (foldl_called (fun _ _ => queueRamp_called _ _ _) _ _)

theorem dropArmed_called (s : Hw) : s.dropArmed.called = s.called := (rampBack_called _).trans (dropLoaded_called s)

theorem dropArmed_armed (s : Hw) : s.dropArmed.armed = none :=
  (rampBack_still _).armed.trans (dropLoaded_driver s).armed

theorem rampForAdmission_called (s : Hw) (b : Billet) : (s.rampForAdmission b).called = s.called := by
  unfold Hw.rampForAdmission
  refine ite_called (Eq.refl s.called) ?_
  exact (pumpRamps_called _).trans (foldl_called (fun _ _ => queueRamp_called _ _ _) _ _)

theorem rampForAdmission_still (s : Hw) (b : Billet) : Still s (s.rampForAdmission b) := by
  unfold Hw.rampForAdmission
  refine ite_still (.refl s) (.trans ?_ (rampNotice_still _ _ _))
  exact (Still.foldl (fun _ _ => queueRamp_still _ _ _) _ _).trans (pumpRamps_still _)

/-! ## The two commands -/

/-- The answer to ADMIT_BILLET once the bytes of the billet have been read and judged. -/
def Hw.admitAnswer (s : Hw) (l : Loaded) : Option Refuse → Hw
  | some r => s.refuseBillet r
  | none => ((s.putAdmit 0 0 0 0).arm l).respond { data := l.digest }

/-- The billet that the parameters of ADMIT_BILLET name, of these bytes. -/
def loadedFrom (ps bs : List Byte) : Loaded :=
  { addr := at' ps 0 8, length := at' ps 8 8, activation := at' ps 16 8, digest := shake256 32 bs, img := parseBillet bs }

theorem exec_admitBillet_read {s : State} {tag : W32} {ps bs : List Byte} (ready : MailboxReady s) (length : ps.length = 24)
    (aligned : at' ps 0 8 % 64 = 0) (lit : s.hw.stk.state ≠ .shed)
    (read : (s.hw.readSpan (at' ps 0 8) (at' ps 8 8)).2 = (bs, 0)) :
    ∃ u : Hw, exec (.admitBillet tag ps) s = .next { s with
        hw := u.admitAnswer (loadedFrom ps bs) (s.hw.admissionFault bs (at' ps 8 8) (at' ps 16 8)) } ∧
      u.mbx.opcode = 0x10 ∧ u.mbx.tag = tag ∧ u.armed = s.hw.armed ∧ u.stk = s.hw.stk ∧ u.running = s.hw.running ∧
      u.mem = s.hw.mem := by
  obtain ⟨arbs, draws, same⟩ := readSpan_good read (s.hw.calling 0x10 tag).mbx (s.hw.calling 0x10 tag).tst
  refine ⟨s.hw.aside (s.hw.calling 0x10 tag).mbx (s.hw.calling 0x10 tag).tst arbs draws, ?_, rfl, rfl, rfl, rfl, rfl, rfl⟩
  have call : exec (.admitBillet tag ps) s = execAdmitBillet tag ps s := rfl
  have params : ¬ (ps.length ≠ 24 ∨ at' ps 0 8 % 64 ≠ 0) := by simp [length, aligned]
  have state : (s.hw.calling 0x10 tag).stk.state ≠ .shed := lit
  have result : (s.hw.calling 0x10 tag).readSpan (at' ps 0 8) (at' ps 8 8) =
    (s.hw.aside (s.hw.calling 0x10 tag).mbx (s.hw.calling 0x10 tag).tst arbs draws, bs, 0) := same
  have fault := admissionFault_aside s.hw (s.hw.calling 0x10 tag).mbx (s.hw.calling 0x10 tag).tst arbs draws bs (at' ps 8 8)
    (at' ps 16 8)
  rw [call, execAdmitBillet, State.act, mbxCommand_ready ready]
  simp only [params, if_false, state, result, fault, ne_eq, not_true_eq_false]
  cases s.hw.admissionFault bs (at' ps 8 8) (at' ps 16 8) <;> rfl

/-- A billet that fits is armed and its digest answered. -/
theorem admitAnswer_none {t : State} {s : Hw} {tag : W32} {l : Loaded} (done : t.hw = s.admitAnswer l none)
    (op : s.mbx.opcode = 0x10) (tagged : s.mbx.tag = tag) :
    Answered t 0x10 tag { data := l.digest } ∧ t.hw.armed = some l ∧ t.hw.stk.state = s.stk.state ∧
      t.hw.stk.admStatus = 0 ∧ t.hw.stk.admReason = 0 ∧ t.hw.running = s.running ∧ t.hw.mem = s.mem := by
  have called := rampForAdmission_called { s.putAdmit 0 0 0 0 with armed := some l } l.img
  have still := rampForAdmission_still { s.putAdmit 0 0 0 0 with armed := some l } l.img
  simp only [Hw.called, Prod.mk.injEq] at called
  obtain ⟨stk, running, opcode, tag'⟩ := called
  refine ⟨answered_respond _ done (by decide) (opcode.trans op) (tag'.trans tagged), ?_⟩
  rw [done, Hw.admitAnswer, respond_armed, respond_stk, respond_running, respond_mem, Hw.arm, stk, still.armed, still.running,
    still.mem]
  exact ⟨rfl, rfl, rfl, rfl, rfl, rfl⟩

/-- What RETIRE_BILLET does where it is not refused. -/
def Hw.retired (s : Hw) (flags stroke : Nat) : Hw :=
  if flags = 1 then
    if s.stk.state = .armed then
      { s.dropArmed with stk := { s.dropArmed.stk with
        state := if s.dropArmed.running.isSome && !s.dropArmed.stk.closing then .halted else .idle } }
    else s.dropArmed
  else if s.stk.state = .armed ∨ s.stk.state = .idle then s.dropArmed.retireAtOnce
  else { s with stk := { s.stk with retireAt := some (max stroke (s.stk.num.toNat + 1)) } }

/-- The answer to RETIRE_BILLET with parameters in order. -/
def Hw.retireAnswer (s : Hw) (flags stroke : Nat) : Hw :=
  if (s.stk.state = .idle ∧ s.armed.isNone) ∨ s.stk.state = .shed ∨ (flags = 1 ∧ s.armed.isNone) then s.respond (refused 0x33)
  else (s.retired flags stroke).respond {}

theorem exec_retireBillet {s : State} (ready : MailboxReady s) (tag : W32) {ps : List Byte}
    (params : paramsOk ps 16 [(9, 7)] = true) (flags : at' ps 8 1 ≤ 1) :
    exec (.retireBillet tag ps) s =
      .next { s with hw := (s.hw.calling 0x11 tag).retireAnswer (at' ps 8 1) (at' ps 0 8) } := by
  have call : exec (.retireBillet tag ps) s = execRetireBillet tag ps s := rfl
  have small : ¬ at' ps 8 1 > 1 := by omega
  rw [call, execRetireBillet, State.act, mbxCommand_ready ready]
  simp only [params, small, Bool.not_true, decide_false, Bool.or_self, Bool.false_eq_true, if_false]
  rfl

/-- A billet that does not fit leaves the armed one and shows why in STK_ADMIT. -/
theorem refuseBillet_shows (s : Hw) (r : Refuse) :
    (s.refuseBillet r).armed = s.armed ∧ (s.refuseBillet r).stk.state = s.stk.state ∧
      (s.refuseBillet r).stk.admStatus = BitVec.ofNat 8 r.status ∧ (s.refuseBillet r).stk.admReason = BitVec.ofNat 16 r.reason ∧
      (s.refuseBillet r).stk.admBeat = BitVec.ofNat 12 r.beat ∧ (s.refuseBillet r).stk.admField = BitVec.ofNat 6 r.field ∧
      (s.refuseBillet r).mbx.state = .idle ∧ (s.refuseBillet r).mbx.done = true := by
  rw [Hw.refuseBillet, respond_armed, respond_stk, Hw.respond, raise_mbx]
  exact ⟨rfl, rfl, rfl, rfl, rfl, rfl, rfl, rfl⟩

/-- Settles O37: the mailbox takes the command, the billet's bytes are read and judged, and each answer is `respond` on the
module that the command left. -/
theorem billetCommands : Obligations.BilletCommands := by
  unfold Obligations.BilletCommands
  intro s tag ps bs addr len act ready
  refine ⟨fun length aligned lit read => ?_, fun params => ⟨fun stroke runs => ?_, fun now state armed => ?_,
    fun state none flags => ?_⟩⟩
  · obtain ⟨u, result, op, tagged, armed, stk, running, mem⟩ := exec_admitBillet_read (tag := tag) ready length aligned lit read
    refine ⟨fun fits => ?_, fun r bad => ?_⟩
    · rw [result, fits, ← stk, ← running, ← mem]
      exact ⟨_, rfl, admitAnswer_none (l := loadedFrom ps bs) rfl op tagged⟩
    · rw [result, bad, ← armed, ← stk]
      exact ⟨_, rfl, refuseBillet_shows u r⟩
  · have busy : s.hw.stk.state ≠ .idle ∧ s.hw.stk.state ≠ .armed ∧ s.hw.stk.state ≠ .shed := by
      cases state : s.hw.stk.state <;> simp [Hw.runs, state] at runs ⊢
    obtain ⟨idle, unarmed, lit⟩ := busy
    rw [exec_retireBillet ready tag params (by omega), Hw.retireAnswer, if_neg (by simp [Hw.calling, idle, lit, stroke])]
    have left : (s.hw.calling 0x11 tag).retired (at' ps 8 1) (at' ps 0 8) = { s.hw.calling 0x11 tag with stk :=
        { s.hw.stk with retireAt := some (max (at' ps 0 8) (s.hw.stk.num.toNat + 1)) } } := by
      rw [stroke, Hw.retired, if_neg (by decide), if_neg (by exact fun h => h.elim unarmed idle)]
      rfl
    rw [left]
    exact ⟨_, rfl, answered_respond _ rfl (by decide) rfl rfl, respond_running _ _, respond_stk _ _⟩
  · have kept : s.hw.armed.isNone = false := by simpa using armed
    have called := dropArmed_called (s.hw.calling 0x11 tag)
    simp only [Hw.called, Prod.mk.injEq] at called
    obtain ⟨stk, running, opcode, tag'⟩ := called
    rw [exec_retireBillet ready tag params (by omega), Hw.retireAnswer, if_neg (by simp [Hw.calling, state, kept])]
    rw [now, Hw.retired, if_pos rfl, if_pos (by exact state)]
    refine ⟨_, rfl, answered_respond _ rfl (by decide) opcode tag', ?_⟩
    rw [respond_armed, respond_running, respond_stk, stk, running]
    exact ⟨dropArmed_armed _, rfl, rfl⟩
  · rw [exec_retireBillet ready tag params flags, Hw.retireAnswer, if_pos (.inl ⟨state, by rw [Hw.calling, none]; rfl⟩)]
    exact ⟨_, rfl, answered_respond _ rfl (by decide) rfl rfl⟩

end Sys2Proof.Machine
end
section
/-! # Time and the alignment of strokes

O42. An acknowledgement changes a port only where sending does (`Port.Sends`), so what a SYNC frame reads of the port is what it
was before; `syncSend` puts one frame on each sync-member port that carries traffic. -/
namespace Sys2Proof.Machine

/-! ## STK_CFG -/

/-- The fields of an accepted write to STK_CFG, within their limits (R29). -/
def Stk.set (k : Stk) (v : Nat) : Stk :=
  { k with
    syncTol := BitVec.ofNat 8 (max 1 (bits v 41 34)), lateLimit := BitVec.ofNat 7 (min 126 (max 1 (bits v 33 27)))
    syncMode := BitVec.ofNat 2 (bits v 26 25), syncLink := BitVec.ofNat 6 (bits v 24 19)
    period := BitVec.ofNat 18 (bits v 17 0), lastSync := none, groupPeriod := none }

/-- The stroke generator after an accepted write to STK_CFG: in LOCAL mode the group is always in step (R52). -/
def Stk.configured (k : Stk) (v : Nat) : Stk :=
  if decide ((k.set v).syncMode = 0) || decide ((k.set v).syncMode = 3) then { k.set v with syncOk := true } else k.set v

theorem exec_stkCfgWrite_taken {s : State} {v : W64} (opened : s.hw.barOpen = true) (idle : s.hw.stk.state = .idle)
    (low : 35 ≤ bits v.toNat 17 0) (high : bits v.toNat 17 0 ≤ 163840) :
    exec (.stkCfgWrite v) s = .next { s with hw := { s.hw with
      tst := { s.hw.tst with armedKey := false }, stk := s.hw.stk.configured v.toNat } } := by
  have call : exec (.stkCfgWrite v) s = execStkCfgWrite v s := rfl
  have taken : ¬ (s.hw.stk.state ≠ .idle ∨ bits v.toNat 17 0 < 35 ∨ bits v.toNat 17 0 > 163840) := by
    simp only [idle, ne_eq, not_true_eq_false, false_or]; omega
  rw [call, execStkCfgWrite, State.act, Hw.bar0, if_pos opened]
  simp only [taken, if_false]
  refine congrArg (fun h => Host.Outcome.next { s with hw := h }) ?_
  unfold Stk.configured
  by_cases mode : (decide ((s.hw.stk.set v.toNat).syncMode = 0) || decide ((s.hw.stk.set v.toNat).syncMode = 3)) = true
  · rw [if_pos mode]
    exact if_pos mode
  · rw [if_neg mode]
    exact if_neg mode

theorem exec_stkCfgWrite_discarded {s : State} {v : W64} (opened : s.hw.barOpen = true)
    (bad : s.hw.stk.state ≠ .idle ∨ bits v.toNat 17 0 < 35 ∨ 163840 < bits v.toNat 17 0) :
    exec (.stkCfgWrite v) s = .next { s with hw := { s.hw with tst := { s.hw.tst with armedKey := false } } } := by
  have call : exec (.stkCfgWrite v) s = execStkCfgWrite v s := rfl
  rw [call, execStkCfgWrite, State.act, Hw.bar0, if_pos opened]
  exact congrArg (fun h => Host.Outcome.next { s with hw := h }) (if_pos bad)

theorem clamp_toNat {w n lo hi : Nat} (size : hi < 2 ^ w) (le : lo ≤ hi) :
    lo ≤ (BitVec.ofNat w (min hi (max lo n))).toNat ∧ (BitVec.ofNat w (min hi (max lo n))).toNat ≤ hi := by
  rw [BitVec.toNat_ofNat, Nat.mod_eq_of_lt (by omega)]
  omega

theorem set_limits (k : Stk) (v : Nat) :
    1 ≤ (k.set v).lateLimit.toNat ∧ (k.set v).lateLimit.toNat ≤ 126 ∧ 1 ≤ (k.set v).syncTol.toNat := by
  obtain ⟨low, high⟩ := clamp_toNat (w := 7) (n := bits v 33 27) (lo := 1) (hi := 126) (by decide) (by decide)
  refine ⟨low, high, ?_⟩
  have small : bits v 41 34 < 2 ^ 8 := Nat.mod_lt _ (by decide)
  rw [Stk.set, BitVec.toNat_ofNat, Nat.mod_eq_of_lt (by omega)]
  omega

theorem configured_limits (k : Stk) (v : Nat) :
    1 ≤ (k.configured v).lateLimit.toNat ∧ (k.configured v).lateLimit.toNat ≤ 126 ∧ 1 ≤ (k.configured v).syncTol.toNat := by
  unfold Stk.configured
  split <;> exact set_limits k v

theorem configured_num (k : Stk) (v : Nat) : (k.configured v).num = k.num ∧
    (k.configured v).period = BitVec.ofNat 18 (bits v 17 0) ∧ (k.configured v).syncMode = BitVec.ofNat 2 (bits v 26 25) := by
  unfold Stk.configured
  split <;> exact ⟨rfl, rfl, rfl⟩

/-! ## Frames and ports -/

/-- What a SYNC frame reads of a port, and the frames that wait there, stay when an acknowledgement is taken. -/
theorem takeAck_keeps (x : Port) (ack : BitVec 12) (vc credit : Nat) :
    (x.takeAck ack vc credit).state = x.state ∧ (x.takeAck ack vc credit).syncMember = x.syncMember ∧
      (x.takeAck ack vc credit).delayNs = x.delayNs ∧ (x.takeAck ack vc credit).rxNext = x.rxNext ∧
      (x.takeAck ack vc credit).ctrlOut = x.ctrlOut := by
  unfold Port.takeAck
  dsimp only
  generalize same : ({ x with replay := _, resends := _, again := _, txCredit := _ } : Port) = z
  have sent := pump_sends z
  rw [sent, ← same]
  exact ⟨rfl, rfl, rfl, rfl, rfl⟩

theorem foldl_onPort_port (f : Port → Port) {ps : List Nat} (nodup : ps.Nodup) (s : Hw) (q : Nat) :
    (ps.foldl (fun s p => s.onPort p f) s).port q = if q ∈ ps then f (s.port q) else s.port q := by
  induction ps generalizing s with
  | nil => simp
  | cons p ps ih =>
    obtain ⟨fresh, rest⟩ := List.nodup_cons.mp nodup
    rw [List.foldl_cons, ih rest, Hw.onPort, setPort_port]
    by_cases h : q = p
    · subst h; simp [fresh]
    · simp [h]

theorem foldl_onPort_frame (f : Port → Port) (ps : List Nat) (s : Hw) :
    ∃ ports, ps.foldl (fun s p => s.onPort p f) s = { s with ports := ports } :=
  ps.foldlRecOn _ (motive := fun t : Hw => ∃ ports, t = { s with ports := ports }) ⟨s.ports, rfl⟩
    fun t ⟨ports, same⟩ p _ => by subst same; exact ⟨_, rfl⟩

/-- The ports that SYNC frames go out on. -/
def Hw.syncPorts (s : Hw) : List Nat := (List.range 48).filter fun p => (s.port p).carries && (s.port p).syncMember

/-- A port with one more SYNC frame. -/
def Port.withSync (x : Port) (out : List Byte) : Port :=
  x.sendCtrl frSync 0 { ack := x.rxNext - 1, creditVc := 0, credit := 0, crc := 0 } out

/-- The largest s that `syncSend` announces. -/
def Hw.syncLevel (s : Hw) : Nat := max s.pwr.ownS (nget 16 s.stk.groupS s.stk.num.toNat)

theorem mem_syncPorts {s : Hw} {q : Nat} :
    q ∈ s.syncPorts ↔ q < 48 ∧ (s.port q).carries = true ∧ (s.port q).syncMember = true := by
  simp [Hw.syncPorts]

/-- What each stroke's largest s is once frames have gone out. -/
def Hw.syncTold (s : Hw) : NMap Nat :=
  if s.syncPorts.isEmpty then s.stk.groupS else nput 16 s.stk.groupS s.stk.num.toNat s.syncLevel

theorem syncSend_frame (s : Hw) :
    ∃ ports, s.syncSend = { s with stk := { s.stk with groupS := s.syncTold }, ports := ports } :=
  foldl_onPort_frame (fun x => x.withSync (s.syncOut s.syncLevel)) s.syncPorts { s with stk := { s.stk with groupS := s.syncTold } }

theorem syncTold_level {s : Hw} {q : Nat} (out : q ∈ s.syncPorts) : nget 16 s.syncTold s.stk.num.toNat = s.syncLevel := by
  rw [Hw.syncTold, if_neg (by simpa using List.ne_nil_of_mem out), nget_nput, if_pos rfl]

theorem syncSend_port (s : Hw) (q : Nat) :
    s.syncSend.port q = if q ∈ s.syncPorts then (s.port q).withSync (s.syncOut s.syncLevel) else s.port q := by
  exact foldl_onPort_port (fun x => x.withSync (s.syncOut s.syncLevel)) (List.nodup_range.filter _) _ q

/-! ## Taking a SYNC frame -/

/-- The largest s of a stroke before a frame, this module's own counted, and that of the group after it (R308). -/
def Hw.syncOld (s : Hw) (fr : SyncFrame) : Nat := max s.pwr.ownS (nget 16 s.stk.groupS fr.stroke.toNat)
def Hw.syncNew (s : Hw) (fr : SyncFrame) : Nat := min 32 (max (nget 16 s.stk.groupS fr.stroke.toNat) fr.s.toNat)

/-- A frame of the current stroke raises the largest s. -/
abbrev Hw.syncRises (s : Hw) (fr : SyncFrame) : Prop := fr.stroke.toNat = s.stk.num.toNat ∧ s.syncNew fr > s.syncOld fr

/-- The module follows the link of port `p` (R50). -/
abbrev Hw.follows (s : Hw) (p : Nat) : Prop := s.stk.syncMode = 2 ∧ s.stk.syncLink.toNat = p

/-- Port `p` has taken the acknowledgement of a frame. -/
def Hw.acked (s : Hw) (p : Nat) (fr : SyncFrame) : Hw :=
  s.onPort p fun x => x.takeAck fr.head.ack fr.head.creditVc.val fr.head.credit.toNat

/-- The stroke generator when port `p`, a sync member, has taken a good frame, before a rise is passed on. -/
def Hw.syncTaken (s : Hw) (p : Nat) (fr : SyncFrame) : Stk :=
  if s.follows p then { s.stk with
    lastSync := some (fr.stroke.toNat, s.syncPlace p fr, fr.s.toNat), groupPeriod := s.syncPeriod fr (s.syncPlace p fr)
    groupS := nput 16 s.stk.groupS fr.stroke.toNat (s.syncNew fr) }
  else { s.stk with groupS := nput 16 s.stk.groupS fr.stroke.toNat (s.syncNew fr) }

/-- The module when port `p` has taken a good frame. -/
def Hw.synced (s : Hw) (p : Nat) (fr : SyncFrame) : Hw := { s.acked p fr with stk := s.syncTaken p fr }

/-- A rise for the current stroke is passed on (R308). -/
def Hw.syncAnswer (s : Hw) (p : Nat) (fr : SyncFrame) : Hw :=
  if s.syncRises fr then (s.synced p fr).syncSend else s.synced p fr

theorem acked_place (s : Hw) (p : Nat) (fr : SyncFrame) : (s.acked p fr).syncPlace p fr = s.syncPlace p fr := by
  obtain ⟨-, -, delay, -, -⟩ := takeAck_keeps (s.port p) fr.head.ack fr.head.creditVc.val fr.head.credit.toNat
  rw [Hw.syncPlace, Hw.syncPlace, Hw.acked, Hw.onPort, setPort_port, if_pos rfl, delay]

theorem exec_sync_good {s : State} {p : PortIx} {fr : SyncFrame} (crc : fr.crcOk = true) (port : p.val < 48)
    (carries : (s.hw.port p.val).carries = true) (isMember : (s.hw.port p.val).syncMember = true) :
    exec (.sync p fr) s = .next { s with hw := s.hw.syncAnswer p.val fr } := by
  have call : exec (.sync p fr) s = execSync p fr s := rfl
  obtain ⟨-, same, -, -, -⟩ := takeAck_keeps (s.hw.port p.val) fr.head.ack fr.head.creditVc.val fr.head.credit.toNat
  have still : ¬ ((decide (p.val ≥ 48) || !((s.hw.acked p.val fr).port p.val).syncMember) = true) := by
    simp [Hw.acked, Hw.onPort, same, isMember, port]
  have place := acked_place s.hw p.val fr
  unfold Hw.acked at still place
  rw [call, execSync, State.act]
  simp only [carries, crc, Bool.not_true, Bool.false_eq_true, if_false, still, place]
  refine congrArg (fun h => Host.Outcome.next { s with hw := h }) ?_
  unfold Hw.syncAnswer Hw.synced Hw.syncTaken Hw.acked
  by_cases mode : s.hw.stk.syncMode = 2 ∧ s.hw.stk.syncLink.toNat = p.val
  · simp only [Hw.follows, Hw.onPort, Hw.setPort, eq_true mode, if_true]
    rfl
  · simp only [Hw.follows, Hw.onPort, Hw.setPort, eq_false mode, if_false]
    rfl

theorem synced_groupS (s : Hw) (p : Nat) (fr : SyncFrame) :
    (s.synced p fr).stk.groupS = nput 16 s.stk.groupS fr.stroke.toNat (s.syncNew fr) ∧ (s.synced p fr).stk.num = s.stk.num := by
  unfold Hw.synced Hw.syncTaken
  split <;> exact ⟨rfl, rfl⟩

/-- An edge with a time of day: the error is slewed out, or stepped out in IDLE above 1 ms (R47). -/
theorem exec_ppsEdge_some (s : State) (tod : W64) :
    ∃ t, exec (.ppsEdge (some tod)) s = .next t ∧ t.hw.stk.holdover = false ∧ t.hw.glb.time = true ∧ t.hw.stk.num = s.hw.stk.num ∧
      ((s.hw.timeError tod).natAbs ≤ 1000000 ∨ s.hw.stk.state ≠ .idle → t.hw.stk.time = s.hw.stk.time ∧
        t.hw.stk.slew = -s.hw.timeError tod ∧ t.hw.stk.locked = decide ((s.hw.timeError tod).natAbs < 100)) ∧
      ((s.hw.timeError tod).natAbs > 1000000 → s.hw.stk.state = .idle → t.hw.stk.time = tod ∧ t.hw.stk.slew = 0) := by
  refine ⟨_, rfl, ?_⟩
  by_cases step : (decide (s.hw.stk.state = .idle) && decide ((s.hw.timeError tod).natAbs > 1000000)) = true
  · simp only [step, if_true, Bool.true_or]
    simp only [Bool.and_eq_true, decide_eq_true_eq] at step
    obtain ⟨idle, large⟩ := step
    exact ⟨trivial, trivial, trivial, fun small => absurd small (by simp [idle]; omega), fun _ _ => ⟨trivial, trivial⟩⟩
  · simp only [step, Bool.false_eq_true, if_false, Bool.false_or]
    simp only [Bool.and_eq_true, decide_eq_true_eq] at step
    exact ⟨trivial, trivial, trivial, fun _ => ⟨trivial, trivial, trivial⟩, fun large idle => absurd ⟨idle, large⟩ step⟩

theorem exec_timeHoldover {s : State} (fresh : s.hw.stk.holdover = false) :
    exec .timeHoldover s = .next { s with hw := ({ s.hw with stk := { s.hw.stk with
      ppsPresent := false, holdover := true, slew := 0, slewPhase := 0 } } : Hw).raise 4 } := by
  have call : exec .timeHoldover s = execTimeHoldover s := rfl
  rw [call, execTimeHoldover, State.act, fresh]
  rfl

theorem exec_syncLost {s : State} (free : s.hw.syncLocal = false) (ok : s.hw.stk.syncOk = true) :
    exec .syncLost s = .next { s with hw := ({ s.hw with stk := { s.hw.stk with syncOk := false } } : Hw).raise 3 } := by
  have call : exec .syncLost s = execSyncLost s := rfl
  rw [call, execSyncLost, State.act, free, ok]
  rfl

theorem exec_sync_bad {s : State} {p : PortIx} {fr : SyncFrame} (carries : (s.hw.port p.val).carries = true)
    (bad : fr.crcOk = false) : exec (.sync p fr) s = .next { s with hw := s.hw.badFrame p.val } := by
  have call : exec (.sync p fr) s = execSync p fr s := rfl
  rw [call, execSync, State.act]
  simp only [carries, bad, Bool.not_true, Bool.not_false, Bool.false_eq_true, if_false, if_true]

theorem exec_syncResend {s : State} (lit : s.hw.stk.state ≠ .shed) :
    exec .stretchSyncResend s = .next { s with hw := s.hw.syncSend } := by
  have call : exec .stretchSyncResend s = execStretchSyncResend s := rfl
  rw [call, execStretchSyncResend, State.act, if_neg lit]

theorem raise_bit (s : Hw) (n : Fin 44) : (s.raise n).evt.flags.getLsbD n = true := by
  rw [raise_flags, BitVec.getLsbD_or]
  have bit : (BitVec.ofNat 44 (2 ^ n.val)).getLsbD n = true := by decide +revert
  rw [bit, Bool.or_true]

theorem configured_local {k : Stk} {v : Nat} (mode : bits v 26 25 = 0) : (k.configured v).syncOk = true := by
  have loc : (k.set v).syncMode = 0 := by rw [Stk.set, mode]; rfl
  rw [Stk.configured, loc]
  rfl

/-- On the followed link a frame places the boundary (R308). -/
theorem synced_lastSync {s : Hw} {p : Nat} (fr : SyncFrame) (mode : s.stk.syncMode = 2) (link : s.stk.syncLink.toNat = p) :
    (s.synced p fr).stk.lastSync = some (fr.stroke.toNat, s.syncPlace p fr, fr.s.toNat) := by
  rw [Hw.synced, Hw.syncTaken, if_pos ⟨mode, link⟩]

theorem synced_other {s : Hw} {p : Nat} (fr : SyncFrame) (other : s.stk.syncMode ≠ 2 ∨ s.stk.syncLink.toNat ≠ p) :
    (s.synced p fr).stk = { s.stk with groupS := nput 16 s.stk.groupS fr.stroke.toNat (s.syncNew fr) } := by
  rw [Hw.synced, Hw.syncTaken, if_neg fun ⟨mode, link⟩ => other.elim (· mode) (· link)]

theorem synced_out (s : Hw) (p : Nat) (fr : SyncFrame) (w : Nat) : (s.synced p fr).syncOut w = s.syncOut w := by
  unfold Hw.synced Hw.syncTaken
  split <;> rfl

theorem synced_port (s : Hw) (p : Nat) (fr : SyncFrame) :
    (s.synced p fr).port p = (s.port p).takeAck fr.head.ack fr.head.creditVc.val fr.head.credit.toNat :=
  (setPort_port _ _ _ _).trans (if_pos rfl)

theorem synced_level {s : Hw} {fr : SyncFrame} (p : Nat) (now : fr.stroke.toNat = s.stk.num.toNat) :
    (s.synced p fr).syncLevel = max s.pwr.ownS (s.syncNew fr) := by
  obtain ⟨level, num⟩ := synced_groupS s p fr
  rw [Hw.syncLevel, level, num, nget_nput, if_pos now.symm]
  rfl

/-- Settles O42: STK_CFG within its limits, the edges of the time of day, and SYNC frames, whose ports keep all that a frame
reads. -/
theorem timeAndSync : Obligations.TimeAndSync := by
  unfold Obligations.TimeAndSync
  refine ⟨fun s v tod => ?_, fun s p fr => ?_⟩
  · intro k period err h
    obtain ⟨t, edge, ended, valid, num, slewed, stepped⟩ := exec_ppsEdge_some s tod
    refine ⟨fun opened => ⟨fun idle low high => ?_, fun bad => exec_stkCfgWrite_discarded opened bad⟩, rfl, fun small => ?_,
      fun large idle => ?_, fun fresh => ?_⟩
    · rw [exec_stkCfgWrite_taken opened idle low high]
      obtain ⟨num, per, mode⟩ := configured_num k v.toNat
      obtain ⟨lo, hi, tol⟩ := configured_limits k v.toNat
      exact ⟨_, rfl, rfl, per, mode, lo, hi, tol, num, configured_local⟩
    · obtain ⟨time, slew, locked⟩ := slewed small
      exact ⟨t, edge, time, slew, ended, locked, valid, num⟩
    · obtain ⟨time, slew⟩ := stepped large idle
      exact ⟨t, edge, time, slew, ended, valid⟩
    · exact ⟨_, exec_timeHoldover fresh, raise_stk _ _, raise_bit _ 4, raise_flt _ _⟩
  · intro k n old v x sends out frame
    refine ⟨fun carries bad => exec_sync_bad carries bad, fun crc ⟨port, carries, isMember⟩ => ⟨fun flat => ?_, fun cur rise => ?_⟩,
      fun lit => ?_, fun free ok => ⟨_, exec_syncLost free ok, raise_stk _ _, raise_bit _ 3⟩, rfl⟩
    · have still : ¬ s.hw.syncRises fr := fun ⟨now, up⟩ => flat.elim (· now) (Nat.not_le.mpr up)
      obtain ⟨level, num⟩ := synced_groupS s.hw p.val fr
      rw [exec_sync_good crc port carries isMember, Hw.syncAnswer, if_neg still]
      refine ⟨_, rfl, rfl, ?_, num, synced_other fr, synced_lastSync fr⟩
      rw [level, nget_nput, if_pos rfl]
      rfl
    · obtain ⟨-, num⟩ := synced_groupS s.hw p.val fr
      obtain ⟨state, kept, -, rxNext, ctrlOut⟩ := takeAck_keeps x fr.head.ack fr.head.creditVc.val fr.head.credit.toNat
      have own := synced_port s.hw p.val fr
      have here : p.val ∈ (s.hw.synced p.val fr).syncPorts :=
        mem_syncPorts.mpr ⟨port, by rw [own, Port.carries, state]; exact carries, by rw [own, kept]; exact isMember⟩
      have told := syncTold_level here
      obtain ⟨ports, sent⟩ := syncSend_frame (s.hw.synced p.val fr)
      have after := syncSend_port (s.hw.synced p.val fr) p.val
      rw [synced_level p.val cur, num, ← cur] at told
      rw [if_pos here, own, synced_level p.val cur, synced_out] at after
      rw [exec_sync_good crc port carries isMember, Hw.syncAnswer, if_pos ⟨cur, rise⟩]
      refine ⟨_, _, rfl, ?_, congrArg (·.ctrlOut) after, rxNext, ctrlOut⟩
      rw [sent]
      exact told
    · obtain ⟨ports, sent⟩ := syncSend_frame s.hw
      have level (member : sends p.val) := syncTold_level (mem_syncPorts.mpr member)
      rw [exec_syncResend lit]
      refine ⟨_, rfl, by rw [sent], fun member => by rw [sent]; exact level member, fun q => ⟨fun member => ?_, fun other => ?_⟩⟩
      · exact (syncSend_port s.hw q).trans (if_pos (mem_syncPorts.mpr member))
      · exact (syncSend_port s.hw q).trans (if_neg fun h => other (mem_syncPorts.mp h))

end Sys2Proof.Machine
end
section
/-! # Peer messages, table loads and the BAR4 window

O30. A delivery lengthens the fabric by one message and the port keeps it for a replay; a refusal costs a record, which may raise
further events but lowers none. An access of the BAR4 window inside one page is one part. -/
namespace Sys2Proof.Machine

/-! ## Events stay raised -/

theorem raise_stays {s : Hw} {n : Nat} (m : Nat) (set : s.evt.flags.getLsbD n = true) :
    (s.raise m).evt.flags.getLsbD n = true := by
  rw [raise_flags, BitVec.getLsbD_or, set, Bool.true_or]

theorem stopUncontained_stays {s : Hw} {n : Nat} (serial : Nat) (set : s.evt.flags.getLsbD n = true) :
    (s.stopUncontained serial).evt.flags.getLsbD n = true := by
  have raised := raise_stays 32 (s := s.closeRecovery serial) ((congrArg (·.flags.getLsbD n) (closeRecovery_evt s serial)).trans set)
  unfold Hw.stopUncontained
  dsimp only
  split <;> exact raised

theorem judgeHigh_stays {s : Hw} {n : Nat} (set : s.evt.flags.getLsbD n = true) : s.judgeHigh.evt.flags.getLsbD n = true := by
  unfold Hw.judgeHigh
  dsimp only
  split <;> split <;> simp [set]

/-- The logs are full: a record and the stop that it brings (R344). -/
def Hw.fullLog (s : Hw) (log fill : Nat) : Hw :=
  ((s.writeRecord { cls := 0x30, outcome := .uncontained, data := dat [log, fill] }).stopUncontained s.flt.nextSerial).raise 34

theorem fullLog_stays {s : Hw} {n : Nat} (log fill : Nat) (set : s.evt.flags.getLsbD n = true) :
    (s.fullLog log fill).evt.flags.getLsbD n = true :=
  raise_stays 34 (stopUncontained_stays _ ((congrArg (·.flags.getLsbD n) (emitRecord_evt s _)).trans set))

theorem ite_stays {p : Prop} [Decidable p] {s t : Hw} {n : Nat} (yes : s.evt.flags.getLsbD n = true)
    (no : t.evt.flags.getLsbD n = true) : (if p then s else t).evt.flags.getLsbD n = true := by
  split
  · exact yes
  · exact no

theorem judgeFull_stays {s : Hw} {n : Nat} (set : s.evt.flags.getLsbD n = true) : s.judgeFull.evt.flags.getLsbD n = true := by
  have first : (if decide (s.flt.faultFill ≥ faultLogSize - faultRing) && !s.flt.fullFault then s.fullLog 0 s.flt.faultFill
    else s).evt.flags.getLsbD n = true := ite_stays (fullLog_stays _ _ set) set
  exact ite_stays (fullLog_stays _ _ first) first

theorem record_stays {s : Hw} {n : Nat} (r : RecIn) (set : s.evt.flags.getLsbD n = true) :
    (s.record r).evt.flags.getLsbD n = true :=
  judgeFull_stays (judgeHigh_stays ((congrArg (·.flags.getLsbD n) (emitRecord_evt s _)).trans set))

/-! ## Messages -/

/-- The message that a delivery of `m` puts into the fabric. -/
def Hw.inbound (s : Hw) (p : Nat) (m : PeerMsg) : FMsg :=
  unitMsg s (peerEndpoint p) m.dest.toNat m.destEndpoint m.channel.toNat 0 m.payload

/-- `t` is the module after message `m` was delivered from port `p` and what follows of its kind was done. -/
structure Delivered (s t : Hw) (p : Nat) (m : PeerMsg) : Prop where
  fabric : t.fabric = s.fabric ++ [s.inbound p m]
  cores : t.cores = s.cores
  kept : (s.stk.workStroke, s.stk.beat, s.inbound p m) ∈ (t.port p).kept

theorem deliverInbound_delivered (s : Hw) (p : Nat) (m : PeerMsg) : Delivered s (s.deliverInbound p m) p m where
  fabric := rfl
  cores := rfl
  kept := by
    rw [Hw.deliverInbound, Hw.onPort, setPort_port, if_pos rfl]
    exact List.mem_append_right _ (List.mem_singleton_self _)

/-- What a message that is not delivered into memory leaves alone. -/
structure Beside (s t : Hw) : Prop where
  fabric : t.fabric = s.fabric
  cores : t.cores = s.cores
  kept : ∀ p, (t.port p).kept = (s.port p).kept

theorem Beside.trans {s t u : Hw} (h : Beside s t) (g : Beside t u) : Beside s u :=
  ⟨g.fabric.trans h.fabric, g.cores.trans h.cores, fun p => (g.kept p).trans (h.kept p)⟩

theorem Delivered.beside {s t u : Hw} {p : Nat} {m : PeerMsg} (h : Delivered s t p m) (g : Beside t u) : Delivered s u p m :=
  ⟨g.fabric.trans h.fabric, g.cores.trans h.cores, g.kept p ▸ h.kept⟩

theorem arbRaise_beside (s : Hw) (f kind inst input count : Nat) : Beside s (s.arbRaise f kind inst input count) := by
  obtain ⟨arbs, same⟩ := arbRaise_arbs s f kind inst input count
  rw [same]
  exact ⟨rfl, rfl, fun _ => rfl⟩

theorem Beside.refl (s : Hw) : Beside s s := ⟨rfl, rfl, fun _ => rfl⟩

theorem ite_beside {q : Prop} [Decidable q] {s t u : Hw} (yes : Beside s t) (no : Beside s u) : Beside s (if q then t else u) := by
  split
  · exact yes
  · exact no

theorem memWrite_beside (s : Hw) (off : Nat) (bs : List Byte) : Beside s (s.memWrite off bs) := ⟨rfl, rfl, fun _ => rfl⟩

theorem writeRows_beside (s : Hw) (k : KvSec) (q slot head pos : Nat) (bs : List Byte) :
    Beside s (s.writeRows k q slot head pos bs) := by
  unfold Hw.writeRows
  split
  · exact .refl s
  · refine ite_beside (.refl s) ?_
    exact (((memWrite_beside _ _ _).trans (memWrite_beside _ _ _)).trans (memWrite_beside _ _ _)).trans (memWrite_beside _ _ _)

theorem leashDrop_beside (s : Hw) (p : Nat) (recorded : Bool) (header : List Byte) : Beside s (s.leashDrop p recorded header) := by
  unfold Hw.leashDrop
  dsimp only
  split
  · exact ⟨by simp, by simp, fun q => by simp [Hw.port]⟩
  · exact ⟨rfl, rfl, fun _ => rfl⟩

theorem sendPort_beside (s : Hw) (p : Nat) (m : LMsg) : Beside s (s.sendPort p m) := by
  refine Beside.trans ?_ (arbRaise_beside _ _ _ _ _ _)
  refine ⟨rfl, rfl, fun q => ?_⟩
  rw [Hw.onPort, setPort_port]
  split
  · next h => rw [h]
  · rfl

theorem sendRank_beside (s : Hw) (rank : W16) (m : LMsg) : Beside s (s.sendRank rank m) := by
  unfold Hw.sendRank
  split
  · exact leashDrop_beside _ _ _ _
  · exact sendPort_beside _ _ _

theorem answerAbsent_beside (s : Hw) (k : KvSec) (home : W16) (q slot pos : Nat) :
    Beside s (s.answerAbsent k home q slot pos) := by
  unfold Hw.answerAbsent
  split
  · exact .refl s
  · exact sendRank_beside _ _ _

/-- What an ATTN message does beside its delivery: rows are written, a partial joins its merge (R199). -/
def Hw.attnPart (s : Hw) (src : W16) (part : AttnPart) : Option KvSec → Hw
  | none => s
  | some k => match part with
    | .rows q slot head pos bs =>
      (s.writeRows k q.toNat slot.toNat head.toNat pos.toNat bs).answerAbsent k src q.toNat slot.toNat pos.toNat
    | .partialOf t head slot mb _ =>
      { s with kv := { s.kv with partials := s.kv.partials ++ [(t.toNat, slot.toNat, mb.toNat, some head.toNat)] } }
    | .absent t slot mb =>
      { s with kv := { s.kv with partials := s.kv.partials ++ [(t.toNat, slot.toNat, mb.toNat, none)] } }

theorem attnPart_beside (s : Hw) (src : W16) (part : AttnPart) (kv : Option KvSec) : Beside s (s.attnPart src part kv) := by
  cases kv with
  | none => exact .refl s
  | some k => cases part with
    | rows => exact (writeRows_beside _ _ _ _ _ _ _).trans (answerAbsent_beside _ _ _ _ _ _)
    | partialOf => exact ⟨rfl, rfl, fun _ => rfl⟩
    | absent => exact ⟨rfl, rfl, fun _ => rfl⟩

/-- The KV section of the running billet. -/
def Hw.runningKv (s : Hw) : Option KvSec := s.running.bind fun l => l.img.kv

section Peer
variable {s : State} {p : PortIx} {m : PeerMsg}

theorem exec_act_now (port : p.val < 48) (now : m.stroke.toNat = s.hw.stk.num.toNat % 4) :
    exec (.act p m) s = .next { s with hw := (s.hw.popInbox p.val 3).deliverInbound p.val m } := by
  have call : exec (.act p m) s = execAct p m s := rfl
  rw [call, execAct, State.act]
  simp only [ge_iff_le, Nat.not_le.mpr port, if_false]
  exact congrArg (fun h => Host.Outcome.next { s with hw := h }) (if_neg (not_not.mpr now))

theorem exec_attn_now (port : p.val < 48) (now : m.stroke.toNat = s.hw.stk.num.toNat % 4) (part : AttnPart) :
    exec (.attn p m part) s =
      .next { s with hw := ((s.hw.popInbox p.val 4).deliverInbound p.val m).attnPart m.srcRank part s.hw.runningKv } := by
  have call : exec (.attn p m part) s = execAttn p m part s := rfl
  rw [call, execAttn, State.act]
  simp only [ge_iff_le, Nat.not_le.mpr port, if_false]
  refine congrArg (fun h => Host.Outcome.next { s with hw := h }) ((if_neg (not_not.mpr now)).trans ?_)
  have sec : ((s.hw.popInbox p.val 4).deliverInbound p.val m).running.bind (fun l => l.img.kv) = s.hw.runningKv := rfl
  rw [sec]
  cases s.hw.runningKv with
  | none => rfl
  | some k => cases part <;> rfl

theorem exec_act_other (port : p.val < 48) (other : m.stroke.toNat ≠ s.hw.stk.num.toNat % 4) :
    exec (.act p m) s = .next { s with hw := (s.hw.popInbox p.val 3).strokeSkew p.val 3 m.stroke.toNat } := by
  have call : exec (.act p m) s = execAct p m s := rfl
  rw [call, execAct, State.act]
  simp only [ge_iff_le, Nat.not_le.mpr port, if_false]
  exact congrArg (fun h => Host.Outcome.next { s with hw := h }) (if_pos other)

theorem exec_attn_other (port : p.val < 48) (other : m.stroke.toNat ≠ s.hw.stk.num.toNat % 4) (part : AttnPart) :
    exec (.attn p m part) s = .next { s with hw := (s.hw.popInbox p.val 4).strokeSkew p.val 4 m.stroke.toNat } := by
  have call : exec (.attn p m part) s = execAttn p m part s := rfl
  rw [call, execAttn, State.act]
  simp only [ge_iff_le, Nat.not_le.mpr port, if_false]
  exact congrArg (fun h => Host.Outcome.next { s with hw := h }) (if_pos other)

/-- The event that an EVENT message presents (R42). -/
def Hw.leashEvent (s : Hw) (src : W16) (en : List Byte) : Ev :=
  { arrival := s.stk.time, arrivalStroke := s.stk.num.toNat, qp := none, rank := src, sqIndex := 0, gap := false
    defers := 0, deferred := false, entry := en, ord := 0 }

theorem exec_event_good {src : W16} {en : List Byte} (port : p.val < 48) (length : en.length = 64)
    (crc : entryCrcOk en = true) :
    exec (.event p src en) s = .next { s with hw := (s.hw.popInbox p.val 6).present (s.hw.leashEvent src en) } := by
  have call : exec (.event p src en) s = execEvent p src en s := rfl
  have good : ¬ (en.length ≠ 64 ∨ (!entryCrcOk en) = true) := by simp [length, crc]
  rw [call, execEvent, State.act]
  simp only [ge_iff_le, Nat.not_le.mpr port, if_false]
  exact congrArg (fun h => Host.Outcome.next { s with hw := h }) (if_neg good)

end Peer

theorem strokeSkew_skewed (s : Hw) (p kind stroke : Nat) : (s.strokeSkew p kind stroke).fabric = s.fabric ∧
    (s.strokeSkew p kind stroke).spn.skewCnt = s.spn.skewCnt + 1 ∧
    (s.strokeSkew p kind stroke).evt.flags.getLsbD 30 = true := by
  unfold Hw.strokeSkew
  exact ⟨by rw [record_fabric, raise_fabric], by rw [record_spn, raise_spn], record_stays _ (raise_bit _ 30)⟩

/-! ## Tables and windows -/

theorem pageParts_one {fuel off n : Nat} (some : 0 < n) (inside : off % pageBytes + n ≤ pageBytes) :
    pageParts (fuel + 2) off n = [(off, n)] := by
  have whole : min n (pageBytes - off % pageBytes) = n := by omega
  rw [pageParts, if_neg (by omega), whole]
  simp [pageParts]

/-- What lies in a stretch of a memory, numbered from its start. -/
theorem nget_stretch (mem : NMap Byte) {base n i : Nat} (inside : i < n) :
    nget 0 ((mem.filter fun e => decide (base ≤ e.1) && decide (e.1 < base + n)).map fun e => (e.1 - base, e.2)) i =
      nget 0 mem (base + i) := by
  induction mem with
  | nil => rfl
  | cons e mem ih =>
    by_cases within : base ≤ e.1 ∧ e.1 < base + n
    · have same : (e.1 - base = i) = (e.1 = base + i) := by apply propext; omega
      simp only [List.filter_cons, within, decide_true, Bool.and_self, if_true, List.map_cons, nget, same, ih]
    · have out : (decide (base ≤ e.1) && decide (e.1 < base + n)) = false := by simpa using within
      have other : ¬ e.1 = base + i := by omega
      simp only [List.filter_cons, out, Bool.false_eq_true, if_false, nget, other, ih]

theorem arbs_trans {s t u : Hw} (h : ∃ arbs, t = { s with arbs := arbs }) (g : ∃ arbs, u = { t with arbs := arbs }) :
    ∃ arbs, u = { s with arbs := arbs } := by
  obtain ⟨a, rfl⟩ := h
  obtain ⟨b, rfl⟩ := g
  exact ⟨b, rfl⟩

theorem raisePieces_arbs (s : Hw) (o : Order) (n : Nat) : ∃ arbs, s.raisePieces o n = { s with arbs := arbs } := by
  have queue := arbRaise_arbs s (o.queue / 2) 5 (o.queue % 2) o.input n
  unfold Hw.raisePieces
  cases o.source with
  | none =>
    dsimp only
    split
    · exact arbs_trans queue (portVisit_arbs _ _ _ _ _)
    · exact queue
  | some page =>
    have source := arbs_trans queue (unitTraffic_arbs _ 186 (pageOff page) (4096 * n) true)
    dsimp only
    split
    · exact arbs_trans source (portVisit_arbs _ _ _ _ _)
    · exact source

theorem markDirty_frame (s : Hw) (off n : Nat) : ∃ arbs tng, s.markDirty off n = { s with arbs := arbs, tng := tng } := by
  unfold Hw.markDirty
  split
  · exact ⟨s.arbs, s.tng, rfl⟩
  · refine List.foldlRecOn _ _ (motive := fun t : Hw => ∃ arbs tng, t = { s with arbs := arbs, tng := tng })
      ⟨s.arbs, _, rfl⟩ fun t ⟨arbs, tng, same⟩ o _ => ?_
    obtain ⟨next, raised⟩ := raisePieces_arbs t o _
    subst same
    exact ⟨next, tng, raised⟩

section Window
variable {s : State} {off : BitVec 36} (ready : s.hw.glb.field.getLsbD 0 = true) (inD0 : s.hw.inD0 = true)
  (free : s.hw.windowFree (s.hw.windowAddr off.toNat) = true)
include ready inD0 free

theorem exec_bar4Read_good {len : Nat} (some : 0 < len)
    (status : s.hw.spanStatus s.hw.spn.rank.toNat (addrOff (s.hw.windowAddr off.toNat)) len = 0)
    (inside : addrOff (s.hw.windowAddr off.toNat) % pageBytes + len ≤ pageBytes) :
    ∃ arbs, exec (.bar4Read off len) s = .next { s with hw := { s.hw with
      arbs := arbs, readData := s.hw.memRead (addrOff (s.hw.windowAddr off.toNat)) len } } := by
  obtain ⟨arbs, traffic⟩ := unitTraffic_arbs s.hw 209 (addrOff (s.hw.windowAddr off.toNat)) len true
  have call : exec (.bar4Read off len) s = execBar4Read off len s := rfl
  refine ⟨arbs, ?_⟩
  rw [call, execBar4Read, State.act]
  simp only [ready, inD0, free, Bool.and_self, Bool.not_true, Bool.false_eq_true, if_false, if_true, Hw.spanLoadAny,
    pageParts_one some inside, List.foldl_cons, List.foldl_nil, Hw.spanLoad, status, traffic, List.nil_append]
  rfl

theorem exec_bar4Write_good {bs : List Byte} (some : 0 < bs.length)
    (status : s.hw.spanStatus s.hw.spn.rank.toNat (addrOff (s.hw.windowAddr off.toNat)) bs.length = 0)
    (inside : addrOff (s.hw.windowAddr off.toNat) % pageBytes + bs.length ≤ pageBytes) :
    ∃ arbs tng, exec (.bar4Write off bs) s = .next { s with hw := { s.hw with
      arbs := arbs, tng := tng, mem := nputList 0 s.hw.mem (addrOff (s.hw.windowAddr off.toNat)) bs } } := by
  obtain ⟨a, traffic⟩ := unitTraffic_arbs s.hw 209 (addrOff (s.hw.windowAddr off.toNat)) bs.length false
  obtain ⟨arbs, tng, dirty⟩ := markDirty_frame { s.hw with arbs := a } (addrOff (s.hw.windowAddr off.toNat)) bs.length
  have call : exec (.bar4Write off bs) s = execBar4Write off bs s := rfl
  have whole : sub bs (addrOff (s.hw.windowAddr off.toNat) - addrOff (s.hw.windowAddr off.toNat)) bs.length = bs := by
    simp [sub]
  refine ⟨arbs, tng, ?_⟩
  rw [call, execBar4Write, State.act]
  simp only [ready, inD0, free, Bool.and_self, Bool.not_true, Bool.false_eq_true, if_false, if_true, Hw.spanStoreAny,
    pageParts_one some inside, List.foldl_cons, List.foldl_nil, Hw.spanStore, whole, status, traffic, dirty]
  rfl

end Window

/-- Settles O30: a delivery and what a message does beside it, the tables of the shadow copy, and a window access that is one
part of one page. -/
theorem peerMessagesAndWindows : Obligations.PeerMessagesAndWindows := by
  unfold Obligations.PeerMessagesAndWindows
  refine ⟨fun s p m part src en => ?_, fun s n off len bs => ?_⟩
  · intro delivered skewed merges port
    have arrives {t u : Hw} {kind : Nat} (eq : u = (s.hw.popInbox p.val kind).deliverInbound p.val m) (beside : Beside u t) :
        delivered { s with hw := t } := by
      obtain ⟨fabric, cores, kept⟩ := (eq ▸ deliverInbound_delivered (s.hw.popInbox p.val kind) p.val m).beside beside
      exact ⟨_, fabric, rfl, rfl, rfl, rfl, cores, kept⟩
    refine ⟨fun now => ⟨?_, ?_, fun kv tok slot mb => ⟨fun bs hd isPart => ?_, fun absent => ?_⟩⟩, fun other => ⟨?_, ?_⟩,
      fun length crc => ?_⟩
    · exact ⟨_, exec_act_now port now, arrives rfl (.refl _), rfl, rfl⟩
    · exact ⟨_, exec_attn_now port now part, arrives rfl (attnPart_beside _ _ _ _)⟩
    · obtain ⟨k, sec⟩ := Option.isSome_iff_exists.mp kv
      refine ⟨_, exec_attn_now port now part, ?_⟩
      rw [Hw.runningKv, sec, isPart]
      rfl
    · obtain ⟨k, sec⟩ := Option.isSome_iff_exists.mp kv
      refine ⟨_, exec_attn_now port now part, ?_⟩
      rw [Hw.runningKv, sec, absent]
      rfl
    · exact ⟨_, exec_act_other port other, strokeSkew_skewed _ _ _ _⟩
    · exact ⟨_, exec_attn_other port other part, strokeSkew_skewed _ _ _ _⟩
    · exact ⟨_, _, exec_event_good port length crc, rfl, rfl, rfl, rfl, rfl, rfl, rfl⟩
  · intro a frame
    refine ⟨fun opened => ?_, fun loading _ => ?_, fun ready inD0 free => ⟨fun some status inside => ?_,
      fun some status inside => ?_⟩⟩
    · have call : exec (.tableCommit n) s = execTableCommit n s := rfl
      rw [call, execTableCommit, State.act, Hw.bar0, if_pos opened]
    · have call : exec .tableLoadDone s = execTableLoadDone s := rfl
      rw [call, execTableLoadDone, State.act, if_pos loading]
      exact ⟨_, rfl, rfl, rfl, rfl, rfl, fun i inside => nget_stretch s.hw.mem inside⟩
    · obtain ⟨arbs, result⟩ := exec_bar4Read_good ready inD0 free some status inside
      exact ⟨_, result, rfl, rfl, rfl, rfl, rfl⟩
    · obtain ⟨arbs, tng, result⟩ := exec_bar4Write_good ready inD0 free some status inside
      exact ⟨_, result, rfl, rfl, rfl, rfl⟩

end Sys2Proof.Machine
end

section
/-!
# What leaves the course of the work alone

The course of the work is the stroke generator, less the counts that units add to, with the running billet, its snapshots and
the armed route sets. Only the generator's own operations change it: every operation of a unit that a boundary or a commit calls
leaves it as it was, which is proved here once for each of them.
-/
namespace Sys2Proof.Machine


/-- The stroke generator without what the units may set or count beside it: an asked halt, overruns, discarded and missing
results, deferrals. -/
def Stk.course (k : Stk) : Stk :=
  { k with haltNext := false, haltUncontained := false, overrunCnt := 0, overDone := [], postDiscarded := 0, postNoResult := 0
           deferCnt := 0 }

/-- What `Hw.course` keeps of a module: the stroke generator, the running billet, the snapshots, the armed route sets. -/
abbrev Course := Stk × Option Loaded × List Snap × List Nat × List Nat

/-- The course of the work of a module. -/
def Hw.course (s : Hw) : Course := (s.stk.course, s.running, s.snaps, s.flt.detoursArmed, s.flt.withdrawArmed)

@[simp] theorem course_mk (glb mbx stk pci evt evu armed running incoming cores snaps fabric routeEpoch arbs flds tst herders kv bwd
    engines wgt tng ports spn flt flash pwr qps mem hostMem readData draws now) :
    (Hw.mk glb mbx stk pci evt evu armed running incoming cores snaps fabric routeEpoch arbs flds tst herders kv bwd
    engines wgt tng ports spn flt flash pwr qps mem hostMem readData draws now).course =
      (stk.course, running, snaps, flt.detoursArmed, flt.withdrawArmed) := rfl

@[simp] theorem course_fold (s : Hw) : (s.stk.course, s.running, s.snaps, s.flt.detoursArmed, s.flt.withdrawArmed) = s.course := rfl

@[simp] theorem ite_course {p : Prop} [Decidable p] (s t : Hw) : (if p then s else t).course = if p then s.course else t.course :=
  apply_ite Hw.course p s t

@[simp] theorem foldl_course {α : Type} {f : Hw → α → Hw} (h : ∀ s x, (f s x).course = s.course) (l : List α) (s : Hw) :
    (l.foldl f s).course = s.course :=
  List.foldlRecOn l f (motive := fun t => t.course = s.course) rfl fun t ht x _ => (h t x).trans ht

@[simp] theorem course_halt (k : Stk) (a b : Bool) : Stk.course { k with haltNext := a, haltUncontained := b } = k.course := rfl
@[simp] theorem course_overrun (k : Stk) (a : W64) (b : List Nat) :
    Stk.course { k with overrunCnt := a, overDone := b } = k.course := rfl
@[simp] theorem course_postDiscarded (k : Stk) (a : W32) : Stk.course { k with postDiscarded := a } = k.course := rfl
@[simp] theorem course_postNoResult (k : Stk) (a : W32) : Stk.course { k with postNoResult := a } = k.course := rfl
@[simp] theorem course_deferCnt (k : Stk) (a : W64) : Stk.course { k with deferCnt := a } = k.course := rfl

@[simp] theorem memWrite_course (s : Hw) (off : Nat) (bs : List Byte) : (s.memWrite off bs).course = s.course := by
  unfold Hw.memWrite
  simp

@[simp] theorem seqPut_course (s : Hw) (q off n v : Nat) : (s.seqPut q off n v).course = s.course := by
  unfold Hw.seqPut
  simp

/-! ## Events, records, completions -/

@[simp] theorem setFlag_course (s : Hw) (q n : Nat) (v : Bool) : (s.setFlag q n v).course = s.course := by
  unfold Hw.setFlag
  simp

@[simp] theorem kvStrokeEnd_course (s : Hw) : s.kvStrokeEnd.course = s.course := by
  unfold Hw.kvStrokeEnd
  split <;> simp

@[simp] theorem setHerder_course (s : Hw) (h : Nat) (x : Herder) : (s.setHerder h x).course = s.course := by
  unfold Hw.setHerder
  simp

@[simp] theorem onHerder_course (s : Hw) (h : Nat) (f : Herder → Herder) : (s.onHerder h f).course = s.course := by
  unfold Hw.onHerder
  simp

@[simp] theorem fireVector_course (s : Hw) (v : Nat) : (s.fireVector v).course = s.course := by
  unfold Hw.fireVector
  simp

@[simp] theorem raise_course (s : Hw) (n : Nat) : (s.raise n).course = s.course := by
  unfold Hw.raise
  simp

@[simp] theorem commitRecord_course (s : Hw) (r : FaultRec) : (s.commitRecord r).course = s.course := by
  unfold Hw.commitRecord
  simp

@[simp] theorem emitRecord_course (s : Hw) (r : FaultRec) : (s.emitRecord r).course = s.course := by
  unfold Hw.emitRecord
  simp

@[simp] theorem closeRecovery_course (s : Hw) (by' : Nat) : (s.closeRecovery by').course = s.course := by
  unfold Hw.closeRecovery
  split <;> simp

@[simp] theorem stopUncontained_course (s : Hw) (serial : Nat) : (s.stopUncontained serial).course = s.course := by
  have closed : ((s.closeRecovery serial).raise 32).course = s.course := by simp
  unfold Hw.stopUncontained
  dsimp only
  split
  · exact closed
  · exact closed

@[simp] theorem writeRecord_course (s : Hw) (i : RecIn) : (s.writeRecord i).course = s.course := by
  unfold Hw.writeRecord
  simp

@[simp] theorem judgeFull_course (s : Hw) : s.judgeFull.course = s.course := by
  have full (t : Hw) (r : RecIn) (n : Nat) : (((t.writeRecord r).stopUncontained n).raise 34).course = t.course := by simp
  unfold Hw.judgeFull
  extract_lets ff ft write s1 s2
  have h : s1.course = s.course := by
    simp only [s1]
    split
    · exact full ..
    · rfl
  have g : s2.course = s1.course := by
    simp only [s2]
    split
    · exact full ..
    · rfl
  exact g.trans h

@[simp] theorem judgeHigh_course (s : Hw) : s.judgeHigh.course = s.course := by
  unfold Hw.judgeHigh
  simp

@[simp] theorem record_course (s : Hw) (i : RecIn) : (s.record i).course = s.course := by
  unfold Hw.record
  simp

@[simp] theorem overrun_course (s : Hw) (stroke : Nat) : (s.overrun stroke).course = s.course := by
  unfold Hw.overrun
  simp

@[simp] theorem guardedOverrun_course (s : Hw) (final : Bool) : (s.guardedOverrun final).course = s.course := by
  unfold Hw.guardedOverrun
  simp

@[simp] theorem takeBack_course (s : Hw) (w : Nat) : (s.takeBack w).course = s.course := by
  unfold Hw.takeBack
  simp

@[simp] theorem setQp_course (s : Hw) (q : Nat) (x : Qp) : (s.setQp q x).course = s.course := by
  unfold Hw.setQp
  simp

@[simp] theorem hostWrite_course (s : Hw) (a : Nat) (bs : List Byte) : (s.hostWrite a bs).course = s.course := by
  unfold Hw.hostWrite
  simp

@[simp] theorem writeCpl_course (s : Hw) (q : Nat) (c : Cpl) : (s.writeCpl q c).course = s.course := by
  unfold Hw.writeCpl
  simp

@[simp] theorem pumpCpls_course (n : Nat) (s : Hw) (q : Nat) : (Hw.pumpCpls n s q).course = s.course := by
  induction n generalizing s with
  | zero => rfl
  | succ n ih =>
    unfold Hw.pumpCpls
    dsimp only
    split
    · rfl
    · simp [ih]

@[simp] theorem postCpl_course (s : Hw) (q : Nat) (c : Cpl) : (s.postCpl q c).course = s.course := by
  unfold Hw.postCpl
  simp

@[simp] theorem completeStroke_course (s : Hw) (stroke : Nat) : (s.completeStroke stroke).course = s.course := by
  unfold Hw.completeStroke
  simp

@[simp] theorem postWaiting_course (s : Hw) (stroke : Nat) : (s.postWaiting stroke).course = s.course := by
  unfold Hw.postWaiting
  simp

@[simp] theorem herderMsg_course (s : Hw) (h dest : Nat) (destEndpoint : Bool) (channel kind : Nat) (payload : List Byte) :
    (s.herderMsg h dest destEndpoint channel kind payload).course = s.course := by
  unfold Hw.herderMsg
  simp

@[simp] theorem noticeSend_course (s : Hw) (h kind : Nat) (words : List W64) : (s.noticeSend h kind words).course = s.course := by
  unfold Hw.noticeSend
  simp

@[simp] theorem returnToken_course (s : Hw) (t : Nat) : (s.returnToken t).course = s.course := by
  unfold Hw.returnToken
  dsimp only
  repeat' split
  all_goals simp

@[simp] theorem deferEntry_course (s : Hw) (e : LenEntry) : (s.deferEntry e).course = s.course := by
  unfold Hw.deferEntry
  simp

@[simp] theorem reqFinal_course (s : Hw) (tag : W16) (status : Nat) : (s.reqFinal tag status).course = s.course := by
  unfold Hw.reqFinal
  simp

@[simp] theorem reqEnds_course (s : Hw) (q : Nat) (r : TongsReq) (status : Nat) : (s.reqEnds q r status).course = s.course := by
  unfold Hw.reqEnds
  simp

@[simp] theorem merge_course (s : Hw) (q : Nat) (r : TongsReq) : (s.merge q r).course = s.course := by
  unfold Hw.merge
  simp

/-! ## Tongs requests and orders -/

theorem openReq_course {s t : Hw} {q id : Nat} {r : TongsReq} {pages : List Nat} (h : s.openReq q r pages = some (t, id)) :
    t.course = s.course := by
  unfold Hw.openReq at h
  split at h
  · exact absurd h (by simp)
  · split at h <;> cases h <;> rfl

@[simp] theorem reqFull_course (s : Hw) (q : Nat) (r : TongsReq) : (s.reqFull q r).course = s.course := by
  unfold Hw.reqFull
  simp

@[simp] theorem endPage_course (s : Hw) (req page status : Nat) : (s.endPage req page status).course = s.course := by
  unfold Hw.endPage
  split <;> simp

@[simp] theorem endOrder_course (s : Hw) (o : Order) (status : Nat) : (s.endOrder o status).course = s.course := by
  unfold Hw.endOrder
  simp

@[simp] theorem setOrder_course (s : Hw) (o : Order) (o' : Order) : (s.setOrder o o').course = s.course := by
  unfold Hw.setOrder
  simp

@[simp] theorem setHome_course (s : Hw) (p : Nat) (h : Home) : (s.setHome p h).course = s.course := by
  unfold Hw.setHome
  split <;> simp

@[simp] theorem onHome_course (s : Hw) (p : Nat) (f : Home → Home) : (s.onHome p f).course = s.course := by
  unfold Hw.onHome
  simp

@[simp] theorem backHome_course (s : Hw) (o : Order) : (s.backHome o).course = s.course := by
  unfold Hw.backHome
  split <;> simp

@[simp] theorem setArb_course (s : Hw) (k : Nat) (a : Arb) : (s.setArb k a).course = s.course := by
  unfold Hw.setArb
  simp

@[simp] theorem arbRaise_course (s : Hw) (f kind inst input count : Nat) :
    (s.arbRaise f kind inst input count).course = s.course := by
  unfold Hw.arbRaise
  dsimp only
  split <;> simp

@[simp] theorem arbSet_course (s : Hw) (f kind inst input n : Nat) : (s.arbSet f kind inst input n).course = s.course := by
  unfold Hw.arbSet
  dsimp only
  repeat' split
  all_goals simp

@[simp] theorem dropOrder_course (s : Hw) (o : Order) (status : Nat) : (s.dropOrder o status).course = s.course := by
  unfold Hw.dropOrder
  simp

@[simp] theorem refusePinned_course (s : Hw) (o : Order) : (s.refusePinned o).course = s.course := by
  unfold Hw.refusePinned
  simp

@[simp] theorem portVisit_course (s : Hw) (f block n : Nat) (read : Bool) : (s.portVisit f block n read).course = s.course := by
  unfold Hw.portVisit
  simp

@[simp] theorem unitTraffic_course (s : Hw) (block off n : Nat) (read : Bool) :
    (s.unitTraffic block off n read).course = s.course := by
  unfold Hw.unitTraffic
  split <;> simp

@[simp] theorem raisePieces_course (s : Hw) (o : Order) (n : Nat) : (s.raisePieces o n).course = s.course := by
  unfold Hw.raisePieces
  split <;> simp

@[simp] theorem startOrder_course (s : Hw) (o : Order) : (s.startOrder o).course = s.course := by
  unfold Hw.startOrder
  dsimp only
  repeat' split
  all_goals simp

@[simp] theorem judgeMove_course (s : Hw) (o : Order) : (s.judgeMove o).course = s.course := by
  unfold Hw.judgeMove
  simp

@[simp] theorem enter_course (s : Hw) (os : List Order) : (s.enter os).course = s.course := by
  unfold Hw.enter
  simp

@[simp] theorem moveReq_course (s : Hw) (q : Nat) (r : TongsReq) (pages : List Nat) (tier f w : Nat) :
    (s.moveReq q r pages tier f w).course = s.course := by
  unfold Hw.moveReq
  split
  · simp
  · split
    · simp
    · split
      · simp
      · next h => simp [openReq_course h]

@[simp] theorem setRef_course (s : Hw) (i v : Nat) : (s.setRef i v).course = s.course := by
  unfold Hw.setRef
  simp

@[simp] theorem linkFree_course (s : Hw) (l : List Nat) : (s.linkFree l).course = s.course := by
  unfold Hw.linkFree
  simp

@[simp] theorem takeIndex_course (s : Hw) (i : Nat) : (s.takeIndex i).course = s.course := by
  unfold Hw.takeIndex
  simp

@[simp] theorem cloneReq_course (s : Hw) (q : Nat) (r : TongsReq) (src dst : Nat) (dest : Option (Nat × Nat)) :
    (s.cloneReq q r src dst dest).course = s.course := by
  unfold Hw.cloneReq
  dsimp only
  split
  · simp
  · split
    · simp
    · split
      · simp
      · next h => simp [openReq_course h]

@[simp] theorem startCow_course (s : Hw) (k : KvSec) (q i : Nat) : (s.startCow k q i).course = s.course := by
  unfold Hw.startCow
  dsimp only
  repeat' split
  all_goals simp

@[simp] theorem rejudge_course (s : Hw) (p : Nat) : (s.rejudge p).course = s.course := by
  unfold Hw.rejudge
  simp

@[simp] theorem pinPage_course (s : Hw) (p : Nat) : (s.pinPage p).course = s.course := by
  unfold Hw.pinPage
  simp

/-! ## Walking the KV tables, herders -/

@[simp] theorem walkEntry_course (k : KvSec) (p : Hw × WalkAcc) (e : LenEntry) :
    (Hw.walkEntry k p e).1.course = p.1.course := by
  unfold Hw.walkEntry
  dsimp only
  repeat' split
  all_goals simp

@[simp] theorem dealItems_course (s : Hw) (k : KvSec) (f : Nat) (items : List Item) :
    (s.dealItems k f items).course = s.course := by
  unfold Hw.dealItems
  simp

@[simp] theorem walk_course (s : Hw) : s.walk.course = s.course := by
  have entries (k : KvSec) (l : List LenEntry) (p : Hw × WalkAcc) : (l.foldl (Hw.walkEntry k) p).1.course = p.1.course :=
    List.foldlRecOn l _ (motive := fun r => r.1.course = p.1.course) rfl fun r hr e _ => (walkEntry_course k r e).trans hr
  unfold Hw.walk
  split
  · rfl
  · simp [entries]

@[simp] theorem evalFlags_course (s : Hw) (h : Nat) (sec : HerderSec) : (s.evalFlags h sec).course = s.course := by
  unfold Hw.evalFlags
  simp

@[simp] theorem evalFlagsAll_course (s : Hw) : s.evalFlagsAll.course = s.course := by
  unfold Hw.evalFlagsAll
  split <;> simp

@[simp] theorem mergeEnd_course (s : Hw) (beat : Nat) : (s.mergeEnd beat).course = s.course := by
  unfold Hw.mergeEnd
  split
  · rfl
  · split
    · rfl
    · refine foldl_course (fun t e => ?_) _ s
      split
      · rfl
      · refine foldl_course (fun u w => ?_) _ t
        dsimp only
        split <;> simp

@[simp] theorem herdCapture_course (s : Hw) (h code layer token : Nat) : (s.herdCapture h code layer token).course = s.course := by
  unfold Hw.herdCapture
  simp

@[simp] theorem herdErrLate_course (s : Hw) (h code layer token : Nat) (event : W64) (late : List W32) :
    (s.herdErrLate h code layer token event late).course = s.course := by
  unfold Hw.herdErrLate
  simp

@[simp] theorem herdErr_course (s : Hw) (h code layer token : Nat) : (s.herdErr h code layer token).course = s.course := by
  unfold Hw.herdErr
  simp

@[simp] theorem loadTable_course (s : Hw) (h : Nat) (l : Layer) : (s.loadTable h l).course = s.course := by
  unfold Hw.loadTable
  simp

@[simp] theorem loadTables_course (s : Hw) (h : Nat) (sec : HerderSec) (l : Layer) : (s.loadTables h sec l).course = s.course := by
  unfold Hw.loadTables
  split <;> simp

@[simp] theorem deferToken_course (s : Hw) (h : Nat) (l : Layer) (e : TokenEntry) (sc : Scored) (defers : Nat) :
    (s.deferToken h l e sc defers).course = s.course := by
  unfold Hw.deferToken
  simp

@[simp] theorem herderSend_course (s : Hw) (h core channel : Nat) (payload : List Byte) :
    (s.herderSend h core channel payload).course = s.course := by
  unfold Hw.herderSend
  simp

@[simp] theorem stage_course (s : Hw) (h : Nat) (sec : HerderSec) (l : Layer) (e : TokenEntry) (r : RouteEntry) :
    (s.stage h sec l e r).course = s.course := by
  unfold Hw.stage
  dsimp only
  split <;> simp

@[simp] theorem settleToken_course (s : Hw) (h : Nat) (sec : HerderSec) (l : Layer) (t : Settling) :
    (s.settleToken h sec l t).course = s.course := by
  unfold Hw.settleToken
  simp

@[simp] theorem settleNext_course (s : Hw) (h : Nat) (sec : HerderSec) (l : Layer) : (s.settleNext h sec l).course = s.course := by
  unfold Hw.settleNext
  dsimp only
  repeat' split
  all_goals simp

@[simp] theorem logitsLate_course (s : Hw) (h : Nat) (sec : HerderSec) (l : Layer) : (s.logitsLate h sec l).course = s.course := by
  unfold Hw.logitsLate
  simp

@[simp] theorem logitsLateAll_course (s : Hw) (beat : Nat) : (s.logitsLateAll beat).course = s.course := by
  unfold Hw.logitsLateAll
  split <;> simp

/-! ## Recovery, ports, work in flight that is given up -/

@[simp] theorem finishRecovery_course (s : Hw) : s.finishRecovery.course = s.course := by
  unfold Hw.finishRecovery
  split <;> simp

@[simp] theorem flushOverruns_course (s : Hw) : s.flushOverruns.course = s.course := by
  unfold Hw.flushOverruns
  split
  · rfl
  · exact foldl_course (fun t n => overrun_course t n) _ s

@[simp] theorem setSpanEng_course (s : Hw) (e : Nat) (x : SpanEng) : (s.setSpanEng e x).course = s.course := by
  unfold Hw.setSpanEng
  simp

@[simp] theorem setPort_course (s : Hw) (p : Nat) (x : Port) : (s.setPort p x).course = s.course := by
  unfold Hw.setPort
  simp

@[simp] theorem onPort_course (s : Hw) (p : Nat) (f : Port → Port) : (s.onPort p f).course = s.course := by
  unfold Hw.onPort
  simp

@[simp] theorem sendPortAt_course (s : Hw) (p input : Nat) (m : LMsg) : (s.sendPortAt p input m).course = s.course := by
  unfold Hw.sendPortAt
  simp

@[simp] theorem sendPort_course (s : Hw) (p : Nat) (m : LMsg) : (s.sendPort p m).course = s.course := by
  unfold Hw.sendPort
  simp

@[simp] theorem epochStep_course (s : Hw) : s.epochStep.course = s.course := by
  unfold Hw.epochStep
  simp

@[simp] theorem failoverBoundary_course (s : Hw) : s.failoverBoundary.course = s.course := by
  unfold Hw.failoverBoundary
  simp

@[simp] theorem abandonWork_course (s : Hw) (kind : Nat) (ids : List Nat) : (s.abandonWork kind ids).course = s.course := by
  unfold Hw.abandonWork
  simp

@[simp] theorem setEngine_course (s : Hw) (e : Nat) (x : Engine) : (s.setEngine e x).course = s.course := by
  unfold Hw.setEngine
  simp

@[simp] theorem onEngine_course (s : Hw) (e : Nat) (f : Engine → Engine) : (s.onEngine e f).course = s.course := by
  unfold Hw.onEngine
  simp

@[simp] theorem abandonBuckets_course (s : Hw) : s.abandonBuckets.course = s.course := by
  unfold Hw.abandonBuckets
  simp

@[simp] theorem abandonPools_course (s : Hw) : s.abandonPools.course = s.course := by
  unfold Hw.abandonPools
  simp

@[simp] theorem abandonEvents_course (s : Hw) (es : List Ev) (stroke : Nat) : (s.abandonEvents es stroke).course = s.course := by
  unfold Hw.abandonEvents
  simp

@[simp] theorem retireEvents_course (s : Hw) (stroke : Nat) : (s.retireEvents stroke).course = s.course := by
  unfold Hw.retireEvents
  simp

@[simp] theorem sortReply_course (s : Hw) (h : Nat) (j : SortJob) (status : Nat) : (s.sortReply h j status).course = s.course := by
  unfold Hw.sortReply
  simp

@[simp] theorem sortTraffic_course (s : Hw) (h : Nat) (j : SortJob) : (s.sortTraffic h j).course = s.course := by
  unfold Hw.sortTraffic
  simp

@[simp] theorem sortStart_course (s : Hw) (h : Nat) : (s.sortStart h).course = s.course := by
  unfold Hw.sortStart
  split <;> simp

@[simp] theorem sortNext_course (s : Hw) (h : Nat) : (s.sortNext h).course = s.course := by
  unfold Hw.sortNext
  simp

@[simp] theorem sortAbortOne_course (s : Hw) (h : Nat) : (s.sortAbortOne h).course = s.course := by
  unfold Hw.sortAbortOne
  split <;> simp

@[simp] theorem sortRetire_course (s : Hw) (h : Nat) : (s.sortRetire h).course = s.course := by
  unfold Hw.sortRetire
  simp

/-! ## Weight slots, cores, power -/

@[simp] theorem memWriteAll_course (s : Hw) (off : Nat) (bs : List Byte) : (s.memWriteAll off bs).course = s.course := by
  unfold Hw.memWriteAll
  simp

@[simp] theorem writeBinding_course (s : Hw) (q : Nat) : (s.writeBinding q).course = s.course := by
  unfold Hw.writeBinding
  split <;> simp

@[simp] theorem unbindSequence_course (s : Hw) (q : Nat) : (s.unbindSequence q).course = s.course := by
  unfold Hw.unbindSequence
  simp

@[simp] theorem respond_course (s : Hw) (r : Rsp) : (s.respond r).course = s.course := by
  unfold Hw.respond
  simp

@[simp] theorem endLoad_course (s : Hw) : s.endLoad.course = s.course := by
  unfold Hw.endLoad
  split <;> simp

@[simp] theorem queueRelease_course (s : Hw) (ps : List Nat) : (s.queueRelease ps).course = s.course := by
  unfold Hw.queueRelease
  simp

@[simp] theorem dropImages_course (s : Hw) (imgs : List Img) : (s.dropImages imgs).course = s.course := by
  unfold Hw.dropImages
  simp

@[simp] theorem setCtx_course (s : Hw) (c : Nat) (x : Ctx) : (s.setCtx c x).course = s.course := by
  unfold Hw.setCtx
  simp

@[simp] theorem setSlot_course (s : Hw) (c k : Nat) (x : CtxSlot) : (s.setSlot c k x).course = s.course := by
  unfold Hw.setSlot
  simp

@[simp] theorem freeSlot_course (s : Hw) (c k : Nat) : (s.freeSlot c k).course = s.course := by
  unfold Hw.freeSlot
  simp

@[simp] theorem dropLayer_course (s : Hw) (x : Wslot) : (s.dropLayer x).course = s.course := by
  unfold Hw.dropLayer
  split <;> simp

@[simp] theorem dropLayers_course (s : Hw) : s.dropLayers.course = s.course := by
  unfold Hw.dropLayers
  simp

@[simp] theorem freeAllSlots_course (s : Hw) : s.freeAllSlots.course = s.course := by
  unfold Hw.freeAllSlots
  simp

@[simp] theorem writeSteps_course (s : Hw) : s.writeSteps.course = s.course := by
  unfold Hw.writeSteps
  split <;> simp

@[simp] theorem unbindStep_course (s : Hw) (entry : Nat) : (s.unbindStep entry).course = s.course := by
  unfold Hw.unbindStep
  simp

@[simp] theorem freeSteps_course (s : Hw) : s.freeSteps.course = s.course := by
  unfold Hw.freeSteps
  simp

@[simp] theorem dropCoreRequests_course (s : Hw) : s.dropCoreRequests.course = s.course := by
  unfold Hw.dropCoreRequests
  simp

@[simp] theorem clearCores_course (s : Hw) : s.clearCores.course = s.course := by
  unfold Hw.clearCores
  simp

@[simp] theorem queueRamp_course (s : Hw) (f w : Nat) : (s.queueRamp f w).course = s.course := by
  unfold Hw.queueRamp
  simp

@[simp] theorem setFld_course (s : Hw) (f : Nat) (x : Machine.Field) : (s.setFld f x).course = s.course := by
  unfold Hw.setFld
  simp

@[simp] theorem onFld_course (s : Hw) (n : Nat) (f : Machine.Field → Machine.Field) : (s.onFld n f).course = s.course := by
  unfold Hw.onFld
  simp

@[simp] theorem pumpRamps_course (s : Hw) : s.pumpRamps.course = s.course := by
  unfold Hw.pumpRamps
  simp

@[simp] theorem rampNotice_course (s : Hw) (delta : Int) (ramps : Nat) : (s.rampNotice delta ramps).course = s.course := by
  unfold Hw.rampNotice
  simp

@[simp] theorem stopWork_course (s : Hw) (order : List Nat) : (s.stopWork order).course = s.course := by
  unfold Hw.stopWork
  simp

@[simp] theorem replaceEvents_course (s : Hw) (stroke : Nat) : (s.replaceEvents stroke).course = s.course := by
  unfold Hw.replaceEvents
  simp

@[simp] theorem setCore_course (s : Hw) (c : Nat) (x : CoreState) : (s.setCore c x).course = s.course := by
  unfold Hw.setCore
  simp

@[simp] theorem onCore_course (s : Hw) (c : Nat) (f : CoreState → CoreState) : (s.onCore c f).course = s.course := by
  unfold Hw.onCore
  simp

@[simp] theorem loadCore_course (s : Hw) (b : Billet) (c image stroke : Nat) : (s.loadCore b c image stroke).course = s.course := by
  unfold Hw.loadCore
  simp

@[simp] theorem loadCores_course (s : Hw) (b : Billet) (activation : Nat) : (s.loadCores b activation).course = s.course := by
  unfold Hw.loadCores
  simp

/-! ## Taking over a billet -/

@[simp] theorem memErase_course (s : Hw) (off n : Nat) : (s.memErase off n).course = s.course := by
  unfold Hw.memErase
  simp

@[simp] theorem layHomes_course (s : Hw) (sec : TngSec) : (s.layHomes sec).course = s.course := by
  unfold Hw.layHomes
  simp

@[simp] theorem planPage_course (s : Hw) (e : PlanEntry) (p : Nat) : (s.planPage e p).course = s.course := by
  unfold Hw.planPage
  dsimp only
  repeat' split
  all_goals simp

@[simp] theorem writeResByte_course (s : Hw) (r : ResRec) (usable : Bool) : (s.writeResByte r usable).course = s.course := by
  unfold Hw.writeResByte
  split <;> simp

@[simp] theorem activateTongs_course (s : Hw) (sec : TngSec) : (s.activateTongs sec).course = s.course := by
  unfold Hw.activateTongs
  simp

@[simp] theorem activateRed_course (s : Hw) : s.activateRed.course = s.course := by
  unfold Hw.activateRed
  simp

@[simp] theorem activateBwd_course (s : Hw) : s.activateBwd.course = s.course := by
  unfold Hw.activateBwd
  dsimp only
  split <;> simp

@[simp] theorem writeSlots_course (s : Hw) (b : BwdSec) : (s.writeSlots b).course = s.course := by
  unfold Hw.writeSlots
  simp

@[simp] theorem activateSlots_course (s : Hw) (b : BwdSec) : (s.activateSlots b).course = s.course := by
  unfold Hw.activateSlots
  simp

@[simp] theorem rampTo_course (s : Hw) (f w : Nat) : (s.rampTo f w).course = s.course := by
  unfold Hw.rampTo
  simp

@[simp] theorem startField_course (s : Hw) (d f : Nat) : (s.startField d f).course = s.course := by
  unfold Hw.startField
  simp

@[simp] theorem startWork_course (s : Hw) (b : Billet) : (s.startWork b).course = s.course := by
  unfold Hw.startWork
  simp

@[simp] theorem writePhases_course (s : Hw) : s.writePhases.course = s.course := by
  unfold Hw.writePhases
  split <;> simp

@[simp] theorem initPhases_course (s : Hw) : s.initPhases.course = s.course := by
  unfold Hw.initPhases
  simp

@[simp] theorem writeCtxTable_course (s : Hw) : s.writeCtxTable.course = s.course := by
  unfold Hw.writeCtxTable
  split <;> simp

@[simp] theorem setReq_course (s : Hw) (e : Nat) (r : SpanReq) : (s.setReq e r).course = s.course := by
  unfold Hw.setReq
  simp

/-! ## Span requests -/

@[simp] theorem windowDone_course (s : Hw) (r : SpanReq) (status : Nat) (data : List Byte) :
    (s.windowDone r status data).course = s.course := by
  unfold Hw.windowDone
  simp

@[simp] theorem runFences_course (s : Hw) (e : Nat) : (s.runFences e).course = s.course := by
  unfold Hw.runFences
  simp

@[simp] theorem spanFault_course (s : Hw) (r : SpanReq) (status : Nat) : (s.spanFault r status).course = s.course := by
  unfold Hw.spanFault
  simp

@[simp] theorem spanComplete_course (s : Hw) (e : Nat) (r : SpanReq) (status : Nat) (data : List Byte) (old : W64) :
    (s.spanComplete e r status data old).course = s.course := by
  unfold Hw.spanComplete
  simp

@[simp] theorem leashDrop_course (s : Hw) (p : Nat) (recorded : Bool) (header : List Byte) :
    (s.leashDrop p recorded header).course = s.course := by
  unfold Hw.leashDrop
  simp

@[simp] theorem sendLoan_course (s : Hw) (e : Nat) (r : SpanReq) (addr : Nat) : (s.sendLoan e r addr).course = s.course := by
  unfold Hw.sendLoan
  dsimp only
  repeat' split
  all_goals simp

@[simp] theorem markDirty_course (s : Hw) (off n : Nat) : (s.markDirty off n).course = s.course := by
  unfold Hw.markDirty
  simp

@[simp] theorem noHome_course (s : Hw) (src off n access : Nat) : (s.noHome src off n access).course = s.course := by
  unfold Hw.noHome
  simp

@[simp] theorem spanStore_course (s : Hw) (src off : Nat) (bs : List Byte) : (s.spanStore src off bs).1.course = s.course := by
  unfold Hw.spanStore
  dsimp only
  split <;> simp

@[simp] theorem spanLoad_course (s : Hw) (src off n : Nat) : (s.spanLoad src off n).1.course = s.course := by
  unfold Hw.spanLoad
  dsimp only
  split <;> simp

@[simp] theorem journalInsert_course (s : Hw) (e : JEntry) : (s.journalInsert e).course = s.course := by
  unfold Hw.journalInsert
  simp

@[simp] theorem atomicApply_course (s : Hw) (a : AtomicReq) : (s.atomicApply a).1.course = s.course := by
  unfold Hw.atomicApply
  dsimp only
  repeat' split
  all_goals simp

@[simp] theorem serveOwn_course (s : Hw) (e : Nat) (r : SpanReq) : (s.serveOwn e r).course = s.course := by
  unfold Hw.serveOwn
  dsimp only
  split <;> simp

@[simp] theorem sendReq_course (s : Hw) (e : Nat) (r : SpanReq) : (s.sendReq e r).course = s.course := by
  unfold Hw.sendReq
  dsimp only
  repeat' split
  all_goals simp

@[simp] theorem leave_course (s : Hw) (e : Nat) (r : SpanReq) : (s.leave e r).course = s.course := by
  unfold Hw.leave
  simp

@[simp] theorem runEngine_course (s : Hw) (e : Nat) (flags : Bool) : (s.runEngine e flags).course = s.course := by
  unfold Hw.runEngine
  refine foldl_course (fun t r => ?_) _ s
  dsimp only
  split <;> simp

/-! ## Pages lost, entries committed -/

@[simp] theorem takeUp_course (s : Hw) (e stroke beat : Nat) : (s.takeUp e stroke beat).course = s.course := by
  unfold Hw.takeUp
  simp

@[simp] theorem setWslot_course (s : Hw) (w : Nat) (x : Wslot) : (s.setWslot w x).course = s.course := by
  unfold Hw.setWslot
  simp

@[simp] theorem failFill_course (s : Hw) (w : Nat) : (s.failFill w).course = s.course := by
  unfold Hw.failFill
  simp

@[simp] theorem expertChange_course (s : Hw) (r : ResRec) (p : Nat) (usable : Bool) :
    (s.expertChange r p usable).course = s.course := by
  unfold Hw.expertChange
  simp

@[simp] theorem uncontain_course (s : Hw) (i : RecIn) : (s.uncontain i).course = s.course := by
  unfold Hw.uncontain
  simp

@[simp] theorem openRecovery_course (s : Hw) (b : Nat × Nat) (i : RecIn) (failed : Nat) :
    (s.openRecovery b i failed).course = s.course := by
  unfold Hw.openRecovery
  dsimp only
  repeat' split
  all_goals simp

@[simp] theorem loseWeight_course (s : Hw) (p serial : Nat) (read : Option (Nat × Nat)) :
    (s.loseWeight p serial read).course = s.course := by
  unfold Hw.loseWeight
  dsimp only
  repeat' split
  all_goals simp

@[simp] theorem dropRef_course (s : Hw) (k : KvSec) (i : Nat) : (s.dropRef k i).course = s.course := by
  unfold Hw.dropRef
  simp

@[simp] theorem nodePut_course (s : Hw) (n off w v : Nat) : (s.nodePut n off w v).course = s.course := by
  unfold Hw.nodePut
  simp

@[simp] theorem evictNode_course (s : Hw) (k : KvSec) (n : Nat) : (s.evictNode k n).course = s.course := by
  unfold Hw.evictNode
  simp

@[simp] theorem loseKv_course (s : Hw) (p : Nat) : (s.loseKv p).course = s.course := by
  unfold Hw.loseKv
  split <;> simp

@[simp] theorem pageLost_course (s : Hw) (p : Nat) (read : Option (Nat × Nat)) : (s.pageLost p read).course = s.course := by
  unfold Hw.pageLost
  dsimp only
  repeat' split
  all_goals simp

@[simp] theorem reapLoans_course (s : Hw) : s.reapLoans.course = s.course := by
  unfold Hw.reapLoans
  simp

@[simp] theorem commitEntries_course (s : Hw) (t : Nat × Nat) : (s.commitEntries t).course = s.course := by
  unfold Hw.commitEntries
  simp

@[simp] theorem putTrail_course (s : Hw) (bs : List Byte) : (s.putTrail bs).course = s.course := by
  unfold Hw.putTrail
  simp

@[simp] theorem commitTrail_course (s : Hw) (bs : List Byte) : (s.commitTrail bs).course = s.course := by
  unfold Hw.commitTrail
  simp

@[simp] theorem postStroke_course (s : Hw) (stroke : Nat) : (s.postStroke stroke).course = s.course := by
  unfold Hw.postStroke
  simp

@[simp] theorem resetRequests_course (s : Hw) (c : Nat) : (s.resetRequests c).course = s.course := by
  unfold Hw.resetRequests
  simp

@[simp] theorem dropUntaken_course (s : Hw) (e stroke beat : Nat) : (s.dropUntaken e stroke beat).course = s.course := by
  unfold Hw.dropUntaken
  simp

@[simp] theorem setInst_course (s : Hw) (e : Nat) (i : Inst) : (s.setInst e i).course = s.course := by
  unfold Hw.setInst
  simp

@[simp] theorem undoInst_course (s : Hw) (e : Nat) (i : Inst) (t : Nat × Nat) : (s.undoInst e i t).course = s.course := by
  unfold Hw.undoInst
  simp

@[simp] theorem undoEntries_course (s : Hw) (t : Nat × Nat) : (s.undoEntries t).course = s.course := by
  unfold Hw.undoEntries
  simp

@[simp] theorem discardBeats_course (s : Hw) (beats : List (Nat × Nat)) : (s.discardBeats beats).course = s.course := by
  unfold Hw.discardBeats
  simp

@[simp] theorem spanLoadAny_course (s : Hw) (src off n : Nat) : (s.spanLoadAny src off n).1.course = s.course :=
  List.foldlRecOn _ _ (motive := fun r : Hw × List Byte × SpanStatus => r.1.course = s.course) rfl fun r hr _ _ =>
    (spanLoad_course r.1 _ _ _).trans hr

@[simp] theorem readSpan_course (s : Hw) (addr n : Nat) : (s.readSpan addr n).1.course = s.course := by
  unfold Hw.readSpan
  split <;> simp

@[simp] theorem drawn_course (s : Hw) : s.drawn.course = s.course := by
  unfold Hw.drawn
  simp

@[simp] theorem activateArbs_course (s : Hw) (sec : Option ArbSec) : (s.activateArbs sec).course = s.course := by
  unfold Hw.activateArbs
  split
  · exact foldl_course (fun _ _ => onFld_course ..) _ _
  · refine (foldl_course (fun t e => ?_) _ _).trans (foldl_course (fun _ _ => onFld_course ..) _ _)
    exact foldl_course (fun u f => foldl_course (fun v i => setArb_course ..) _ u) _ t

@[simp] theorem rampBack_course (s : Hw) : s.rampBack.course = s.course := by
  unfold Hw.rampBack
  simp

@[simp] theorem dropLoaded_course (s : Hw) : s.dropLoaded.course = s.course := by
  unfold Hw.dropLoaded
  simp

@[simp] theorem dropArmed_course (s : Hw) : s.dropArmed.course = s.course := by
  unfold Hw.dropArmed
  simp

/-! ## The units at a stroke boundary -/

@[simp] theorem biasBoundary_course (s : Hw) (h : Nat) : (s.biasBoundary h).course = s.course := by
  unfold Hw.biasBoundary
  dsimp only
  repeat' split
  all_goals simp

@[simp] theorem completeInst_course (s : Hw) (e : Nat) (i : Inst) (status : Nat) :
    (s.completeInst e i status).course = s.course := by
  unfold Hw.completeInst
  simp

@[simp] theorem deadline_course (s : Hw) (e : Nat) (b : Bucket) (g : RedGroup) (i : Inst) :
    (s.deadline e b g i).course = s.course := by
  unfold Hw.deadline
  simp

@[simp] theorem sendGradOut_course (s : Hw) (b : Bucket) (i : Inst) (shard : Nat) (vs : List W32) :
    (s.sendGradOut b i shard vs).course = s.course := by
  unfold Hw.sendGradOut
  simp

@[simp] theorem instBoundary_course (s : Hw) (e : Nat) (r : RedSec) (i : Inst) : (s.instBoundary e r i).course = s.course := by
  unfold Hw.instBoundary
  dsimp only
  repeat' split
  all_goals simp

@[simp] theorem redBoundary_course (s : Hw) : s.redBoundary.course = s.course := by
  unfold Hw.redBoundary
  split <;> simp

@[simp] theorem releaseOne_course (s : Hw) (p req : Nat) : (s.releaseOne p req).course = s.course := by
  unfold Hw.releaseOne
  simp

@[simp] theorem releaseAll_course (s : Hw) : s.releaseAll.course = s.course := by
  unfold Hw.releaseAll
  simp

@[simp] theorem planBoundary_course (s : Hw) : s.planBoundary.course = s.course := by
  unfold Hw.planBoundary
  refine (foldl_course (fun t p => ?_) _ _).trans rfl
  split <;> simp

@[simp] theorem memCopy_course (s : Hw) (src dst n : Nat) : (s.memCopy src dst n).course = s.course := by
  unfold Hw.memCopy
  simp

@[simp] theorem switchOrder_course (s : Hw) (o : Order) : (s.switchOrder o).course = s.course := by
  unfold Hw.switchOrder
  dsimp only
  repeat' split
  all_goals simp

@[simp] theorem judgeEvict_course (s : Hw) (o : Order) (retire : Bool) (now : List (Nat × Nat)) :
    (s.judgeEvict o retire now).course = s.course := by
  unfold Hw.judgeEvict
  dsimp only
  repeat' split
  all_goals simp

@[simp] theorem writeChanges_course (s : Hw) : s.writeChanges.course = s.course := by
  unfold Hw.writeChanges
  refine (foldl_course (fun t c => ?_) _ _).trans rfl
  split <;> simp

@[simp] theorem retryWaiting_course (s : Hw) : s.retryWaiting.course = s.course := by
  unfold Hw.retryWaiting
  extract_lets again waiting
  have tried : again.course = s.course := by
    refine foldl_course (fun t o => ?_) _ s
    split <;> simp
  split
  · exact tried
  · refine (foldl_course (fun t a => ?_) _ _).trans ((raise_course _ 24).trans tried)
    split <;> simp

@[simp] theorem tongsBoundary_course (s : Hw) : s.tongsBoundary.course = s.course := by
  unfold Hw.tongsBoundary
  extract_lets rel released ready due touched planned promoted told unpinned first count pinned held judged written retried pages
  have h1 : released.course = s.course := releaseAll_course s
  have h2 : planned.course = released.course :=
    (planBoundary_course _).trans (foldl_course (fun _ _ => switchOrder_course ..) _ _)
  have h3 : told.course = planned.course := by
    refine foldl_course (fun t e => ?_) _ _
    simp
  have h4 : unpinned.course = told.course := foldl_course (fun _ _ => onHome_course ..) _ _
  have h5 : pinned.course = unpinned.course := foldl_course (fun _ _ => pinPage_course ..) _ _
  have h6 : judged.course = pinned.course := by
    refine foldl_course (fun t o => ?_) _ _
    split <;> simp
  have h7 : retried.course = judged.course := (retryWaiting_course _).trans (writeChanges_course _)
  refine (foldl_course (fun _ _ => writeResByte_course ..) _ _).trans ?_
  rw [h7, h6, h5, h4, h3, h2, h1]

@[simp] theorem copyMask_course (s : Hw) (b : BwdSec) (entry : Nat) : (s.copyMask b entry).course = s.course := by
  unfold Hw.copyMask
  simp

@[simp] theorem bindStepEntry_course (s : Hw) (entry : Nat) : (s.bindStepEntry entry).course = s.course := by
  unfold Hw.bindStepEntry
  split <;> simp

@[simp] theorem openStep_course (s : Hw) : s.openStep.course = s.course := by
  unfold Hw.openStep
  dsimp only
  repeat' split
  all_goals simp

@[simp] theorem closeSteps_course (s : Hw) : s.closeSteps.course = s.course := by
  unfold Hw.closeSteps
  dsimp only
  repeat' split
  all_goals simp

@[simp] theorem closeStep_course (s : Hw) : s.closeStep.course = s.course := by
  unfold Hw.closeStep
  split <;> simp

@[simp] theorem stepOp_course (s : Hw) (o : Bool × Nat) : (s.stepOp o).course = s.course := by
  unfold Hw.stepOp
  simp

@[simp] theorem stepOpensBoundary_course (s : Hw) : s.stepOpensBoundary.course = s.course := by
  unfold Hw.stepOpensBoundary
  simp

@[simp] theorem applyCommits_course (s : Hw) : s.applyCommits.course = s.course := by
  unfold Hw.applyCommits
  split
  · rfl
  · refine foldl_course (fun t e => ?_) _ s
    dsimp only
    repeat' split
    all_goals simp

@[simp] theorem stepClosesBoundary_course (s : Hw) : s.stepClosesBoundary.course = s.course := by
  unfold Hw.stepClosesBoundary
  simp

@[simp] theorem settleWeights_course (s : Hw) : s.settleWeights.course = s.course := by
  unfold Hw.settleWeights
  simp

@[simp] theorem enterFree_course (s : Hw) : s.enterFree.course = s.course := by
  unfold Hw.enterFree
  simp

@[simp] theorem setSeqState_course (s : Hw) (q v : Nat) : (s.setSeqState q v).course = s.course := by
  unfold Hw.setSeqState
  simp

@[simp] theorem bindSequence_course (s : Hw) (q c : Nat) : (s.bindSequence q c).course = s.course := by
  unfold Hw.bindSequence
  split <;> simp

@[simp] theorem setLastOp_course (s : Hw) (q v : Nat) : (s.setLastOp q v).course = s.course := by
  unfold Hw.setLastOp
  simp

@[simp] theorem bringBack_course (s : Hw) (k : KvSec) (q : Nat) : (s.bringBack k q).course = s.course := by
  unfold Hw.bringBack
  simp

@[simp] theorem countFrames_course (s : Hw) (k : KvSec) (q : Nat) : (s.countFrames k q).course = s.course := by
  unfold Hw.countFrames
  simp

@[simp] theorem flip_course (s : Hw) (k : KvSec) (c : KvPend) : (s.flip k c).course = s.course := by
  unfold Hw.flip
  simp

@[simp] theorem ptPut_course (s : Hw) (k : KvSec) (q copy i v : Nat) : (s.ptPut k q copy i v).course = s.course := by
  unfold Hw.ptPut
  simp

@[simp] theorem substitute_course (s : Hw) (k : KvSec) (c : KvCow) : (s.substitute k c).course = s.course := by
  unfold Hw.substitute
  simp

@[simp] theorem swapOut_course (s : Hw) (q : Nat) (pages : List Nat) : (s.swapOut q pages).course = s.course := by
  unfold Hw.swapOut
  simp

@[simp] theorem preempt_course (s : Hw) (k : KvSec) (q : Nat) : (s.preempt k q).course = s.course := by
  unfold Hw.preempt
  simp

@[simp] theorem opFails_course (s : Hw) (q v : Nat) : (s.opFails q v).course = s.course := by
  unfold Hw.opFails
  simp

@[simp] theorem resume_course (s : Hw) (k : KvSec) (q : Nat) : (s.resume k q).course = s.course := by
  unfold Hw.resume
  simp

@[simp] theorem kvApply_course (s : Hw) (k : KvSec) (o : KvOp) : (s.kvApply k o).course = s.course := by
  unfold Hw.kvApply
  split <;> simp

@[simp] theorem autoResumeLoop_course (k : KvSec) (n : Nat) (s : Hw) : (Hw.autoResumeLoop k n s).course = s.course := by
  induction n generalizing s with
  | zero => rfl
  | succ n ih =>
    unfold Hw.autoResumeLoop
    dsimp only
    split <;> simp [ih]

@[simp] theorem evictNodes_course (k : KvSec) (n : Nat) (s : Hw) : (Hw.evictNodes k n s).course = s.course := by
  induction n generalizing s with
  | zero => rfl
  | succ n ih =>
    unfold Hw.evictNodes
    split
    · rfl
    · split <;> simp [ih]

@[simp] theorem autoPreemptLoop_course (k : KvSec) (n : Nat) (s : Hw) : (Hw.autoPreemptLoop k n s).course = s.course := by
  induction n generalizing s with
  | zero => rfl
  | succ n ih =>
    unfold Hw.autoPreemptLoop
    split
    · rfl
    · dsimp only
      split <;> simp [ih]

@[simp] theorem reclaim_course (s : Hw) (k : KvSec) : (s.reclaim k).course = s.course := by
  unfold Hw.reclaim
  dsimp only
  repeat' split
  all_goals simp

theorem bind_foldl_course {α : Type} {f : Hw → α → Option Hw} (step : ∀ {s t x}, f s x = some t → t.course = s.course)
    (l : List α) {s t : Hw} (h : l.foldl (fun o x => o.bind fun s => f s x) (some s) = some t) : t.course = s.course := by
  refine List.foldlRecOn l _ (motive := fun o : Option Hw => ∀ u, o = some u → u.course = s.course) ?_ ?_ t h
  · rintro u ⟨⟩
    rfl
  · intro o ho x _ u hu
    obtain ⟨v, rfl, hv⟩ := Option.bind_eq_some_iff.1 hu
    exact (step hv).trans (ho v rfl)

theorem placeFrames_course {s t : Hw} {k : KvSec} {i f : Nat} (h : s.placeFrames k i f = some t) : t.course = s.course := by
  refine bind_foldl_course (fun {s t x} h => ?_) _ h
  obtain ⟨l, -, rfl⟩ := Option.map_eq_some_iff.1 h
  simp

@[simp] theorem addRef_course (s : Hw) (i : Nat) : (s.addRef i).course = s.course := by
  unfold Hw.addRef
  simp

@[simp] theorem prepare_course (s : Hw) (k : KvSec) (q : Nat) : (s.prepare k q).course = s.course := by
  unfold Hw.prepare
  dsimp only
  split
  · simp
  · next h =>
    have filled := bind_foldl_course (fun {s t i} h => by
      split at h
      · cases h
        rfl
      · split at h
        · exact absurd h (by simp)
        · obtain ⟨p, -, h⟩ := Option.bind_eq_some_iff.1 h
          obtain ⟨u, hu, rfl⟩ := Option.map_eq_some_iff.1 h
          simpa using placeFrames_course hu) _ h
    simp [filled]

@[simp] theorem kvBoundary_course (s : Hw) : s.kvBoundary.course = s.course := by
  unfold Hw.kvBoundary
  simp

@[simp] theorem tableBoundary_course (s : Hw) : s.tableBoundary.course = s.course := by
  unfold Hw.tableBoundary
  simp

@[simp] theorem readPaced_course (s : Hw) (addr n : Nat) : (s.readPaced addr n).1.course = s.course := by
  unfold Hw.readPaced
  dsimp only
  split <;> simp

@[simp] theorem openPackage_course (s : Hw) (source : Nat) (manifest : List Byte) :
    (s.openPackage source manifest).1.course = s.course := by
  unfold Hw.openPackage
  dsimp only
  repeat' split
  all_goals simp

@[simp] theorem fetchChunks_course (s : Hw) (source : Nat) (m : Manifest) (ls : List (List Byte)) (cs : Chunks) (ids : List Nat) :
    (s.fetchChunks source m ls cs ids).1.course = s.course := by
  unfold Hw.fetchChunks
  refine List.foldlRecOn ids _ (motive := fun p : Hw × Except Rsp Chunks => p.1.course = s.course) rfl fun p hp i _ => ?_
  obtain ⟨t, r⟩ := p
  cases r with
  | error r => exact hp
  | ok cs =>
    dsimp only
    repeat' split
    all_goals simpa using hp

theorem refetchPage_course {s t : Hw} {p : Nat} (h : s.refetchPage p = some t) : t.course = s.course := by
  unfold Hw.refetchPage at h
  split at h
  case h_2 => exact absurd h (by simp)
  split at h
  dsimp only at h
  split at h
  · exact absurd h (by simp)
  split at h
  · exact absurd h (by simp)
  next opened =>
  split at h
  · exact absurd h (by simp)
  next fetched =>
  split at h
  case h_2 => exact absurd h (by simp)
  split at h
  · exact absurd h (by simp)
  next last =>
  split at h
  · exact absurd h (by simp)
  obtain ⟨l, -, rfl⟩ := Option.map_eq_some_iff.1 h
  have h1 := congrArg (fun r => r.1.course) opened
  have h2 := congrArg (fun r => r.1.course) fetched
  have h3 := congrArg (fun r => r.1.course) last
  simp only [openPackage_course, fetchChunks_course, readSpan_course] at h1 h2 h3
  simp [← h3, ← h2, ← h1]

@[simp] theorem refetchDone_course (s : Hw) (e : Nat × Nat) : (s.refetchDone e).course = s.course := by
  unfold Hw.refetchDone
  split
  · simp
  · next h =>
    dsimp only
    split <;> simp [refetchPage_course h]

@[simp] theorem refetchBoundary_course (s : Hw) : s.refetchBoundary.course = s.course := by
  unfold Hw.refetchBoundary
  simp

theorem placePages_course {s t : Hw} {n tier f w first : Nat} (h : s.placePages n tier f w = some (t, first)) :
    t.course = s.course := by
  obtain ⟨i, -, h⟩ := Option.bind_eq_some_iff.1 h
  obtain ⟨u, hu, ⟨⟩⟩ := Option.map_eq_some_iff.1 h
  refine bind_foldl_course (fun {s t x} h => ?_) _ hu
  obtain ⟨l, -, rfl⟩ := Option.map_eq_some_iff.1 h
  simp

@[simp] theorem writeImage_course (s : Hw) (first : Nat) (img : NMap Byte) : (s.writeImage first img).course = s.course := by
  unfold Hw.writeImage
  simp

theorem placeTensors_course {s t : Hw} {g : WgtSec} {defs : List TensorDef} {table : List TensorEntry} {cs : Chunks}
    {imgs : List Img} (h : s.placeTensors g defs table cs = .ok (t, imgs)) : t.course = s.course := by
  unfold Hw.placeTensors at h
  refine List.foldlRecOn defs _ (motive := fun o : Except Nat (Hw × List Img) => ∀ u is, o = .ok (u, is) → u.course = s.course)
    ?_ ?_ t imgs h
  · rintro u is ⟨⟩
    rfl
  · intro o ho d _ u is hu
    split at hu
    · exact absurd hu (by simp)
    next v js =>
    have kept := ho v js rfl
    split at hu
    · exact absurd hu (by simp)
    dsimp only at hu
    split at hu
    · exact absurd hu (by simp)
    split at hu
    · exact absurd hu (by simp)
    split at hu
    · exact absurd hu (by simp)
    next placed =>
    cases hu
    simp [placePages_course placed, kept]

theorem placeLayer_course {s t : Hw} {g : WgtSec} {w c k : Nat} (h : s.placeLayer g w c k = .ok t) : t.course = s.course := by
  unfold Hw.placeLayer at h
  dsimp only at h
  split at h
  · exact absurd h (by simp)
  · next placed =>
    cases h
    simp [placeTensors_course placed]

@[simp] theorem finishFill_course (s : Hw) (g : WgtSec) (w : Nat) : (s.finishFill g w).course = s.course := by
  unfold Hw.finishFill
  split
  · rfl
  · split
    · simp
    · next h => simp [placeLayer_course h]

@[simp] theorem beginFill_course (s : Hw) (g : WgtSec) (w : Nat) : (s.beginFill g w).course = s.course := by
  unfold Hw.beginFill
  dsimp only
  split <;> simp

@[simp] theorem requestFill_course (s : Hw) (g : WgtSec) (w : Nat) : (s.requestFill g w).course = s.course := by
  unfold Hw.requestFill
  dsimp only
  split <;> simp

@[simp] theorem fillBoundary_course (s : Hw) : s.fillBoundary.course = s.course := by
  unfold Hw.fillBoundary
  split
  · split
    · rfl
    · split
      · rfl
      · dsimp only
        rw [writeSlots_course]
        refine foldl_course (fun t w => ?_) _ s
        repeat' split
        all_goals simp
  · rfl

@[simp] theorem telemetryBoundary_course (s : Hw) : s.telemetryBoundary.course = s.course := by
  unfold Hw.telemetryBoundary
  simp

@[simp] theorem stepPhase_course (s : Hw) (n phase : Nat) : (s.stepPhase n phase).course = s.course := by
  unfold Hw.stepPhase
  simp

@[simp] theorem rotate_course (s : Hw) : s.rotate.course = s.course := by
  unfold Hw.rotate
  dsimp only
  repeat' split
  all_goals simp

@[simp] theorem logStep_course (s : Hw) (n exit : Nat) : (s.logStep n exit).course = s.course := by
  unfold Hw.logStep
  simp

@[simp] theorem leaveStep_course (s : Hw) (n : Nat) : (s.leaveStep n).course = s.course := by
  unfold Hw.leaveStep
  simp

@[simp] theorem policyBoundary_course (s : Hw) : s.policyBoundary.course = s.course := by
  unfold Hw.policyBoundary
  simp

@[simp] theorem askAction_course (s : Hw) (a : BAction) : (s.askAction a).course = s.course := by
  unfold Hw.askAction
  simp

@[simp] theorem askPark_course (s : Hw) (f : Nat) (byDriver : Bool) : (s.askPark f byDriver).course = s.course := by
  unfold Hw.askPark
  simp

@[simp] theorem hearthPark_course (s : Hw) : s.hearthPark.course = s.course := by
  unfold Hw.hearthPark
  dsimp only
  repeat' split
  all_goals simp

@[simp] theorem askDeep_course (s : Hw) (f : Nat) (byDriver : Bool) : (s.askDeep f byDriver).course = s.course := by
  unfold Hw.askDeep
  simp

@[simp] theorem hearthDeep_course (s : Hw) : s.hearthDeep.course = s.course := by
  unfold Hw.hearthDeep
  simp

@[simp] theorem prkFinal_course (s : Hw) (status : BitVec 2) : (s.prkFinal status).course = s.course := by
  unfold Hw.prkFinal
  simp

@[simp] theorem askUnpark_course (s : Hw) (f : Nat) (byDriver : Bool) : (s.askUnpark f byDriver).course = s.course := by
  unfold Hw.askUnpark
  simp

@[simp] theorem driverPark_course (s : Hw) : s.driverPark.course = s.course := by
  unfold Hw.driverPark
  dsimp only
  repeat' split
  all_goals simp

@[simp] theorem startRingTests_course (s : Hw) : s.startRingTests.course = s.course := by
  unfold Hw.startRingTests
  refine foldl_course (fun t a => ?_) _ s
  split <;> simp

@[simp] theorem parkRecord_course (s : Hw) (f : Nat) (deep unpark driver : Bool) :
    (s.parkRecord f deep unpark driver).course = s.course := by
  unfold Hw.parkRecord
  simp

@[simp] theorem ungate_course (s : Hw) (f : Nat) : (s.ungate f).course = s.course := by
  unfold Hw.ungate
  simp

@[simp] theorem catchUp_course (s : Hw) (f : Nat) : (s.catchUp f).course = s.course := by
  unfold Hw.catchUp
  extract_lets copy steps tables bytes
  have copied (t : Hw) (off n : Nat) : (copy t off n).course = t.course := memCopy_course ..
  clear_value copy
  have h : steps.course = s.course := by
    simp only [steps]
    split <;> simp [copied]
  have g : tables.course = steps.course := by
    simp only [tables]
    split <;> simp [copied]
  have e : bytes.course = tables.course := by
    refine foldl_course (fun t r => ?_) _ tables
    dsimp only
    split <;> simp [copied]
  split <;> simp [copied, h, g, e]

@[simp] theorem dropUnfit_course (s : Hw) : s.dropUnfit.course = s.course := by
  unfold Hw.dropUnfit
  simp

@[simp] theorem stopField_course (s : Hw) (f : Nat) : (s.stopField f).course = s.course := by
  unfold Hw.stopField
  simp

@[simp] theorem gateField_course (s : Hw) (f : Nat) : (s.gateField f).course = s.course := by
  unfold Hw.gateField
  simp

@[simp] theorem actionStarts_course (s : Hw) (a : BAction) : (s.actionStarts a).course = s.course := by
  unfold Hw.actionStarts
  split <;> simp

@[simp] theorem runActions_course (s : Hw) : s.runActions.course = s.course := by
  unfold Hw.runActions
  simp

end Sys2Proof.Machine
end

section
/-!
# Where the stroke generator stands at beats and boundaries

The generator's own operations move it between beats and boundaries: `SameStanding` compares where it stands before and after one,
`SamePulse` only the stroke and the time of its boundary, which nothing but a stroke boundary steps.
-/
namespace Sys2Proof.Machine

/-! ## Where the stroke generator stands -/

/-- Where the stroke generator stands: the stroke and its boundary, the state, the beat of the work and whether it is in
progress, the beat that waits to commit, whether work still goes on, the billet that runs and the sets that are armed. -/
structure Standing where
  num : W64
  boundTime : W64
  state : StkState
  workStroke : Nat
  beat : Nat
  inBeat : Bool
  uncommitted : Option (Nat × Nat)
  closing : Bool
  workHalted : Bool
  running : Option Loaded
  detoursArmed : List Nat
  withdrawArmed : List Nat

abbrev standingOf (c : Course) : Standing :=
  { num := c.1.num, boundTime := c.1.boundTime, state := c.1.state, workStroke := c.1.workStroke, beat := c.1.beat
    inBeat := c.1.inBeat, uncommitted := c.1.uncommitted, closing := c.1.closing, workHalted := c.1.workHalted
    running := c.2.1, detoursArmed := c.2.2.2.1, withdrawArmed := c.2.2.2.2 }

abbrev Hw.standing (s : Hw) : Standing := standingOf (s.stk, s.running, [], s.flt.detoursArmed, s.flt.withdrawArmed)

/-- The stroke and its boundary. -/
abbrev Hw.pulse (s : Hw) := (s.stk.num, s.stk.boundTime)

/-- The stroke generator stands where it stood. -/
def SameStanding (s t : Hw) : Prop := t.standing = s.standing

/-- No stroke begins. -/
def SamePulse (s t : Hw) : Prop := t.pulse = s.pulse

section Compose
variable {s t u : Hw}

theorem SameStanding.refl (s : Hw) : SameStanding s s := rfl
theorem SameStanding.trans (h : SameStanding s t) (g : SameStanding t u) : SameStanding s u := Eq.trans g h
theorem SameStanding.set (h : SameStanding s t) (same : u.standing = t.standing) : SameStanding s u := same.trans h
theorem SameStanding.ite {p : Prop} [Decidable p] (h : SameStanding s t) (g : SameStanding s u) :
    SameStanding s (if p then t else u) := by
  split
  · exact h
  · exact g
theorem SameStanding.of_course (h : t.course = s.course) : SameStanding s t :=
  show standingOf t.course = standingOf s.course from congrArg standingOf h

theorem SameStanding.num (h : SameStanding s t) : t.stk.num = s.stk.num := congrArg Standing.num h
theorem SameStanding.state (h : SameStanding s t) : t.stk.state = s.stk.state := congrArg Standing.state h
theorem SameStanding.workStroke (h : SameStanding s t) : t.stk.workStroke = s.stk.workStroke := congrArg Standing.workStroke h
theorem SameStanding.beat (h : SameStanding s t) : t.stk.beat = s.stk.beat := congrArg Standing.beat h
theorem SameStanding.inBeat (h : SameStanding s t) : t.stk.inBeat = s.stk.inBeat := congrArg Standing.inBeat h
theorem SameStanding.uncommitted (h : SameStanding s t) : t.stk.uncommitted = s.stk.uncommitted :=
  congrArg Standing.uncommitted h
theorem SameStanding.closing (h : SameStanding s t) : t.stk.closing = s.stk.closing := congrArg Standing.closing h
theorem SameStanding.workHalted (h : SameStanding s t) : t.stk.workHalted = s.stk.workHalted := congrArg Standing.workHalted h
theorem SameStanding.running (h : SameStanding s t) : t.running = s.running := congrArg Standing.running h
theorem SameStanding.runs (h : SameStanding s t) : t.runs = s.runs := by rw [Hw.runs, h.state, Hw.runs]
theorem SameStanding.routesDue (h : SameStanding s t) : t.routesDue = s.routesDue := by
  have detours : t.flt.detoursArmed = s.flt.detoursArmed := congrArg Standing.detoursArmed h
  have withdrawn : t.flt.withdrawArmed = s.flt.withdrawArmed := congrArg Standing.withdrawArmed h
  rw [Hw.routesDue, detours, withdrawn, Hw.routesDue]
theorem snaps_of_course (h : t.course = s.course) : t.snaps = s.snaps := congrArg (fun c : Course => c.2.2.1) h
theorem working_of_course (h : t.course = s.course) : t.stk.working = s.stk.working := congrArg (fun c : Course => c.1.working) h

theorem SamePulse.refl (s : Hw) : SamePulse s s := rfl
theorem SamePulse.trans (h : SamePulse s t) (g : SamePulse t u) : SamePulse s u := Eq.trans g h
theorem SamePulse.set (h : SamePulse s t) (same : u.pulse = t.pulse) : SamePulse s u := same.trans h
theorem SamePulse.foldl {α : Type} {f : Hw → α → Hw} (step : ∀ s x, SamePulse s (f s x)) (l : List α) (s : Hw) :
    SamePulse s (l.foldl f s) := l.foldlRecOn f (motive := SamePulse s) (.refl s) fun _ h x _ => h.trans (step _ x)
theorem SamePulse.ite {p : Prop} [Decidable p] (h : SamePulse s t) (g : SamePulse s u) : SamePulse s (if p then t else u) := by
  split
  · exact h
  · exact g
theorem SameStanding.pulse (h : SameStanding s t) : SamePulse s t := congrArg (fun p : Standing => (p.num, p.boundTime)) h
theorem SamePulse.of_course (h : t.course = s.course) : SamePulse s t := (SameStanding.of_course h).pulse
theorem SamePulse.after (h : u.course = t.course) (same : t.pulse = s.pulse) : SamePulse s u := .trans same (.of_course h)

end Compose

theorem runEnd_standing (s : Hw) : SameStanding s s.runEnd := by
  unfold Hw.runEnd
  exact SameStanding.set (.trans (.ite (.of_course (kvStrokeEnd_course s)) (.refl s))
    (.of_course (foldl_course (fun _ _ => onHerder_course ..) _ _))) (by with_reducible rfl)

theorem endWork_standing (s : Hw) : SameStanding s s.endWork := by
  have late (t : Hw) (c : Bool) (w : Nat) :
      SameStanding t (if t.bareWork then (if c then t.overrun w else t) else t.guardedOverrun true) :=
    .ite (.ite (.of_course (overrun_course t w)) (.refl t)) (.of_course (guardedOverrun_course t true))
  unfold Hw.endWork
  refine SameStanding.trans (.trans ?_ (late _ _ _)) (.of_course (postWaiting_course ..))
  exact (SameStanding.refl s).set (by with_reducible rfl)

/-- Where the generator stands when beat `i` of stroke `w` begins. -/
def Hw.beginsAt (s : Hw) (w i : Nat) : Hw := { s with stk := { s.stk with workStroke := w, beat := i, inBeat := true } }

theorem startBeat_standing {s : Hw} (running : s.running.isSome = true) (w i : Nat) :
    SameStanding (s.beginsAt w i) (s.startBeat w i) := by
  have ended : SameStanding s (if s.stk.endDue then s.runEnd else s) := .ite (runEnd_standing s) (.refl s)
  unfold Hw.startBeat
  dsimp only
  split
  · next none =>
    rw [← ended.running, none] at running
    exact absurd running (by simp)
  · refine SameStanding.trans (.trans (.trans ?_ (.ite (endWork_standing _) (.refl _)))
      (.ite (.of_course (walk_course _)) (.refl _))) (.ite (.of_course (evalFlagsAll_course _)) (.refl _))
    exact congrArg (fun p : Standing => { p with workStroke := w, beat := i, inBeat := true }) ended

/-- A beat begins only for a billet that runs; without one at most the work before is closed. -/
theorem startBeat_cases (s : Hw) (w i : Nat) :
    SameStanding (s.beginsAt w i) (s.startBeat w i) ∨ SameStanding s (s.startBeat w i) := by
  cases running : s.running with
  | some l => exact .inl (startBeat_standing (by rw [running]; rfl) w i)
  | none =>
    have ended : SameStanding s (if s.stk.endDue then s.runEnd else s) := .ite (runEnd_standing s) (.refl s)
    unfold Hw.startBeat
    dsimp only
    split
    · exact .inr ended
    · next some =>
      rw [ended.running, running] at some
      exact absurd some (Option.some_ne_none _).symm

theorem startBeat_pulse (s : Hw) (w i : Nat) : SamePulse s (s.startBeat w i) :=
  (startBeat_cases s w i).elim (fun h => SamePulse.trans rfl h.pulse) SameStanding.pulse

theorem tryStart_pulse (s : Hw) : SamePulse s s.tryStart := .ite (startBeat_pulse ..) (.refl s)

/-- Where the generator stands when the beat in progress has ended. -/
def Hw.endsAt (s : Hw) : Hw := { s with stk := { s.stk with inBeat := false, uncommitted := some (s.stk.workStroke, s.stk.beat) } }

theorem endBeat_standing (s : Hw) (n : Nat) : SameStanding s.endsAt (s.endBeat n) := by
  have settled : SameStanding s ((s.logitsLateAll s.stk.beat).mergeEnd s.stk.beat).finishRecovery := .of_course (by simp)
  have flushed (t : Hw) (p : Prop) [Decidable p] : SameStanding t (if p then t.flushOverruns else t) :=
    .ite (.of_course (flushOverruns_course t)) (.refl t)
  unfold Hw.endBeat
  refine SameStanding.trans (.trans (.trans ?_
    (.ite (endWork_standing _) (.of_course (guardedOverrun_course ..)))) (flushed _ _)) (.of_course (failoverBoundary_course _))
  exact congrArg (fun p : Standing => { p with inBeat := false, uncommitted := some (p.workStroke, s.stk.beat) }) settled

theorem endBeat_pulse (s : Hw) (n : Nat) : SamePulse s (s.endBeat n) := SamePulse.trans rfl (endBeat_standing s n).pulse

/-- The module once beat `t` has committed: its snapshot is gone, and no beat waits. -/
def Hw.committed (s : Hw) (t : Nat × Nat) : Hw := { s with
  snaps := s.snaps.filter fun p => decide ((p.stroke, p.beat) ≠ t), stk := { s.stk with uncommitted := none } }

theorem commitBeat_course (s : Hw) (t : Nat × Nat) : (s.commitBeat t).course = (s.committed t).course := by
  unfold Hw.commitBeat
  extract_lets s1 s2 s3 s4 s5 last s6
  have h1 : s1.course = s.course := by
    refine foldl_course (fun r e => ?_) _ _
    split
    · rfl
    · exact takeUp_course ..
  have h2 : s2.course = s1.course := reapLoans_course s1
  have h3 : s3.course = s2.course := by
    refine foldl_course (fun r p => ?_) _ _
    dsimp only
    split
    · rfl
    · exact (foldl_course (fun _ _ => sendPort_course ..) _ _).trans (setPort_course ..)
  have h4 : s4.course = s3.course := commitEntries_course s3 t
  have h5 : s5.course = s4.course := by
    refine foldl_course (fun r h => ?_) _ _
    dsimp only
    split
    · rfl
    · exact (foldl_course (fun _ _ => commitTrail_course ..) _ _).trans (setHerder_course ..)
  have h6 : s6.course = s5.course := by
    simp only [s6]
    split <;> simp
  have same : s6.course = s.course := by rw [h6, h5, h4, h3, h2, h1]
  clear_value s6
  exact congrArg (fun c : Course => (({ c.1 with uncommitted := none }, c.2.1,
    c.2.2.1.filter fun p => decide ((p.stroke, p.beat) ≠ t), c.2.2.2) : Course)) same

theorem commitBeat_pulse (s : Hw) (t : Nat × Nat) : SamePulse s (s.commitBeat t) :=
  SamePulse.trans (t := s.committed t) rfl (.of_course (commitBeat_course s t))

theorem clearWork_pulse (s : Hw) : SamePulse s s.clearWork := rfl

theorem retireNow_pulse (s : Hw) : SamePulse s s.retireNow := by
  unfold Hw.retireNow
  extract_lets last s1 s2 s3 s4 s5 s6
  have h1 : SamePulse s s1 := .ite (runEnd_standing s).pulse (.of_course (flushOverruns_course s))
  have h2 : SamePulse s1 s3 := .of_course (by simp [s3, s2])
  have h3 : SamePulse s3 s4 := .of_course (foldl_course (fun _ _ => by simp) _ _)
  have h4 : SamePulse s4 s5 := .of_course (by simp [s5])
  have h5 : SamePulse s5 s6 := .trans (.of_course (stopWork_course s5 _)) (clearWork_pulse _)
  exact ((((h1.trans h2).trans h3).trans h4).trans h5).set (by with_reducible rfl)

theorem activateNow_pulse (s : Hw) (l : Loaded) : SamePulse s (s.activateNow l) := by
  unfold Hw.activateNow
  extract_lets b old late s1 s2 s3 s4 stkSrc kvSrc wgtSrc s8 s9 s10 s11 s12 s13
  have h1 : SamePulse s s1 := .ite (runEnd_standing s).pulse (.refl s)
  have h2 : SamePulse s1 s2 := .ite (.of_course (by simp)) (.refl s1)
  have h3 : SamePulse s2 s3 := .ite (.refl s2) (.of_course (freeAllSlots_course s2))
  have h4 : SamePulse s3 s8 := (clearWork_pulse s3).set (by with_reducible rfl)
  have h5 : SamePulse s8 s11 := .of_course (by simp [s11, s10, s9])
  have h6 : SamePulse s11 s12 := by
    simp only [s12]
    split
    · exact .ite (.of_course (activateSlots_course ..)) (.refl s11)
    · exact .refl s11
  have h7 : SamePulse s12 s13 := .of_course (foldl_course (fun _ _ => onHerder_course ..) _ _)
  exact ((((((h1.trans h2).trans h3).trans h4).trans h5).trans h6).trans h7).trans (.of_course (by simp))

theorem judgeLate_pulse (s : Hw) : SamePulse s s.judgeLate := by
  unfold Hw.judgeLate
  refine .ite (.refl s) (.ite rfl (.trans ?_ (.of_course (guardedOverrun_course ..))))
  exact .after (raise_course _ 0) rfl

theorem cutReserve_pulse (s : Hw) : SamePulse s s.cutReserve := by
  unfold Hw.cutReserve
  refine .ite (.refl s) (.trans ?_ (endBeat_pulse ..))
  split
  · exact commitBeat_pulse ..
  · exact .refl s

theorem haltNow_pulse (s : Hw) : SamePulse s s.haltNow := by
  unfold Hw.haltNow
  extract_lets un s1 src1 s2 hot src2 s3 s4 beats s5 src3 src4
  have h1 : SamePulse s s1 := .ite (.refl s) (.of_course (flushOverruns_course s))
  have h2 : SamePulse s1 s3 := SamePulse.set (t := s1) (.refl s1) (by with_reducible rfl)
  have h3 : SamePulse s3 s4 := .of_course (stopWork_course s3 _)
  have h4 : SamePulse s4 s5 := .of_course (discardBeats_course s4 _)
  have h := (h1.trans h2).trans h3
  exact .ite h ((h.trans h4).set (by with_reducible rfl))

theorem adopt_pulse (s : Hw) (l : Loaded) : SamePulse s (s.adopt l).1 :=
  .after (activateArbs_course _ _) rfl

theorem activateBoundary_pulse (s : Hw) : SamePulse s s.activateBoundary := by
  unfold Hw.activateBoundary
  split
  · exact .refl s
  · split
    · exact .refl s
    · next l _ _ =>
      have adopted : SamePulse s (Hw.adopt { s with armed := none } l).1 :=
        SamePulse.trans (t := { s with armed := none }) rfl (adopt_pulse _ l)
      generalize Hw.adopt { s with armed := none } l = a at adopted
      obtain ⟨u, l'⟩ := a
      dsimp -zeta only at adopted ⊢
      extract_lets idle s1
      have h1 : SamePulse u s1 := by
        refine .ite ?_ (.refl u)
        split
        · exact commitBeat_pulse ..
        · exact .refl u
      refine .ite ?_ ((adopted.trans h1).set (by with_reducible rfl))
      exact ((adopted.trans h1).trans (.ite (retireNow_pulse s1) (.refl s1))).trans (activateNow_pulse ..)

theorem armedBoundary_pulse (s : Hw) : SamePulse s s.armedBoundary := .ite rfl (.refl s)

theorem retireBoundary_pulse (s : Hw) : SamePulse s s.retireBoundary := by
  unfold Hw.retireBoundary
  split
  · exact .refl s
  · split
    · exact .refl s
    · extract_lets s1 stkSrc s2
      have h1 : SamePulse s s1 := .ite (.of_course (dropArmed_course s)) (.refl s)
      have h2 : SamePulse s s2 := h1.set (by with_reducible rfl)
      exact .ite h2 (.ite (h2.trans (retireNow_pulse s2)) (h2.set (by with_reducible rfl)))

theorem stretchBoundary_pulse (s : Hw) : SamePulse s s.stretchBoundary :=
  .ite (.after (raise_course _ 2) rfl) rfl

theorem syncSend_pulse (s : Hw) : SamePulse s s.syncSend :=
  .after (foldl_course (fun _ _ => onPort_course ..) _ _) rfl

/-! ## The Hearth -/

theorem refresh_pulse (s : Hw) : SamePulse s s.refresh := by
  unfold Hw.refresh
  split <;> rfl

theorem armDetour_pulse (s : Hw) (n : Nat) : SamePulse s (s.armDetour n) := by
  unfold Hw.armDetour
  extract_lets s1 s2
  have h : SamePulse s1 s2 := by
    simp only [s2]
    split
    · exact .refl s1
    · exact .of_course (foldl_course (fun _ _ => onCore_course ..) _ _)
  exact ((refresh_pulse s).trans h).set (by with_reducible rfl)

theorem armDeeps_pulse (s : Hw) : SamePulse s s.armDeeps := by
  unfold Hw.armDeeps
  refine .foldl (fun t a => ?_) _ s
  split
  · split
    · exact .ite (armDetour_pulse t _) (.refl t)
    · exact .refl t
  · exact .refl t

theorem armWithdraw_pulse (s : Hw) (n : Nat) : SamePulse s (s.armWithdraw n) := by
  unfold Hw.armWithdraw
  exact .ite (.refl s) ((refresh_pulse s).set (by with_reducible rfl))

theorem endRingTest_pulse (s : Hw) (a : BAction) (f : Nat) : SamePulse s (s.endRingTest a f) := by
  unfold Hw.endRingTest
  dsimp only
  split
  · split
    · exact SamePulse.trans rfl (armWithdraw_pulse ..)
    · rfl
  · exact .ite (.after (prkFinal_course ..) rfl) rfl

theorem withdrawDeeps_pulse (s : Hw) : SamePulse s s.withdrawDeeps := by
  unfold Hw.withdrawDeeps
  refine .foldl (fun t a => ?_) _ s
  split
  · exact .ite (endRingTest_pulse t a _) (.refl t)
  · exact .refl t

theorem reloadField_pulse (s : Hw) (f : Nat) : SamePulse s (s.reloadField f) := by
  unfold Hw.reloadField
  split
  · exact .refl s
  · exact .after (foldl_course (fun _ _ => loadCore_course ..) _ _) rfl

theorem prkEnd_pulse (s : Hw) (p : Prop) [Decidable p] : SamePulse s (if p then s.prkFinal 2 else s) :=
  .ite (.of_course (prkFinal_course ..)) (.refl s)

theorem actionDone_pulse {s t : Hw} {a : BAction} (h : s.actionDone a = some t) : SamePulse s t := by
  unfold Hw.actionDone at h
  split at h
  · exact absurd h (by simp)
  · split at h
    · split at h
      · exact absurd h (by simp)
      · cases h
        exact .of_course (by simp)
    · dsimp only at h
      split at h
      · exact absurd h (by simp)
      · cases h
        exact .of_course (by simp)
    · dsimp only at h
      split at h
      · exact absurd h (by simp)
      · cases h
        refine .trans (.trans (.trans (.trans ?_ (reloadField_pulse ..)) (.of_course (startField_course ..)))
          (.of_course (parkRecord_course ..))) (prkEnd_pulse _ _)
        exact .ite (.of_course (by simp)) (.of_course (by simp))
    · exact absurd h (by simp)

theorem settleActions_pulse (s : Hw) : SamePulse s s.settleActions := by
  rw [settleActions_eq]
  unfold Hw.completeActions Hw.runEngines
  refine SamePulse.trans (.trans (.trans (.of_course (startRingTests_course s)) (.foldl (fun t a => ?_) _ _))
    (.of_course (runActions_course _))) (.foldl (fun t e => ?_) _ _)
  · dsimp only
    split
    · next done => exact (actionDone_pulse done).set (by with_reducible rfl)
    · exact .refl t
  · split
    · exact .refl t
    · exact .of_course (runEngine_course ..)

theorem hearthBoundary_pulse (s : Hw) : SamePulse s s.hearthBoundary := by
  unfold Hw.hearthBoundary
  extract_lets before s1 s2 s3
  have h1 : SamePulse s s2 := .of_course (by simp [s2, s1])
  have h2 : SamePulse s2 s3 := ((withdrawDeeps_pulse s2).trans (armDeeps_pulse _)).trans (settleActions_pulse _)
  exact (h1.trans h2).trans (.ite (.refl s3) (.of_course (writePhases_course s3)))

theorem unitsBoundary_pulse (s : Hw) : SamePulse s s.unitsBoundary := by
  unfold Hw.unitsBoundary
  extract_lets s1 as s2 s3 s4 s5
  have h1 : SamePulse s s1 := by
    refine .of_course (foldl_course (fun _ _ => ?_) _ _)
    exact biasBoundary_course ..
  clear_value s1 as
  have h2 : SamePulse s1 s2 := .after (redBoundary_course _) rfl
  have h3 : SamePulse s2 s3 := .trans (.trans (.trans (.of_course (stepClosesBoundary_course _)) (.of_course (applyCommits_course _)))
    (.of_course (stepOpensBoundary_course _))) (.of_course (tongsBoundary_course _))
  have h4 : SamePulse s3 s4 := .trans (.trans (.of_course (kvBoundary_course _)) (.of_course (settleWeights_course _)))
    (.of_course (writeSteps_course _))
  have h5 : SamePulse s4 s5 := .trans (.trans (.of_course (fillBoundary_course _)) (.of_course (refetchBoundary_course _)))
    (.of_course (tableBoundary_course _))
  have h6 : SamePulse s5 s5.hearthBoundary := hearthBoundary_pulse s5
  exact ((((h1.trans h2).trans h3).trans h4).trans h5).trans (h6.trans (.of_course (telemetryBoundary_course _)))

end Sys2Proof.Machine
end

section
/-! # A stroke boundary with the units at rest

Beside the stroke generator every unit of such a module is as after reset. Each part of the boundary that is the units' own then
leaves the module as it is; what is left is the stroke generator's own work. -/
namespace Sys2Proof.Machine

/-- A module with the units beside the stroke generator as after reset. -/
def atRest (k : Stk) (m : NMap Byte) (c : Nat) (a r : Option Loaded) (ps : List Snap) (e : Evt) : Hw :=
  { State.reset.hw with stk := k, mem := m, now := c, armed := a, running := r, snaps := ps, evt := e }

/-- A billet whose running asks nothing of the units at a boundary. -/
structure Undemanding (r : Option Loaded) : Prop where
  herder : (r.bind fun l => l.img.herder) = none
  reduction : (r.bind (·.img.reduction)) = none
  backward : (r.bind (·.img.backward)) = none
  thermal : ((r.map (·.img)).bind (·.thermal)) = none

theorem Undemanding.none : Undemanding none := ⟨rfl, rfl, rfl, rfl⟩

theorem kvBoundary_of_empty {s : Hw} (empty : s.kv = {}) (reclaimed : ∀ g, s.reclaim g = s) : s.kvBoundary = s := by
  have same : ({ s with kv := {} } : Hw) = s := by rw [← empty]
  simp only [Hw.kvBoundary, Hw.enterFree, empty, same, List.isEmpty_nil, if_true, List.foldl_nil, List.filter_nil, reclaimed]

section Units
variable (k : Stk) (m : NMap Byte) (c : Nat) (a : Option Loaded) {r : Option Loaded} (ps : List Snap) (e : Evt)

theorem biasBoundary_atRest (h : Nat) : (atRest k m c a r ps e).biasBoundary h = atRest k m c a r ps e := rfl
theorem stepClosesBoundary_atRest : (atRest k m c a r ps e).stepClosesBoundary = atRest k m c a r ps e := rfl
theorem applyCommits_atRest : (atRest k m c a r ps e).applyCommits = atRest k m c a r ps e := rfl
theorem stepOpensBoundary_atRest : (atRest k m c a r ps e).stepOpensBoundary = atRest k m c a r ps e := rfl
theorem settleWeights_atRest : (atRest k m c a r ps e).settleWeights = atRest k m c a r ps e := rfl
theorem fillBoundary_atRest : (atRest k m c a r ps e).fillBoundary = atRest k m c a r ps e := by cases r <;> rfl
theorem refetchBoundary_atRest : (atRest k m c a r ps e).refetchBoundary = atRest k m c a r ps e := rfl
theorem tableBoundary_atRest : (atRest k m c a r ps e).tableBoundary = atRest k m c a r ps e := rfl
theorem telemetryBoundary_atRest : (atRest k m c a r ps e).telemetryBoundary = atRest k m c a r ps e := rfl

theorem redBoundary_atRest (light : Undemanding r) : (atRest k m c a r ps e).redBoundary = atRest k m c a r ps e := by
  have sec : (atRest k m c a r ps e).redSec = none := light.reduction
  rw [Hw.redBoundary, sec]

theorem writeSteps_atRest (light : Undemanding r) : (atRest k m c a r ps e).writeSteps = atRest k m c a r ps e := by
  have sec : (atRest k m c a r ps e).bwdSec = none := light.backward
  rw [Hw.writeSteps, sec]

theorem resRecs_atRest (light : Undemanding r) : (atRest k m c a r ps e).resRecs = [] := by
  have sec : (atRest k m c a r ps e).herderSec = none := light.herder
  rw [Hw.resRecs, sec]

theorem tongsBoundary_atRest (light : Undemanding r) : (atRest k m c a r ps e).tongsBoundary = atRest k m c a r ps e := by
  have orders : (atRest k m c a r ps e).tng.orders = [] := rfl
  have homes : (atRest k m c a r ps e).tng.homes = [] := rfl
  have released : (atRest k m c a r ps e).releaseAll = atRest k m c a r ps e := rfl
  have planned : (atRest k m c a r ps e).planBoundary = atRest k m c a r ps e := rfl
  have changed : (atRest k m c a r ps e).writeChanges = atRest k m c a r ps e := rfl
  have retried : (atRest k m c a r ps e).retryWaiting = atRest k m c a r ps e := rfl
  have promoted : (atRest k m c a r ps e).promotedBy [] = [] := by
    rw [Hw.promotedBy, resRecs_atRest _ _ _ _ _ _ light]
    rfl
  simp only [Hw.tongsBoundary, orders, homes, released, planned, changed, retried, promoted, resRecs_atRest _ _ _ _ _ _ light,
    List.filter_nil, List.foldl_nil, List.map_nil]

theorem reclaim_atRest (g : KvSec) : (atRest k m c a r ps e).reclaim g = atRest k m c a r ps e := by
  have low : (atRest k m c a r ps e).kv.lowWater.toNat = 0 := rfl
  have enough : (atRest k m c a r ps e).kvShort = false := by simp [Hw.kvShort, Hw.belowWater, low]
  rw [Hw.reclaim, enough]
  rfl

theorem kvBoundary_atRest : (atRest k m c a r ps e).kvBoundary = atRest k m c a r ps e :=
  kvBoundary_of_empty rfl (reclaim_atRest k m c a ps e)

theorem settleActions_atRest : (atRest k m c a r ps e).settleActions = atRest k m c a r ps e :=
  (settleActions_of_waits (by intro x h; exact absurd h List.not_mem_nil)).trans (runEngines_of_none rfl)

theorem hearthBoundary_atRest : (atRest k m c a r ps e).hearthBoundary = atRest k m c a r ps e := by
  have policy : (atRest k m c a r ps e).policyBoundary = atRest k m c a r ps e := rfl
  have rotated : (atRest k m c a r ps e).rotate = atRest k m c a r ps e := rfl
  have driver : (atRest k m c a r ps e).driverPark = atRest k m c a r ps e := rfl
  have deep : (atRest k m c a r ps e).hearthDeep = atRest k m c a r ps e := rfl
  have park : (atRest k m c a r ps e).hearthPark = atRest k m c a r ps e := rfl
  have withdrawn : (atRest k m c a r ps e).withdrawDeeps = atRest k m c a r ps e := rfl
  have armed : (atRest k m c a r ps e).armDeeps = atRest k m c a r ps e := rfl
  simp only [Hw.hearthBoundary, policy, rotated, driver, deep, park, withdrawn, armed, settleActions_atRest, if_true]

theorem unitsBoundary_atRest (light : Undemanding r) : (atRest k m c a r ps e).unitsBoundary = atRest k m c a r ps e := by
  have arbiters : ({ atRest k m c a r ps e with arbs := [] } : Hw) = atRest k m c a r ps e := rfl
  have none : (atRest k m c a r ps e).arbs = [] := rfl
  have biases : (List.range 48).foldl (fun s h => s.biasBoundary h) (atRest k m c a r ps e) = atRest k m c a r ps e :=
    foldl_eq_self fun h _ => biasBoundary_atRest k m c a ps e h
  rw [Hw.unitsBoundary, biases]
  simp only [none, List.foldl_nil, arbiters, redBoundary_atRest _ _ _ _ _ _ light, stepClosesBoundary_atRest, applyCommits_atRest,
    stepOpensBoundary_atRest, tongsBoundary_atRest _ _ _ _ _ _ light, kvBoundary_atRest, settleWeights_atRest,
    writeSteps_atRest _ _ _ _ _ _ light, fillBoundary_atRest, refetchBoundary_atRest, tableBoundary_atRest,
    hearthBoundary_atRest, telemetryBoundary_atRest]

end Units

/-! ## The boundary in its parts -/

/-- The stroke number steps and its boundary is stamped (R28). -/
def Stk.stepped (k : Stk) (now : Nat) : Stk :=
  { k with num := k.num + 1, boundTime := k.time
           bounds := ninsert (k.num.toNat + 1) now (k.bounds.filter fun e => decide (e.1 + 130 > k.num.toNat + 1)) }
def Hw.stepped (s : Hw) : Hw := { s with stk := s.stk.stepped s.now }

/-- A halt that was asked for before the boundary comes into force (R34). -/
def Hw.haltDue (s : Hw) (halts : Bool) : Hw := if halts && s.runs then s.haltNow else s

/-- The work that the last beat ended is closed. -/
def Hw.closeWork (s : Hw) : Hw := if s.stk.endDue then s.runEnd else s

/-- What a boundary does once the number has stepped. -/
def Hw.crossed (s : Hw) : Hw :=
  ((((((s.cutReserve.judgeLate.haltDue s.stk.haltNext).retireBoundary).armedBoundary).activateBoundary).stretchBoundary).closeWork
    ).unitsBoundary.syncSend.tryStart

theorem exec_strokeBoundary {s : State} (lit : s.hw.stk.state ≠ .shed) :
    exec .strokeBoundary s = .next { s with hw := s.hw.stepped.crossed } := by
  have call : exec .strokeBoundary s = execStrokeBoundary s := rfl
  rw [call, execStrokeBoundary, State.act, if_neg lit]
  rfl

theorem exec_strokeBoundary_shed {s : State} (shed : s.hw.stk.state = .shed) : exec .strokeBoundary s = .next s := by
  have call : exec .strokeBoundary s = execStrokeBoundary s := rfl
  rw [call, execStrokeBoundary, State.act, if_pos shed]

theorem crossed_pulse (s : Hw) : SamePulse s s.crossed := by
  have halted (t : Hw) (h : Bool) : SamePulse t (t.haltDue h) := .ite (haltNow_pulse t) (.refl t)
  have closed (t : Hw) : SamePulse t t.closeWork := .ite (runEnd_standing t).pulse (.refl t)
  have judged := ((cutReserve_pulse s).trans (judgeLate_pulse _)).trans (halted _ s.stk.haltNext)
  have changed := ((judged.trans (retireBoundary_pulse _)).trans (armedBoundary_pulse _)).trans (activateBoundary_pulse _)
  have ended := (changed.trans (stretchBoundary_pulse _)).trans (closed _)
  exact ((ended.trans (unitsBoundary_pulse _)).trans (syncSend_pulse _)).trans (tryStart_pulse _)

/-! ## With the units at rest -/

/-- The generator shows a billet ARMED (R41). -/
def Stk.armed (k : Stk) : Stk := { k with state := .armed }

/-- The stretch that such a module announces, in sixteenths (R36). -/
def Stk.nextStretch (k : Stk) : Nat := min 32 (max 16 (max 16 (nget 16 k.groupS (k.num.toNat - 1))))

/-- The stroke generator once the stretch announced before is in force (R36). -/
def Stk.stretched (k : Stk) : Stk :=
  { k with stretchCur := k.stretchNext, stretchNext := BitVec.ofNat 6 k.nextStretch
           groupS := k.groupS.filter fun e => decide (k.num.toNat ≤ e.1) }

section Rest
variable {k : Stk} {m : NMap Byte} {c : Nat} {a r : Option Loaded} {ps : List Snap} {e : Evt}

theorem cutReserve_atRest (between : k.inBeat = false) : (atRest k m c a r ps e).cutReserve = atRest k m c a r ps e := by
  have out : (atRest k m c a r ps e).stk.inBeat = false := between
  rw [Hw.cutReserve, out]
  rfl

theorem retireBoundary_atRest (stays : k.retireAt = none) :
    (atRest k m c a r ps e).retireBoundary = atRest k m c a r ps e := by
  have unnamed : (atRest k m c a r ps e).stk.retireAt = none := stays
  rw [Hw.retireBoundary, unnamed]

theorem activateBoundary_atRest (later : ∀ l, a = some l → k.num.toNat < l.activation) :
    (atRest k m c a r ps e).activateBoundary = atRest k m c a r ps e := by
  cases a with
  | none => rfl
  | some l => exact if_pos (later l rfl)

theorem closeWork_atRest (closed : k.endDue = false) : (atRest k m c a r ps e).closeWork = atRest k m c a r ps e := by
  have shut : (atRest k m c a r ps e).stk.endDue = false := closed
  rw [Hw.closeWork, shut]
  rfl

theorem syncSend_atRest : (atRest k m c a r ps e).syncSend = atRest k m c a r ps e := rfl

theorem raise_masked {s : Hw} (mask : s.evt.mask = 0) (n : Nat) : ∃ e, s.raise n = { s with evt := e } := by
  have silent : s.evt.mask.getLsbD n = false := by rw [mask]; exact BitVec.getLsbD_zero
  unfold Hw.raise
  dsimp only
  rw [silent, Bool.and_false, if_neg Bool.false_ne_true]
  exact ⟨_, rfl⟩

theorem stretchBoundary_atRest_eq : (atRest k m c a r ps e).stretchBoundary =
    if k.nextStretch ≠ 16 ∨ k.nextStretch ≠ k.stretchNext.toNat then (atRest k.stretched m c a r ps e).raise 2
    else atRest k.stretched m c a r ps e := rfl

theorem stretchBoundary_atRest : ∃ e, (atRest k m c a r ps {}).stretchBoundary = atRest k.stretched m c a r ps e := by
  rw [stretchBoundary_atRest_eq]
  split
  · exact raise_masked rfl 2
  · exact ⟨{}, rfl⟩

theorem stretchBoundary_atRest_level (alone : k.groupS = []) (flat : k.stretchNext = 16) :
    (atRest k m c a r ps e).stretchBoundary = atRest k.stretched m c a r ps e := by
  have level : k.nextStretch = 16 := by rw [Stk.nextStretch, alone]; rfl
  rw [stretchBoundary_atRest_eq, level, flat, if_neg (by decide)]

theorem tryStart_atRest (stopped : (atRest k m c a r ps e).runs = false) :
    (atRest k m c a r ps e).tryStart = atRest k m c a r ps e := by
  rw [Hw.tryStart, Hw.mayStart, stopped]
  rfl

/-- The beginning of a beat that is no first work, walks no lists and judges no flags: the generator stands at it and its
snapshot is taken. -/
theorem startBeat_atRest {l : Loaded} {w i : Nat} (closed : k.endDue = false) (kv : l.img.kv = none)
    (works : i = 0 → l.img.stroke.lastWork.isSome = true) (unflagged : l.img.stroke.firstPost ≠ some i) :
    ∃ t, (atRest k m c a (some l) ps e).startBeat w i = t ∧ t.stk.num = k.num ∧ t.stk.workStroke = w ∧ t.stk.beat = i ∧
      t.stk.inBeat = true ∧ t.stk.working = (if i = 0 then l.img.stroke.lastWork.isSome else k.working) ∧
      t.stk.excess = (if i = 0 then none else k.excess) ∧ t.running = some l ∧ t.mem = m ∧
      t.snaps = { stroke := w, beat := i, epoch := 0, cores := [], herders := [] } :: ps := by
  have shut : ¬ ((atRest k m c a (some l) ps e).stk.endDue = true) := by
    change ¬ (k.endDue = true)
    simp [closed]
  have going : ¬ ((decide (i = 0) && l.img.stroke.lastWork.isNone) = true) := by
    intro h
    simp only [Bool.and_eq_true, decide_eq_true_eq] at h
    obtain ⟨first, idle⟩ := h
    have some := works first
    cases work : l.img.stroke.lastWork <;> simp [work] at some idle
  refine ⟨_, rfl, ?_⟩
  unfold Hw.startBeat
  rw [if_neg shut]
  dsimp only [atRest]
  simp only [if_neg going, kv, if_neg unflagged, Option.any_none, Bool.false_eq_true, if_false, decide_eq_true_eq,
    true_and]
  rfl

theorem tryStart_atRest_begins {l : Loaded} (state : k.state = .running) (between : k.inBeat = false) (open' : k.closing = false)
    (works : k.workHalted = false) (due : k.ended + 1 ≤ k.num.toNat) :
    (atRest k m c a (some l) ps e).tryStart = (atRest k m c a (some l) ps e).startBeat (k.ended + 1) 0 := by
  have may : (atRest k m c a (some l) ps e).mayStart = true := by
    change (decide (k.state = .running) || decide (k.state = .late)) && !k.inBeat && true && true && true && !k.closing &&
      !k.workHalted && true = true
    simp [state, between, open', works]
  rw [Hw.tryStart, may]
  refine if_pos ?_
  change (true && decide (k.ended + 1 ≤ k.num.toNat) && true) = true
  rw [decide_eq_true due]
  rfl

theorem runs_atRest_still (state : k.state = .idle ∨ k.state = .armed) : (atRest k m c a r ps e).runs = false := by
  change (decide (k.state = .running) || decide (k.state = .late)) = false
  rcases state with state | state <;> rw [state] <;> rfl

theorem runs_atRest (state : k.state = .running) : (atRest k m c a r ps e).runs = true := by
  change (decide (k.state = .running) || decide (k.state = .late)) = true
  rw [state]
  rfl

theorem judgeLate_atRest_still (state : k.state = .idle) : (atRest k m c a r ps e).judgeLate = atRest k m c a r ps e := by
  rw [Hw.judgeLate, runs_atRest_still (.inl state)]
  rfl

/-- The work of the stroke that closes has ended: it is not late. -/
theorem judgeLate_atRest_done (state : k.state = .running) (done : k.num.toNat ≤ k.ended + 1) :
    (atRest k m c a r ps e).judgeLate = atRest k m c a r ps e := by
  have same : (if k.lateDepth = 0 then StkState.running else k.state) = k.state := by rw [state, ite_self]
  have inTime : (atRest k m c a r ps e).stk.ended + 1 ≥ (atRest k m c a r ps e).stk.num.toNat := done
  rw [Hw.judgeLate, runs_atRest state]
  refine (if_neg Bool.false_ne_true).trans ((if_pos inTime).trans ?_)
  change atRest { k with state := if k.lateDepth = 0 then StkState.running else k.state } m c a r ps e = _
  rw [same]

theorem haltDue_atRest (halt : k.haltNext = false) :
    (atRest k m c a r ps e).haltDue (atRest k m c a r ps e).stk.haltNext = atRest k m c a r ps e := by
  have unasked : (atRest k m c a r ps e).stk.haltNext = false := halt
  rw [unasked]
  rfl

theorem armedBoundary_atRest_none : (atRest k m c none r ps e).armedBoundary = atRest k m c none r ps e := rfl

theorem armedBoundary_atRest_some {l : Loaded} (state : k.state = .idle) :
    (atRest k m c (some l) r ps e).armedBoundary = atRest k.armed m c (some l) r ps e :=
  if_pos ⟨rfl, .inl state⟩

end Rest

/-! ## The boundary of a module at rest -/

section Crossed
variable {k : Stk} {m : NMap Byte} {c : Nat} {l : Loaded} (between : k.inBeat = false) (halt : k.haltNext = false)
  (stays : k.retireAt = none) (closed : k.endDue = false)
include between halt stays closed

theorem crossed_idle (state : k.state = .idle) (alone : k.groupS = []) (flat : k.stretchNext = 16) :
    (atRest k m c none none [] {}).crossed = atRest k.stretched m c none none [] {} := by
  rw [Hw.crossed, cutReserve_atRest between, judgeLate_atRest_still state, haltDue_atRest halt, retireBoundary_atRest stays,
    armedBoundary_atRest_none, activateBoundary_atRest (by simp), stretchBoundary_atRest_level alone flat,
    closeWork_atRest (k := k.stretched) closed, unitsBoundary_atRest _ _ _ _ _ _ .none, syncSend_atRest,
    tryStart_atRest (runs_atRest_still (k := k.stretched) (.inl state))]

theorem crossed_armed (state : k.state = .idle) (alone : k.groupS = []) (flat : k.stretchNext = 16)
    (later : k.num.toNat < l.activation) :
    (atRest k m c (some l) none [] {}).crossed = atRest k.armed.stretched m c (some l) none [] {} := by
  have waits : ∀ l', some l = some l' → k.num.toNat < l'.activation := fun l' same => Option.some.inj same ▸ later
  rw [Hw.crossed, cutReserve_atRest between, judgeLate_atRest_still state, haltDue_atRest halt, retireBoundary_atRest stays,
    armedBoundary_atRest_some state, activateBoundary_atRest (k := k.armed) waits,
    stretchBoundary_atRest_level (k := k.armed) alone flat,
    closeWork_atRest (k := k.armed.stretched) closed, unitsBoundary_atRest _ _ _ _ _ _ .none, syncSend_atRest,
    tryStart_atRest (runs_atRest_still (k := k.armed.stretched) (.inr rfl))]

theorem crossed_running (state : k.state = .running) (open' : k.closing = false) (works : k.workHalted = false)
    (ended : k.ended + 1 = k.num.toNat) (light : Undemanding (some l)) :
    ∃ e, (atRest k m c none (some l) [] {}).crossed = (atRest k.stretched m c none (some l) [] e).startBeat (k.ended + 1) 0 := by
  obtain ⟨e, stretched⟩ := stretchBoundary_atRest (k := k) (m := m) (c := c) (a := none) (r := some l) (ps := [])
  refine ⟨e, ?_⟩
  rw [Hw.crossed, cutReserve_atRest between, judgeLate_atRest_done state ended.ge, haltDue_atRest halt, retireBoundary_atRest stays,
    armedBoundary_atRest_none, activateBoundary_atRest (by simp), stretched, closeWork_atRest (k := k.stretched) closed,
    unitsBoundary_atRest _ _ _ _ _ _ light, syncSend_atRest]
  exact tryStart_atRest_begins (k := k.stretched) state between open' works ended.le

end Crossed

theorem toNat_succ {n : W64} (small : n.toNat + 1 < 2 ^ 64) : (n + 1).toNat = n.toNat + 1 := by
  rw [BitVec.toNat_add]
  exact Nat.mod_eq_of_lt small

/-- Settles O40: the number steps through every part of the boundary; with the units at rest the rest of the boundary is the
generator's own. -/
theorem strokeBoundary : Obligations.StrokeBoundary := by
  unfold Obligations.StrokeBoundary
  intro s k m l c
  refine ⟨exec_strokeBoundary_shed, fun lit => ?_, fun is state between halt stays closed alone flat => ?_,
    fun is state between halt stays closed alone flat later small => ?_, fun is state between committed halt stays closed open' works
      ended small herder kv backward reduction weight thermal lastWork firstPost => ?_⟩
  · obtain ⟨u, result, pulse⟩ : ∃ u, exec .strokeBoundary s = .next { s with hw := u } ∧ SamePulse s.hw.stepped u :=
      ⟨_, exec_strokeBoundary lit, crossed_pulse _⟩
    obtain ⟨num, time⟩ := Prod.mk.inj pulse
    exact ⟨_, result, num, time, rfl, rfl⟩
  · have stepped : s.hw.stepped = atRest (k.stepped c) m c none none [] {} := by rw [is]; rfl
    have lit : s.hw.stk.state ≠ .shed := by rw [is]; exact state.trans_ne (by decide)
    rw [exec_strokeBoundary lit, stepped, crossed_idle (k := k.stepped c) between halt stays closed state alone flat]
    exact ⟨_, rfl, rfl, rfl, state, between, rfl, rfl⟩
  · have stepped : s.hw.stepped = atRest (k.stepped c) m c (some l) none [] {} := by rw [is]; rfl
    have lit : s.hw.stk.state ≠ .shed := by rw [is]; exact state.trans_ne (by decide)
    have next : (k.stepped c).num.toNat = k.num.toNat + 1 := toNat_succ small
    rw [exec_strokeBoundary lit, stepped, crossed_armed (k := k.stepped c) between halt stays closed state alone flat (by omega)]
    exact ⟨_, rfl, rfl, rfl, rfl⟩
  · have stepped : s.hw.stepped = atRest (k.stepped c) m c none (some l) [] {} := by rw [is]; rfl
    have lit : s.hw.stk.state ≠ .shed := by rw [is]; exact state.trans_ne (by decide)
    have next : (k.stepped c).num.toNat = k.num.toNat + 1 := toNat_succ small
    obtain ⟨e, begins⟩ := crossed_running (m := m) (c := c) (k := k.stepped c) between halt stays closed state open' works
      (by rw [next]; exact congrArg (· + 1) ended) ⟨herder, reduction, backward, thermal⟩
    obtain ⟨t, start, num, stroke, beat, inBeat, working, -, running, -, snaps⟩ :=
      startBeat_atRest (k := (k.stepped c).stretched) (m := m) (c := c) (a := none) (ps := []) (e := e) (w := (k.stepped c).ended + 1)
        closed kv (fun _ => lastWork) firstPost
    have ended' : (k.stepped c).ended + 1 = k.num.toNat + 1 := congrArg (· + 1) ended
    rw [exec_strokeBoundary lit, stepped, begins, start]
    rw [ended'] at stroke snaps
    exact ⟨_, rfl, num, stroke, beat, inBeat, working.trans lastWork, running, snaps⟩

end Sys2Proof.Machine
end

section
/-!
# Beats: their boundary, their commit and their tasks

O41. The end of a beat and a commit move the stroke generator as `Standing` says, whatever the units do beside them; the tasks of a
beat are triggered core by core, which a canonical list of cores does once for each.
-/
namespace Sys2Proof.Machine

/-! ## The tasks of a beat -/

/-- Beat tasks of beat `b` that a core has bound (R74). -/
def CoreState.beatTasks (y : CoreState) (b : Nat) : List Nat := (List.range 32).filter fun i =>
  taskValid (y.task i) && decide (taskKind (y.task i) = 0) && decide (taskParam (y.task i) = b)

/-- A core whose tasks may run. -/
abbrev CoreState.mayRun (y : CoreState) : Prop := y.mapped = true ∧ y.gated = false ∧ y.stopped = false ∧ y.dead = false

/-- A core after its tasks of beat `b` were triggered; none where that is a program error (R75). -/
def CoreState.triggered (y : CoreState) (now b : Nat) : Option CoreState :=
  if y.mayRun then
    ((y.beatTasks b).foldl (fun y i => y.bind fun y => y.trigger now i) (some y)).map CoreState.dispatch
  else some y

/-- What `execBeatTaskTrigger` does at one core of the list. -/
def Hw.beatTasksOf (s : Hw) (b : Nat) (e : Nat × CoreState) : Hw :=
  if !e.2.mapped || e.2.gated || e.2.stopped || e.2.dead then s else s.triggerTasks e.1 (e.2.beatTasks b)

theorem beatTasksOf_cores {s : Hw} {b : Nat} {e : Nat × CoreState} (here : s.core e.1 = e.2) {y : CoreState}
    (done : e.2.triggered s.now b = some y) :
    ∃ cs, s.beatTasksOf b e = { s with cores := cs } ∧ ∀ d, nget {} cs d = if d = e.1 then y else s.core d := by
  by_cases runs : e.2.mayRun
  · obtain ⟨mapped, gated, stopped, dead⟩ := runs
    rw [CoreState.triggered, if_pos ⟨mapped, gated, stopped, dead⟩] at done
    obtain ⟨x, folded, dispatched⟩ := Option.map_eq_some_iff.mp done
    refine ⟨nput {} s.cores e.1 y, ?_, fun d => nget_nput _ _ _ _ _⟩
    rw [Hw.beatTasksOf, mapped, gated, stopped, dead, Hw.triggerTasks, here, folded]
    exact congrArg (s.setCore e.1 ·) dispatched
  · rw [CoreState.triggered, if_neg runs] at done
    have stays : (!e.2.mapped || e.2.gated || e.2.stopped || e.2.dead) = true := by
      by_contra all
      simp only [Bool.not_eq_true, Bool.or_eq_false_iff, Bool.not_eq_eq_eq_not, Bool.not_false] at all
      obtain ⟨⟨⟨mapped, gated⟩, stopped⟩, dead⟩ := all
      exact runs ⟨mapped, gated, stopped, dead⟩
    refine ⟨s.cores, by rw [Hw.beatTasksOf, if_pos stays], fun d => ?_⟩
    split
    · next same => rw [same, ← Option.some.inj done]; exact here
    · rfl

theorem foldl_beatTasksOf {b now : Nat} (m : NMap CoreState) (distinct : (m.map Prod.fst).Nodup) {s : Hw} (time : s.now = now)
    (here : ∀ e ∈ m, s.core e.1 = e.2) (fits : ∀ e ∈ m, (e.2.triggered now b).isSome = true) :
    ∃ cs, m.foldl (fun s e => s.beatTasksOf b e) s = { s with cores := cs } ∧
      ∀ d, some (nget {} cs d) = if d ∈ m.map Prod.fst then (s.core d).triggered now b else some (s.core d) := by
  induction m generalizing s with
  | nil => exact ⟨s.cores, rfl, fun d => rfl⟩
  | cons e m ih =>
    obtain ⟨fresh, rest⟩ := List.nodup_cons.mp distinct
    obtain ⟨y, done⟩ := Option.isSome_iff_exists.mp (fits e List.mem_cons_self)
    obtain ⟨cs, one, cores⟩ := beatTasksOf_cores (here e List.mem_cons_self) (time ▸ done)
    have elsewhere {d : Nat} (other : d ≠ e.1) : ({ s with cores := cs } : Hw).core d = s.core d :=
      (cores d).trans (if_neg other)
    have notFirst {f : Nat × CoreState} (mem : f ∈ m) : f.1 ≠ e.1 :=
      fun same => fresh (same ▸ List.mem_map_of_mem mem)
    obtain ⟨cs', more, final⟩ := ih rest (s := { s with cores := cs }) time
      (fun f mem => (elsewhere (notFirst mem)).trans (here f (List.mem_cons_of_mem _ mem)))
      (fun f mem => fits f (List.mem_cons_of_mem _ mem))
    refine ⟨cs', by rw [List.foldl_cons, one, more], fun d => ?_⟩
    rw [final d]
    by_cases same : d = e.1
    · subst same
      rw [if_neg fresh, if_pos (by simp), here e List.mem_cons_self, done]
      exact congrArg some ((cores e.1).trans (if_pos rfl))
    · simp only [elsewhere same, List.map_cons, List.mem_cons, same, false_or]

/-- The keys of a canonical map are distinct, and it reads each entry's value at its key. -/
theorem nwf_entries {V : Type} [DecidableEq V] {d : V} {m : NMap V} (wf : nwf d m = true) :
    (m.map Prod.fst).Nodup ∧ ∀ e ∈ m, nget d m e.1 = e.2 := by
  induction m with
  | nil => exact ⟨List.nodup_nil, fun e mem => absurd mem List.not_mem_nil⟩
  | cons e m ih =>
    obtain ⟨-, below, rest⟩ := (nwf_cons d e.1 e.2 m).mp wf
    obtain ⟨distinct, reads⟩ := ih rest
    have later {f : Nat × V} (mem : f ∈ m) : e.1 ≠ f.1 := (below f mem).ne
    refine ⟨List.nodup_cons.mpr ⟨fun mem => ?_, distinct⟩, fun f mem => ?_⟩
    · obtain ⟨f, inside, same⟩ := List.mem_map.mp mem
      exact later inside same.symm
    · rcases List.mem_cons.mp mem with rfl | inside
      · exact if_pos rfl
      · exact (if_neg (later inside)).trans (reads f inside)

/-- The beat's tasks are marked as triggered. -/
def Hw.tasksMarked (s : Hw) : Hw := { s with stk := { s.stk with triggered := true } }

/-- The beat's tasks are triggered on every core (R74). -/
def Hw.tasksTriggered (s : Hw) : Hw := s.cores.foldl (fun t e => t.beatTasksOf s.stk.beat e) s.tasksMarked

section Tasks
variable {s : State} (inBeat : s.hw.stk.inBeat = true) (untriggered : s.hw.stk.triggered = false)
  (held : s.hw.flt.held = false) (stopAll : s.hw.flt.stopAll = false)
include inBeat untriggered held stopAll

theorem exec_beatTaskTrigger : exec .beatTaskTrigger s = .next { s with hw := s.hw.tasksTriggered } := by
  have call : exec .beatTaskTrigger s = execBeatTaskTrigger s := rfl
  have due : ¬ ((!s.hw.stk.inBeat || s.hw.stk.triggered || s.hw.flt.held || s.hw.flt.stopAll) = true) := by
    simp [inBeat, untriggered, held, stopAll]
  rw [call, execBeatTaskTrigger, State.act]
  exact congrArg (fun h => Host.Outcome.next { s with hw := h }) (if_neg due)

theorem beatTaskTrigger_triggers (wf : nwf {} s.hw.cores = true)
    (fits : ∀ d, ((s.hw.core d).triggered s.hw.now s.hw.stk.beat).isSome = true) :
    ∃ cs, exec .beatTaskTrigger s = .next { s with hw := { s.hw.tasksMarked with cores := cs } } ∧
      ∀ d, some (nget {} cs d) = (s.hw.core d).triggered s.hw.now s.hw.stk.beat := by
  obtain ⟨distinct, reads⟩ := nwf_entries wf
  obtain ⟨cs, folded, cores⟩ := foldl_beatTasksOf (now := s.hw.now) (b := s.hw.stk.beat) s.hw.cores distinct
    (s := s.hw.tasksMarked) rfl reads (fun e mem => reads e mem ▸ fits e.1)
  refine ⟨cs, by rw [exec_beatTaskTrigger inBeat untriggered held stopAll, Hw.tasksTriggered, folded],
    fun d => (cores d).trans ?_⟩
  split
  · rfl
  · next absent =>
    have idle : s.hw.core d = {} := not_not.mp fun other => absent (mem_keys_of_nget_ne other)
    change some (s.hw.core d) = _
    rw [idle]
    rfl

end Tasks

/-! ## The commit of a beat (R324) -/

/-- Within a beat no other begins. -/
theorem tryStart_of_inBeat {s : Hw} (inBeat : s.stk.inBeat = true) : s.tryStart = s := by
  have may : s.mayStart = false := by simp [Hw.mayStart, inBeat]
  rw [Hw.tryStart, may]
  rfl

theorem afterCommit_of_inBeat {s : Hw} (inBeat : s.stk.inBeat = true) : s.afterCommit = s := by
  rw [Hw.afterCommit, inBeat]
  rfl

/-- While the next beat runs, the commit of the one before it changes nothing else of the generator. -/
theorem beatCommit_commits {s : State} {b : Nat × Nat} (waits : s.hw.stk.uncommitted = some b) (inBeat : s.hw.stk.inBeat = true)
    (stopAll : s.hw.flt.stopAll = false) (clear : ∀ v, s.hw.flt.recovery = some v → v.hold = true → (v.stroke, v.beat) ≠ b) :
    exec .beatCommit s = .next { s with hw := s.hw.commitBeat b } := by
  have stands : SameStanding (s.hw.committed b) (s.hw.commitBeat b) := .of_course (commitBeat_course s.hw b)
  have stays : (s.hw.commitBeat b).stk.inBeat = true := stands.inBeat.trans inBeat
  have unnamed : (s.hw.flt.recovery.any fun v => v.hold && decide ((v.stroke, v.beat) = b)) = false := by
    cases open' : s.hw.flt.recovery with
    | none => rfl
    | some v =>
      have other := clear v open'
      simp only [Option.any_some, Bool.and_eq_false_iff, decide_eq_false_iff_not]
      exact Bool.eq_false_or_eq_true v.hold |>.elim (fun hold => .inr (other hold)) .inl
  have after := afterCommit_of_inBeat stays
  have still := tryStart_of_inBeat stays
  have call : exec .beatCommit s = execBeatCommit s := rfl
  rw [call, execBeatCommit, State.act, waits]
  simp only [unnamed, stopAll, Bool.or_self, Bool.false_eq_true, if_false, after, still]

/-! ## The end of a beat (R30) -/

theorem exec_beatBoundary {s : State} (inBeat : s.hw.stk.inBeat = true) (committed : s.hw.stk.uncommitted = none)
    (held : s.hw.flt.held = false) (stopAll : s.hw.flt.stopAll = false) (n : Nat) :
    exec (.beatBoundary n) s = .next { s with hw := (s.hw.endBeat n).nextBeat } := by
  have call : exec (.beatBoundary n) s = execBeatBoundary n s := rfl
  rw [call, execBeatBoundary, State.act]
  simp only [inBeat, committed, held, stopAll, Option.isSome_none, Bool.not_true, Bool.or_self, Bool.false_eq_true, if_false]

theorem exec_beatBoundary_held {s : State} (held : s.hw.flt.held = true) (n : Nat) : exec (.beatBoundary n) s = .next s := by
  have call : exec (.beatBoundary n) s = execBeatBoundary n s := rfl
  rw [call, execBeatBoundary, State.act]
  simp only [held, Bool.or_true, Bool.true_or, if_true]

theorem exec_beatTaskTrigger_held {s : State} (held : s.hw.flt.held = true) : exec .beatTaskTrigger s = .next s := by
  have call : exec .beatTaskTrigger s = execBeatTaskTrigger s := rfl
  rw [call, execBeatTaskTrigger, State.act]
  simp only [held, Bool.or_true, Bool.true_or, if_true]

/-- What the beginning of a beat leaves alone: the stroke, and the beat that waits to commit. -/
theorem startBeat_waits (s : Hw) (w i : Nat) :
    (s.startBeat w i).stk.uncommitted = s.stk.uncommitted ∧ (s.startBeat w i).stk.num = s.stk.num :=
  (startBeat_cases s w i).elim (fun h => ⟨h.uncommitted, h.num⟩) fun h => ⟨h.uncommitted, h.num⟩

theorem nextBeat_waits (s : Hw) : s.nextBeat.stk.uncommitted = s.stk.uncommitted ∧ s.nextBeat.stk.num = s.stk.num := by
  unfold Hw.nextBeat
  split
  · exact ⟨rfl, rfl⟩
  · dsimp only
    split
    · exact ⟨rfl, rfl⟩
    · split
      · exact startBeat_waits s _ _
      · unfold Hw.tryStart
        dsimp only
        split
        · exact startBeat_waits s _ _
        · exact ⟨rfl, rfl⟩

/-- Where the beat was not the last of the stroke's work, work goes on. -/
theorem endBeat_working {s : Hw} {r : Loaded} (running : s.running = some r)
    (goes : r.img.stroke.lastWork ≠ some s.stk.beat) (n : Nat) : (s.endBeat n).stk.working = s.stk.working := by
  unfold Hw.endBeat
  extract_lets i worst e more s1 s2 e' src s3 last s4 s5
  have h2 : s2.course = s.course := by simp [s2, s1]
  have run3 : s3.running = some r := (SameStanding.of_course h2).running.trans running
  have work3 : s3.stk.working = s.stk.working := show s2.stk.working = s.stk.working from working_of_course h2
  have more' : last ≠ some i := by
    simp only [last, Hw.strokeSec, run3]
    exact goes
  have h4 : s4.course = s3.course := by
    simp only [s4, if_neg more']
    exact guardedOverrun_course ..
  have h5 : s5.course = s4.course := by
    simp only [s5]
    split
    · exact flushOverruns_course ..
    · rfl
  have done : s5.failoverBoundary.course = s3.course := (failoverBoundary_course s5).trans (h5.trans h4)
  exact (working_of_course done).trans work3

/-- Work goes on with the next beat of the stroke. -/
theorem nextBeat_begins {s : Hw} {r : Loaded} (running : s.running = some r) (runs : s.runs = true) (open' : s.stk.closing = false)
    (works : s.stk.workHalted = false) (routed : s.routesDue = false) (more : s.stk.beat + 1 < r.img.stroke.beats.length)
    (working : s.stk.working = true) : s.nextBeat = s.startBeat s.stk.workStroke (s.stk.beat + 1) := by
  have sec : s.strokeSec = some r.img.stroke := by rw [Hw.strokeSec, running]; rfl
  rw [Hw.nextBeat, sec]
  simp [runs, open', works, routed, more, working]

/-- The next beat of the stroke is in progress once a beat of its work has ended. -/
theorem beatBoundary_begins {s : Hw} {r : Loaded} (running : s.running = some r) (runs : s.runs = true)
    (working : s.stk.working = true) (open' : s.stk.closing = false) (works : s.stk.workHalted = false) (routed : s.routesDue = false)
    (more : s.stk.beat + 1 < r.img.stroke.beats.length) (goes : r.img.stroke.lastWork ≠ some s.stk.beat) (n : Nat) :
    SameStanding ((s.endBeat n).beginsAt s.stk.workStroke (s.stk.beat + 1)) (s.endBeat n).nextBeat := by
  have ended := endBeat_standing s n
  have begins := nextBeat_begins (ended.running.trans running) (ended.runs.trans runs) (ended.closing.trans open')
    (ended.workHalted.trans works) (ended.routesDue.trans routed) (by rw [ended.beat]; exact more)
    ((endBeat_working running goes n).trans working)
  have stroke : (s.endBeat n).stk.workStroke = s.stk.workStroke := ended.workStroke
  have beat : (s.endBeat n).stk.beat = s.stk.beat := ended.beat
  rw [begins, stroke, beat]
  exact startBeat_standing (by rw [ended.running]; exact running ▸ rfl) _ _

/-! ## With the units at rest -/

/-- The generator when the beat in progress has ended in its time. -/
def Stk.beatEnded (k : Stk) : Stk := { k with inBeat := false, uncommitted := some (k.workStroke, k.beat) }

section Rest
variable {k : Stk} {m : NMap Byte} {c : Nat} {l : Loaded} {ps : List Snap} {e : Evt}

theorem endBeat_atRest {x : Beat} {n : Nat} (inBeat : k.inBeat = true) (works : k.workHalted = false)
    (onTime : k.num.toNat ≤ k.workStroke)
    (now : l.img.stroke.beats[k.beat]? = some x) (short : n ≤ x.worst) (goes : l.img.stroke.lastWork ≠ some k.beat)
    (herder : l.img.herder = none) (kv : l.img.kv = none) :
    (atRest k m c none (some l) ps e).endBeat n = atRest k.beatEnded m c none (some l) ps e := by
  have settled : ((atRest k m c none (some l) ps e).logitsLateAll k.beat) = atRest k m c none (some l) ps e := by
    have sec : (atRest k m c none (some l) ps e).herderSec = none := herder
    rw [Hw.logitsLateAll, sec]
  have merged : ((atRest k m c none (some l) ps e).mergeEnd k.beat) = atRest k m c none (some l) ps e := by
    have sec : ((atRest k m c none (some l) ps e).running.bind fun l => l.img.kv) = none := kv
    rw [Hw.mergeEnd, sec]
  have recovered : (atRest k m c none (some l) ps e).finishRecovery = atRest k m c none (some l) ps e := rfl
  have desc : (atRest k m c none (some l) ps e).curDesc = some x := by
    change (if k.inBeat then l.img.stroke.beats[k.beat]? else none) = some x
    rw [inBeat, now]
    rfl
  have quiet : (atRest k.beatEnded m c none (some l) ps e).guardedOverrun false = atRest k.beatEnded m c none (some l) ps e := by
    have early : decide ((atRest k.beatEnded m c none (some l) ps e).stk.num.toNat >
        (atRest k.beatEnded m c none (some l) ps e).stk.workStroke) = false := decide_eq_false (Nat.not_lt.mpr onTime)
    rw [Hw.guardedOverrun, early, Bool.and_false, Bool.false_and, if_neg Bool.false_ne_true]
  unfold Hw.endBeat
  extract_lets i worst ex more s1 s2 e' src s3 last s4 s5
  have h1 : s1 = atRest k m c none (some l) ps e := (congrArg (·.mergeEnd k.beat) settled).trans merged
  have h2 : s2 = atRest k m c none (some l) ps e := (congrArg Hw.finishRecovery h1).trans recovered
  have within : more = false := by
    have most : worst = x.worst := congrArg (fun d : Option Beat => (d.map (·.worst)).getD 0) desc
    simp only [more, most, decide_eq_false (Nat.not_lt.mpr short), Bool.false_and]
  have same : e' = k.excess := if_neg (Bool.eq_false_iff.mp within)
  clear_value s2 e'
  subst h2 same
  have h4 : s4 = atRest k.beatEnded m c none (some l) ps e := (if_neg goes).trans quiet
  have h5 : s5 = atRest k.beatEnded m c none (some l) ps e := by
    have going : s4.stk.workHalted = false := (congrArg (·.stk.workHalted) h4).trans works
    simp only [s5, going, Bool.false_and, Bool.false_eq_true, if_false]
    exact h4
  exact congrArg Hw.failoverBoundary h5

end Rest

/-- Settles O41: a beat's end and commit move the generator only as `Standing` says; with the units at rest the end of a beat
touches nothing else, and the tasks of a beat are triggered core by core. -/
theorem beatCycle : Obligations.BeatCycle := by
  unfold Obligations.BeatCycle
  intro s k l ps m n x c b z
  refine ⟨fun inBeat committed held stopAll => ?_, fun is => ?_, fun waits inBeat stopAll clear => ?_, ?_,
    fun held => ⟨exec_beatBoundary_held held n, exec_beatTaskTrigger_held held⟩⟩
  · obtain ⟨uncommitted, num⟩ := nextBeat_waits (s.hw.endBeat n)
    have ended := endBeat_standing s.hw n
    refine ⟨_, exec_beatBoundary inBeat committed held stopAll n, uncommitted.trans ended.uncommitted, num.trans ended.num, ?_⟩
    intro r running runs working open' works routed more goes
    have stands := beatBoundary_begins running runs working open' works routed more goes n
    exact ⟨stands.beat, stands.inBeat, stands.workStroke, stands.running.trans (ended.running.trans running)⟩
  · intro state inBeat committed working open' closed works onTime now short more goes unflagged herder kv
    have rest : s.hw = atRest k m c none (some l) ps {} := is
    have ended := endBeat_atRest (m := m) (c := c) (ps := ps) (e := {}) inBeat works onTime now short goes herder kv
    have begins := nextBeat_begins
      (s := atRest k.beatEnded m c none (some l) ps {}) rfl (runs_atRest state) open' works rfl more working
    obtain ⟨t, start, -, -, -, -, -, excess, -, mem, snaps⟩ := startBeat_atRest (k := k.beatEnded) (m := m) (c := c) (a := none)
      (ps := ps) (e := {}) (w := k.workStroke) (i := k.beat + 1) closed kv (fun first => absurd first (Nat.succ_ne_zero _)) unflagged
    have result : (s.hw.endBeat n).nextBeat = t := by rw [rest, ended, begins]; exact start
    refine ⟨_, exec_beatBoundary (rest ▸ inBeat) (rest ▸ committed) (rest ▸ rfl) (rest ▸ rfl) n, ?_⟩
    rw [result]
    exact ⟨excess, mem, snaps⟩
  · have stands : SameStanding (s.hw.committed b) (s.hw.commitBeat b) := .of_course (commitBeat_course s.hw b)
    exact ⟨_, beatCommit_commits waits inBeat stopAll clear, stands.uncommitted, stands.inBeat.trans inBeat, stands.beat,
      stands.workStroke, stands.num, snaps_of_course (commitBeat_course s.hw b)⟩
  · intro due after inBeat untriggered held stopAll wf fits
    obtain ⟨cs, result, cores⟩ := beatTaskTrigger_triggers inBeat untriggered held stopAll wf fits
    exact ⟨_, result, cores, rfl⟩
end Sys2Proof.Machine
end

section
/-!
# Instructions that issue (R56, R83-R87)

What an instruction of a core that may issue comes to: its effect where the word is clean, and the stop where it is not.
-/
namespace Sys2Proof.Machine

/-! ## The effect of an instruction -/

/-- A clean word with register codes in their spaces is answered by the operation itself (R83). -/
theorem guarded_of_clean {i : Ins} {u : Use} {regs : Bool} (clean : insClean i u = true) (spaces : regs = true) (k : Issue) :
    guarded i u regs k = k := by
  simp [guarded, clean, spaces]

/-- No injection is armed: nothing checked is hit (R143). -/
theorem injHit_unarmed {s : Hw} (unarmed : s.tst.injArm = false) (target loc : Nat) : s.injHit target loc = none := by
  simp [Hw.injHit, unarmed]

theorem sramChecked_unarmed {s : Hw} (unarmed : s.tst.injArm = false) (c : Nat) (k : Hw → Hw) : s.sramChecked c k = k s := by
  simp [Hw.sramChecked, injHit_unarmed unarmed]

/-- A meaning that acts on the module leaves the touchmark units and the queue. -/
theorem act_eq {s : State} {k : Hw → Hw} {t : Hw} (h : k s.hw = t) : s.act k = .next { s with hw := t } := by
  rw [State.act, h]

section Issuing
variable {s : State} {c : CoreId} {cls : Nat} {i : Ins} {u : Use} {regs : Bool} {answer : Hw → CoreState → Issue} {k : Issue}
  {y : CoreState}

/-- An instruction that is done: its core takes the result, and the counter moves on. -/
theorem act_issue_done (may : MayIssue s c cls i u regs) (answers : answer s.hw (s.coreOf c) = guarded i u regs k)
    (done : k = .done y) :
    s.act (fun t => t.issue c.toNat cls i (answer t)) = .next (s.coreTo c { y with pc := (y.pc + 1) % 512 }) := by
  obtain ⟨-, -, clean, spaces⟩ := id may
  rw [guarded_of_clean clean spaces, done] at answers
  exact act_eq (issue_done s c cls i u regs _ y may answers)

/-- An instruction that branches. -/
theorem act_issue_jump {pc : Nat} (may : MayIssue s c cls i u regs) (answers : answer s.hw (s.coreOf c) = guarded i u regs k)
    (jumps : k = .jump y pc) :
    s.act (fun t => t.issue c.toNat cls i (answer t)) = .next (s.coreTo c { y with pc := pc % 512 }) := by
  obtain ⟨-, -, clean, spaces⟩ := id may
  rw [guarded_of_clean clean spaces, jumps] at answers
  exact act_eq (issue_jump s c cls i u regs _ y pc may answers)

/-- An instruction that waits leaves the state as it was. -/
theorem act_issue_wait (may : MayIssue s c cls i u regs) (answers : answer s.hw (s.coreOf c) = guarded i u regs k)
    (waits : k = .wait) : s.act (fun t => t.issue c.toNat cls i (answer t)) = .next s := by
  obtain ⟨-, -, clean, spaces⟩ := id may
  rw [guarded_of_clean clean spaces, waits] at answers
  exact act_eq (issue_wait s c cls i u regs _ may answers)

/-- An instruction that reads the SRAM and is done, with no injection armed. -/
theorem act_issueRead_done (may : MayIssue s c cls i u regs) (unarmed : s.hw.tst.injArm = false)
    (answers : answer s.hw (s.coreOf c) = guarded i u regs k) (done : k = .done y) :
    s.act (fun t => t.issueRead c.toNat cls i (answer t)) = .next (s.coreTo c { y with pc := (y.pc + 1) % 512 }) := by
  obtain ⟨-, -, clean, spaces⟩ := id may
  rw [guarded_of_clean clean spaces, done] at answers
  have effect : s.hw.issueRead c.toNat cls i (answer s.hw) = s.hw.setCore c.toNat { y with pc := (y.pc + 1) % 512 } := by
    unfold Hw.issueRead
    rw [fetch_ok s c cls i u regs _ may]
    have : answer s.hw (s.hw.core c.toNat) = .done y := answers
    rw [this]
    exact sramChecked_unarmed unarmed _ _
  exact act_eq effect

/-- An instruction that writes the SRAM, in whole words or not, and is done. -/
theorem act_issueWrite_done {whole : Hw → Bool} (may : MayIssue s c cls i u regs) (unarmed : s.hw.tst.injArm = false)
    (answers : answer s.hw (s.coreOf c) = guarded i u regs k) (done : k = .done y) :
    s.act (fun t => t.issueWrite c.toNat cls i (whole t) (answer t)) =
      .next (s.coreTo c { y with pc := (y.pc + 1) % 512 }) := by
  have either : ∀ b, s.hw.issueWrite c.toNat cls i b (answer s.hw) = s.hw.setCore c.toNat { y with pc := (y.pc + 1) % 512 } := by
    intro b
    have asIssue := act_issue_done may answers done
    have asRead := act_issueRead_done may unarmed answers done
    simp only [State.act, Host.Outcome.next.injEq, State.coreTo, State.mk.injEq] at asIssue asRead
    cases b
    · exact asRead.1
    · exact asIssue.1
  exact act_eq (either _)

/-- An instruction that is fetched acts as its meaning says. -/
theorem act_fetch {effect : Hw → Hw} (may : MayIssue s c cls i u regs) :
    s.act (fun t => t.fetch c.toNat cls i effect) = .next { s with hw := effect s.hw } :=
  act_eq (fetch_ok s c cls i u regs effect may)

end Issuing

end Sys2Proof.Machine
end

section
/-!
# Program errors and what a stop keeps (R87, R330, R340)

An uncontained fault under way stops every core; what is written beside it takes none of that back, and no record alters
the list of dead cores.
-/
namespace Sys2Proof.Machine

/-- What no record takes back: the dead cores, the stop of all issue, and, with no work under way, the strokes. -/
structure Recorded (s t : Hw) : Prop where
  pending : t.flt.pending = s.flt.pending
  declared : t.flt.declared = s.flt.declared
  stopAll : s.flt.stopAll = true → t.flt.stopAll = true
  still : s.live = false → t.stk = s.stk

theorem live_of_stk {s t : Hw} (h : t.stk = s.stk) : t.live = s.live := by
  rw [Hw.live, Hw.runs, h]; rfl

theorem Recorded.refl (s : Hw) : Recorded s s := ⟨rfl, rfl, id, fun _ => rfl⟩

theorem Recorded.trans {s t u : Hw} (h : Recorded s t) (g : Recorded t u) : Recorded s u where
  pending := g.pending.trans h.pending
  declared := g.declared.trans h.declared
  stopAll := g.stopAll ∘ h.stopAll
  still dead := (g.still ((live_of_stk (h.still dead)).trans dead)).trans (h.still dead)

/-- A change of the fault path's other fields, and of what lies outside FLT and STK. -/
theorem Recorded.of_same {s t : Hw} (flt : (t.flt.pending, t.flt.declared, t.flt.stopAll) = (s.flt.pending, s.flt.declared, s.flt.stopAll))
    (stk : t.stk = s.stk) : Recorded s t := by
  simp only [Prod.mk.injEq] at flt
  obtain ⟨hp, hd, hs⟩ := flt
  exact ⟨hp, hd, fun h => hs.trans h, fun _ => stk⟩

theorem raise_recorded (s : Hw) (n : Nat) : Recorded s (s.raise n) := .of_same (by simp) (by simp)

theorem commitRecord_recorded (s : Hw) (r : FaultRec) : Recorded s (s.commitRecord r) := by
  refine .of_same ?_ (by simp)
  unfold Hw.commitRecord
  dsimp only
  split <;> rfl

theorem emitRecord_recorded (s : Hw) (r : FaultRec) : Recorded s (s.emitRecord r) := by
  unfold Hw.emitRecord
  dsimp only
  have committed (t : Hw) (r : FaultRec) (same : Recorded s t) : Recorded s (t.commitRecord r) :=
    same.trans (commitRecord_recorded t r)
  split <;> split
  · exact .of_same rfl rfl
  · exact committed _ _ (.of_same rfl rfl)
  · exact .of_same rfl rfl
  · exact committed _ _ (.of_same rfl rfl)

theorem closeRecovery_recorded (s : Hw) (serial : Nat) : Recorded s (s.closeRecovery serial) := by
  unfold Hw.closeRecovery
  split
  · exact .refl s
  · next v _ =>
    have closed := v.records.foldlRecOn (fun s r => s.emitRecord { r with outcome := .uncontained, related := some serial })
      (motive := Recorded s) (Recorded.refl s) fun u h r _ => h.trans (emitRecord_recorded u _)
    exact closed.trans (.of_same rfl rfl)

theorem stopUncontained_recorded (s : Hw) (serial : Nat) : Recorded s (s.stopUncontained serial) := by
  have raised := (closeRecovery_recorded s serial).trans (raise_recorded _ 32)
  unfold Hw.stopUncontained
  dsimp only
  split
  case isTrue live =>
    have same : s.live = true := (live_of_stk (by simp)).symm.trans live
    exact ⟨raised.pending, raised.declared, fun _ => rfl, fun dead => absurd same (by simp [dead])⟩
  case isFalse => exact raised.trans (.of_same rfl rfl)

/-- The stop of work that is under way stops all issue. -/
theorem stopUncontained_stopAll {s : Hw} (live : s.live = true) (serial : Nat) : (s.stopUncontained serial).flt.stopAll = true := by
  have same : (({ (s.closeRecovery serial).raise 32 with
      flt := { ((s.closeRecovery serial).raise 32).flt with uncontained := true } } : Hw)).live = true :=
    (live_of_stk (by simp)).trans live
  unfold Hw.stopUncontained
  dsimp only
  rw [if_pos same]

theorem stopUncontained_flag (s : Hw) (serial : Nat) : (s.stopUncontained serial).evt.flags.getLsbD 32 = true := by
  have raised := raise_bit (s.closeRecovery serial) 32
  unfold Hw.stopUncontained
  dsimp only
  split <;> exact raised

theorem judgeHigh_recorded (s : Hw) : Recorded s s.judgeHigh := by
  have high (b : Bool) (t : Hw) : Recorded t (if b then t.raise 33 else t) := by
    split
    · exact raise_recorded _ _
    · exact .refl _
  exact ((high _ s).trans (high _ _)).trans (.of_same rfl rfl)

theorem judgeFull_recorded (s : Hw) : Recorded s s.judgeFull := by
  have full (b : Bool) (t : Hw) (log fill : Nat) : Recorded t (if b then t.fullLog log fill else t) := by
    split
    · exact ((emitRecord_recorded _ _).trans (stopUncontained_recorded _ _)).trans (raise_recorded _ _)
    · exact .refl _
  exact ((full _ s _ _).trans (full _ _ _ _)).trans (.of_same rfl rfl)

theorem record_recorded (s : Hw) (i : RecIn) : Recorded s (s.record i) :=
  ((emitRecord_recorded s _).trans (judgeHigh_recorded _)).trans (judgeFull_recorded _)

/-- An uncontained fault with work under way stops all issue and sets FAULT_UNCONTAINED (R340). -/
theorem uncontain_stops {s : Hw} (live : s.live = true) (i : RecIn) :
    (s.uncontain i).flt.stopAll = true ∧ (s.uncontain i).evt.flags.getLsbD 32 = true := by
  have running : (s.writeRecord { i with outcome := .uncontained }).live = true := (live_of_stk (by simp)).trans live
  exact ⟨((judgeHigh_recorded _).trans (judgeFull_recorded _)).stopAll (stopUncontained_stopAll running _),
    judgeFull_stays (judgeHigh_stays (stopUncontained_flag _ _))⟩

/-- A program error stops its core and changes no other. -/
theorem programError_core (s : Hw) (c code n : Nat) :
    (s.programError c code).core n = if n = c then { s.core c with stopped := true } else s.core n := by
  have cores : (s.programError c code).cores = (s.onCore c fun x => { x with stopped := true }).cores := uncontain_cores _ _
  rw [Hw.core, cores]
  exact setCore_core s c n _

theorem programError_uncontained (s : Hw) (c code : Nat) : (s.programError c code).flt.uncontained = true :=
  (uncontain_reports _ _).2

/-- A program error of a core under way stops all issue and sets FAULT_UNCONTAINED. -/
theorem programError_stops {s : Hw} (live : s.live = true) (c code : Nat) :
    (s.programError c code).flt.stopAll = true ∧ (s.programError c code).evt.flags.getLsbD 32 = true :=
  uncontain_stops (live_of_stk rfl ▸ live) _

end Sys2Proof.Machine
end

section
/-! # Control instructions (R56, R83-R85, R87) -/
namespace Sys2Proof.Machine

/-- WAIT passes when every token among 1 to 7 that it names has count 0 (R85). -/
theorem toksClear_iff (x : CoreState) (imm : W32) :
    x.toksClear imm = true ↔ ∀ t, 0 < t → t < 8 → imm.getLsbD t = true → nget 0 x.toks t = 0 := by
  simp only [CoreState.toksClear, List.all_eq_true, List.mem_range, Bool.or_eq_true, Bool.not_eq_true', decide_eq_true_eq]
  constructor
  · intro clear t pos below named
    rcases clear t below with (zero | unnamed) | count
    · omega
    · rw [named] at unnamed; cases unnamed
    · exact count
  · intro clear t below
    by_cases zero : t = 0
    · exact .inl (.inl zero)
    · cases named : imm.getLsbD t
      · exact .inl (.inr rfl)
      · exact .inr (clear t (Nat.pos_of_ne_zero zero) below named)

theorem issueWrite_off {s : Hw} {c : Nat} (off : s.canIssue c = false) (cls : Nat) (i : Ins) (whole : Bool)
    (f : CoreState → Issue) : s.issueWrite c cls i whole f = s := by
  unfold Hw.issueWrite
  split
  · exact issue_off s c cls i f off
  · exact issueRead_off s c cls i f off

section Off
variable {s : State} {c : CoreId} (off : s.hw.canIssue c.toNat = false)
include off

theorem act_fetch_off (cls : Nat) (i : Ins) (effect : Hw → Hw → Hw) :
    s.act (fun t => t.fetch c.toNat cls i (effect t)) = .next s := act_eq (fetch_off _ _ _ _ _ off)

theorem act_issueWrite_off (cls : Nat) (i : Ins) (whole : Hw → Bool) (answer : Hw → CoreState → Issue) :
    s.act (fun t => t.issueWrite c.toNat cls i (whole t) (answer t)) = .next s := act_eq (issueWrite_off off _ _ _ _)

theorem vecOp_off (i : Ins) (f : W32 → W32 → W32 → W32) : s.act (fun t => vecOp c i t f) = .next s :=
  act_eq (issue_off _ _ 5 i _ off)

theorem vecOp1_off (i : Ins) (f : W32 → W32) : s.act (fun t => vecOp1 c i t f) = .next s :=
  act_eq (issue_off _ _ 6 i _ off)

theorem horizontal_off (i : Ins) (f : W32 → W32 → W32) : s.act (fun t => horizontal c i t f) = .next s :=
  act_eq (issue_off _ _ 5 i _ off)

/-- A core that may not issue does nothing on any of its instructions. -/
theorem exec_off (i : Ins) : ∀ k ∈ [Instr.nop c i, .br c i, .brz c i, .brnz c i, .wait c i, .endTask c i, .li c i, .csrr c i,
    .csrw c i, .setf c i, .addb c i, .ldd c i, .std c i, .mma c i, .clr c i, .drain c i, .load c i, .tov c i, .vecAdd c i,
    .hsum c i, .exp c i, .vld c i, .vst c i, .cvt c i, .send c i, .chan c i, .bld c i, .bst c i, .spn c i, .trig c i],
    exec k s = .next s := by
  simp only [List.forall_mem_cons]
  exact ⟨(act_fetch_off off 0 i _ : execNop c i s = _), (act_fetch_off off 0 i _ : execBr c i s = _),
    (act_fetch_off off 0 i _ : execBrz c i s = _), (act_fetch_off off 0 i _ : execBrnz c i s = _),
    (act_fetch_off off 0 i _ : execWait c i s = _), (act_fetch_off off 0 i _ : execEndTask c i s = _),
    (act_fetch_off off 1 i _ : execLi c i s = _), (act_fetch_off off 1 i _ : execCsrr c i s = _),
    (act_fetch_off off 1 i _ : execCsrw c i s = _), (act_fetch_off off 2 i _ : execSetf c i s = _),
    (act_fetch_off off 2 i _ : execAddb c i s = _), (act_fetch_off off 2 i _ : execLdd c i s = _),
    (act_issueWrite_off off 2 i _ fun _ => stdAnswer i : execStd c i s = _),
    (act_fetch_off off 3 i _ : execMma c i s = _), (act_fetch_off off 4 i _ : execClr c i s = _),
    (act_fetch_off off 4 i _ : execDrain c i s = _), (act_fetch_off off 4 i _ : execLoad c i s = _),
    (act_fetch_off off 4 i _ : execTov c i s = _), (vecOp_off off i _ : execVecAdd c i s = _),
    (horizontal_off off i _ : execHsum c i s = _), (vecOp1_off off i _ : execExp c i s = _),
    (act_fetch_off off 7 i _ : execVld c i s = _), (act_issueWrite_off off 7 i _ _ : execVst c i s = _),
    (act_issueWrite_off off 8 i _ _ : execCvt c i s = _), (act_fetch_off off 9 i _ : execSend c i s = _),
    (act_fetch_off off 9 i _ : execChan c i s = _), (act_fetch_off off 10 i _ : execBld c i s = _),
    (act_fetch_off off 10 i _ : execBst c i s = _), (act_fetch_off off 10 i _ : execSpn c i s = _),
    (act_fetch_off off 11 i _ : execTrig c i s = _), fun _ none => absurd none List.not_mem_nil⟩

end Off

section On
variable {s : State} {c : CoreId} {i : Ins} (on : s.hw.canIssue c.toNat = true)
include on

theorem live_of_canIssue : s.hw.live = true := by
  simp only [Hw.canIssue, Bool.and_eq_true] at on
  obtain ⟨⟨⟨-, live⟩, -⟩, -⟩ := on
  exact live

/-- What a program error of a core under way comes to. -/
theorem programError_halts {r : Out} {code : Nat} (error : r = .next { s with hw := s.hw.programError c.toNat code }) :
    ∃ t, r = .next t ∧
      (t.coreOf c).stopped = true ∧ (t.coreOf c).pc = (s.coreOf c).pc ∧ t.hw.flt.uncontained = true ∧ t.hw.flt.stopAll = true ∧
      t.hw.evt.flags.getLsbD 32 = true := by
  have core : (s.hw.programError c.toNat code).core c.toNat = { s.hw.core c.toNat with stopped := true } :=
    (programError_core ..).trans (if_pos rfl)
  obtain ⟨stopAll, flag⟩ := programError_stops (live_of_canIssue on) c.toNat code
  refine ⟨_, error, ?_, ?_, programError_uncontained .., stopAll, flag⟩
  · exact congrArg (·.stopped) core
  · exact congrArg (·.pc) core

theorem fetch_reserved {cls : Nat} (reserved : bits (s.coreOf c).word.toNat 63 60 ≥ 12) (k : Hw → Hw) :
    s.hw.fetch c.toNat cls i k = s.hw.programError c.toNat 0x01 := by
  unfold Hw.fetch
  rw [if_pos on]
  exact if_pos reserved

theorem fetch_mismatch {cls : Nat} (listed : bits (s.coreOf c).word.toNat 63 60 < 12)
    (other : (s.coreOf c).word &&& ~~~ opBits ≠ insWord cls i) (k : Hw → Hw) :
    s.hw.fetch c.toNat cls i k = s.hw.onCore c.toNat CoreState.crcError := by
  unfold Hw.fetch
  rw [if_pos on]
  exact (if_neg (Nat.not_le.mpr listed)).trans (if_neg other)

theorem issue_unclean {cls : Nat} {u : Use} {regs : Bool} {k : CoreState → Issue} (fetches : Fetches s c cls i)
    (unclean : insClean i u = false) :
    s.hw.issue c.toNat cls i (fun x => guarded i u regs (k x)) = s.hw.programError c.toNat 0x01 := by
  obtain ⟨listed, spelt⟩ := fetches
  unfold Hw.issue Hw.fetch
  rw [if_pos on]
  refine (if_neg (Nat.not_le.mpr listed)).trans ((if_pos spelt).trans ?_)
  simp [guarded, unclean, Hw.answer]

end On

/-- Settles O1: each instruction by the rule of issue that its answer falls under; the fetch's own three ways out. -/
theorem coreControl : Obligations.CoreControl := by
  unfold Obligations.CoreControl
  refine ⟨fun s c i => ?_, fun s c i => ⟨fun off => exec_off off i, fun on => ⟨fun reserved => ?_, fun fetches unclean => ?_,
    fun listed other => (act_eq (fetch_mismatch on listed other _) : execNop c i s = _)⟩⟩⟩
  · intro x on
    refine ⟨fun may => (act_issue_done may rfl rfl : execNop c i s = _), fun may => ?_, fun may => ?_,
      fun may => ⟨fun clear => ?_, fun ⟨t, pos, below, named, count⟩ => ?_⟩⟩
    · rw [← Nat.mod_mod i.imm.toNat 512]
      exact (act_issue_jump may rfl rfl : execBr c i s = _)
    · by_cases zero : x.sreg i.srcA.toNat = 0
      · rw [if_pos zero, if_pos zero, ← Nat.mod_mod i.imm.toNat 512]
        exact ⟨(act_issue_jump may rfl (if_pos zero) : execBrz c i s = _),
          (act_issue_done may rfl (if_pos zero) : execBrnz c i s = _)⟩
      · rw [if_neg zero, if_neg zero, ← Nat.mod_mod i.imm.toNat 512]
        exact ⟨(act_issue_done may rfl (if_neg zero) : execBrz c i s = _),
          (act_issue_jump may rfl (if_neg zero) : execBrnz c i s = _)⟩
    · exact (act_issue_done may rfl (if_pos ((toksClear_iff _ _).mpr clear)) : execWait c i s = _)
    · exact (act_issue_wait may rfl (if_neg fun clear => count ((toksClear_iff _ _).mp clear t pos below named)) :
        execWait c i s = _)
  · exact programError_halts on (act_eq (fetch_reserved on reserved _) : execNop c i s = _)
  · exact programError_halts on (act_eq (issue_unclean on fetches unclean) : execNop c i s = _)

end Sys2Proof.Machine
end

section
/-! # Tasks of a core: END, TRIG and the order of ready tasks (R74, R75) -/
namespace Sys2Proof.Machine

/-! ## The order of ready tasks -/

/-- Ready tasks come by priority, then by trigger cycle, then by index (R75). -/
theorem before_iff (x : CoreState) (a b : Ready) :
    x.before a b = true ↔ taskPrio (x.task b.task) < taskPrio (x.task a.task) ∨
      taskPrio (x.task a.task) = taskPrio (x.task b.task) ∧ (a.cycle < b.cycle ∨ a.cycle = b.cycle ∧ a.task < b.task) := by
  simp [CoreState.before]

/-- Two tasks come one before the other. -/
theorem before_total (x : CoreState) {a b : Ready} (differ : a.task ≠ b.task) : x.before a b = true ↔ ¬ x.before b a = true := by
  rw [before_iff, before_iff]
  omega

theorem best_nil {x : CoreState} (ready : x.ready = []) : x.best = none := by simp [CoreState.best, ready]

theorem best_single {x : CoreState} {r : Ready} (ready : x.ready = [r]) : x.best = some r := by simp [CoreState.best, ready]

theorem best_second {x : CoreState} {a b : Ready} (ready : x.ready = [a, b]) (first : x.before b a = true) :
    x.best = some b := by
  simp [CoreState.best, ready, first]

/-! ## Dispatch -/

theorem dispatch_idle {x : CoreState} (ready : x.ready = []) : x.dispatch = x := by
  simp [CoreState.dispatch, best_nil ready]

theorem dispatch_running {x : CoreState} (running : x.running.isSome = true) : x.dispatch = x := by
  obtain ⟨t, running⟩ := Option.isSome_iff_exists.mp running
  simp [CoreState.dispatch, running]

/-- A core that runs no task starts the one that comes first. -/
theorem dispatch_starts {x : CoreState} {r : Ready} (idle : x.running = none) (best : x.best = some r) :
    x.dispatch = { x with
      running := some r.task, pc := taskEntry (x.task r.task), ready := x.ready.filter fun q => decide (q.task ≠ r.task) } := by
  simp [CoreState.dispatch, idle, best]

/-! ## END and TRIG -/

/-- A task that neither runs nor is ready becomes ready. -/
theorem trigger_fresh {x : CoreState} {k : Nat} (now : Nat) (other : x.running ≠ some k) (unready : ∀ r ∈ x.ready, r.task ≠ k) :
    x.trigger now k = some { x with ready := x.ready ++ [{ task := k, cycle := now }] } := by
  have idle : (decide (x.running = some k) || x.ready.any fun r => decide (r.task = k)) = false := by
    simpa [other] using unready
  rw [CoreState.trigger, idle]
  rfl

/-- On a core that runs none and has none ready, the task that is triggered starts. -/
theorem trigger_starts {x : CoreState} (idle : x.running = none) (ready : x.ready = []) (now k : Nat) :
    ∃ y, x.trigger now k = some y ∧ y.dispatch = { x with running := some k, pc := taskEntry (x.task k) } := by
  have alone : x.ready ++ [{ task := k, cycle := now }] = [{ task := k, cycle := now }] := by rw [ready, List.nil_append]
  refine ⟨_, trigger_fresh now (by simp [idle]) (by simp [ready]), ?_⟩
  refine (dispatch_starts (x := { x with ready := x.ready ++ [{ task := k, cycle := now }] }) idle (best_single alone)).trans ?_
  simp [ready]
  rfl

section Running
variable {x : CoreState} {t : Nat} (running : x.running = some t)
include running

theorem endTask_none_pending (now : Nat) (none : nget 0 x.taskPend t = 0) :
    x.endTask now = CoreState.dispatch { x with running := Option.none } := by
  simp [CoreState.endTask, running, none]

theorem endTask_next {r : Ready} (now : Nat) (none : nget 0 x.taskPend t = 0) (best : x.best = some r) :
    x.endTask now = { x with
      running := some r.task, pc := taskEntry (x.task r.task), ready := x.ready.filter fun q => decide (q.task ≠ r.task) } :=
  (endTask_none_pending running now none).trans (dispatch_starts (x := { x with running := Option.none }) rfl best)

theorem endTask_pending (now : Nat) (pending : nget 0 x.taskPend t > 0) :
    x.endTask now = CoreState.dispatch { x with
      running := none, taskPend := nput 0 x.taskPend t (nget 0 x.taskPend t - 1), ready := x.ready ++ [{ task := t, cycle := now }] } := by
  simp [CoreState.endTask, running, pending]

/-- The task that runs is counted once more. -/
theorem trigger_running (now : Nat) (below : nget 0 x.taskPend t < 15) :
    x.trigger now t = some { x with taskPend := nput 0 x.taskPend t (nget 0 x.taskPend t + 1) } := by
  simp [CoreState.trigger, running, Nat.not_le.mpr below]

end Running

theorem exec_endTask {s : State} {c : CoreId} {i : Ins} (may : MayIssue s c 0 i {} true) {y : CoreState}
    (ends : (s.coreOf c).endTask s.hw.now = y) : exec (.endTask c i) s = .next (s.coreTo c y) := by
  obtain ⟨-, -, clean, -⟩ := id may
  refine (act_fetch may : execEndTask c i s = _).trans ?_
  rw [if_pos clean]
  exact congrArg (fun y => Host.Outcome.next (s.coreTo c y)) ends

/-- Triggers of one cycle that all count: the core goes to what they leave, and to the task that comes first. -/
theorem triggerTasks_single {s : Hw} {c k : Nat} {y : CoreState} (trigger : (s.core c).trigger s.now k = some y) :
    s.triggerTasks c [k] = s.setCore c y.dispatch := by
  simp [Hw.triggerTasks, trigger]

/-- A core set twice is as it was set last. -/
theorem coreGoes_twice (s : State) (c : CoreId) (x y : CoreState) :
    s.CoreGoes c y { s with hw := (s.hw.setCore c.toNat x).setCore c.toNat y } := by
  refine ⟨rfl, fun n => ?_⟩
  by_cases here : n = c.toNat <;> simp [here]

theorem exec_trig {s : State} {c : CoreId} {i : Ins} {y : CoreState} (may : MayIssue s c 11 i { imm := 0x1F } true)
    (valid : taskValid ((s.coreOf c).task i.imm.toNat) = true) (software : taskKind ((s.coreOf c).task i.imm.toNat) = 2)
    (trigger : (s.coreOf c).next.trigger s.hw.now i.imm.toNat = some y) (busy : y.running.isSome = true) :
    ∃ u, exec (.trig c i) s = .next u ∧ s.CoreGoes c y u := by
  obtain ⟨-, -, clean, -⟩ := id may
  have moved : (s.hw.onCore c.toNat CoreState.next).core c.toNat = (s.coreOf c).next :=
    (setCore_core _ _ _ _).trans (if_pos rfl)
  have goes : (taskValid ((s.hw.core c.toNat).task i.imm.toNat) &&
      decide (taskKind ((s.hw.core c.toNat).task i.imm.toNat) = 2)) = true :=
    Bool.and_eq_true_iff.mpr ⟨valid, decide_eq_true software⟩
  refine ⟨_, (act_fetch may : execTrig c i s = _), ?_⟩
  simp only [clean, Bool.not_true, Bool.false_eq_true, if_false, goes, if_true]
  rw [triggerTasks_single (moved.symm ▸ trigger), dispatch_running busy]
  exact coreGoes_twice s c _ y

/-- Settles O2: END by what the pending count leaves to dispatch, TRIG by what the trigger leaves to it. -/
theorem coreTasks : Obligations.CoreTasks := by
  unfold Obligations.CoreTasks
  intro s c i t x running
  refine ⟨fun may none => ⟨fun ready => ?_, fun r ready => ?_, fun a b ready differ first => ?_⟩, fun may pending ready => ?_,
    fun may valid software => ⟨fun other unready => ?_, fun same below => ?_⟩, fun a b differ => ?_⟩
  · exact exec_endTask may ((endTask_none_pending running _ none).trans (dispatch_idle ready))
  · refine exec_endTask may ((endTask_next running _ none (best_single ready)).trans ?_)
    simp [ready]
  · refine exec_endTask may ((endTask_next running _ none (best_second ready first)).trans ?_)
    simp [ready, differ]
  · have alone : x.ready ++ [{ task := t, cycle := s.hw.now }] = [{ task := t, cycle := s.hw.now }] := by
      rw [ready, List.nil_append]
    refine exec_endTask may ((endTask_pending running _ pending).trans ((dispatch_starts rfl (best_single alone)).trans ?_))
    simp [ready]
    rfl
  · exact exec_trig may valid software (trigger_fresh (x := x.next) _ (running ▸ other ∘ Option.some.inj) unready)
      (by rw [running]; rfl)
  · exact exec_trig may valid software (same ▸ trigger_running (x := x.next) running _ below) (by rw [running]; rfl)
  · refine ⟨before_total x differ, fun high => ?_, fun level early => ?_, fun level same low => ?_⟩ <;> rw [before_iff]
    · exact .inl high
    · exact .inr ⟨level, .inl early⟩
    · exact .inr ⟨level, .inr ⟨same, low⟩⟩

end Sys2Proof.Machine
end

section
/-! # Scalar and descriptor instructions (R53, R57, R61, R84, R86) -/
namespace Sys2Proof.Machine

/-- A write of one scalar and the step of the counter are what a scalar instruction leaves. -/
theorem scalarResult_setS (i : Ins) (v : W32) (x : CoreState) :
    ScalarResult i v x { x.setS i.dst.toNat v with pc := ((x.setS i.dst.toNat v).pc + 1) % 512 } := by
  refine ⟨?_, fun r _ => setS_sreg x i.dst.toNat r v⟩
  rw [setS_frame]

/-- A write of one descriptor and the step of the counter are what a descriptor instruction leaves. -/
theorem descResult_setD (i : Ins) (v : Desc) (x : CoreState) :
    DescResult i v x { x.setD i.dst.toNat v with pc := ((x.setD i.dst.toNat v).pc + 1) % 512 } :=
  ⟨rfl, fun r _ => setD_dreg x i.dst.toNat r v⟩

theorem leBytes_length (n v : Nat) : (leBytes n v).length = n := by
  induction n generalizing v with
  | zero => rfl
  | succ n ih => simp [leBytes, ih]

/-- STD with its 16 bytes inside the SRAM stores its descriptor there. -/
theorem exec_std {s : State} {c : CoreId} {i : Ins}
    (may : MayIssue s c 2 i { srcA := true, srcB := true, imm := 0xFFFFFFFF } (isS i.srcB))
    (unarmed : s.hw.tst.injArm = false) (inside : ((s.coreOf c).sreg i.srcB.toNat + i.imm).toNat + 16 ≤ sramSize) :
    exec (.std c i) s = .next (s.coreTo c { s.coreOf c with
      sram := nputList 0 (s.coreOf c).sram ((s.coreOf c).sreg i.srcB.toNat + i.imm).toNat
        (leBytes 16 ((s.coreOf c).dreg i.srcA.toNat).toNat)
      pc := ((s.coreOf c).pc + 1) % 512 }) :=
  (act_issueWrite_done (whole := fun t => wholeSpan (insSramAddr i (t.core c.toNat) i.srcB, 16)) (answer := fun _ => stdAnswer i)
    may unarmed rfl (if_neg (Nat.not_lt.mpr inside)) : execStd c i s = _)

/-- Settles O3: every instruction is done at once, and writes one register or the 16 bytes of a descriptor. -/
theorem coreScalarsAndDescriptors : Obligations.CoreScalarsAndDescriptors := by
  unfold Obligations.CoreScalarsAndDescriptors
  refine ⟨fun s c i => ?_, fun s c i => ?_⟩
  · intro x
    refine ⟨fun op may => ⟨_, (act_issue_done may rfl rfl : execScalarAlu c op i s = _), scalarResult_setS ..⟩,
      fun may => ⟨⟨_, (act_issue_done may rfl rfl : execLi c i s = _), scalarResult_setS ..⟩, fun low => ?_⟩, fun may seed => ?_⟩
    · exact ⟨_, (act_issue_done may rfl (if_neg (Nat.not_lt.mpr low)) : execCsrr c i s = _), scalarResult_setS ..⟩
    · exact (act_issue_done may rfl (if_pos (congrArg BitVec.toNat seed)) : execCsrw c i s = _)
  · intro x d
    refine ⟨fun fld may => ⟨_, (act_issue_done may rfl rfl : execSet c fld false i s = _), descResult_setD ..⟩,
      fun fld may => ⟨_, (act_issue_done may rfl rfl : execSet c fld true i s = _), descResult_setD ..⟩,
      fun may => ⟨_, (act_issue_done may rfl rfl : execSetf c i s = _), descResult_setD ..⟩,
      fun may => ⟨⟨_, (act_issue_done may rfl rfl : execAddb c i s = _), descResult_setD ..⟩, fun unarmed inside settled => ?_⟩,
      fun may unarmed inside => ⟨_, exec_std may unarmed inside, rfl, fun a => ?_⟩⟩
    · exact ⟨_, (act_issueRead_done may unarmed rfl
        ((if_neg (Nat.not_lt.mpr inside)).trans (if_neg (Bool.eq_false_iff.mp settled))) : execLdd c i s = _), descResult_setD ..⟩
    · exact (nget_nputList ..).trans (by rw [leBytes_length])

end Sys2Proof.Machine
end

section
/-! # Vector arithmetic (R70-R72, R100-R102; DESIGN CHOICE, log 190 and 191) -/
namespace Sys2Proof.Machine

/-! ## What an operation leaves -/

/-- The lanes of a vector register stand one after the other (R83). -/
theorem vlane_vector (x : CoreState) {r : Nat} (vector : r < 16) (l : Nat) : x.vlane r l = nget 0 x.vregs (16 * r + l) :=
  if_pos vector

theorem setVec_vlane (x : CoreState) (d : Nat) (m : Bool) (f : Nat → W32) {r l : Nat} (vector : r < 16) (lane : l < 16) :
    (x.setVec d m f).vlane r l = if r = d ∧ (m = false ∨ (x.sreg 15).getLsbD l = true) then f l else x.vlane r l := by
  have place : 16 * d ≤ 16 * r + l ∧ 16 * r + l < 16 * d + 16 ↔ r = d := by omega
  rw [vlane_vector _ vector, vlane_vector _ vector]
  refine (setVec_get ..).trans ?_
  by_cases dst : r = d
  · have here : 16 * r + l - 16 * d = l := by omega
    rw [here]
    simp [lane, dst, ← Bool.not_eq_true, or_iff_not_imp_left]
  · rw [if_neg fun h => dst (place.mp ⟨h.1, h.2.1⟩), if_neg fun h => dst h.1]

/-- A masked write of one vector register and the step of the counter are what a vector instruction leaves. -/
theorem vecResult_setVec (i : Ins) (f : Nat → W32) (x : CoreState) :
    VecResult i f x { x.setVec i.dst.toNat (masked i) f with pc := ((x.setVec i.dst.toNat (masked i) f).pc + 1) % 512 } := by
  exact ⟨by rw [setVec_frame], fun r vector l lane => setVec_vlane x _ _ f vector lane⟩

theorem setLane_vlane (x : CoreState) (d : Nat) (v : W32) {r l : Nat} (vector : r < 16) (lane : l < 16) :
    (x.setLane d 0 v).vlane r l = if r = d ∧ l = 0 then v else x.vlane r l := by
  rw [vlane_vector _ vector, vlane_vector _ vector]
  refine (nget_nput ..).trans (if_congr ?_ rfl rfl)
  omega

/-! ## The operations -/

section Free
variable {s : State} {c : CoreId} {i : Ins}

theorem vecOp_done (may : MayIssue s c 5 i useVec (isS i.dst))
    (free : ∀ r ∈ [i.dst, i.srcA, i.srcB], (s.coreOf c).owesV r.toNat = false) (f : W32 → W32 → W32 → W32) :
    ∃ y, s.act (fun t => vecOp c i t f) = .next (s.coreTo c y) ∧ VecResult i (fun l => f ((s.coreOf c).vlane i.srcA.toNat l)
      ((s.coreOf c).vlane i.srcB.toNat l) ((s.coreOf c).vlane i.dst.toNat l)) (s.coreOf c) y := by
  simp only [List.forall_mem_cons] at free
  obtain ⟨dst, srcA, srcB, -⟩ := free
  exact ⟨_, act_issue_done may rfl (if_neg (by simp [dst, srcA, srcB])), vecResult_setVec ..⟩

theorem vecOp1_done (may : MayIssue s c 6 i useVec1 (isS i.dst))
    (free : ∀ r ∈ [i.dst, i.srcA], (s.coreOf c).owesV r.toNat = false) (f : W32 → W32) :
    ∃ y, s.act (fun t => vecOp1 c i t f) = .next (s.coreTo c y) ∧
      VecResult i (fun l => f ((s.coreOf c).vlane i.srcA.toNat l)) (s.coreOf c) y := by
  simp only [List.forall_mem_cons] at free
  obtain ⟨dst, srcA, -⟩ := free
  exact ⟨_, act_issue_done may rfl (if_neg (by simp [dst, srcA])), vecResult_setVec ..⟩

theorem vecSelect_done (may : MayIssue s c 5 i { useVec with imm := 0xF } (isS i.dst))
    (free : ∀ r ∈ [i.dst, i.srcA, i.srcB], (s.coreOf c).owesV r.toNat = false) :
    ∃ y, exec (.vecSelect c i) s = .next (s.coreTo c y) ∧
      VecResult i (fun l => canonF32 (if ((s.coreOf c).sreg i.imm.toNat).getLsbD l then (s.coreOf c).vlane i.srcA.toNat l
        else (s.coreOf c).vlane i.srcB.toNat l)) (s.coreOf c) y := by
  simp only [List.forall_mem_cons] at free
  obtain ⟨dst, srcA, srcB, -⟩ := free
  exact ⟨_, (act_issue_done may rfl (if_neg (by simp [dst, srcA, srcB])) : execVecSelect c i s = _), vecResult_setVec ..⟩

theorem horizontal_done (may : MayIssue s c 5 i useVec1 (isS i.dst))
    (free : ∀ r ∈ [i.dst, i.srcA], (s.coreOf c).owesV r.toNat = false)
    (admitted : masked i = false ∨ ((s.coreOf c).sreg 15).getLsbD 0 = true) (f : W32 → W32 → W32) :
    s.act (fun t => horizontal c i t f) = .next (s.coreTo c { (s.coreOf c).setLane i.dst.toNat 0
      (pairTree f fun l => (s.coreOf c).vlane i.srcA.toNat l) with pc := ((s.coreOf c).pc + 1) % 512 }) := by
  simp only [List.forall_mem_cons] at free
  obtain ⟨dst, srcA, -⟩ := free
  have lane : ¬ (masked i && !((s.coreOf c).sreg 15).getLsbD 0) = true := by
    rcases admitted with plain | set
    · simp [plain]
    · simp only [set, Bool.not_true, Bool.and_false, Bool.false_eq_true, not_false_eq_true]
  exact act_issue_done may rfl ((if_neg (by simp [dst, srcA])).trans (if_neg lane))

/-- With lane 0 masked off a reduction only moves on. -/
theorem horizontal_masked (may : MayIssue s c 5 i useVec1 (isS i.dst))
    (free : ∀ r ∈ [i.dst, i.srcA], (s.coreOf c).owesV r.toNat = false)
    (mask : masked i = true) (off : ((s.coreOf c).sreg 15).getLsbD 0 = false) (f : W32 → W32 → W32) :
    s.act (fun t => horizontal c i t f) = .next (s.coreTo c { s.coreOf c with pc := ((s.coreOf c).pc + 1) % 512 }) := by
  simp only [List.forall_mem_cons] at free
  obtain ⟨dst, srcA, -⟩ := free
  have lane : (masked i && !((s.coreOf c).sreg 15).getLsbD 0) = true := by
    simp only [mask, off, Bool.not_false, Bool.and_true]
  exact act_issue_done may rfl ((if_neg (by simp [dst, srcA])).trans (if_pos lane))

end Free

/-- Settles O5: the lane-wise operations are `vecOp`, `vecOp1` and select; the reductions and compares write one place. -/
theorem vectorArithmetic : Obligations.VectorArithmetic := by
  unfold Obligations.VectorArithmetic
  refine ⟨fun s c i => ?_, fun s c i => ?_⟩
  · intro x a b goes free
    refine ⟨fun may frees => ⟨?_, ?_, ?_, ?_, ?_⟩, fun may frees => ⟨?_, ?_, ?_⟩, fun may frees => vecSelect_done may frees⟩
    · exact vecOp_done may frees fun a b _ => fadd a b
    · exact vecOp_done may frees fun a b _ => fmul a b
    · exact vecOp_done may frees fun a b d => ffma a b d
    · exact vecOp_done may frees fun a b _ => fmin a b
    · exact vecOp_done may frees fun a b _ => fmax a b
    · exact vecOp1_done may frees (expF32 0)
    · exact vecOp1_done may frees rcpF32
    · exact vecOp1_done may frees rsqF32
  · intro x a into0 free
    have lane0 (v : W32) (r : Nat) (vector : r < 16) (l : Nat) (lane : l < 16) :
        CoreState.vlane { x.setLane i.dst.toNat 0 v with pc := (x.pc + 1) % 512 } r l =
          if r = i.dst.toNat ∧ l = 0 then v else x.vlane r l := setLane_vlane x _ v vector lane
    refine ⟨fun may frees admitted => ⟨⟨_, horizontal_done may frees admitted fadd, rfl, lane0 _⟩,
        ⟨_, horizontal_done may frees admitted fmax, rfl, lane0 _⟩⟩,
      fun may frees mask off => horizontal_masked may frees mask off fadd, fun may frees op => ?_⟩
    simp only [free, List.forall_mem_cons] at frees
    obtain ⟨srcA, srcB, -⟩ := frees
    have masks : (fun l => if masked i && !(x.sreg 15).getLsbD l then (x.sreg i.dst.toNat).getLsbD l
        else compareLane op (a l) (x.vlane i.srcB.toNat l)) =
        fun l => if masked i = true ∧ (x.sreg 15).getLsbD l = false then (x.sreg i.dst.toNat).getLsbD l
          else compareLane op (a l) (x.vlane i.srcB.toNat l) := by
      funext l
      simp only [Bool.and_eq_true, Bool.not_eq_true']
    rw [← masks]
    exact ⟨_, (act_issue_done may rfl (if_neg (by simp [srcA, srcB, x])) : execVecCompare c op i s = _), scalarResult_setS ..⟩

end Sys2Proof.Machine
end

section
/-! # VLD, VST and CVT (R70, R103, R105-R107, R110) -/
namespace Sys2Proof.Machine

/-! ## Checks that an instruction passes -/

/-- A check that does not fire leaves the answer to those after it. -/
theorem passes {α : Type} {p : Prop} [Decidable p] {a b r : α} (quiet : ¬ p) (rest : b = r) : (if p then a else b) = r :=
  (if_neg quiet).trans rest

theorem not_bnot {a : Bool} (h : a = true) : ¬ (!a) = true := by simp [h]
theorem not_bor {a b : Bool} (h : ¬ a = true) (g : ¬ b = true) : ¬ (a || b) = true := by simp [h, g]
theorem not_band_left {a : Bool} (h : a = false) (b : Bool) : ¬ (a && b) = true := by simp [h]
theorem not_band_right {b : Bool} (a : Bool) (h : b = false) : ¬ (a && b) = true := by simp [h]

section Cvt
variable {s : State} {c : CoreId} {i : Ins} (may : MayIssue s c 8 i { useVec with mod := 0x9 } (isS i.srcB))
  (unarmed : s.hw.tst.injArm = false) (valid : dValid ((s.coreOf c).dreg i.dst.toNat) = true)
  (source : (s.coreOf c).owesV i.srcA.toNat = false)
include may unarmed valid source

/-- A CVT to a format without side data converts lane by lane. -/
theorem exec_cvt_lanes (mx : isMx (dFmt ((s.coreOf c).dreg i.dst.toNat)) = false)
    (lq4 : isLq4 (dFmt ((s.coreOf c).dreg i.dst.toNat)) = false)
    (inside : lineInSram ((s.coreOf c).dreg i.dst.toNat) ((s.coreOf c).sreg i.srcB.toNat) 16 = true) :
    exec (.cvt c i) s = .next (s.coreTo c { laneCvt (s.coreOf c) ((s.coreOf c).dreg i.dst.toNat) ((s.coreOf c).sreg i.srcB.toNat)
      i.srcA.toNat (i.mod.getLsbD 0) (masked i) with pc := ((s.coreOf c).pc + 1) % 512 }) := by
  have plain : (isMx (dFmt ((s.coreOf c).dreg i.dst.toNat)) || isLq4 (dFmt ((s.coreOf c).dreg i.dst.toNat))) = false := by
    rw [mx, lq4]; rfl
  have line : lineInSram ((s.coreOf c).dreg i.dst.toNat) ((s.coreOf c).sreg i.srcB.toNat)
      (if isMx (dFmt ((s.coreOf c).dreg i.dst.toNat)) || isLq4 (dFmt ((s.coreOf c).dreg i.dst.toNat)) then 32 else 16) = true := by
    rw [plain]; exact inside
  exact (act_issueWrite_done may unarmed rfl
    (passes (not_bnot valid) <| passes (not_band_left plain _) <| passes (not_band_left plain _) <|
      passes (not_band_left plain _) <| passes (not_bor (not_bnot line) (not_band_left plain _)) <|
      passes (not_band_left lq4 _) <| passes (not_band_left lq4 _) <|
      passes (not_bor (ne_true_of_eq_false source) (not_band_left plain _)) <| if_neg (ne_true_of_eq_false plain)) :
    execCvt c i s = _)

/-- A CVT to a block format converts 32 lanes with their scale. -/
theorem exec_cvt_block {d : Desc} {rc : W32} {line pos : Nat} (desc : (s.coreOf c).dreg i.dst.toNat = d)
    (place : (s.coreOf c).sreg i.srcB.toNat = rc) (onLine : lineOf d (alongAxis d rc 0).1 (alongAxis d rc 0).2 = line)
    (atPos : posOf d (alongAxis d rc 0).1 (alongAxis d rc 0).2 = pos)
    (block : isMx (dFmt d) = true ∨ isLq4 (dFmt d) = true) (second : (s.coreOf c).owesV (i.srcA.toNat + 1) = false)
    (inside : lineInSram d rc 32 = true) (unmasked : masked i = false) (even : i.srcA.toNat % 2 = 0) (whole : pos % 32 = 0)
    (scale : scaleAddr d line pos < sramSize)
    (book : isLq4 (dFmt d) = true → Settled s c [(bookAddr d line pos, 16)] ∧
      (codebook (s.coreOf c) d line pos).any (fun v => v.isFinite && !v.isZero) = true) :
    exec (.cvt c i) s = .next (s.coreTo c { blockCvt (s.coreOf c) d rc i.srcA.toNat (i.mod.getLsbD 0) with
      pc := ((s.coreOf c).pc + 1) % 512 }) := by
  subst desc place onLine atPos
  have blocks : (isMx (dFmt ((s.coreOf c).dreg i.dst.toNat)) || isLq4 (dFmt ((s.coreOf c).dreg i.dst.toNat))) = true := by
    simpa using block
  have lines : lineInSram ((s.coreOf c).dreg i.dst.toNat) ((s.coreOf c).sreg i.srcB.toNat)
      (if isMx (dFmt ((s.coreOf c).dreg i.dst.toNat)) || isLq4 (dFmt ((s.coreOf c).dreg i.dst.toNat)) then 32 else 16) = true := by
    rw [blocks]; exact inside
  exact (act_issueWrite_done may unarmed rfl
    (passes (not_bnot valid) <| passes (not_band_right _ unmasked) <|
      passes (not_band_right _ (decide_eq_false (by omega))) <| passes (not_band_right _ (decide_eq_false (not_not.mpr whole))) <|
      passes (not_bor (not_bnot lines) (not_band_right _ (decide_eq_false (Nat.not_le.mpr scale)))) <|
      passes (fun both => absurd (book (Bool.and_eq_true_iff.mp both).1).1 (ne_false_of_eq_true (Bool.and_eq_true_iff.mp both).2)) <|
      passes (fun both => not_bnot (book (Bool.and_eq_true_iff.mp both).1).2 (Bool.and_eq_true_iff.mp both).2) <|
      passes (not_bor (ne_true_of_eq_false source) (not_band_right _ second)) <| if_pos blocks) :
    execCvt c i s = _)

end Cvt

/-- Settles O6: each instruction passes its checks and is done; a CVT by its two forms, lanes and blocks. -/
theorem vectorMemory : Obligations.VectorMemory := by
  unfold Obligations.VectorMemory
  intro s c i x rc free unarmed
  refine ⟨fun may owed valid mx lq4 inside settled => ?_, fun may owed valid fp32 inside => ?_,
    fun may owed valid inside mx lq4 => exec_cvt_lanes may unarmed valid owed mx lq4 inside,
    fun may owed second valid inside block unmasked even whole scale book =>
      exec_cvt_block may unarmed valid owed rfl rfl rfl rfl block second inside unmasked even whole scale book⟩
  · exact ⟨_, (act_issueRead_done may unarmed rfl
      (passes (not_bor (not_bor (not_bnot valid) (ne_true_of_eq_false mx)) (ne_true_of_eq_false lq4)) <|
        passes (not_bnot inside) <| if_neg (not_bor (ne_true_of_eq_false owed) (ne_true_of_eq_false settled))) :
      execVld c i s = _), vecResult_setVec ..⟩
  · exact (act_issueWrite_done may unarmed rfl
      (passes (not_bor (not_bnot valid) (ne_true_of_eq_false (decide_eq_false (not_not.mpr fp32)))) <|
        passes (not_bnot inside) <| if_neg (ne_true_of_eq_false owed)) : execVst c i s = _)

end Sys2Proof.Machine
end

section
/-! # The anvil and the accumulator (R62-R68, R85, R110, R212) -/
namespace Sys2Proof.Machine

/-! ## Tokens -/

theorem tokAdd_eq (x : CoreState) (t : Nat) :
    x.tokAdd t = { x with toks := if t = 0 then x.toks else nput 0 x.toks t (nget 0 x.toks t + 1) } := by
  unfold CoreState.tokAdd
  split <;> rfl

theorem tokDone_eq (x : CoreState) (t : Nat) :
    x.tokDone t = { x with toks := if t = 0 then x.toks else nput 0 x.toks t (nget 0 x.toks t - 1) } := by
  unfold CoreState.tokDone
  split <;> rfl

/-- A token counts down by one; token 0 is none. -/
theorem tokDone_toks (x : CoreState) (tok t : Nat) :
    nget 0 (x.tokDone tok).toks t = if t ≠ 0 ∧ t = tok then nget 0 x.toks t - 1 else nget 0 x.toks t := by
  rw [tokDone_eq]
  by_cases none : tok = 0
  · have other : ¬ (t ≠ 0 ∧ t = tok) := by omega
    simp only [none, if_true, if_neg (none ▸ other)]
  · by_cases same : t = tok
    · simp [same, none]
    · simp [same, none]

/-! ## Regions of the accumulator -/

theorem mem_regionCells {m n : Nat} {p : Nat × Nat} : p ∈ regionCells m n ↔ p.1 < m ∧ p.2 < n := by
  obtain ⟨i, j⟩ := p
  simp [regionCells]

theorem regionCells_length (m n : Nat) : (regionCells m n).length = m * n := by
  simp [regionCells, List.length_flatMap]

/-- The cells of a list, from (ro, co), put to what `g` gives. -/
def CoreState.setCells (x : CoreState) (ro co : Nat) (g : Nat × Nat → W32) (cells : List (Nat × Nat)) : CoreState :=
  cells.foldl (fun y p => y.setAcc (ro + p.1) (co + p.2) (g p)) x

theorem setCells_frame (x : CoreState) (ro co : Nat) (g : Nat × Nat → W32) (cells : List (Nat × Nat)) :
    x.setCells ro co g cells = { x with acc := (x.setCells ro co g cells).acc } := by
  induction cells generalizing x with
  | nil => rfl
  | cons p cells ih => exact ih (x.setAcc (ro + p.1) (co + p.2) (g p))

theorem setAcc_accAt (x : CoreState) {row col r k : Nat} (v : W32) (width : col < 32) (inside : k < 32) :
    (x.setAcc row col v).accAt r k = if r = row ∧ k = col then v else x.accAt r k :=
  (nget_nput ..).trans (if_congr (by omega) rfl rfl)

theorem setCells_accAt {ro co row col : Nat} (g : Nat × Nat → W32) {cells : List (Nat × Nat)}
    (width : ∀ p ∈ cells, co + p.2 < 32) (inside : col < 32) (x : CoreState) :
    (x.setCells ro co g cells).accAt row col =
      if ro ≤ row ∧ co ≤ col ∧ (row - ro, col - co) ∈ cells then g (row - ro, col - co) else x.accAt row col := by
  induction cells generalizing x with
  | nil => simp [CoreState.setCells]
  | cons p cells ih =>
    obtain ⟨here, widths⟩ := List.forall_mem_cons.mp width
    refine (ih widths (x.setAcc (ro + p.1) (co + p.2) (g p))).trans ?_
    rw [setAcc_accAt x _ here inside]
    have place : row = ro + p.1 ∧ col = co + p.2 ↔ ro ≤ row ∧ co ≤ col ∧ (row - ro, col - co) = p := by
      rw [Prod.ext_iff]
      constructor
      · rintro ⟨rfl, rfl⟩; simp
      · rintro ⟨low, left, hr, hc⟩; simp only at hr hc; omega
    by_cases later : ro ≤ row ∧ co ≤ col ∧ (row - ro, col - co) ∈ cells
    · obtain ⟨low, left, mem⟩ := later
      rw [if_pos ⟨low, left, mem⟩, if_pos ⟨low, left, List.mem_cons_of_mem _ mem⟩]
    · rw [if_neg later]
      by_cases now : row = ro + p.1 ∧ col = co + p.2
      · obtain ⟨low, left, same⟩ := place.mp now
        rw [if_pos now, if_pos ⟨low, left, same ▸ List.mem_cons_self⟩, same]
      · refine (if_neg now).trans (if_neg ?_).symm
        rintro ⟨low, left, mem⟩
        rcases List.mem_cons.mp mem with same | mem
        · exact now (place.mpr ⟨low, left, same⟩)
        · exact later ⟨low, left, mem⟩

/-- A region put to what `g` gives, and the rest of the accumulator as it was. -/
theorem setRegion_accAt (x : CoreState) {ro co m n row col : Nat} (g : Nat × Nat → W32) (width : co + n ≤ 32) (inside : col < 32) :
    (x.setCells ro co g (regionCells m n)).accAt row col =
      if ro ≤ row ∧ row < ro + m ∧ co ≤ col ∧ col < co + n then g (row - ro, col - co) else x.accAt row col := by
  refine (setCells_accAt g (fun p mem => ?_) inside x).trans (if_congr ?_ rfl rfl)
  · have := (mem_regionCells.mp mem).2
    omega
  · rw [mem_regionCells]
    constructor
    · rintro ⟨low, left, high, right⟩; simp only at high right; omega
    · rintro ⟨low, high, left, right⟩; refine ⟨low, left, ?_, ?_⟩ <;> simp only <;> omega

/-- A cell inside a region that is put holds its value. -/
theorem setRegion_cell (x : CoreState) {ro co m n r k : Nat} (g : Nat × Nat → W32) (width : co + n ≤ 32) (row : r < m) (col : k < n) :
    (x.setCells ro co g (regionCells m n)).accAt (ro + r) (co + k) = g (r, k) := by
  rw [setRegion_accAt x g width (by omega), if_pos (by omega), Nat.add_sub_cancel_left, Nat.add_sub_cancel_left]

/-! ## Completions -/

section Complete
variable {s : State} {c : CoreId} (alive : (s.coreOf c).dead = false) (unarmed : s.hw.tst.injArm = false)
include alive unarmed

theorem exec_mmaComplete {q : MmaOp} {rest : List MmaOp} (queue : (s.coreOf c).anvil = q :: rest) :
    exec (.mmaComplete c) s = .next (s.coreTo c (CoreState.tokDone { mmaRun (s.coreOf c) q with anvil := rest } q.tok)) := by
  unfold State.coreOf at alive queue
  refine (act_eq ?_ : execMmaComplete c s = _)
  simp only [queue, alive, Bool.false_eq_true, if_false, sramChecked_unarmed unarmed]
  rfl

theorem exec_accComplete {o : AccOp} {rest : List AccOp} (queue : (s.coreOf c).accQ = o :: rest) :
    exec (.accComplete c) s = .next (s.coreTo c (CoreState.tokDone { accRun (s.coreOf c) o with accQ := rest } o.tok)) := by
  unfold State.coreOf at alive queue
  refine (act_eq ?_ : execAccComplete c s = _)
  simp only [queue, alive, Bool.false_eq_true, if_false, sramChecked_unarmed unarmed, ite_self]
  rfl

end Complete

theorem mmaRun_eq (x : CoreState) (o : MmaOp) : mmaRun x o = { x.setCells o.ro o.co (fun p =>
    mmaCell x.sram o (if o.acc then x.accAt (o.ro + p.1) (o.co + p.2) else 0) p.1 p.2) (regionCells o.m o.n) with
      transpose := transposeTile x o } := rfl

section Run
variable {x : CoreState} {o : AccOp}

theorem accRun_clr (kind : o.kind = .clr) : accRun x o = x.setCells o.ro o.co (fun _ => 0) (regionCells o.m o.n) := by
  unfold accRun
  rw [kind]
  rfl

theorem accRun_load (kind : o.kind = .load) :
    accRun x o = x.setCells o.ro o.co (fun p => f32of (elemVal x.sram o.desc p.1 p.2)) (regionCells o.m o.n) := by
  unfold accRun
  rw [kind]
  rfl

theorem accRun_tov (kind : o.kind = .tov) : accRun x o = x.setVec o.reg false fun l => x.accAt o.ro (o.co + l) := by
  unfold accRun
  rw [kind]
  rfl

theorem accRun_drain {stoch : Bool} (kind : o.kind = .drain stoch) : accRun x o = { x with
    sram := ((regionCells o.m o.n).zip (roundings stoch (o.m * o.n) x.srState).1).foldl (fun m e => elemPut m o.desc e.1.1 e.1.2
      (narrowCode (dFmt o.desc) e.2 (x.accAt (o.ro + e.1.1) (o.co + e.1.2)))) x.sram
    srState := (roundings stoch (o.m * o.n) x.srState).2 } := by
  unfold accRun
  rw [kind, ← regionCells_length]

/-- What no accumulator operation changes at its completion. -/
theorem accRun_keeps (x : CoreState) (o : AccOp) :
    (accRun x o).pc = x.pc ∧ (accRun x o).sregs = x.sregs ∧ (accRun x o).toks = x.toks := by
  cases kind : o.kind with
  | clr => rw [accRun_clr kind, setCells_frame]; exact ⟨rfl, rfl, rfl⟩
  | load => rw [accRun_load kind, setCells_frame]; exact ⟨rfl, rfl, rfl⟩
  | tov => rw [accRun_tov kind, setVec_frame]; exact ⟨rfl, rfl, rfl⟩
  | drain stoch => rw [accRun_drain kind]; exact ⟨rfl, rfl, rfl⟩

end Run

/-- Rounding to nearest draws nothing (R110). -/
theorem roundings_nearest (n : Nat) (g : W64) : roundings false n g = (List.replicate n .rne, g) := by
  induction n with
  | zero => rfl
  | succ n ih => simp [roundings, ih, List.replicate_succ]

theorem zip_replicate_length {α β : Type} (l : List α) (b : β) : l.zip (List.replicate l.length b) = l.map fun a => (a, b) := by
  rw [List.map_prod_left_eq_zip, List.map_const']

/-! ## Issue -/

/-- An accumulator operation whose region fits, with no MMA and no full token in its way, joins the queue. -/
theorem accIssue_done {x : CoreState} {o : AccOp} (rows : o.ro + o.m ≤ 32) (cols : o.co + o.n ≤ 32)
    (clear : x.mmaMeets o.ro o.co o.m o.n = false) (token : x.tokFull o.tok = false) :
    accIssue x o = .done { x with
      accQ := x.accQ ++ [o], toks := if o.tok = 0 then x.toks else nput 0 x.toks o.tok (nget 0 x.toks o.tok + 1) } :=
  passes (not_bor (ne_true_of_eq_false (decide_eq_false (Nat.not_lt.mpr rows)))
      (ne_true_of_eq_false (decide_eq_false (Nat.not_lt.mpr cols)))) <|
    (if_neg (not_bor (ne_true_of_eq_false clear) (ne_true_of_eq_false token))).trans (congrArg Issue.done (tokAdd_eq _ _))

/-- What an MMA without a program error answers (R64, R66, R85). -/
def mmaAnswer (x : CoreState) (o : MmaOp) : Issue :=
  if decide (x.anvil.length ≥ 4) || x.tokFull o.tok || x.accMeets o.ro o.co o.m o.n then .wait
  else .done (CoreState.tokAdd { x with anvil := x.anvil ++ [o] } o.tok)

theorem mmaAnswer_queued {x : CoreState} {o : MmaOp} (room : x.anvil.length < 4) (token : x.tokFull o.tok = false)
    (clear : x.accMeets o.ro o.co o.m o.n = false) :
    mmaAnswer x o = .done { x with
      anvil := x.anvil ++ [o], toks := if o.tok = 0 then x.toks else nput 0 x.toks o.tok (nget 0 x.toks o.tok + 1) } :=
  (if_neg (not_bor (not_bor (ne_true_of_eq_false (decide_eq_false (Nat.not_le.mpr room))) (ne_true_of_eq_false token))
    (ne_true_of_eq_false clear))).trans (congrArg Issue.done (tokAdd_eq _ _))

theorem mmaAnswer_full {x : CoreState} (full : x.anvil.length ≥ 4) (o : MmaOp) : mmaAnswer x o = .wait := by
  simp [mmaAnswer, full]

section Issue
variable {s : State} {c : CoreId} {i : Ins}

theorem exec_mma (may : MayIssue s c 3 i { tok := true, srcA := true, srcB := true, mod := 0xE, imm := 0xFFFFFFFF } true)
    (op : bits (s.coreOf c).word.toNat 59 54 = 0) (legal : mmaError (s.coreOf c) (mmaOf (s.coreOf c) i) = none) :
    exec (.mma c i) s = .next { s with hw := s.hw.answer c.toNat (mmaAnswer (s.coreOf c) (mmaOf (s.coreOf c) i)) } := by
  obtain ⟨-, -, clean, -⟩ := id may
  refine (act_eq ?_ : execMma c i s = _)
  unfold Hw.issue
  rw [fetch_ok s c 3 i _ _ _ may]
  unfold State.coreOf at op legal ⊢
  simp only [op, legal, guarded_of_clean clean rfl, ne_eq, not_true_eq_false, if_false]
  rfl

/-- A drain that its descriptor allows is an accumulator operation like any other (R67). -/
theorem exec_drain {y : CoreState} {d : Desc} {o : AccOp} (desc : (s.coreOf c).dreg i.dst.toNat = d)
    (region : accRegion i (.drain (i.mod.getLsbD 0 || s.hw.stochasticGrad c.toNat (dFmt d))) d = o)
    (may : MayIssue s c 4 i { tok := true, dst := true, mod := 0x1, imm := 0xFFFFF } true) (valid : dValid d = true)
    (aligned : dAligned d = true) (format : dFmt d ≤ 4) (inside : dInSram d o.m o.n = true)
    (done : accIssue (s.coreOf c) o = .done y) :
    exec (.drain c i) s = .next (s.coreTo c { y with pc := (y.pc + 1) % 512 }) := by
  subst desc region
  have legal : (dValid ((s.coreOf c).dreg i.dst.toNat) && dAligned ((s.coreOf c).dreg i.dst.toNat) &&
      drainFmt (dFmt ((s.coreOf c).dreg i.dst.toNat))) = true := by simp [valid, aligned, drainFmt, format]
  exact (act_issue_done may rfl (passes (not_bnot legal) <| passes (not_bnot inside) done) : execDrain c i s = _)

theorem exec_load {y : CoreState} {d : Desc} (desc : (s.coreOf c).dreg i.srcA.toNat = d)
    (may : MayIssue s c 4 i { tok := true, srcA := true, imm := 0xFFFFF } true) (valid : dValid d = true) (fp32 : dFmt d = 0)
    (inside : dInSram d (accRegion i .load d).m (accRegion i .load d).n = true)
    (done : accIssue (s.coreOf c) (accRegion i .load d) = .done y) :
    exec (.load c i) s = .next (s.coreTo c { y with pc := (y.pc + 1) % 512 }) := by
  subst desc
  have legal : (dValid ((s.coreOf c).dreg i.srcA.toNat) && decide (dFmt ((s.coreOf c).dreg i.srcA.toNat) = 0)) = true := by
    simp [valid, fp32]
  exact (act_issue_done may rfl (passes (not_bnot legal) <| passes (not_bnot inside) done) : execLoad c i s = _)

end Issue

/-- The first accumulator operation in progress writes what its kind says, and nothing else but its queue and its token. -/
theorem accRun_effect (x : CoreState) (o : AccOp) :
    (o.kind = .clr → (accRun x o).sram = x.sram ∧ (accRun x o).vregs = x.vregs ∧ ∀ r < o.m, ∀ k < o.n, o.co + o.n ≤ 32 →
      (accRun x o).accAt (o.ro + r) (o.co + k) = 0) ∧
    (o.kind = .load → (accRun x o).sram = x.sram ∧ (accRun x o).vregs = x.vregs ∧ ∀ r < o.m, ∀ k < o.n, o.co + o.n ≤ 32 →
      (accRun x o).accAt (o.ro + r) (o.co + k) = f32of (elemVal x.sram o.desc r k)) ∧
    (o.kind = .tov → (accRun x o).sram = x.sram ∧ (accRun x o).acc = x.acc ∧ ∀ r < 16, ∀ l < 16,
      (accRun x o).vlane r l = if r = o.reg then x.accAt o.ro (o.co + l) else x.vlane r l) ∧
    (o.kind = .drain false → (accRun x o).acc = x.acc ∧ (accRun x o).vregs = x.vregs ∧ (accRun x o).srState = x.srState ∧
      (accRun x o).sram = (regionCells o.m o.n).foldl (fun m p => elemPut m o.desc p.1 p.2
        (narrowCode (dFmt o.desc) .rne (x.accAt (o.ro + p.1) (o.co + p.2)))) x.sram) ∧
    (o.kind = .drain true → (accRun x o).acc = x.acc ∧ (accRun x o).vregs = x.vregs ∧
      (accRun x o).srState = (roundings true (o.m * o.n) x.srState).2 ∧
      (accRun x o).sram = ((regionCells o.m o.n).zip (roundings true (o.m * o.n) x.srState).1).foldl
        (fun m e => elemPut m o.desc e.1.1 e.1.2
          (narrowCode (dFmt o.desc) e.2 (x.accAt (o.ro + e.1.1) (o.co + e.1.2)))) x.sram) := by
  refine ⟨fun kind => ?_, fun kind => ?_, fun kind => ?_, fun kind => ?_, fun kind => ?_⟩
  · refine ⟨?_, ?_, fun r row k col width => ?_⟩
    · rw [accRun_clr kind, setCells_frame]
    · rw [accRun_clr kind, setCells_frame]
    · rw [accRun_clr kind, setRegion_cell x _ width row col]
  · refine ⟨?_, ?_, fun r row k col width => ?_⟩
    · rw [accRun_load kind, setCells_frame]
    · rw [accRun_load kind, setCells_frame]
    · rw [accRun_load kind, setRegion_cell x _ width row col]
  · refine ⟨?_, ?_, fun r vector l lane => ?_⟩
    · rw [accRun_tov kind, setVec_frame]
    · rw [accRun_tov kind, setVec_frame]
    · rw [accRun_tov kind, setVec_vlane x _ _ _ vector lane]
      simp
  · rw [accRun_drain kind, roundings_nearest, ← regionCells_length, zip_replicate_length, List.foldl_map]
    exact ⟨rfl, rfl, rfl, rfl⟩
  · rw [accRun_drain kind]
    exact ⟨rfl, rfl, rfl, rfl⟩

/-- Settles O4: MMA and the accumulator operations join their queue; a completion writes a region, a register or the SRAM by
the kind of what it completes. -/
theorem anvilAndAccumulator : Obligations.AnvilAndAccumulator := by
  unfold Obligations.AnvilAndAccumulator
  refine ⟨fun s c i => ?_, fun s c i => ?_⟩
  · intro x o
    refine ⟨fun may op legal => ⟨fun room token clear => ?_, fun full => ?_⟩, fun q rest queue alive unarmed rows cols => ?_⟩
    · rw [exec_mma may op legal, mmaAnswer_queued room token clear]
      rfl
    · rw [exec_mma may op legal, mmaAnswer_full full]
      rfl
    · refine ⟨_, exec_mmaComplete alive unarmed queue, ?_, fun row col _ width => ?_, fun t => (tokDone_toks _ q.tok t).trans ?_⟩
      · rw [tokDone_eq, mmaRun_eq, setCells_frame]
      · rw [tokDone_eq, mmaRun_eq]
        refine (setRegion_accAt x _ cols width).trans (ite_congr rfl (fun inside => ?_) fun _ => rfl)
        obtain ⟨low, -, left, -⟩ := inside
        rw [Nat.add_sub_cancel' low, Nat.add_sub_cancel' left]
      · rw [mmaRun_eq, setCells_frame]
  · intro x queued
    refine ⟨fun may rows cols clear token => (act_issue_done may rfl (accIssue_done rows cols clear token) : execClr c i s = _),
      fun may valid aligned format inside rows cols clear token =>
        exec_drain rfl rfl may valid aligned format inside (accIssue_done rows cols clear token),
      fun may valid fp32 inside rows cols clear token =>
        exec_load rfl may valid fp32 inside (accIssue_done rows cols clear token),
      fun may rows cols clear token => (act_issue_done may rfl (accIssue_done rows cols clear token) : execTov c i s = _),
      fun o rest queue alive unarmed => ?_⟩
    obtain ⟨pc, sregs, toks⟩ := accRun_keeps x o
    obtain ⟨clr, load, tov, nearest, stochastic⟩ := accRun_effect x o
    have counts := tokDone_toks { accRun x o with accQ := rest } o.tok
    have frame := tokDone_eq { accRun x o with accQ := rest } o.tok
    refine ⟨_, exec_accComplete alive unarmed queue, ?_⟩
    rw [frame] at counts ⊢
    exact ⟨rfl, pc, sregs, fun t => (counts t).trans (by rw [toks]), clr, load, tov, nearest, stochastic⟩

end Sys2Proof.Machine
end

section
/-! # SEND, CHAN and the arrival of a message (R74, R75, R77, R78, R85, R87, R118-R122; log 43, log 192) -/
namespace Sys2Proof.Machine

/-! ## Messages that leave -/

/-- The message of a SEND on a route entry of the local plane, all of it at its source (R118, R122). -/
theorem coreMsg_local {s : Hw} {c w dest : Nat} {ep : Bool} (onLocal : bit w 26 = false) (route : routeDest c w = some (dest, ep))
    (channel kind : Nat) (response : Bool) (tok : Nat) (payload : List Byte) :
    ∃ m, coreMsg s c w channel kind response tok payload = some m ∧ m.dest = dest ∧ m.destEndpoint = ep ∧
      m.source = c ∧ m.sourceEndpoint = false ∧ m.payload = payload ∧ m.channel = channel ∧
      m.waypoint = (if bit w 28 then some (bits w 43 29) else none) ∧ m.yFirst = bit w 27 ∧ m.arrived = false ∧
      m.express = false ∧ m.bufs = [] ∧ m.waiting = 1 + (m.payload.length + 15) / 16 ∧ m.tok = tok ∧ m.beat = s.stk.beat := by
  simp [coreMsg, route, onLocal, flitsOf]

/-- A message of the local plane joins the fabric, and nothing else changes (R115). -/
theorem injectMsg_local {s : Hw} {c w channel kind tok : Nat} {response : Bool} {payload : List Byte} {m : FMsg}
    (msg : coreMsg s c w channel kind response tok payload = some m) (onLocal : m.express = false) :
    s.injectMsg c w channel kind response tok payload = { s with fabric := s.fabric ++ [m] } := by
  simp [Hw.injectMsg, msg, onLocal]

section Send
variable {s : State} {c : CoreId} {i : Ins}
  (may : MayIssue s c 9 i { tok := true, srcA := true, mod := 1, imm := 0xFFFF } true)
  (valid : dValid ((s.coreOf c).dreg i.srcA.toNat) = true)
  (inside : dInSram ((s.coreOf c).dreg i.srcA.toNat) (dRows ((s.coreOf c).dreg i.srcA.toNat))
    (dCols ((s.coreOf c).dreg i.srcA.toNat)) = true)
  (fits : dRows ((s.coreOf c).dreg i.srcA.toNat) * rowBytes ((s.coreOf c).dreg i.srcA.toNat) ≤ 4096)
  (token : (s.coreOf c).tokFull i.tok.toNat = false) (unarmed : s.hw.tst.injArm = false)
include may valid inside fits token unarmed

/-- A SEND that passes its checks injects its descriptor's bytes, and its core moves on. -/
theorem exec_send : exec (.send c i) s = .next { s with
    hw := (s.hw.onCore c.toNat fun x => (x.tokAdd i.tok.toNat).next).injectMsg c.toNat
      (nget 0 (s.coreOf c).routes (i.imm.toNat % 256)).toNat (bits i.imm.toNat 11 8) (bits i.imm.toNat 15 12)
      (bit i.mod.toNat 0) i.tok.toNat (descBytes (s.coreOf c).sram ((s.coreOf c).dreg i.srcA.toNat)) } := by
  obtain ⟨-, -, clean, -⟩ := id may
  refine (act_eq ((fetch_ok s c 9 i _ _ _ may).trans ?_) : execSend c i s = _)
  exact passes (not_bnot clean) <| passes (not_bnot valid) <| passes (not_bnot inside) <| passes (Nat.not_lt.mpr fits) <|
    passes (ne_true_of_eq_false token) <| sramChecked_unarmed unarmed _ _

end Send

/-! ## Messages that arrive -/

/-- The first message that has arrived for a core, one that may take it, and the fabric without it. -/
structure Arrival (s : State) (c : CoreId) (n : Nat) (m : FMsg) : Prop where
  first : s.hw.arrivedFor c.toNat = some n
  msg : s.hw.fabric[n]? = some m
  alive : (s.coreOf c).dead = false
  open' : (s.coreOf c).gated = false
  mapped : (s.coreOf c).mapped = true

/-- The fabric without message `n`. -/
def State.without (s : State) (n : Nat) : State := { s with hw := { s.hw with fabric := s.hw.fabric.eraseIdx n } }

section Arrives
variable {s : State} {c : CoreId} {n : Nat} {m : FMsg} (arrives : Arrival s c n m)
include arrives

theorem exec_arrival_poisoned (poisoned : m.poisoned = true) : exec (.coreMessageArrival c) s = .next (s.without n) := by
  refine (act_eq ?_ : execCoreMessageArrival c s = _)
  simp only [arrives.first, arrives.msg, poisoned, Bool.true_or, if_true]

theorem exec_arrival_misfit (clean : m.poisoned = false) (misfit : (nget {} (s.coreOf c).chans m.channel).bound = false ∨
      (nget {} (s.coreOf c).chans m.channel).wp + m.payload.length > (nget {} (s.coreOf c).chans m.channel).len) :
    exec (.coreMessageArrival c) s = .next { s.without n with hw := (s.without n).hw.programError c.toNat 0x08 } := by
  refine (act_eq ?_ : execCoreMessageArrival c s = _)
  simp only [arrives.first, arrives.msg]
  refine passes (not_bor (not_bor (not_bor (ne_true_of_eq_false clean) (ne_true_of_eq_false arrives.alive))
    (ne_true_of_eq_false arrives.open')) (not_bnot arrives.mapped)) (if_pos ?_)
  rcases misfit with unbound | long
  · exact Bool.or_eq_true_iff.mpr (.inl (by rw [Bool.not_eq_true']; exact unbound))
  · exact Bool.or_eq_true_iff.mpr (.inr (decide_eq_true long))

theorem exec_arrival_received (clean : m.poisoned = false) (unarmed : s.hw.tst.injArm = false)
    (bound : (nget {} (s.coreOf c).chans m.channel).bound = true)
    (fits : (nget {} (s.coreOf c).chans m.channel).wp + m.payload.length ≤ (nget {} (s.coreOf c).chans m.channel).len)
    (inside : (nget {} (s.coreOf c).chans m.channel).start + (nget {} (s.coreOf c).chans m.channel).wp + m.payload.length ≤ sramSize) :
    exec (.coreMessageArrival c) s = .next { s.without n with hw := (s.without n).hw.receive c.toNat m } := by
  refine (act_eq ?_ : execCoreMessageArrival c s = _)
  simp only [arrives.first, arrives.msg]
  refine passes (not_bor (not_bor (not_bor (ne_true_of_eq_false clean) (ne_true_of_eq_false arrives.alive))
    (ne_true_of_eq_false arrives.open')) (not_bnot arrives.mapped)) <|
    passes (not_bor (not_bnot bound) (ne_true_of_eq_false (decide_eq_false (Nat.not_lt.mpr fits)))) <|
    passes (Nat.not_lt.mpr inside) ?_
  split
  · rfl
  · exact sramChecked_unarmed (s := (s.without n).hw) unarmed _ _

end Arrives

/-- The core after a payload is written at its channel's write pointer and its count is put to `count` (R78). -/
def CoreState.taken (x : CoreState) (m : FMsg) (count : Nat) : CoreState :=
  { x with
    sram := nputList 0 x.sram ((nget {} x.chans m.channel).start + (nget {} x.chans m.channel).wp) m.payload
    chans := nput {} x.chans m.channel { nget {} x.chans m.channel with
      wp := (nget {} x.chans m.channel).wp + m.payload.length, count := count } }

theorem receive_eq (s : Hw) (c : Nat) (m : FMsg) {ts : List Nat}
    (tasks : (s.core c).arrivalTasks m.channel ((nget {} (s.core c).chans m.channel).count + 1) = ts) :
    s.receive c m = (s.setCore c ((s.core c).taken m
      (if ts.isEmpty then (nget {} (s.core c).chans m.channel).count + 1 else 0))).triggerTasks c ts := by
  subst tasks
  rfl

/-- Where no arrival task has its count, the message is counted and no more. -/
theorem receive_counts {s : Hw} {c : Nat} {m : FMsg}
    (none : (s.core c).arrivalTasks m.channel ((nget {} (s.core c).chans m.channel).count + 1) = [])
    (settled : (s.core c).running.isSome = true ∨ (s.core c).ready = []) :
    s.receive c m = (s.setCore c ((s.core c).taken m ((nget {} (s.core c).chans m.channel).count + 1))).setCore c
      ((s.core c).taken m ((nget {} (s.core c).chans m.channel).count + 1)) := by
  have still (n : Nat) : ((s.core c).taken m n).dispatch = (s.core c).taken m n :=
    settled.elim (dispatch_running (x := (s.core c).taken m n)) (dispatch_idle (x := (s.core c).taken m n))
  rw [receive_eq s c m none, Hw.triggerTasks, List.foldl_nil, setCore_core, if_pos rfl]
  exact congrArg (Hw.setCore _ c) (still _)

/-- The arrival task whose count is reached starts on a core that runs none and has none ready. -/
theorem receive_starts {s : Hw} {c k : Nat} {m : FMsg}
    (task : (s.core c).arrivalTasks m.channel ((nget {} (s.core c).chans m.channel).count + 1) = [k])
    (idle : (s.core c).running = none) (ready : (s.core c).ready = []) :
    s.receive c m = (s.setCore c ((s.core c).taken m 0)).setCore c
      { (s.core c).taken m 0 with running := some k, pc := taskEntry ((s.core c).task k) } := by
  obtain ⟨y, trigger, starts⟩ := trigger_starts (x := (s.core c).taken m 0) idle ready s.now k
  have here : (s.setCore c ((s.core c).taken m 0)).core c = (s.core c).taken m 0 := (setCore_core ..).trans (if_pos rfl)
  have result := triggerTasks_single (s := s.setCore c ((s.core c).taken m 0)) (here.symm ▸ trigger)
  rw [starts] at result
  exact (receive_eq s c m task).trans result

/-- Settles O7: a SEND is one message in the fabric; an arrival is received, lost or stops its core, and what is received
goes to the task whose count it reaches. -/
theorem coreMessages : Obligations.CoreMessages := by
  unfold Obligations.CoreMessages
  refine ⟨fun s c i => ?_, fun s c n m => ?_⟩
  · intro x d w
    refine ⟨fun may valid inside fits token unarmed onLocal dest ep route => ?_, fun may fits => ?_⟩
    · obtain ⟨m, msg, fields⟩ := coreMsg_local (s := s.hw.onCore c.toNat fun x => (x.tokAdd i.tok.toNat).next) onLocal route
        (bits i.imm.toNat 11 8) (bits i.imm.toNat 15 12) (bit i.mod.toNat 0) i.tok.toNat (descBytes x.sram d)
      obtain ⟨-, -, -, -, -, -, -, -, -, express, -⟩ := id fields
      refine ⟨m, ?_, fields⟩
      rw [exec_send may valid inside fits token unarmed, injectMsg_local msg express, Hw.onCore, tokAdd_eq]
      rfl
    · exact (act_issue_done may rfl (if_neg (Nat.not_lt.mpr fits)) : execChan c i s = _)
  · intro x ch without taken first msg alive open' mapped unarmed
    have arrives : Arrival s c n m := ⟨first, msg, alive, open', mapped⟩
    refine ⟨fun clean bound fits inside => ⟨fun none settled => ?_, fun k task idle ready => ?_⟩,
      fun poisoned => exec_arrival_poisoned arrives poisoned, fun clean misfit => ?_⟩
    · refine ⟨_, exec_arrival_received arrives clean unarmed bound fits inside, ?_⟩
      rw [receive_counts (s := (s.without n).hw) none settled]
      exact coreGoes_twice (s.without n) c _ _
    · refine ⟨_, exec_arrival_received arrives clean unarmed bound fits inside, ?_⟩
      rw [receive_starts (s := (s.without n).hw) task idle ready]
      exact coreGoes_twice (s.without n) c _ _
    · have core : ((s.without n).hw.programError c.toNat 0x08).core c.toNat = { x with stopped := true } :=
        (programError_core ..).trans (if_pos rfl)
      exact ⟨_, exec_arrival_misfit arrives clean misfit, congrArg (·.stopped) core, congrArg (·.sram) core,
        programError_uncontained ..⟩

end Sys2Proof.Machine
end

section
/-! # Bonded memory transfers of cores (R84, R85, R131, R323, R326; log 193)

A transfer changes its core alone where it loads, and where it stores the bytes of its lines too: no store moves a page, so
that each line stays where it stands while the lines before it are written. -/
namespace Sys2Proof.Machine

/-! ## Issue -/

theorem portIssue_done {s : State} {c : CoreId} {i : Ins} {d : Desc} {v : W32} (desc : (s.coreOf c).dreg i.srcA.toNat = d)
    (place : (s.coreOf c).sreg i.srcB.toNat = v)
    (may : MayIssue s c 10 i { tok := true, srcA := true, srcB := true } (isS i.srcB)) (valid : dValid d = true)
    (inside : dInSram d (dRows d) (dCols d) = true) (token : (s.coreOf c).tokFull i.tok.toNat = false) (store : Bool) :
    s.hw.portIssue c.toNat i store = (s.hw.setCore c.toNat { s.coreOf c with
      portQ := (s.coreOf c).portQ ++ [{
        store := store, desc := d, wafer := portWafer v, line := portLine v
        stroke := s.hw.curBeat.1, beat := s.hw.curBeat.2, reread := false, tok := i.tok.toNat }]
      toks := if i.tok.toNat = 0 then (s.coreOf c).toks
        else nput 0 (s.coreOf c).toks i.tok.toNat (nget 0 (s.coreOf c).toks i.tok.toNat + 1)
      pc := ((s.coreOf c).pc + 1) % 512 }).arbRaise (coreField c.toNat) 0 (coreBlock c.toNat) (coreIndex c.toNat)
        (lineCount d) := by
  obtain ⟨-, -, clean, spaces⟩ := id may
  subst desc place
  refine (fetch_ok s c 10 i _ _ _ may).trans ?_
  refine passes (not_bnot clean) <| passes (not_bnot spaces) <| passes (not_bnot valid) <| passes (not_bnot inside) <|
    passes (ne_true_of_eq_false token) ?_
  dsimp only
  rw [tokAdd_eq]
  rfl

/-! ## Where the lines stand -/

/-- What a store of a line leaves: the cores, and where the bytes of bonded memory stand. -/
structure SameLines (s t : Hw) : Prop where
  cores : t.cores = s.cores
  homes : t.tng.homes = s.tng.homes
  sec : t.tng.sec = s.tng.sec

theorem SameLines.refl (s : Hw) : SameLines s s := ⟨rfl, rfl, rfl⟩
theorem SameLines.trans {s t u : Hw} (h : SameLines s t) (g : SameLines t u) : SameLines s u :=
  ⟨g.cores.trans h.cores, g.homes.trans h.homes, g.sec.trans h.sec⟩

theorem SameLines.bondedAt {s t : Hw} (h : SameLines s t) (f w a : Nat) : t.bondedAt f w a = s.bondedAt f w a := by
  unfold Hw.bondedAt Hw.inPool Hw.frameHome
  rw [h.homes, h.sec]

/-- Dirty pieces go to the orders of their page, and their copies to the arbiters (R279). -/
theorem markDirty_orders (s : Hw) (off n : Nat) :
    ∃ arbs orders, s.markDirty off n = { s with arbs := arbs, tng := { s.tng with orders := orders } } := by
  unfold Hw.markDirty
  split
  · exact ⟨s.arbs, s.tng.orders, rfl⟩
  · refine List.foldlRecOn _ _
      (motive := fun t : Hw => ∃ arbs orders, t = { s with arbs := arbs, tng := { s.tng with orders := orders } })
      ⟨s.arbs, _, rfl⟩ fun t ⟨arbs, orders, same⟩ o _ => ?_
    obtain ⟨next, raised⟩ := raisePieces_arbs t o _
    subst same
    exact ⟨next, orders, raised⟩

theorem lineWrite_same (s : Hw) (f w line : Nat) (bs : List Byte) : SameLines s (s.lineWrite f w line bs) := by
  obtain ⟨arbs, orders, marked⟩ := markDirty_orders s (s.bondedAt f w (line * 64)) bs.length
  unfold Hw.lineWrite
  dsimp only
  rw [marked]
  split
  · exact .refl s
  · exact ⟨rfl, rfl, rfl⟩

/-- A store of a line changes no byte outside the line. -/
theorem lineWrite_elsewhere (s : Hw) {f w line a : Nat} {bs : List Byte} (size : bs.length ≤ 64)
    (outside : a < s.bondedAt f w (line * 64) ∨ s.bondedAt f w (line * 64) + 64 ≤ a) :
    nget 0 (s.lineWrite f w line bs).mem a = nget 0 s.mem a := by
  obtain ⟨arbs, orders, marked⟩ := markDirty_orders s (s.bondedAt f w (line * 64)) bs.length
  unfold Hw.lineWrite
  dsimp only
  rw [marked]
  split
  · rfl
  · exact (nget_nputList ..).trans (if_neg (by omega))

/-- A line outside the migrating range holds the bytes that are stored to it. -/
theorem lineWrite_direct {s : Hw} {f w line : Nat} (bs : List Byte) (direct : s.bondedAt f w (line * 64) < migBase) :
    (s.lineWrite f w line bs).mem = nputList 0 s.mem (s.bondedAt f w (line * 64)) bs := by
  simp [Hw.lineWrite, Hw.lineLost, Hw.markDirty, Hw.memWrite, direct, Nat.not_le.mpr direct]

/-- The lines of a transfer stored one after the other. -/
theorem storeLines (f w : Nat) (line : Nat → Nat) (chunk : Nat → List Byte) (size : ∀ k, (chunk k).length ≤ 64) (ks : List Nat)
    (s : Hw) :
    SameLines s (ks.foldl (fun s k => s.lineWrite f w (line k) (chunk k)) s) ∧
    ∀ a, (∀ k ∈ ks, a < s.bondedAt f w (line k * 64) ∨ s.bondedAt f w (line k * 64) + 64 ≤ a) →
      nget 0 (ks.foldl (fun s k => s.lineWrite f w (line k) (chunk k)) s).mem a = nget 0 s.mem a := by
  induction ks generalizing s with
  | nil => exact ⟨.refl s, fun _ _ => rfl⟩
  | cons k ks ih =>
    have first := lineWrite_same s f w (line k) (chunk k)
    obtain ⟨same, bytes⟩ := ih (s.lineWrite f w (line k) (chunk k))
    refine ⟨first.trans same, fun a outside => ?_⟩
    obtain ⟨here, later⟩ := List.forall_mem_cons.mp outside
    refine (bytes a fun j mem => ?_).trans (lineWrite_elsewhere s (size k) here)
    rw [first.bondedAt]
    exact later j mem

/-! ## Completion -/

/-- A core after the transfer at the head of its port queue, before the bytes of a load. -/
def CoreState.ported (x : CoreState) (o : PortOp) (rest : List PortOp) : CoreState := { x with
  portQ := rest, portMoved := x.portMoved - lineCount o.desc
  toks := if o.tok = 0 then x.toks else nput 0 x.toks o.tok (nget 0 x.toks o.tok - 1) }

/-- A core after a load whose lines gave `got`. -/
def CoreState.loaded (x : CoreState) (o : PortOp) (rest : List PortOp) (got : Nat → List Byte) : CoreState :=
  { x.ported o rest with
    sram := putDescBytes x.sram o.desc (padTo (descLen o.desc) ((List.range (lineCount o.desc)).flatMap fun k => got (o.lineAt k))) }

section Done
variable {s : Hw} {c : Nat} {o : PortOp} {rest : List PortOp} (queue : (s.core c).portQ = o :: rest)
include queue

theorem portDone_load (load : o.store = false) (got : Nat → List Byte) :
    s.portDone c o got = s.setCore c ((s.core c).loaded o rest got) := by
  unfold Hw.portDone
  simp only [load, queue, tokDone_eq, Bool.false_eq_true, if_false, List.drop_succ_cons, List.drop_zero]
  rfl

theorem portDone_store (store : o.store = true) (got : Nat → List Byte) :
    s.portDone c o got = (List.range (lineCount o.desc)).foldl (fun t k => t.lineWrite (coreField c) (b2n o.wafer) (o.lineAt k)
      (((descBytes (s.core c).sram o.desc).drop (64 * k)).take 64)) (s.setCore c ((s.core c).ported o rest)) := by
  unfold Hw.portDone
  simp only [store, queue, tokDone_eq, if_true, List.drop_succ_cons, List.drop_zero]
  rfl

end Done

/-- The bytes that a port has of a line where noise strikes line `k.line`. -/
def Hw.struckLine (s : Hw) (f w : Nat) (k : LineStrike) (l : Nat) : List Byte :=
  if l = k.line.toNat then (s.lineSeen f w k.line.toNat k.noise).1 else s.lineRead f w l

theorem struckLine_clean (s : Hw) (f w : Nat) (line : BitVec 29) :
    s.struckLine f w { line := line, noise := { data := 0, code := 0, address := 0 } } = s.lineRead f w := by
  funext l
  unfold Hw.struckLine
  rw [lineSeen_clean]
  split
  case isTrue here => rw [here]
  case isFalse => rfl

section Completion
variable {s : State} {c : CoreId} {o : PortOp} {rest : List PortOp} {k : LineStrike}
  (queue : (s.coreOf c).portQ = o :: rest) (unarmed : s.hw.tst.injArm = false)

section Moved
variable (running : (s.coreOf c).stopped = false) (alive : (s.coreOf c).dead = false) (once : o.reread = false)
  (ready : s.hw.portReady c.toNat o = true)
include queue unarmed running alive once ready

/-- A transfer whose lines have moved ends where it stores, and where the line that it loads passes its check. -/
theorem transfer_ends (good : o.store = true ∨
      ((s.hw.lineSeen (coreField c.toNat) (b2n o.wafer) k.line.toNat k.noise).2 || !o.takes o.wafer k.line.toNat) = true) :
    execVportTransferComplete c k s =
      .next { s with hw := s.hw.portDone c.toNat o (s.hw.struckLine (coreField c.toNat) (b2n o.wafer) k) } := by
  have free : ¬ ((s.coreOf c).stopped || (s.coreOf c).dead || o.reread || !s.hw.portReady c.toNat o) = true := by
    simp [running, alive, once, ready]
  unfold State.coreOf at *
  unfold execVportTransferComplete
  refine act_eq ?_
  dsimp only
  simp only [queue]
  refine passes free ?_
  simp only [injHit_unarmed unarmed, sramChecked_unarmed unarmed, ite_self, Option.getD_none, Option.isNone_none, Bool.and_true]
  obtain store | ok := good
  · exact if_pos store
  · exact (congrArg _ (if_pos ok)).trans (ite_self _)

/-- A line that fails its check in a committed beat is read again. -/
theorem transfer_rereads (load : o.store = false)
    (bad : ((s.hw.lineSeen (coreField c.toNat) (b2n o.wafer) k.line.toNat k.noise).2 || !o.takes o.wafer k.line.toNat) = false)
    (committed : s.hw.uncommittedBeat (o.stroke, o.beat) = false) :
    execVportTransferComplete c k s = .next (s.coreTo c { s.coreOf c with portQ := { o with reread := true } :: rest }) := by
  have free : ¬ ((s.coreOf c).stopped || (s.coreOf c).dead || o.reread || !s.hw.portReady c.toNat o) = true := by
    simp [running, alive, once, ready]
  unfold State.coreOf at *
  unfold execVportTransferComplete
  refine act_eq ?_
  dsimp only
  simp only [queue]
  refine passes free ?_
  simp only [injHit_unarmed unarmed, load, bad, committed, Option.getD_none, Bool.false_and, Bool.false_eq_true, if_false]
  rfl

end Moved

include queue in
/-- The second reading of a line that now passes its check ends the transfer that waits for it. -/
theorem lineReread_ends {f : FieldIx} {line : BitVec 29} {z : LineNoise} (waits : o.reread = true)
    (alone : s.hw.cores = [(c.toNat, s.coreOf c)]) (own : f.val = coreField c.toNat) (takes : o.takes o.wafer line.toNat = true)
    (good : (s.hw.lineSeen (coreField c.toNat) (b2n o.wafer) line.toNat z).2 = true)
    (kept : s.hw.lineLost (coreField c.toNat) (b2n o.wafer) line.toNat = false) :
    execLineReread f o.wafer line z s = .next { s with
      hw := s.hw.portDone c.toNat o (s.hw.struckLine (coreField c.toNat) (b2n o.wafer) { line := line, noise := z }) } := by
  unfold execLineReread
  refine act_eq ?_
  simp only [alone, own, List.find?_cons, decide_true, queue, waits, takes, Bool.and_true, good, if_true]
  refine congrArg (s.hw.portDone c.toNat o) (funext fun l => ?_)
  unfold Hw.struckLine
  refine ite_congr (propext ⟨And.left, fun here => ⟨here, ?_⟩⟩) (fun _ => rfl) (fun _ => rfl)
  rw [here, kept]
  rfl

end Completion

/-- What a store leaves: its core has one transfer less, and no byte outside its lines has changed. -/
theorem portDone_store_frame {s : Hw} {c : Nat} {o : PortOp} {rest : List PortOp} (queue : (s.core c).portQ = o :: rest)
    (store : o.store = true) (got : Nat → List Byte) :
    (s.portDone c o got).core c = (s.core c).ported o rest ∧
    (∀ a, (∀ k < lineCount o.desc, a < s.bondedAt (coreField c) (b2n o.wafer) (o.lineAt k * 64) ∨
      s.bondedAt (coreField c) (b2n o.wafer) (o.lineAt k * 64) + 64 ≤ a) →
      nget 0 (s.portDone c o got).mem a = nget 0 s.mem a) ∧
    (lineCount o.desc = 1 → s.bondedAt (coreField c) (b2n o.wafer) (o.lineAt 0 * 64) < migBase →
      (s.portDone c o got).mem = nputList 0 s.mem (s.bondedAt (coreField c) (b2n o.wafer) (o.lineAt 0 * 64))
        ((descBytes (s.core c).sram o.desc).take 64)) := by
  rw [portDone_store queue store]
  obtain ⟨same, bytes⟩ := storeLines (coreField c) (b2n o.wafer) o.lineAt
    (fun k => ((descBytes (s.core c).sram o.desc).drop (64 * k)).take 64) (fun k => List.length_take_le ..)
    (List.range (lineCount o.desc)) (s.setCore c ((s.core c).ported o rest))
  refine ⟨?_, fun a outside => bytes a fun k mem => outside k (List.mem_range.mp mem), fun single direct => ?_⟩
  · rw [Hw.core, same.cores]
    exact (nget_nput ..).trans (if_pos rfl)
  · rw [single]
    exact lineWrite_direct (s := s.setCore c _) _ direct

/-- Settles O10: transfers queue at issue; at their end a load changes its core alone, and a store its lines too. -/
theorem bondedMemoryAccess : Obligations.BondedMemoryAccess := by
  unfold Obligations.BondedMemoryAccess
  refine ⟨fun s c i => ?_, fun s c o rest line z => ?_⟩
  · intro x d v may valid inside token issued after
    exact ⟨(act_eq (portIssue_done rfl rfl may valid inside token false) : execBld c i s = _),
      (act_eq (portIssue_done rfl rfl may valid inside token true) : execBst c i s = _)⟩
  · intro x f w done k seen ok loaded struck queue unarmed
    have ends (load : o.store = false) (got : Nat → List Byte) :
        ({ s with hw := s.hw.portDone c.toNat o got } : State) = loaded got :=
      congrArg (fun t : Hw => ({ s with hw := t } : State)) (portDone_load queue load got)
    refine ⟨fun running alive once ready => ?_, fun fx waits alone own load takes good kept => ?_⟩
    · have moves := transfer_ends (k := k) queue unarmed running alive once ready
      refine ⟨fun load good => ?_, fun load quiet => ?_, fun store => ?_, fun load bad committed => ?_⟩
      · change execVportTransferComplete c k s = _
        rw [moves (.inr good), ends load]
        rfl
      · subst quiet
        have clean := lineSeen_clean s.hw f w line.toNat
        change execVportTransferComplete c k s = _
        rw [moves (.inr (Bool.or_eq_true_iff.mpr (.inl (congrArg Prod.snd clean)))), ends load, struckLine_clean]
      · obtain ⟨core, frame, single⟩ := portDone_store_frame queue store (s.hw.struckLine f w k)
        exact ⟨_, moves (.inl store), core, frame, single⟩
      · exact (transfer_rereads queue unarmed running alive once ready load bad committed : execVportTransferComplete c k s = _)
    · change execLineReread fx o.wafer line z s = _
      rw [lineReread_ends queue waits alone own takes good kept, ends load]
      rfl

end Sys2Proof.Machine
end

section
/-! # Heartbeats and the death of a core (R79, R324, R330, R332)

A heartbeat changes cores alone, and of a core that hears it only what that core counts of the sender. -/
namespace Sys2Proof.Machine

/-! ## Counts -/

/-- Counting the missed heartbeats of dead neighbours lowers no count, and raises that of each one. -/
theorem countMissed (p : Nat → Bool) (ks : List Nat) (m : NMap Nat) (k : Nat) :
    nget 0 m k ≤ nget 0 (ks.foldl (fun m k => if p k then nput 0 m k (nget 0 m k + 1) else m) m) k ∧
    (k ∈ ks → p k = true →
      nget 0 m k < nget 0 (ks.foldl (fun m k => if p k then nput 0 m k (nget 0 m k + 1) else m) m) k) := by
  induction ks generalizing m with
  | nil => exact ⟨Nat.le_refl _, fun mem => absurd mem List.not_mem_nil⟩
  | cons j js ih =>
    obtain ⟨grows, counted⟩ := ih (if p j then nput 0 m j (nget 0 m j + 1) else m)
    have first : nget 0 m k ≤ nget 0 (if p j then nput 0 m j (nget 0 m j + 1) else m) k := by
      split
      · rw [nget_nput]
        split
        case isTrue here => rw [here]; exact Nat.le_succ _
        case isFalse => exact Nat.le_refl _
      · exact Nat.le_refl _
    refine ⟨first.trans grows, fun mem dead => ?_⟩
    obtain rfl | later := List.mem_cons.mp mem
    · refine Nat.lt_of_lt_of_le ?_ grows
      rw [if_pos dead, nget_nput, if_pos rfl]
      exact Nat.lt_succ_self _
    · exact Nat.lt_of_le_of_lt first (counted later dead)

/-! ## Heartbeats -/

/-- Core `y` is `x`, and of the counts only that of `n` may have changed, to 0. -/
structure Hears (n : Nat) (x y : CoreState) : Prop where
  same : y = { x with missed := y.missed }
  others : ∀ k, k ≠ n → nget 0 y.missed k = nget 0 x.missed k
  zero : nget 0 x.missed n = 0 → nget 0 y.missed n = 0

theorem Hears.refl (n : Nat) (x : CoreState) : Hears n x x := ⟨rfl, fun _ _ => rfl, id⟩

theorem Hears.trans {n : Nat} {x y z : CoreState} (h : Hears n x y) (g : Hears n y z) : Hears n x z where
  same := by
    have last := g.same
    rw [h.same] at last
    exact last
  others k away := (g.others k away).trans (h.others k away)
  zero quiet := g.zero (h.zero quiet)

theorem Hears.heard (n : Nat) (x : CoreState) : Hears n x { x with missed := nput 0 x.missed n 0 } where
  same := rfl
  others k away := (nget_nput 0 x.missed n k 0).trans (if_neg away)
  zero _ := (nget_nput 0 x.missed n n 0).trans (if_pos rfl)

/-- A neighbour hears the heartbeat of core `n`, unless it is dead (R79). -/
def Hw.hear (n : Nat) (s : Hw) (k : Nat) : Hw :=
  if (s.core k).dead then s else s.onCore k fun y => { y with missed := nput 0 y.missed n 0 }

/-- What heartbeats of core `n` leave: the cores alone have changed, and each as one that hears `n`. -/
structure Heard (n : Nat) (s t : Hw) : Prop where
  frame : t = { s with cores := t.cores }
  hears : ∀ m, Hears n (s.core m) (t.core m)

theorem Heard.refl (n : Nat) (s : Hw) : Heard n s s := ⟨rfl, fun _ => .refl ..⟩

theorem Heard.trans {n : Nat} {s t u : Hw} (h : Heard n s t) (g : Heard n t u) : Heard n s u where
  frame := by
    have last := g.frame
    rw [h.frame] at last
    exact last
  hears m := (h.hears m).trans (g.hears m)

theorem Heard.dead {n : Nat} {s t : Hw} (h : Heard n s t) (m : Nat) : (t.core m).dead = (s.core m).dead := by
  rw [(h.hears m).same]

theorem hear_heard (n : Nat) (s : Hw) (k : Nat) : Heard n s (s.hear n k) := by
  unfold Hw.hear
  split
  · exact .refl n s
  · refine ⟨rfl, fun m => ?_⟩
    rw [Hw.onCore, setCore_core]
    split
    case isTrue here => exact here ▸ .heard n _
    case isFalse => exact .refl n _

theorem hear_alive {n : Nat} {s : Hw} {k : Nat} (alive : (s.core k).dead = false) :
    nget 0 ((s.hear n k).core k).missed n = 0 := by
  rw [Hw.hear, alive, if_neg Bool.false_ne_true, Hw.onCore, setCore_core, if_pos rfl]
  exact (nget_nput 0 (s.core k).missed n n 0).trans (if_pos rfl)

/-- A heartbeat that goes to `ks`: each live one of them counts nothing of the sender. -/
theorem hearAll_heard (n : Nat) (ks : List Nat) (s : Hw) :
    Heard n s (ks.foldl (Hw.hear n) s) ∧
    ∀ k ∈ ks, (s.core k).dead = false → nget 0 ((ks.foldl (Hw.hear n) s).core k).missed n = 0 := by
  induction ks generalizing s with
  | nil => exact ⟨.refl n s, fun k mem => absurd mem List.not_mem_nil⟩
  | cons j js ih =>
    have first := hear_heard n s j
    obtain ⟨rest, zeros⟩ := ih (s.hear n j)
    refine ⟨first.trans rest, fun k mem alive => ?_⟩
    obtain rfl | later := List.mem_cons.mp mem
    · exact (rest.hears k).zero (hear_alive alive)
    · exact zeros k later ((first.dead k).trans alive)

/-- A core that sends its periodic heartbeat, with the dead neighbours counted that it expects (R79). -/
def Hw.beatSent (s : Hw) (n : Nat) : CoreState := { s.core n with
  errSym := false, lastBeatSent := s.now
  missed := ((neighbours n).filter s.beats).foldl (fun m k => if (s.core k).dead then nput 0 m k (nget 0 m k + 1) else m)
    (s.core n).missed }

/-- What the module is after a heartbeat: the sender's core first, then those that hear it. -/
theorem heartbeat_heard {s : State} {c : CoreId} (beats : s.hw.beats c.toNat = true) (alive : (s.coreOf c).dead = false) :
    ∃ t, execHeartbeat c s = .next { s with hw := t } ∧
      Heard c.toNat (s.hw.setCore c.toNat (s.hw.beatSent c.toNat)) t ∧
      ((s.coreOf c).errSym = false → ∀ k ∈ (neighbours c.toNat).filter s.hw.beats,
        ((s.hw.setCore c.toNat (s.hw.beatSent c.toNat)).core k).dead = false → nget 0 (t.core k).missed c.toNat = 0) := by
  have free : ¬ (!s.hw.beats c.toNat || (s.hw.core c.toNat).dead) = true := by
    rw [State.coreOf] at alive
    simp [beats, alive]
  cases h : (s.coreOf c).errSym with
  | true =>
    refine ⟨s.hw.setCore c.toNat (s.hw.beatSent c.toNat), act_eq (passes free (if_pos h)), .refl .., fun no => nomatch no⟩
  | false =>
    obtain ⟨heard, zeros⟩ := hearAll_heard c.toNat ((neighbours c.toNat).filter s.hw.beats)
      (s.hw.setCore c.toNat (s.hw.beatSent c.toNat))
    exact ⟨_, act_eq (passes free (if_neg (ne_true_of_eq_false h))), heard, fun _ => zeros⟩

theorem beatSent_counts {s : Hw} {n k : Nat} (near : k ∈ neighbours n) (beats : s.beats k = true)
    (dead : (s.core k).dead = true) :
    nget 0 (s.core n).missed k < nget 0 (s.beatSent n).missed k := by
  obtain ⟨-, counted⟩ := countMissed (fun k => (s.core k).dead) ((neighbours n).filter s.beats) (s.core n).missed k
  unfold Hw.beatSent
  dsimp only
  exact counted (List.mem_filter.mpr ⟨near, beats⟩) dead

theorem beatSent_dead (s : Hw) (n k : Nat) : ((s.setCore n (s.beatSent n)).core k).dead = (s.core k).dead := by
  rw [setCore_core]
  split
  case isTrue here => rw [here]; rfl
  case isFalse => rfl

/-! ## Reports -/

/-- With no billet under way a report puts the core into the pending list and stops it (R332). -/
theorem coreDead_idle {s : Hw} {n : Nat} (idle : s.live = false) (fresh : n ∉ s.flt.declared) (kind : Nat) (b : Nat × Nat)
    (reporters : List Nat) :
    n ∈ (s.coreDead n kind b reporters).flt.pending ∧ n ∈ (s.coreDead n kind b reporters).flt.declared ∧
      ((s.coreDead n kind b reporters).core n).stopped = true ∧ (s.coreDead n kind b reporters).stk = s.stk := by
  have unmapped : (!(s.live && (s.core n).mapped)) = true := by rw [idle]; rfl
  have kept (u : Hw) (i : RecIn) (pending : n ∈ u.flt.pending) (declared : n ∈ u.flt.declared)
      (stopped : (u.core n).stopped = true) (stk : u.stk = s.stk) : n ∈ (u.record i).flt.pending ∧ n ∈ (u.record i).flt.declared ∧
        ((u.record i).core n).stopped = true ∧ (u.record i).stk = s.stk := by
    have same := record_recorded u i
    refine ⟨same.pending ▸ pending, same.declared ▸ declared, ?_, (same.still ((live_of_stk stk).trans idle)).trans stk⟩
    rw [Hw.core, record_cores]
    exact stopped
  rw [Hw.coreDead, if_neg (by simpa using fresh)]
  dsimp only
  rw [if_pos unmapped]
  refine kept _ _ ?_ (List.mem_append_right _ List.mem_cons_self) ?_ rfl
  · dsimp only
    split
    case isTrue listed => exact List.contains_iff_mem.mp listed
    case isFalse => exact List.mem_append_right _ List.mem_cons_self
  · exact congrArg CoreState.stopped ((setCore_core ..).trans (if_pos rfl))

/-- Settles O12: a heartbeat goes through the neighbours one by one; a report stops the core and records it. -/
theorem heartbeatsAndCoreDeath : Obligations.HeartbeatsAndCoreDeath := by
  unfold Obligations.HeartbeatsAndCoreDeath
  refine ⟨fun s c beats alive => ?_, fun s r n => ⟨fun idle may fresh => ?_, fun ok => ?_⟩⟩
  · obtain ⟨t, sent, heard, zeros⟩ := heartbeat_heard beats alive
    have own := heard.hears c.toNat
    rw [setCore_core, if_pos rfl] at own
    refine ⟨_, sent, congrArg (fun t : Hw => ({ s with hw := t } : State)) heard.frame, ?_, ?_, ?_,
      fun quiet k near expects live => ?_, fun k near expects dead other => ?_⟩
    · exact (congrArg CoreState.lastBeatSent own.same :)
    · exact (congrArg CoreState.errSym own.same :)
    · exact (congrArg CoreState.sram own.same :)
    · exact zeros quiet k (List.mem_filter.mpr ⟨near, expects⟩) ((beatSent_dead ..).trans live)
    · exact Nat.lt_of_lt_of_eq (beatSent_counts near expects dead) (own.others k other).symm
  · have three := coreDead_idle (s := s.hw.onCore r.toNat fun x => { x with missed := nput 0 x.missed n.toNat 3 })
      ((live_of_stk rfl).trans idle) fresh 0 s.hw.curBeat [r.toNat]
    have boundary := coreDead_idle idle fresh 1 (s.hw.stk.uncommitted.getD s.hw.curBeat) [r.toNat]
    exact ⟨⟨_, (act_eq (if_pos may) : execMissedHeartbeats r n s = _), three⟩,
      ⟨_, (act_eq (if_pos may) : execBoundaryHeartbeatMiss r n s = _), boundary⟩⟩
  · exact (act_eq (if_pos ok) : execCoreLoss n s = _)

end Sys2Proof.Machine
end

section
/-! # E8M0 scale bytes (R94) -/
namespace Sys2Proof.Machine

/-- A finite value under a scale byte other than 0xFF moves its exponent by the byte less 127. -/
theorem scaleVal_fin {b : Nat} (scales : b ≠ 0xFF) (neg : Bool) (k : Nat) (e : Int) :
    scaleVal b (.fin neg k e) = .fin neg k (e + ((b : Int) - 127)) := by
  rw [scaleVal, if_neg scales, Int.add_sub_assoc]

/-- A value that is not finite stays what it is under a scale byte other than 0xFF. -/
theorem scaleVal_of_not_fin {b : Nat} (scales : b ≠ 0xFF) {v : Val} (special : ∀ neg k e, v ≠ .fin neg k e) :
    scaleVal b v = v := by
  unfold scaleVal
  rw [if_neg scales]
  cases v with
  | nan => rfl
  | inf neg => rfl
  | fin neg k e => exact absurd rfl (special neg k e)

/-- An element of a format with scale bytes is its own value, which LQ4 takes from its codebook, under its scale byte
(R60, R95). -/
theorem elemVal_scaled (m : NMap Byte) (d : Desc) (r c : Nat) (scaled : isMx (dFmt d) = true ∨ isLq4 (dFmt d) = true) :
    elemVal m d r c = scaleVal (nget 0 m (scaleAddr d (lineOf d r c) (posOf d r c))).toNat
      (if isLq4 (dFmt d) then
        fmtE4M3.decode (nget 0 m (bookAddr d (lineOf d r c) (posOf d r c) + sramBits m (elemBit d r c) (fmtBits (dFmt d)))).toNat
      else codeVal (dFmt d) (sramBits m (elemBit d r c) (fmtBits (dFmt d)))) := by
  unfold elemVal
  dsimp only
  by_cases lq4 : isLq4 (dFmt d) = true
  · rw [if_pos lq4, if_pos lq4]
  · rw [if_neg lq4, if_neg lq4, if_pos (scaled.resolve_right lq4)]

/-- Settles O58: the element is its own value under its scale byte, and the byte is 0xFF, or scales a finite value, or leaves
a special one. -/
theorem scaleBytes : Obligations.ScaleBytes := by
  unfold Obligations.ScaleBytes
  intro m d r c f b code own scaled
  have under : elemVal m d r c = scaleVal b own := elemVal_scaled m d r c scaled
  rw [under]
  exact ⟨fun nan => if_pos nan, fun scales => ⟨fun neg k e fin => fin ▸ scaleVal_fin scales neg k e,
    scaleVal_of_not_fin scales⟩⟩

end Sys2Proof.Machine
end

section
/-! # The generator of stochastic rounding (R86, R90, R111) -/
namespace Sys2Proof.Machine

/-! ## The step -/

/-- A shift to the left that changes nothing shifts zero: each bit is that of a lower place, down to the zeros shifted in. -/
theorem eq_zero_of_eq_shiftLeft {w k : Nat} {x : BitVec w} (moves : 0 < k) (fixed : x = x <<< k) : x = 0 := by
  refine BitVec.eq_of_getLsbD_eq fun i inside => ?_
  rw [BitVec.ofNat_eq_ofNat, BitVec.getLsbD_zero]
  induction i using Nat.strong_induction_on with
  | _ i ih =>
    rw [fixed, BitVec.getLsbD_shiftLeft]
    by_cases low : i < k
    · simp [low]
    · simp [ih (i - k) (by omega) (by omega)]

/-- A shift to the right that changes nothing shifts zero: every other number gets smaller. -/
theorem eq_zero_of_eq_ushiftRight {w k : Nat} {x : BitVec w} (moves : 0 < k) (fixed : x = x >>> k) : x = 0 := by
  have same : x.toNat = x.toNat / 2 ^ k := by
    rw [← Nat.shiftRight_eq_div_pow, ← BitVec.toNat_ushiftRight, ← fixed]
  have zero : x.toNat = 0 := by
    by_contra some
    exact absurd same (Nat.div_lt_self (Nat.pos_of_ne_zero some) (Nat.one_lt_two_pow moves.ne')).ne'
  exact BitVec.eq_of_toNat_eq zero

theorem xor_shiftLeft_ne_zero {w k : Nat} {x : BitVec w} (moves : 0 < k) (live : x ≠ 0) : x ^^^ (x <<< k) ≠ 0 :=
  fun zero => live (eq_zero_of_eq_shiftLeft moves (BitVec.xor_eq_zero_iff.mp zero))

theorem xor_ushiftRight_ne_zero {w k : Nat} {x : BitVec w} (moves : 0 < k) (live : x ≠ 0) : x ^^^ (x >>> k) ≠ 0 :=
  fun zero => live (eq_zero_of_eq_ushiftRight moves (BitVec.xor_eq_zero_iff.mp zero))

/-- The generator never steps to zero. -/
theorem srStep_ne_zero {g : W64} (live : g ≠ 0) : srStep g ≠ 0 :=
  xor_shiftLeft_ne_zero (by decide) (xor_ushiftRight_ne_zero (by decide) (xor_shiftLeft_ne_zero (by decide) live))

/-- A draw is bits [63:48]. -/
theorem srDraw_eq_bits (g : W64) : srDraw g = bits g.toNat 63 48 := by
  have short : g.toNat >>> 48 < 2 ^ 16 := by rw [Nat.shiftRight_eq_div_pow]; omega
  rw [srDraw, BitVec.toNat_ushiftRight, bits, Nat.mod_eq_of_lt short]

/-- Stochastic roundings step the generator once each, and the step's draw comes first (R110). -/
theorem roundings_stoch_succ (n : Nat) (g : W64) :
    roundings true (n + 1) g =
      (.sr (bits (srStep g).toNat 63 48) :: (roundings true n (srStep g)).1, (roundings true n (srStep g)).2) := by
  rw [← srDraw_eq_bits]
  rfl

/-! ## The seed -/

/-- The seeded state as a number: the word above, its mix below. -/
theorem srSeedState_toNat (w : W32) : (srSeedState w).toNat = w.toNat * 2 ^ 32 + (w ^^^ 0x9E3779B9).toNat := by
  rw [srSeedState, BitVec.toNat_append, ← Nat.shiftLeft_add_eq_or_of_lt (w ^^^ 0x9E3779B9).isLt, Nat.shiftLeft_eq]

theorem srSeedState_eq_ofNat (w : W32) : srSeedState w = BitVec.ofNat 64 (w.toNat * 2 ^ 32 + (w ^^^ 0x9E3779B9).toNat) := by
  rw [← srSeedState_toNat, BitVec.ofNat_toNat, BitVec.setWidth_eq]

/-- No word seeds the generator with zero: where its upper half is zero, its lower half is the constant. -/
theorem srSeedState_ne_zero (w : W32) : srSeedState w ≠ 0 := by
  intro zero
  have halves : w.toNat * 2 ^ 32 + (w ^^^ 0x9E3779B9).toNat = 0 := (srSeedState_toNat w).symm.trans (congrArg BitVec.toNat zero)
  have upper : w = 0 := BitVec.eq_of_toNat_eq (show w.toNat = 0 by omega)
  rw [upper] at zero
  exact absurd zero (by decide)

/-! ## Activation -/

/-- What every step keeps and one step brings about holds at the end of a fold. -/
theorem foldl_establishes {σ α : Type} {P : σ → Prop} {f : σ → α → σ} {l : List α} {a : α} (listed : a ∈ l)
    (makes : ∀ s, P (f s a)) (keeps : ∀ s, ∀ x ∈ l, P s → P (f s x)) (s : σ) : P (l.foldl f s) := by
  obtain ⟨before, rest, rfl⟩ := List.append_of_mem listed
  rw [List.foldl_append, List.foldl_cons]
  exact rest.foldlRecOn f (makes _) fun t holds x later =>
    keeps t x (List.mem_append_right _ (List.mem_cons_of_mem _ later)) holds

/-- The generator of a core is as CSRW of `w` to SR_SEED leaves it. -/
def CoreState.SeededWith (x : CoreState) (w : W32) : Prop := x.srSeed = w ∧ x.srState = srSeedState w

/-- The word with which a core's generator starts in a stroke: its ID xor bits [31:0] of the stroke number (R111). -/
def startSeed (c stroke : Nat) : W32 := BitVec.ofNat 32 c ^^^ BitVec.ofNat 32 stroke

/-- A core that takes an image starts its generator from its ID and the stroke. -/
theorem loadImage_seeded {b : Billet} {image : Nat} {im : Image} (found : b.core.images[image]? = some im) (x : CoreState)
    (on : List Nat) (c stroke : Nat) : (x.loadImage b on c image stroke).SeededWith (startSeed c stroke) := by
  rw [CoreState.loadImage, found]
  exact ⟨rfl, rfl⟩

theorem loadCore_seeded {b : Billet} {image : Nat} {im : Image} (found : b.core.images[image]? = some im) (s : Hw)
    (c stroke : Nat) : ((s.loadCore b c image stroke).core c).SeededWith (startSeed c stroke) := by
  rw [Hw.loadCore, Hw.onCore, setCore_core, if_pos rfl]
  exact loadImage_seeded found _ _ c stroke

theorem loadCore_core_of_ne {c k : Nat} (other : c ≠ k) (s : Hw) (b : Billet) (image stroke : Nat) :
    (s.loadCore b k image stroke).core c = s.core c :=
  (setCore_core ..).trans (if_neg other)

/-- At activation every core of the map is seeded, also where the map names it twice with one image. -/
theorem loadCores_seeded {b : Billet} {c image : Nat} {im : Image} (mapped : (c, image) ∈ b.core.map)
    (once : ∀ e ∈ b.core.map, e.1 = c → e.2 = image) (found : b.core.images[image]? = some im) (s : Hw) (stroke : Nat) :
    ((s.loadCores b stroke).core c).SeededWith (startSeed c stroke) := by
  unfold Hw.loadCores
  refine foldl_establishes (P := fun t : Hw => (t.core c).SeededWith (startSeed c stroke)) mapped
    (fun t => loadCore_seeded found t c stroke) (fun t e listed seeded => ?_) _
  by_cases here : e.1 = c
  · rw [here, once e listed here]
    exact loadCore_seeded found t c stroke
  · rw [loadCore_core_of_ne (Ne.symm here)]
    exact seeded

/-- Settles O57: the step and the seed are never zero; CSRW and CSRR of SR_SEED are those of the control words; the map is
loaded core by core. -/
theorem roundingGenerator : Obligations.RoundingGenerator := by
  unfold Obligations.RoundingGenerator
  refine ⟨fun g n => ⟨roundings_stoch_succ n g, srStep_ne_zero⟩, fun s c i seed => ⟨fun may => ?_, fun may => ?_⟩,
    fun s b c image n im mapped once found => loadCores_seeded mapped once found s n⟩
  · obtain ⟨-, -, writes⟩ := coreScalarsAndDescriptors.1 s c i
    intro w g
    have state : srSeedState w = g := srSeedState_eq_ofNat w
    rw [← state]
    exact ⟨writes may seed, srSeedState_ne_zero w⟩
  · obtain ⟨-, reads, -⟩ := coreScalarsAndDescriptors.1 s c i
    obtain ⟨y, read, result⟩ := (reads may).2 (by rw [seed]; decide)
    rw [seed] at result
    exact ⟨y, read, result⟩

end Sys2Proof.Machine
end

section
/-!
# The way of a message through the fabric: a place nearer with every hop (R121)
-/
namespace Sys2Proof.Machine

theorem towards_gap {a b : Nat} (apart : a ≠ b) : max (towards a b) b - min (towards a b) b + 1 = max a b - min a b := by
  unfold towards
  split
  · omega
  · split <;> omega

/-- A step of dimension order moves one coordinate that is not yet the target's, and moves it towards the target's. -/
theorem hopPlace_nearer {p t : Nat × Nat} (yFirst : Bool) (away : p ≠ t) :
    placeGap (hopPlace yFirst p t) t + 1 = placeGap p t := by
  obtain ⟨x, y⟩ := p
  obtain ⟨x', y'⟩ := t
  have column := towards_gap (a := x) (b := x')
  have row := towards_gap (a := y) (b := y')
  have apart : x ≠ x' ∨ y ≠ y' := by
    by_contra same
    exact away (by grind)
  cases yFirst <;> simp only [hopPlace, placeGap, if_true, Bool.false_eq_true, if_false]
  case false =>
    by_cases hx : x = x'
    · have := row (by omega)
      simp only [hx, ne_eq, not_true_eq_false, if_false]
      omega
    · have := column hx
      simp only [ne_eq, hx, not_false_eq_true, if_true]
      omega
  case true =>
    by_cases hy : y = y'
    · have := column (by omega)
      simp only [hy, ne_eq, not_true_eq_false, if_false]
      omega
    · have := row hy
      simp only [ne_eq, hy, not_false_eq_true, if_true]
      omega

/-- With X first the row is kept until the column is the target's. -/
theorem hopPlace_xFirst {p t : Nat × Nat} (column : p.1 ≠ t.1) : (hopPlace false p t).2 = p.2 := by
  simp [hopPlace, column]

/-- With Y first the column is kept until the row is the target's. -/
theorem hopPlace_yFirst {p t : Nat × Nat} (row : p.2 ≠ t.2) : (hopPlace true p t).1 = p.1 := by
  simp [hopPlace, row]

theorem hopPlace_ne {p t : Nat × Nat} (yFirst : Bool) (away : p ≠ t) : hopPlace yFirst p t ≠ p := by
  intro same
  have nearer := hopPlace_nearer yFirst away
  rw [same] at nearer
  omega

/-- A message that moved comes in by a port of a link. -/
theorem inPort_lt {p q : Nat × Nat} (moved : q ≠ p) : inPort p.1 p.2 q.1 q.2 < 4 := by
  have apart : q.1 ≠ p.1 ∨ q.2 ≠ p.2 := by
    by_contra same
    exact moved (Prod.ext (by omega) (by omega))
  unfold inPort
  split
  · omega
  · split
    · omega
    · split
      · omega
      · split <;> omega

/-! ## The next buffer -/

theorem nextBuf_eq_none_iff (m : FMsg) (b : FBuf) : m.nextBuf b = none ↔ (b.x, b.y) = (m.aim b).1 := by
  simp [FMsg.nextBuf]

theorem nextBuf_eq_some {m : FMsg} {b t : FBuf} (next : m.nextBuf b = some t) : (b.x, b.y) ≠ (m.aim b).1 ∧
    (t.x, t.y) = hopPlace m.yFirst (b.x, b.y) (m.aim b).1 ∧ t.port = inPort b.x b.y t.x t.y ∧ t.phase = (m.aim b).2 ∧
    t.flits = 0 := by
  unfold FMsg.nextBuf at next
  dsimp only at next
  split at next
  · cases next
  · next away =>
    obtain rfl := Option.some.inj next
    exact ⟨away, rfl, rfl, rfl, rfl⟩

theorem aim_phase_stays {b : FBuf} (m : FMsg) (second : b.phase = 1) : (m.aim b).2 = 1 := by
  unfold FMsg.aim
  split
  · rw [if_neg (by simp [second])]
  · rfl

/-- Settles O9: a hop is one step of dimension order towards the place that the phase makes for. -/
theorem fabricHopNearer : Obligations.FabricHopNearer := by
  unfold Obligations.FabricHopNearer
  intro m b goal
  refine ⟨nextBuf_eq_none_iff m b, fun t next => ?_⟩
  obtain ⟨away, place, port, phase, -⟩ := nextBuf_eq_some next
  refine ⟨?nearer, fun xFirst column => ?row, fun yFirst row => ?column, phase, fun second => ?stays, ?link⟩
  case nearer =>
    rw [place]
    exact hopPlace_nearer _ away
  case row =>
    rw [xFirst] at place
    exact (congrArg Prod.snd place).trans (hopPlace_xFirst column)
  case column =>
    rw [yFirst] at place
    exact (congrArg Prod.fst place).trans (hopPlace_yFirst row)
  case stays => rw [phase, aim_phase_stays m second]
  case link =>
    rw [port]
    exact inPort_lt (p := (b.x, b.y)) (q := (t.x, t.y)) (by rw [place]; exact hopPlace_ne _ away)

end Sys2Proof.Machine
end

section
/-!
# A hop of a message and the check of its flits (R114, R119-R121, R125)
-/
namespace Sys2Proof.Machine

/-! ## Where a message stands after one move -/

/-- A message whose flits went on from buffer `b` into buffer `t`. -/
def FMsg.hopped (m : FMsg) (b t : FBuf) (now : Nat) : FMsg :=
  { m with bufs := [{ t with flits := b.flits }], ready := now + m.latency }

/-- A message whose last flits have left the fabric from buffer `b`. -/
def FMsg.out (m : FMsg) (b : FBuf) : FMsg := { m with ejected := m.size, bufs := [{ b with flits := 0 }] }

/-- A message that stands with all that is left of it in one buffer, whose head may move on. -/
structure Hw.Moves (s : Hw) (n : Nat) (m : FMsg) (b : FBuf) : Prop where
  here : s.fabric[n]? = some m
  arrived : m.arrived = false
  absorbed : m.absorbed = false
  waiting : m.waiting = 0
  bufs : m.bufs = [b]
  flits : 0 < b.flits
  rest : m.ejected + b.flits = m.size
  due : m.ready ≤ s.now
  first : s.isBehind n m b = false

section Moves
variable {s : Hw} {n : Nat} {m : FMsg} {b t : FBuf} (h : s.Moves n m b)
include h

theorem moved_hop (next : m.nextBuf b = some t) (enter : s.mayEnter n m t = true)
    (room : b.flits ≤ s.credits (s.fabric.eraseIdx n) m t) : s.moved n m = m.hopped b t s.now := by
  have flits := h.flits
  have head : s.headStep n m =
      { m with bufs := [{ t with flits := b.flits }, { b with flits := 0 }], ready := s.now + m.latency } := by
    simp [Hw.headStep, h.bufs, h.first, Nat.not_lt.2 h.due, next, enter, Nat.min_eq_left room, Nat.ne_of_gt flits]
  simp [Hw.moved, head, h.waiting, closeUp, FMsg.hopped]

theorem moved_out (last : m.nextBuf b = none) : s.moved n m = m.out b := by
  have head : s.headStep n m = m.out b := by
    simp [Hw.headStep, h.bufs, h.first, Nat.not_lt.2 h.due, last, h.rest, FMsg.out]
  simp [Hw.moved, head, h.waiting, closeUp, FMsg.out]

theorem sendDone_moved (m' : FMsg) : s.sendDone m m' = s := by
  simp [Hw.sendDone, h.waiting]

end Moves

/-! ## The check of the flits that a hop brought -/

theorem standsIn_single {m : FMsg} {b : FBuf} {i : Nat} (bufs : m.bufs = [b]) (from' : m.ejected ≤ i)
    (to' : i < m.ejected + b.flits) : m.standsIn i = some b := by
  simp [FMsg.standsIn, bufs, Nat.not_lt.2 from', to']

/-- A hop brings every flit that is left of the message into the next router. -/
theorem mem_received_hop {s : Hw} {n : Nat} {m : FMsg} {b t : FBuf} (h : s.Moves n m b) (next : m.nextBuf b = some t) {i : Nat}
    (from' : m.ejected ≤ i) (to' : i < m.size) : i ∈ (received m (m.hopped b t s.now)).map Prod.fst := by
  have rest := h.rest
  have elsewhere : b.same { t with flits := b.flits } = false := by
    obtain ⟨away, place, -⟩ := nextBuf_eq_some next
    have moved := hopPlace_ne m.yFirst away
    rw [← place] at moved
    simp only [FBuf.same, Bool.and_eq_false_imp, decide_eq_true_eq, Bool.and_eq_true, and_imp]
    intro x y
    exact absurd (Prod.ext x.symm y.symm) moved
  refine List.mem_map.2 ⟨(i, { t with flits := b.flits }), List.mem_filterMap.2 ⟨i, List.mem_range.2 to', ?_⟩, rfl⟩
  rw [standsIn_single (m := m.hopped b t s.now) (b := { t with flits := b.flits }) rfl from' (by simp only [FMsg.hopped]; omega),
    standsIn_single h.bufs from' (by omega)]
  simp [elsewhere]

theorem flitOk_of_ne (m : FMsg) {i : Nat} (phase : Nat) {z : FlitNoise} (other : z.flit ≠ i) : m.flitOk i phase z = true := by
  rw [FMsg.flitOk, decide_eq_true other, Bool.true_or]

/-- A flit whose check bits alone are struck fails its check. -/
theorem flitOk_struck (m : FMsg) (phase : Nat) {z : FlitNoise} (data : z.data = 0) (crc : z.crc ≠ 0) :
    m.flitOk z.flit phase z = false := by
  have still (n : Nat) : z.data.toNat % n = 0 := by
    simp only [data, BitVec.ofNat_eq_ofNat, BitVec.toNat_zero, Nat.zero_mod]
  rw [FMsg.flitOk, still, Nat.xor_zero, decide_eq_false (not_not.2 rfl), Bool.false_or, decide_eq_false_iff_not]
  intro same
  exact crc (BitVec.xor_right_inj _ |>.1 (same.symm.trans (BitVec.xor_zero).symm))

/-- What a failed check does beside the message: FAB_CRC, and the counts and captures of the field. -/
structure FlitFault (s t : Hw) : Prop where
  flag : t.evt.flags.getLsbD 5 = true
  mem : t.mem = s.mem
  cores : t.cores = s.cores
  tst : t.tst = s.tst
  fabric : t.fabric = s.fabric

/-- A message after the check of its flit `i` failed: absorbed from a head flit on, and else poisoned. -/
def FMsg.failed (m : FMsg) (i : Nat) : FMsg := if i = 0 then { m with absorbed := true } else { m with poisoned := true }

section Check
variable {z : FlitNoise}

theorem checkFlits_of_not_mem {s : Hw} (unarmed : s.tst.injArm = false) {l : List (Nat × FBuf)} (other : z.flit ∉ l.map Prod.fst)
    (m : FMsg) : s.checkFlits z l m = (s, m) := by
  induction l with
  | nil => rfl
  | cons e l ih =>
    obtain ⟨i, b⟩ := e
    simp only [List.map_cons, List.mem_cons, not_or] at other
    obtain ⟨here, later⟩ := other
    simp [Hw.checkFlits, injHit_unarmed unarmed, flitOk_of_ne m b.phase here, here, ih later]

theorem checkFlits_struck (data : z.data = 0) (crc : z.crc ≠ 0) {l : List (Nat × FBuf)} {s : Hw} {m : FMsg}
    (unarmed : s.tst.injArm = false) (listed : z.flit ∈ l.map Prod.fst) :
    ∃ u, s.checkFlits z l m = (u, m.failed z.flit) ∧ FlitFault s u := by
  induction l generalizing s m with
  | nil => simp at listed
  | cons e l ih =>
    obtain ⟨i, b⟩ := e
    by_cases here : z.flit = i
    · subst here
      let u := (s.onFld (placeOf m.express b.x b.y).1 fun x => fabErr x (placeOf m.express b.x b.y).2.1 b.port m.express).raise 5
      have fault : FlitFault s u := ⟨raise_bit _ 5, raise_mem _ 5, raise_cores _ 5, raise_tst _ 5, raise_fabric _ 5⟩
      have step : s.checkFlits z ((z.flit, b) :: l) m = if z.flit = 0 then (u, { m with absorbed := true })
          else u.checkFlits z l { m with poisoned := true } := by
        simp [Hw.checkFlits, injHit_unarmed unarmed, flitOk_struck m b.phase data crc, u]
      rw [step]
      by_cases head : z.flit = 0
      · exact ⟨u, by simp [head, FMsg.failed], fault⟩
      · rw [if_neg head]
        have still : u.tst.injArm = false := fault.tst ▸ unarmed
        by_cases again : z.flit ∈ l.map Prod.fst
        · obtain ⟨v, result, later⟩ := ih (m := { m with poisoned := true }) still again
          exact ⟨v, by simp [result, FMsg.failed, head], later.flag, later.mem.trans fault.mem, later.cores.trans fault.cores,
            later.tst.trans fault.tst, later.fabric.trans fault.fabric⟩
        · exact ⟨u, by simp [checkFlits_of_not_mem still again, FMsg.failed, head], fault⟩
    · have later : z.flit ∈ l.map Prod.fst := by simpa [here] using listed
      have step : s.checkFlits z ((i, b) :: l) m = s.checkFlits z l m := by
        simp [Hw.checkFlits, injHit_unarmed unarmed, flitOk_of_ne m b.phase here, here]
      rw [step]
      exact ih unarmed later

end Check

/-! ## The command -/

/-- Message `n`, which was `m`, is absorbed or taken at its destination, or stands in the fabric as `m'`. -/
def Hw.lands (s : Hw) (n : Nat) (m m' : FMsg) : Hw :=
  if m'.absorbed then
    if m'.byArbiter && decide (m'.waiting ≠ 0) then { s with fabric := s.fabric.set n { m' with bufs := [] } }
    else { s with fabric := s.fabric.eraseIdx n }
  else if m'.ejected = m'.size then Hw.delivered { s with fabric := s.fabric.eraseIdx n } m'
  else { s with fabric := if m'.ready = m.ready then s.fabric.set n m' else s.fabric.eraseIdx n ++ [m'] }

theorem exec_hop {s : State} {n : Nat} {m m' m'' : FMsg} {b : FBuf} {z : FlitNoise} {u : Hw} (h : s.hw.Moves n m b)
    (moved : s.hw.moved n m = m') (checked : s.hw.checkFlits z (received m m') m' = (u, m'')) :
    exec (.fabricMessageHop n z) s = .next { s with hw := u.lands n m m'' } := by
  have call : exec (.fabricMessageHop n z) s = execFabricMessageHop n z s := rfl
  rw [call, execFabricMessageHop]
  refine act_eq ?_
  simp only [h.here, h.arrived, h.absorbed, moved, sendDone_moved h, checked, Bool.or_self, Bool.false_eq_true, if_false]
  rfl

theorem lands_absorbed (s : Hw) (n : Nat) (m : FMsg) {m' : FMsg} (absorbed : m'.absorbed = true) (waiting : m'.waiting = 0) :
    s.lands n m m' = { s with fabric := s.fabric.eraseIdx n } := by
  simp [Hw.lands, absorbed, waiting]

theorem lands_standing (s : Hw) (n : Nat) {m m' : FMsg} (absorbed : m'.absorbed = false) (inside : m'.ejected ≠ m'.size)
    (later : m'.ready ≠ m.ready) : s.lands n m m' = { s with fabric := s.fabric.eraseIdx n ++ [m'] } := by
  simp [Hw.lands, absorbed, inside, later]

theorem lands_core (s : Hw) (n : Nat) (m : FMsg) {m' : FMsg} (absorbed : m'.absorbed = false) (left : m'.ejected = m'.size)
    (core : m'.destEndpoint = false) :
    s.lands n m m' = { s with fabric := s.fabric.eraseIdx n ++ [{ m' with arrived := true, bufs := [] }] } := by
  simp [Hw.lands, absorbed, left, Hw.delivered, core]

section Hop
variable {s : Hw} {n : Nat} {m : FMsg} {b : FBuf} (h : s.Moves n m b)
include h

theorem Hw.Moves.hopped_inside (t : FBuf) : (m.hopped b t s.now).ejected ≠ (m.hopped b t s.now).size := by
  have rest := h.rest
  have flits := h.flits
  simp only [FMsg.hopped, FMsg.size] at rest ⊢
  omega

theorem Hw.Moves.hopped_later (t : FBuf) : (m.hopped b t s.now).ready ≠ m.ready := by
  have due := h.due
  have latency : 0 < m.latency := by unfold FMsg.latency; split <;> omega
  simp only [FMsg.hopped]
  omega

end Hop

/-- Settles O8: the move of one buffer's flits, and the check of those that it brought into the next router. -/
theorem fabricHop : Obligations.FabricHop := by
  unfold Obligations.FabricHop
  intro s n m b t out next here arrived absorbed clean waiting bufs flits rest due first unarmed
  have h : s.hw.Moves n m b := ⟨here, arrived, absorbed, waiting, bufs, flits, rest, due, first⟩
  refine ⟨fun to' enter room => ?hops, fun last core => ?arrives⟩
  case arrives =>
    rw [exec_hop h (moved_out h last) (checkFlits_none unarmed _ _), lands_core _ _ _ (m' := m.out b) absorbed rfl core]
    rfl
  case hops =>
    have moved := moved_hop h to' enter room
    refine ⟨?clean, fun z from' inside data crc => ?struck⟩
    case clean =>
      rw [exec_hop h moved (checkFlits_none unarmed _ _),
        lands_standing _ _ (m' := m.hopped b t s.hw.now) absorbed (h.hopped_inside t) (h.hopped_later t)]
      rfl
    case struck =>
      obtain ⟨u, checked, fault⟩ := checkFlits_struck data crc (m := m.hopped b t s.hw.now) unarmed
        (mem_received_hop h to' from' inside)
      refine ⟨_, exec_hop h moved checked, ?_⟩
      by_cases head : z.flit = 0
      · rw [lands_absorbed _ _ _ (by simp [FMsg.failed, head]) (by simpa [FMsg.failed, head, FMsg.hopped] using waiting), if_pos head]
        exact ⟨fault.flag, fault.mem, fault.cores, by rw [fault.fabric]⟩
      · have poisoned : (m.hopped b t s.hw.now).failed z.flit = { next with poisoned := true } := if_neg head
        rw [poisoned, lands_standing _ _ (m' := { next with poisoned := true }) absorbed (h.hopped_inside t) (h.hopped_later t), if_neg head]
        exact ⟨fault.flag, fault.mem, fault.cores, by rw [fault.fabric]⟩

end Sys2Proof.Machine
end

section
/-!
# The decision of a free arbiter (R132, R133, R135, R136)
-/
namespace Sys2Proof.Machine

/-! ## The winner -/

/-- Fixed precedence gives the resource to the highest input; `b` is the highest so far. -/
theorem foldl_max_input {is : List Nat} {i : Nat} (top : ∀ j ∈ is, j ≤ i) {b : Option Nat} (below : b.getD 0 ≤ i)
    (here : i ∈ is ∨ b = some i) : is.foldl (fun b j => some (max (b.getD 0) j)) b = some i := by
  induction is generalizing b with
  | nil => exact here.resolve_left (by simp)
  | cons j is ih =>
    have hj : j ≤ i := top j (by simp)
    refine ih (fun k hk => top k (by simp [hk])) (Nat.max_le.2 ⟨below, hj⟩) ?_
    rcases here with here | rfl
    · rcases List.mem_cons.1 here with rfl | later
      · exact .inr (congrArg some (Nat.max_eq_right below))
      · exact .inl later
    · exact .inr (congrArg some (Nat.max_eq_left hj))

theorem leastRecent_mem {a : Arb} {is : List Nat} {i : Nat} (win : a.leastRecent is = some i) : i ∈ is := by
  unfold Arb.leastRecent at win
  split at win
  · next j found =>
    obtain rfl := Option.some.inj win
    exact List.mem_of_find?_eq_some found
  · simpa using List.find?_some win

/-- Among inputs that request, one is the least recently granted. -/
theorem leastRecent_isSome {a : Arb} {is : List Nat} {i : Nat} (here : i ∈ is) : (a.leastRecent is).isSome = true := by
  unfold Arb.leastRecent
  split
  · rfl
  · next none =>
    have granted : i ∈ a.lru := by simpa using List.find?_eq_none.1 none i here
    rw [List.find?_isSome]
    exact ⟨i, List.mem_reverse.2 granted, by simpa using here⟩

theorem revoker_mem {a : Arb} {kind d : Nat} {is : List Nat} {i : Nat} (win : a.revoker kind d is = some i) : i ∈ is := by
  unfold Arb.revoker at win
  dsimp only at win
  split at win
  · next j owner =>
    obtain rfl := Option.some.inj win
    split at owner
    · simpa using (Option.filter_eq_some_iff.1 owner).2
    · cases owner
  · simpa using (Option.filter_eq_some_iff.1 win).2

/-- The owner of the period that begins two cycles later revokes, where it requests (R133). -/
theorem revoker_owner {a : Arb} {kind d : Nat} {is : List Nat} {i : Nat} (begins : (d + 2) % arbPeriod kind = 0)
    (owner : a.owner ((d + 2) / arbPeriod kind) = some i) (here : i ∈ is) : a.revoker kind d is = some i := by
  have requests : is.contains i = true := by simpa using here
  unfold Arb.revoker
  dsimp only
  rw [if_pos begins, owner, Option.filter_some, if_pos requests]

theorem winner_fixed {a : Arb} {kind d : Nat} {is : List Nat} {i : Nat} (fixed : a.fixed = true) (here : i ∈ is)
    (top : ∀ j ∈ is, j ≤ i) : a.winner kind d is none = some i := by
  rw [Arb.winner, if_pos fixed]
  exact foldl_max_input top (Nat.zero_le _) (.inl here)

/-- With no holder, an arbiter of slots gives the resource to the revoker, and else to the least recently granted. -/
theorem winner_slots {a : Arb} {kind d : Nat} {is : List Nat} (slots : a.fixed = false) :
    a.winner kind d is none = (a.revoker kind d is).or (a.leastRecent is) := by
  have all : (is.filter fun i => decide (some i ≠ none)) = is := List.filter_eq_self.2 (by simp)
  rw [Arb.winner, if_neg (by simp [slots]), all]
  cases a.revoker kind d is with
  | some o => simp [Option.filter_some]
  | none => rfl

theorem winner_owner {a : Arb} {kind d : Nat} {is : List Nat} {i : Nat} (slots : a.fixed = false)
    (begins : (d + 2) % arbPeriod kind = 0) (owner : a.owner ((d + 2) / arbPeriod kind) = some i) (here : i ∈ is) :
    a.winner kind d is none = some i := by
  rw [winner_slots slots, revoker_owner begins owner here, Option.some_or]

/-- The only input that requests wins under either ranking. -/
theorem winner_only {a : Arb} {kind d : Nat} {is : List Nat} {i : Nat} (here : i ∈ is) (only : ∀ j ∈ is, j = i) :
    a.winner kind d is none = some i := by
  cases mode : a.fixed
  case true => exact winner_fixed mode here fun j hj => (only j hj).le
  case false =>
    rw [winner_slots mode]
    cases revoker : a.revoker kind d is with
    | some j => rw [Option.some_or, only j (revoker_mem revoker)]
    | none =>
      obtain ⟨j, win⟩ := Option.isSome_iff_exists.1 (leastRecent_isSome (a := a) here)
      rw [Option.none_or, win, only j (leastRecent_mem win)]

/-! ## The decision -/

theorem mem_inputs_none {a : Arb} {i : Nat} : i ∈ a.inputs none ↔ ∃ r, (i, r) ∈ a.reqs := by
  simp [Arb.inputs]

/-- The module after an arbiter has granted an input in the present cycle. -/
def Hw.granted (s : Hw) (f kind inst i : Nat) : Hw :=
  let a := s.arb (arbKey f kind inst)
  let start := s.arbCycle kind s.now + 2 + s.arbDelay f kind inst i (a.perturbed + 1)
  s.setArb (arbKey f kind inst) (a.grant (s.arbOrigin + start * arbLen kind) i)

/-- A free arbiter grants the winner among the inputs that request. -/
theorem exec_arbDecision_grant {s : State} {f : FieldIx} {kind : Fin 6} {inst : Fin 396} {i : Nat} {a : Arb}
    (listed : arbExists f.val kind.val inst.val = true) (here : s.hw.arb (arbKey f.val kind.val inst.val) = a)
    (free : a.tenures = []) (win : a.winner kind.val (s.hw.arbCycle kind.val s.hw.now) (a.inputs none) none = some i) :
    exec (.arbDecision f kind inst) s = .next { s with hw := s.hw.granted f.val kind.val inst.val i } := by
  have call : exec (.arbDecision f kind inst) s = execArbDecision f kind inst s := rfl
  rw [call, execArbDecision]
  refine act_eq ?_
  simp only [listed, if_true, Hw.arbDecide, here, free, win, Hw.granted]

/-- Settles O14: the three cases name the winner, and the grant is what its definition says. -/
theorem arbiterGrants : Obligations.ArbiterGrants := by
  unfold Obligations.ArbiterGrants
  intro s f kind inst i k a d listed free requests mode
  have here : i ∈ a.inputs none := mem_inputs_none.2 requests
  have win : a.winner kind.val d (a.inputs none) none = some i := by
    rcases mode with ⟨fixed, top⟩ | only | ⟨slots, begins, owner⟩
    · refine winner_fixed fixed here fun j hj => ?_
      obtain ⟨r, raised⟩ := mem_inputs_none.1 hj
      exact top _ raised
    · refine winner_only here fun j hj => ?_
      obtain ⟨r, raised⟩ := mem_inputs_none.1 hj
      exact only _ raised
    · exact winner_owner slots begins owner here
  refine ⟨_, _, exec_arbDecision_grant listed rfl free win, rfl, ?_, ?_, fun j other => ?_, rfl, rfl, rfl⟩
  · simp only [Arb.grant, a, k, free, List.filter_nil, d]
  · simp [Arb.grant, a, k]
  · simp [Arb.grant, other, a, k]

end Sys2Proof.Machine
end

section
/-!
# Starvation and the watchdog of an arbiter (R136, R140)
-/
namespace Sys2Proof.Machine

/-! ## Starvation -/

/-- FLD_STARVE after a wait that exceeds its threshold. -/
def Field.starved (x : Field) (kind inst : Nat) (input : BitVec 7) : Field :=
  let x := { x with starveCount := satInc x.starveCount }
  if x.starveFlag then x
  else { x with starveFlag := true, starveInput := input, starveInst := BitVec.ofNat 9 inst, starveKind := BitVec.ofNat 3 kind }

theorem starved_shows (x : Field) (kind inst : Nat) (input : BitVec 7) :
    (x.starved kind inst input).starveCount = satInc x.starveCount ∧ (x.starved kind inst input).starveFlag = true ∧
    (x.starveFlag = false → (x.starved kind inst input).starveInput = input) ∧
    (x.starveFlag = true → (x.starved kind inst input).starveInput = x.starveInput) := by
  cases flag : x.starveFlag <;> simp [Field.starved, flag]

/-- The module after input `input` of an arbiter `a` is found to starve with request `r`. -/
def Hw.starves (s : Hw) (f kind inst : Nat) (input : BitVec 7) (a : Arb) (r : ArbReq) : Hw :=
  ((s.setArb (arbKey f kind inst) { a with reqs := ninsert input.toNat { r with flagged := true } a.reqs }).onFld f
    fun x => x.starved kind inst input).raise 6

theorem exec_arbStarve {s : State} {f : FieldIx} {kind : Fin 6} {inst : Fin 396} {input : BitVec 7} {a : Arb} {r : ArbReq}
    (here : s.hw.arb (arbKey f.val kind.val inst.val) = a)
    (waits : a.reqs.find? (fun e => decide (e.1 = input.toNat)) = some (input.toNat, r)) (fresh : r.flagged = false)
    (limit : nget 0 a.thresh input.toNat ≠ 0) (beyond : r.waited > nget 0 a.thresh input.toNat) :
    exec (.arbStarve f kind inst input) s = .next { s with hw := s.hw.starves f.val kind.val inst.val input a r } := by
  have call : exec (.arbStarve f kind inst input) s = execArbStarve f kind inst input s := rfl
  have starves : ¬ (r.flagged || decide (nget 0 a.thresh input.toNat = 0) ||
      decide (r.waited ≤ nget 0 a.thresh input.toNat)) = true := by
    simp [fresh, limit, beyond]
  rw [call, execArbStarve]
  refine act_eq ?_
  simp only [here, waits, if_neg starves]
  rfl

theorem starves_fld (s : Hw) (f kind inst : Nat) (input : BitVec 7) (a : Arb) (r : ArbReq) :
    (s.starves f kind inst input a r).fld f = (s.fld f).starved kind inst input := by
  rw [Hw.starves, Hw.fld, raise_flds, ← Hw.fld, onFld_fld_self, setArb_fld]

theorem starves_arb (s : Hw) (f kind inst : Nat) (input : BitVec 7) (a : Arb) (r : ArbReq) :
    (s.starves f kind inst input a r).arb (arbKey f kind inst) =
      { a with reqs := ninsert input.toNat { r with flagged := true } a.reqs } := by
  rw [Hw.starves, Hw.arb, raise_arbs, Hw.onFld, setFld_arbs, ← Hw.arb, setArb_arb, if_pos rfl]

theorem starves_mem (s : Hw) (f kind inst : Nat) (input : BitVec 7) (a : Arb) (r : ArbReq) :
    (s.starves f kind inst input a r).mem = s.mem := by
  rw [Hw.starves, raise_mem, Hw.onFld, setFld_mem, setArb_mem]

/-! ## The watchdog -/

/-- A detection in the beat in progress opens a recovery that holds it, while starts are left (R327, R328). -/
theorem openRecovery_opens {s : Hw} (live : s.live = true) (runs : s.flt.stopAll = false) (none : s.flt.recovery = none)
    (starts : s.flt.starts < 4) (i : RecIn) (failed : Nat) : ∃ v, s.openRecovery s.curBeat i failed =
      { s with flt := { s.flt with recovery := some v } } ∧ (v.stroke, v.beat) = s.curBeat ∧ v.hold = true := by
  have left : ¬ s.startsOf s.curBeat ≥ 4 := by simpa [Hw.startsOf] using starts
  refine ⟨{ stroke := s.curBeat.1, beat := s.curBeat.2, failedAt := failed, hold := true,
            records := [s.formRecord { i with beat := s.curBeat.2 }], remaps := [], page := .none }, ?_, rfl, rfl⟩
  simp only [Hw.openRecovery, live, runs, none, if_neg left, Bool.not_true, Bool.false_eq_true, if_false]

/-- FLD_WDOG after a bite. -/
def Field.bitten (x : Field) (kind inst holder : Nat) : Field :=
  { x with wdogCount := satInc x.wdogCount, wdogBit := true, wdogKind := BitVec.ofNat 3 kind
           wdogInst := BitVec.ofNat 9 inst, wdogHolder := BitVec.ofNat 7 holder }

/-- The module after a bite and before the beat is held: the arbiter is reset, the bite captured and its holder noted. -/
def Hw.bites (s : Hw) (f kind inst h : Nat) : Hw :=
  let k := arbKey f kind inst
  let t := ((s.setArb k { s.arb k with tenures := [], reqs := [] }).onFld f fun x => x.bitten kind inst h).raise 7
  { t with flt := { t.flt with seenHolder := (t.stk.workStroke, t.stk.beat, k, h) :: t.flt.seenHolder } }

/-- The record of a bite: the holder and how far its request had come. -/
def Hw.biteRecord (s : Hw) (f kind inst h : Nat) : RecIn :=
  { cls := 0x06, loc := locArb kind f inst h
    data := dat [(nget { count := 0 } (s.arb (arbKey f kind inst)).reqs h).progress] }

theorem exec_arbWatchdog {s : State} {f : FieldIx} {kind : Fin 6} {inst : Fin 396} {u : Tenure} {a : Arb} {t : Hw}
    (here : s.hw.arb (arbKey f.val kind.val inst.val) = a) (holds : a.holderAt (s.hw.now * 125) = some u)
    (limit : a.lastMove + (s.hw.fld f.val).wdogLimit.toNat * 256 ≤ s.hw.now)
    (bites : s.hw.bites f.val kind.val inst.val u.input = t)
    (once : (s.hw.stk.workStroke, s.hw.stk.beat, arbKey f.val kind.val inst.val, u.input) ∉ s.hw.flt.seenHolder) :
    exec (.arbWatchdog f kind inst) s = .next { s with
      hw := t.openRecovery t.curBeat (s.hw.biteRecord f.val kind.val inst.val u.input) a.lastMove } := by
  subst here bites
  have call : exec (.arbWatchdog f kind inst) s = execArbWatchdog f kind inst s := rfl
  refine call.trans (act_eq ?_)
  simp only [holds, Option.filter_some, limit, decide_true, if_true]
  rw [if_neg (by simpa [Hw.onFld] using once)]
  rfl

/-- What the recovery that a bite opens rests on is as it was. -/
theorem bites_keeps (s : Hw) (f kind inst h : Nat) : (s.bites f kind inst h).stk = s.stk ∧
    (s.bites f kind inst h).flt = { s.flt with
      seenHolder := (s.stk.workStroke, s.stk.beat, arbKey f kind inst, h) :: s.flt.seenHolder } := by
  constructor
  · rw [Hw.bites, raise_stk, Hw.onFld, setFld_stk, setArb_stk]
  · rw [Hw.bites, raise_stk, raise_flt, Hw.onFld, setFld_stk, setArb_stk, setFld_flt, setArb_flt]

theorem bites_shows (s : Hw) (f kind inst h : Nat) : (s.bites f kind inst h).evt.flags.getLsbD 7 = true ∧
    (s.bites f kind inst h).fld f = (s.fld f).bitten kind inst h ∧
    (s.bites f kind inst h).arb (arbKey f kind inst) = { s.arb (arbKey f kind inst) with tenures := [], reqs := [] } := by
  refine ⟨raise_bit _ 7, ?_, ?_⟩
  · rw [Hw.bites, Hw.fld, raise_flds, ← Hw.fld, onFld_fld_self, setArb_fld]
  · rw [Hw.bites, Hw.arb, raise_arbs, Hw.onFld, setFld_arbs, ← Hw.arb, setArb_arb, if_pos rfl]

/-- Settles O15: the wait that is flagged, and the bite with the recovery that it opens. -/
theorem arbiterWatch : Obligations.ArbiterWatch := by
  unfold Obligations.ArbiterWatch
  intro s f kind inst k a x
  refine ⟨fun input r waits fresh limit beyond => ?starve, fun u h holds input small limit once live runs none starts => ?bite⟩
  case starve =>
    obtain ⟨count, flag, captures, keeps⟩ := starved_shows x kind.val inst.val input
    have fld := starves_fld s.hw f.val kind.val inst.val input a r
    have arb := starves_arb s.hw f.val kind.val inst.val input a r
    refine ⟨_, exec_arbStarve rfl waits fresh limit beyond, raise_bit _ 6, ?_, ?_, ?_, ?_, ?_, ?_, starves_mem ..⟩
    · rw [fld]; exact count
    · rw [fld]; exact flag
    · rw [fld]; exact captures
    · rw [fld]; exact keeps
    · rw [arb]
    · rw [arb]
  case bite =>
    subst input
    let t := s.hw.bites f.val kind.val inst.val u.input
    obtain ⟨stk, flt⟩ := bites_keeps s.hw f.val kind.val inst.val u.input
    obtain ⟨flag, fld, arb⟩ := bites_shows s.hw f.val kind.val inst.val u.input
    have live' : t.live = true := (live_of_stk stk).trans live
    have cur : t.curBeat = s.hw.curBeat := by rw [Hw.curBeat, stk, Hw.curBeat]
    have result := exec_arbWatchdog rfl holds limit rfl once
    obtain ⟨v, opened, beat, hold⟩ := openRecovery_opens live' (by rw [flt]; exact runs) (by rw [flt]; exact none)
      (by rw [flt]; exact starts)
      (s.hw.biteRecord f.val kind.val inst.val u.input) a.lastMove
    rw [opened] at result
    refine ⟨_, v, result, ?_, ?_, ?_, ?_, ?_, flag, rfl, beat.trans cur, hold⟩
    · exact congrArg Arb.tenures arb
    · exact congrArg Arb.reqs arb
    · exact congrArg Field.wdogBit fld
    · refine (congrArg (fun y : Field => y.wdogHolder.toNat) fld).trans ?_
      exact (BitVec.toNat_ofNat ..).trans (Nat.mod_eq_of_lt small)
    · exact congrArg Field.wdogCount fld

end Sys2Proof.Machine
end

section
/-!
# Slot tables and the test block (R137, R141-R143)
-/
namespace Sys2Proof.Machine

/-! ## Slot tables -/

theorem exec_slotTableCommit {s : State} {f : FieldIx} {k : Nat} {h : Hw} (ready : s.hw.barOpen = true)
    (opened : h = { s.hw with tst := { s.hw.tst with armedKey := false } }) (sel : h.selArb f.val = some k)
    (ok : h.selOk f.val = true) :
    exec (.slotTableCommit f) s = .next { s with hw := h.setArb k { h.arb k with commit := true } } := by
  refine (act_bar0_of_open ready _).trans ?_
  rw [← opened]
  simp only [sel, ok, if_true]

/-- With autoinc an access to FLD_ARB_SLOT steps the selected slot of the field. -/
def Hw.slotStepped (s : Hw) (f : Nat) (x : Field) : Hw :=
  if x.selAutoinc then s.setFld f { x with selSlot := x.selSlot + 1 } else s

theorem slotAccess_write {s : Hw} {f k : Nat} (sel : s.selArb f = some k) (ok : s.selOk f = true) (v : W64) :
    s.slotAccess f (some v) = (s.setArb k { s.arb k with
      shadow := nput 0xFF (s.arb k).shadow (s.fld f).selSlot.toNat (v.setWidth 8) }).slotStepped f (s.fld f) := by
  simp only [Hw.slotAccess, sel, ok, if_true]
  rfl

theorem slotAccess_read {s : Hw} {f k : Nat} (sel : s.selArb f = some k) (ok : s.selOk f = true) :
    s.slotAccess f none = Hw.slotStepped { s with
      readData := leBytes 8 (nget (0xFF : Byte) (s.arb k).shadow (s.fld f).selSlot.toNat).toNat } f (s.fld f) := by
  simp only [Hw.slotAccess, sel, ok, if_true]
  rfl

/-! ## The test block -/

/-- The test block after a key: the two in turn open it, any other value locks it (R142). -/
def Tst.keyed (x : Tst) (key : W32) : Tst :=
  if key = 0x7E570A11 then { x with armedKey := true }
  else if key = 0x11A0757E then if x.armedKey then { x with armedKey := false, unlocked := true } else x
  else x.lock

theorem exec_tstUnlock {s : State} (ready : s.hw.barOpen = true) (key : W32) :
    exec (.tstUnlock key) s = .next { s with hw := { s.hw with tst := s.hw.tst.keyed key } } := by
  have call : exec (.tstUnlock key) s = execTstUnlock key s := rfl
  exact call.trans (act_eq (if_neg (by simp [ready])))

theorem keyed_other {key : W32} (first : key ≠ 0x7E570A11) (second : key ≠ 0x11A0757E) (x : Tst) : x.keyed key = x.lock := by
  rw [Tst.keyed, if_neg first, if_neg second]

/-- A register that locking clears is disabled in bit 63. -/
theorem disabled_bit (v : W64) : (v &&& 0x7FFFFFFFFFFFFFFF).getLsbD 63 = false := by
  rw [BitVec.getLsbD_and, show (0x7FFFFFFFFFFFFFFF : W64).getLsbD 63 = false by decide, Bool.and_false]

/-- TST_INJ as an open block stores a write. -/
def Tst.inject (x : Tst) (v : W64) : Tst :=
  { x with armedKey := false, inj := v &&& 0x1FFFFFFFFF, injArm := x.injArm || v.getLsbD 63
           injLeft := if v.getLsbD 63 then max 1 (bits v.toNat 30 23) else x.injLeft }

theorem exec_tstInjArm_locked {s : State} (ready : s.hw.barOpen = true) (locked : s.hw.tst.unlocked = false) (v : W64) :
    exec (.tstInjArm v) s = .next { s with
      hw := { s.hw with tst := { s.hw.tst with armedKey := false, discarded := satInc s.hw.tst.discarded } } } := by
  refine (act_bar0_of_open ready _).trans ?_
  simp [locked, Tst.discard]

theorem exec_tstInjArm_open {s : State} (ready : s.hw.barOpen = true) (unlocked : s.hw.tst.unlocked = true) (v : W64) :
    exec (.tstInjArm v) s = .next { s with hw := { s.hw with tst := s.hw.tst.inject v } } := by
  refine (act_bar0_of_open ready _).trans ?_
  simp [unlocked, Tst.inject]

/-- Settles O16: the accesses of an open BAR0, slot by slot and key by key. -/
theorem slotTablesAndTestBlock : Obligations.SlotTablesAndTestBlock := by
  unfold Obligations.SlotTablesAndTestBlock
  refine ⟨?slots, ?test⟩
  case slots =>
    intro s f k v x h stepped ready sel ok
    refine ⟨exec_slotTableCommit ready rfl sel ok, (act_bar0_of_open ready _).trans ?write, ?read⟩
    case write => exact congrArg (fun y => Host.Outcome.next { s with hw := y }) (slotAccess_write (s := h) (k := k) sel ok v)
    case read =>
      have call : exec (.fldArbSlotAccess f none) s = execFldArbSlotAccess f none s := rfl
      refine call.trans (act_eq ((if_pos ready).trans ?_))
      exact slotAccess_read sel ok
  case test =>
    intro s key v x after
    refine ⟨fun ready => ⟨exec_tstUnlock ready _, exec_tstUnlock ready _, fun first second => ?other,
      fun locked => exec_tstInjArm_locked ready locked v, fun unlocked => ?inject⟩, rfl⟩
    case other =>
      refine ⟨x.lock, ?_, rfl, rfl, rfl, disabled_bit _, rfl, rfl⟩
      rw [exec_tstUnlock ready key, keyed_other first second]
    case inject => exact ⟨x.inject v, exec_tstInjArm_open ready unlocked v, rfl, rfl, fun arm => if_pos arm⟩

end Sys2Proof.Machine
end

section
/-!
# Buckets of a step from copies to the completion record (R131, R233, R239-R248, R319)
-/
namespace Sys2Proof.Machine

/-! ## The buckets that an engine holds -/

theorem find_insertInst (i : Inst) (l : List Inst) : (insertInst i l).find? (fun j => decide (j.seq = i.seq)) = some i := by
  induction l with
  | nil => simp [insertInst]
  | cons j l ih =>
    unfold insertInst
    split
    · simp
    · split
      · simp
      · next differ => rw [List.find?_cons_of_neg (by simpa using fun same => differ same.symm), ih]

/-- The `Inst` that is put is the one that its number then names. -/
theorem setInst_inst (s : Hw) (e : Nat) (i : Inst) : ((s.setInst e i).engine e).inst i.seq = some i := by
  rw [Hw.setInst, Hw.onEngine, setEngine_engine, if_pos rfl]
  exact find_insertInst i _

theorem setInst_inst_of_seq (s : Hw) (e : Nat) {i : Inst} {seq : Nat} (number : i.seq = seq) :
    ((s.setInst e i).engine e).inst seq = some i :=
  number ▸ setInst_inst s e i

@[simp] theorem setInst_mem (s : Hw) (e : Nat) (i : Inst) : (s.setInst e i).mem = s.mem := rfl

/-! ## Copies and results that come in -/

/-- A message that comes in through RIN input 2 changes ports and arbiters alone. -/
theorem reduceIn_frame (s : Hw) (e n : Nat) : ∃ ports arbs, s.reduceIn e n = { s with ports := ports, arbs := arbs } := by
  unfold Hw.reduceIn
  dsimp only
  split
  · obtain ⟨arbs, same⟩ := arbRaise_arbs (s.popInbox _ 5) e 4 0 2 ((32 + 4 * n + 63) / 64)
    exact ⟨_, arbs, same⟩
  · obtain ⟨arbs, same⟩ := arbRaise_arbs s e 4 0 2 ((32 + 4 * n + 63) / 64)
    exact ⟨_, arbs, same⟩

theorem reduceIn_mem (s : Hw) (e n : Nat) : (s.reduceIn e n).mem = s.mem := by
  obtain ⟨ports, arbs, same⟩ := reduceIn_frame s e n
  rw [same]

/-- An `Inst` with values of member `k`'s primary copy: a whole copy takes the slot. -/
def Inst.tookPrimary (i : Inst) (len k off : Nat) (vs : List W32) : Inst :=
  let c := putValues (nget [] i.prim k) off vs
  let i' : Inst := { i with prim := nput [] i.prim k c }
  if c.length < len then i' else { i' with slots := nput none i.slots k (some (copyValues c len)) }

theorem tookPrimary_seq (i : Inst) (len k off : Nat) (vs : List W32) : (i.tookPrimary len k off vs).seq = i.seq := by
  unfold Inst.tookPrimary
  dsimp only
  split <;> rfl

/-- An `Inst` with values of member `k`'s backup copy, which is held. -/
def Inst.tookBackup (i : Inst) (k off : Nat) (vs : List W32) : Inst :=
  { i with back := nput [] i.back k (putValues (nget [] i.back k) off vs) }

section Copies
variable {s : Hw} {e k off f : Nat} {r : RedSec} {b : Bucket} {g : RedGroup} {i : Inst} {vs : List W32}
  (complete : i.complete = false) (buf : i.buf = some f) (slot : nget none i.slots k = none)
  (fits : k * shardLen b.values g.m g.self + off + vs.length ≤ r.nmax e)
include complete buf slot fits

theorem takeCopy_primary : s.takeCopy e r b g i false k off vs =
    (s.memWrite (r.place e f 1 (k * shardLen b.values g.m g.self + off)) (wordBytes vs)).setInst e
      (i.tookPrimary (shardLen b.values g.m g.self) k off vs) := by
  have whole : vs.take (r.nmax e - (k * shardLen b.values g.m g.self + off)) = vs := List.take_of_length_le (by omega)
  simp only [Hw.takeCopy, Hw.writeCopy, complete, buf, slot, whole, Inst.tookPrimary, Bool.false_and, Bool.false_eq_true, if_false,
    Option.isSome_none, Bool.not_false, if_true]
  split <;> rfl

theorem takeCopy_backup (early : i.pastDeadline = false) : s.takeCopy e r b g i true k off vs =
    (s.memWrite (r.place e f 2 (k * shardLen b.values g.m g.self + off)) (wordBytes vs)).setInst e (i.tookBackup k off vs) := by
  have whole : vs.take (r.nmax e - (k * shardLen b.values g.m g.self + off)) = vs := List.take_of_length_le (by omega)
  simp only [Hw.takeCopy, Hw.writeCopy, complete, buf, slot, whole, early, Inst.tookBackup, Bool.false_and, Bool.false_eq_true,
    if_false, Option.isSome_none, Bool.not_true, if_true, ite_self]

end Copies

theorem exec_contrib {s : State} {e : FieldIx} {m : ReduceMsg} {r : RedSec} {b : Bucket} {g : RedGroup} {came h : Hw} {i : Inst}
    (into : s.hw.reduceIn e.val m.values.length = came) (found : came.matchMsg e.val false m = some (r, b, g, h, i)) :
    exec (.contrib e m) s = .next { s with
      hw := h.takeCopy e.val r b g i m.backup m.member.toNat m.offset.toNat m.values } := by
  have call : exec (.contrib e m) s = execContrib e m s := rfl
  refine call.trans (act_eq ?_)
  simp only [into, found]

/-- The module after values are written into the result part of a buffer, where `i` has one (R233). -/
def Hw.resultWritten (s : Hw) (e : Nat) (r : RedSec) (i : Inst) (pos : Nat) (vs : List W32) : Hw := match i.buf with
  | some f => s.memWrite (r.place e f 3 pos) (wordBytes vs)
  | none => s

theorem putResult_eq (s : Hw) (e : Nat) (r : RedSec) (i : Inst) (pos : Nat) (vs : List W32) : s.putResult e r i pos vs =
    ((s.resultWritten e r i pos vs).setInst e { i with res := putValues i.res pos vs }, { i with res := putValues i.res pos vs }) :=
  rfl

theorem exec_result_part {s : State} {e : FieldIx} {m : ReduceMsg} {r : RedSec} {b : Bucket} {g : RedGroup} {came h : Hw}
    {i : Inst} {f pos : Nat} (into : s.hw.reduceIn e.val m.values.length = came)
    (found : came.matchMsg e.val true m = some (r, b, g, h, i)) (complete : i.complete = false) (delivered : i.delivered = false)
    (buf : i.buf = some f) (place : m.shard.toNat * shardCut b.values g.m + m.offset.toNat = pos)
    (part : (putValues i.res pos m.values).length < b.values) :
    exec (.result e m) s = .next { s with
      hw := (h.memWrite (r.place e.val f 3 pos) (wordBytes m.values)).setInst e.val
        { i with res := putValues i.res pos m.values } } := by
  have call : exec (.result e m) s = execResult e m s := rfl
  refine call.trans (act_eq ?_)
  simp only [into, found, complete, delivered, place, putResult_eq, Hw.resultWritten, buf, Bool.or_self, Bool.false_eq_true,
    if_false, if_neg (Nat.ne_of_lt part)]

/-! ## The sum of a shard -/

theorem shardLen_zero (n j : Nat) : shardLen n 0 j = 0 := by
  simp [shardLen, shardCut]

/-- Slots that are added one after the other to a shard of `len` values. -/
theorem foldl_zip_fadd {len : Nat} {slot : Nat → List W32} {ks : List Nat} (whole : ∀ k ∈ ks, (slot k).length = len)
    {acc : List W32} (length : acc.length = len) :
    let v := ks.foldl (fun acc k => (acc.zip (slot k)).map fun p => fadd p.1 p.2) acc
    v.length = len ∧ ∀ p < len, v.getD p 0 = ks.foldl (fun a k => fadd a ((slot k).getD p 0)) (acc.getD p 0) := by
  induction ks generalizing acc with
  | nil => exact ⟨length, fun _ _ => rfl⟩
  | cons k ks ih =>
    have size : (slot k).length = len := whole k (by simp)
    obtain ⟨total, values⟩ := ih (fun k' later => whole k' (by simp [later]))
      (acc := (acc.zip (slot k)).map fun p => fadd p.1 p.2) (by simp [length, size])
    refine ⟨total, fun p inside => (values p inside).trans ?_⟩
    have first : p < acc.length := length ▸ inside
    have second : p < (slot k).length := size ▸ inside
    simp [List.getD_eq_getElem?_getD, first, second]

theorem sumSlots_spec {i : Inst} {n m j : Nat}
    (whole : ∀ k < m, ((nget none i.slots k).getD []).length = shardLen n m j) :
    (sumSlots i (shardLen n m j) m).length = shardLen n m j ∧ ∀ p < shardLen n m j, (sumSlots i (shardLen n m j) m).getD p 0 =
      (List.range (m - 1)).foldl (fun a k => fadd a (((nget none i.slots (k + 1)).getD []).getD p 0))
        (((nget none i.slots 0).getD []).getD p 0) := by
  have first : (((nget none i.slots 0).getD []).take (shardLen n m j)).length = shardLen n m j := by
    rcases Nat.eq_zero_or_pos m with rfl | some
    · simp [shardLen_zero]
    · rw [List.length_take, whole 0 some, Nat.min_self]
  obtain ⟨length, values⟩ := foldl_zip_fadd (slot := fun k => (nget none i.slots (k + 1)).getD []) (ks := List.range (m - 1))
    (fun k listed => whole (k + 1) (by have := List.mem_range.1 listed; omega)) first
  refine ⟨length, fun p inside => (values p inside).trans ?_⟩
  rw [List.getD_eq_getElem?_getD (l := List.take _ _), List.getElem?_take_of_lt inside, ← List.getD_eq_getElem?_getD]

/-! ## What sending and storing leave of the engines -/

theorem foldl_engines {α : Type} {f : Hw → α → Hw} (step : ∀ s x, (f s x).engines = s.engines) (l : List α) (s : Hw) :
    (l.foldl f s).engines = s.engines :=
  List.foldlRecOn l f (motive := fun t : Hw => t.engines = s.engines) rfl fun t same x _ => (step t x).trans same

theorem leashDrop_engines (s : Hw) (p : Nat) (recorded : Bool) (header : List Byte) :
    (s.leashDrop p recorded header).engines = s.engines := by
  unfold Hw.leashDrop
  dsimp only
  split
  · rw [record_engines, raise_engines]
  · rfl

theorem sendPort_engines (s : Hw) (p : Nat) (m : LMsg) : (s.sendPort p m).engines = s.engines := by
  rw [Hw.sendPort, Hw.sendPortAt]
  obtain ⟨arbs, same⟩ := arbRaise_arbs (s.onPort p fun x => { x with egress := x.egress ++ [(legrInput m, m.frames, m)] })
    (portField p) 2 (portSite p) (legrInput m) m.frames
  rw [same]
  rfl

theorem sendRank_engines (s : Hw) (rank : W16) (m : LMsg) : (s.sendRank rank m).engines = s.engines := by
  unfold Hw.sendRank
  split
  · exact leashDrop_engines ..
  · exact sendPort_engines ..

theorem sendReduce_engines (s : Hw) (e : Nat) (g : RedGroup) (b : Bucket) (i : Inst) (result backup : Bool)
    (shard member dest : Nat) (vs : List W32) :
    (s.sendReduce e g b i result backup shard member dest vs).engines = s.engines :=
  foldl_engines (fun _ _ => sendRank_engines ..) _ s

theorem sendGradOut_engines (s : Hw) (b : Bucket) (i : Inst) (shard : Nat) (vs : List W32) :
    (s.sendGradOut b i shard vs).engines = s.engines :=
  foldl_engines (fun _ _ => sendPort_engines ..) _ s

theorem noHome_engines (s : Hw) (src off n access : Nat) : (s.noHome src off n access).engines = s.engines := by
  unfold Hw.noHome
  split
  · exact record_engines ..
  · rfl

/-- A store that its page takes: the bytes, the requests at the arbiters and the pieces marked dirty. -/
theorem spanStore_good {s : Hw} {src off : Nat} {bs : List Byte} (good : s.spanStatus src off bs.length = 0) :
    ∃ arbs tng, (s.spanStore src off bs).1 = { s with arbs := arbs, tng := tng, mem := nputList 0 s.mem off bs } := by
  obtain ⟨a, traffic⟩ := unitTraffic_arbs s 209 off bs.length false
  obtain ⟨arbs, tng, dirty⟩ := markDirty_frame { s with arbs := a } off bs.length
  refine ⟨arbs, tng, ?_⟩
  simp only [Hw.spanStore, good, if_true, traffic, dirty]
  rfl

theorem spanStore_engines (s : Hw) (src off : Nat) (bs : List Byte) : (s.spanStore src off bs).1.engines = s.engines := by
  by_cases good : s.spanStatus src off bs.length = 0
  · obtain ⟨arbs, tng, same⟩ := spanStore_good good
    rw [same]
  · simp only [Hw.spanStore, if_neg good]
    exact noHome_engines ..

theorem spanStoreAny_engines (s : Hw) (src off : Nat) (bs : List Byte) : (s.spanStoreAny src off bs).1.engines = s.engines :=
  List.foldlRecOn _ _ (motive := fun t : Hw × SpanStatus => t.1.engines = s.engines) rfl
    fun t same p _ => (spanStore_engines t.1 src p.1 _).trans same

/-- A store that lies in one page is one part of it. -/
theorem spanStoreAny_mem {s : Hw} {src off : Nat} {bs : List Byte} (good : s.spanStatus src off bs.length = 0)
    (inside : off % pageBytes + bs.length ≤ pageBytes) : (s.spanStoreAny src off bs).1.mem = nputList 0 s.mem off bs := by
  cases bs with
  | nil => rfl
  | cons x xs =>
    have whole : sub (x :: xs) (off - off) (x :: xs).length = x :: xs := by simp [sub]
    obtain ⟨arbs, tng, stored⟩ := spanStore_good good
    simp only [Hw.spanStoreAny, pageParts_one (List.length_pos_of_ne_nil (List.cons_ne_nil x xs)) inside, List.foldl_cons,
      List.foldl_nil, whole, stored]

theorem writeSpan_engines (s : Hw) (e addr : Nat) (bs : List Byte) : (s.writeSpan e addr bs).engines = s.engines := by
  unfold Hw.writeSpan
  split
  · exact spanStoreAny_engines ..
  · exact foldl_engines (fun _ _ => sendRank_engines ..) _ s

theorem writeSpan_mem {s : Hw} {addr : Nat} {bs : List Byte} (own : s.ownRank (addrRank addr) = true)
    (good : s.spanStatus s.spn.rank.toNat (addrOff addr) bs.length = 0) (inside : addrOff addr % pageBytes + bs.length ≤ pageBytes)
    (e : Nat) : (s.writeSpan e addr bs).mem = nputList 0 s.mem (addrOff addr) bs := by
  rw [Hw.writeSpan, if_pos own, spanStoreAny_mem good inside]

theorem wordBytes_length (vs : List W32) : (wordBytes vs).length = 4 * vs.length := by
  induction vs with
  | nil => rfl
  | cons v vs ih =>
    have split : wordBytes (v :: vs) = leBytes 4 v.toNat ++ wordBytes vs := rfl
    rw [split, List.length_append, leBytes_length, ih, List.length_cons]
    omega

/-! ## Delivery -/

/-- An `Inst` whose result has been sent; an empty one is complete (R242, R243). -/
def Inst.sent (i : Inst) (b : Bucket) (stroke : Nat) : Inst :=
  { i with delivered := true, complete := (i.result b).isEmpty, doneStroke := stroke }

theorem deliver_inst (s : Hw) (e : Nat) (b : Bucket) (g : RedGroup) (i : Inst) :
    ((s.deliver e b g i).engine e).inst i.seq = some (i.sent b s.stk.num.toNat) := by
  have engines : (s.deliver e b g i).engines = (s.setInst e (i.sent b s.stk.num.toNat)).engines := by
    unfold Hw.deliver
    dsimp only
    split
    · exact sendGradOut_engines ..
    · exact writeSpan_engines ..
  rw [Hw.engine, engines]
  exact setInst_inst s e (i.sent b s.stk.num.toNat)

/-- A shard delivered to memory of this module that lies in one page. -/
theorem deliver_mem {s : Hw} {b : Bucket} {g : RedGroup} {i : Inst} {v : List W32} {a : Nat}
    (addr : b.dest.toNat + g.self * shardCut b.values g.m * 4 = a) (sum : i.sum = some v) (shard : b.shardMode = true)
    (memory : b.bellows = false) (own : s.ownRank (addrRank a) = true)
    (good : s.spanStatus s.spn.rank.toNat (addrOff a) (4 * v.length) = 0)
    (inside : addrOff a % pageBytes + 4 * v.length ≤ pageBytes) (e : Nat) :
    (s.deliver e b g i).mem = nputList 0 s.mem (addrOff a) (wordBytes v) := by
  have result : i.result b = v := by simp [Inst.result, shard, sum]
  rw [← wordBytes_length] at good inside
  simp only [Hw.deliver, memory, shard, result, addr, Bool.false_eq_true, if_false, if_true]
  exact writeSpan_mem (s := s.setInst e _) own good inside e

/-! ## The end of a sum -/

/-- An `Inst` at the end of the sum of its own shard (R241). -/
def Inst.summed (i : Inst) (b : Bucket) (g : RedGroup) : Inst :=
  let v := sumSlots i (shardLen b.values g.m g.self) g.m
  { i with sum := some v, res := putValues i.res (g.self * shardCut b.values g.m) v }

/-- The module with the sum of the own shard in the result part, before it is delivered. -/
def Hw.holdsSum (s : Hw) (e : Nat) (r : RedSec) (b : Bucket) (g : RedGroup) (i : Inst) : Hw :=
  (s.resultWritten e r i (g.self * shardCut b.values g.m) (sumSlots i (shardLen b.values g.m g.self) g.m)).setInst e
    (i.summed b g)

/-- The sum goes to the other members. -/
def Hw.sendSum (s : Hw) (e : Nat) (b : Bucket) (g : RedGroup) (i : Inst) (v : List W32) : Hw :=
  ((List.range g.m).filter fun k => decide (k ≠ g.self)).foldl (fun s k => s.sendReduce e g b i true false g.self g.self k v) s

/-- The module once the own shard of `i` is summed: under SHARD it is delivered, under ALL sent to the other members
and delivered with the last of the bucket. -/
def Hw.reduced (s : Hw) (e : Nat) (r : RedSec) (b : Bucket) (g : RedGroup) (i : Inst) : Hw :=
  let t := s.holdsSum e r b g i
  let j := i.summed b g
  if b.shardMode then t.deliver e b g j
  else
    let u := t.sendSum e b g j (sumSlots i (shardLen b.values g.m g.self) g.m)
    if j.res.length = b.values then u.deliver e b g j else u

/-- An `Inst` whose own shard can be summed: full, and every slot filled. -/
def Inst.isReady (r : RedSec) (i : Inst) : Bool :=
  !i.complete && i.full.isSome && i.sum.isNone && (match r.buckets[i.bucket]? with
    | some b => i.slotsFull b.values (r.groupOf b)
    | none => false)

theorem isReady_iff {r : RedSec} {i : Inst} : i.isReady r = true ↔ i.complete = false ∧ i.full.isSome = true ∧ i.sum = none ∧
    ∃ b, r.buckets[i.bucket]? = some b ∧ i.slotsFull b.values (r.groupOf b) = true := by
  unfold Inst.isReady
  cases r.buckets[i.bucket]? <;> simp [and_assoc]

theorem exec_shardReduced {s : State} {e : FieldIx} {r : RedSec} {b : Bucket} {i : Inst} {n : W64}
    (sec : s.hw.redSec = some r) (first : (s.hw.engine e.val).insts.find? (Inst.isReady r) = some i) (number : n.toNat = i.seq)
    (bucket : r.buckets[i.bucket]? = some b) :
    exec (.shardReduced e n) s = .next { s with hw := s.hw.reduced e.val r b (r.groupOf b) i } := by
  have call : exec (.shardReduced e n) s = execShardReduced e n s := rfl
  refine call.trans (act_eq ?_)
  simp only [sec]
  split
  · next none => exact absurd (none.symm.trans first) (by simp)
  · next j found =>
    obtain rfl : j = i := Option.some.inj (found.symm.trans first)
    rw [if_neg (by simp [number]), bucket]
    rfl

theorem reduced_inst (s : Hw) (e : Nat) (r : RedSec) (b : Bucket) (g : RedGroup) (i : Inst) :
    ∃ j, ((s.reduced e r b g i).engine e).inst i.seq = some j ∧ j.sum = (i.summed b g).sum ∧ j.res = (i.summed b g).res ∧
      j.delivered = (b.shardMode || decide (j.res.length = b.values) || i.delivered) := by
  have kept : (((s.holdsSum e r b g i).sendSum e b g (i.summed b g) (sumSlots i (shardLen b.values g.m g.self) g.m)).engines) =
      (s.holdsSum e r b g i).engines := foldl_engines (fun _ _ => sendReduce_engines ..) _ _
  unfold Hw.reduced
  dsimp only
  cases mode : b.shardMode
  case true => exact ⟨_, deliver_inst _ e b g (i.summed b g), rfl, rfl, rfl⟩
  case false =>
    by_cases last : (i.summed b g).res.length = b.values
    · rw [if_pos last]
      exact ⟨_, deliver_inst _ e b g (i.summed b g), rfl, rfl, by simp [Inst.sent, last]⟩
    · rw [if_neg last]
      refine ⟨i.summed b g, ?_, rfl, rfl, by rw [Bool.false_or, decide_eq_false last, Bool.false_or]; rfl⟩
      rw [if_neg Bool.false_ne_true, Hw.engine, kept]
      exact setInst_inst _ e (i.summed b g)

theorem reduced_mem {s : Hw} {e : Nat} {r : RedSec} {b : Bucket} {g : RedGroup} {i : Inst} {a : Nat} {v : List W32}
    (addr : b.dest.toNat + g.self * shardCut b.values g.m * 4 = a) (sum : (i.summed b g).sum = some v)
    (shard : b.shardMode = true) (memory : b.bellows = false) (own : s.ownRank (addrRank a) = true)
    (good : s.spanStatus s.spn.rank.toNat (addrOff a) (4 * v.length) = 0)
    (inside : addrOff a % pageBytes + 4 * v.length ≤ pageBytes) :
    (s.reduced e r b g i).mem =
      nputList 0 (s.resultWritten e r i (g.self * shardCut b.values g.m) v).mem (addrOff a) (wordBytes v) := by
  obtain rfl := Option.some.inj sum
  have same : ∃ mem engines, s.holdsSum e r b g i = { s with mem := mem, engines := engines } := by
    unfold Hw.holdsSum Hw.resultWritten
    split <;> exact ⟨_, _, rfl⟩
  have own' : (s.holdsSum e r b g i).ownRank (addrRank a) = true := by
    obtain ⟨mem, engines, same⟩ := same
    rw [same]
    exact own
  have good' : (s.holdsSum e r b g i).spanStatus (s.holdsSum e r b g i).spn.rank.toNat (addrOff a)
      (4 * (sumSlots i (shardLen b.values g.m g.self) g.m).length) = 0 := by
    obtain ⟨mem, engines, same⟩ := same
    rw [same]
    exact good
  simp only [Hw.reduced, shard, if_true]
  exact deliver_mem addr rfl shard memory own' good' inside e

/-! ## Acknowledgement, completion record and abort -/

theorem exec_resultWriteAck {s : State} {e : FieldIx} {r : RedSec} {b : Bucket} {i : Inst} {n : W64} (sec : s.hw.redSec = some r)
    (here : (s.hw.engine e.val).inst n.toNat = some i) (bucket : r.buckets[i.bucket]? = some b) (memory : b.bellows = false)
    (delivered : i.delivered = true) (complete : i.complete = false) :
    exec (.resultWriteAck e n) s = .next { s with hw := s.hw.completeInst e.val i 0 } := by
  have call : exec (.resultWriteAck e n) s = execResultWriteAck e n s := rfl
  refine call.trans (act_eq ?_)
  simp [sec, here, bucket, memory, delivered, complete]

/-- An engine that has posted `i` (R245, R246). -/
def Engine.posted (x : Engine) (i : Inst) : Engine :=
  { x with insts := x.insts.filter fun j => decide (j.seq ≠ i.seq), nextPost := x.nextPost + 1, cplHead := x.cplHead + 1
           doneCnt := x.doneCnt + 1, lateCnt := if decide (i.status = 0) && i.late then x.lateCnt + 1 else x.lateCnt }

/-- The module with the completion record of `i` in the ring, before a core is notified. -/
def Hw.posted (s : Hw) (e : Nat) (r : RedSec) (i : Inst) : Hw :=
  (({ s with draws := if i.full.isNone then s.draws + 1 else s.draws } : Hw).memWrite
    (bonded e 0 (r.cplOff + (s.engine e).cplHead.toNat % r.cplEntries * 32)) (complRecord s.draws i)).setEngine e
    ((s.engine e).posted i)

/-- The core that a bucket names is sent the record. -/
def Hw.notifies (s : Hw) (e : Nat) (bytes : List Byte) : Option Bucket → Hw
  | some b => s.unitSend (mkEndpoint e 1) b.notifyCore false b.channel 0 bytes
  | none => s

theorem notifies_frame (s : Hw) (e : Nat) (bytes : List Byte) (o : Option Bucket) :
    ∃ fabric, s.notifies e bytes o = { s with fabric := fabric } := by
  cases o <;> exact ⟨_, rfl⟩

theorem exec_completionPost {s : State} {e : FieldIx} {r : RedSec} {i : Inst} (sec : s.hw.redSec = some r)
    (here : (s.hw.engine e.val).inst (s.hw.engine e.val).nextPost.toNat = some i) (complete : i.complete = true)
    (room : ((s.hw.engine e.val).cplHead - (s.hw.engine e.val).cplTail).toNat < r.cplEntries) :
    exec (.completionPost e) s = .next { s with
      hw := (s.hw.posted e.val r i).notifies e.val (complRecord s.hw.draws i) ((r.buckets[i.bucket]?).filter (·.notify)) } := by
  have call : exec (.completionPost e) s = execCompletionPost e s := rfl
  have free : ¬ (!i.complete || decide (((s.hw.engine e.val).cplHead - (s.hw.engine e.val).cplTail).toNat ≥ r.cplEntries)) =
      true := by
    rw [complete, Bool.not_true, Bool.false_or, decide_eq_true_eq]
    exact Nat.not_le.2 room
  have drawn : (if i.full.isNone then { s.hw with draws := s.hw.draws + 1 } else s.hw) =
      { s.hw with draws := if i.full.isNone then s.hw.draws + 1 else s.hw.draws } := by
    split <;> rfl
  refine call.trans (act_eq ?_)
  simp only [sec, here, if_neg free, drawn, Hw.posted, Engine.posted]
  cases (r.buckets[i.bucket]?).filter (·.notify) <;> rfl

theorem exec_redEngAbort {s : State} {h : Hw} {e : FieldIx} {i : Inst} {n : W64} (ready : s.hw.barOpen = true)
    (opened : h = { s.hw with tst := { s.hw.tst with armedKey := false } }) (here : (h.engine e.val).inst n.toNat = some i)
    (complete : i.complete = false) :
    exec (.redEngAbort e n) s = .next { s with hw := h.setInst e.val { i with abort := true } } := by
  have open' : h.instOpen e.val i = true := by simp [Hw.instOpen, Engine.isOpen, complete]
  refine (act_bar0_of_open ready _).trans ?_
  rw [← opened]
  simp only [here, Option.filter_some, open', if_true]

/-! ## The obligation -/

/-- Settles O27: what each message does with the `Inst` that it matches, and the sum, the delivery and the record at its end. -/
theorem reductionOfInstances : Obligations.ReductionOfInstances := by
  unfold Obligations.ReductionOfInstances
  refine ⟨?copies, ?ends⟩
  case copies =>
    intro s e m r b g i f came len p here complete buf
    have mem : came.mem = s.hw.mem := reduceIn_mem ..
    refine ⟨fun found fits => ⟨fun primary slot => ?primary, fun backup slot early => ?backup⟩,
      fun found delivered => ?result⟩
    case primary =>
      refine ⟨_, exec_contrib rfl found, ?_, ?_⟩
      · rw [primary, takeCopy_primary complete buf slot fits, setInst_mem, Hw.memWrite, mem]
      · rw [primary, takeCopy_primary complete buf slot fits]
        exact setInst_inst_of_seq _ e.val (tookPrimary_seq ..)
    case backup =>
      refine ⟨_, exec_contrib rfl found, ?_, ?_⟩
      · rw [backup, takeCopy_backup complete buf slot fits early, setInst_mem, Hw.memWrite, mem]
      · rw [backup, takeCopy_backup complete buf slot fits early]
        exact setInst_inst _ e.val (i.tookBackup ..)
    case result =>
      intro p0 res part
      refine ⟨_, exec_result_part rfl found complete delivered buf rfl part, setInst_inst _ e.val _, ?_⟩
      rw [setInst_mem, Hw.memWrite, mem]
  case ends =>
    intro s e r i n x ready sec here number
    have here' : x.inst n.toNat = some i := by rw [number]; exact here
    refine ⟨fun b pre post bucket insts waits others => ?reduced, fun b bucket memory delivered complete => ?acked,
      fun complete next room => ?posted, fun complete opened => ?aborted⟩
    case reduced =>
      have first : x.insts.find? (Inst.isReady r) = some i := by
        rw [insts, List.find?_append, List.find?_cons_of_pos (isReady_iff.2 waits), List.find?_eq_none.2, Option.none_or]
        exact fun j listed is => (others j listed).1 (isReady_iff.1 is)
      intro g len first' slot
      obtain ⟨j, put, sum, res, delivered⟩ := reduced_inst s.hw e.val r b g i
      refine ⟨_, j, _, exec_shardReduced sec first number bucket, put, sum, res, delivered, sumSlots_spec, ?_⟩
      intro a shard memory own good inside
      refine (reduced_mem rfl rfl shard memory own good inside).trans ?_
      unfold Hw.resultWritten
      cases i.buf <;> rfl
    case acked =>
      exact ⟨_, exec_resultWriteAck sec here' bucket memory delivered complete, setInst_inst _ e.val _⟩
    case posted =>
      have engine : (s.hw.posted e.val r i).engine e.val = x.posted i := (setEngine_engine ..).trans (if_pos rfl)
      obtain ⟨fabric, same⟩ := notifies_frame (s.hw.posted e.val r i) e.val (complRecord s.hw.draws i)
        ((r.buckets[i.bucket]?).filter (·.notify))
      have result := exec_completionPost sec (by rw [next]; exact here') complete room
      rw [same] at result
      refine ⟨_, result, ?_, ?_, ?_, fun _ => rfl⟩
      · exact (congrArg Engine.nextPost engine).trans (congrArg (· + 1) next)
      · exact congrArg Engine.cplHead engine
      · exact congrArg Engine.doneCnt engine
    case aborted => exact ⟨_, exec_redEngAbort opened rfl here' complete, setInst_inst _ e.val _, rfl⟩

end Sys2Proof.Machine
end

section
/-!
# The order of a sort (R177)

Entries are compared by one whole number, their rank; the model's sort is then the library's insertion sort by rank, whose
stability says that a sublist in order keeps its place.
-/
namespace Sys2Proof.Machine

/-- An entry's key as the job reads it, turned around for a descending job. -/
def SortJob.rank (j : SortJob) (e : W64 × W64) : Int :=
  let key : Int := if j.signed then e.1.toInt else e.1.toNat
  if j.descending then -key else key

theorem rank_le_iff (j : SortJob) (a b : W64 × W64) : j.rank a ≤ j.rank b ↔
    if j.signed then (if j.descending then b.1.toInt ≤ a.1.toInt else a.1.toInt ≤ b.1.toInt)
    else if j.descending then b.1.toNat ≤ a.1.toNat else a.1.toNat ≤ b.1.toNat := by
  unfold SortJob.rank
  cases j.signed <;> cases j.descending <;> simp

theorem sortLe_iff (j : SortJob) (a b : W64 × W64) : sortLe j a b = true ↔ j.rank a ≤ j.rank b := by
  rw [rank_le_iff, sortLe]
  cases j.signed <;> cases j.descending <;> simp

/-- Whether one entry's rank is at most another's: total and transitive, as the order of whole numbers is. -/
abbrev SortJob.ranked (j : SortJob) : W64 × W64 → W64 × W64 → Prop := Order.Preimage j.rank (· ≤ ·)

theorem sortInsert_eq_orderedInsert (j : SortJob) (x : W64 × W64) (es : List (W64 × W64)) :
    sortInsert j x es = es.orderedInsert j.ranked x := by
  induction es with
  | nil => rfl
  | cons y ys ih => simp only [sortInsert, List.orderedInsert_cons, sortLe_iff, ih, Order.Preimage]

theorem sortEntries_eq_insertionSort (j : SortJob) (es : List (W64 × W64)) :
    sortEntries j es = es.insertionSort j.ranked := by
  induction es with
  | nil => rfl
  | cons x xs ih => rw [sortEntries, ih, sortInsert_eq_orderedInsert, List.insertionSort_cons]

theorem sortEntries_perm (j : SortJob) (es : List (W64 × W64)) : (sortEntries j es).Perm es := by
  rw [sortEntries_eq_insertionSort]
  exact List.perm_insertionSort _ _

theorem sortEntries_pairwise (j : SortJob) (es : List (W64 × W64)) : (sortEntries j es).Pairwise j.ranked := by
  rw [sortEntries_eq_insertionSort]
  exact List.pairwise_insertionSort _ _

/-- The entries of one key have one rank, so they are in order as they stand, and the sort keeps them as a sublist; it has no
others of that key. -/
theorem sortEntries_stable (j : SortJob) (es : List (W64 × W64)) (key : W64) :
    (sortEntries j es).filter (fun e => decide (e.1 = key)) = es.filter fun e => decide (e.1 = key) := by
  have inOrder : (es.filter fun e => decide (e.1 = key)).Pairwise j.ranked := by
    refine List.pairwise_of_forall_mem_list fun a ha b hb => ?_
    have ka : a.1 = key := by simpa using (List.mem_filter.1 ha).2
    have kb : b.1 = key := by simpa using (List.mem_filter.1 hb).2
    simp [Order.Preimage, SortJob.rank, ka, kb]
  have kept : (es.filter fun e => decide (e.1 = key)).Sublist (sortEntries j es) := by
    rw [sortEntries_eq_insertionSort]
    exact List.sublist_insertionSort inOrder List.filter_sublist
  have among := kept.filter fun e => decide (e.1 = key)
  rw [List.filter_filter] at among
  simp only [Bool.and_self] at among
  exact (among.eq_of_length ((sortEntries_perm j es).filter _).length_eq.symm).symm

/-- Settles O20: the sort is the insertion sort by rank, which is a sorted permutation and stable. -/
theorem sortOrder : Obligations.SortOrder := by
  unfold Obligations.SortOrder
  intro j es key
  exact ⟨sortEntries_perm j es, (sortEntries_pairwise j es).imp (rank_le_iff j _ _).1, sortEntries_stable j es key⟩

end Sys2Proof.Machine
end

section
/-!
# What a herder's errors, messages and table loads change (R159, R163, R168, R180)
-/
namespace Sys2Proof.Machine

/-! ## A herder after an operation -/

@[simp] theorem onHerder_herder (s : Hw) (h n : Nat) (f : Herder → Herder) :
    (s.onHerder h f).herder n = if n = h then f (s.herder h) else s.herder n :=
  setHerder_herder s h n _

@[simp] theorem raise_herder (s : Hw) (n h : Nat) : (s.raise n).herder h = s.herder h := by
  rw [Hw.herder, raise_herders, Hw.herder]

@[simp] theorem record_herder (s : Hw) (r : RecIn) (h : Nat) : (s.record r).herder h = s.herder h := by
  rw [Hw.herder, record_herders, Hw.herder]

@[simp] theorem onHerder_mem (s : Hw) (h : Nat) (f : Herder → Herder) : (s.onHerder h f).mem = s.mem := rfl
@[simp] theorem onHerder_fabric (s : Hw) (h : Nat) (f : Herder → Herder) : (s.onHerder h f).fabric = s.fabric := rfl

/-! ## Errors (R180) -/

/-- A herder that has counted an error, and captured it where it held none. -/
def Herder.erred (x : Herder) (code layer token : Nat) : Herder :=
  let x := { x with errCount := satInc x.errCount }
  if x.errFlag then x
  else { x with errFlag := true, errLayer := BitVec.ofNat 8 layer, errToken := BitVec.ofNat 17 token
                errCode := BitVec.ofNat 4 code }

/-- An error without late values has one record. -/
theorem herdErr_record (s : Hw) (h code layer token : Nat) :
    ∃ r, s.herdErr h code layer token = (s.herdCapture h code layer token).record r :=
  ⟨_, rfl⟩

@[simp] theorem herdErr_herder (s : Hw) (h code layer token : Nat) :
    (s.herdErr h code layer token).herder h = (s.herder h).erred code layer token := by
  obtain ⟨r, recorded⟩ := herdErr_record s h code layer token
  rw [recorded, record_herder, Hw.herdCapture, raise_herder, onHerder_herder, if_pos rfl]
  rfl

theorem herdErr_flagged (s : Hw) (h code layer token : Nat) :
    (s.herdErr h code layer token).evt.flags.getLsbD 8 = true := by
  obtain ⟨r, recorded⟩ := herdErr_record s h code layer token
  rw [recorded]
  exact record_stays r (raise_bit _ 8)

/-- What an error leaves of a herder. -/
theorem erred_frame (x : Herder) (code layer token : Nat) :
    x.erred code layer token = { x with
      errCount := satInc x.errCount, errFlag := true, errLayer := (x.erred code layer token).errLayer
      errToken := (x.erred code layer token).errToken, errCode := (x.erred code layer token).errCode } := by
  unfold Herder.erred
  cases captured : x.errFlag <;> rfl

theorem erred_captures {x : Herder} (code layer token : Nat) (free : x.errFlag = false) :
    (x.erred code layer token).errCode = BitVec.ofNat 4 code ∧
      (x.erred code layer token).errToken = BitVec.ofNat 17 token := by
  simp [Herder.erred, free]

theorem erred_keeps_code {x : Herder} (code layer token : Nat) (held : x.errFlag = true) :
    (x.erred code layer token).errCode = x.errCode := by
  simp [Herder.erred, held]

/-! ## Messages (R159, R168) -/

/-- A message to a core goes where the remap list sends it. -/
theorem herderSend_joins (s : Hw) (h core channel : Nat) (payload : List Byte) :
    ∃ m, s.herderSend h core channel payload = { s with fabric := s.fabric ++ [m] } ∧ m.dest = (s.herder h).remapTo core ∧
      m.source = mkEndpoint h 0 ∧ m.channel = channel :=
  ⟨_, rfl, rfl, rfl, rfl⟩

/-! ## Table loads (R163) -/

/-- `t` is the module after loads into the layer buffers of herder `h`. -/
structure LoadsBuffers (s t : Hw) (h : Nat) : Prop where
  frame : t = { s with herders := t.herders }
  others : ∀ n, n ≠ h → t.herder n = s.herder n
  own : t.herder h = { s.herder h with bufs := (t.herder h).bufs }

theorem LoadsBuffers.refl (s : Hw) (h : Nat) : LoadsBuffers s s h := ⟨rfl, fun _ _ => rfl, rfl⟩

theorem LoadsBuffers.trans {s t u : Hw} {h : Nat} (a : LoadsBuffers s t h) (b : LoadsBuffers t u h) : LoadsBuffers s u h where
  frame := by rw [b.frame, a.frame]
  others n other := (b.others n other).trans (a.others n other)
  own := by rw [b.own, a.own]

theorem LoadsBuffers.fabric {s t : Hw} {h : Nat} (a : LoadsBuffers s t h) : t.fabric = s.fabric := by rw [a.frame]
theorem LoadsBuffers.stk {s t : Hw} {h : Nat} (a : LoadsBuffers s t h) : t.stk = s.stk := by rw [a.frame]
theorem LoadsBuffers.evt {s t : Hw} {h : Nat} (a : LoadsBuffers s t h) : t.evt = s.evt := by rw [a.frame]
theorem LoadsBuffers.mem {s t : Hw} {h : Nat} (a : LoadsBuffers s t h) : t.mem = s.mem := by rw [a.frame]

theorem loadTable_loads (s : Hw) (h : Nat) (l : Layer) : LoadsBuffers s (s.loadTable h l) h := by
  unfold Hw.loadTable
  dsimp only
  split
  · exact .refl s h
  · exact ⟨rfl, fun n other => by simp [other], by simp⟩

theorem loadTables_loads (s : Hw) (h : Nat) (sec : HerderSec) (l : Layer) : LoadsBuffers s (s.loadTables h sec l) h := by
  unfold Hw.loadTables
  dsimp only
  split
  · exact (loadTable_loads s h l).trans (loadTable_loads _ h _)
  · exact loadTable_loads s h l

@[simp] theorem loadTables_tokKey (s : Hw) (h : Nat) (sec : HerderSec) (l : Layer) (layer : Nat) (e : TokenEntry) :
    (s.loadTables h sec l).tokKey layer e = s.tokKey layer e := by
  rw [(loadTables_loads s h sec l).frame]
  rfl

end Sys2Proof.Machine
end

section
/-!
# The jobs of sort mode (R177, R178; the queue of four counts the running job, log 58, and what scratch holds after a job is
open, log 60)
-/
namespace Sys2Proof.Machine

/-! ## Starting, answering -/

theorem sortTraffic_arbs (s : Hw) (h : Nat) (j : SortJob) : ∃ arbs, s.sortTraffic h j = { s with arbs := arbs } := by
  unfold Hw.sortTraffic
  extract_lets lines visited
  refine arbs_trans ?_ (arbRaise_arbs visited h 3 0 3 lines)
  refine List.foldlRecOn _ _ (motive := fun t : Hw => ∃ arbs, t = { s with arbs := arbs }) ⟨s.arbs, rfl⟩
    fun t same b _ => ?_
  exact arbs_trans (arbs_trans same (portVisit_arbs t h b _ true)) (portVisit_arbs _ h b _ false)

/-- A herder whose first waiting job, if it has one, starts. -/
def Herder.startSort (x : Herder) : Herder :=
  if x.sortQ.isEmpty then { x with sorting := false } else { x with sorting := true, sortDone := 0, sortPass := 0 }

theorem startSort_empty {x : Herder} (queue : x.sortQ = []) : x.startSort = { x with sorting := false } :=
  if_pos (List.isEmpty_iff.2 queue)

theorem startSort_waiting {x : Herder} {j : SortJob} {rest : List SortJob} (queue : x.sortQ = j :: rest) :
    x.startSort = { x with sorting := true, sortDone := 0, sortPass := 0 } :=
  if_neg (by simp [queue])

@[simp] theorem startSort_sortQ (x : Herder) : x.startSort.sortQ = x.sortQ := by
  unfold Herder.startSort
  split <;> rfl

@[simp] theorem startSort_sortJobs (x : Herder) : x.startSort.sortJobs = x.sortJobs := by
  unfold Herder.startSort
  split <;> rfl

/-- A start changes the herder and raises requests at arbiters. -/
theorem sortStart_arbs (s : Hw) (h : Nat) : ∃ arbs, s.sortStart h = { s.onHerder h Herder.startSort with arbs := arbs } := by
  unfold Hw.sortStart Hw.onHerder
  cases queue : (s.herder h).sortQ with
  | nil =>
    rw [startSort_empty queue]
    exact ⟨s.arbs, rfl⟩
  | cons j rest =>
    rw [startSort_waiting queue]
    exact sortTraffic_arbs _ h j

@[simp] theorem sortStart_herder (s : Hw) (h : Nat) : (s.sortStart h).herder h = (s.herder h).startSort := by
  obtain ⟨arbs, started⟩ := sortStart_arbs s h
  rw [started]
  exact (onHerder_herder s h h _).trans (if_pos rfl)

@[simp] theorem sortStart_mem (s : Hw) (h : Nat) : (s.sortStart h).mem = s.mem := by
  obtain ⟨arbs, started⟩ := sortStart_arbs s h
  rw [started, onHerder_mem]

@[simp] theorem sortStart_fabric (s : Hw) (h : Nat) : (s.sortStart h).fabric = s.fabric := by
  obtain ⟨arbs, started⟩ := sortStart_arbs s h
  rw [started, onHerder_fabric]

/-- The running job leaves the queue and the next one starts. -/
@[simp] theorem sortNext_herder (s : Hw) (h : Nat) :
    (s.sortNext h).herder h = ({ s.herder h with sortQ := (s.herder h).sortQ.drop 1 } : Herder).startSort := by
  rw [Hw.sortNext, sortStart_herder, onHerder_herder, if_pos rfl]

@[simp] theorem sortNext_mem (s : Hw) (h : Nat) : (s.sortNext h).mem = s.mem := by
  rw [Hw.sortNext, sortStart_mem, onHerder_mem]

@[simp] theorem sortNext_fabric (s : Hw) (h : Nat) : (s.sortNext h).fabric = s.fabric := by
  rw [Hw.sortNext, sortStart_fabric, onHerder_fabric]

/-- A reply is one message and SORT_DONE. -/
theorem sortReply_joins (s : Hw) (h : Nat) (j : SortJob) (status : Nat) :
    ∃ m, s.sortReply h j status = ({ s with fabric := s.fabric ++ [m] } : Hw).raise 9 :=
  ⟨_, rfl⟩

@[simp] theorem sortReply_herder (s : Hw) (h n : Nat) (j : SortJob) (status : Nat) :
    (s.sortReply h j status).herder n = s.herder n :=
  raise_herder _ _ _

@[simp] theorem sortReply_mem (s : Hw) (h : Nat) (j : SortJob) (status : Nat) : (s.sortReply h j status).mem = s.mem :=
  raise_mem _ _

theorem sortReply_fabric_length (s : Hw) (h : Nat) (j : SortJob) (status : Nat) :
    (s.sortReply h j status).fabric.length = s.fabric.length + 1 := by
  obtain ⟨m, sent⟩ := sortReply_joins s h j status
  rw [sent, raise_fabric, List.length_append, List.length_singleton]

theorem sortReply_flagged (s : Hw) (h : Nat) (j : SortJob) (status : Nat) :
    (s.sortReply h j status).evt.flags.getLsbD 9 = true :=
  raise_bit _ 9

theorem sortReply_stays {s : Hw} {n : Nat} (h : Nat) (j : SortJob) (status : Nat) (set : s.evt.flags.getLsbD n = true) :
    (s.sortReply h j status).evt.flags.getLsbD n = true :=
  raise_stays 9 set

/-! ## Submission -/

/-- The job that a message of core `c` asks for. -/
def sortJobOf (c : CoreId) (m : SortJobMsg) : SortJob where
  source := c.toNat
  src := m.src.toNat
  dst := m.dst.toNat
  scratch := m.scratch.toNat
  count := m.count.toNat
  signed := m.flags.getLsbD 0
  descending := m.flags.getLsbD 1
  channel := bits m.flags.toNat 7 4
  tag := m.tag

/-- A job is submitted to a herder (R177). -/
def Hw.submit (s : Hw) (h : Nat) (j : SortJob) : Hw :=
  if !sortValid j then (s.herdErr h 8 0 0).sortReply h j 1
  else if (s.herder h).sortQ.length ≥ 4 then s.sortReply h j 3
  else if (s.herder h).sortQ.isEmpty then (s.setHerder h { s.herder h with sortQ := [j] }).sortStart h
  else s.setHerder h { s.herder h with sortQ := (s.herder h).sortQ ++ [j] }

theorem exec_sortJob (s : State) (h : FieldIx) (c : CoreId) (m : SortJobMsg) :
    exec (.sortJob h c m) s = .next { s with hw := s.hw.submit h.val (sortJobOf c m) } := rfl

section Submit
variable {s : Hw} {h : Nat} {j : SortJob}

theorem submit_invalid (invalid : sortValid j = false) : s.submit h j = (s.herdErr h 8 0 0).sortReply h j 1 := by
  rw [Hw.submit, invalid]
  rfl

theorem submit_full (valid : sortValid j = true) (full : (s.herder h).sortQ.length ≥ 4) : s.submit h j = s.sortReply h j 3 := by
  simp only [Hw.submit, valid, full, Bool.not_true, Bool.false_eq_true, if_false, if_true]

theorem submit_first (valid : sortValid j = true) (none : (s.herder h).sortQ = []) :
    s.submit h j = (s.setHerder h { s.herder h with sortQ := [j] }).sortStart h := by
  simp [Hw.submit, valid, none]

theorem submit_queued (valid : sortValid j = true) (some : (s.herder h).sortQ ≠ [])
    (room : (s.herder h).sortQ.length < 4) : s.submit h j = s.setHerder h { s.herder h with sortQ := (s.herder h).sortQ ++ [j] } := by
  rw [Hw.submit, valid, if_neg (by decide), if_neg (by omega), if_neg (by simpa using some)]

end Submit

/-! ## Completion and abort -/

/-- The entries of a job's source, in order, as they go to its destination. -/
def Hw.sortOutput (s : Hw) (h : Nat) (j : SortJob) : List Byte :=
  let bs := s.memRead (bonded h 0 j.src) (16 * j.count)
  let entry (i : Nat) : W64 × W64 := (BitVec.ofNat 64 (at' bs (16 * i) 8), BitVec.ofNat 64 (at' bs (16 * i + 8) 8))
  (sortEntries j ((List.range j.count).map entry)).flatMap fun e => leBytes 8 e.1.toNat ++ leBytes 8 e.2.toNat

/-- The module when a job's last pass has ended: its regions are written and it is counted. -/
def Hw.sortEnded (s : Hw) (h : Nat) (j : SortJob) : Hw :=
  let scratch := s.memWrite (bonded h 0 j.scratch) (openBytes s.draws j.scratch (16 * j.count))
  (({ scratch with draws := s.draws + 1 } : Hw).memWrite (bonded h 0 j.dst) (s.sortOutput h j)).onHerder h fun x =>
    { x with sortJobs := x.sortJobs + 1, sortDone := BitVec.ofNat 29 j.count
             sortPass := BitVec.ofNat 5 (sortPasses j.count) }

/-- The module when a running job is given up: what its regions hold is open. -/
def Hw.sortDropped (s : Hw) (h : Nat) (j : SortJob) : Hw :=
  let scratch := s.memWrite (bonded h 0 j.scratch) (openBytes s.draws j.scratch (16 * j.count))
  { scratch.memWrite (bonded h 0 j.dst) (openBytes (s.draws + 1) j.dst (16 * j.count)) with draws := s.draws + 2 }

theorem exec_sortComplete {s : State} {h : FieldIx} {j : SortJob} {rest : List SortJob}
    (queue : (s.hw.herder h.val).sortQ = j :: rest) : exec (.sortComplete h) s = .next { s with
      hw := ((s.hw.sortEnded h.val j).sortNext h.val).sortReply h.val j 0 } := by
  have call : exec (.sortComplete h) s = execSortComplete h s := rfl
  rw [call, execSortComplete]
  refine act_eq ?_
  simp only [queue]
  rfl

theorem sortAbortOne_running {s : Hw} {h : Nat} {j : SortJob} {rest : List SortJob} (queue : (s.herder h).sortQ = j :: rest) :
    s.sortAbortOne h = ((s.sortDropped h j).sortNext h).sortReply h j 2 := by
  simp only [Hw.sortAbortOne, queue]
  rfl

theorem exec_sortAbort {s : State} {h : FieldIx} {j : SortJob} {rest : List SortJob} (opened : s.hw.barOpen = true)
    (queue : (s.hw.herder h.val).sortQ = j :: rest) : exec (.sortAbort h) s = .next { s with
      hw := ((({ s.hw with tst := { s.hw.tst with armedKey := false } } : Hw).sortDropped h.val j).sortNext h.val).sortReply
        h.val j 2 } := by
  rw [← sortAbortOne_running (s := { s.hw with tst := { s.hw.tst with armedKey := false } }) queue]
  exact act_bar0_of_open opened _

@[simp] theorem sortEnded_herder (s : Hw) (h : Nat) (j : SortJob) : (s.sortEnded h j).herder h =
    { s.herder h with
      sortJobs := (s.herder h).sortJobs + 1
      sortDone := BitVec.ofNat 29 j.count
      sortPass := BitVec.ofNat 5 (sortPasses j.count) } :=
  (onHerder_herder _ h h _).trans (if_pos rfl)

@[simp] theorem sortDropped_herder (s : Hw) (h n : Nat) (j : SortJob) : (s.sortDropped h j).herder n = s.herder n := rfl

theorem sortEnded_mem (s : Hw) (h : Nat) (j : SortJob) : (s.sortEnded h j).mem =
    nputList 0 (nputList 0 s.mem (bonded h 0 j.scratch) (openBytes s.draws j.scratch (16 * j.count))) (bonded h 0 j.dst)
      (s.sortOutput h j) := rfl

theorem sortEnded_fabric (s : Hw) (h : Nat) (j : SortJob) : (s.sortEnded h j).fabric = s.fabric := rfl

/-- Settles O19, case by case of the queue; a refused job leaves it as it is. -/
theorem sortJobs : Obligations.SortJobs := by
  unfold Obligations.SortJobs
  intro s h c m j rest x
  refine ⟨fun same => ?submitted, fun queue => ?running⟩
  case submitted =>
    obtain rfl : j = sortJobOf c m := same
    rw [exec_sortJob]
    refine ⟨fun valid none => ⟨_, rfl, ?first⟩, fun valid some room => ?queued, fun valid full => ⟨_, rfl, ?full⟩,
      fun invalid => ⟨_, rfl, ?invalid⟩⟩
    case first =>
      simp only [submit_first valid none, sortStart_herder, sortStart_mem, sortStart_fabric, setHerder_herder, if_true]
      rw [startSort_waiting rfl]
      exact ⟨rfl, rfl, rfl, rfl, rfl, rfl⟩
    case queued => rw [submit_queued valid some room]
    case full =>
      rw [submit_full valid full]
      exact ⟨congrArg _ (sortReply_herder ..), sortReply_fabric_length .., sortReply_flagged ..⟩
    case invalid =>
      rw [submit_invalid invalid]
      refine ⟨?_, sortReply_stays _ _ _ (herdErr_flagged ..), sortReply_flagged ..⟩
      rw [sortReply_herder, herdErr_herder, erred_frame]
  case running =>
    have left : x.sortQ.drop 1 = rest := by rw [queue]; rfl
    refine ⟨⟨_, exec_sortComplete queue, ?ended⟩, fun opened => ⟨_, exec_sortAbort opened queue, ?aborted⟩⟩
    case ended =>
      simp only [sortReply_herder, sortReply_mem, sortReply_fabric_length, sortNext_herder, sortNext_mem, sortNext_fabric,
        startSort_sortQ, startSort_sortJobs, sortEnded_herder, sortEnded_fabric, sortEnded_mem]
      exact ⟨left, rfl, sortReply_flagged .., trivial, rfl⟩
    case aborted =>
      simp only [sortReply_herder, sortNext_herder, startSort_sortQ, startSort_sortJobs, sortDropped_herder]
      exact ⟨left, rfl, sortReply_flagged ..⟩

end Sys2Proof.Machine
end

section
/-!
# LOGITS parts (R145-R149, R163, R180)
-/
namespace Sys2Proof.Machine

/-! ## Parts entered -/

/-- Values written at consecutive keys from a first one. -/
theorem nget_foldl_ninsert {V : Type} (d : V) (m : NMap V) (first n : Nat) (v : Nat → V) (q : Nat) :
    nget d ((List.range n).foldl (fun g i => ninsert (first + i) (v i) g) m) q =
      if first ≤ q ∧ q < first + n then v (q - first) else nget d m q := by
  induction n with
  | zero => rw [if_neg (by omega)]; rfl
  | succ n ih =>
    rw [List.range_succ, List.foldl_append, List.foldl_cons, List.foldl_nil, nget_ninsert, ih]
    by_cases last : q = first + n
    · rw [if_pos last, if_pos (by omega), last, Nat.add_sub_cancel_left]
    · rw [if_neg last]
      exact if_congr (by omega) rfl rfl

/-- The logits that a herder has of a token once a part is entered. -/
def Herder.entered (x : Herder) (key : Nat) (m : LogitsMsg) : NMap W32 :=
  let vals := m.values.map (widenLogit m.format.toNat)
  (List.range vals.length).foldl (fun g i => ninsert (m.first.toNat + i) (vals.getD i 0) g) (nget [] x.logits key)

theorem entered_inside (x : Herder) (key : Nat) (m : LogitsMsg) {i : Nat} (inside : i < m.values.length) :
    nget 0 (x.entered key m) (m.first.toNat + i) = widenLogit m.format.toNat (m.values.getD i 0) := by
  rw [Herder.entered, nget_foldl_ninsert, List.length_map, if_pos (by omega), Nat.add_sub_cancel_left]
  simp [inside]

theorem entered_outside (x : Herder) (key : Nat) (m : LogitsMsg) {e : Nat}
    (outside : e < m.first.toNat ∨ m.first.toNat + m.values.length ≤ e) :
    nget 0 (x.entered key m) e = nget 0 (nget [] x.logits key) e := by
  rw [Herder.entered, nget_foldl_ninsert, List.length_map, if_neg (by omega)]

/-- A part that leaves experts without a logit is held. -/
theorem takeLogits_partial {s : Hw} {h : Nat} {l : Layer} {e : TokenEntry} {m : LogitsMsg}
    (more : ((s.herder h).entered (s.tokKey l.layer e) m).length ≠ l.e) : s.takeLogits h l e m =
      s.setHerder h { s.herder h with
        logits := ninsert (s.tokKey l.layer e) ((s.herder h).entered (s.tokKey l.layer e) m) (s.herder h).logits } :=
  if_neg more

/-- The part that brings the last expert's logit scores the token. -/
theorem takeLogits_last {s : Hw} {h : Nat} {l : Layer} {e : TokenEntry} {m : LogitsMsg}
    (whole : ((s.herder h).entered (s.tokKey l.layer e) m).length = l.e) : s.takeLogits h l e m =
      s.setHerder h { s.herder h with
        logits := nerase (s.tokKey l.layer e) (s.herder h).logits
        scored := (s.herder h).scored ++ [(s.tokKey l.layer e, selectExperts l
          (fun i => BitVec.ofNat 32 (s.expertEntry h l i))
          fun i => nget 0 ((s.herder h).entered (s.tokKey l.layer e) m) i)] } :=
  if_pos whole

/-- Either way the herder alone changes. -/
theorem takeLogits_herder (s : Hw) (h : Nat) (l : Layer) (e : TokenEntry) (m : LogitsMsg) :
    ∃ x, s.takeLogits h l e m = s.setHerder h x := by
  by_cases whole : ((s.herder h).entered (s.tokKey l.layer e) m).length = l.e
  · exact ⟨_, takeLogits_last whole⟩
  · exact ⟨_, takeLogits_partial whole⟩

/-! ## The command -/

section Command
variable {s : State} {h : FieldIx} {m : LogitsMsg}

theorem exec_logits_error {code : Nat} (bad : (s.hw.logitsError h.val m).1 = some code) :
    exec (.logits h m) s = .next { s with hw := s.hw.herdErr h.val code m.layer.toNat m.token.toNat } := by
  have call : exec (.logits h m) s = execLogits h m s := rfl
  have found : s.hw.logitsError h.val m = (some code, (s.hw.logitsError h.val m).2) := by rw [← bad]
  rw [call, execLogits]
  refine act_eq ?_
  rw [found]
  cases s.hw.herderSec <;> rfl

theorem exec_logits_taken {sec : HerderSec} {l : Layer} {e : TokenEntry} (billet : s.hw.herderSec = some sec)
    (good : s.hw.logitsError h.val m = (none, some (l, e))) :
    exec (.logits h m) s = .next { s with hw := (s.hw.loadTables h.val sec l).takeLogits h.val l e m } := by
  have call : exec (.logits h m) s = execLogits h m s := rfl
  rw [call, execLogits]
  refine act_eq ?_
  simp only [billet, good]

end Command

/-- Settles O17: an error's part is one error and nothing else; any other loads the tables and enters its logits. -/
theorem herderLogits : Obligations.HerderLogits := by
  unfold Obligations.HerderLogits
  intro s h m x
  refine ⟨fun code bad => ⟨_, exec_logits_error bad, herdErr_flagged .., ?erred⟩, fun sec l e billet good => ?taken⟩
  case erred =>
    rw [herdErr_herder]
    have frame := erred_frame x code m.layer.toNat m.token.toNat
    refine ⟨congrArg (·.errCount) frame, congrArg (·.errFlag) frame, fun free => ?_, erred_keeps_code _ _ _,
      congrArg (·.logits) frame, congrArg (·.scored) frame⟩
    obtain ⟨captured, token⟩ := erred_captures code m.layer.toNat m.token.toNat free
    exact ⟨captured, token.trans (by simp)⟩
  case taken =>
    intro key
    have loads := loadTables_loads s.hw h.val sec l
    have keyed : (s.hw.loadTables h.val sec l).tokKey l.layer e = key := loadTables_tokKey ..
    have held : ((s.hw.loadTables h.val sec l).herder h.val).entered key m = x.entered key m := by rw [loads.own]; rfl
    refine ⟨_, x.entered key m, exec_logits_taken billet good, ?_, fun n other => ?_,
      fun i inside => entered_inside x key m inside, fun e outside => entered_outside x key m outside,
      fun more => ?_, fun whole => ?_⟩
    · obtain ⟨y, set⟩ := takeLogits_herder (s.hw.loadTables h.val sec l) h.val l e m
      rw [set, loads.frame]
      rfl
    · obtain ⟨y, set⟩ := takeLogits_herder (s.hw.loadTables h.val sec l) h.val l e m
      dsimp only
      rw [set, setHerder_herder, if_neg other, loads.others n other]
    · dsimp only
      rw [takeLogits_partial (by rwa [keyed, held]), setHerder_herder, if_pos rfl, keyed, held, loads.own]
      exact ⟨(nget_ninsert ..).trans (if_pos rfl), rfl⟩
    · dsimp only
      rw [takeLogits_last (by rwa [keyed, held]), setHerder_herder, if_pos rfl, keyed, held, loads.own]
      exact ⟨(nget_nerase ..).trans (if_pos rfl), rfl⟩

end Sys2Proof.Machine
end

section
/-!
# Settling, deferral, layer close, flags and bias commits (R153-R157, R165, R170)
-/
namespace Sys2Proof.Machine

/-! ## A token settles -/

/-- `t` is the module after writes to memory and to the staging of herder `h`. -/
structure Stages (s t : Hw) (h : Nat) : Prop where
  fabric : t.fabric = s.fabric
  evt : t.evt = s.evt
  own : ∃ gs, t.herder h = { s.herder h with staging := gs }

theorem Stages.refl (s : Hw) (h : Nat) : Stages s s h := ⟨rfl, rfl, _, rfl⟩

theorem Stages.trans {s t u : Hw} {h : Nat} (a : Stages s t h) (b : Stages t u h) : Stages s u h where
  fabric := b.fabric.trans a.fabric
  evt := b.evt.trans a.evt
  own := by
    obtain ⟨⟨gs, first⟩, hs, second⟩ := a.own, b.own
    exact ⟨hs, by rw [second, first]⟩

theorem ite_stages {p : Prop} [Decidable p] {s t u : Hw} {h : Nat} (yes : Stages s t h) (no : Stages s u h) :
    Stages s (if p then t else u) h := by
  split
  · exact yes
  · exact no

theorem memWrite_stages (s : Hw) (h off : Nat) (bs : List Byte) : Stages s (s.memWrite off bs) h :=
  ⟨rfl, rfl, _, rfl⟩

theorem stage_stages (s : Hw) (h : Nat) (sec : HerderSec) (l : Layer) (e : TokenEntry) (r : RouteEntry) :
    Stages s (s.stage h sec l e r) h := by
  have entered (gs : List Staging) : Stages s (s.setHerder h { s.herder h with staging := gs }) h :=
    ⟨rfl, rfl, gs, by simp⟩
  unfold Hw.stage
  dsimp only
  split
  · exact entered _
  · exact (entered _).trans (memWrite_stages _ _ _ _)

/-- A token that is not in excess is counted, its combine list goes to its home core, and its routing is staged (R155-R157). -/
theorem settleToken_sends (s : Hw) (h : Nat) (sec : HerderSec) (l : Layer) {t : Settling} (inside : t.excess = false) :
    let u := s.settleToken h sec l t
    ∃ m, u.fabric = s.fabric ++ [m] ∧ m.dest = (s.herder h).remapTo t.entry.home ∧ m.source = mkEndpoint h 0 ∧
      m.channel = l.tokenChannel ∧ (u.herder h).settled = (s.herder h).settled ∧
      (u.herder h).tokens = (s.herder h).tokens + 1 ∧ (u.herder h).pool = (s.herder h).pool ∧ u.evt = s.evt := by
  unfold Hw.settleToken
  extract_lets entry x a0 a inputLate ps placed y counted sent d drawn stashed sc u
  have here : counted.herder h = y := (setHerder_herder ..).trans (if_pos rfl)
  have draws : Stages sent drawn h := ite_stages (.refl ..) ⟨rfl, rfl, _, rfl⟩
  have stash : Stages drawn stashed h := ite_stages (memWrite_stages ..) (.refl ..)
  obtain ⟨m, joined, dest, source, channel⟩ := herderSend_joins counted h t.entry.home l.tokenChannel
    (combineBytes t.entry.token l.layer inputLate (decide (t.defers > 0)) l entry placed)
  have staged : Stages stashed u h := by
    rw [show u = _ from if_neg (by simp [inside])]
    exact stage_stages ..
  obtain ⟨fabric, evt, gs, own⟩ := (draws.trans stash).trans staged
  rw [show sent.herder h = y from here] at own
  rw [own, fabric, evt]
  rw [here] at dest
  exact ⟨m, congrArg Hw.fabric joined, dest, source, channel, rfl, rfl, rfl, rfl⟩

/-- A deferred token goes into the pool and a notice to the event unit (R154). -/
theorem deferToken_joins (s : Hw) (h : Nat) (l : Layer) (e : TokenEntry) (sc : Scored) (defers : Nat) :
    let u := s.deferToken h l e sc defers
    ∃ m, u.fabric = s.fabric ++ [m] ∧ m.dest = 8 ∧ m.destEndpoint = true ∧
      (u.herder h).pool = (s.herder h).pool ++ [{
        layer := l.layer, stroke := s.stk.workStroke, entry := e, scored := sc, defers := defers + 1 }] ∧
      (u.herder h).deferCnt = (s.herder h).deferCnt + 1 ∧ (u.herder h).tokens = (s.herder h).tokens ∧ u.mem = s.mem := by
  unfold Hw.deferToken
  extract_lets missing pooled u
  have here : pooled.herder h = _ := (onHerder_herder s h h _).trans (if_pos rfl)
  rw [show u.herder h = pooled.herder h from rfl, here]
  exact ⟨_, rfl, rfl, rfl, rfl, rfl, rfl, rfl⟩

/-! ## The next token of a layer -/

/-- A token's turn in its layer has come. -/
def Hw.markSettled (s : Hw) (h key : Nat) : Hw := s.onHerder h fun x => { x with settled := key :: x.settled }

@[simp] theorem markSettled_herder (s : Hw) (h key : Nat) :
    (s.markSettled h key).herder h = { s.herder h with settled := key :: (s.herder h).settled } :=
  (onHerder_herder s h h _).trans (if_pos rfl)

@[simp] theorem markSettled_fabric (s : Hw) (h key : Nat) : (s.markSettled h key).fabric = s.fabric := rfl
@[simp] theorem markSettled_evt (s : Hw) (h key : Nat) : (s.markSettled h key).evt = s.evt := rfl
@[simp] theorem markSettled_stk (s : Hw) (h key : Nat) : (s.markSettled h key).stk = s.stk := rfl
@[simp] theorem markSettled_mem (s : Hw) (h key : Nat) : (s.markSettled h key).mem = s.mem := rfl

theorem markSettled_expertEntry (s : Hw) (h key : Nat) (l : Layer) (e : Nat) :
    (s.markSettled h key).expertEntry h l e = s.expertEntry h l e := by
  simp only [Hw.expertEntry, Hw.tableEntry, markSettled_herder]
  rfl

theorem markSettled_mustDefer (s : Hw) (h key : Nat) (l : Layer) (sc : Scored) (defers : Nat) :
    (s.markSettled h key).mustDefer h l sc defers = s.mustDefer h l sc defers := by
  simp only [Hw.mustDefer, markSettled_expertEntry, markSettled_herder]

/-- The next token, where it is the stroke's own and scored, is marked and then settles or is deferred (R153, R154). -/
theorem settleNext_scored {s : Hw} {h : Nat} {sec : HerderSec} {l : Layer} {t : Settling} {sc : Scored}
    (next : s.nextToken h sec l = some (t, false)) (scored : t.scored = some sc) (inside : t.excess = false) :
    s.settleNext h sec l =
      if s.mustDefer h l sc t.defers then
        (s.markSettled h (s.tokKey l.layer t.entry)).deferToken h l t.entry sc t.defers
      else (s.markSettled h (s.tokKey l.layer t.entry)).settleToken h sec l t := by
  rw [← markSettled_mustDefer s h (s.tokKey l.layer t.entry)]
  simp only [Hw.settleNext, next, scored, inside, Option.isNone_some, Bool.and_false, Bool.false_and, Bool.not_false,
    Bool.true_and, Bool.false_eq_true, if_false]
  rfl

/-! ## Commands -/

/-- The module when a closing layer's dispatch lists, loads and prefetch requests are out (R157, R164, R166). -/
def Hw.layerSent (s : Hw) (h : Nat) (sec : HerderSec) (l : Layer) : Hw :=
  let lists := (s.herder h).dispatch.filter fun e => decide (e.1 / 2 ^ 14 = l.layer)
  ((lists.foldl (fun s e => s.sendDispatch h l (e.1 % 2 ^ 14) e.2) (s.loadTables h sec l)).writeLoads h l).predict h sec l

section Layers
variable {s : State} {h : FieldIx} {layer : BitVec 8} {sec : HerderSec} {l : Layer} (billet : s.hw.herderSec = some sec)
  (listed : sec.layerOf layer.toNat = some l)
include billet listed

theorem exec_tokenSettle : exec (.tokenSettle h layer) s =
    .next { s with hw := (s.hw.loadTables h.val sec l).settleNext h.val sec l } := by
  have call : exec (.tokenSettle h layer) s = execTokenSettle h layer s := rfl
  rw [call, execTokenSettle]
  refine act_eq ?_
  simp only [billet, listed]

/-- A layer that has closed closes no second time. -/
theorem exec_layerClose_closed (closed : l.layer ∈ (s.hw.herder h.val).closed) : exec (.layerClose h layer) s = .next s := by
  have call : exec (.layerClose h layer) s = execLayerClose h layer s := rfl
  rw [call, execLayerClose]
  refine (act_eq (t := s.hw) ?_).trans rfl
  simp [billet, listed, closed]

/-- A layer with no token left closes, after its lists, loads and predictions. -/
theorem exec_layerClose_closes (open' : l.layer ∉ (s.hw.herder h.val).closed) (done : s.hw.nextToken h.val sec l = none) :
    exec (.layerClose h layer) s = .next { s with
      hw := (s.hw.layerSent h.val sec l).onHerder h.val fun x =>
        { x with closed := l.layer :: x.closed, lastLayer := layer } } := by
  have call : exec (.layerClose h layer) s = execLayerClose h layer s := rfl
  rw [call, execLayerClose]
  refine act_eq ?_
  simp only [billet, listed, done, Option.isSome_none, Bool.or_false, List.contains_iff_mem, open', if_false]
  rfl

end Layers

/-- Well-formed values of a token's flags are held for the post beat (R170). -/
theorem exec_flag {s : State} {h : FieldIx} {token : BitVec 17} {mask : W16} {values : List W32} {sec : HerderSec}
    {e : TokenEntry} {es : List TokenEntry} (billet : s.hw.herderSec = some sec)
    (here : s.hw.openTokens h.val sec sec.layers.length token.toNat = e :: es) (early : (s.hw.herder h.val).evaluated = false)
    (whole : values.length = (maskBits 16 mask.toNat).length) (known : ∀ i ∈ maskBits 16 mask.toNat, i < sec.flagCount) :
    exec (.flag h token mask values) s = .next { s with hw := s.hw.setHerder h.val { s.hw.herder h.val with
      flagVals := ((maskBits 16 mask.toNat).zip values).foldl
        (fun m e => ninsert (token.toNat * 16 + e.1) (some e.2) m) (s.hw.herder h.val).flagVals } } := by
  have call : exec (.flag h token mask values) s = execFlag h token mask values s := rfl
  have within : ((maskBits 16 mask.toNat).any fun i => decide (i ≥ sec.flagCount)) = false := by simpa using known
  rw [call, execFlag]
  refine act_eq ?_
  simp only [billet, here]
  exact if_neg (by rw [early, within]; simp [whole])

theorem exec_biasCommit {s : State} {h : FieldIx} {layer : BitVec 8} (opened : s.hw.barOpen = true) :
    exec (.biasCommit h layer) s = .next { s with
      hw := ({ s.hw with tst := { s.hw.tst with armedKey := false } } : Hw).setHerder h.val
        (if (s.hw.herderSec.bind fun sec => sec.layerOf layer.toNat).isSome then
          { s.hw.herder h.val with biasLayer := layer, biasCommit := true }
        else { s.hw.herder h.val with biasLayer := layer, biasCommitErr := true }) } :=
  act_bar0_of_open opened _

/-- Settles O18: the next token by `settleNext_scored` in the tables as loaded, the rest by a lemma for each command. -/
theorem herderSettling : Obligations.HerderSettling := by
  unfold Obligations.HerderSettling
  refine ⟨?tokens, fun s h layer token mask values => ⟨?layers, ?flags, exec_biasCommit⟩⟩
  case tokens =>
    intro s h layer sec l t sc x loaded billet listed next scored inside
    have loads : LoadsBuffers s.hw loaded h.val := loadTables_loads ..
    have keyed : loaded.tokKey l.layer t.entry = s.hw.tokKey l.layer t.entry := loadTables_tokKey ..
    have run : exec (.tokenSettle h layer) s = .next { s with hw := loaded.settleNext h.val sec l } :=
      exec_tokenSettle billet listed
    clear_value loaded
    rw [settleNext_scored next scored inside, keyed] at run
    refine ⟨fun stays => ?settles, fun deferred => ?defers⟩
    case settles =>
      obtain ⟨m, sent⟩ :=
        settleToken_sends (loaded.markSettled h.val (s.hw.tokKey l.layer t.entry)) h.val sec l inside
      rw [markSettled_fabric, markSettled_evt, markSettled_herder, loads.fabric, loads.evt, loads.own] at sent
      rw [stays, if_neg Bool.false_ne_true] at run
      exact ⟨_, m, run, sent⟩
    case defers =>
      obtain ⟨m, sent⟩ :=
        deferToken_joins (loaded.markSettled h.val (s.hw.tokKey l.layer t.entry)) h.val l t.entry sc t.defers
      rw [markSettled_fabric, markSettled_stk, markSettled_mem, markSettled_herder, loads.fabric, loads.stk, loads.mem,
        loads.own] at sent
      rw [if_pos deferred] at run
      exact ⟨_, m, run, sent⟩
  case layers =>
    intro sec l billet listed
    refine ⟨fun open' done => ?_, exec_layerClose_closed billet listed⟩
    refine ⟨_, exec_layerClose_closes billet listed open' done, ?_⟩
    rw [onHerder_herder, if_pos rfl]
    exact ⟨List.mem_cons_self, rfl⟩
  case flags =>
    intro sec e es billet here early whole known
    exact exec_flag billet here early whole known

end Sys2Proof.Machine
end
section
/-!
# Sequence entries, the page pool, and the operations of a boundary (R181, R182, R185, R187, R268; log 180 and 205)
-/
namespace Sys2Proof.Machine

/-! ## Bytes of a sequence's entry -/

theorem seqGet_byte (s : Hw) (q off : Nat) : s.seqGet q off 1 = (nget 0 s.mem (s.seqOff q + off)).toNat := by
  simp [Hw.seqGet, Hw.memNat, Hw.memRead, ngetList, leNat]

@[simp] theorem seqPut_seqGet (s : Hw) (q off p v : Nat) :
    (s.seqPut q off 1 v).seqGet q p 1 = if p = off then v % 256 else s.seqGet q p 1 := by
  have written : nget 0 (s.seqPut q off 1 v).mem (s.seqOff q + p) =
      if s.seqOff q + p = s.seqOff q + off then BitVec.ofNat 8 v else nget 0 s.mem (s.seqOff q + p) := nget_nput ..
  rw [seqGet_byte, seqGet_byte, show (s.seqPut q off 1 v).seqOff q = s.seqOff q from rfl, written]
  simp only [Nat.add_left_cancel_iff, apply_ite BitVec.toNat, BitVec.toNat_ofNat, Nat.reducePow]

@[simp] theorem setLastOp_seqGet (s : Hw) (q v p : Nat) :
    (s.setLastOp q v).seqGet q p 1 = if p = 6 then v % 256 else s.seqGet q p 1 := seqPut_seqGet ..

@[simp] theorem setLastOp_seqFlag (s : Hw) (q v n : Nat) : (s.setLastOp q v).seqFlag q n = s.seqFlag q n := by
  simp [Hw.seqFlag]

@[simp] theorem setFlag_seqGet (s : Hw) (q n : Nat) (v : Bool) {p : Nat} (other : p ≠ 3) :
    (s.setFlag q n v).seqGet q p 1 = s.seqGet q p 1 := (seqPut_seqGet ..).trans (if_neg other)

/-- A flag that is set or cleared changes no flag below it. -/
theorem setFlag_seqFlag (s : Hw) (q : Nat) {n m : Nat} (v : Bool) (byte : n < 8) (low : m ≤ n) :
    (s.setFlag q n v).seqFlag q m = if m = n then v else s.seqFlag q m := by
  have mod (w : Nat) : bit (w % 256) m = bit w m := by
    rw [bit, show 256 = 2 ^ 8 from rfl, Nat.testBit_mod_two_pow, decide_eq_true (by omega), Bool.true_and, bit]
  have flip (w : Nat) : bit (2 ^ n + w) m = if m = n then !bit w n else bit w m := by
    split
    · next same => rw [same, bit, Nat.testBit_two_pow_add_eq, bit]
    · exact Nat.testBit_two_pow_add_gt (by omega) w
  simp only [Hw.seqFlag, Hw.setFlag, seqPut_seqGet, if_true, mod]
  generalize s.seqGet q 3 1 = w
  by_cases done : v = bit w n
  · rw [if_pos done]
    split
    · next same => rw [same, done]
    · rfl
  · rw [if_neg done]
    cases v with
    | true =>
      have clear : bit w n = false := by simpa using done
      rw [if_pos rfl, Nat.add_comm, flip, clear, Bool.not_false]
    | false =>
      have set : bit w n = true := by simpa using done
      obtain ⟨x, rfl⟩ := Nat.exists_eq_add_of_le (Nat.ge_two_pow_of_testBit set)
      have clear : bit x n = false := by simpa [bit, Nat.testBit_two_pow_add_eq] using set
      rw [if_neg Bool.false_ne_true, Nat.add_sub_cancel_left, flip]
      split
      · next same => rw [same, clear]
      · rfl

/-- Nothing but bytes of the entry of `q` differs in memory, and the entry stands where it was. -/
structure InEntry (q : Nat) (s t : Hw) : Prop where
  place : t.seqOff q = s.seqOff q
  bytes : ∀ a, a < s.seqOff q ∨ s.seqOff q + 64 ≤ a → nget 0 t.mem a = nget 0 s.mem a

theorem InEntry.trans {q : Nat} {s t u : Hw} (a : InEntry q s t) (b : InEntry q t u) : InEntry q s u where
  place := b.place.trans a.place
  bytes p out := (b.bytes p (a.place.symm ▸ out)).trans (a.bytes p out)

theorem seqPut_inEntry (s : Hw) (q v : Nat) {off : Nat} (within : off < 64) : InEntry q s (s.seqPut q off 1 v) where
  place := rfl
  bytes a out := (nget_nput ..).trans (if_neg (by omega))

theorem setFlag_inEntry (s : Hw) (q n : Nat) (v : Bool) : InEntry q s (s.setFlag q n v) := seqPut_inEntry _ _ _ (by decide)
theorem setLastOp_inEntry (s : Hw) (q v : Nat) : InEntry q s (s.setLastOp q v) := seqPut_inEntry _ _ _ (by decide)

theorem opFails_inEntry (s : Hw) (q v : Nat) : InEntry q s (s.opFails q v) :=
  (setLastOp_inEntry s q v).trans ⟨by simp [Hw.opFails, Hw.seqOff], by simp [Hw.opFails]⟩

@[simp] theorem opFails_seqGet (s : Hw) (q v p : Nat) :
    (s.opFails q v).seqGet q p 1 = if p = 6 then v % 256 else s.seqGet q p 1 := by
  rw [← setLastOp_seqGet, seqGet_byte, seqGet_byte, Hw.opFails, Hw.seqOff, raise_kv, raise_mem]
  rfl

/-! ## Operations at a boundary (R182) -/

section Apply
variable {s : Hw} {k : KvSec} {q st : Nat} {v : Byte}

/-- EDIT opens an edit of an ACTIVE or PREEMPTED sequence that has neither an edit nor a sync. -/
theorem kvApply_edit (open' : s.seqState q = 1 ∨ s.seqState q = 2) (shut : s.seqFlag q 0 = false) (level : s.seqFlag q 2 = false) :
    let t := s.kvApply k { seq := q, kind := .edit, value := v, stroke := st }
    t.seqFlag q 0 = true ∧ t.seqState q = s.seqState q ∧ t.seqGet q 6 1 = 0 ∧ InEntry q s t := by
  have takes : s.kvApply k { seq := q, kind := .edit, value := v, stroke := st } = (s.setFlag q 0 true).setLastOp q 0 :=
    if_pos ⟨open', by simp [fEdit, fSync, shut, level]⟩
  rw [takes]
  refine ⟨?_, ?_, ?_, (setFlag_inEntry ..).trans (setLastOp_inEntry ..)⟩
  · simp [setFlag_seqFlag]
  · simp [Hw.seqState]
  · simp

/-- COMMIT closes the edit and lists a commit in place of any that waits, which hands on what it has counted (log 180). -/
theorem kvApply_commit (edits : s.seqFlag q 0 = true) :
    let t := s.kvApply k { seq := q, kind := .commit, value := v, stroke := st }
    t.seqFlag q 0 = false ∧ t.seqFlag q 1 = true ∧ t.seqGet q 6 1 = 1 ∧
      t.kv.commits = (s.kv.commits.filter fun c => decide (c.seq ≠ q)) ++
        [{ seq := q, prepared := false, removed := [], added := (s.kv.commits.filter fun c => decide (c.seq = q)).flatMap (·.added) }] ∧
      InEntry q s t := by
  intro t
  let u := ((s.setFlag q 0 false).setFlag q 1 true).setLastOp q 1
  have takes : t = { u with kv := { u.kv with commits := _ } } := if_pos edits
  have entry : InEntry q s u := ((setFlag_inEntry ..).trans (setFlag_inEntry ..)).trans (setLastOp_inEntry ..)
  rw [takes]
  refine ⟨show u.seqFlag q 0 = false from ?_, show u.seqFlag q 1 = true from ?_, show u.seqGet q 6 1 = 1 from ?_, rfl,
    entry.place, entry.bytes⟩
  · simp [u, setFlag_seqFlag]
  · simp [u, setFlag_seqFlag]
  · simp [u]

/-- ABANDON closes the edit and begins a sync. -/
theorem kvApply_abandon (edits : s.seqFlag q 0 = true) :
    let t := s.kvApply k { seq := q, kind := .abandon, value := v, stroke := st }
    t.seqFlag q 0 = false ∧ t.seqFlag q 2 = true ∧ t.seqGet q 6 1 = 0 ∧ InEntry q s t := by
  have takes : s.kvApply k { seq := q, kind := .abandon, value := v, stroke := st } =
      ((s.setFlag q 0 false).setFlag q 2 true).setLastOp q 0 := if_pos edits
  rw [takes]
  refine ⟨?_, ?_, ?_, ((setFlag_inEntry ..).trans (setFlag_inEntry ..)).trans (setLastOp_inEntry ..)⟩
  · simp [setFlag_seqFlag]
  · simp [setFlag_seqFlag]
  · simp

/-- PRIO writes the priority of a sequence that is in use. -/
theorem kvApply_prio (used : s.seqState q ≠ 0) :
    let t := s.kvApply k { seq := q, kind := .prio, value := v, stroke := st }
    t.seqGet q 1 1 = v.toNat ∧ t.seqState q = s.seqState q ∧ InEntry q s t := by
  have takes : s.kvApply k { seq := q, kind := .prio, value := v, stroke := st } =
      (s.seqPut q 1 1 v.toNat).setLastOp q 0 := if_pos used
  rw [takes]
  refine ⟨?_, ?_, (seqPut_inEntry _ _ _ (by decide)).trans (setLastOp_inEntry ..)⟩
  · simpa using Nat.mod_eq_of_lt v.isLt
  · simp [Hw.seqState]

/-- On a FREE sequence every operation but OPEN fails. -/
theorem kvApply_free (free : s.seqState q = 0) (shut : s.seqFlag q 0 = false) {kind : KvOpKind} (known : kind ≠ .open') :
    s.kvApply k { seq := q, kind := kind, value := v, stroke := st } = s.opFails q opBadState := by
  have closed : ¬ s.seqFlag q fEdit = true := by simp [fEdit, shut]
  unfold Hw.kvApply
  cases kind with
  | open' => exact absurd rfl known
  | edit => exact if_neg fun h => by simp [free, sqActive, sqPreempted] at h
  | commit => exact if_neg closed
  | abandon => exact if_neg closed
  | preempt => exact if_pos (by simp [free, sqActive])
  | resume => exact if_neg (by simp [free, sqPreempted])
  | close => exact if_neg fun h => by simp [free, sqActive, sqPreempted, sqResuming] at h
  | prio => exact if_neg (by simp [free, sqFree])

/-- A failed operation leaves its reason in last_op, the state as it was, and KV_OP_ERR. -/
theorem opFails_answers (s : Hw) (q reason : Nat) (byte : reason < 256) :
    let t := s.opFails q reason
    t.seqGet q 6 1 = reason ∧ t.seqState q = s.seqState q ∧ t.evt.flags.getLsbD 12 = true ∧ InEntry q s t := by
  refine ⟨?_, ?_, raise_bit _ 12, opFails_inEntry ..⟩
  · simpa using Nat.mod_eq_of_lt byte
  · simp [Hw.seqState]

end Apply

/-! ## The page pool -/

/-- `t` is the module after writes to memory and to the tongs, in which pool indices were given out or freed, or ranges of an
insert skipped. -/
def PoolWork (s t : Hw) : Prop :=
  ∃ mem tng freeList fresh freeing full, t = { s with
    mem := mem, tng := tng, kv := { s.kv with freeList := freeList, fresh := fresh, freeing := freeing, pfxFull := full } }

theorem PoolWork.refl (s : Hw) : PoolWork s s := ⟨_, _, _, _, _, _, rfl⟩

theorem PoolWork.trans {s t u : Hw} (a : PoolWork s t) (b : PoolWork t u) : PoolWork s u := by
  obtain ⟨_, _, _, _, _, _, rfl⟩ := a
  obtain ⟨_, _, _, _, _, _, rfl⟩ := b
  exact ⟨_, _, _, _, _, _, rfl⟩

theorem PoolWork.commits {s t : Hw} (h : PoolWork s t) : t.kv.commits = s.kv.commits := by
  obtain ⟨_, _, _, _, _, _, rfl⟩ := h
  rfl

theorem PoolWork.foldl {α : Type} {f : Hw → α → Hw} (step : ∀ s x, PoolWork s (f s x)) (l : List α) (s : Hw) :
    PoolWork s (l.foldl f s) :=
  l.foldlRecOn f (.refl s) fun _ h x _ => h.trans (step _ x)

theorem PoolWork.bindFoldl {α : Type} {f : Hw → α → Option Hw} (step : ∀ {s t x}, f s x = some t → PoolWork s t) (l : List α)
    {s t : Hw} (h : l.foldl (fun o x => o.bind fun s => f s x) (some s) = some t) : PoolWork s t := by
  refine l.foldlRecOn _ (motive := fun o : Option Hw => ∀ u, o = some u → PoolWork s u) ?_ ?_ t h
  · rintro u ⟨⟩
    exact .refl s
  · intro o ho x _ u hu
    obtain ⟨v, rfl, hv⟩ := Option.bind_eq_some_iff.1 hu
    exact (ho v rfl).trans (step hv)

theorem ite_poolWork {p : Prop} [Decidable p] {s t u : Hw} (yes : PoolWork s t) (no : PoolWork s u) :
    PoolWork s (if p then t else u) := by
  split
  · exact yes
  · exact no

theorem memWrite_poolWork (s : Hw) (off : Nat) (bs : List Byte) : PoolWork s (s.memWrite off bs) := ⟨_, _, _, _, _, _, rfl⟩
theorem memErase_poolWork (s : Hw) (off n : Nat) : PoolWork s (s.memErase off n) := ⟨_, _, _, _, _, _, rfl⟩
theorem setRef_poolWork (s : Hw) (i v : Nat) : PoolWork s (s.setRef i v) := memWrite_poolWork ..
theorem ptPut_poolWork (s : Hw) (k : KvSec) (q copy i v : Nat) : PoolWork s (s.ptPut k q copy i v) := memWrite_poolWork ..

theorem memWriteAll_poolWork (s : Hw) (off : Nat) (bs : List Byte) : PoolWork s (s.memWriteAll off bs) :=
  .foldl (fun s _ => ite_poolWork (.refl s) (memWrite_poolWork ..)) _ s

theorem setHome_poolWork (s : Hw) (p : Nat) (h : Home) : PoolWork s (s.setHome p h) := by
  have put : PoolWork s { s with tng := { s.tng with homes := nput {} s.tng.homes p h } } := ⟨_, _, _, _, _, _, rfl⟩
  unfold Hw.setHome
  dsimp only
  split
  · exact put
  · exact ite_poolWork (put.trans (memWrite_poolWork ..)) (.refl s)

theorem dropRef_poolWork (s : Hw) (k : KvSec) (i : Nat) : PoolWork s (s.dropRef k i) :=
  (setRef_poolWork s i _).trans (ite_poolWork (.refl _) ⟨_, _, _, _, _, _, rfl⟩)

theorem linkFree_poolWork (s : Hw) (l : List Nat) : PoolWork s (s.linkFree l) :=
  PoolWork.trans (t := { s with kv := { s.kv with freeList := l } }) ⟨_, _, _, _, _, _, rfl⟩
    (.foldl (fun _ _ => memWrite_poolWork ..) _ _)

theorem takeIndex_poolWork (s : Hw) (i : Nat) : PoolWork s (s.takeIndex i) :=
  ite_poolWork (linkFree_poolWork ..) ⟨_, _, _, _, _, _, rfl⟩

theorem placeFrames_poolWork {s t : Hw} {k : KvSec} {i f : Nat} (placed : s.placeFrames k i f = some t) : PoolWork s t := by
  refine PoolWork.bindFoldl (fun {s t p} h => ?_) _ placed
  obtain ⟨l, -, rfl⟩ := Option.map_eq_some_iff.1 h
  exact (setHome_poolWork ..).trans (memErase_poolWork ..)

/-! ## The end of a CLOSING sequence (R182, R268) -/

theorem unbindSequence_poolWork (s : Hw) (q : Nat) :
    PoolWork { s with wgt := { s.wgt with bindSeq := nput none s.wgt.bindSeq q none } } (s.unbindSequence q) := by
  unfold Hw.unbindSequence Hw.writeBinding
  split
  · exact .refl _
  · exact memWriteAll_poolWork ..

/-- A sequence that becomes FREE leaves the list of those in use and its binding. -/
theorem freed_leaves (s : Hw) (q : Nat) :
    let t := ((s.setSeqState q sqFree).setLastOp q opOk).unbindSequence q
    q ∉ t.kv.live ∧ nget none t.wgt.bindSeq q = none ∧ t.stk = s.stk ∧ t.kv.opQueue = s.kv.opQueue := by
  intro t
  obtain ⟨_, _, _, _, _, _, same⟩ := unbindSequence_poolWork ((s.setSeqState q sqFree).setLastOp q opOk) q
  rw [show t = _ from same]
  refine ⟨?_, ?_, rfl, rfl⟩
  · simp [Hw.setLastOp, Hw.seqPut, Hw.setSeqState]
  · simp

theorem exec_closeDone {s : State} {q : W16} (closing : s.hw.seqState q.toNat = 4) :
    ∃ t, exec (.closeDone q) s = .next t ∧ q.toNat ∉ t.hw.kv.live ∧ nget none t.hw.wgt.bindSeq q.toNat = none ∧
      t.hw.stk = s.hw.stk ∧ t.hw.kv.opQueue = s.hw.kv.opQueue := by
  have call : exec (.closeDone q) s = execCloseDone q s := rfl
  rw [call, execCloseDone]
  refine ⟨_, act_eq (if_neg (by simp [closing, sqClosing])), ?_⟩
  dsimp only
  generalize drops : List.foldl _ (List.foldl _ s.hw _) _ = u
  have pages : PoolWork s.hw u := drops ▸
    (PoolWork.foldl (fun _ _ => dropRef_poolWork ..) _ _).trans (.foldl (fun _ _ => dropRef_poolWork ..) _ _)
  obtain ⟨live, unbound, stk, queue⟩ := freed_leaves u q.toNat
  obtain ⟨_, _, _, _, _, _, rfl⟩ := pages
  exact ⟨live, unbound, stk, queue⟩

/-! ## Preparing a commit (R187, R205) -/

/-- An ALLOC in the shadow gets a pool index and frames, or nothing where there are none; any other entry is left. -/
def Hw.fillEntry (k : KvSec) (q sh : Nat) (s : Hw) (i : Nat) : Option Hw :=
  if s.ptGet k q sh i ≠ pageAlloc then some s
  else if s.kv.shortFields.contains (k.sliceField (s.ptPlace k q i).1 (s.ptPlace k q i).2) then none
  else (s.freeIndex k).bind fun p =>
    (((s.takeIndex p).setRef p 0).placeFrames k p (k.sliceField (s.ptPlace k q i).1 (s.ptPlace k q i).2)).map fun s =>
      s.ptPut k q sh i p

/-- Every ALLOC of the sequence's change list is filled, or none. -/
def Hw.fillChanged (s : Hw) (k : KvSec) (q : Nat) : Option Hw :=
  (s.changed k q).foldl (fun o i => o.bind fun t => t.fillEntry k q (s.shadowCopy q) i) (some s)

theorem fillChanged_poolWork {s t : Hw} {k : KvSec} {q : Nat} (filled : s.fillChanged k q = some t) : PoolWork s t := by
  refine PoolWork.bindFoldl (fun {s t i} h => ?_) _ filled
  unfold Hw.fillEntry at h
  split at h
  · cases h
    exact .refl s
  · split at h
    · exact absurd h (by simp)
    · obtain ⟨p, -, h⟩ := Option.bind_eq_some_iff.1 h
      obtain ⟨u, placed, rfl⟩ := Option.map_eq_some_iff.1 h
      exact (((takeIndex_poolWork ..).trans (setRef_poolWork ..)).trans (placeFrames_poolWork placed)).trans (ptPut_poolWork ..)

/-- Without an ALLOC in the change list nothing has to be filled. -/
theorem fillChanged_of_no_alloc {s : Hw} {k : KvSec} {q : Nat}
    (noAlloc : ∀ i ∈ s.changed k q, s.ptGet k q (s.shadowCopy q) i ≠ pageAlloc) : s.fillChanged k q = some s :=
  foldl_eq_self fun i listed => if_pos (noAlloc i listed)

/-- Where indices or frames are missing the commit is SHORT and KV_SHORT is raised. -/
theorem prepare_of_short {s : Hw} {k : KvSec} {q : Nat} (short : s.fillChanged k q = none) :
    s.prepare k q = (Hw.setLastOp { s with kv := { s.kv with
      commits := s.kv.commits.map fun c => if c.seq = q then { c with short := true } else c } } q opShort).raise 10 := by
  unfold Hw.prepare
  extract_lets ixs sh ac filled
  have unfilled : filled = none := short
  rw [unfilled]

/-- A filled commit is prepared; the pool then counts what it brings in. -/
theorem prepare_of_filled {s t : Hw} {k : KvSec} {q : Nat} (filled : s.fillChanged k q = some t) :
    ∃ u added removed, PoolWork s u ∧ s.prepare k q = { u with kv := { u.kv with
      commits := s.kv.commits.map fun c =>
        if c.seq = q then { seq := q, prepared := true, added := added, removed := removed } else c } } := by
  have pages := fillChanged_poolWork filled
  have counts (l m : List Nat) : PoolWork s (m.foldl (fun s i => s.dropRef k i) (l.foldl (fun s i => s.addRef i) t)) :=
    (pages.trans (.foldl (fun _ _ => setRef_poolWork ..) _ _)).trans (.foldl (fun _ _ => dropRef_poolWork ..) _ _)
  unfold Hw.prepare
  extract_lets ixs sh ac fills
  have full : fills = some t := filled
  rw [full]
  exact ⟨_, _, _, counts _ _, by rw [← (counts _ _).commits]⟩

/-- With nothing changed and nothing counted before, the commit is prepared as it stands. -/
theorem prepare_of_unchanged {s : Hw} {k : KvSec} {q : Nat} (same : s.changed k q = [])
    (fresh : ∀ c ∈ s.kv.commits, c.seq = q → c.added = []) :
    s.prepare k q = { s with kv := { s.kv with commits := s.kv.commits.map fun c =>
      if c.seq = q then { seq := q, prepared := true, added := [], removed := [] } else c } } := by
  have counted : (s.kv.commits.filter fun c => decide (c.seq = q)).flatMap (·.added) = [] := by simpa using fresh
  simp [Hw.prepare, same, counted]

section Replaced
variable {q : Nat} {g : KvPend → KvPend} {cs : List KvPend}

theorem mem_replaced_of_other {c : KvPend} (listed : c ∈ cs) (other : c.seq ≠ q) :
    c ∈ cs.map fun c => if c.seq = q then g c else c :=
  List.mem_map.2 ⟨c, listed, if_neg other⟩

theorem replaced_own {P : KvPend → Prop} (holds : ∀ c, P (g c)) :
    ∀ c ∈ cs.map (fun c => if c.seq = q then g c else c), c.seq = q → P c := by
  intro c listed own
  obtain ⟨d, -, rfl⟩ := List.mem_map.1 listed
  by_cases mine : d.seq = q
  · rw [if_pos mine]
    exact holds d
  · rw [if_neg mine] at own
    exact absurd own mine

end Replaced

section Prepared
variable {s : State} {q : W16} {k : KvSec} (billet : s.hw.kv.sec = some k)
  (waits : ∃ c ∈ s.hw.kv.commits, c.seq = q.toNat ∧ c.prepared = false)
include billet waits

theorem exec_commitPrepared : exec (.commitPrepared q) s = .next { s with hw := s.hw.prepare k q.toNat } := by
  have call : exec (.commitPrepared q) s = execCommitPrepared q s := rfl
  have geometry : s.hw.kvGeometry = k := by rw [Hw.kvGeometry, billet]; rfl
  rw [call, execCommitPrepared, ← geometry]
  exact act_eq (if_pos (by simpa using waits))

/-- A waiting commit is prepared, or SHORT; without an ALLOC it is prepared (R187). -/
theorem exec_commitPrepared_settles : ∃ t, exec (.commitPrepared q) s = .next t ∧
    (∀ c ∈ s.hw.kv.commits, c.seq ≠ q.toNat → c ∈ t.hw.kv.commits) ∧
    ((∀ c ∈ t.hw.kv.commits, c.seq = q.toNat → c.prepared = true) ∨
      (∀ c ∈ t.hw.kv.commits, c.seq = q.toNat → c.short = true) ∧ t.hw.evt.flags.getLsbD 10 = true) ∧
    ((∀ ix ∈ s.hw.changed k q.toNat, s.hw.ptGet k q.toNat (s.hw.shadowCopy q.toNat) ix ≠ pageAlloc) →
      ∀ c ∈ t.hw.kv.commits, c.seq = q.toNat → c.prepared = true) := by
  refine ⟨_, exec_commitPrepared billet waits, ?_⟩
  dsimp only
  cases filled : s.hw.fillChanged k q.toNat with
  | none =>
    rw [prepare_of_short filled]
    simp only [raise_kv]
    refine ⟨fun c => mem_replaced_of_other, .inr ⟨replaced_own fun _ => rfl, raise_bit _ 10⟩, fun noAlloc => ?_⟩
    rw [fillChanged_of_no_alloc noAlloc] at filled
    cases filled
  | some t =>
    obtain ⟨u, added, removed, pages, prepared⟩ := prepare_of_filled filled
    rw [prepared]
    have done := replaced_own (q := q.toNat) (cs := s.hw.kv.commits) (P := (·.prepared = true))
      (g := fun _ => { seq := q.toNat, prepared := true, added := added, removed := removed }) fun _ => rfl
    exact ⟨fun c => mem_replaced_of_other, .inl done, fun _ => done⟩

end Prepared

/-- A sync that is done clears its flag and writes page tables alone (R187). -/
theorem exec_shadowSyncDone {s : State} {q : W16} (syncs : s.hw.seqFlag q.toNat 2 = true) :
    ∃ t, exec (.shadowSyncDone q) s = .next t ∧ t.hw.seqFlag q.toNat 2 = false ∧ t.hw.kv = s.hw.kv := by
  have call : exec (.shadowSyncDone q) s = execShadowSyncDone q s := rfl
  rw [call, execShadowSyncDone]
  refine ⟨_, act_eq (if_neg (by simp [fSync, syncs])), ?_, ?_⟩
  · exact (setFlag_seqFlag _ _ false (by decide) le_rfl).trans (if_pos rfl)
  · exact List.foldlRecOn (motive := fun t : Hw => t.kv = s.hw.kv) _ _ rfl fun _ kept _ _ => kept

/-- Settles O22: a lemma for each queued operation and for each of the module's own commands. -/
theorem kvSequences : Obligations.KvSequences := by
  unfold Obligations.KvSequences
  refine ⟨fun s k q st => ⟨fun open' shut level => ?_, fun edits => ⟨?_, ?_⟩, fun used => ?_, fun free shut kind known => ?_⟩,
    fun s q k billet => ⟨exec_closeDone, fun waits => ⟨exec_commitPrepared_settles billet waits, fun fresh same => ?_⟩,
      exec_shadowSyncDone⟩⟩
  · obtain ⟨edit, state, result, entry⟩ := kvApply_edit (k := k) (v := 7) (st := st) open' shut level
    exact ⟨edit, state, result, entry.bytes⟩
  · obtain ⟨edit, pending, result, commits, entry⟩ := kvApply_commit (k := k) (v := 7) (st := st) edits
    exact ⟨edit, pending, result, commits, entry.bytes⟩
  · obtain ⟨edit, sync, result, entry⟩ := kvApply_abandon (k := k) (v := 7) (st := st) edits
    exact ⟨edit, sync, result, entry.bytes⟩
  · obtain ⟨priority, state, entry⟩ := kvApply_prio (k := k) (v := 7) (st := st) used
    exact ⟨priority, state, entry.bytes⟩
  · obtain ⟨result, state, event, entry⟩ := opFails_answers s q opBadState (by decide)
    intro t
    rw [show t = _ from kvApply_free free shut known]
    exact ⟨result, state.trans free, event, entry.bytes⟩
  · exact ⟨_, exec_commitPrepared billet waits, by rw [prepare_of_unchanged same fresh], by rw [prepare_of_unchanged same fresh]⟩

end Sys2Proof.Machine
end
section
/-!
# KVP_OP, LOOKUP and INSERT (R182, R202, R203, R209; log 69)
-/
namespace Sys2Proof.Machine

/-! ## The operation queue (R182) -/

section Push
variable {s : State} {i : Instr} {o : KvOp} (opened : s.hw.barOpen = true)
  (call : exec i s = s.act fun t => t.bar0 fun t => t.kvPush o)
include opened call

/-- An operation that finds room joins the queue, and last_op is PENDING. -/
theorem kvPush_joins (room : s.hw.kv.opQueue.length < 256) : exec i s = .next { s with
    hw := ({ s.hw with tst := { s.hw.tst with armedKey := false }
                       kv := { s.hw.kv with opQueue := s.hw.kv.opQueue ++ [o] } } : Hw).memWrite (s.hw.seqOff o.seq + 6) [1] } := by
  rw [call, act_bar0_of_open opened, Hw.kvPush, if_neg (by exact Nat.not_le.2 room)]
  rfl

/-- An operation that finds the queue full is lost and counted. -/
theorem kvPush_lost (full : s.hw.kv.opQueue.length ≥ 256) : exec i s = .next { s with
    hw := { s.hw with tst := { s.hw.tst with armedKey := false }
                      kv := { s.hw.kv with opLost := satInc s.hw.kv.opLost } } } := by
  rw [call, act_bar0_of_open opened, Hw.kvPush, if_pos (by exact full)]

end Push

/-! ## The walk of a LOOKUP and of an INSERT (R201-R203) -/

theorem nodePut_poolWork (s : Hw) (n off w v : Nat) : PoolWork s (s.nodePut n off w v) := memWrite_poolWork ..

theorem evictNode_poolWork (s : Hw) (k : KvSec) (n : Nat) : PoolWork s (s.evictNode k n) :=
  ((PoolWork.foldl (fun _ _ => dropRef_poolWork ..) _ s).trans (ite_poolWork (.refl _) (nodePut_poolWork ..))).trans
    (nodePut_poolWork ..)

theorem enterNode_poolWork (s : Hw) (k : KvSec) (q n j : Nat) (key : List Byte) (parent : Nat) :
    PoolWork s (s.enterNode k q n j key parent) := by
  refine .trans (.trans (.trans (ite_poolWork (evictNode_poolWork ..) (.refl s)) (memWrite_poolWork ..))
    (ite_poolWork (.refl _) (nodePut_poolWork ..))) (.foldl (fun t a => .foldl (fun t h => ?_) _ t) _ _)
  exact (memWrite_poolWork ..).trans (ite_poolWork (setRef_poolWork ..) (.refl _))

/-- A lookup matches at most the ranges that it was given. -/
theorem lookupLoop_matches (k : KvSec) (q fuel j : Nat) (prev : List Byte) (s : Hw) :
    PoolWork s (Hw.lookupLoop k q fuel j prev s).1 ∧ (Hw.lookupLoop k q fuel j prev s).2 ≤ j + fuel := by
  induction fuel generalizing j prev s with
  | zero => exact ⟨.refl s, le_rfl⟩
  | succ fuel ih =>
    unfold Hw.lookupLoop
    extract_lets key
    split
    · exact ⟨.refl s, Nat.le_add_right ..⟩
    · next n _ =>
      extract_lets t u
      have shadow : PoolWork s t := by
        unfold t
        split
        · exact .refl s
        · exact .foldl (fun t a => .foldl (fun t h => ite_poolWork (ptPut_poolWork ..) (.refl t)) _ t) _ s
      obtain ⟨rest, most⟩ := ih (j + 1) key u
      exact ⟨(shadow.trans ((nodePut_poolWork ..).trans (nodePut_poolWork ..))).trans rest, by omega⟩

/-- An insert matches at most the ranges that it was given. -/
theorem insertLoop_matches (k : KvSec) (q fuel j : Nat) (prev : List Byte) (parent : Nat) (s : Hw) :
    PoolWork s (Hw.insertLoop k q fuel j prev parent s).1 ∧ (Hw.insertLoop k q fuel j prev parent s).2.1 ≤ j + fuel := by
  induction fuel generalizing j prev parent s with
  | zero => exact ⟨.refl s, le_rfl⟩
  | succ fuel ih =>
    unfold Hw.insertLoop
    split
    · exact ⟨.refl s, Nat.le_add_right ..⟩
    · extract_lets key
      split
      · next n _ =>
        obtain ⟨rest, most⟩ := ih (j + 1) key n s
        exact ⟨rest, by omega⟩
      · split
        · next n _ =>
          obtain ⟨rest, most⟩ := ih (j + 1) key n (s.enterNode k q n j key parent)
          exact ⟨(enterNode_poolWork ..).trans rest, by omega⟩
        · exact ⟨⟨_, _, _, _, _, _, rfl⟩, Nat.le_add_right ..⟩

/-! ## The commands (R202, R203, R209) -/

/-- The module once a LOOKUP (1) or INSERT (2) has been written to the PFX registers. -/
def Hw.pfxAsked (s : Hw) (q : W16) (n : BitVec 17) (op : BitVec 2) : Hw :=
  { s with tst := { s.tst with armedKey := false }
           kv := { s.kv with pfxSeq := q, pfxCount := n, pfxOpCode := op } }

/-- A refused command answers its status and PFX_DONE, and begins nothing. -/
theorem pfxRefuse_answers (s : Hw) (status : Nat) :
    let t := s.pfxRefuse status
    t.kv.pfxBusy = s.kv.pfxBusy ∧ t.kv.resStatus = BitVec.ofNat 3 status ∧ t.kv.resDone = true ∧
      t.evt.flags.getLsbD 13 = true ∧ t.mem = s.mem := by
  refine ⟨?_, ?_, ?_, raise_bit _ 13, ?_⟩ <;> simp [Hw.pfxRefuse]

section Commands
variable {s : State} {q : W16} {n : BitVec 17} {k : KvSec} (opened : s.hw.barOpen = true) (billet : s.hw.kv.sec = some k)
include opened billet

theorem exec_lookup : exec (.lookup q n) s =
    let a := s.hw.pfxAsked q n 1
    let found := Hw.lookupLoop k q.toNat n.toNat 0 (a.pfxRoot q.toNat) a
    .next { s with hw :=
      if s.hw.kv.pfxBusy.isSome then a.pfxRefuse 2
      else if !s.hw.kv.pfxEnable || !s.hw.seqFlag q.toNat 0 then a.pfxRefuse 1
      else found.1.pfxStart { insert := false, seq := q.toNat, count := n.toNat, matched := found.2, full := false } } := by
  refine (act_bar0_of_open opened _).trans ?_
  dsimp only
  split
  · next missing => exact absurd (missing.symm.trans billet) (Option.some_ne_none k).symm
  · next k' found =>
    obtain rfl : k' = k := Option.some.inj (found.symm.trans billet)
    rfl

theorem exec_insert : exec (.insert q n) s =
    let a := s.hw.pfxAsked q n 2
    let found := Hw.insertLoop k q.toNat n.toNat 0 (a.pfxRoot q.toNat) 0xFFFFFFFF a
    .next { s with hw :=
      if s.hw.kv.pfxBusy.isSome then a.pfxRefuse 2
      else if !s.hw.kv.pfxEnable || decide (s.hw.seqState q.toNat = 0) then a.pfxRefuse 1
      else found.1.pfxStart {
        insert := true, seq := q.toNat, count := n.toNat, matched := found.2.1, full := found.2.2 } } := by
  refine (act_bar0_of_open opened _).trans ?_
  dsimp only
  split
  · next missing => exact absurd (missing.symm.trans billet) (Option.some_ne_none k).symm
  · next k' found =>
    obtain rfl : k' = k := Option.some.inj (found.symm.trans billet)
    rfl

theorem exec_lookup_runs (idle : s.hw.kv.pfxBusy = none) (enabled : s.hw.kv.pfxEnable = true)
    (edits : s.hw.seqFlag q.toNat 0 = true) :
    ∃ t m, exec (.lookup q n) s = .next t ∧ m ≤ n.toNat ∧ t.hw.kv.pfxSeq = q ∧ t.hw.kv.pfxCount = n ∧
      t.hw.kv.pfxBusy = some { insert := false, seq := q.toNat, count := n.toNat, matched := m, full := false } ∧
      t.hw.evt = s.hw.evt := by
  have run := exec_lookup (q := q) (n := n) opened billet
  extract_lets a found at run
  rw [if_neg (by simp [idle]), if_neg (by simp [enabled, edits])] at run
  obtain ⟨pages, most⟩ : PoolWork a found.1 ∧ found.2 ≤ 0 + n.toNat := lookupLoop_matches ..
  obtain ⟨_, _, _, _, _, _, walked⟩ := pages
  refine ⟨_, found.2, run, by omega, ?_⟩
  rw [walked]
  exact ⟨rfl, rfl, rfl, rfl⟩

theorem exec_insert_runs (idle : s.hw.kv.pfxBusy = none) (enabled : s.hw.kv.pfxEnable = true)
    (used : s.hw.seqState q.toNat ≠ 0) :
    ∃ t m f, exec (.insert q n) s = .next t ∧ m ≤ n.toNat ∧
      t.hw.kv.pfxBusy = some { insert := true, seq := q.toNat, count := n.toNat, matched := m, full := f } ∧
      t.hw.evt = s.hw.evt := by
  have run := exec_insert (q := q) (n := n) opened billet
  extract_lets a found at run
  rw [if_neg (by simp [idle]), if_neg (by simp [enabled, used])] at run
  obtain ⟨pages, most⟩ : PoolWork a found.1 ∧ found.2.1 ≤ 0 + n.toNat := insertLoop_matches ..
  obtain ⟨_, _, _, _, _, _, walked⟩ := pages
  refine ⟨_, found.2.1, found.2.2, run, by omega, ?_⟩
  rw [walked]
  exact ⟨rfl, rfl⟩

theorem exec_lookup_busy (busy : s.hw.kv.pfxBusy ≠ none) :
    ∃ t, exec (.lookup q n) s = .next t ∧ t.hw.kv.pfxBusy = s.hw.kv.pfxBusy ∧ t.hw.kv.resStatus = 2 ∧
      t.hw.kv.resDone = true ∧ t.hw.evt.flags.getLsbD 13 = true ∧ t.hw.mem = s.hw.mem := by
  have run := exec_lookup (q := q) (n := n) opened billet
  dsimp only at run
  rw [if_pos (Option.isSome_iff_ne_none.2 busy)] at run
  exact ⟨_, run, pfxRefuse_answers ..⟩

theorem exec_insert_disabled (idle : s.hw.kv.pfxBusy = none) (disabled : s.hw.kv.pfxEnable = false) :
    ∃ t, exec (.insert q n) s = .next t ∧ t.hw.kv.pfxBusy = none ∧ t.hw.kv.resStatus = 1 ∧ t.hw.mem = s.hw.mem := by
  have run := exec_insert (q := q) (n := n) opened billet
  dsimp only at run
  rw [if_neg (by simp [idle]), if_pos (by simp [disabled])] at run
  obtain ⟨busy, status, -, -, mem⟩ := pfxRefuse_answers (s.hw.pfxAsked q n 2) 1
  exact ⟨_, run, busy.trans idle, status, mem⟩

end Commands

/-- The completion publishes what its operation found. -/
theorem exec_prefixOpComplete {s : State} {o : PfxOp} (busy : s.hw.kv.pfxBusy = some o) :
    ∃ t, exec .prefixOpComplete s = .next t ∧ t.hw.kv.pfxBusy = none ∧ t.hw.kv.resMatched = BitVec.ofNat 17 o.matched ∧
      t.hw.kv.resStatus = (if o.full then 3 else 0) ∧ t.hw.kv.resDone = true ∧ t.hw.evt.flags.getLsbD 13 = true ∧
      t.hw.mem = s.hw.mem := by
  have call : exec .prefixOpComplete s = execPrefixOpComplete s := rfl
  rw [call, execPrefixOpComplete, State.act, busy]
  refine ⟨_, rfl, ?_, ?_, ?_, ?_, raise_bit _ 13, ?_⟩ <;> simp

/-- Settles O21: a lemma for an operation that joins the queue or is lost, and one for each outcome of LOOKUP and INSERT. -/
theorem kvAndPrefixQueue : Obligations.KvAndPrefixQueue := by
  unfold Obligations.KvAndPrefixQueue
  refine ⟨fun s q v n => ?queue, fun s q n k billet => ⟨fun opened => ⟨?_, ?_, ?_, ?_⟩, fun o => exec_prefixOpComplete⟩⟩
  case queue =>
    intro h takes opened
    have joins {i : Instr} {kind : KvOpKind} {value : Byte}
        (call : exec i s = s.act fun t => t.bar0 fun t => t.kvPush { seq := q.toNat, kind, value, stroke := n.toNat }) :
        takes i kind value := ⟨kvPush_joins opened call, kvPush_lost opened call⟩
    exact ⟨joins rfl, joins rfl, joins rfl, joins rfl, joins rfl, joins rfl, joins rfl, joins rfl⟩
  · exact exec_lookup_runs opened billet
  · exact exec_insert_runs opened billet
  · exact exec_lookup_busy opened billet
  · exact exec_insert_disabled opened billet

end Sys2Proof.Machine
end

section
/-!
# The step queue, the loss scale and the entry of gradient values (R213, R216, R222, R229, R234, R235, R244, R249)

A GRAD message that nothing rejects enters its values one after the other. What its first values leave as it was, `Entering`, is
what the next value needs: the step entry but for its count, the engine's window, and memory outside the message's positions.
-/
namespace Sys2Proof.Machine

/-! ## The step queue (R213) -/

section Push
variable {s : State} {i : Instr} {isOpen : Bool} {n : Nat} (opened : s.hw.barOpen = true)
  (call : exec i s = s.act fun t => t.bar0 fun t => t.stepPush isOpen n)
include opened call

/-- A step operation that finds room joins the end of the queue. -/
theorem stepPush_joins (room : s.hw.bwd.queue.length < 4) : exec i s = .next { s with
    hw := { s.hw with tst := { s.hw.tst with armedKey := false }
                      bwd := { s.hw.bwd with queue := s.hw.bwd.queue ++ [(isOpen, n)] } } } := by
  rw [call, act_bar0_of_open opened, Hw.stepPush, if_neg (by exact Nat.not_le.2 room)]

/-- A step operation that finds four others is lost and counted. -/
theorem stepPush_lost (full : s.hw.bwd.queue.length ≥ 4) : exec i s = .next { s with
    hw := { s.hw with tst := { s.hw.tst with armedKey := false }
                      bwd := { s.hw.bwd with lost := satInc s.hw.bwd.lost } } } := by
  rw [call, act_bar0_of_open opened, Hw.stepPush, if_pos (by exact full)]

end Push

/-! ## The loss scale (R229) -/

/-- Where the limits cross, the exponent is the upper one. -/
theorem clampExp_of_crossed {lo hi : Int} (crossed : hi < lo) (e : Int) : clampExp lo hi e = hi :=
  min_eq_right (crossed.le.trans (le_max_right e lo))

theorem clampExp_within {lo hi : Int} (within : lo ≤ hi) (e : Int) : lo ≤ clampExp lo hi e ∧ clampExp lo hi e ≤ hi :=
  ⟨le_min (le_max_right e lo) within, min_le_right ..⟩

theorem expByte_toInt (b : Byte) : expByte b.toInt = b := BitVec.ofInt_toInt

/-- An exponent between two bytes is the value of its own byte. -/
theorem toInt_expByte {lo hi : Byte} {e : Int} (within : lo.toInt ≤ e ∧ e ≤ hi.toInt) : (expByte e).toInt = e := by
  have low := BitVec.le_toInt lo
  have high := BitVec.toInt_lt (x := hi)
  exact BitVec.toInt_ofInt_eq_self (by decide) (by omega) (by omega)

/-- The interval of an RED_LSCALE write is never 0. -/
theorem lscale_interval_ne_zero (v : Nat) : BitVec.ofNat 16 (if bits v 40 25 = 0 then 1 else bits v 40 25) ≠ 0 := by
  have small : bits v 40 25 < 2 ^ 16 := Nat.mod_lt _ (by decide)
  intro zero
  have value := congrArg BitVec.toNat zero
  rw [BitVec.toNat_ofNat, Nat.mod_eq_of_lt (by split <;> omega)] at value
  split at value
  · cases value
  · contradiction

/-- A write of RED_LSCALE changes the step registers alone. -/
theorem exec_lscaleWrite {s : State} (v : W64) (opened : s.hw.barOpen = true) :
    let h : Hw := { s.hw with tst := { s.hw.tst with armedKey := false } }
    let lo : Byte := BitVec.ofNat 8 (bits v.toNat 15 8)
    let hi : Byte := BitVec.ofNat 8 (bits v.toNat 23 16)
    ∃ t, exec (.lscaleWrite v) s = .next t ∧ t = { s with hw := { h with bwd := t.hw.bwd } } ∧ t.hw.bwd.clean = 0 ∧
      t.hw.bwd.maxExp = hi ∧ t.hw.bwd.minExp = lo ∧ t.hw.bwd.dynamic = v.getLsbD 24 ∧ t.hw.bwd.interval ≠ 0 ∧
      (lo.toInt > hi.toInt → t.hw.bwd.exp = hi) ∧
      (lo.toInt ≤ hi.toInt → lo.toInt ≤ t.hw.bwd.exp.toInt ∧ t.hw.bwd.exp.toInt ≤ hi.toInt) ∧
      t.hw.bwd.queue = h.bwd.queue := by
  intro h lo hi
  refine ⟨_, act_bar0_of_open opened _, rfl, rfl, rfl, rfl, rfl, lscale_interval_ne_zero v.toNat, fun crossed => ?_,
    fun within => ?_, rfl⟩
  · exact (congrArg expByte (clampExp_of_crossed crossed _)).trans (expByte_toInt hi)
  · have limits := clampExp_within within (sbyte (BitVec.ofNat 8 (bits v.toNat 7 0)))
    exact (toInt_expByte limits).symm ▸ limits

/-! ## Errors of an engine (R235, R249) -/

/-- An engine with one more error, captured where none was (R249). -/
def Engine.erred (x : Engine) (code bucket : Nat) : Engine :=
  let x := { x with errCount := satInc x.errCount }
  if x.errFlag then x else { x with errFlag := true, errCode := BitVec.ofNat 4 code, errBucket := BitVec.ofNat 16 bucket }

theorem redErr_engine (s : Hw) (e code bucket : Nat) : (s.redErr e code bucket).engine e = (s.engine e).erred code bucket := by
  have raised : (s.redErr e code bucket).engines = (s.setEngine e ((s.engine e).erred code bucket)).engines := raise_engines _ 19
  rw [Hw.engine, raised]
  exact (setEngine_engine ..).trans (if_pos rfl)

theorem redErr_mem (s : Hw) (e code bucket : Nat) : (s.redErr e code bucket).mem = s.mem := raise_mem _ 19

theorem redErr_flagged (s : Hw) (e code bucket : Nat) : (s.redErr e code bucket).evt.flags.getLsbD 19 = true := raise_bit _ 19

/-- An error leaves what the engine holds alone. -/
@[simp] theorem erred_insts (x : Engine) (code bucket : Nat) : (x.erred code bucket).insts = x.insts := by
  unfold Engine.erred
  dsimp only
  split <;> rfl

@[simp] theorem erred_errCount (x : Engine) (code bucket : Nat) : (x.erred code bucket).errCount = satInc x.errCount := by
  unfold Engine.erred
  dsimp only
  split <;> rfl

theorem erred_first {x : Engine} (first : x.errFlag = false) (code bucket : Nat) :
    (x.erred code bucket).errCode = BitVec.ofNat 4 code ∧ (x.erred code bucket).errBucket = BitVec.ofNat 16 bucket := by
  simp [Engine.erred, first]

/-! ## What the first values of a message leave to the next -/

/-- Step entry `n` is as before but for its count of values that are not finite. -/
def SameStep (b c : Bwd) (n : Nat) : Prop := ∃ count, stepEntry c n = { stepEntry b n with nonfinite := count }

theorem SameStep.refl (b : Bwd) (n : Nat) : SameStep b b n := ⟨_, rfl⟩

theorem SameStep.trans {b c d : Bwd} {n : Nat} (first : SameStep b c n) (second : SameStep c d n) : SameStep b d n := by
  obtain ⟨_, one⟩ := first
  obtain ⟨count, two⟩ := second
  exact ⟨count, by rw [two, one]⟩

theorem stepEntry_setEntry (b : Bwd) (n : Nat) (x : StepEnt) : stepEntry (b.setEntry n x) n = x := by
  unfold stepEntry Bwd.setEntry
  split <;> rfl

/-- The mask bit rests on the billet and one byte of the step's copy of the mask (R222). -/
theorem maskBit_congr {s t : Hw} {e n q : Nat} (running : t.running = s.running)
    (copy : ∀ w, s.bwdSec = some w → nget 0 t.mem (bonded e 0 (w.maskOff + n * w.maskBytes + q / 8)) =
      nget 0 s.mem (bonded e 0 (w.maskOff + n * w.maskBytes + q / 8))) : t.maskBit e n q = s.maskBit e n q := by
  have sec : t.bwdSec = s.bwdSec := congrArg (·.bind (·.img.backward)) running
  unfold Hw.maskBit
  rw [sec]
  split
  · rfl
  · next w found => simp only [Hw.memNat, Hw.memRead, ngetList, copy w found]

/-- Places of a buffer's part follow each other at four bytes a value (R233). -/
theorem place_add (r : RedSec) (e buf part pos k : Nat) : r.place e buf part (pos + k) = r.place e buf part pos + 4 * k := by
  unfold RedSec.place bonded
  omega

/-- What values entered at step entry `n` in `len` bytes from `a` leave as it was. -/
structure Entering (s t : Hw) (e n a len : Nat) : Prop where
  running : t.running = s.running
  nextPost : (t.engine e).nextPost = (s.engine e).nextPost
  step : SameStep s.bwd t.bwd n
  mem : ∀ q, q < a ∨ a + len ≤ q → nget 0 t.mem q = nget 0 s.mem q

theorem Entering.refl (s : Hw) (e n a : Nat) : Entering s s e n a 0 := ⟨rfl, rfl, .refl _ _, fun _ _ => rfl⟩

theorem Entering.append {s t u : Hw} {e n a len more : Nat} (first : Entering s t e n a len)
    (second : Entering t u e n (a + len) more) : Entering s u e n a (len + more) where
  running := second.running.trans first.running
  nextPost := second.nextPost.trans first.nextPost
  step := first.step.trans second.step
  mem q outside := (second.mem q (by omega)).trans (first.mem q (by omega))

/-! ## One value (R216, R235) -/

/-- The step and the engine's window take values of a bucket's `Inst` number `seq` (R216, R244). -/
structure Hw.Takes (s : Hw) (e : Nat) (r : RedSec) (bucket step seq : Nat) : Prop where
  entry : (stepEntry s.bwd (step % 2)).step = step
  short : step < 2 ^ 32
  state : (stepEntry s.bwd (step % 2)).state = .open' ∨ (stepEntry s.bwd (step % 2)).state = .closing
  number : step * r.count e + r.index bucket = seq
  window : (s.engine e).nextPost.toNat ≤ seq

/-- Values that have entered leave the step and the window as the next one needs them. -/
theorem Entering.takes {s t : Hw} {e a len : Nat} {r : RedSec} {bucket step seq : Nat} (kept : Entering s t e (step % 2) a len)
    (takes : s.Takes e r bucket step seq) : t.Takes e r bucket step seq := by
  obtain ⟨count, entry⟩ := kept.step
  exact ⟨by rw [entry]; exact takes.entry, takes.short, by rw [entry]; exact takes.state, takes.number,
    by rw [kept.nextPost]; exact takes.window⟩

/-- The value that a message of a step enters for `g` (R216). -/
def Hw.entryValue (s : Hw) (e step seg : Nat) (g : W16) : W32 :=
  enterValue (s.bwdSec.any fun b => b.fp16) (stepEntry s.bwd (step % 2)).exp.toInt (s.maskBit e (step % 2) seg) g

/-- The mask bit of the step's segment is outside `len` bytes from `a`. -/
def Hw.MaskOutside (s : Hw) (e step seg a len : Nat) : Prop := ∀ w, s.bwdSec = some w →
  let y := bonded e 0 (w.maskOff + step % 2 * w.maskBytes + seg / 8)
  y < a ∨ a + len ≤ y

/-- Values that have entered away from the mask leave what the next one is made of. -/
theorem Entering.entryValue {s t : Hw} {e step seg a len : Nat} (kept : Entering s t e (step % 2) a len)
    (mask : s.MaskOutside e step seg a len) (g : W16) : t.entryValue e step seg g = s.entryValue e step seg g := by
  obtain ⟨count, entry⟩ := kept.step
  have sec : t.bwdSec = s.bwdSec := congrArg (·.bind (·.img.backward)) kept.running
  have bit := maskBit_congr (q := seg) kept.running fun w found => kept.mem _ (mask w found)
  rw [Hw.entryValue, entry, sec, bit]
  rfl

/-- An `Inst` with one more value, not yet committed. -/
def Inst.entered (i : Inst) (pos : Nat) (w : W32) (mark : Entered) : Inst :=
  { i with vals := nput none i.vals pos (some w), uncommitted := i.uncommitted ++ [mark] }

theorem openInst_there {s : Hw} {e bucket step seq : Nat} {i : Inst} (there : (s.engine e).inst seq = some i) :
    s.openInst e bucket step seq = (s, i) := by
  simp only [Hw.openInst, there]

/-- An `Inst` as it opens in a buffer (R244). -/
def Inst.opening (bucket step seq buf : Nat) : Inst := { bucket, step, seq, buf := some buf }

theorem openInst_new {s : Hw} {e bucket step seq buf : Nat} (absent : (s.engine e).inst seq = none)
    (window : seq < (s.engine e).nextPost.toNat + 16) (free : (s.engine e).freeBuf = some buf) :
    s.openInst e bucket step seq = (s.setInst e (.opening bucket step seq buf), .opening bucket step seq buf) := by
  simp only [Hw.openInst, absent, if_pos window, free, Inst.opening]

theorem setInst_nextPost (s : Hw) (e : Nat) (i : Inst) : ((s.setInst e i).engine e).nextPost = (s.engine e).nextPost := by
  rw [Hw.setInst, Hw.onEngine, setEngine_engine, if_pos rfl]

/-- The step registers after one value at step entry `n` (R216, R222). -/
def Bwd.counted (b : Bwd) (n : Nat) (on bad : Bool) : Bwd :=
  let c := { b with masked := if on then b.masked else b.masked + 1 }
  if bad then c.setEntry n { stepEntry b n with nonfinite := satInc (stepEntry b n).nonfinite } else c

theorem counted_sameStep (b : Bwd) (n : Nat) (on bad : Bool) : SameStep b (b.counted n on bad) n := by
  unfold Bwd.counted
  dsimp only
  split
  · exact ⟨_, stepEntry_setEntry ..⟩
  · exact .refl b n

/-- The module with the bytes of one value in its place, the step registers and the `Inst` put. -/
def Hw.withValue (s : Hw) (e : Nat) (bwd : Bwd) (a : Nat) (w : W32) (i : Inst) : Hw :=
  (({ s with bwd := bwd } : Hw).memWrite a (leBytes 4 w.toNat)).setInst e i

/-- The mark of the entry of `g`, with what it counted (R237). -/
def Hw.entryMark (s : Hw) (e step seg pos : Nat) (g : W16) : Entered where
  stroke := s.curBeat.1
  beat := s.curBeat.2
  pos := pos
  nonfinite := s.maskBit e (step % 2) seg &&
    !((if (s.bwdSec.any fun b => b.fp16) then fmtF16 else fmtBF16).decode g.toNat).isFinite
  masked := !s.maskBit e (step % 2) seg

/-- A value that is not the last one of its `Inst` enters it. -/
theorem enterOne_withValue {s : Hw} {engines : NMap Engine} {e bucket step seg pos buf : Nat} {r : RedSec} {b : Bucket} {i : Inst}
    (takes : s.Takes e r bucket step i.seq) (g : W16)
    (opened : s.openInst e bucket step i.seq = ({ s with engines := engines }, i))
    (vacant : nget none i.vals pos = none) (complete : i.complete = false) (holds : i.buf = some buf)
    (more : (nput none i.vals pos (some (s.entryValue e step seg g))).length ≠ b.values) :
    s.enterOne e r b bucket step seg pos g =
      ({ s with engines := engines } : Hw).withValue e
        (s.bwd.counted (step % 2) (s.maskBit e (step % 2) seg) (s.entryMark e step seg pos g).nonfinite) (r.place e buf 0 pos)
        (s.entryValue e step seg g) (i.entered pos (s.entryValue e step seg g) (s.entryMark e step seg pos g)) := by
  obtain ⟨entry, short, state, number, window⟩ := takes
  have live : (decide ((stepEntry s.bwd (step % 2)).state = .open') ||
    decide ((stepEntry s.bwd (step % 2)).state = .closing)) = true := by
    rwa [Bool.or_eq_true, decide_eq_true_iff, decide_eq_true_iff]
  have meets : (stepEntry s.bwd (step % 2)).step % 2 ^ 32 = step := by rw [entry, Nat.mod_eq_of_lt short]
  have numbered : (stepEntry s.bwd (step % 2)).step * r.count e + r.index bucket = i.seq := by rw [entry]; exact number
  have opened' : s.openInst e bucket (stepEntry s.bwd (step % 2)).step i.seq = (({ s with engines := engines } : Hw), i) := by
    rw [entry]; exact opened
  have value : enterValue (s.bwdSec.any fun b => b.fp16) (sbyte (stepEntry s.bwd (step % 2)).exp) (s.maskBit e (step % 2) seg) g =
    s.entryValue e step seg g := rfl
  have sec : ({ s with engines := engines } : Hw).bwdSec = s.bwdSec := rfl
  have mask : ({ s with engines := engines } : Hw).maskBit = s.maskBit := rfl
  have marked : (s.maskBit e (step % 2) seg &&
    !((if (s.bwdSec.any fun b => b.fp16) then fmtF16 else fmtBF16).decode g.toNat).isFinite) =
      (s.entryMark e step seg pos g).nonfinite := rfl
  cases i
  cases complete
  cases holds
  simp only [Hw.enterOne, live, meets, numbered, if_neg (Nat.not_lt.2 window), opened', vacant, sec, mask, value, marked,
    if_neg more, ne_eq, not_true_eq_false, decide_false, Bool.not_true, Bool.or_false, Bool.false_eq_true, if_false,
    Option.isSome_none]
  by_cases bad : (s.entryMark e step seg pos g).nonfinite = true
  · simp only [Bwd.counted, if_pos bad]
    rfl
  · simp only [Bwd.counted, if_neg bad]
    rfl

theorem withValue_entering {s : Hw} {engines : NMap Engine} {e n a : Nat} {bwd : Bwd}
    (post : (nget {} engines e).nextPost = (s.engine e).nextPost) (step : SameStep s.bwd bwd n) (w : W32) (i : Inst) :
    Entering s (({ s with engines := engines } : Hw).withValue e bwd a w i) e n a 4 where
  running := rfl
  nextPost := (setInst_nextPost ..).trans post
  step := step
  mem q outside := by
    rw [Hw.withValue, setInst_mem, Hw.memWrite, nget_nputList, leBytes_length, if_neg (by omega)]

/-! ## The values of a message, one after the other (R216, R235) -/

/-- The module after the values `vs` are entered from position `off`. -/
def Hw.enterAll (s : Hw) (e : Nat) (r : RedSec) (b : Bucket) (bucket step seg off : Nat) (vs : List W16) : Hw :=
  ((List.range vs.length).zip vs).foldl (fun s p => s.enterOne e r b bucket step seg (off + p.1) p.2) s

theorem enterAll_concat (s : Hw) (e : Nat) (r : RedSec) (b : Bucket) (bucket step seg off : Nat) (vs : List W16) (g : W16) :
    s.enterAll e r b bucket step seg off (vs ++ [g]) =
      (s.enterAll e r b bucket step seg off vs).enterOne e r b bucket step seg (off + vs.length) g := by
  unfold Hw.enterAll
  rw [List.length_append, List.length_singleton, List.range_succ, List.zip_append List.length_range, List.foldl_append]
  rfl

theorem length_ninsert_le {V : Type} (q : Nat) (x : V) (m : NMap V) : (ninsert q x m).length ≤ m.length + 1 := by
  induction m with
  | nil => exact le_rfl
  | cons p m ih =>
    unfold ninsert
    split
    · exact le_rfl
    · split
      · exact Nat.le_succ _
      · exact Nat.succ_le_succ ih

/-- `j` is `i` with the values that `vs` stand for at the positions from `off`. -/
structure Inst.Took (i j : Inst) (off : Nat) (value : W16 → W32) (vs : List W16) : Prop where
  seq : j.seq = i.seq
  buf : j.buf = i.buf
  complete : j.complete = i.complete
  length : j.vals.length ≤ i.vals.length + vs.length
  vals : ∀ p, nget none j.vals p =
    if off ≤ p ∧ p < off + vs.length then some (value (vs.getD (p - off) 0)) else nget none i.vals p

theorem Inst.Took.refl (i : Inst) (off : Nat) (value : W16 → W32) : i.Took i off value [] :=
  ⟨rfl, rfl, rfl, le_rfl, fun p => by rw [if_neg (by simp)]⟩

/-- One value more, at the next position. -/
theorem Inst.Took.entered {i j : Inst} {off : Nat} {value : W16 → W32} {vs : List W16} (took : i.Took j off value vs) (g : W16)
    (mark : Entered) : i.Took (j.entered (off + vs.length) (value g) mark) off value (vs ++ [g]) where
  seq := took.seq
  buf := took.buf
  complete := took.complete
  length := by
    have grown : (j.entered (off + vs.length) (value g) mark).vals.length ≤ j.vals.length + 1 := length_ninsert_le ..
    have before := took.length
    rw [List.length_append, List.length_singleton]
    omega
  vals p := by
    rw [Inst.entered, nget_nput, took.vals, List.length_append, List.length_singleton]
    by_cases last : p = off + vs.length
    · subst last
      rw [if_pos rfl, if_pos (by omega), Nat.add_sub_cancel_left, List.getD_append_right _ _ _ _ le_rfl, Nat.sub_self]
      rfl
    · rw [if_neg last]
      by_cases inside : off ≤ p ∧ p < off + vs.length
      · rw [if_pos inside, if_pos (by omega), List.getD_append _ _ _ _ (by omega)]
      · rw [if_neg inside, if_neg (by omega)]

/-- A message's values that do not fill the `Inst` of its bucket enter it, and nothing else but their places changes in memory. -/
theorem enterAll_enters {s : Hw} {e bucket step seg off buf : Nat} {r : RedSec} {b : Bucket} {i : Inst} {vs : List W16}
    (takes : s.Takes e r bucket step i.seq) (there : (s.engine e).inst i.seq = some i) (complete : i.complete = false)
    (holds : i.buf = some buf) (vacant : ∀ k < vs.length, nget none i.vals (off + k) = none)
    (room : i.vals.length + vs.length < b.values) (mask : s.MaskOutside e step seg (r.place e buf 0 off) (4 * vs.length)) :
    ∃ j, ((s.enterAll e r b bucket step seg off vs).engine e).inst i.seq = some j ∧
      i.Took j off (s.entryValue e step seg) vs ∧
      Entering s (s.enterAll e r b bucket step seg off vs) e (step % 2) (r.place e buf 0 off) (4 * vs.length) := by
  induction vs using List.reverseRecOn with
  | nil => exact ⟨i, there, .refl .., .refl ..⟩
  | append_singleton vs g ih =>
    rw [List.length_append, List.length_singleton] at vacant room mask ⊢
    have earlier : s.MaskOutside e step seg (r.place e buf 0 off) (4 * vs.length) := fun w found => by
      have outside := mask w found
      omega
    obtain ⟨j, found, took, kept⟩ := ih (fun k less => vacant k (by omega)) (by omega) earlier
    rw [enterAll_concat]
    generalize s.enterAll e r b bucket step seg off vs = t at found kept ⊢
    have value : t.entryValue e step seg g = s.entryValue e step seg g := kept.entryValue earlier g
    have numbered : j.seq = i.seq := took.seq
    have free : nget none j.vals (off + vs.length) = none := by
      rw [took.vals, if_neg (by omega), vacant vs.length (by omega)]
    have unfilled : (nput none j.vals (off + vs.length) (some (t.entryValue e step seg g))).length ≠ b.values := by
      have most := (took.entered g (t.entryMark e step seg (off + vs.length) g)).length
      rw [List.length_append, List.length_singleton] at most
      rw [value]
      exact Nat.ne_of_lt (most.trans_lt room)
    have entered := enterOne_withValue (engines := t.engines) (numbered ▸ kept.takes takes) g
      (openInst_there (numbered ▸ found)) free (took.complete.trans complete) (took.buf.trans holds) unfilled
    rw [entered, value, place_add]
    refine ⟨_, setInst_inst_of_seq _ e (took.entered g _).seq, took.entered g _, ?_⟩
    exact kept.append (withValue_entering (s := t) rfl (counted_sameStep ..) ..)

/-! ## The messages (R235) -/

section Grad
variable {s : State} {e : FieldIx} {m : GradMsg} {r : RedSec} {b : Bucket} (sec : s.hw.redSec = some r)
include sec

theorem exec_grad_unknown (unknown : r.buckets[m.bucket.toNat]? = none) :
    exec (.grad e m) s = .next { s with hw := s.hw.redErr e.val 1 m.bucket.toNat } := by
  have call : exec (.grad e m) s = execGrad e m s := rfl
  refine call.trans (act_eq ?_)
  simp only [sec, unknown, Option.filter_none]

theorem exec_grad_beyond (known : r.buckets[m.bucket.toNat]? = some b) (engine : b.engine = e.val)
    (beyond : m.offset.toNat + m.values.length > b.values) :
    exec (.grad e m) s = .next { s with hw := s.hw.redErr e.val 3 m.bucket.toNat } := by
  have call : exec (.grad e m) s = execGrad e m s := rfl
  refine call.trans (act_eq ?_)
  simp only [sec, known, Option.filter_some, engine, decide_true, if_true, if_pos beyond]

theorem exec_grad_enters (known : r.buckets[m.bucket.toNat]? = some b) (engine : b.engine = e.val)
    (within : m.offset.toNat + m.values.length ≤ b.values) :
    exec (.grad e m) s = .next { s with
      hw := s.hw.enterAll e.val r b m.bucket.toNat m.step.toNat m.segment.toNat m.offset.toNat m.values } := by
  have call : exec (.grad e m) s = execGrad e m s := rfl
  refine call.trans (act_eq ?_)
  simp only [sec, known, Option.filter_some, engine, decide_true, if_true, if_neg (Nat.not_lt.2 within), Hw.enterAll]

end Grad

/-- The first value of a bucket's `Inst`, where it is not its last too, opens it in the free buffer and enters it. -/
theorem enterAll_opens {s : Hw} {e bucket step seg pos seq buf : Nat} {r : RedSec} {b : Bucket} (g : W16)
    (takes : s.Takes e r bucket step seq) (absent : (s.engine e).inst seq = none)
    (window : seq < (s.engine e).nextPost.toNat + 16) (free : (s.engine e).freeBuf = some buf) (more : 1 < b.values) :
    ∃ mark, ((s.enterAll e r b bucket step seg pos [g]).engine e).inst seq =
        some ((Inst.opening bucket step seq buf).entered pos (s.entryValue e step seg g) mark) ∧
      Entering s (s.enterAll e r b bucket step seg pos [g]) e (step % 2) (r.place e buf 0 pos) 4 := by
  have entered := enterOne_withValue (i := .opening bucket step seq buf) (seg := seg) (pos := pos) (b := b) takes g
    (openInst_new absent window free) rfl rfl rfl (Nat.ne_of_lt more)
  have one : s.enterAll e r b bucket step seg pos [g] = s.enterOne e r b bucket step seg pos g := rfl
  rw [one, entered]
  exact ⟨_, setInst_inst_of_seq _ e rfl, withValue_entering (setInst_nextPost ..) (counted_sameStep ..) ..⟩

/-! ## The obligation -/

/-- Settles O26: a rule for each register, for each error of a message, for the value that opens an `Inst`, and for the values
of a message that enter an open one. -/
theorem stepsAndGradients : Obligations.StepsAndGradients := by
  unfold Obligations.StepsAndGradients
  refine ⟨fun s n v => ?registers, fun s e m r => ?gradients⟩
  case registers =>
    intro h lo hi opened
    exact ⟨fun room => ⟨stepPush_joins opened rfl room, stepPush_joins opened rfl room⟩,
      fun full => stepPush_lost opened rfl full, exec_lscaleWrite v opened⟩
  case gradients =>
    intro x sec
    refine ⟨?opens, ?enters, ?unknown, ?beyond⟩
    case opens =>
      rintro b g ent buf known engine single inside more rfl entry state absent low high free
      rw [entry] at absent low high ⊢
      obtain ⟨mark, found, kept⟩ := enterAll_opens (seg := m.segment.toNat) (pos := m.offset.toNat) g
        ⟨entry, m.step.isLt, .inl state, rfl, low⟩ absent high free more
      have run := exec_grad_enters sec known engine (by rw [single]; exact inside)
      rw [single] at run
      exact ⟨_, (Inst.opening ..).entered _ _ mark, run, found, rfl, rfl, rfl, rfl, rfl, kept.mem⟩
    case enters =>
      rintro b ent i buf known engine within rfl entry state seq there low complete holds vacant room at0 mask
      rw [entry] at seq
      obtain ⟨j, found, took, kept⟩ := enterAll_enters (b := b) ⟨entry, m.step.isLt, state, seq.symm, low⟩ there complete
        holds vacant room mask
      exact ⟨_, j, exec_grad_enters sec known engine within, found, took.buf.trans holds, took.complete.trans complete,
        took.vals, kept.mem⟩
    case unknown =>
      intro unknown
      refine ⟨_, exec_grad_unknown sec unknown, ?_, ?_, redErr_flagged .., redErr_mem .., fun first => ?_⟩ <;>
        rw [redErr_engine]
      · exact erred_insts ..
      · exact erred_errCount ..
      · obtain ⟨code, bucket⟩ := erred_first first 1 m.bucket.toNat
        exact ⟨code, bucket.trans (BitVec.ofNat_toNat ..)⟩
    case beyond =>
      intro b known engine beyond
      refine ⟨_, exec_grad_beyond sec known engine beyond, ?_, redErr_mem .., fun first => ?_⟩ <;> rw [redErr_engine]
      · exact erred_insts ..
      · exact (erred_first first 3 m.bucket.toNat).1

end Sys2Proof.Machine
end

section
/-!
# Streamed weights and the weight server's answers (R227, R243, R270, R271, R318, R319)

A message on a bellows port leaves the port's inbox and reaches its unit. A SESSION message opens a session in a FREE slot or
lengthens the one that is open; a CHUNK piece is kept, verifies its chunk or fails the fill; GRAD_ACK and STREAM_ERR find their
`Inst` or weight slot by the identity that they carry.
-/
namespace Sys2Proof.Machine

/-! ## Slots, contexts and weight slots after they are set -/

@[simp] theorem setCtx_ctx (s : Hw) (c c' : Nat) (x : Ctx) : (s.setCtx c x).ctx c' = if c' = c then x else s.ctx c' :=
  nget_nput ..

theorem setSlot_ctx_same (s : Hw) (c k : Nat) (x : CtxSlot) :
    (s.setSlot c k x).ctx c = { s.ctx c with slots := nput {} (s.ctx c).slots k x } :=
  (setCtx_ctx ..).trans (if_pos rfl)

@[simp] theorem setSlot_slot_same (s : Hw) (c k : Nat) (x : CtxSlot) : (s.setSlot c k x).slot c k = x := by
  rw [Hw.slot, setSlot_ctx_same, nget_nput, if_pos rfl]

theorem beginSlot_slot (s : Hw) (c k : Nat) (stream : Bool) : (s.beginSlot c k stream).slot c k =
    { epoch := BitVec.ofNat 64 (s.ctx c).nextEpoch, state := .preparing, stream := stream } :=
  setSlot_slot_same ..

theorem beginSlot_nextEpoch (s : Hw) (c k : Nat) (stream : Bool) :
    ((s.beginSlot c k stream).ctx c).nextEpoch = (s.ctx c).nextEpoch + 1 := by
  rw [Hw.beginSlot, setSlot_ctx_same, setCtx_ctx, if_pos rfl]

theorem freeSlot_slot (s : Hw) (c k : Nat) : (s.freeSlot c k).slot c k = {} := setSlot_slot_same s c k {}

theorem setWslot_wslot (s : Hw) (w : Nat) (x : Wslot) : (s.setWslot w x).wslot w = x :=
  (nget_nput ..).trans (if_pos rfl)

/-! ## Messages on a bellows port -/

/-- A bellows port hands its message to the unit that takes it (R318). -/
theorem onBellows_taken {s : Hw} {p : Nat} (bellows : p ≥ 48) (kind : Nat) (k : Hw → Hw) :
    s.onBellows p kind k = k (s.popInbox p kind) :=
  if_neg (Nat.not_lt.2 bellows)

/-- Taking a message from the inbox touches the port alone. -/
@[simp] theorem popInbox_wgt (s : Hw) (p kind : Nat) : (s.popInbox p kind).wgt = s.wgt := rfl
@[simp] theorem popInbox_mem (s : Hw) (p kind : Nat) : (s.popInbox p kind).mem = s.mem := rfl

/-! ## The table of a slot that begins is cleared (R264) -/

/-- Memory outside what is erased reads as before. -/
theorem nget_memClear (m : NMap Byte) {off n a : Nat} (outside : a < off ∨ off + n ≤ a) :
    nget 0 (memClear m off n) a = nget 0 m a := by
  induction m with
  | nil => rfl
  | cons e m ih =>
    unfold memClear at ih ⊢
    by_cases here : e.1 = a
    · have keeps : (decide (e.1 < off) || decide (off + n ≤ e.1)) = true := by simpa [here] using outside
      rw [List.filter_cons, if_pos keeps, nget, nget, if_pos here, if_pos here]
    · rw [List.filter_cons]
      split <;> simp only [nget, if_neg here, ih]

theorem eraseFields_outside (off n : Nat) (fs : List Nat) (s : Hw) :
    ∃ mem, fs.foldl (fun s f => s.memErase (bonded f 0 off) n) s = { s with mem := mem } ∧
      ∀ a, (∀ f ∈ fs, a < bonded f 0 off ∨ bonded f 0 off + n ≤ a) → nget 0 mem a = nget 0 s.mem a := by
  induction fs generalizing s with
  | nil => exact ⟨s.mem, rfl, fun _ _ => rfl⟩
  | cons f fs ih =>
    obtain ⟨mem, erased, kept⟩ := ih (s.memErase (bonded f 0 off) n)
    refine ⟨mem, erased, fun a outside => ?_⟩
    rw [kept a fun f' among => outside f' (List.mem_cons_of_mem _ among)]
    exact nget_memClear s.mem (outside f List.mem_cons_self)

theorem clearTable_outside {s : Hw} {g : WgtSec} (sec : s.wgt.sec = some g) (c k : Nat) :
    ∃ mem, s.clearTable c k = { s with mem := mem } ∧
      ∀ a, (∀ f < 48, a < bonded f 0 (g.tableOff c k) ∨
        bonded f 0 (g.tableOff c k) + ((g.tensorCount * 16 + 63) / 64 * 64 + 32768) ≤ a) → nget 0 mem a = nget 0 s.mem a := by
  obtain ⟨mem, erased, kept⟩ :=
    eraseFields_outside (g.tableOff c k) ((g.tensorCount * 16 + 63) / 64 * 64 + 32768) (List.range 48) s
  refine ⟨mem, ?_, fun a outside => kept a fun f among => outside f (List.mem_range.1 among)⟩
  rw [← erased, Hw.clearTable, sec]
  rfl

/-! ## Sessions (R270, R318) -/

/-- A session with bytes of its stream at an offset. -/
def Session.took (x : Session) (off : Nat) (bs : List Byte) : Session := { x with bytes := nputList 0 x.bytes off bs }

/-- The module with session `y` in the place of `x`. -/
def Hw.putSession (s : Hw) (x y : Session) : Hw :=
  { s with wgt := { s.wgt with sessions := (s.wgt.sessions.filter fun z => decide (z ≠ x)) ++ [y] } }

/-- The weight section that sessions go by is the billet's. -/
def Hw.withWgtSec (s : Hw) : Hw := { s with wgt := { s.wgt with sec := s.wgtSec } }

/-- A new session in slot `k`, before its first bytes. -/
def Session.opening (c id k : Nat) : Session := { context := c, id := id, bytes := [], slot := k }

/-- Slot `k` begins for a stream under the next epoch, with an empty table. -/
def Hw.openStream (s : Hw) (c k : Nat) : Hw := (s.beginSlot c k true).clearTable c k

theorem openStream_begins {s : Hw} {g : WgtSec} (sec : s.wgt.sec = some g) (c k : Nat) :
    ((s.openStream c k).slot c k).state = .preparing ∧ ((s.openStream c k).slot c k).stream = true ∧
      ((s.openStream c k).ctx c).nextEpoch = (s.ctx c).nextEpoch + 1 ∧ (s.openStream c k).wgt.sessions = s.wgt.sessions ∧
      ∀ a, (∀ f < 48, a < bonded f 0 (g.tableOff c k) ∨
        bonded f 0 (g.tableOff c k) + ((g.tensorCount * 16 + 63) / 64 * 64 + 32768) ≤ a) →
        nget 0 (s.openStream c k).mem a = nget 0 s.mem a := by
  have begun : (s.beginSlot c k true).wgt.sec = some g := sec
  obtain ⟨mem, cleared, kept⟩ := clearTable_outside begun c k
  rw [Hw.openStream, cleared]
  have slot := beginSlot_slot s c k true
  exact ⟨congrArg (·.state) slot, congrArg (·.stream) slot, beginSlot_nextEpoch s c k true, rfl, kept⟩

/-- The end of a stream takes its session off the list and leaves the slot PREPARED, or FREE with WGT_FILL_FAIL. -/
theorem endSession_ends (s : Hw) {x : Session} {c k : Nat} (context : x.context = c) (slot : x.slot = k) :
    (s.endSession x).mem = s.mem ∧ (s.endSession x).wgt.sessions = s.wgt.sessions.filter (fun v => decide (v ≠ x)) ∧
      (((s.endSession x).slot c k).state = .prepared ∨
        ((s.endSession x).slot c k).state = .free ∧ (s.endSession x).evt.flags.getLsbD 22 = true) := by
  unfold Hw.endSession
  rw [context, slot]
  dsimp only
  split
  case h_1 =>
    refine ⟨raise_mem .., congrArg (·.sessions) (raise_wgt ..), .inr ⟨?_, raise_bit _ 22⟩⟩
    rw [Hw.slot, Hw.ctx, raise_wgt]
    exact congrArg (·.state) (freeSlot_slot ..)
  case h_2 => exact ⟨rfl, rfl, .inl (congrArg (·.state) (setSlot_slot_same ..))⟩

/-- The first message of a stream opens its session in slot `k`. -/
def Hw.sessionOpened (s : Hw) (c id k : Nat) (bs : List Byte) : Hw :=
  (s.withWgtSec.openStream c k).putSession (.opening c id k) ((Session.opening c id k).took 0 bs)

/-- No session of the new one's identity was open, so every one that was stays in the list. -/
theorem sessionOpened_sessions {s : Hw} {g : WgtSec} {c id : Nat} (sec : s.wgtSec = some g)
    (absent : (s.wgt.sessions.find? fun z => decide (z.context = c) && decide (z.id = id)) = none) (k : Nat) (bs : List Byte) :
    (s.sessionOpened c id k bs).wgt.sessions = s.wgt.sessions ++ [(Session.opening c id k).took 0 bs] := by
  obtain ⟨-, -, -, same, -⟩ := openStream_begins (s := s.withWgtSec) sec c k
  refine congrArg (· ++ _) ?_
  rw [same]
  refine List.filter_eq_self.2 fun z among => decide_eq_true fun opening => ?_
  have other := List.find?_eq_none.1 absent z among
  rw [opening] at other
  exact other (by simp [Session.opening])

/-- A later message lengthens session `z`, and the last one ends it. -/
def Hw.sessionAdded (s : Hw) (z : Session) (off : Nat) (last : Bool) (bs : List Byte) : Hw :=
  let y := z.took off bs
  let t := s.withWgtSec.putSession z y
  if last then t.endSession y else t

theorem sessionAdded_mem (s : Hw) (z : Session) (off : Nat) (last : Bool) (bs : List Byte) :
    (s.sessionAdded z off last bs).mem = s.mem := by
  unfold Hw.sessionAdded
  dsimp only
  split
  · obtain ⟨mem, -⟩ := endSession_ends (s.withWgtSec.putSession z (z.took off bs)) (x := z.took off bs) rfl rfl
    exact mem
  · rfl

section Added
variable (s : Hw) (z : Session) (off : Nat) {last : Bool} (bs : List Byte)

theorem sessionAdded_more (more : last = false) : (s.sessionAdded z off last bs).wgt.sessions =
    (s.wgt.sessions.filter fun v => decide (v ≠ z)) ++ [z.took off bs] := by
  subst more
  rfl

theorem sessionAdded_last (ends : last = true) : (s.sessionAdded z off last bs).wgt.sessions =
      ((s.wgt.sessions.filter fun v => decide (v ≠ z)) ++ [z.took off bs]).filter (fun v => decide (v ≠ z.took off bs)) ∧
    (((s.sessionAdded z off last bs).slot z.context z.slot).state = .prepared ∨
      ((s.sessionAdded z off last bs).slot z.context z.slot).state = .free ∧
        (s.sessionAdded z off last bs).evt.flags.getLsbD 22 = true) := by
  obtain ⟨-, sessions, slot⟩ := endSession_ends (s.withWgtSec.putSession z (z.took off bs)) (x := z.took off bs) rfl rfl
  rw [Hw.sessionAdded, if_pos ends]
  exact ⟨sessions, slot⟩

end Added

/-- Sessions are heard under a billet that streams its weights (R224). -/
theorem sessions_heard {s : Hw} {g : WgtSec} (streamed : s.streamed = true) (sec : s.wgtSec = some g) :
    (!s.streamed || s.wgtSec.isNone) = false := by
  rw [streamed, sec]
  rfl

section Session
variable {s : State} {p : PortIx} {c : BitVec 6} {id : W32} {g : WgtSec} (bellows : p.val ≥ 48)
  (streamed : s.hw.streamed = true) (sec : s.hw.wgtSec = some g)
include bellows streamed sec

theorem exec_session_opens {k : Nat} (absent : (s.hw.wgt.sessions.find? fun z => decide (z.context = c.toNat) &&
      decide (z.id = id.toNat)) = none) (free : s.hw.freeCtxSlot c.toNat = some k) (bs : List Byte) :
    exec (.session p c id 0 false bs) s = .next { s with hw := (s.hw.popInbox p.val 8).sessionOpened c.toNat id.toNat k bs } := by
  have call : exec (.session p c id 0 false bs) s = execSession p c id 0 false bs s := rfl
  have takes := sessions_heard (s := s.hw.popInbox p.val 8) streamed sec
  have unknown : (s.hw.popInbox p.val 8).wgt.sessions.find? (fun z => decide (z.context = c.toNat) &&
      decide (z.id = id.toNat)) = none := absent
  have room : (s.hw.popInbox p.val 8).withWgtSec.freeCtxSlot c.toNat = some k := free
  refine call.trans (act_eq ?_)
  rw [onBellows_taken bellows]
  unfold Hw.withWgtSec at room
  simp only [takes, unknown, room]
  rfl

theorem exec_session_adds {z : Session} (there : (s.hw.wgt.sessions.find? fun z => decide (z.context = c.toNat) &&
      decide (z.id = id.toNat)) = some z) (off : BitVec 41) (last : Bool) (bs : List Byte) :
    exec (.session p c id off last bs) s = .next { s with hw := (s.hw.popInbox p.val 8).sessionAdded z off.toNat last bs } := by
  have call : exec (.session p c id off last bs) s = execSession p c id off last bs s := rfl
  have takes := sessions_heard (s := s.hw.popInbox p.val 8) streamed sec
  have known : (s.hw.popInbox p.val 8).wgt.sessions.find? (fun z => decide (z.context = c.toNat) &&
      decide (z.id = id.toNat)) = some z := there
  refine call.trans (act_eq ?_)
  rw [onBellows_taken bellows]
  simp only [takes, known]
  rfl

end Session

/-! ## Fills (R270, R271, R318) -/

/-- A weight slot whose fill has failed once more (R271). -/
def Wslot.failedOnce (x : Wslot) : Wslot :=
  { x with state := .failed, failures := x.failures + 1, pieces := [], verified := [], filled := false, session := none,
           err := false }

theorem failFill_wslot (s : Hw) (w : Nat) : (s.failFill w).wslot w = (s.wslot w).failedOnce := by
  have recorded (r : RecIn) : ((s.setWslot w (s.wslot w).failedOnce).record r).wslot w = (s.wslot w).failedOnce := by
    rw [Hw.wslot, record_wgt]
    exact setWslot_wslot ..
  unfold Hw.failFill
  dsimp only
  split
  · rw [Hw.wslot, raise_wgt]
    exact recorded _
  · exact recorded _

/-- The third failure in a row raises WGT_FILL_FAIL. -/
theorem failFill_third {s : Hw} {w : Nat} (two : (s.wslot w).failures = 2) :
    (s.failFill w).evt.flags.getLsbD 22 = true := by
  have third : (s.wslot w).failures + 1 = 3 := by rw [two]
  unfold Hw.failFill
  dsimp only
  rw [if_pos third]
  exact raise_bit _ 22

theorem exec_fillTimeout_late {s : State} {w : Byte} (state : (s.hw.wslot w.toNat).state = .filling)
    (part : (s.hw.wslot w.toNat).filled = false) :
    exec (.fillTimeout w) s = .next { s with hw := s.hw.failFill w.toNat } := by
  have call : exec (.fillTimeout w) s = execFillTimeout w s := rfl
  refine call.trans (act_eq (if_pos ?_))
  rw [state, part]
  rfl

/-- A weight slot whose chunk `i` is verified, with the chunks of the layer that its fill is for. -/
def Wslot.verifiedChunk (x : Wslot) (i : Nat) (b : List Byte) (layer : List Nat) : Wslot :=
  let v := nput none x.verified i (some b)
  { x with pieces := nput [] x.pieces i [], verified := v, filled := layer.all fun j => (nget none v j).isSome }

/-- What a slot does with the pieces `ps` that it now has of chunk `i`: kept while the chunk is not whole, verified where the
whole chunk has its leaf, or the fill fails. -/
def Hw.chunkJudged (s : Hw) (w i : Nat) (x : Wslot) (cs : CtxSlot) (ps : NMap (Option (List Byte))) : Option (List Byte) → Hw
  | none => s.setWslot w { x with pieces := nput [] x.pieces i ps }
  | some b =>
    if leafHash i b ≠ cs.leaves.getD i [] then s.failFill w
    else s.setWslot w (x.verifiedChunk i b (cs.layerChunks x.layer))

/-- A piece of a chunk that its slot waits for is judged (R318). -/
theorem exec_chunk_judged {s : State} {p : PortIx} {w sq : Byte} {i : W32} {cx sl : Nat} {x : Wslot} {cs : CtxSlot}
    {n : BitVec 10} {bs : List Byte} {ps : NMap (Option (List Byte))} {whole : Option (List Byte)}
    (bellows : p.val ≥ 48) (held : s.hw.wslot w.toNat = x) (slot : s.hw.slot cx sl = cs) (session : x.session = some (cx, sl))
    (state : x.state = .filling) (seq : x.fillSeq = sq) (leaf : i.toNat < cs.leaves.length)
    (awaited : nget none x.verified i.toNat = none) (pieces : nput none (nget [] x.pieces i.toNat) n.toNat (some bs) = ps)
    (made : wholeChunk ps (chunkLen cs.bodyLen i.toNat) = whole) :
    exec (.chunk p w sq i n bs) s =
      .next { s with hw := (s.hw.popInbox p.val 10).chunkJudged w.toNat i.toNat x cs ps whole } := by
  have call : exec (.chunk p w sq i n bs) s = execChunk p w sq i n bs s := rfl
  have same : (s.hw.popInbox p.val 10).wslot w.toNat = x := held
  have slots : (s.hw.popInbox p.val 10).slot cx sl = cs := slot
  have stays : (decide (x.state ≠ .filling) || decide (x.fillSeq ≠ sq) || decide (i.toNat ≥ cs.leaves.length)) = false := by
    simp [state, seq, leaf]
  refine call.trans (act_eq ?_)
  rw [onBellows_taken bellows]
  simp only [same]
  split
  next absent => exact absurd (absent.symm.trans session) (by simp)
  next c k found =>
    obtain ⟨rfl, rfl⟩ := Prod.mk.inj (Option.some.inj (found.symm.trans session))
    rw [slots, stays, awaited, pieces, made]
    cases whole <;> rfl

theorem chunkJudged_good (s : Hw) (w : Nat) {i : Nat} (x : Wslot) {cs : CtxSlot} (ps : NMap (Option (List Byte)))
    {b : List Byte} (good : leafHash i b = cs.leaves.getD i []) :
    s.chunkJudged w i x cs ps (some b) = s.setWslot w (x.verifiedChunk i b (cs.layerChunks x.layer)) :=
  if_neg (not_not.2 good)

theorem chunkJudged_bad (s : Hw) (w : Nat) {i : Nat} (x : Wslot) {cs : CtxSlot} (ps : NMap (Option (List Byte)))
    {b : List Byte} (bad : leafHash i b ≠ cs.leaves.getD i []) : s.chunkJudged w i x cs ps (some b) = s.failFill w :=
  if_pos bad

theorem verifiedChunk_verified (x : Wslot) (i : Nat) (b : List Byte) (layer : List Nat) :
    nget none (x.verifiedChunk i b layer).verified i = some b :=
  (nget_nput none x.verified i i (some b)).trans (if_pos rfl)

/-! ## What the weight server answers (R243, R318, R319) -/

theorem gradOutInst_of_same {s t : Hw} (running : t.running = s.running) (engines : t.engines = s.engines) (d : GradOutId) :
    t.gradOutInst d = s.gradOutInst d := by
  simp only [Hw.gradOutInst, Hw.redSec, Hw.engine, running, engines]

theorem exec_gradAck_completes {s : State} {p : PortIx} {d : GradOutId} {e : Nat} {b : Bucket} {g : RedGroup} {i : Inst}
    (bellows : p.val ≥ 48) (named : s.hw.gradOutInst d = some (e, b, g, i)) :
    exec (.gradAck p d) s = .next { s with hw := (s.hw.popInbox p.val 12).completeInst e i 0 } := by
  have call : exec (.gradAck p d) s = execGradAck p d s := rfl
  have same : (s.hw.popInbox p.val 12).gradOutInst d = some (e, b, g, i) := named
  refine call.trans (act_eq ?_)
  rw [onBellows_taken bellows, same]

/-- BELLOWS_ERR with its record. -/
def Hw.bellowsErr (s : Hw) (p code : Nat) : Hw := (s.record { cls := 0x26, loc := locPort p, data := dat [code] }).raise 31

theorem bellowsErr_flagged (s : Hw) (p code : Nat) : (s.bellowsErr p code).evt.flags.getLsbD 31 = true := raise_bit _ 31

theorem bellowsErr_gradOutInst (s : Hw) (p code : Nat) (d : GradOutId) :
    (s.bellowsErr p code).gradOutInst d = s.gradOutInst d :=
  gradOutInst_of_same (by simp [Hw.bellowsErr]) (by simp [Hw.bellowsErr]) d

theorem bellowsErr_wslot (s : Hw) (p code w : Nat) : (s.bellowsErr p code).wslot w = s.wslot w := by
  simp [Hw.wslot, Hw.bellowsErr]

theorem bellowsErr_num (s : Hw) (p code : Nat) : (s.bellowsErr p code).stk.num = s.stk.num := by
  have course : (s.bellowsErr p code).course = s.course := by simp [Hw.bellowsErr]
  exact congrArg (·.1.num) course

/-- An `Inst` whose shard is to be sent again at stroke `n`. -/
def Inst.resentAt (i : Inst) (n : Nat) : Inst := { i with streamErrs := 1, resendAt := some n }

/-- A slot whose fill has had a STREAM_ERR. -/
def Wslot.marked (x : Wslot) : Wslot := { x with err := true }

/-- The first STREAM_ERR for a shard has it sent again one stroke later (R319). -/
theorem exec_streamErr_grad {s : State} {p : PortIx} {d : GradOutId} {e : Nat} {b : Bucket} {g : RedGroup} {i : Inst}
    (bellows : p.val ≥ 48) (named : s.hw.gradOutInst d = some (e, b, g, i)) (first : i.streamErrs = 0) (code : BitVec 3) :
    exec (.streamErr p (.grad d) code) s = .next
      { s with hw := ((s.hw.popInbox p.val 13).bellowsErr p.val code.toNat).setInst e (i.resentAt (s.hw.stk.num.toNat + 1)) } := by
  have call : exec (.streamErr p (.grad d) code) s = execStreamErr p (.grad d) code s := rfl
  have found := (bellowsErr_gradOutInst (s.hw.popInbox p.val 13) p.val code.toNat d).trans named
  have num := bellowsErr_num (s.hw.popInbox p.val 13) p.val code.toNat
  unfold Hw.bellowsErr at found num ⊢
  refine call.trans (act_eq ?_)
  rw [onBellows_taken bellows]
  simp only [found, first, num, if_true]
  rfl

/-- A STREAM_ERR for the fill that a slot waits for marks the slot (R318). -/
theorem exec_streamErr_fill {s : State} {p : PortIx} {c : BitVec 6} {w l sq : Byte} {sl : Nat} (bellows : p.val ≥ 48)
    (state : (s.hw.wslot w.toNat).state = .filling) (layer : (s.hw.wslot w.toNat).layer = l.toNat)
    (seq : (s.hw.wslot w.toNat).fillSeq = sq) (session : (s.hw.wslot w.toNat).session = some (c.toNat, sl)) (code : BitVec 3) :
    exec (.streamErr p (.fill c w l sq) code) s = .next
      { s with hw := ((s.hw.popInbox p.val 13).bellowsErr p.val code.toNat).setWslot w.toNat (s.hw.wslot w.toNat).marked } := by
  have call : exec (.streamErr p (.fill c w l sq) code) s = execStreamErr p (.fill c w l sq) code s := rfl
  have same := bellowsErr_wslot (s.hw.popInbox p.val 13) p.val code.toNat w.toNat
  have before : (s.hw.popInbox p.val 13).wslot w.toNat = s.hw.wslot w.toNat := rfl
  rw [before] at same
  unfold Hw.bellowsErr at same ⊢
  refine call.trans (act_eq ?_)
  rw [onBellows_taken bellows]
  simp only [same]
  exact if_pos (by simp [state, layer, seq, session])

/-! ## The obligation -/

/-- Settles O25: a rule for each message and answer, and for the timeout of a fill. -/
theorem streamedWeights : Obligations.StreamedWeights := by
  unfold Obligations.StreamedWeights
  refine ⟨fun s p c id bs k w sq i n off last z => ?weights, fun s p d code bellows => ?answers⟩
  case weights =>
    intro x mine bellows
    refine ⟨fun g streamed sec => ⟨fun absent free => ?opens, fun there => ?adds⟩, ?chunk, fun state part => ?timeout⟩
    case opens =>
      have sections : (s.hw.popInbox p.val 8).wgtSec = some g := sec
      obtain ⟨state, stream, epoch, -, kept⟩ := openStream_begins (s := (s.hw.popInbox p.val 8).withWgtSec) sections c.toNat k
      exact ⟨_, exec_session_opens bellows streamed sec absent free bs, state, stream, epoch,
        sessionOpened_sessions sections absent k bs, kept⟩
    case adds =>
      intro y others
      have run := exec_session_adds bellows streamed sec there off last bs
      have mem := sessionAdded_mem (s.hw.popInbox p.val 8) z off.toNat last bs
      have more := sessionAdded_more (s.hw.popInbox p.val 8) z off.toNat (last := last) bs
      have ends := sessionAdded_last (s.hw.popInbox p.val 8) z off.toNat (last := last) bs
      generalize Hw.sessionAdded _ _ _ _ _ = t at run mem more ends
      rw [popInbox_mem] at mem
      rw [popInbox_wgt] at more ends
      exact ⟨_, run, mem, more, ends⟩
    case chunk =>
      intro cx sl session state seq leaf awaited ps whole
      refine ⟨fun part => ?_, fun b made good => ?_, fun b made bad => ?_⟩
      · have run := exec_chunk_judged bellows rfl rfl session state seq leaf awaited rfl part
        exact ⟨_, run, setWslot_wslot .., rfl⟩
      · have run := exec_chunk_judged bellows rfl rfl session state seq leaf awaited rfl made
        rw [chunkJudged_good _ _ _ _ good] at run
        have slot := setWslot_wslot (s.hw.popInbox p.val 10) w.toNat
          (x.verifiedChunk i.toNat b ((s.hw.slot cx sl).layerChunks x.layer))
        refine ⟨_, run, ?_, (congrArg (·.state) slot).trans state, rfl⟩
        exact (congrArg (nget none ·.verified i.toNat) slot).trans (verifiedChunk_verified ..)
      · have run := exec_chunk_judged bellows rfl rfl session state seq leaf awaited rfl made
        rw [chunkJudged_bad _ _ _ _ bad] at run
        have slot := failFill_wslot (s.hw.popInbox p.val 10) w.toNat
        generalize Hw.failFill _ _ = t at run slot
        exact ⟨_, run, congrArg (·.state) slot, congrArg (·.failures) slot⟩
    case timeout =>
      have run := exec_fillTimeout_late state part
      have slot := failFill_wslot s.hw w.toNat
      have third : x.failures = 2 → _ := failFill_third
      generalize Hw.failFill _ _ = t at run slot third
      exact ⟨_, run, slot, third⟩
  case answers =>
    refine ⟨fun e b g i named => ⟨?ack, fun first => ?again⟩, fun c w l sq sl state layer seq session => ?fill⟩
    case ack => exact ⟨_, exec_gradAck_completes bellows named, setInst_inst_of_seq _ e rfl, rfl⟩
    case again =>
      exact ⟨_, exec_streamErr_grad bellows named first code, bellowsErr_flagged .., setInst_inst_of_seq _ e rfl⟩
    case fill =>
      refine ⟨_, exec_streamErr_fill bellows state layer seq session code, ?_, bellowsErr_flagged ..⟩
      exact congrArg (·.err) (setWslot_wslot ..)

end Sys2Proof.Machine
end

section
/-!
# Loads of weights and the slots that they fill (R256, R257, R260-R267)

What a load reads, places and writes leaves the mailbox and the weights as they were, so that a load changes them by its start,
by its answer and by what becomes of its slot alone.
-/
namespace Sys2Proof.Machine

/-! ## What leaves the mailbox and the weights alone -/

/-- The mailbox with the load that it runs, and the contexts with their slots. -/
def Hw.loads (s : Hw) : Mbx × Wgt := (s.mbx, s.wgt)

theorem loads_mbx {s t : Hw} (same : t.loads = s.loads) : t.mbx = s.mbx := congrArg Prod.fst same
theorem loads_wgt {s t : Hw} (same : t.loads = s.loads) : t.wgt = s.wgt := congrArg Prod.snd same

theorem foldl_loads {α : Type} {f : Hw → α → Hw} (step : ∀ s x, (f s x).loads = s.loads) (l : List α) (s : Hw) :
    (l.foldl f s).loads = s.loads :=
  l.foldlRecOn f (motive := fun t : Hw => t.loads = s.loads) rfl fun t same x _ => (step t x).trans same

theorem PoolWork.loads {s t : Hw} (work : PoolWork s t) : t.loads = s.loads := by
  obtain ⟨_, _, _, _, _, _, rfl⟩ := work
  rfl

theorem unitTraffic_loads (s : Hw) (block off n : Nat) (read : Bool) : (s.unitTraffic block off n read).loads = s.loads := by
  obtain ⟨arbs, traffic⟩ := unitTraffic_arbs s block off n read
  rw [traffic]
  rfl

theorem noHome_loads (s : Hw) (src off n access : Nat) : (s.noHome src off n access).loads = s.loads := by
  unfold Hw.noHome
  split
  · simp only [Hw.loads, record_mbx, record_wgt]
  · rfl

theorem spanLoad_loads (s : Hw) (src off n : Nat) : (s.spanLoad src off n).1.loads = s.loads := by
  unfold Hw.spanLoad
  dsimp only
  split
  · exact unitTraffic_loads ..
  · exact noHome_loads ..

theorem readSpan_loads (s : Hw) (addr n : Nat) : (s.readSpan addr n).1.loads = s.loads := by
  unfold Hw.readSpan
  split
  · rw [spanLoadAny_eq]
    exact List.foldlRecOn _ _ (motive := fun x : Hw × List Byte × SpanStatus => x.1.loads = s.loads) rfl
      fun x same p _ => (spanLoad_loads x.1 _ p.1 p.2).trans same
  · rfl

theorem readPaced_loads (s : Hw) (addr n : Nat) : (s.readPaced addr n).1.loads = s.loads := by
  unfold Hw.readPaced
  dsimp only
  split <;> exact readSpan_loads s addr n

theorem openPackage_loads (s : Hw) (source : Nat) (manifest : List Byte) :
    (s.openPackage source manifest).1.loads = s.loads := by
  have signature := readPaced_loads s (source + 512) 29792
  unfold Hw.openPackage
  dsimp only
  split
  · exact signature
  split
  · exact signature
  have leaves := (readPaced_loads (s.readPaced (source + 512) 29792).1 (source + leafListOff)
    (32 * (parseManifest manifest).chunks)).trans signature
  split
  · exact leaves
  split <;> exact leaves

theorem fetchChunks_loads (s : Hw) (source : Nat) (m : Manifest) (ls : List (List Byte)) (cs : Chunks) (ids : List Nat) :
    (s.fetchChunks source m ls cs ids).1.loads = s.loads := by
  unfold Hw.fetchChunks
  refine List.foldlRecOn ids _ (motive := fun p : Hw × Except Rsp Chunks => p.1.loads = s.loads) rfl fun p same i _ => ?_
  obtain ⟨t, r⟩ := p
  cases r with
  | error r => exact same
  | ok cs =>
    dsimp only
    split
    · exact same
    have read := fun a n => (readPaced_loads t a n).trans same
    split
    · exact read ..
    split <;> exact read ..

/-! ## Placing images -/

theorem placePages_poolWork {s t : Hw} {n tier f w first : Nat} (placed : s.placePages n tier f w = some (t, first)) :
    PoolWork s t := by
  obtain ⟨run, -, homed⟩ := Option.bind_eq_some_iff.1 placed
  obtain ⟨u, filled, ⟨⟩⟩ := Option.map_eq_some_iff.1 homed
  refine PoolWork.bindFoldl (fun {s t p} h => ?_) _ filled
  obtain ⟨l, -, rfl⟩ := Option.map_eq_some_iff.1 h
  exact (setHome_poolWork ..).trans (memErase_poolWork ..)

theorem writeImage_loads (s : Hw) (first : Nat) (img : NMap Byte) : (s.writeImage first img).loads = s.loads := by
  unfold Hw.writeImage
  exact foldl_loads (fun _ _ => unitTraffic_loads ..) _ s

theorem placeTensors_loads {s t : Hw} {g : WgtSec} {defs : List TensorDef} {table : List TensorEntry} {cs : Chunks}
    {imgs : List Img} (placed : s.placeTensors g defs table cs = .ok (t, imgs)) : t.loads = s.loads := by
  unfold Hw.placeTensors at placed
  refine List.foldlRecOn defs _ (motive := fun o : Except Nat (Hw × List Img) => ∀ u is, o = .ok (u, is) → u.loads = s.loads)
    ?_ ?_ t imgs placed
  · rintro u is ⟨⟩
    rfl
  · intro o before d _ u is after
    split at after
    · cases after
    next v js =>
    split at after
    · cases after
    dsimp only at after
    split at after
    · cases after
    split at after
    · cases after
    split at after
    · cases after
    next pages =>
    cases after
    exact ((writeImage_loads ..).trans (placePages_poolWork pages).loads).trans (before v js rfl)

theorem loadTensors_loads (s : Hw) (g : WgtSec) (source : Nat) (m : Manifest) (ls : List (List Byte)) (defs : List TensorDef) :
    (s.loadTensors g source m ls defs).1.loads = s.loads ∧
      ∀ t imgs, (s.loadTensors g source m ls defs).2 = .ok (t, imgs) → t.loads = s.loads := by
  unfold Hw.loadTensors
  have table := fetchChunks_loads s source m ls [] (chunksOf m.tableOff (64 * m.tensors))
  generalize s.fetchChunks source m ls [] _ = p at table
  obtain ⟨u, _ | cs⟩ := p
  · exact ⟨table, fun _ _ h => nomatch h⟩
  dsimp only
  generalize ids : List.eraseDups (α := Nat) _ = needed
  have chunks := (fetchChunks_loads u source m ls cs needed).trans table
  generalize u.fetchChunks source m ls cs needed = p at chunks
  obtain ⟨v, _ | cs⟩ := p
  · exact ⟨chunks, fun _ _ h => nomatch h⟩
  dsimp only
  split
  · exact ⟨chunks, fun _ _ h => nomatch h⟩
  next p placed =>
  refine ⟨chunks, ?_⟩
  rintro t imgs ⟨⟩
  exact (placeTensors_loads placed).trans chunks

theorem writeTable_poolWork (s : Hw) (g : WgtSec) (c k : Nat) : PoolWork s (s.writeTable g c k) := by
  unfold Hw.writeTable
  refine PoolWork.trans ?_ (.foldl (fun _ _ => (memWriteAll_poolWork ..).trans (.foldl (fun _ _ => memWrite_poolWork ..) _ _)) _ _)
  exact PoolWork.trans (.foldl (fun _ _ => memWriteAll_poolWork ..) _ s) (.foldl (fun _ _ => memErase_poolWork ..) _ _)

theorem endAdapter_loads {s t : Hw} {g : WgtSec} {w : WLoad} {m : Manifest} {imgs : List Img} {x : CtxSlot}
    (ended : s.endAdapter g w m imgs = some (t, x)) : t.loads = s.loads := by
  obtain ⟨⟨u, first⟩, placed, ⟨⟩⟩ := Option.map_eq_some_iff.1 ended
  exact (placePages_poolWork placed).loads

/-! ## A slot that is set -/

theorem ctx_of_wgt {s t : Hw} (same : t.wgt = s.wgt) (c : Nat) : t.ctx c = s.ctx c :=
  congrArg (fun w : Wgt => nget ({} : Ctx) w.ctxs c) same

theorem slot_of_wgt {s t : Hw} (same : t.wgt = s.wgt) (c k : Nat) : t.slot c k = s.slot c k :=
  congrArg (fun x : Ctx => nget ({} : CtxSlot) x.slots k) (ctx_of_wgt same c)

theorem setSlot_ctx_other (s : Hw) {c d : Nat} (other : d ≠ c) (k : Nat) (x : CtxSlot) : (s.setSlot c k x).ctx d = s.ctx d :=
  (setCtx_ctx ..).trans (if_neg other)

theorem setSlot_slot_other (s : Hw) {c k d j : Nat} (other : (d, j) ≠ (c, k)) (x : CtxSlot) :
    (s.setSlot c k x).slot d j = s.slot d j := by
  by_cases same : d = c
  · subst same
    rw [Hw.slot, setSlot_ctx_same, nget_nput, if_neg (by rintro rfl; exact other rfl)]
    rfl
  · rw [Hw.slot, setSlot_ctx_other s same]
    rfl

theorem respond_wgt (s : Hw) (r : Rsp) : (s.respond r).wgt = s.wgt := raise_wgt _ _

/-! ## The end of a load (R257, R260, R262, R266) -/

/-- Load `w` of `s` has ended: its command is answered, slot `x` stands in the place that it had, and no more of the weights has
changed. -/
structure LoadEnds (s t : Hw) (w : WLoad) (x : CtxSlot) : Prop where
  wgt : t.wgt = (s.setSlot w.context w.slot x).wgt
  idle : t.mbx.state = .idle
  done : t.mbx.done = true
  ended : t.mbx.long = none
  tag : t.mbx.tag = s.mbx.tag
  flagged : t.evt.flags.getLsbD 40 = true

theorem respond_loadEnds {s u : Hw} {w : WLoad} {x : CtxSlot} (set : u.loads = (s.setSlot w.context w.slot x).loads) (r : Rsp) :
    LoadEnds s (u.respond r) w x where
  wgt := (respond_wgt u r).trans (loads_wgt set)
  idle := by rw [Hw.respond, raise_mbx]
  done := by rw [Hw.respond, raise_mbx]
  ended := by rw [Hw.respond, raise_mbx]
  tag := by
    have mailbox := loads_mbx set
    rw [Hw.respond, raise_mbx]
    exact congrArg (·.tag) mailbox
  flagged := raise_bit _ 40

section Ends
variable {s t : Hw} {w : WLoad} {x : CtxSlot} (ends : LoadEnds s t w x)
include ends

theorem LoadEnds.slot : t.slot w.context w.slot = x := (slot_of_wgt ends.wgt ..).trans (setSlot_slot_same ..)

theorem LoadEnds.slot_other {c k : Nat} (other : (c, k) ≠ (w.context, w.slot)) : t.slot c k = s.slot c k :=
  (slot_of_wgt ends.wgt ..).trans (setSlot_slot_other s other x)

end Ends

/-- The slot of a load that has been built is PREPARED under its own epoch (R266). -/
def CtxSlot.preparedAs (x : CtxSlot) (epoch : W64) : CtxSlot :=
  { x with epoch := epoch, refs := 0, state := .prepared, stream := false }

theorem setSlot_loads {s u : Hw} (same : u.loads = s.loads) (c k : Nat) (x : CtxSlot) :
    (u.setSlot c k x).loads = (s.setSlot c k x).loads := by
  rw [Hw.loads, Hw.loads, Hw.setSlot, Hw.setSlot, ctx_of_wgt (loads_wgt same), Hw.setCtx, Hw.setCtx, loads_mbx same, loads_wgt same]

theorem failLoad_ends {s u : Hw} (same : u.loads = s.loads) (w : WLoad) (r : Rsp) : LoadEnds s (u.failLoad w r) w {} :=
  respond_loadEnds (u := u.freeSlot w.context w.slot) (setSlot_loads same w.context w.slot {}) r

theorem finishLoad_ends {s u : Hw} (same : u.loads = s.loads) (g : WgtSec) (w : WLoad) (x : CtxSlot) :
    LoadEnds s (u.finishLoad g w x) w (x.preparedAs (u.slot w.context w.slot).epoch) :=
  respond_loadEnds ((writeTable_poolWork ..).loads.trans (setSlot_loads same ..)) _

/-- Load `w` of `s` has ended, and its slot is PREPARED or FREE. -/
def LoadSettles (s t : Hw) (w : WLoad) : Prop := ∃ x, LoadEnds s t w x ∧ (x.state = .prepared ∨ x.state = .free)

theorem failLoad_settles {s u : Hw} (same : u.loads = s.loads) (w : WLoad) (r : Rsp) : LoadSettles s (u.failLoad w r) w :=
  ⟨_, failLoad_ends same w r, .inr rfl⟩

theorem finishLoad_settles {s u : Hw} (same : u.loads = s.loads) (g : WgtSec) (w : WLoad) (x : CtxSlot) :
    LoadSettles s (u.finishLoad g w x) w :=
  ⟨_, finishLoad_ends same g w x, .inl rfl⟩

section LoadWeightsEnd
variable {s : State} {w : WLoad} {g : WgtSec} (long : s.hw.mbx.long = some (.loadWeights w)) (sec : s.hw.wgt.sec = some g)
include long sec

/-- DROP_ADAPTER has nothing to read: its slot is as it began (R260). -/
theorem exec_loadWeightsEnd_drop (drop : w.op = 2) :
    exec .loadWeightsEnd s = .next { s with hw := s.hw.finishLoad g w (s.hw.slot w.context w.slot) } := by
  have call : exec .loadWeightsEnd s = execLoadWeightsEnd s := rfl
  refine call.trans (act_eq ?_)
  simp only [long, sec, drop, if_true]

theorem exec_loadWeightsEnd_settles : ∃ t, exec .loadWeightsEnd s = .next { s with hw := t } ∧ LoadSettles s.hw t w := by
  have call : exec .loadWeightsEnd s = execLoadWeightsEnd s := rfl
  refine ⟨_, call, ?_⟩
  simp only [long, sec]
  split
  · exact finishLoad_settles rfl ..
  have read := readPaced_loads s.hw w.source 512
  generalize s.hw.readPaced w.source 512 = p at read
  obtain ⟨s1, manifest, st⟩ := p
  dsimp only
  have opens : ((if st ≠ 0 then (s1, .error (refused rFlashRead)) else s1.openPackage w.source manifest) :
      Hw × Except Rsp (List (List Byte))).1.loads = s.hw.loads := by
    split
    · exact read
    · exact (openPackage_loads ..).trans read
  split
  next s2 r opened =>
    rw [opened] at opens
    exact failLoad_settles opens ..
  next s2 ls opened =>
  rw [opened] at opens
  split
  · exact finishLoad_settles opens ..
  obtain ⟨fetched, placed⟩ := loadTensors_loads s2 g w.source (parseManifest manifest) ls
    (if decide (w.op = 0) then g.baseDefs else g.adapterDefs)
  split
  next s3 r loaded =>
    rw [loaded] at fetched
    exact failLoad_settles (fetched.trans opens) ..
  next s3 s4 imgs loaded =>
  rw [loaded] at fetched placed
  have images := (placed s4 imgs rfl).trans opens
  split
  · exact finishLoad_settles images ..
  split
  · exact failLoad_settles (fetched.trans opens) ..
  next s5 x ended => exact finishLoad_settles ((endAdapter_loads ended).trans images) ..

end LoadWeightsEnd

/-- Settles O24: every way out of a load is `failLoad` or `finishLoad` on a module whose weights are as they were. -/
theorem weightLoadEnds : Obligations.WeightLoadEnds := by
  unfold Obligations.WeightLoadEnds
  intro s w g long sec old
  obtain ⟨t, run, x, ends, settled⟩ := exec_loadWeightsEnd_settles long sec
  refine ⟨_, run, ends.idle, ends.ended, ends.flagged, ends.slot ▸ settled,
    fun c k other => ends.slot_other other, fun drop => ?_⟩
  have dropped := exec_loadWeightsEnd_drop long sec drop
  have same : t = s.hw.finishLoad g w old := congrArg State.hw (Host.Outcome.next.inj (run.symm.trans dropped))
  rw [same]
  refine ⟨?_, (finishLoad_ends rfl g w old).slot⟩
  have desk := loads_mbx (writeTable_poolWork (s.hw.setSlot w.context w.slot (old.preparedAs old.epoch)) g w.context w.slot).loads
  rw [Hw.finishLoad, Hw.respond, raise_mbx]
  exact congrArg (fun m : Mbx => Rsp.bytes _ m.opcode.toNat m.tag) desk

end Sys2Proof.Machine
end

section
/-!
# LOAD_WEIGHTS accepted, EPOCH_COMMIT and EPOCH_DROP (R256, R260, R262, R266, R267)

A manifest that is at home on the module's own flash is read without a change to the module, so that an accepted load acts on the
module as its command called it: the load that `acceptLoad` begins goes on where its package holds, and otherwise ends at once. That the slot taken is the lowest FREE one and that EPOCH_DROP
withdraws a commit that waits on its slot are the model's choices (log 18, log 74).
-/
namespace Sys2Proof.Machine

/-! ## Reading at home on flash -/

/-- A page at home in tier 2 is read without a request at any arbiter, and its reads take nothing from the token bucket (R419). -/
theorem readPaced_flash {s : Hw} {source n : Nat} (own : s.ownRank (addrRank source) = true) (range : migBase ≤ addrOff source)
    (bytes : 0 < n) (inside : addrOff source % pageBytes + n ≤ pageBytes)
    (state : (s.home (pageOf (addrOff source))).state = .home) (tier : (s.home (pageOf (addrOff source))).tier = 2)
    (lent : (s.home (pageOf (addrOff source))).lent = false) :
    s.readPaced source n = (s, s.memRead (addrOff source) n, 0) := by
  have beyond : directEnd < migBase := by decide
  have served : s.spanStatus s.spn.rank.toNat (addrOff source) n = 0 := by
    rw [Hw.spanStatus, if_neg (by omega), if_neg (by omega)]
    simp [state, lent]
  have free : s.unitTraffic 209 (addrOff source) n true = s := by
    rw [Hw.unitTraffic, Hw.bondedPlace, if_neg (by omega)]
    simp [tier]
  have flash : s.onFlash source = true := by simp [Hw.onFlash, own, tier, range]
  have read : s.readSpan source n = (s, s.memRead (addrOff source) n, 0) := by
    rw [Hw.readSpan, if_pos own, spanLoadAny_eq, pageParts_one bytes inside, List.foldl_cons, List.foldl_nil, loadPart, Hw.spanLoad,
      if_pos served, free]
    rfl
  simp only [Hw.readPaced, read, flash, Bool.not_true, Bool.and_false, Bool.false_eq_true, if_false]

/-! ## A load that is accepted (R260, R266) -/

/-- `t` has accepted a command of context `c` with a tag: the context's next epoch is given out, no other context has changed. -/
def LoadTaken (s t : Hw) (tag : W32) (c : Nat) : Prop :=
  (t.ctx c).nextEpoch = (s.ctx c).nextEpoch + 1 ∧ t.mbx.tag = tag ∧ ∀ d, d ≠ c → t.ctx d = s.ctx d

/-- A load of an operation goes on in slot `k` of context `c`. -/
def LoadWorks (s t : Hw) (c op k : Nat) : Prop :=
  t.mbx.state = .busy ∧ (t.slot c k).state = .preparing ∧ (t.slot c k).epoch = BitVec.ofNat 64 (s.ctx c).nextEpoch ∧
    ∃ w, t.mbx.long = some (.loadWeights w) ∧ w.context = c ∧ w.op = op ∧ w.slot = k

theorem setSlot_nextEpoch (s : Hw) (c k : Nat) (x : CtxSlot) : ((s.setSlot c k x).ctx c).nextEpoch = (s.ctx c).nextEpoch := by
  rw [setSlot_ctx_same]

theorem beginSlot_ctx_other (s : Hw) {c d : Nat} (other : d ≠ c) (k : Nat) (stream : Bool) :
    (s.beginSlot c k stream).ctx d = s.ctx d := by
  rw [Hw.beginSlot, setSlot_ctx_other _ other, setCtx_ctx, if_neg other]

theorem beginSlot_slot_other (s : Hw) {c k j : Nat} (other : j ≠ k) (stream : Bool) :
    (s.beginSlot c k stream).slot c j = s.slot c j := by
  rw [Hw.beginSlot, setSlot_slot_other _ (by simpa using other), Hw.slot, setCtx_ctx, if_pos rfl]
  rfl

theorem beginSlot_current (s : Hw) (c k : Nat) (stream : Bool) : ((s.beginSlot c k stream).ctx c).current = (s.ctx c).current := by
  rw [Hw.beginSlot, setSlot_ctx_same, setCtx_ctx, if_pos rfl]

/-- A slot that begins in a module, with CURRENT's references for an adapter's load. -/
def Hw.beginLoad (s : Hw) (c op a k : Nat) : Hw :=
  if op = 0 then s.beginSlot c k false else (s.beginSlot c k false).copyCurrent c op a k

section BeginLoad
variable (s : Hw) (c op a k : Nat)

theorem beginLoad_mbx : (s.beginLoad c op a k).mbx = s.mbx := by
  unfold Hw.beginLoad
  split <;> rfl

theorem beginLoad_nextEpoch : ((s.beginLoad c op a k).ctx c).nextEpoch = (s.ctx c).nextEpoch + 1 := by
  unfold Hw.beginLoad
  split
  · exact beginSlot_nextEpoch ..
  · exact (setSlot_nextEpoch ..).trans (beginSlot_nextEpoch ..)

theorem beginLoad_ctx_other {d : Nat} (other : d ≠ c) : (s.beginLoad c op a k).ctx d = s.ctx d := by
  unfold Hw.beginLoad
  split
  · exact beginSlot_ctx_other s other k false
  · exact (setSlot_ctx_other _ other ..).trans (beginSlot_ctx_other s other k false)

theorem copyCurrent_slot (u : Hw) : ((u.copyCurrent c op a k).slot c k).state = (u.slot c k).state ∧
    ((u.copyCurrent c op a k).slot c k).epoch = (u.slot c k).epoch := by
  rw [Hw.copyCurrent, setSlot_slot_same]
  exact ⟨rfl, rfl⟩

theorem beginLoad_slot : ((s.beginLoad c op a k).slot c k).state = .preparing ∧
    ((s.beginLoad c op a k).slot c k).epoch = BitVec.ofNat 64 (s.ctx c).nextEpoch := by
  have begun := beginSlot_slot s c k false
  unfold Hw.beginLoad
  split
  · rw [begun]
    exact ⟨rfl, rfl⟩
  · obtain ⟨state, epoch⟩ := copyCurrent_slot c op a k (s.beginSlot c k false)
    rw [state, epoch, begun]
    exact ⟨rfl, rfl⟩

/-- A slot that begins without an adapter has CURRENT's images and its other adapters (R260, R265). -/
theorem beginLoad_drop {j : Nat} (current : (s.ctx c).current = some j) (other : j ≠ k) :
    ((s.beginLoad c 2 a k).slot c k).images = (s.slot c j).images ∧
      ((s.beginLoad c 2 a k).slot c k).adapters = (s.slot c j).adapters.filter fun e => decide (e.number ≠ a) := by
  rw [Hw.beginLoad, if_neg (by decide), Hw.copyCurrent, setSlot_slot_same, beginSlot_current, current, Option.getD_some,
    beginSlot_slot_other s other]
  exact ⟨rfl, rfl⟩

end BeginLoad

/-- The module with the sections of the billet that weights and tongs go by. -/
def Hw.withSections (s : Hw) : Hw :=
  { s with wgt := { s.wgt with sec := s.wgtSec }
           tng := if s.tng.sec.isSome then s.tng else { s.tng with sec := s.armed.map (fun (l : Loaded) => l.img.tongs) } }

section Accepted
variable {s : Hw} {w : WLoad} (free : s.freeCtxSlot w.context = some w.slot) (total : Nat)
include free

theorem acceptLoad_eq : s.acceptLoad w.context w.op w.adapter w.source total =
    (s.withSections.beginLoad w.context w.op w.adapter w.slot).startLong (.loadWeights w) total := by
  rw [Hw.acceptLoad, free]
  rfl

theorem acceptLoad_wgt : (s.acceptLoad w.context w.op w.adapter w.source total).wgt =
    (s.withSections.beginLoad w.context w.op w.adapter w.slot).wgt := by
  rw [acceptLoad_eq free]
  rfl

theorem acceptLoad_long : (s.acceptLoad w.context w.op w.adapter w.source total).mbx.long = some (.loadWeights w) := by
  rw [acceptLoad_eq free]
  rfl

theorem acceptLoad_taken : LoadTaken s (s.acceptLoad w.context w.op w.adapter w.source total) s.mbx.tag w.context := by
  have same := acceptLoad_wgt free total
  refine ⟨?_, ?_, fun d other => ?_⟩
  · rw [ctx_of_wgt same]
    exact beginLoad_nextEpoch ..
  · rw [acceptLoad_eq free]
    exact congrArg (·.tag) (beginLoad_mbx ..)
  · rw [ctx_of_wgt same]
    exact beginLoad_ctx_other _ _ _ _ _ other

theorem acceptLoad_works :
    LoadWorks s (s.acceptLoad w.context w.op w.adapter w.source total) w.context w.op w.slot := by
  have same := slot_of_wgt (acceptLoad_wgt free total) w.context w.slot
  obtain ⟨state, epoch⟩ := beginLoad_slot s.withSections w.context w.op w.adapter w.slot
  exact ⟨by rw [acceptLoad_eq free]; rfl, same ▸ state, same ▸ epoch, w, acceptLoad_long free total, rfl, rfl, rfl⟩

end Accepted

section Taken
variable {s t u : Hw} {tag : W32} {c : Nat} (taken : LoadTaken s t tag c)
include taken

/-- What a load reads after it is accepted changes nothing of its acceptance. -/
theorem LoadTaken.of_loads (same : u.loads = t.loads) : LoadTaken s u tag c := by
  obtain ⟨epoch, tagged, others⟩ := taken
  simp only [LoadTaken, ctx_of_wgt (loads_wgt same), loads_mbx same]
  exact ⟨epoch, tagged, others⟩

theorem LoadTaken.of_ends {w : WLoad} {x : CtxSlot} (ends : LoadEnds t u w x) (context : w.context = c) :
    LoadTaken s u tag c := by
  obtain ⟨epoch, tagged, others⟩ := taken
  subst context
  simp only [LoadTaken, ctx_of_wgt ends.wgt, ends.tag, setSlot_nextEpoch]
  exact ⟨epoch, tagged, fun d other => (setSlot_ctx_other t other ..).trans (others d other)⟩

end Taken

theorem LoadWorks.of_loads {s t u : Hw} {c op k : Nat} (works : LoadWorks s t c op k) (same : u.loads = t.loads) :
    LoadWorks s u c op k := by
  simpa only [LoadWorks, slot_of_wgt (loads_wgt same), loads_mbx same] using works

/-! ## The checks of a package (R256, R260, R262) -/

/-- The package of load `w` holds: signature and leaf list, kind, and for an adapter its base. -/
def Hw.PackageHolds (s : Hw) (w : WLoad) (manifest : List Byte) : Prop :=
  (∃ ls, (s.openPackage w.source manifest).2 = .ok ls) ∧ (parseManifest manifest).kind = w.op ∧
    (w.op = 1 → (parseManifest manifest).baseId = (s.slot w.context w.slot).packageId)

theorem checkPackage_holds {s : Hw} {w : WLoad} {manifest : List Byte} (holds : s.PackageHolds w manifest) :
    (s.checkPackage w manifest).loads = s.loads := by
  obtain ⟨⟨ls, opens⟩, kind, base⟩ := holds
  have same := openPackage_loads s w.source manifest
  unfold Hw.checkPackage
  generalize s.openPackage w.source manifest = p at opens same
  obtain ⟨t, r⟩ := p
  cases opens
  have based : ¬ (w.op = 1 ∧ (parseManifest manifest).baseId ≠ (t.slot w.context w.slot).packageId) := by
    rw [slot_of_wgt (loads_wgt same)]
    exact fun ⟨adapter, other⟩ => other (base adapter)
  simpa only [kind, based, ne_eq, not_true_eq_false, if_false] using same

theorem checkPackage_fails {s : Hw} {w : WLoad} {manifest : List Byte} (fails : ¬ s.PackageHolds w manifest) :
    LoadEnds s (s.checkPackage w manifest) w {} := by
  have same := openPackage_loads s w.source manifest
  unfold Hw.PackageHolds at fails
  unfold Hw.checkPackage
  generalize s.openPackage w.source manifest = p at fails same
  obtain ⟨t, _ | ls⟩ := p
  · exact failLoad_ends same ..
  dsimp only at fails ⊢
  split
  · exact failLoad_ends same ..
  next kind =>
  split
  · exact failLoad_ends same ..
  next based =>
  rw [slot_of_wgt (loads_wgt same)] at based
  exact absurd ⟨⟨ls, rfl⟩, not_not.1 kind, fun adapter => not_not.1 fun other => based ⟨adapter, other⟩⟩ fails

/-! ## The command (R260, R262) -/

/-- A package whose manifest stands at `source` on the module's own flash, with a version that the module shares. -/
structure Hw.OnOwnFlash (s : Hw) (source : Nat) : Prop where
  own : s.ownRank (addrRank source) = true
  range : migBase ≤ addrOff source
  inside : addrOff source % pageBytes + 512 ≤ pageBytes
  state : (s.home (pageOf (addrOff source))).state = .home
  tier : (s.home (pageOf (addrOff source))).tier = 2
  lent : (s.home (pageOf (addrOff source))).lent = false
  version : (parseManifest (s.memRead (addrOff source) 512)).versionOk = true

/-- The module when it has accepted the LOAD_WEIGHTS that asks for load `w`. -/
def State.accepting (s : State) (tag : W32) (w : WLoad) : Hw :=
  (s.hw.calling 0x20 tag).acceptLoad w.context w.op w.adapter w.source (parseManifest (s.hw.memRead (addrOff w.source) 512)).chunks

section LoadPackage
variable {s : State} {w : WLoad} (ready : MailboxReady s) (free : s.hw.freeCtxSlot w.context = some w.slot)
  (flash : s.hw.OnOwnFlash w.source) (fits : s.hw.loadRefusal w.context w.op w.adapter = none) (tag : W32)
include ready free flash fits

theorem loadPackage_accepted : s.hw.loadPackage tag w.context w.op w.adapter w.source =
    (s.accepting tag w).checkPackage w (s.hw.memRead (addrOff w.source) 512) := by
  have read : (s.hw.calling 0x20 tag).readPaced w.source 512 = (s.hw.calling 0x20 tag, s.hw.memRead (addrOff w.source) 512, 0) :=
    readPaced_flash flash.own flash.range (by decide) flash.inside flash.state flash.tier flash.lent
  have takes : (s.hw.calling 0x20 tag).loadRefusal w.context w.op w.adapter = none := fits
  have long := acceptLoad_long (s := s.hw.calling 0x20 tag) free (parseManifest (s.hw.memRead (addrOff w.source) 512)).chunks
  rw [Hw.loadPackage, mbxCommand_ready ready]
  simp only [read, takes, flash.version, long, Bool.not_true, Bool.and_false, Bool.false_eq_true, if_false, ne_eq,
    not_true_eq_false]
  rfl

/-- LOAD_WEIGHTS with a package takes its slot; its load goes on where the package holds, and is answered with the slot FREE
where it does not. -/
theorem loadPackage_answers : ∃ t, s.hw.loadPackage tag w.context w.op w.adapter w.source = t ∧ LoadTaken s.hw t tag w.context ∧
    ((s.accepting tag w).PackageHolds w (s.hw.memRead (addrOff w.source) 512) → LoadWorks s.hw t w.context w.op w.slot) ∧
    (¬ (s.accepting tag w).PackageHolds w (s.hw.memRead (addrOff w.source) 512) →
      t.mbx.state = .idle ∧ t.mbx.done = true ∧ (t.slot w.context w.slot).state = .free) := by
  have taken : LoadTaken s.hw (s.accepting tag w) tag w.context := acceptLoad_taken (s := s.hw.calling 0x20 tag) free _
  have works : LoadWorks s.hw (s.accepting tag w) w.context w.op w.slot := acceptLoad_works (s := s.hw.calling 0x20 tag) free _
  refine ⟨_, loadPackage_accepted ready free flash fits tag, ?_⟩
  by_cases holds : (s.accepting tag w).PackageHolds w (s.hw.memRead (addrOff w.source) 512)
  · have same := checkPackage_holds holds
    exact ⟨taken.of_loads same, fun _ => works.of_loads same, fun fails => absurd holds fails⟩
  · have ends := checkPackage_fails holds
    exact ⟨taken.of_ends ends rfl, fun holds' => absurd holds' holds,
      fun _ => ⟨ends.idle, ends.done, congrArg (·.state) ends.slot⟩⟩

end LoadPackage

theorem exec_dropAdapter_accepted {s : State} {c : Byte} {a : W16} (ready : MailboxReady s)
    (fits : s.hw.loadRefusal c.toNat 2 a.toNat = none) (tag : W32) :
    exec (.dropAdapter tag c a) s = .next { s with hw := (s.hw.calling 0x20 tag).acceptLoad c.toNat 2 a.toNat 0 0 } := by
  have call : exec (.dropAdapter tag c a) s = execDropAdapter tag c a s := rfl
  have takes : (s.hw.calling 0x20 tag).loadRefusal c.toNat 2 a.toNat = none := fits
  refine call.trans (act_eq ?_)
  rw [mbxCommand_ready ready]
  simp only [takes]

/-- A command about an adapter that is not refused has a CURRENT slot to begin from (R262). -/
theorem current_of_loadRefusal {s : Hw} {c op a : Nat} (adapter : op ≠ 0) (fits : s.loadRefusal c op a = none) :
    ∃ j, (s.ctx c).current = some j := by
  refine Option.ne_none_iff_exists'.1 fun none => ?_
  unfold Hw.loadRefusal at fits
  split at fits
  · cases fits
  split at fits
  · cases fits
  rw [if_pos ⟨adapter, by rw [none]; rfl⟩] at fits
  cases fits

/-- DROP_ADAPTER's slot begins from CURRENT without the adapter (R260). -/
theorem acceptLoad_drop {s : Hw} {c a k : Nat} (free : s.freeCtxSlot c = some k) (fits : s.loadRefusal c 2 a = none)
    (other : (s.ctx c).current ≠ some k) :
    ((s.acceptLoad c 2 a 0 0).slot c k).images = (s.slot c ((s.ctx c).current.getD 0)).images ∧
      ((s.acceptLoad c 2 a 0 0).slot c k).adapters =
        (s.slot c ((s.ctx c).current.getD 0)).adapters.filter fun e => decide (e.number ≠ a) := by
  obtain ⟨j, current⟩ := current_of_loadRefusal (by decide) fits
  rw [slot_of_wgt (acceptLoad_wgt (w := ⟨c, 2, a, 0, k⟩) free 0), current]
  exact beginLoad_drop s.withSections c a k current fun same => other (same ▸ current)

/-! ## EPOCH_COMMIT and EPOCH_DROP (R267) -/

section Epochs
variable {s : State} {ps : List Byte} (ready : MailboxReady s) (context : at' ps 0 1 ≤ 63) (slot : at' ps 1 1 ≤ 3) (tag : W32)
include ready context slot

theorem exec_epochCommit_prepared (params : paramsOk ps 16 [(2, 6)] = true)
    (state : (s.hw.slot (at' ps 0 1) (at' ps 1 1)).state = .prepared) :
    exec (.epochCommit tag ps) s = .next { s with
      hw := ((s.hw.calling 0x21 tag).setCtx (at' ps 0 1) { s.hw.ctx (at' ps 0 1) with
        pendingSlot := at' ps 1 1, commitStroke := at' ps 8 8, commitPending := true }).respond
          { data := leBytes 8 (s.hw.slot (at' ps 0 1) (at' ps 1 1)).epoch.toNat } } := by
  have call : exec (.epochCommit tag ps) s = execEpochCommit tag ps s := rfl
  have places : ¬ (at' ps 0 1 > 63 ∨ at' ps 1 1 > 3) := by omega
  have prepared : ((s.hw.calling 0x21 tag).slot (at' ps 0 1) (at' ps 1 1)).state = .prepared := state
  refine call.trans (act_eq ?_)
  rw [mbxCommand_ready ready]
  simp only [params, places, prepared, Bool.not_true, Bool.false_eq_true, if_false, ne_eq, not_true_eq_false]
  rfl

theorem exec_epochCommit_refused (params : paramsOk ps 16 [(2, 6)] = true)
    (state : (s.hw.slot (at' ps 0 1) (at' ps 1 1)).state ≠ .prepared) :
    exec (.epochCommit tag ps) s = .next { s with hw := (s.hw.calling 0x21 tag).respond (refused 0x2A) } := by
  have call : exec (.epochCommit tag ps) s = execEpochCommit tag ps s := rfl
  have places : ¬ (at' ps 0 1 > 63 ∨ at' ps 1 1 > 3) := by omega
  have unprepared : ((s.hw.calling 0x21 tag).slot (at' ps 0 1) (at' ps 1 1)).state ≠ .prepared := state
  refine call.trans (act_eq ?_)
  rw [mbxCommand_ready ready]
  simp only [params, places, if_pos unprepared, Bool.not_true, Bool.false_eq_true, if_false]

/-- A commit of the context that waits on slot `k` is withdrawn. -/
def Ctx.withdrawn (x : Ctx) (k : Nat) : Ctx := { x with commitPending := x.commitPending && decide (x.pendingSlot ≠ k) }

/-- A module whose slot is dropped. -/
def Hw.dropSlot (s : Hw) (c k : Nat) : Hw := (s.freeSlot c k).setCtx c (((s.freeSlot c k).ctx c).withdrawn k)

theorem exec_epochDrop_prepared (params : paramsOk ps 8 [(2, 6)] = true)
    (state : (s.hw.slot (at' ps 0 1) (at' ps 1 1)).state = .prepared) :
    exec (.epochDrop tag ps) s = .next { s with
      hw := ((s.hw.calling 0x22 tag).dropSlot (at' ps 0 1) (at' ps 1 1)).respond {} } := by
  have call : exec (.epochDrop tag ps) s = execEpochDrop tag ps s := rfl
  have places : ¬ (at' ps 0 1 > 63 ∨ at' ps 1 1 > 3) := by omega
  have prepared : ((s.hw.calling 0x22 tag).slot (at' ps 0 1) (at' ps 1 1)).state = .prepared := state
  refine call.trans (act_eq ?_)
  rw [mbxCommand_ready ready]
  simp only [params, places, prepared, Bool.not_true, Bool.false_eq_true, if_false, ne_eq, not_true_eq_false]
  rfl

end Epochs

theorem dropSlot_slot (s : Hw) (c k : Nat) : (s.dropSlot c k).slot c k = {} := by
  rw [Hw.dropSlot, Hw.slot, setCtx_ctx, if_pos rfl]
  exact freeSlot_slot s c k

theorem dropSlot_commitPending (s : Hw) (c k : Nat) :
    ((s.dropSlot c k).ctx c).commitPending = ((s.ctx c).commitPending && decide ((s.ctx c).pendingSlot ≠ k)) := by
  have freed : (s.freeSlot c k).ctx c = { s.ctx c with slots := nput {} (s.ctx c).slots k {} } := setSlot_ctx_same s c k {}
  rw [Hw.dropSlot, setCtx_ctx, if_pos rfl, freed]
  rfl

/-- Settles O23: a package's load by `loadPackage_answers`, a drop by what `acceptLoad` begins, the epochs' commands by what each
does with the slot that it names. -/
theorem weightLoading : Obligations.WeightLoading := by
  unfold Obligations.WeightLoading
  refine ⟨?loads, ?epochs⟩
  case loads =>
    intro s tag c a source k h x off m taken working answered accepted holds ready free
    refine ⟨fun own range inside state tier lent version => ?package, fun fits => ?drop⟩
    case package =>
      have flash : h.OnOwnFlash source.toNat := ⟨own, range, inside, state, tier, lent, version⟩
      refine ⟨fun fits => ?base, fun fits => ?adapter⟩
      case base =>
        obtain ⟨t, run, result⟩ := loadPackage_answers (w := ⟨c.toNat, 0, 0, source.toNat, k⟩) ready free flash fits tag
        exact ⟨_, act_eq run, result⟩
      case adapter =>
        obtain ⟨t, run, result⟩ := loadPackage_answers (w := ⟨c.toNat, 1, a.toNat, source.toNat, k⟩) ready free flash fits tag
        exact ⟨_, act_eq run, result⟩
    case drop =>
      let w : WLoad := { context := c.toNat, op := 2, adapter := a.toNat, source := 0, slot := k }
      have room : (h.calling 0x20 tag).freeCtxSlot w.context = some w.slot := free
      exact ⟨_, exec_dropAdapter_accepted ready fits tag, acceptLoad_taken room 0, acceptLoad_works room 0,
        acceptLoad_drop (s := h.calling 0x20 tag) free fits⟩
  case epochs =>
    intro s tag ps c k x ready context slot
    refine ⟨fun params state => ?commit, fun params state => ?drop, fun params state => ?refuse⟩
    case commit =>
      refine ⟨_, exec_epochCommit_prepared ready context slot tag params state, answered_respond _ rfl (by decide) rfl rfl, ?_⟩
      exact (ctx_of_wgt (respond_wgt ..) c).trans ((setCtx_ctx ..).trans (if_pos rfl))
    case drop =>
      refine ⟨_, exec_epochDrop_prepared ready context slot tag params state, answered_respond _ rfl (by decide) rfl rfl, ?_, ?_⟩
      · exact (slot_of_wgt (respond_wgt ..) c k).trans (dropSlot_slot ..)
      · exact (congrArg (·.commitPending) (ctx_of_wgt (respond_wgt ..) c)).trans (dropSlot_commitPending ..)
    case refuse =>
      exact ⟨_, exec_epochCommit_refused ready context slot tag params state, answered_respond _ rfl (by decide) rfl rfl,
        respond_wgt ..⟩

end Sys2Proof.Machine
end

section
/-!
# Touchmark units (R398-R402)

A write to a unit joins its queue, and what no byte precedes is applied. So a unit is sound as soon as the configurations
that wait are valid and its init bit says whether one of them asks for it (`Tmk.fits`): applying the head of the queue keeps
that, and ends at a byte. No command writes a unit in another way.
-/
namespace Sys2Proof.Machine

/-! ## The running register of a 32-bit algorithm stays in bits [31:0] (R399) -/

theorem crcStepR_lt {poly v : Nat} (hp : poly < 2 ^ 32) (hv : v < 2 ^ 32) : crcStepR poly v < 2 ^ 32 := by
  unfold crcStepR
  split
  · exact Nat.xor_lt_two_pow (by omega) hp
  · omega

theorem crcStepsR_lt {poly v : Nat} (hp : poly < 2 ^ 32) (hv : v < 2 ^ 32) (n : Nat) : crcStepsR poly n v < 2 ^ 32 := by
  induction n generalizing v with
  | zero => exact hv
  | succ n ih => exact ih (crcStepR_lt hp hv)

theorem crcByteR_lt {poly v : Nat} (hp : poly < 2 ^ 32) (hv : v < 2 ^ 32) (b : Byte) : crcByteR poly v b < 2 ^ 32 :=
  crcStepsR_lt hp (Nat.xor_lt_two_pow hv (b.isLt.trans (by decide))) 8

theorem tmkFeed_lt {alg : BitVec 2} {v : W64} (listed : alg ≠ 3) (short : alg ≠ 2) (hv : v.toNat < 2 ^ 32) (b : Byte) :
    (tmkFeed alg v b).toNat < 2 ^ 32 := by
  have either : alg = 0 ∨ alg = 1 := by bv_omega
  have crc {poly : Nat} (hp : poly < 2 ^ 32) : (BitVec.ofNat 64 (crcByteR poly v.toNat b)).toNat < 2 ^ 32 := by
    rw [BitVec.toNat_ofNat]
    exact (Nat.mod_le _ _).trans_lt (crcByteR_lt hp hv b)
  obtain rfl | rfl := either
  · exact crc (by decide)
  · exact crc (by decide)

theorem tmkInit_lt (alg : BitVec 2) : (tmkInit alg).toNat < 2 ^ 32 := by
  unfold tmkInit
  split <;> decide

/-! ## A unit whose queue may start with a write -/

/-- What a sound unit keeps beside the form of its queue. -/
structure Tmk.fits (x : Tmk) : Prop where
  listed : x.alg ≠ 3
  short : x.alg = 2 ∨ x.value.toNat < 2 ^ 32
  init : x.init = true ↔ ∃ v, TmkIn.cfg v ∈ x.queue ∧ v.getLsbD 2 = true
  valid : ∀ v, TmkIn.cfg v ∈ x.queue → bits v.toNat 1 0 ≠ 3

/-- A queue with nothing to apply before its first byte. -/
def Tmk.waits (x : Tmk) : Prop := x.queue = [] ∨ ∃ b rest, x.queue = .byte b :: rest

theorem Tmk.sound_iff {x : Tmk} : x.sound ↔ x.fits ∧ x.waits :=
  ⟨fun ⟨listed, short, waits, init, valid⟩ => ⟨⟨listed, short, init, valid⟩, waits⟩,
    fun ⟨⟨listed, short, init, valid⟩, waits⟩ => ⟨listed, short, waits, init, valid⟩⟩

theorem ofNat_alg_ne_three {v : W64} (h : bits v.toNat 1 0 ≠ 3) : BitVec.ofNat 2 v.toNat ≠ 3 := by
  unfold bits at h
  bv_omega

theorem applyCfg_fits {x : Tmk} {v : W64} {rest : List TmkIn} (h : x.fits) (head : x.queue = .cfg v :: rest) :
    ({ x with queue := rest }.applyCfg v).fits := by
  have valid (w : W64) (hw : TmkIn.cfg w ∈ rest) : bits w.toNat 1 0 ≠ 3 := h.valid w (by simp [head, hw])
  have listed := ofNat_alg_ne_three (h.valid v (by simp [head]))
  have later : (rest.any fun | .cfg w => w.getLsbD 2 | _ => false) = true ↔ ∃ w, TmkIn.cfg w ∈ rest ∧ w.getLsbD 2 = true := by
    rw [List.any_eq_true]
    constructor
    · rintro ⟨waiting, hw, asks⟩
      cases waiting with
      | cfg w => exact ⟨w, hw, asks⟩
      | byte _ | value _ => cases asks
    · exact fun ⟨w, hw, asks⟩ => ⟨_, hw, asks⟩
  unfold Tmk.applyCfg
  dsimp only
  split
  · exact ⟨listed, .inr (tmkInit_lt _), later, valid⟩
  · next same =>
    have same : BitVec.ofNat 2 v.toNat = x.alg := not_not.1 fun h => same (.inr h)
    exact ⟨listed, by rw [same]; exact h.short, later, valid⟩

theorem applyValue_fits {x : Tmk} {v : W64} {rest : List TmkIn} (h : x.fits) (head : x.queue = .value v :: rest) :
    ({ x with queue := rest }.applyValue v).fits := by
  refine ⟨h.listed, ?_, by simpa [head, Tmk.applyValue] using h.init, fun w hw => h.valid w (by rw [head]; exact .tail _ hw)⟩
  by_cases long : x.alg = 2
  · exact .inl long
  · right
    rw [Tmk.applyValue, if_neg long, BitVec.toNat_and]
    exact Nat.and_lt_two_pow _ (by decide)

/-- Applying the writes that no byte precedes ends in a sound unit. -/
theorem settle_sound {n : Nat} {x : Tmk} (h : x.fits) (room : x.queue.length ≤ n) : (Tmk.settle n x).sound := by
  induction n generalizing x with
  | zero => exact Tmk.sound_iff.2 ⟨h, .inl (List.length_eq_zero_iff.1 (Nat.le_zero.1 room))⟩
  | succ n ih =>
    unfold Tmk.settle
    split
    case h_1 v rest head =>
      refine ih (applyCfg_fits h head) ?_
      have kept : ({ x with queue := rest }.applyCfg v).queue = rest := by
        unfold Tmk.applyCfg
        dsimp only
        split <;> rfl
      rw [kept]
      simpa [head] using room
    case h_2 v rest head => exact ih (applyValue_fits h head) (by simpa [head, Tmk.applyValue] using room)
    case h_3 noCfg noValue =>
      refine Tmk.sound_iff.2 ⟨h, ?_⟩
      rcases hq : x.queue with _ | ⟨_ | v | v, rest⟩
      · exact .inl hq
      · exact .inr ⟨_, rest, hq⟩
      · exact absurd hq (noCfg v rest)
      · exact absurd hq (noValue v rest)

/-! ## Writes and the core cycle keep a unit sound -/

theorem push_sound {x : Tmk} {ws : List TmkIn} (h : { x with queue := x.queue ++ ws }.fits) : (x.push ws).sound :=
  settle_sound h (by simp)

/-- Writes that ask for no initialisation leave a sound unit sound. -/
theorem push_plain_sound {x : Tmk} (h : x.sound) {ws : List TmkIn} (plain : ∀ v, TmkIn.cfg v ∉ ws) : (x.push ws).sound := by
  obtain ⟨fits, -⟩ := Tmk.sound_iff.1 h
  refine push_sound ⟨fits.listed, fits.short, ?_, fun v hv => ?_⟩
  · simpa [plain] using fits.init
  · exact fits.valid v ((List.mem_append.1 hv).resolve_right (plain v))

theorem push_bytes_sound {x : Tmk} (h : x.sound) (bs : List Byte) : (x.push (bs.map .byte)).sound :=
  push_plain_sound h (by simp)

/-- A unit as TMK_CFG is written: init shows a write that asks for it as long as it waits (R401). -/
def Tmk.asked (x : Tmk) (v : W64) : Tmk := { x with init := x.init || v.getLsbD 2 }

theorem push_cfg_sound {x : Tmk} (h : x.sound) {v : W64} (valid : bits v.toNat 1 0 ≠ 3) : ((x.asked v).push [.cfg v]).sound := by
  obtain ⟨fits, -⟩ := Tmk.sound_iff.1 h
  refine push_sound ⟨fits.listed, fits.short, ?_, fun w hw => ?_⟩
  · simp only [Tmk.asked, Bool.or_eq_true, fits.init, List.mem_append, List.mem_singleton, TmkIn.cfg.injEq, or_and_right, exists_or,
      exists_eq_left]
  · obtain old | new := List.mem_append.1 hw
    · exact fits.valid w old
    · obtain rfl : w = v := by simpa using new
      exact valid

theorem cycle_sound {x : Tmk} (h : x.sound) : x.cycle.sound := by
  unfold Tmk.cycle
  split
  case h_1 b rest head =>
    obtain ⟨fits, -⟩ := Tmk.sound_iff.1 h
    refine settle_sound ⟨fits.listed, ?_, by simpa [head] using fits.init,
      fun v hv => fits.valid v (by rw [head]; exact .tail _ hv)⟩ le_rfl
    by_cases long : x.alg = 2
    · exact .inl long
    · exact .inr (tmkFeed_lt fits.listed long (fits.short.resolve_left long) b)
  case h_2 => exact h

/-! ## All units of the module -/

theorem nwf_ne {V : Type} [DecidableEq V] {d : V} {m : NMap V} (wf : nwf d m = true) : ∀ e ∈ m, e.2 ≠ d := by
  induction m with
  | nil => exact fun e he => absurd he List.not_mem_nil
  | cons e m ih =>
    obtain ⟨ne, -, wf⟩ := (nwf_cons d e.1 e.2 m).1 wf
    exact List.forall_mem_cons.2 ⟨ne, ih wf⟩

/-- The keys of a canonical map are where it reads other than its default. -/
theorem keys_lt_iff {V : Type} [DecidableEq V] {d : V} {m : NMap V} (wf : nwf d m = true) (n : Nat) :
    (∀ e ∈ m, e.1 < n) ↔ ∀ k, n ≤ k → nget d m k = d := by
  constructor
  · intro below k hk
    by_contra ne
    obtain ⟨e, he, rfl⟩ := List.mem_map.1 (mem_keys_of_nget_ne ne)
    exact absurd (below e he) (by omega)
  · intro reads e he
    by_contra above
    exact nwf_ne wf e he (((nwf_entries wf).2 e he).symm.trans (reads e.1 (by omega)))

theorem tmk_default_sound : ({} : Tmk).sound :=
  ⟨by decide, .inr (by decide), .inl rfl, by simp, by simp⟩

theorem tmksSound_nil {s : State} (h : s.tmks = []) : s.tmksSound :=
  ⟨by rw [h]; rfl, by simp [h], fun u => by rw [State.tmk, h]; exact tmk_default_sound⟩

theorem setTmk_sound {s t : State} (h : s.tmksSound) {u : Fin 32} {x : Tmk} (hx : x.sound)
    (set : t.tmks = nput {} s.tmks u.val x) : t.tmksSound := by
  obtain ⟨wf, keys, units⟩ := h
  have wf' := nwf_nput (d := {}) u.val x wf
  refine ⟨set ▸ wf', ?_, fun v => ?_⟩
  · rw [set, keys_lt_iff wf']
    intro k hk
    rw [nget_nput, if_neg (by omega)]
    exact (keys_lt_iff wf 32).1 keys k hk
  · rw [State.tmk, set, nget_nput]
    split
    · exact hx
    · exact units v

/-- What a unit is after a core cycle of a canonical map: a unit that is not listed waits for nothing. -/
theorem feedTmks_get {m : NMap Tmk} (wf : nwf {} m = true) (u : Nat) : nget {} (feedTmks m) u = (nget {} m u).cycle := by
  rw [feedTmks, nget_foldl_nput (fun _ x => x.cycle) wf]
  split
  · rfl
  · next absent => rw [not_not.1 fun h => absent (mem_keys_of_nget_ne h)]; rfl

theorem tick_tmk {s : State} (wf : nwf {} s.tmks = true) (u : Nat) : (tick s).tmk u = (s.tmk u).cycle := feedTmks_get wf u

theorem tick_sound {s : State} (h : s.tmksSound) : (tick s).tmksSound := by
  obtain ⟨wf, keys, units⟩ := h
  have wf' : nwf {} (feedTmks s.tmks) = true := nwf_foldl_nput (fun _ (x : Tmk) => x.cycle) _ rfl
  refine ⟨wf', (keys_lt_iff wf' 32).2 fun k hk => ?_, fun u => ?_⟩
  · rw [feedTmks_get wf, (keys_lt_iff wf 32).1 keys k hk]
    rfl
  · rw [tick_tmk wf]
    exact cycle_sound (units u)

/-! ## Commands beside the units -/

/-- A command acts on the module beside its touchmark units and its queue. -/
def ActsBeside (s : State) (r : Out) : Prop := ∃ h, r = .next { s with hw := h }

theorem act_beside (s : State) (k : Hw → Hw) : ActsBeside s (s.act k) := ⟨_, rfl⟩

theorem driverReq_beside (s : State) (v : W64) : ActsBeside s (s.driverReq v) := by
  unfold State.driverReq
  split <;> exact ⟨_, rfl⟩

theorem loadCommand_beside (s : State) (tag : W32) (p : List Byte) : ActsBeside s (s.loadCommand tag p) := by
  unfold State.loadCommand
  dsimp only
  split
  · exact ⟨_, rfl⟩
  · split <;> exact ⟨_, rfl⟩

theorem doorbell_beside (s : State) : ActsBeside s s.doorbell := by
  unfold State.doorbell
  dsimp only
  split
  · exact ⟨_, rfl⟩
  · split
    case h_4 => exact loadCommand_beside s _ _
    all_goals exact ⟨_, rfl⟩

theorem writeMbx_beside (s : State) (o : Nat) (v : W64) : ActsBeside s (s.writeMbx o v) := by
  unfold State.writeMbx
  split
  · exact ⟨_, rfl⟩
  · split
    case h_1 => split; exacts [doorbell_beside s, ⟨_, rfl⟩]
    all_goals exact ⟨_, rfl⟩

theorem writeHrd_beside (s : State) (h : FieldIx) (o : Nat) (v : W64) : ActsBeside s (writeHrd h o v s) := by
  unfold writeHrd
  split
  case h_1 =>
    unfold writeHrdCtl
    dsimp only
    split_ifs <;> exact ⟨_, rfl⟩
  all_goals exact ⟨_, rfl⟩

theorem writeLnkCtl_beside (s : State) (p : PortIx) (v : W64) : ActsBeside s (writeLnkCtl p v s) := by
  unfold writeLnkCtl
  dsimp only
  split_ifs <;> exact ⟨_, rfl⟩

theorem writeRed_beside (s : State) (o : Nat) (v : W64) : ActsBeside s (writeRed o v s) := by
  unfold writeRed
  dsimp only
  split
  case h_2 => split <;> exact ⟨_, rfl⟩
  all_goals exact ⟨_, rfl⟩

theorem writeEng_beside (s : State) (e : FieldIx) (o : Nat) (v : W64) : ActsBeside s (writeEng e o v s) := by
  unfold writeEng
  split <;> exact ⟨_, rfl⟩

theorem writeKvOp_beside (s : State) (v : W64) : ActsBeside s (writeKvOp v s) := by
  unfold writeKvOp
  dsimp only
  split <;> exact ⟨_, rfl⟩

theorem writePfx_beside (s : State) (v : W64) : ActsBeside s (writePfx v s) := by
  unfold writePfx
  dsimp only
  split <;> exact ⟨_, rfl⟩

theorem ite_actsBeside {p : Prop} [Decidable p] {s : State} {r q : Out} (h : ActsBeside s r) (g : ActsBeside s q) :
    ActsBeside s (if p then r else q) := by
  split
  · exact h
  · exact g

theorem writeHigh_beside (s : State) (off : Nat) (v : W64) : ActsBeside s (writeHigh off v s) := by
  unfold writeHigh
  refine ite_actsBeside ?fld (ite_actsBeside ?hrd (ite_actsBeside ?tng (ite_actsBeside ⟨_, rfl⟩ (ite_actsBeside ?lnk
    (ite_actsBeside ⟨_, rfl⟩ (ite_actsBeside ⟨_, rfl⟩ (ite_actsBeside (writeRed_beside s _ v) (ite_actsBeside ?eng
    (ite_actsBeside ?qpc (ite_actsBeside (writeKvOp_beside s v) (ite_actsBeside (writePfx_beside s v) ⟨_, rfl⟩)))))))))))
  case fld => split <;> exact ⟨_, rfl⟩
  case hrd =>
    split
    · exact writeHrd_beside s _ _ v
    · exact ⟨_, rfl⟩
  case tng =>
    refine ite_actsBeside ?_ ⟨s.hw, rfl⟩
    obtain ⟨h, eq⟩ := driverReq_beside (nextOr s (s.act fun s => s.bar0 id)) v
    exact ⟨h, eq⟩
  case lnk =>
    split
    · exact ite_actsBeside (writeLnkCtl_beside s _ v) ⟨_, rfl⟩
    · exact ⟨_, rfl⟩
  case eng =>
    split
    · exact writeEng_beside s _ _ v
    · exact ⟨_, rfl⟩
  case qpc => exact ite_actsBeside ⟨_, rfl⟩ ⟨_, rfl⟩

/-! ## Every command keeps the units sound -/

/-- What a command answers is sound where the state it acts on is. -/
def KeepsTmks (s : State) (r : Out) : Prop := s.tmksSound → ∀ t, r = .next t → t.tmksSound

theorem KeepsTmks.of_tmks {s t : State} (same : t.tmks = s.tmks) : KeepsTmks s (.next t) := by
  rintro ⟨wf, keys, units⟩ _ ⟨⟩
  exact ⟨same ▸ wf, same ▸ keys, fun u => by rw [State.tmk, same]; exact units u⟩

theorem ActsBeside.keepsTmks {s : State} {r : Out} (h : ActsBeside s r) : KeepsTmks s r := by
  obtain ⟨h, rfl⟩ := h
  exact .of_tmks rfl

theorem ite_keepsTmks {p : Prop} [Decidable p] {s : State} {r q : Out} (h : KeepsTmks s r) (g : KeepsTmks s q) :
    KeepsTmks s (if p then r else q) := by
  split
  · exact h
  · exact g

theorem writeUnit_keepsTmks {s : State} (u : Fin 32) {f : Tmk → Tmk} (keeps : ∀ x : Tmk, x.sound → (f x).sound) :
    KeepsTmks s (.next (s.writeUnit u.val f)) := by
  rintro sound _ ⟨⟩
  unfold State.writeUnit
  split
  · exact setTmk_sound sound (keeps _ (sound.2.2 u.val)) rfl
  · exact sound

theorem tmkCfgWrite_keepsTmks (u : Fin 32) (v : W64) (s : State) : KeepsTmks s (execTmkCfgWrite u v s) := by
  refine writeUnit_keepsTmks u fun x sound => ?_
  split
  · exact sound
  · next valid => exact push_cfg_sound sound valid

theorem tmkDataWrite_keepsTmks (u : Fin 32) (w : Nat) (v : W64) (s : State) : KeepsTmks s (execTmkDataWrite u w v s) := by
  refine writeUnit_keepsTmks u fun x sound => ?_
  split
  · exact push_bytes_sound sound _
  · exact sound

theorem tmkValueWrite_keepsTmks (u : Fin 32) (v : W64) (s : State) : KeepsTmks s (execTmkValueWrite u v s) :=
  writeUnit_keepsTmks u fun _ sound => push_plain_sound sound (by simp)

theorem tmkStatusWrite_keepsTmks (u : Fin 32) (v : W64) (s : State) : KeepsTmks s (execTmkStatusWrite u v s) :=
  writeUnit_keepsTmks u fun _ sound => sound

theorem resultWindowRead_keepsTmks (u : Fin 32) (final : Bool) (s : State) : KeepsTmks s (execResultWindowRead u final s) := by
  rintro sound _ ⟨⟩
  have early : { s.tmk u.val with rdEarly := true }.sound := sound.2.2 u.val
  dsimp only
  split
  · exact sound
  · split
    · exact sound
    · exact setTmk_sound sound early rfl

theorem writeTmk_keepsTmks (u : Fin 32) (o : Nat) (v : W64) (s : State) : KeepsTmks s (writeTmk u o v s) := by
  unfold writeTmk
  split
  · exact tmkCfgWrite_keepsTmks u v s
  · exact tmkDataWrite_keepsTmks u 8 v s
  · exact tmkValueWrite_keepsTmks u v s
  · exact tmkStatusWrite_keepsTmks u v s
  · exact (act_beside s _).keepsTmks

theorem writeNarrow_keepsTmks (off w : Nat) (v : W64) (s : State) : KeepsTmks s (writeNarrow off w v s) := by
  unfold writeNarrow
  refine ite_keepsTmks (act_beside s _).keepsTmks (ite_keepsTmks ?_ (act_beside s _).keepsTmks)
  split
  · exact tmkDataWrite_keepsTmks _ w v s
  · exact (act_beside s _).keepsTmks

theorem writeLow_keepsTmks (off : Nat) (v : W64) (s : State) : KeepsTmks s (writeLow off v s) := by
  have beside {r : Out} (h : ActsBeside s r) : KeepsTmks s r := h.keepsTmks
  unfold writeLow
  iterate 2 refine ite_keepsTmks (beside ⟨_, rfl⟩) ?_
  refine ite_keepsTmks (beside (writeMbx_beside s _ v)) ?_
  iterate 4 refine ite_keepsTmks (beside ⟨_, rfl⟩) ?_
  refine ite_keepsTmks ?tmk (beside ?rest)
  case tmk =>
    split
    · exact writeTmk_keepsTmks _ _ v s
    · exact beside ⟨_, rfl⟩
  case rest => split_ifs <;> exact ⟨_, rfl⟩

theorem registerWrite_keepsTmks (off : BitVec 24) (w : Nat) (v : W64) (s : State) :
    KeepsTmks s (execRegisterWrite off w v s) := by
  unfold execRegisterWrite
  exact ite_keepsTmks (writeNarrow_keepsTmks _ w v s)
    (ite_keepsTmks (writeLow_keepsTmks _ v s) (writeHigh_beside s _ v).keepsTmks)

theorem exec_keepsTmks (c : Instr) (s : State) : KeepsTmks s (exec c s) := by
  cases c with
  | registerWrite off w v => exact registerWrite_keepsTmks off w v s
  | tmkCfgWrite u v => exact tmkCfgWrite_keepsTmks u v s
  | tmkDataWrite u w v => exact tmkDataWrite_keepsTmks u w v s
  | tmkValueWrite u v => exact tmkValueWrite_keepsTmks u v s
  | tmkStatusWrite u v => exact tmkStatusWrite_keepsTmks u v s
  | resultWindowRead u final => exact resultWindowRead_keepsTmks u final s
  | powerGood | powerLoss | functionLevelReset =>
    rintro - _ ⟨⟩
    exact tmksSound_nil rfl
  | _ => exact .of_tmks rfl

/-- Settles O54: a core cycle feeds each unit a byte and a write pushes to one unit's queue, each of which keeps it sound;
the three resets empty the units, and every other command acts beside them. -/
theorem touchmarksStaySound : Obligations.TouchmarksStaySound := by
  unfold Obligations.TouchmarksStaySound
  intro s t sound h
  unfold step at h
  split at h
  · obtain rfl := Host.Outcome.next.inj h
    exact tick_sound sound
  · next c rest _ => exact exec_keepsTmks c { s with pending := rest } sound t h


/-! ## What a write to a unit does (R399-R402) -/

theorem writeUnit_of_open {s : State} (h : s.hw.barOpen = true) (u : Nat) (f : Tmk → Tmk) : s.writeUnit u f =
    { s with hw := { s.hw with tst := { s.hw.tst with armedKey := false } }, tmks := nput {} s.tmks u (f (s.tmk u)) } := by
  simp [State.writeUnit, State.setTmk, Hw.bar0, h]

theorem settle_of_waits {x : Tmk} (h : x.waits) (n : Nat) : Tmk.settle n x = x := by
  cases n with
  | zero => rfl
  | succ n =>
    unfold Tmk.settle
    obtain h | ⟨b, rest, h⟩ := h <;> simp [h]

/-- Behind a byte every write queues. -/
theorem push_of_byte {x : Tmk} {b : Byte} {rest : List TmkIn} (h : x.queue = .byte b :: rest) (ws : List TmkIn) :
    x.push ws = { x with queue := x.queue ++ ws } :=
  settle_of_waits (.inr ⟨b, rest ++ ws, by simp [h]⟩) _

theorem push_bytes {x : Tmk} (h : x.waits) (bs : List Byte) :
    x.push (bs.map .byte) = { x with queue := x.queue ++ bs.map .byte } := by
  obtain h | ⟨b, rest, h⟩ := h
  · refine settle_of_waits ?_ _
    cases bs with
    | nil => exact .inl (by simp [h])
    | cons b bs => exact .inr ⟨b, _, by rw [h]; rfl⟩
  · exact push_of_byte h _

theorem push_cfg_idle {x : Tmk} (h : x.queue = []) (v : W64) : x.push [.cfg v] = { x with queue := [] }.applyCfg v := by
  simp [Tmk.push, h, Tmk.settle]

theorem push_value_idle {x : Tmk} (h : x.queue = []) (v : W64) : x.push [.value v] = x.applyValue v := by
  simp [Tmk.push, h, Tmk.settle, Tmk.applyValue]

section Writes
variable {s : State} (barOpen : s.hw.barOpen = true) (u : Fin 32)
include barOpen

theorem exec_tmkCfgWrite_refused {v : W64} (refused : bits v.toNat 1 0 = 3) : exec (.tmkCfgWrite u v) s = .next { s with
    hw := { s.hw with tst := { s.hw.tst with armedKey := false } }, tmks := nput {} s.tmks u.val (s.tmk u.val) } := by
  change Host.Outcome.next (s.writeUnit u.val _) = _
  rw [writeUnit_of_open barOpen, if_pos refused]

theorem exec_tmkCfgWrite {v : W64} (valid : bits v.toNat 1 0 ≠ 3) : exec (.tmkCfgWrite u v) s = .next { s with
    hw := { s.hw with tst := { s.hw.tst with armedKey := false } }
    tmks := nput {} s.tmks u.val (((s.tmk u.val).asked v).push [.cfg v]) } := by
  change Host.Outcome.next (s.writeUnit u.val _) = _
  rw [writeUnit_of_open barOpen, if_neg valid]
  rfl

theorem exec_tmkDataWrite {w : Nat} (hw : w ∈ [1, 2, 4, 8]) (v : W64) : exec (.tmkDataWrite u w v) s = .next { s with
    hw := { s.hw with tst := { s.hw.tst with armedKey := false } }
    tmks := nput {} s.tmks u.val ((s.tmk u.val).push ((leBytes w v.toNat).map .byte)) } := by
  change Host.Outcome.next (s.writeUnit u.val _) = _
  rw [writeUnit_of_open barOpen, if_pos (by simpa using hw)]

theorem exec_tmkValueWrite (v : W64) : exec (.tmkValueWrite u v) s = .next { s with
    hw := { s.hw with tst := { s.hw.tst with armedKey := false } }
    tmks := nput {} s.tmks u.val ((s.tmk u.val).push [.value v]) } :=
  congrArg _ (writeUnit_of_open barOpen _ _)

theorem exec_tmkStatusWrite (v : W64) : exec (.tmkStatusWrite u v) s = .next { s with
    hw := { s.hw with tst := { s.hw.tst with armedKey := false } }
    tmks := nput {} s.tmks u.val { s.tmk u.val with
      count := BitVec.ofNat 32 (bits v.toNat 63 32), rdEarly := (s.tmk u.val).rdEarly && !v.getLsbD 1 } } :=
  congrArg _ (writeUnit_of_open barOpen _ _)

end Writes

/-- Settles O50: what is pushed to an idle unit is applied at once, what is pushed behind a byte queues, and a core cycle
feeds the byte at the head. -/
theorem touchmarks : Obligations.Touchmarks := by
  unfold Obligations.Touchmarks
  intro s u v b x to'
  refine ⟨fun barOpen idle => ⟨fun valid init => ?cfg, fun refused => exec_tmkCfgWrite_refused barOpen u refused,
      fun w hw => ?data, ?value⟩,
    fun barOpen rest busy => ⟨fun valid => ?cfgQueues, fun w hw => ?dataQueues, ?valueQueues⟩,
    fun barOpen => exec_tmkStatusWrite barOpen u v, fun pending only head => ?cycle⟩
  case cfg =>
    refine ⟨_, exec_tmkCfgWrite barOpen u valid, ?_⟩
    rw [push_cfg_idle (x := (s.tmk u.val).asked v) idle, Tmk.applyCfg]
    dsimp only
    rw [if_pos (.inl init)]
    exact ⟨rfl, rfl, rfl, rfl⟩
  case data =>
    rw [exec_tmkDataWrite barOpen u hw, push_bytes (.inl idle), idle]
    rfl
  case value =>
    rw [exec_tmkValueWrite barOpen, push_value_idle idle]
    rfl
  case cfgQueues =>
    rw [exec_tmkCfgWrite barOpen u valid, push_of_byte (x := (s.tmk u.val).asked v) busy]
    rfl
  case dataQueues => rw [exec_tmkDataWrite barOpen u hw, push_of_byte busy]
  case valueQueues => rw [exec_tmkValueWrite barOpen, push_of_byte busy]
  case cycle =>
    have listed : x ≠ {} := fun h => by simp [h] at head
    have wf : nwf {} s.tmks = true := by rw [only, nwf_cons]; exact ⟨listed, by simp [above], rfl⟩
    refine ⟨tick s, by rw [step, pending], ?_⟩
    rw [tick_tmk wf, Tmk.cycle]
    change (match x.queue with | .byte b :: rest => _ | _ => x) = _
    rw [head]
    rfl

/-! ## Result windows (R398) -/

theorem applyCfg_rdEarly (x : Tmk) (v : W64) : (x.applyCfg v).rdEarly = x.rdEarly := by
  unfold Tmk.applyCfg
  dsimp only
  split <;> rfl

theorem settle_rdEarly (n : Nat) (x : Tmk) : (Tmk.settle n x).rdEarly = x.rdEarly := by
  induction n generalizing x with
  | zero => rfl
  | succ n ih =>
    unfold Tmk.settle
    split
    · rw [ih, applyCfg_rdEarly]
    · exact ih _
    · rfl

theorem push_rdEarly (x : Tmk) (ws : List TmkIn) : (x.push ws).rdEarly = x.rdEarly := settle_rdEarly _ _

theorem cycle_rdEarly (x : Tmk) : x.cycle.rdEarly = x.rdEarly := by
  unfold Tmk.cycle
  split
  · exact settle_rdEarly _ _
  · rfl

theorem setTmk_tmk {s t : State} {u : Nat} {x : Tmk} (set : t.tmks = nput {} s.tmks u x) : t.tmk u = x := by
  rw [State.tmk, set, nget_nput, if_pos rfl]

section Windows
variable {s : State} (barOpen : s.hw.barOpen = true) (u : Fin 32) (final : Bool)
include barOpen

theorem exec_resultWindowRead_ready (ready : (s.tmk u.val).queue = []) : exec (.resultWindowRead u final) s =
    .next (s.answer (if final then (s.tmk u.val).value ^^^ tmkXor (s.tmk u.val).alg else (s.tmk u.val).value)) := by
  simp [exec, execResultWindowRead, barOpen, Tmk.ready, ready]

theorem exec_resultWindowRead_early (early : (s.tmk u.val).queue ≠ []) : exec (.resultWindowRead u final) s =
    .next ({ s.setTmk u.val { s.tmk u.val with rdEarly := true } with hw := s.hw.raise 42 }.answer 0) := by
  simp [exec, execResultWindowRead, barOpen, Tmk.ready, early]

end Windows

/-- Settles O60: a read is answered by whether a byte is pending, and of the operations on a unit only the driver's write of
TMK_STATUS clears rd_early. -/
theorem resultWindows : Obligations.ResultWindows := by
  unfold Obligations.ResultWindows
  intro s u final v w x barOpen
  refine ⟨fun ready => exec_resultWindowRead_ready barOpen u final ready, fun early => ?early, fun sticky => ⟨?stays, ?ticks,
    fun kept => ?kept, fun cleared => ?cleared⟩⟩
  case early =>
    exact ⟨_, exec_resultWindowRead_early barOpen u final early, rfl, setTmk_tmk rfl, by simp [State.answer, raise_flags]⟩
  case ticks =>
    intro wf
    rw [tick_tmk wf, cycle_rdEarly, sticky]
  case kept =>
    refine ⟨_, exec_tmkStatusWrite barOpen u v, ?_⟩
    rw [setTmk_tmk rfl, sticky, kept]
    rfl
  case cleared =>
    refine ⟨_, exec_tmkStatusWrite barOpen u v, ?_⟩
    rw [setTmk_tmk rfl, sticky, cleared]
    rfl
  case stays =>
    have written {f : Tmk → Tmk} (keeps : ∀ x, (f x).rdEarly = x.rdEarly) :
        ((s.writeUnit u.val f).tmk u.val).rdEarly = true := by
      rw [writeUnit_of_open barOpen, setTmk_tmk rfl, keeps, sticky]
    simp only [List.forall_mem_cons]
    refine ⟨⟨_, rfl, written fun x => ?_⟩, ⟨_, rfl, written fun x => ?_⟩, ⟨_, rfl, written fun x => push_rdEarly x _⟩, ?_,
      by simp⟩
    · split
      · rfl
      · exact push_rdEarly _ _
    · split
      · exact push_rdEarly x _
      · rfl
    · by_cases ready : x.queue = []
      · exact ⟨_, exec_resultWindowRead_ready barOpen u final ready, sticky⟩
      · exact ⟨_, exec_resultWindowRead_early barOpen u final ready, by rw [State.answer, setTmk_tmk rfl]⟩

/-! ## The command at the front -/

/-- Settles O52: by the two cases of the queue. -/
theorem stepRunsFront : Obligations.StepRunsFront := by
  unfold Obligations.StepRunsFront
  exact fun s c cs => ⟨rfl, rfl⟩

end Sys2Proof.Machine
end

section
/-!
# Interrupts and doorbells (R374, R376, R378, R379, R388, R390, R395, R396)
-/
namespace Sys2Proof.Machine

/-! ## A vector goes or is held (R374, R376) -/

/-- The message of a vector, as the MSI-X table has it. -/
def Hw.vectorMsg (s : Hw) (v : Nat) : MsixMsg :=
  { addr := s.msixDword v 1 ++ s.msixDword v 0, data := s.msixDword v 2 }

theorem fireVector_goes {s : Hw} {v : Nat} (master : s.mayMaster = true) (unmasked : (s.msixDword v 3).getLsbD 0 = false) :
    s.fireVector v = { s with evt := { s.evt with sent := s.evt.sent ++ [s.vectorMsg v] } } := by
  rw [Hw.fireVector, if_pos (by rw [master, unmasked]; rfl)]
  rfl

theorem fireVector_held {s : Hw} {v : Nat} (held : s.mayMaster = false ∨ (s.msixDword v 3).getLsbD 0 = true) :
    s.fireVector v = { s with evt := { s.evt with pba := nput false s.evt.pba v true } } := by
  rw [Hw.fireVector, if_neg]
  obtain h | h := held
  · simp [h]
  · rw [h]
    simp

/-! ## The set of a flag (R378, R379) -/

/-- The state once a flag is set and counted, before its vector is judged. -/
def Hw.flagged (s : Hw) (n : Nat) : Hw :=
  { s with evt := { s.evt with
      flags := s.evt.flags ||| BitVec.ofNat 44 (2 ^ n)
      cnt := nput 0 s.evt.cnt n ((nget 0 s.evt.cnt n + 1) % 2 ^ 64) } }

theorem raise_quietly {s : Hw} {n : Nat} (h : s.evt.flags.getLsbD n = true ∨ s.evt.mask.getLsbD n = false) :
    s.raise n = s.flagged n := by
  refine if_neg ?_
  obtain h | h := h <;> simp [h]

theorem raise_fires {s : Hw} {n : Nat} (clear : s.evt.flags.getLsbD n = false) (mask : s.evt.mask.getLsbD n = true) :
    s.raise n = (s.flagged n).fireVector (nget 0 s.evt.vec n).toNat :=
  if_pos (by simp [clear, mask])

theorem raise_flag (s : Hw) {n j : Nat} (hj : j < 44) :
    (s.raise n).evt.flags.getLsbD j = (decide (j = n) || s.evt.flags.getLsbD j) := by
  rw [raise_flags, BitVec.getLsbD_or, BitVec.getLsbD_ofNat, Nat.testBit_two_pow, Bool.or_comm]
  simp [hj, eq_comm]

/-! ## Bus mastering (R374) -/

/-- Where one vector is held and may go, it goes and nothing is held. -/
theorem firePending_one {s : Hw} {v : Nat} (held : s.evt.pba = [(v, true)]) (master : s.mayMaster = true)
    (unmasked : (s.msixDword v 3).getLsbD 0 = false) :
    s.firePending = { s with evt := { s.evt with pba := [], sent := s.evt.sent ++ [s.vectorMsg v] } } := by
  have empty : nput false s.evt.pba v false = [] := by
    rw [held]
    simp [nput, nerase]
  rw [Hw.firePending, held, List.foldl_cons, List.foldl_nil]
  refine (if_pos (by rw [master, unmasked]; rfl)).trans ?_
  rw [empty]
  exact fireVector_goes master unmasked

theorem exec_busMasterOn {s : State} (d0 : s.hw.inD0 = true) (noQps : s.hw.qps = []) {v : Nat}
    (held : s.hw.evt.pba = [(v, true)]) (unmasked : (s.hw.msixDword v 3).getLsbD 0 = false) :
    exec (.busMasterEnableChange true) s = .next { s with hw := { s.hw with evt := { s.hw.evt with
      busMaster := true, pba := [], sent := s.hw.evt.sent ++ [s.hw.vectorMsg v] } } } := by
  have call : exec (.busMasterEnableChange true) s = execBusMasterEnableChange true s := rfl
  rw [call, execBusMasterEnableChange]
  refine act_eq ?_
  dsimp only
  rw [if_pos rfl]
  refine (congrArg (List.foldl _ _) noQps).trans ?_
  exact firePending_one (s := { s.hw with evt := { s.hw.evt with busMaster := true } }) held d0 unmasked

/-- Settles O35: the flag and its count are set first, and the vector is judged with its mask and the bus as they are. -/
theorem interrupts : Obligations.Interrupts := by
  unfold Obligations.Interrupts
  intro s n v _ e t
  refine ⟨fun j hj => raise_flag s.hw hj, ?count, fun j other => ?others, fun quiet => ?quiet, fun clear mask vec => ⟨?goes, ?held⟩,
    rfl, fun d0 noQps held unmasked => exec_busMasterOn d0 noQps held unmasked⟩
  case count => simp [t, e]
  case others => simp [t, e, other]
  case quiet =>
    have eq : t = s.hw.flagged n := raise_quietly quiet
    rw [eq]
    exact ⟨rfl, rfl⟩
  case goes =>
    intro master unmasked
    have eq : t = (s.hw.flagged n).fireVector v := vec ▸ raise_fires clear mask
    rw [eq, fireVector_goes (s := s.hw.flagged n) master unmasked]
    rfl
  case held =>
    intro held
    have eq : t = (s.hw.flagged n).fireVector v := vec ▸ raise_fires clear mask
    rw [eq, fireVector_held (s := s.hw.flagged n) held]
    exact ⟨by simp, rfl⟩

/-! ## Completions that are written keep what the driver set (R395, R396) -/

/-- Of a queue pair, what completions written to it leave alone. -/
abbrev Qp.driverSide (x : Qp) : W32 × W32 × Bool := (x.cqHead, x.sqTail, x.errDoorbell)

theorem writeCpl_driverSide (s : Hw) (q : Nat) (c : Cpl) : ((s.writeCpl q c).qp q).driverSide = (s.qp q).driverSide := by
  have fired (u : Hw) (v : Nat) : (u.fireVector v).qp q = u.qp q := by rw [Hw.qp, fireVector_qps, Hw.qp]
  unfold Hw.writeCpl
  dsimp only
  split
  · rw [fired, setQp_qp, if_pos rfl]
  · rw [setQp_qp, if_pos rfl]

theorem pumpCpls_driverSide (n : Nat) (s : Hw) (q : Nat) : ((Hw.pumpCpls n s q).qp q).driverSide = (s.qp q).driverSide := by
  induction n generalizing s with
  | zero => rfl
  | succ n ih =>
    unfold Hw.pumpCpls
    dsimp only
    split
    · rfl
    · split
      · rw [ih, writeCpl_driverSide, setQp_qp, if_pos rfl]
      · rfl

/-! ## Doorbells (R390) -/

/-- The queue pair after a doorbell error: its bit and its count. -/
theorem ringErr_doorbell (s : Hw) (q : Nat) :
    ∃ n, (s.ringErr q 4).qp q = { s.qp q with errDoorbell := true, errCount := n } := by
  refine ⟨satInc (s.qp q).errCount, ?_⟩
  unfold Hw.ringErr
  simp [Hw.qp, Hw.onQp, Hw.setQp]

theorem ringErr_raised (s : Hw) (q cause : Nat) : (s.ringErr q cause).evt.flags.getLsbD 41 = true := raise_bit _ 41

theorem ringErr_hostMem (s : Hw) (q cause : Nat) : (s.ringErr q cause).hostMem = s.hostMem := by
  unfold Hw.ringErr
  rw [raise_hostMem]
  rfl

section Doorbells
variable {s : State} (barOpen : s.hw.barOpen = true) (q : W16) (v : W64)
include barOpen

theorem exec_sqDoorbell_dropped (out : (s.hw.qp q.toNat).enable = false ∨
    (v.setWidth 32 - (s.hw.qp q.toNat).sqTail).toNat ≥ 2 ^ 31 ∨
    (v.setWidth 32 - (s.hw.qp q.toNat).sqHead).toNat > (s.hw.qp q.toNat).sqSize) :
    exec (.sqDoorbell q v) s = .next { s with hw := s.hw.ringErr q.toNat 4 } := by
  change Host.Outcome.next { s with hw := s.hw.bar2 _ } = _
  rw [Hw.bar2, if_pos barOpen, if_pos]
  simpa [or_assoc] using out

theorem exec_sqDoorbell_taken (enabled : (s.hw.qp q.toNat).enable = true)
    (ahead : (v.setWidth 32 - (s.hw.qp q.toNat).sqTail).toNat < 2 ^ 31)
    (fits : (v.setWidth 32 - (s.hw.qp q.toNat).sqHead).toNat ≤ (s.hw.qp q.toNat).sqSize) :
    ∃ new, exec (.sqDoorbell q v) s = .next { s with hw := s.hw.setQp q.toNat { s.hw.qp q.toNat with
      sqTail := v.setWidth 32, stamps := (s.hw.qp q.toNat).stamps ++ new } } := by
  have taken : (!(s.hw.qp q.toNat).enable || decide ((v.setWidth 32 - (s.hw.qp q.toNat).sqTail).toNat ≥ 2 ^ 31) ||
      decide ((v.setWidth 32 - (s.hw.qp q.toNat).sqHead).toNat > (s.hw.qp q.toNat).sqSize)) ≠ true := by
    simp only [enabled, Bool.not_true, Bool.false_or, ne_eq, Bool.or_eq_true, decide_eq_true_eq]
    omega
  exact ⟨_, act_eq ((if_pos barOpen).trans (if_neg taken))⟩

theorem exec_cqDoorbell_dropped (out : (s.hw.qp q.toNat).enable = false ∨
    (v.setWidth 32 - (s.hw.qp q.toNat).cqHead).toNat > (s.hw.qp q.toNat).cqFill) :
    exec (.cqDoorbell q v) s = .next { s with hw := s.hw.ringErr q.toNat 4 } := by
  change Host.Outcome.next { s with hw := s.hw.bar2 _ } = _
  rw [Hw.bar2, if_pos barOpen, if_pos]
  simpa using out

theorem exec_cqDoorbell_taken (enabled : (s.hw.qp q.toNat).enable = true)
    (written : (v.setWidth 32 - (s.hw.qp q.toNat).cqHead).toNat ≤ (s.hw.qp q.toNat).cqFill) :
    exec (.cqDoorbell q v) s = .next { s with
      hw := Hw.pumpCpls (s.hw.qp q.toNat).waiting.length
        (s.hw.setQp q.toNat { s.hw.qp q.toNat with cqHead := v.setWidth 32 }) q.toNat } := by
  change Host.Outcome.next { s with hw := s.hw.bar2 _ } = _
  rw [Hw.bar2, if_pos barOpen, if_neg]
  simpa [enabled] using written

end Doorbells

/-- Settles O59: a doorbell is judged by its queue pair alone; a discarded one leaves the error, a taken one the new index,
which completions that go out do not touch. -/
theorem doorbells : Obligations.Doorbells := by
  unfold Obligations.Doorbells
  intro s q v x n dropped barOpen _
  have error : dropped (.next { s with hw := s.hw.ringErr q.toNat 4 }) := by
    obtain ⟨count, eq⟩ := ringErr_doorbell s.hw q.toNat
    refine ⟨_, rfl, ?_⟩
    rw [eq]
    exact ⟨rfl, ringErr_raised _ _ _, rfl, rfl, rfl, rfl, ringErr_hostMem _ _ _⟩
  refine ⟨⟨fun out => ?sqOut, fun taken => ?sqIn⟩, ⟨fun out => ?cqOut, fun taken => ?cqIn⟩⟩
  case sqOut =>
    rw [exec_sqDoorbell_dropped barOpen q v out]
    exact error
  case sqIn =>
    simp only [not_or, Bool.not_eq_false, Nat.not_le, Nat.not_lt] at taken
    obtain ⟨enabled, ahead, fits⟩ := taken
    obtain ⟨new, eq⟩ := exec_sqDoorbell_taken barOpen q v enabled ahead fits
    exact ⟨_, eq, rfl, List.take_left⟩
  case cqOut =>
    rw [exec_cqDoorbell_dropped barOpen q v out]
    exact error
  case cqIn =>
    simp only [not_or, Bool.not_eq_false, Nat.not_lt] at taken
    obtain ⟨enabled, written⟩ := taken
    have kept := pumpCpls_driverSide x.waiting.length (s.hw.setQp q.toNat { x with cqHead := n }) q.toNat
    simp only [setQp_qp, if_pos, Prod.mk.injEq] at kept
    obtain ⟨head, tail, err⟩ := kept
    refine ⟨_, exec_cqDoorbell_taken barOpen q v enabled written, head, tail, err, fun idle => ?_⟩
    have none' : (s.hw.qp q.toNat).waiting.length = 0 := by rw [show (s.hw.qp q.toNat).waiting = [] from idle, List.length_nil]
    rw [none']
    rfl

end Sys2Proof.Machine
end

section
/-!
# A warden's report of a failed check (R325-R328, R340)

Each report remembers what failed in the attempts at its beat and opens the recovery of that beat; with four starts behind
the beat the recovery is an uncontained fault instead.
-/
namespace Sys2Proof.Machine

/-- A report has opened a recovery of beat `b` and touched no memory and no stroke state. -/
def Hw.Held (s t : Hw) (b : Nat × Nat) : Prop :=
  ∃ v, t.flt.recovery = some v ∧ v.hold = true ∧ (v.stroke, v.beat) = b ∧ t.mem = s.mem ∧ t.stk = s.stk

/-- A report that has changed neither memory nor strokes, and remembered only what failed, holds the beat in progress. -/
theorem openRecovery_holds {s u : Hw} (live : s.live = true) (runs : s.flt.stopAll = false) (none : s.flt.recovery = none)
    (starts : s.flt.starts < 4) (mem : u.mem = s.mem) (stk : u.stk = s.stk)
    (flt : (u.flt.stopAll, u.flt.recovery, u.flt.starts) = (s.flt.stopAll, s.flt.recovery, s.flt.starts)) (i : RecIn) (failed : Nat) :
    s.Held (u.openRecovery s.curBeat i failed) s.curBeat := by
  simp only [Prod.mk.injEq] at flt
  obtain ⟨stopAll, recovery, started⟩ := flt
  have beat : u.curBeat = s.curBeat := by rw [Hw.curBeat, stk, Hw.curBeat]
  obtain ⟨v, opened, names, hold⟩ := openRecovery_opens (s := u) ((live_of_stk stk).trans live) (stopAll.trans runs)
    (recovery.trans none) (started ▸ starts) i failed
  rw [beat] at opened names
  rw [opened]
  exact ⟨v, rfl, hold, names, mem, stk⟩

/-- The fifth start is uncontained. -/
theorem openRecovery_fifth {s : Hw} (live : s.live = true) (runs : s.flt.stopAll = false) (none : s.flt.recovery = none)
    (starts : s.flt.starts ≥ 4) (i : RecIn) (failed : Nat) :
    (s.openRecovery s.curBeat i failed).flt.uncontained = true ∧ (s.openRecovery s.curBeat i failed).flt.stopAll = true := by
  have fifth : s.startsOf s.curBeat ≥ 4 := by simpa [Hw.startsOf] using starts
  have eq : s.openRecovery s.curBeat i failed = s.uncontain { i with beat := s.curBeat.2 } := by
    simp only [Hw.openRecovery, live, runs, none, if_pos fifth, Bool.not_true, Bool.false_eq_true, if_false]
  rw [eq]
  exact ⟨(uncontain_reports _ _).2, (uncontain_stops live _).1⟩

/-- The first error symbol of a core in the attempts at a beat. -/
theorem reportSymbol_first {s : Hw} {c : Nat} (fresh : (s.stk.workStroke, s.stk.beat, c) ∉ s.flt.seenSym) (addr : Nat) :
    ∃ cores seen i, s.reportSymbol c addr =
      ({ s with cores := cores, flt := { s.flt with seenSym := seen } } : Hw).openRecovery s.curBeat i s.now :=
  ⟨_, _, _, if_neg (by simpa [Hw.onCore] using fresh)⟩

/-- A flit that names the beat in progress. -/
theorem namedBeat_cur {s : Hw} {beat stroke : Nat} (here : s.stk.beat = beat) (low : s.stk.workStroke % 4 = stroke) :
    s.namedBeat beat stroke = some s.curBeat :=
  List.find?_cons_of_pos (by simp [Hw.curBeat, here, low])

/-- The first flit error of the beat in progress at its router or bus. -/
theorem reportFlit_first {s : Hw} {beat stroke : Nat} (live : s.live = true) (here : s.stk.beat = beat)
    (low : s.stk.workStroke % 4 = stroke) (fresh : ∀ x ∈ s.flt.seenPort, (x.1, x.2.1) ≠ s.curBeat) (f b k : Nat) (express : Bool)
    (port : Nat) : ∃ seen i, s.reportFlit f b k express port beat stroke =
      ({ s with flt := { s.flt with seenPort := seen } } : Hw).openRecovery s.curBeat i s.now := by
  unfold Hw.reportFlit
  simp only [live, Bool.not_true, Bool.false_eq_true, if_false, namedBeat_cur here low]
  exact ⟨_, _, if_neg fun seen => fresh _ (List.contains_iff_mem.1 seen) rfl⟩

/-- The first failure of a line that the beat in progress reads. -/
theorem reportLine_first {s : Hw} {f w line : Nat} (reader : s.lineReader f w line = s.curBeat)
    (fresh : (s.curBeat.1, s.curBeat.2, lineKey f w line) ∉ s.flt.badLines) : ∃ bad i, s.reportLine f w line =
      ({ s with flt := { s.flt with badLines := bad } } : Hw).openRecovery s.curBeat i s.now := by
  have open' : s.uncommittedBeat s.curBeat = true := by simp [Hw.uncommittedBeat]
  unfold Hw.reportLine
  simp only [reader, open', Bool.not_true, Bool.and_false, Bool.false_eq_true, if_false]
  exact ⟨_, _, if_neg fun bad => fresh (List.contains_iff_mem.1 bad)⟩

/-- Settles O13: each report opens its recovery with the fault path's other fields as they were. -/
theorem faultReports : Obligations.FaultReports := by
  unfold Obligations.FaultReports
  intro s opens live runs none
  have held {d : Detection} {h : Hw} (run : exec (.faultReport d) s = .next { s with hw := h })
      (kept : s.hw.Held h s.hw.curBeat) : opens d s.hw.curBeat := by
    obtain ⟨v, kept⟩ := kept
    exact ⟨_, v, run, kept⟩
  have symbol (c : CoreId) (addr : W16) (ok : coreOk c.toNat = true) :
      exec (.faultReport (.sramCrc c addr)) s = .next { s with hw := s.hw.reportSymbol c.toNat addr.toNat } :=
    act_eq (if_pos ok)
  refine ⟨fun starts => ⟨fun c addr ok fresh => held (symbol c addr ok) ?symbol,
    fun f b k e p stroke fresh short low => ?flit, fun f w l reader fresh => ?line⟩, fun starts c addr ok fresh => ?fifth⟩
  case symbol =>
    obtain ⟨cores, seen, i, eq⟩ := reportSymbol_first fresh addr.toNat
    rw [eq]
    refine openRecovery_holds live runs none starts ?_ ?_ ?_ _ _
    all_goals rfl
  case flit =>
    have here : s.hw.stk.beat = (BitVec.ofNat 12 s.hw.stk.beat).toNat := by
      rw [BitVec.toNat_ofNat, Nat.mod_eq_of_lt short]
    obtain ⟨seen, i, eq⟩ := reportFlit_first live here low fresh f.val b.val k.val e p.toNat
    refine held (h := s.hw.reportFlit f.val b.val k.val e p.toNat (BitVec.ofNat 12 s.hw.stk.beat).toNat stroke.toNat) rfl ?_
    rw [eq]
    refine openRecovery_holds live runs none starts ?_ ?_ ?_ _ _
    all_goals rfl
  case line =>
    obtain ⟨bad, i, eq⟩ := reportLine_first reader fresh
    refine held (h := s.hw.reportLine f.val (b2n w) l.toNat) rfl ?_
    rw [eq]
    refine openRecovery_holds live runs none starts ?_ ?_ ?_ _ _
    all_goals rfl
  case fifth =>
    obtain ⟨cores, seen, i, eq⟩ := reportSymbol_first fresh addr.toNat
    refine ⟨_, symbol c addr ok, ?_⟩
    rw [eq]
    exact openRecovery_fifth (s := { s.hw with cores := cores, flt := { s.hw.flt with seenSym := seen } })
      live runs none starts i s.hw.now

end Sys2Proof.Machine
end

section
/-!
# What span traffic leaves alone, and the Gweku's restart (R341, R385, R405, R407, R410, R411)

A store to span space, here or on its way to another rank, touches the memory, the ports, the arbiters, the copies under way
and the fault path; the units of the firmware and the cores are beside it.
-/
namespace Sys2Proof.Machine

/-! ## Span traffic -/

/-- Units beside span memory: readiness, mailbox, cores, fields, power. -/
abbrev Hw.besideSpan (s : Hw) := (s.glb, s.mbx, s.cores, s.flds, s.pwr, s.tst)

theorem foldl_besideSpan {α : Type} {f : Hw → α → Hw} (step : ∀ s x, (f s x).besideSpan = s.besideSpan) (l : List α) (s : Hw) :
    (l.foldl f s).besideSpan = s.besideSpan :=
  l.foldlRecOn f (motive := fun t : Hw => t.besideSpan = s.besideSpan) rfl fun t same x _ => (step t x).trans same

theorem record_besideSpan (s : Hw) (i : RecIn) : (s.record i).besideSpan = s.besideSpan := by
  simp only [Hw.besideSpan, record_glb, record_mbx, record_cores, record_flds, record_pwr, record_tst]

theorem raise_besideSpan (s : Hw) (n : Nat) : (s.raise n).besideSpan = s.besideSpan := by
  simp only [Hw.besideSpan, raise_glb, raise_mbx, raise_cores, raise_flds, raise_pwr, raise_tst]

theorem leashDrop_besideSpan (s : Hw) (p : Nat) (recorded : Bool) (header : List Byte) :
    (s.leashDrop p recorded header).besideSpan = s.besideSpan := by
  unfold Hw.leashDrop
  dsimp only
  split
  · rw [record_besideSpan, raise_besideSpan]
  · rfl

theorem sendPort_besideSpan (s : Hw) (p : Nat) (m : LMsg) : (s.sendPort p m).besideSpan = s.besideSpan := by
  rw [Hw.sendPort, Hw.sendPortAt]
  obtain ⟨arbs, same⟩ := arbRaise_arbs (s.onPort p fun x => { x with egress := x.egress ++ [(legrInput m, m.frames, m)] })
    (portField p) 2 (portSite p) (legrInput m) m.frames
  rw [same]
  rfl

theorem sendRank_besideSpan (s : Hw) (rank : W16) (m : LMsg) : (s.sendRank rank m).besideSpan = s.besideSpan := by
  unfold Hw.sendRank
  split
  · exact leashDrop_besideSpan ..
  · exact sendPort_besideSpan ..

theorem noHome_besideSpan (s : Hw) (src off n access : Nat) : (s.noHome src off n access).besideSpan = s.besideSpan := by
  unfold Hw.noHome
  split
  · exact record_besideSpan ..
  · rfl

theorem spanStore_besideSpan (s : Hw) (src off : Nat) (bs : List Byte) : (s.spanStore src off bs).1.besideSpan = s.besideSpan := by
  by_cases good : s.spanStatus src off bs.length = 0
  · obtain ⟨arbs, tng, same⟩ := spanStore_good good
    rw [same]
  · simp only [Hw.spanStore, if_neg good]
    exact noHome_besideSpan ..

theorem writeSpan_besideSpan (s : Hw) (e addr : Nat) (bs : List Byte) : (s.writeSpan e addr bs).besideSpan = s.besideSpan := by
  unfold Hw.writeSpan
  split
  · exact List.foldlRecOn _ _ (motive := fun t : Hw × SpanStatus => t.1.besideSpan = s.besideSpan) rfl
      fun t same p _ => (spanStore_besideSpan t.1 _ p.1 _).trans same
  · exact foldl_besideSpan (fun _ _ => sendRank_besideSpan ..) _ s

/-! ## A long operation that a restart ends (R385) -/

theorem foldl_onFld_mbx (fs : List Nat) (f : Nat → Field → Field) (s : Hw) :
    (fs.foldl (fun s n => s.onFld n (f n)) s).mbx = s.mbx :=
  fs.foldlRecOn _ (motive := fun t : Hw => t.mbx = s.mbx) rfl fun _ same _ _ => same

/-- No operation is left at work. -/
theorem endLong_mbx (s : Hw) : s.endLong.mbx = { s.mbx with long := none, progDone := 0, progTotal := 0 } := by
  unfold Hw.endLong
  dsimp only
  split
  · rfl
  · exact foldl_onFld_mbx _ _ _
  · exact congrArg (·.2.1) (writeSpan_besideSpan ..)
  · rfl

theorem gwekuDown_mbx (s : Hw) : s.gwekuDown.mbx = { s.mbx with
    long := none, progDone := 0, progTotal := 0, state := .offline, version := 0
    interrupted := s.mbx.interrupted || (decide (s.mbx.state = .running) || decide (s.mbx.state = .busy)) } := by
  unfold Hw.gwekuDown
  dsimp only
  rw [endLong_mbx]

theorem exec_gwekuWatchdog {s : State} (up : s.hw.glb.gweku = true) :
    exec .gwekuWatchdog s = .next { s with hw := s.hw.gwekuDown } := by
  have call : exec .gwekuWatchdog s = execGwekuWatchdog s := rfl
  rw [call, execGwekuWatchdog]
  exact act_eq (if_pos up)

/-- With no long operation the firmware going down changes the readiness and the mailbox alone. -/
theorem gwekuDown_of_none {s : Hw} (long : s.mbx.long = none) :
    s.gwekuDown = { s with glb := s.gwekuDown.glb, mbx := s.gwekuDown.mbx } := by
  rw [Hw.gwekuDown, endLong_of_none long]

/-! ## The flash and the logs (R407, R410, R411) -/

theorem exec_logsRecovered {s : State} (up : s.hw.glb.gweku = true) (logs : s.hw.glb.logs = false) :
    exec .logsRecovered s = .next { s with
      hw := { (if s.hw.glb.retained then s.hw else s.hw.pointersAt s.hw.flash.faultFlashed s.hw.flash.trailFlashed) with
        glb := { s.hw.glb with logs := true } } } := by
  have call : exec .logsRecovered s = execLogsRecovered s := rfl
  rw [call, execLogsRecovered]
  refine act_eq ((if_neg (by simp [up, logs])).trans ?_)
  dsimp only
  split <;> rfl

/-! ## The end of a restart (R341, R385) -/

theorem bootGweku_restarting (s : Hw) : s.bootGweku.mbx.version = 0 ∧ s.bootGweku.glb.restarting = s.glb.restarting := by
  unfold Hw.bootGweku
  split <;> exact ⟨rfl, rfl⟩

theorem startTests_restarting (s : Hw) (fs : List Nat) :
    ((s.startTests fs).glb.restarting, (s.startTests fs).flt) = (s.glb.restarting, s.flt) :=
  fs.foldlRecOn (fun s f => (s.onFld f Field.toTest).unready f)
    (motive := fun t : Hw => (t.glb.restarting, t.flt) = (s.glb.restarting, s.flt)) rfl fun _ same _ _ => same

/-- The firmware as it has booted at the end of a restart. -/
def Hw.rebooted (s : Hw) : Hw := ({ s with glb := { s.glb with restarting := false } } : Hw).bootGweku

/-- The flag of the error summary that a restart sets. -/
def Hw.restartMarked (s : Hw) : Hw := { s with flt := { s.flt with gwekuRestarted := true } }

/-- GWEKU_RESET is written. -/
def Hw.restartNoted (s : Hw) (ns : Nat) : Hw := (s.record { cls := 0x0B, data := dat [ns] }).restartMarked

/-- A command that the restart has ended is answered NOT_READY. -/
def Hw.lateAnswer (s : Hw) : Hw :=
  if s.mbx.interrupted then ({ s with mbx := { s.mbx with interrupted := false } } : Hw).respond { status := mbNotReady } else s

theorem exec_gwekuRestartDone {s : State} (restarting : s.hw.glb.restarting = true) :
    exec .gwekuRestartDone s = .next { s with hw := if s.hw.rebooted.glb.gweku = true then
      ((s.hw.rebooted.restartNoted (nsOf (s.hw.now - s.hw.glb.restartAt))).lateAnswer).testAgain else s.hw.rebooted } := by
  have call : exec .gwekuRestartDone s = execGwekuRestartDone s := rfl
  rw [call, execGwekuRestartDone]
  refine act_eq ((if_neg (by simp [restarting])).trans ?_)
  change (if !s.hw.rebooted.glb.gweku then s.hw.rebooted else _) = _
  by_cases up : s.hw.rebooted.glb.gweku = true
  · rw [if_pos up, if_neg (by simp [up])]
    rfl
  · rw [if_neg up, if_pos (by simpa using up)]

/-- What the end of a restart leaves: the restart is over, the mailbox has no version, and the strokes go on. -/
structure Restarted (s t : Hw) : Prop where
  ended : t.glb.restarting = false
  gweku : t.glb.gweku = s.boots
  version : t.mbx.version = 0
  state : t.mbx.state = if s.boots then .idle else .offline
  num : t.stk.num = s.stk.num

theorem rebooted_restarted (s : Hw) : Restarted s s.rebooted := by
  obtain ⟨cold, gweku, state⟩ := bootGweku_boots { s with glb := { s.glb with restarting := false } }
  obtain ⟨version, restarting⟩ := bootGweku_restarting { s with glb := { s.glb with restarting := false } }
  exact ⟨restarting, gweku, version, state, congrArg (·.2.2.1.num) cold⟩

theorem restartMarked_restarted {s t : Hw} (h : Restarted s t) : Restarted s t.restartMarked ∧ t.restartMarked.flt.gwekuRestarted = true :=
  ⟨⟨h.ended, h.gweku, h.version, h.state, h.num⟩, rfl⟩

theorem restartNoted_restarted {s t : Hw} (h : Restarted s t) (ns : Nat) :
    Restarted s (t.restartNoted ns) ∧ (t.restartNoted ns).flt.gwekuRestarted = true := by
  refine restartMarked_restarted ⟨?_, ?_, ?_, ?_, ?_⟩
  · rw [record_glb]; exact h.ended
  · rw [record_glb]; exact h.gweku
  · rw [record_mbx]; exact h.version
  · rw [record_mbx]; exact h.state
  · rw [(record_reports t _).num]; exact h.num

theorem lateAnswer_restarted {s t : Hw} (h : Restarted s t) (boots : s.boots = true) :
    Restarted s t.lateAnswer ∧ t.lateAnswer.flt = t.flt := by
  unfold Hw.lateAnswer Hw.respond
  split
  · refine ⟨⟨?_, ?_, ?_, ?_, ?_⟩, raise_flt ..⟩
    · rw [raise_glb]; exact h.ended
    · rw [raise_glb]; exact h.gweku
    · rw [raise_mbx]; exact h.version
    · rw [raise_mbx, if_pos boots]
    · rw [raise_stk]; exact h.num
  · exact ⟨h, rfl⟩

theorem startTests_restarted {s t : Hw} (h : Restarted s t) (fs : List Nat) :
    Restarted s (t.startTests fs) ∧ (t.startTests fs).flt = t.flt := by
  obtain ⟨cold, mbx, gweku⟩ := startTests_boot t fs
  have same := startTests_restarting t fs
  refine ⟨⟨?_, gweku.trans h.gweku, mbx ▸ h.version, mbx ▸ h.state, (congrArg (·.2.2.1.num) cold).trans h.num⟩, congrArg Prod.snd same⟩
  exact (congrArg Prod.fst same).trans h.ended

/-- Settles O44: the firmware going down, what becomes ready, and the end of a restart with the image that may start. -/
theorem gwekuRestart : Obligations.GwekuRestart := by
  unfold Obligations.GwekuRestart
  intro s h boots
  refine ⟨fun up => ⟨?down, fun long => ?alone, ?flash, fun logs => ?logs⟩, fun restarting => ?restart⟩
  case down =>
    refine ⟨_, exec_gwekuWatchdog up, rfl, rfl, ?_⟩
    rw [show s.hw.gwekuDown.mbx = _ from gwekuDown_mbx s.hw]
    exact ⟨rfl, rfl, rfl⟩
  case alone =>
    refine ⟨_, exec_gwekuWatchdog up, congrArg (fun h => { s with hw := h }) (gwekuDown_of_none long), fun running => ?_⟩
    rw [show s.hw.gwekuDown.mbx = _ from gwekuDown_mbx s.hw]
    simp [show s.hw.mbx.state = _ from running]
  case flash =>
    have call : exec .flashMounted s = execFlashMounted s := rfl
    rw [call, execFlashMounted]
    exact act_eq (if_pos up)
  case logs =>
    refine ⟨_, exec_logsRecovered up logs, rfl, fun lost => ?_, fun kept => ?_⟩
    · rw [show s.hw.glb.retained = false from lost]
      exact ⟨rfl, rfl, rfl⟩
    · rw [show s.hw.glb.retained = true from kept]
      rfl
  case restart =>
    refine ⟨_, exec_gwekuRestartDone restarting, ?_⟩
    have booted := rebooted_restarted s.hw
    split
    case isTrue up =>
      have starts : s.hw.boots = true := booted.gweku.symm.trans up
      obtain ⟨noted, mark⟩ := restartNoted_restarted booted (nsOf (s.hw.now - s.hw.glb.restartAt))
      obtain ⟨answered, flt⟩ := lateAnswer_restarted noted starts
      obtain ⟨tested, fltAfter⟩ : Restarted s.hw (Hw.testAgain _) ∧ _ := startTests_restarted answered _
      refine ⟨tested.ended, tested.gweku, tested.version, tested.state, fun _ => ?_, tested.num⟩
      exact (congrArg (·.gwekuRestarted) (fltAfter.trans flt)).trans mark
    case isFalse down =>
      refine ⟨booted.ended, booted.gweku, booted.version, booted.state, fun starts => ?_, booted.num⟩
      exact absurd (booted.gweku.trans starts) down

end Sys2Proof.Machine
end

section
/-!
# What span engines leave of the hearth's block, and how boundary actions start (R24-R26)

Settling the boundary actions counts no ramp: that is left to the end of a ramp. What the driver asked for and what the
hearth asks for stand in one list, from which `runActions` starts what no earlier one holds back.
-/
namespace Sys2Proof.Machine

/-! ## Span engines beside the hearth -/

theorem besideSpan_pwr {s t : Hw} (same : t.besideSpan = s.besideSpan) : t.pwr = s.pwr := congrArg (·.2.2.2.2.1) same

theorem foldl_pwr {α : Type} {f : Hw → α → Hw} (step : ∀ s x, (f s x).pwr = s.pwr) (l : List α) (s : Hw) :
    (l.foldl f s).pwr = s.pwr :=
  l.foldlRecOn f (motive := fun t : Hw => t.pwr = s.pwr) rfl fun t same x _ => (step t x).trans same

theorem ite_pwr {p : Prop} [Decidable p] {s t u : Hw} (h : t.pwr = s.pwr) (g : u.pwr = s.pwr) : (if p then t else u).pwr = s.pwr := by
  split
  · exact h
  · exact g

theorem unitTraffic_besideSpan (s : Hw) (block off n : Nat) (read : Bool) :
    (s.unitTraffic block off n read).besideSpan = s.besideSpan := by
  obtain ⟨arbs, same⟩ := unitTraffic_arbs s block off n read
  rw [same]

theorem spanLoad_besideSpan (s : Hw) (src off n : Nat) : (s.spanLoad src off n).1.besideSpan = s.besideSpan := by
  unfold Hw.spanLoad
  dsimp only
  split
  · exact unitTraffic_besideSpan ..
  · exact noHome_besideSpan ..

theorem markDirty_besideSpan (s : Hw) (off n : Nat) : (s.markDirty off n).besideSpan = s.besideSpan := by
  obtain ⟨arbs, tng, same⟩ := markDirty_frame s off n
  rw [same]

theorem atomicApply_besideSpan (s : Hw) (a : AtomicReq) : (s.atomicApply a).1.besideSpan = s.besideSpan := by
  unfold Hw.atomicApply
  split
  · rfl
  split
  · rfl
  dsimp only
  split
  · exact noHome_besideSpan ..
  · change (Hw.markDirty _ _ _).besideSpan = _
    rw [markDirty_besideSpan, unitTraffic_besideSpan, unitTraffic_besideSpan]

theorem windowDone_pwr (s : Hw) (r : SpanReq) (status : Nat) (data : List Byte) : (s.windowDone r status data).pwr = s.pwr :=
  ite_pwr (ite_pwr rfl rfl) (ite_pwr (t := { s with readData := _ }) rfl rfl)

theorem spanFault_pwr (s : Hw) (r : SpanReq) (status : Nat) : (s.spanFault r status).pwr = s.pwr := by
  unfold Hw.spanFault
  dsimp only
  split
  · rw [record_pwr, raise_pwr]
  split
  · rw [record_pwr, raise_pwr]
  · rfl

theorem runFences_pwr (s : Hw) (e : Nat) : (s.runFences e).pwr = s.pwr :=
  foldl_pwr (f := fun (t : Hw) (f : Fence) => if f.covers.isEmpty then t.onCore f.core fun c => c.fenceDone f else t)
    (fun _ _ => ite_pwr rfl rfl) _ s

theorem spanComplete_pwr (s : Hw) (e : Nat) (r : SpanReq) (status : Nat) (data : List Byte) (old : W64) :
    (s.spanComplete e r status data old).pwr = s.pwr := by
  unfold Hw.spanComplete
  dsimp only
  rw [runFences_pwr, spanFault_pwr]
  exact ite_pwr (windowDone_pwr ..) rfl

theorem sendLoan_pwr (s : Hw) (e : Nat) (r : SpanReq) (addr : Nat) : (s.sendLoan e r addr).pwr = s.pwr := by
  have dead (t : Hw) (same : t.pwr = s.pwr) (x : Spn) : ({ t with spn := x } : Hw).pwr = s.pwr := same
  unfold Hw.sendLoan
  dsimp only
  split
  · exact dead _ (spanComplete_pwr ..) _
  split
  · exact dead _ (spanComplete_pwr ..) _
  split
  · exact besideSpan_pwr (leashDrop_besideSpan ..)
  · exact besideSpan_pwr (s := s.setReq e _) (sendPort_besideSpan ..)

theorem serveOwn_pwr (s : Hw) (e : Nat) (r : SpanReq) : (s.serveOwn e r).pwr = s.pwr := by
  unfold Hw.serveOwn
  dsimp only
  split
  · rw [sendLoan_pwr]
    exact ite_pwr (besideSpan_pwr (spanStore_besideSpan ..)) rfl
  split
  · rw [spanComplete_pwr]
    exact besideSpan_pwr (spanLoad_besideSpan ..)
  split
  · rw [spanComplete_pwr]
    exact besideSpan_pwr (spanStore_besideSpan ..)
  · rw [spanComplete_pwr]
    exact besideSpan_pwr (atomicApply_besideSpan ..)

theorem sendReq_pwr (s : Hw) (e : Nat) (r : SpanReq) : (s.sendReq e r).pwr = s.pwr := by
  unfold Hw.sendReq
  dsimp only
  split
  · exact spanComplete_pwr ..
  split
  · exact spanComplete_pwr ..
  split
  · exact serveOwn_pwr ..
  split
  · exact besideSpan_pwr (s := s.setReq e _) (leashDrop_besideSpan ..)
  · exact besideSpan_pwr (s := s.setReq e _) (sendPort_besideSpan ..)

theorem leave_pwr (s : Hw) (e : Nat) (r : SpanReq) : (s.leave e r).pwr = s.pwr := by
  unfold Hw.leave
  dsimp only
  split
  · exact serveOwn_pwr ..
  · exact sendReq_pwr ..

theorem runEngine_pwr (s : Hw) (e : Nat) (flags : Bool) : (s.runEngine e flags).pwr = s.pwr := by
  refine foldl_pwr (fun t r => ?_) _ s
  dsimp only
  split
  · rfl
  · exact ite_pwr rfl (leave_pwr ..)

theorem runEngines_pwr (s : Hw) : s.runEngines.pwr = s.pwr := foldl_pwr (fun _ _ => ite_pwr rfl (runEngine_pwr ..)) _ s

/-! ## The count of ramps -/

/-- How many ramps have ended (R349). -/
abbrev Hw.ramps (s : Hw) := s.pwr.rampCount

theorem ramps_of_pwr {s t : Hw} (same : t.pwr = s.pwr) : t.ramps = s.ramps := congrArg (·.rampCount) same

theorem foldl_ramps {α : Type} {f : Hw → α → Hw} (step : ∀ s x, (f s x).ramps = s.ramps) (l : List α) (s : Hw) :
    (l.foldl f s).ramps = s.ramps :=
  l.foldlRecOn f (motive := fun t : Hw => t.ramps = s.ramps) rfl fun t same x _ => (step t x).trans same

theorem ite_ramps {p : Prop} [Decidable p] {s t u : Hw} (h : t.ramps = s.ramps) (g : u.ramps = s.ramps) :
    (if p then t else u).ramps = s.ramps := by
  split
  · exact h
  · exact g

theorem pumpRamps_ramps (s : Hw) : s.pumpRamps.ramps = s.ramps := by
  refine foldl_ramps (fun t e => ?_) _ s
  exact ite_ramps rfl rfl

theorem rampTo_ramps (s : Hw) (f w : Nat) : (s.rampTo f w).ramps = s.ramps := pumpRamps_ramps _

theorem startField_ramps (s : Hw) (d f : Nat) : (s.startField d f).ramps = s.ramps := by
  have exceeded : (if (s.fld f).ballast + s.workPower f ≥ d then s
      else (({ s with pwr := { s.pwr with rampExceeded := true } } : Hw).raise 39).record
        { cls := 0x46, loc := locField f, data := dat [f, d, (s.fld f).ballast + s.workPower f] }).ramps = s.ramps := by
    refine ite_ramps rfl ?_
    rw [Hw.ramps, record_pwr, raise_pwr]
  exact ite_ramps rfl (ite_ramps exceeded ((rampTo_ramps ..).trans exceeded))

theorem catchUp_pwr (s : Hw) (f : Nat) : (s.catchUp f).pwr = s.pwr := by
  unfold Hw.catchUp
  extract_lets copy s1 s2 s3
  have copied (u : Hw) (off n : Nat) : (copy u off n).pwr = u.pwr := rfl
  clear_value copy
  have h1 : s1.pwr = s.pwr := by
    simp only [s1]
    split
    · rw [copied, copied, copied]
    · rfl
  have h2 : s2.pwr = s1.pwr := by
    simp only [s2]
    split
    · rw [copied, copied, copied]
    · rfl
  have h3 : s3.pwr = s2.pwr := by
    refine foldl_pwr (fun u r => ?_) _ s2
    dsimp only
    split
    · rw [copied, copied]
    · exact copied ..
  refine Eq.trans ?_ ((h3.trans h2).trans h1)
  split
  · exact copied ..
  · rfl

theorem reloadField_pwr (s : Hw) (f : Nat) : (s.reloadField f).pwr = s.pwr := by
  unfold Hw.reloadField
  split
  · rfl
  · refine (foldl_pwr (fun t e => ?_) _ _).trans rfl
    rfl

theorem prkFinal_ramps (s : Hw) (p : Prop) [Decidable p] (status : BitVec 2) :
    (if p then s.prkFinal status else s).ramps = s.ramps := ite_ramps rfl rfl

theorem parkRecord_ramps (s : Hw) (f : Nat) (deep unpark driver : Bool) : (s.parkRecord f deep unpark driver).ramps = s.ramps :=
  ramps_of_pwr (record_pwr ..)

theorem actionDone_ramps {s t : Hw} {a : BAction} (h : s.actionDone a = some t) : t.ramps = s.ramps := by
  unfold Hw.actionDone at h
  obtain ⟨-, h⟩ := Option.ite_none_left_eq_some.1 h
  split at h
  case h_1 | h_2 =>
    obtain ⟨-, h⟩ := Option.ite_none_left_eq_some.1 h
    obtain rfl := Option.some.inj h
    rw [prkFinal_ramps, parkRecord_ramps]
    rfl
  case h_3 f _ =>
    obtain ⟨-, h⟩ := Option.ite_none_left_eq_some.1 h
    obtain rfl := Option.some.inj h
    rw [prkFinal_ramps, parkRecord_ramps, startField_ramps, ramps_of_pwr (reloadField_pwr ..)]
    exact ite_ramps (ramps_of_pwr (catchUp_pwr ..)) rfl
  case h_4 => cases h

theorem actionStarts_ramps (s : Hw) (a : BAction) : (s.actionStarts a).ramps = s.ramps := by
  unfold Hw.actionStarts
  split
  · exact rampTo_ramps ..
  · rfl
  · exact rampTo_ramps ..
  · rfl

theorem runActions_ramps (s : Hw) : s.runActions.ramps = s.ramps := by
  have dropped : s.dropUnfit.ramps = s.ramps := prkFinal_ramps ..
  exact (foldl_ramps actionStarts_ramps _ _).trans dropped

theorem startRingTests_ramps (s : Hw) : s.startRingTests.ramps = s.ramps := by
  refine foldl_ramps (fun t a => ?_) _ s
  split
  · exact ite_ramps rfl rfl
  · rfl

theorem completeActions_ramps (s : Hw) : s.completeActions.ramps = s.ramps := by
  refine foldl_ramps (fun t a => ?_) _ s
  split
  · next u h => exact (show u.ramps = t.ramps from actionDone_ramps h)
  · rfl

theorem settleActions_ramps (s : Hw) : s.settleActions.ramps = s.ramps := by
  rw [settleActions_eq, ramps_of_pwr (runEngines_pwr _), runActions_ramps, completeActions_ramps, startRingTests_ramps]

end Sys2Proof.Machine
end

section
/-!
# Requests for a field's power, and the end of a ramp (R349, R360-R365)
-/
namespace Sys2Proof.Machine

/-! ## The driver's requests -/

theorem act_bar0_to {s : State} (bar : s.hw.barOpen = true) {k : Hw → Hw} {t : Hw}
    (effect : k { s.hw with tst := { s.hw.tst with armedKey := false } } = t) :
    s.act (fun x => x.bar0 k) = .next { s with hw := t } := effect ▸ act_bar0_of_open bar k

theorem submitPark_pending {s : Hw} (pending : s.pwr.prkStatus = 1) (op : BitVec 2) (f : BitVec 6) (n : BitVec 36) :
    s.submitPark op f n = s := if_pos pending

theorem submitPark_stands {s : Hw} (free : s.pwr.prkStatus ≠ 1) {op : BitVec 2} (asks : op ≠ 0) {f : BitVec 6}
    (exists' : f.toNat < 48) (n : BitVec 36) :
    s.submitPark op f n = { s with pwr := { s.pwr with
      prkOp := op, prkField := f, prkStroke := n, prkDone := false, prkStatus := 1 } } := by
  unfold Hw.submitPark
  rw [if_neg free, if_neg asks, if_neg (by omega)]

theorem submitPark_refused {s : Hw} (free : s.pwr.prkStatus ≠ 1) {op : BitVec 2} (asks : op ≠ 0) {f : BitVec 6}
    (noField : 48 ≤ f.toNat) (n : BitVec 36) :
    s.submitPark op f n = { s with pwr := { s.pwr with
      prkOp := op, prkField := f, prkStroke := n, prkDone := true, prkStatus := 3 } } := by
  unfold Hw.submitPark
  rw [if_neg free, if_neg asks, if_pos noField]
  rfl

/-! ## What is asked for stands in the list -/

theorem mem_placeAction (now : Nat) (as : List BAction) (a : BAction) : { a with asked := now } ∈ placeAction now as a := by
  simp [placeAction]

theorem mem_startActions_of_mem {orders : BAction → Bool} {as : List BAction} {a : BAction} (h : a ∈ as) :
    a ∈ startActions orders as ∨ a.begun ∈ startActions orders as := by
  have key (as done : List BAction) (h : a ∈ as ∨ a ∈ done ∨ a.begun ∈ done) :
      a ∈ as.foldl (fun done a => if a.started || done.any (a.conflicts ·) || !orders a then done ++ [a] else done ++ [a.begun]) done ∨
        a.begun ∈ as.foldl (fun done a =>
          if a.started || done.any (a.conflicts ·) || !orders a then done ++ [a] else done ++ [a.begun]) done := by
    induction as generalizing done with
    | nil => simpa using h
    | cons b bs ih =>
      refine ih _ ?_
      dsimp only
      rcases h with h | h | h
      · rcases List.mem_cons.1 h with rfl | later
        · right
          split
          · exact .inl (by simp)
          · exact .inr (by simp)
        · exact .inl later
      · right
        left
        split <;> exact List.mem_append_left _ h
      · right
        right
        split <;> exact List.mem_append_left _ h
  exact key as [] (.inl h)

theorem unpark_fits (s : Hw) {a : BAction} {f : Nat} (unparks : a.act = .unpark f) : s.unfit a = false := by
  simp [Hw.unfit, unparks]

theorem mem_dropUnfit {s : Hw} {a : BAction} (h : a ∈ s.flt.actions) (fits : s.unfit a = false) :
    a ∈ s.dropUnfit.flt.actions := by
  have stays (t : Hw) (same : t.flt = s.flt) : a ∈ t.flt.actions.filter fun b => !(s.flt.actions.filter s.unfit).contains b := by
    rw [same]
    refine List.mem_filter.2 ⟨h, ?_⟩
    simp [fits]
  unfold Hw.dropUnfit
  refine stays _ ?_
  split <;> rfl

theorem pumpRamps_flt (s : Hw) : s.pumpRamps.flt = s.flt := by
  refine List.foldlRecOn _ _ (motive := fun t : Hw => t.flt = s.flt) rfl fun t same e _ => ?_
  dsimp only
  split
  · exact same
  · exact same

theorem actionStarts_flt (s : Hw) (a : BAction) : (s.actionStarts a).flt = s.flt := by
  unfold Hw.actionStarts
  split
  · exact pumpRamps_flt _
  · rfl
  · exact pumpRamps_flt _
  · rfl

theorem foldl_actionStarts_flt (l : List BAction) (s : Hw) : (l.foldl (fun s a => s.actionStarts a) s).flt = s.flt :=
  l.foldlRecOn _ (motive := fun t : Hw => t.flt = s.flt) rfl fun t same b _ => (actionStarts_flt t b).trans same

/-- What has been placed and fits is in the list when the actions have been run: as it was, or begun. -/
theorem mem_runActions {s : Hw} {a : BAction} (h : a ∈ s.flt.actions) (fits : s.unfit a = false) :
    a ∈ s.runActions.flt.actions ∨ a.begun ∈ s.runActions.flt.actions := by
  unfold Hw.runActions
  dsimp only
  rw [foldl_actionStarts_flt]
  exact mem_startActions_of_mem (mem_dropUnfit h fits)

/-- An unpark is alone in the list: it starts, where its orders arrive. -/
theorem runActions_alone {s : Hw} {a : BAction} {f : Nat} (alone : s.flt.actions = [a]) (unparks : a.act = .unpark f)
    (waits : a.started = false) (arrive : s.orders a = true) :
    s.runActions = Hw.actionStarts { s with flt := { s.flt with actions := [a.begun] } } a.begun := by
  have dropped : s.dropUnfit = s := by
    have none' : s.flt.actions.filter s.unfit = [] := by simp [alone, unpark_fits s unparks]
    simp [Hw.dropUnfit, none']
  have starts : startActions s.orders s.flt.actions = [a.begun] := by simp [startActions, alone, waits, arrive, BAction.begun]
  unfold Hw.runActions
  rw [dropped]
  dsimp only
  rw [starts, alone]
  simp [waits, BAction.begun]

/-! ## Fields and ramps -/

theorem rampStarts_fld (s : Hw) (f w n : Nat) (q : Pwr) :
    let t : Hw := { s.onFld f fun x => { x with ramping := true, target := w } with pwr := q }
    ((t.fld n).park, (t.fld n).state, (t.fld n).coreOn) = ((s.fld n).park, (s.fld n).state, (s.fld n).coreOn) := by
  intro t
  have taken : t.fld n = (s.onFld f fun x => { x with ramping := true, target := w }).fld n := rfl
  rw [taken, onFld_fld]
  split <;> rfl

/-- A ramp that starts leaves a field's state and its park. -/
theorem pumpRamps_fld (s : Hw) (n : Nat) :
    ((s.pumpRamps.fld n).park, (s.pumpRamps.fld n).state, (s.pumpRamps.fld n).coreOn) =
      ((s.fld n).park, (s.fld n).state, (s.fld n).coreOn) := by
  refine List.foldlRecOn _ _
    (motive := fun t : Hw => ((t.fld n).park, (t.fld n).state, (t.fld n).coreOn) = ((s.fld n).park, (s.fld n).state, (s.fld n).coreOn))
    rfl fun t same e _ => ?_
  dsimp only
  split
  · exact same
  · exact (rampStarts_fld t e.1 e.2 n _).trans same

theorem pumpRamps_glb (s : Hw) : s.pumpRamps.glb = s.glb := by
  refine List.foldlRecOn _ _ (motive := fun t : Hw => t.glb = s.glb) rfl fun t same e _ => ?_
  dsimp only
  split
  · exact same
  · exact same

theorem pumpRamps_of_none {s : Hw} (none' : s.pwr.rampQ = []) : s.pumpRamps = s := by simp [Hw.pumpRamps, none']

/-- A field is off once the ramp of its rail group has ended in emergency shed (R365). -/
def Hw.fieldOff (s : Hw) (k : Nat) : Hw := (s.gateField k).onFld k fun x =>
  { x with state := .off, coreOn := false, ballast := 0, park := .on, parkedByDriver := false, deepTest := false }

theorem fieldOff_fld (s : Hw) (k n : Nat) (off : n = k ∨ (s.fld n).state = .off ∧ (s.fld n).coreOn = false) :
    ((s.fieldOff k).fld n).state = .off ∧ ((s.fieldOff k).fld n).coreOn = false := by
  rw [Hw.fieldOff, onFld_fld]
  split
  · exact ⟨rfl, rfl⟩
  · next other => exact off.resolve_left other

theorem railBits (f : FieldIx) : (BitVec.ofNat 48 (3 * 2 ^ (2 * railGroup f.val))).getLsbD f.val = true := by
  revert f
  decide

/-- The state after the end of a ramp, up to what follows it. -/
def Hw.rampEnded (s : Hw) (f : Nat) : Hw :=
  let t := s.onFld f fun x => { x with ramping := false, ballast := x.target }
  { t with pwr := { t.pwr with rampCount := satInc t.pwr.rampCount } }

/-- The fields of a rail group are off, and not ready. -/
def Hw.railOff (s : Hw) (g : Nat) : Hw :=
  let t := (s.fieldOff (2 * g)).fieldOff (2 * g + 1)
  { t with glb := { t.glb with field := t.glb.field &&& ~~~(BitVec.ofNat 48 (3 * 2 ^ (2 * g))) } }

theorem exec_rampComplete {s : State} {g : FieldIx} (ramping : (s.hw.fld g.val).ramping = true) :
    exec (.rampComplete g) s = .next { s with hw := if s.hw.pwr.shed = 0 then ((s.hw.rampEnded g.val).pumpRamps).settleActions
      else ((s.hw.rampEnded g.val).railOff (railGroup g.val)).pumpRamps } := by
  have call : exec (.rampComplete g) s = execRampComplete g s := rfl
  rw [call, execRampComplete]
  exact act_eq ((if_neg (by simp [ramping])).trans rfl)

theorem exec_parkWithdraw {s : State} {g : FieldIx}
    (parked : (s.hw.fld g.val).park = .parked ∨ (s.hw.fld g.val).park = .deepParked)
    (hearth : (s.hw.fld g.val).parkedByDriver = false) (free : s.hw.actionOn g.val = false)
    (cool : (s.hw.fld g.val).forecast < s.hw.pwr.entry 3 - 48) (reach : ∀ n ∈ s.hw.unparkFields g.val, s.hw.reaches n = true) :
    exec (.parkWithdraw g) s = .next { s with hw := (s.hw.askUnpark g.val false).runActions } := by
  have call : exec (.parkWithdraw g) s = execParkWithdraw g s := rfl
  rw [call, execParkWithdraw]
  refine act_eq (if_pos ?_)
  have all : (s.hw.unparkFields g.val).all s.hw.reaches = true := List.all_eq_true.2 reach
  simp [parked, hearth, free, cool, all]

theorem exec_deepParkTimer {s : State} {g : FieldIx} (parked : (s.hw.fld g.val).park = .parked)
    (hot : s.hw.pwr.entry 3 ≤ (s.hw.fld g.val).forecast) :
    exec (.deepParkTimer g) s = .next { s with hw := s.hw.setFld g.val { s.hw.fld g.val with deepTest := true } } := by
  have call : exec (.deepParkTimer g) s = execDeepParkTimer g s := rfl
  rw [call, execDeepParkTimer]
  exact act_eq (if_pos (by simp [parked, hot]))

/-- The request of an unpark, as the list takes it. -/
def Hw.unparkAsked (s : Hw) (f : Nat) : BAction :=
  { act := .unpark f, wardens := s.unparkFields f, rails := [railGroup f], awaits := [], started := false, byDriver := false
    asked := s.now }

/-- The state when an unpark has started (R363). -/
theorem unpark_starts (s : Hw) (a : BAction) {f : Nat} (unparks : a.act = .unpark f) :
    ((s.actionStarts a).fld f).park = .unparking ∧ ((s.actionStarts a).fld f).state = (s.fld f).state := by
  unfold Hw.actionStarts
  rw [unparks]
  dsimp only
  have ramps (t : Hw) (w : Nat) : ((t.rampTo f w).fld f).park = (t.fld f).park ∧ ((t.rampTo f w).fld f).state = (t.fld f).state := by
    have same := pumpRamps_fld (t.queueRamp f w) f
    exact ⟨congrArg (·.1) same, congrArg (·.2.1) same⟩
  obtain ⟨park, state⟩ := ramps (s.onFld f fun x => { x with park := .unparking })
    ((s.onFld f fun x => { x with park := .unparking }).unparkPower f)
  rw [onFld_fld_self] at park state
  exact ⟨park, state⟩

/-- The fields of an ended rail group are off, whatever ramps go on (R365). -/
theorem railOff_field (s : Hw) (f : FieldIx) :
    (((s.railOff (railGroup f.val)).pumpRamps.fld f.val).state = .off ∧
      ((s.railOff (railGroup f.val)).pumpRamps.fld f.val).coreOn = false) ∧
    (s.railOff (railGroup f.val)).pumpRamps.glb.field.getLsbD f.val = false := by
  have same := pumpRamps_fld (s.railOff (railGroup f.val)) f.val
  have state := congrArg (·.2.1) same
  have core := congrArg (·.2.2) same
  have member : f.val = 2 * railGroup f.val ∨ f.val = 2 * railGroup f.val + 1 := by unfold railGroup; omega
  have off : (((s.fieldOff (2 * railGroup f.val)).fieldOff (2 * railGroup f.val + 1)).fld f.val).state = .off ∧
      (((s.fieldOff (2 * railGroup f.val)).fieldOff (2 * railGroup f.val + 1)).fld f.val).coreOn = false := by
    refine fieldOff_fld _ _ _ ?_
    rcases member with even | odd
    · exact .inr (fieldOff_fld s _ _ (.inl even))
    · exact .inl odd
  refine ⟨⟨state.trans off.1, core.trans off.2⟩, ?_⟩
  rw [pumpRamps_glb, Hw.railOff, BitVec.getLsbD_and, BitVec.getLsbD_not, railBits]
  simp

/-- Settles O48: the driver's requests, the deep-park timer, the hearth's withdrawal and the ends of ramps. -/
theorem fieldParks : Obligations.FieldParks := by
  unfold Obligations.FieldParks
  intro s f n g w x h asked
  refine ⟨fun bar free => ⟨fun field => ?asks, fun noField => ?refused⟩, fun bar pending => ?pending,
    fun parked hot => exec_deepParkTimer parked hot, fun parked state hearth none' cool own partner => ?starts,
    fun parked hearth free cool reach => ?stands, fun ramping => ?ends, fun ramping calm noRamp none' idle => ?target⟩
  case asks =>
    have ask (op : BitVec 2) (asks : op ≠ 0) : s.act (fun x => x.bar0 fun y => y.submitPark op f n) = asked op false 1 :=
      act_bar0_to bar (submitPark_stands (s := h) free asks field n)
    exact ⟨ask 1 (by decide), ask 2 (by decide), ask 3 (by decide)⟩
  case refused =>
    have ask (op : BitVec 2) (asks : op ≠ 0) : s.act (fun x => x.bar0 fun y => y.submitPark op f n) = asked op true 3 :=
      act_bar0_to bar (submitPark_refused (s := h) free asks noField n)
    exact ⟨ask 1 (by decide), ask 2 (by decide), ask 3 (by decide)⟩
  case pending =>
    exact act_bar0_to bar (submitPark_pending (s := h) pending 3 f n)
  case starts =>
    have fields : s.hw.unparkFields g.val = [g.val ^^^ 1, g.val] := if_neg (by rw [state]; decide)
    have free : s.hw.actionOn g.val = false := by simp [Hw.actionOn, none']
    have placed : (s.hw.askUnpark g.val false).flt.actions = [s.hw.unparkAsked g.val] := by
      simp [Hw.askUnpark, Hw.askAction, placeAction, none', Hw.unparkAsked]
    have arrive : (s.hw.unparkFields g.val).all s.hw.reaches = true := by simp [fields, own, partner]
    have runs := runActions_alone (s := s.hw.askUnpark g.val false) placed (f := g.val) rfl rfl
      (Bool.or_eq_true_iff.2 (.inr arrive))
    refine ⟨_, (s.hw.unparkAsked g.val).begun, exec_parkWithdraw (.inl parked) hearth free cool (by simp [fields, own, partner]), ?_⟩
    rw [runs]
    obtain ⟨park, stays⟩ := unpark_starts
      { s.hw.askUnpark g.val false with flt := { (s.hw.askUnpark g.val false).flt with actions := [(s.hw.unparkAsked g.val).begun] } }
      (s.hw.unparkAsked g.val).begun (f := g.val) rfl
    refine ⟨congrArg (·.actions) (actionStarts_flt ..), rfl, rfl, rfl, ?_, park, stays.trans state⟩
    change g.val ∈ s.hw.unparkFields g.val
    simp [fields]
  case stands =>
    refine ⟨_, exec_parkWithdraw parked hearth free cool reach, ?_⟩
    have asked : s.hw.unparkAsked g.val ∈ (s.hw.askUnpark g.val false).flt.actions :=
      mem_placeAction s.hw.now s.hw.flt.actions
        { act := .unpark g.val, wardens := s.hw.unparkFields g.val, rails := [railGroup g.val], awaits := [], started := false, byDriver := false }
    rcases mem_runActions asked (unpark_fits _ (f := g.val) rfl) with waits | begun
    · exact ⟨_, waits, rfl, rfl⟩
    · exact ⟨_, begun, rfl, rfl⟩
  case ends =>
    refine ⟨_, exec_rampComplete ramping, ?_, fun shed => ?_⟩
    · dsimp only
      split
      · exact (settleActions_ramps _).trans (pumpRamps_ramps _)
      · exact pumpRamps_ramps ((s.hw.rampEnded g.val).railOff (railGroup g.val))
    · dsimp only
      rw [if_neg (show ¬ s.hw.pwr.shed = 0 from shed)]
      obtain ⟨⟨state, core⟩, ready⟩ := railOff_field (s.hw.rampEnded g.val) g
      exact ⟨state, core, ready⟩
  case target =>
    refine ⟨_, exec_rampComplete ramping, ?_⟩
    rw [if_pos (show s.hw.pwr.shed = 0 from calm), pumpRamps_of_none (s := s.hw.rampEnded g.val) noRamp,
      settleActions_of_waits (s := s.hw.rampEnded g.val) (by simp [show (s.hw.rampEnded g.val).flt.actions = [] from none']),
      runEngines_of_none (s := s.hw.rampEnded g.val) idle]
    refine ⟨?_, rfl⟩
    exact onFld_fld_self s.hw g.val fun x => { x with ramping := false, ballast := x.target }

end Sys2Proof.Machine
end

section
/-!
# Readings of the hearth: sensors, coolant, the tick, a step that is left, THM_CFG (R347, R353-R357, R364, R368)
-/
namespace Sys2Proof.Machine

/-! ## Every field in turn -/

theorem foldl_onFld_fld (f : Nat → Field → Field) (l : List Nat) (once : l.Nodup) (s : Hw) (g : Nat) :
    (l.foldl (fun s n => s.onFld n (f n)) s).fld g = if g ∈ l then f g (s.fld g) else s.fld g := by
  induction l generalizing s with
  | nil => rfl
  | cons n l ih =>
    obtain ⟨fresh, rest⟩ := List.nodup_cons.1 once
    rw [List.foldl_cons, ih rest, onFld_fld]
    by_cases here : g = n
    · simp [here, fresh]
    · simp [here]

theorem foldl_onFld_field (f : Nat → Field → Field) (s : Hw) {g : Nat} (field : g < 48) :
    ((List.range 48).foldl (fun s n => s.onFld n (f n)) s).fld g = f g (s.fld g) := by
  rw [foldl_onFld_fld f _ List.nodup_range, if_pos (List.mem_range.2 field)]

theorem foldl_onFld_pwr (f : Nat → Field → Field) (l : List Nat) (s : Hw) :
    (l.foldl (fun s n => s.onFld n (f n)) s).pwr = s.pwr :=
  l.foldlRecOn _ (motive := fun t : Hw => t.pwr = s.pwr) rfl fun _ same _ _ => same

theorem foldl_onFld_besideFields (f : Nat → Field → Field) (l : List Nat) (s : Hw) :
    ((l.foldl (fun s n => s.onFld n (f n)) s).stk, (l.foldl (fun s n => s.onFld n (f n)) s).draws) = (s.stk, s.draws) :=
  l.foldlRecOn _ (motive := fun t : Hw => (t.stk, t.draws) = (s.stk, s.draws)) rfl fun _ same _ _ => same

theorem raise_fld (s : Hw) (n g : Nat) : (s.raise n).fld g = s.fld g := by rw [Hw.fld, raise_flds, Hw.fld]

theorem uncontain_fld (s : Hw) (i : RecIn) (g : Nat) : (s.uncontain i).fld g = s.fld g := by rw [Hw.fld, uncontain_flds, Hw.fld]

/-! ## Sensors (R353) -/

/-- The field and the hearth's block of a pair that is flagged. -/
def Hw.suspected (s : Hw) (f k : Nat) : Hw :=
  let t := s.onFld f fun x => { x with suspects := x.suspects ||| BitVec.ofNat 4 (2 ^ k) }
  { t with pwr := { t.pwr with suspectFlag := true } }

/-- The record of a suspect pair. -/
def Field.suspectRecord (x : Field) (f k : Nat) : RecIn :=
  { cls := 0x40, loc := locField f, data := dat [f, k, word (x.reading (2 * k)).1, word (x.reading (2 * k + 1)).1] }

theorem flagSuspect_new {s : Hw} {f k : Nat} (new : (s.fld f).suspects.getLsbD k = false) :
    s.flagSuspect f k = ((s.suspected f k).raise 37).record ((s.fld f).suspectRecord f k) := if_neg (by simp [new])

theorem flagSuspect_known {s : Hw} {f k : Nat} (known : (s.fld f).suspects.getLsbD k = true) : s.flagSuspect f k = s :=
  if_pos known

theorem suspected_sensors (s : Hw) (f k g : Nat) : ((s.suspected f k).fld g).sensors = (s.fld g).sensors := by
  have field : (s.suspected f k).fld g = (s.onFld f fun x => { x with suspects := x.suspects ||| BitVec.ofNat 4 (2 ^ k) }).fld g := rfl
  rw [field, onFld_fld]
  split <;> rfl

theorem flagSuspect_sensors (s : Hw) (f k g : Nat) : ((s.flagSuspect f k).fld g).sensors = (s.fld g).sensors := by
  cases known : (s.fld f).suspects.getLsbD k with
  | true => rw [flagSuspect_known known]
  | false => rw [flagSuspect_new known, record_fld, raise_fld, suspected_sensors]

/-- Pairs without a valid reading are flagged (R353). -/
def Hw.judgePairs (s : Hw) : Hw :=
  (List.range 48).foldl (fun s f => (List.range 4).foldl (fun s k =>
    if s.sensed f && ((s.fld f).pair k).isNone then s.flagSuspect f k else s) s) s

theorem judgePairs_sensors (s : Hw) (g : Nat) : (s.judgePairs.fld g).sensors = (s.fld g).sensors :=
  List.foldlRecOn _ _ (motive := fun t : Hw => (t.fld g).sensors = (s.fld g).sensors) rfl fun t same f _ =>
    List.foldlRecOn _ _ (motive := fun t : Hw => (t.fld g).sensors = (s.fld g).sensors) same fun u same k _ => by
      split
      · exact (flagSuspect_sensors ..).trans same
      · exact same

/-- What a sample keeps of its readings: each with whether it is in range (R353). -/
def sensorsOf (readings : List Int) (f : Nat) : List (Int × Bool) :=
  ((readings.drop (8 * f)).take 8).map fun v => (v, decide (-20 * 16 ≤ v) && decide (v ≤ 150 * 16))

def Hw.sampled (s : Hw) (readings : List Int) : Hw :=
  (List.range 48).foldl (fun s f => s.onFld f fun x => { x with sensors := sensorsOf readings f }) s

theorem sampled_sensors (s : Hw) (readings : List Int) {g : Nat} (field : g < 48) :
    ((s.sampled readings).judgePairs.fld g).sensors = sensorsOf readings g := by
  rw [judgePairs_sensors, Hw.sampled, foldl_onFld_field (fun f x => { x with sensors := sensorsOf readings f }) s field]

/-- In retention a reading of 105 degrees takes the memory rails down (R365). -/
def Hw.judgeRetention (s : Hw) : Hw := if decide (s.pwr.shed = 2) && s.anyPairAt 105 then s.memoryOff else s

theorem judgeRetention_fld (s : Hw) (g : Nat) : s.judgeRetention.fld g = s.fld g := by
  unfold Hw.judgeRetention
  split <;> rfl

theorem exec_sensorSample (s : State) (readings : List Int) :
    exec (.sensorSample readings) s = .next { s with hw := (s.hw.sampled readings).judgePairs.judgeRetention } := by
  have call : exec (.sensorSample readings) s = execSensorSample readings s := rfl
  rw [call, execSensorSample]
  refine act_eq ?_
  unfold Hw.judgeRetention Hw.judgePairs Hw.sampled sensorsOf
  with_reducible rfl

theorem suspectBit (k : Fin 4) : (BitVec.ofNat 4 (2 ^ k.val)).getLsbD k.val = true := by
  revert k
  decide

theorem flagSuspect_flags {s : Hw} {f : Nat} {k : Fin 4} (new : (s.fld f).suspects.getLsbD k.val = false) :
    ((s.flagSuspect f k.val).fld f).suspects.getLsbD k.val = true ∧ (s.flagSuspect f k.val).pwr.suspectFlag = true ∧
      (s.flagSuspect f k.val).evt.flags.getLsbD 37 = true := by
  rw [flagSuspect_new new]
  refine ⟨?_, ?_, record_stays _ (raise_bit _ 37)⟩
  · have field : (s.suspected f k.val).fld f = { s.fld f with suspects := (s.fld f).suspects ||| BitVec.ofNat 4 (2 ^ k.val) } :=
      onFld_fld_self s f fun x => { x with suspects := x.suspects ||| BitVec.ofNat 4 (2 ^ k.val) }
    rw [record_fld, raise_fld, field, BitVec.getLsbD_or, suspectBit, Bool.or_true]
  · rw [record_pwr, raise_pwr]
    rfl

/-! ## Coolant (R354) -/

/-- The tray's telemetry is lost: its last reading stands, not valid. -/
def Hw.coolantGone (s : Hw) : Hw := { s with pwr := { s.pwr with valid := false, coolantLost := true } }

theorem exec_coolantTelemetry {s : State} (new : s.hw.pwr.coolantLost = false) :
    ∃ i, exec .coolantTelemetry s = .next { s with hw := (s.hw.coolantGone.raise 38).record i } := by
  have call : exec .coolantTelemetry s = execCoolantTelemetry s := rfl
  rw [call, execCoolantTelemetry]
  exact ⟨_, act_eq (if_neg (by simp [new]))⟩

/-! ## The tick (R347, R355, R364) -/

/-- What a step of the hearth that is entered leaves: the fields, the stroke, the readings of the tick. -/
abbrev Hw.tickPart (s : Hw) := (s.flds, s.stk.num, s.pwr.flowHist, s.pwr.volts, s.pwr.forecast, s.pwr.hottest)

theorem record_tickPart (s : Hw) (i : RecIn) : (s.record i).tickPart = s.tickPart := by
  simp only [Hw.tickPart, record_flds, record_pwr, (record_reports s i).num]

theorem uncontain_tickPart (s : Hw) (i : RecIn) : (s.uncontain i).tickPart = s.tickPart := by
  simp only [Hw.tickPart, uncontain_flds, uncontain_pwr, (uncontain_reports s i).1.num]

theorem raise_tickPart (s : Hw) (n : Nat) : (s.raise n).tickPart = s.tickPart := by
  simp only [Hw.tickPart, raise_flds, raise_pwr, raise_stk]

theorem enterStep_tickPart (s : Hw) (n : Nat) : (s.enterStep n).tickPart = s.tickPart := by
  unfold Hw.enterStep Hw.logStep
  rw [record_tickPart, raise_tickPart]

theorem thermalHalt_tickPart (s : Hw) : s.thermalHalt.tickPart = s.tickPart := by
  unfold Hw.thermalHalt
  dsimp only
  split
  · rw [uncontain_tickPart]
  · rw [record_tickPart]

theorem byHeat_lt {s : Hw} {f : Nat} (h : f ∈ s.byHeat) : f < 48 := by
  have all : ∀ f ∈ s.byHeat, f < 48 := by
    refine List.foldlRecOn _ _ (motive := fun r : List Nat => ∀ f ∈ r, f < 48) (by simp) fun r ih g field f h => ?_
    rcases List.mem_append.1 h with before | after
    · exact ih f ((List.takeWhile_sublist _).subset before)
    · rcases List.mem_cons.1 after with rfl | behind
      · exact List.mem_range.1 field
      · exact ih f ((List.dropWhile_sublist _).subset behind)
  exact all f h

theorem hottest_lt (s : Hw) : s.byHeat.headD 0 < 64 := by
  cases order : s.byHeat with
  | nil => simp
  | cons f _ =>
    have field : f < 48 := byHeat_lt (s := s) (by simp [order])
    simp only [List.headD_cons]
    omega

theorem hottest_register (s : Hw) : (BitVec.ofNat 6 (s.byHeat.headD 0)).toNat = s.byHeat.headD 0 := by
  rw [BitVec.toNat_ofNat]
  exact Nat.mod_eq_of_lt (hottest_lt s)

/-- The fields after 1 ms at the powers given (R355). -/
def Hw.rises (s : Hw) (powers : List Nat) : Hw :=
  (List.range 48).foldl (fun t f => t.onFld f fun x => x.hearth s.pwr f (powers.getD f 0)) s

/-- The module's forecast and the readings that the tick takes, with the hearth's block as it was before (R347). -/
def Hw.reads (s : Hw) (w : Pwr) : Hw :=
  { s with
    pwr := { s.pwr with
      hottest := BitVec.ofNat 6 (s.byHeat.headD 0), forecast := (s.fld (s.byHeat.headD 0)).forecast
      flowHist := (w.flow.toNat :: w.flowHist).take 100, volts := Config.inputSample (3 * s.draws)
      amps := Config.inputSample (3 * s.draws + 1), power := Config.inputSample (3 * s.draws + 2) }
    draws := s.draws + 1 }

theorem reads_forecast (s : Hw) (w : Pwr) : (s.reads w).pwr.forecast = ((s.reads w).fld (s.reads w).pwr.hottest.toNat).forecast :=
  congrArg (fun n => (s.fld n).forecast) (hottest_register s).symm

/-- The steps that a tick's forecast reaches, and s (R357, R364). -/
def Hw.stepsTaken (s : Hw) (stretched : Bool) : Hw :=
  let reach (s : Hw) (n : Nat) : Bool :=
    !s.pwr.steps.contains n && stepAllowed s.pwr.policy n && decide (s.pwr.forecast ≥ s.pwr.entry n)
  let s := [1, 2, 3].foldl (fun s n => if reach s n then s.enterStep n else s) s
  let s := if !s.pwr.steps.contains 4 && ((decide (s.pwr.forecast ≥ s.pwr.entry 4) && !(List.range 48).any s.parkable)
      || s.anyPairAt 95) then (s.enterStep 4).thermalHalt else s
  if s.pwr.steps.contains 2 && !stretched then s else { s with pwr := s.pwr.adjustS }

/-- The readings of the tick, as they stand when its steps have been entered. -/
structure Ticked (s t : Hw) (powers : List Nat) : Prop where
  powers : ∀ g < 48, (t.fld g).powerW = powers.getD g 0
  flow : t.pwr.flowHist = (s.pwr.flow.toNat :: s.pwr.flowHist).take 100
  volts : t.pwr.volts = Config.inputSample (3 * s.draws)
  forecast : t.pwr.forecast = (t.fld t.pwr.hottest.toNat).forecast
  num : t.stk.num = s.stk.num

theorem hearth_powerW (x : Field) (w : Pwr) (f p : Nat) : (x.hearth w f p).powerW = p := rfl

theorem rises_powerW (s : Hw) (powers : List Nat) (g : Nat) (field : g < 48) : ((s.rises powers).fld g).powerW = powers.getD g 0 := by
  rw [Hw.rises, foldl_onFld_field (fun f x => x.hearth s.pwr f (powers.getD f 0)) s field, hearth_powerW]

theorem rises_beside (s : Hw) (powers : List Nat) : ((s.rises powers).stk, (s.rises powers).draws) = (s.stk, s.draws) := by
  rw [Hw.rises]
  exact foldl_onFld_besideFields (fun f x => x.hearth s.pwr f (powers.getD f 0)) (List.range 48) s

theorem reads_flowHist (s : Hw) (w : Pwr) : (s.reads w).pwr.flowHist = (w.flow.toNat :: w.flowHist).take 100 := rfl

theorem reads_volts (s : Hw) (w : Pwr) : (s.reads w).pwr.volts = Config.inputSample (3 * s.draws) := rfl

theorem reads_fld (s : Hw) (w : Pwr) (g : Nat) : (s.reads w).fld g = s.fld g := rfl

theorem reads_stk (s : Hw) (w : Pwr) : (s.reads w).stk = s.stk := rfl

theorem reads_ticked (s : Hw) (powers : List Nat) : Ticked s ((s.rises powers).reads s.pwr) powers := by
  obtain ⟨stk, draws⟩ := Prod.mk.inj (rises_beside s powers)
  refine ⟨fun g field => ?_, reads_flowHist .., ?_, reads_forecast .., ?_⟩
  · rw [reads_fld, rises_powerW s powers g field]
  · rw [reads_volts, draws]
  · rw [reads_stk, stk]

theorem Ticked.of_part {s t u : Hw} {powers : List Nat} (h : Ticked s t powers) (same : u.tickPart = t.tickPart) :
    Ticked s u powers := by
  simp only [Hw.tickPart, Prod.mk.injEq] at same
  obtain ⟨flds, num, flow, volts, forecast, hottest⟩ := same
  have fld (n : Nat) : u.fld n = t.fld n := by rw [Hw.fld, flds, Hw.fld]
  refine ⟨fun g field => ?_, flow.trans h.flow, volts.trans h.volts, ?_, num.trans h.num⟩
  · rw [fld]
    exact h.powers g field
  · rw [forecast, hottest, fld]
    exact h.forecast

theorem ite_tickPart {p : Prop} [Decidable p] {s t u : Hw} (h : t.tickPart = s.tickPart) (g : u.tickPart = s.tickPart) :
    (if p then t else u).tickPart = s.tickPart := by
  split
  · exact h
  · exact g

theorem stepsTaken_tickPart (s : Hw) (stretched : Bool) : (s.stepsTaken stretched).tickPart = s.tickPart := by
  unfold Hw.stepsTaken
  extract_lets reach s1 s2
  have h1 : s1.tickPart = s.tickPart :=
    List.foldlRecOn _ _ (motive := fun t : Hw => t.tickPart = s.tickPart) rfl fun t same n _ =>
      ite_tickPart ((enterStep_tickPart ..).trans same) same
  have h2 : s2.tickPart = s.tickPart := ite_tickPart (((thermalHalt_tickPart _).trans (enterStep_tickPart ..)).trans h1) h1
  have adjusted : ({ s2 with pwr := s2.pwr.adjustS } : Hw).tickPart = s2.tickPart := by
    unfold Pwr.adjustS
    dsimp only
    split <;> rfl
  exact ite_tickPart h2 (adjusted.trans h2)

theorem exec_hearthTick (s : State) (powers : List Nat) :
    exec (.hearthTick powers) s = .next { s with
      hw := ((s.hw.rises powers).reads s.hw.pwr).stepsTaken ((s.hw.rises powers).pwr.steps.contains 2) } := by
  have call : exec (.hearthTick powers) s = execHearthTick powers s := rfl
  rw [call, execHearthTick]
  refine act_eq ?_
  unfold Hw.stepsTaken Hw.reads Hw.rises
  with_reducible rfl

theorem hearthTick_ticks (s : State) (powers : List Nat) :
    ∃ t, exec (.hearthTick powers) s = .next { s with hw := t } ∧ Ticked s.hw t powers :=
  ⟨_, exec_hearthTick s powers, (reads_ticked s.hw powers).of_part (stepsTaken_tickPart ..)⟩

/-! ## Steps that are left (R356, R357) -/

theorem exec_thermalStepExit {s : State} {n : Nat} {ns : List Nat} (steps : s.hw.pwr.steps = n :: ns)
    (cool : s.hw.pwr.forecast < s.hw.pwr.entry n - 48) (slow : n = 2 → s.hw.pwr.ownS = 16) :
    exec .thermalStepExit s = .next { s with hw := s.hw.leaveStep n } := by
  have call : exec .thermalStepExit s = execThermalStepExit s := rfl
  rw [call, execThermalStepExit]
  refine act_eq ?_
  rw [steps]
  exact if_pos ⟨cool, slow⟩

theorem leaveStep_pwr (s : Hw) (n : Nat) :
    (s.leaveStep n).pwr = { s.pwr with steps := s.pwr.steps.filter fun k => decide (k ≠ n) } := by
  unfold Hw.leaveStep Hw.logStep
  rw [record_pwr, raise_pwr]

/-- Settles O47: samples, suspect pairs, coolant, the tick, the step entered last, and the thresholds in order. -/
theorem hearthReadings : Obligations.HearthReadings := by
  unfold Obligations.HearthReadings
  intro s rs f pair inlet outlet flow ps v n ns w h
  refine ⟨⟨_, exec_sensorSample s rs, fun g field => ?sample⟩, fun apart new => ⟨_, act_eq (if_pos apart), flagSuspect_flags new⟩,
    rfl, fun known => ?lost, ?tick, fun steps once cool slow => ?leaves, fun bar => ⟨fun order => ?inOrder, fun order => ?outOfOrder⟩⟩
  case sample =>
    rw [judgeRetention_fld]
    exact sampled_sensors s.hw rs field
  case lost =>
    obtain ⟨i, result⟩ := exec_coolantTelemetry (s := s) known
    refine ⟨_, result, ?_, ?_, record_stays _ (raise_bit _ 38)⟩
    · rw [record_pwr, raise_pwr]
      rfl
    · rw [record_pwr, raise_pwr]
      rfl
  case tick =>
    obtain ⟨t, result, stands⟩ := hearthTick_ticks s ps
    exact ⟨_, result, stands.powers, stands.flow, stands.volts, stands.forecast, stands.num⟩
  case leaves =>
    refine ⟨_, exec_thermalStepExit steps cool slow, ?_, record_stays _ (raise_bit _ 36)⟩
    have others : ∀ k ∈ ns, k ≠ n := fun k member same => once (same ▸ member)
    have left : s.hw.pwr.steps.filter (fun k => decide (k ≠ n)) = ns := by
      rw [show s.hw.pwr.steps = _ from steps]
      simpa using others
    rw [leaveStep_pwr, left]
  case inOrder => exact act_bar0_to bar (if_pos order)
  case outOfOrder => exact act_bar0_to bar (if_neg fun good => absurd good.1 (Nat.not_lt.2 order))

end Sys2Proof.Machine
end

section
/-!
# Rings, logs, tails and telemetry (R343, R345)

Judging a log's limits changes nothing but their marks while both logs are at most half full. Spilled records go back one at a
time: what goes on after the first changes the ring and its valid pointer alone.
-/
namespace Sys2Proof.Machine

/-! ## The limits of the logs -/

/-- Both logs are at most half full. -/
def Hw.LowLogs (s : Hw) : Prop := s.flt.faultFill ≤ faultLogSize / 2 ∧ s.flt.trailFill ≤ trailLogSize / 2

theorem judged_low {s : Hw} (low : s.LowLogs) : s.judgeHigh.judgeFull = { s with flt := { s.flt with
    highFault := false, highTrail := false, fullFault := false, fullTrail := false } } := by
  obtain ⟨fault, trail⟩ := low
  have halfFault : faultLogSize / 2 < faultLogSize - faultRing := by decide
  have halfTrail : trailLogSize / 2 < trailLogSize - trailRing := by decide
  have high : s.judgeHigh = { s with flt := { s.flt with highFault := false, highTrail := false } } := by
    simp [Hw.judgeHigh, Nat.not_lt.2 fault, Nat.not_lt.2 trail]
  rw [high]
  have notFull : ¬ faultLogSize - faultRing ≤ s.flt.faultFill := by omega
  have notFullTrail : ¬ trailLogSize - trailRing ≤ s.flt.trailFill := by omega
  have fillFault (a b : Bool) : Flt.faultFill { s.flt with highFault := a, highTrail := b } = s.flt.faultFill := rfl
  have fillTrail (a b : Bool) : Flt.trailFill { s.flt with highFault := a, highTrail := b } = s.flt.trailFill := rfl
  simp [Hw.judgeFull, fillFault, fillTrail, notFull, notFullTrail]

/-! ## Copying to the logs -/

theorem exec_logCopy (s : State) (trail : Bool) :
    exec (.logCopy trail) s = .next { s with hw := (if trail then s.hw.copyTrails else s.hw.copyFaults).judgeHigh.judgeFull } := rfl

/-- A record of the fault ring. -/
def Hw.ringRecord (s : Hw) (i : W32) : List Byte := s.memRead (s.flt.ringBase.toNat + i.toNat % faultRing * 128) 128

/-- One record of the ring is not in the log. -/
theorem copyFaults_one {s : Hw} (one : s.flt.valid = s.flt.flashed + 1) : s.copyFaults = { s with
    flash := { s.flash with faultLog := putFaultLog s.flash.faultLog s.flt.flashed.toNat (s.ringRecord s.flt.flashed) }
    flt := { s.flt with flashed := s.flt.head } } := by
  have n : (s.flt.valid - s.flt.flashed).toNat = 1 := by
    rw [one, BitVec.add_comm, BitVec.add_sub_cancel]
    rfl
  have ring : 1 ≤ faultRing := by decide
  simp only [Hw.copyFaults, n, if_pos ring, List.range_one, List.foldl_cons, List.foldl_nil, Nat.add_zero,
    Hw.ringRecord]

theorem copyTrails_some {s : Hw} (some' : 0 < (s.flt.tValid - s.flt.tFlashed).toNat)
    (fits : (s.flt.tValid - s.flt.tFlashed).toNat ≤ trailRing) : s.copyTrails = { s with
    flash := { s.flash with
      trailLog := s.flash.trailLog ++ [(s.flt.tFlashed.toNat, s.trailRead s.flt.tFlashed.toNat (s.flt.tValid - s.flt.tFlashed).toNat)] }
    flt := { s.flt with tFlashed := s.flt.tHead } } := by
  simp only [Hw.copyTrails, if_pos fits, if_neg (Nat.ne_of_gt some')]

/-! ## Spilled records -/

section Refill
variable {s : Hw} {n : Nat} {e : Nat × List Byte}

/-- One spilled fault record goes back to the ring. -/
def Hw.faultBack (s : Hw) (bs : List Byte) : Hw :=
  { s.memWrite (s.flt.ringBase.toNat + s.flt.valid.toNat % faultRing * 128) bs with flt := { s.flt with valid := s.flt.valid + 1 } }

/-- One spilled trail record goes back to the ring. -/
def Hw.trailBack (s : Hw) (bs : List Byte) : Hw :=
  { s.memWrite (s.trailAt s.flt.tValid.toNat) bs with flt := { s.flt with tValid := s.flt.tValid + BitVec.ofNat 64 bs.length } }

theorem refillFaults_end (done : s.flt.valid = s.flt.head) (n : Nat) : refillFaults n s = s := by
  cases n with
  | zero => rfl
  | succ n => exact if_pos (.inl done)

theorem refillFaults_succ (more : s.flt.head ≠ s.flt.valid)
    (room : max (s.flt.valid - s.flt.tail).toNat (s.flt.valid - s.flt.flashed).toNat + 1 ≤ faultRing)
    (found : s.flash.faultLog.find? (fun e => decide (e.1 = s.flt.valid.toNat % faultLogSize)) = some e) :
    refillFaults (n + 1) s = refillFaults n (s.faultBack e.2) := by
  refine (if_neg fun stop => ?_).trans ?_
  · rcases stop with done | full
    · exact more done.symm
    · omega
  · rw [found]
    rfl

/-- What refilling leaves: only the ring and its valid pointer move. -/
theorem refillFaults_goes (n : Nat) (s : Hw) : ∃ k mem, refillFaults n s = { s with
    mem := mem, flt := { s.flt with valid := s.flt.valid + BitVec.ofNat 32 k } } := by
  induction n generalizing s with
  | zero => exact ⟨0, s.mem, by simp [refillFaults]⟩
  | succ n ih =>
    rw [refillFaults]
    dsimp only
    split
    · exact ⟨0, s.mem, by simp⟩
    split
    · exact ⟨0, s.mem, by simp⟩
    · next e _ =>
      obtain ⟨k, mem, goes⟩ := ih (s.faultBack e.2)
      refine ⟨k + 1, mem, goes.trans ?_⟩
      have sum : s.flt.valid + 1 + BitVec.ofNat 32 k = s.flt.valid + BitVec.ofNat 32 (k + 1) := by
        rw [BitVec.add_assoc, Nat.add_comm k 1, BitVec.ofNat_add]
        rfl
      simp only [Hw.faultBack, sum]
      rfl

theorem refillTrails_succ (more : s.flt.tHead ≠ s.flt.tValid)
    (found : s.flash.trailLog.find? (fun e => decide (e.1 = s.flt.tValid.toNat) && !e.2.isEmpty) = some e)
    (room : s.flt.tValid.toNat + e.2.length ≤ min s.flt.tTail.toNat s.flt.tFlashed.toNat + trailRing) :
    refillTrails (n + 1) s = refillTrails n (s.trailBack e.2) := by
  refine (if_neg fun done => more done.symm).trans ?_
  rw [found]
  exact if_neg (Nat.not_lt.2 room)

theorem refillTrails_goes (n : Nat) (s : Hw) : ∃ k mem, refillTrails n s = { s with
    mem := mem, flt := { s.flt with tValid := s.flt.tValid + BitVec.ofNat 64 k } } := by
  induction n generalizing s with
  | zero => exact ⟨0, s.mem, by simp [refillTrails]⟩
  | succ n ih =>
    rw [refillTrails]
    dsimp only
    split
    · exact ⟨0, s.mem, by simp⟩
    split
    · exact ⟨0, s.mem, by simp⟩
    split
    · exact ⟨0, s.mem, by simp⟩
    · next e _ _ =>
      obtain ⟨k, mem, goes⟩ := ih (s.trailBack e.2)
      refine ⟨e.2.length + k, mem, goes.trans ?_⟩
      have sum : s.flt.tValid + BitVec.ofNat 64 e.2.length + BitVec.ofNat 64 k = s.flt.tValid + BitVec.ofNat 64 (e.2.length + k) := by
        rw [BitVec.add_assoc, BitVec.ofNat_add]
      simp only [Hw.trailBack, sum]
      rfl

theorem length_of_find {p : Nat × List Byte → Bool} {l : List (Nat × List Byte)} (found : l.find? p = some e) :
    ∃ n, l.length = n + 1 := by
  cases l with
  | nil => cases found
  | cons x xs => exact ⟨xs.length, rfl⟩

end Refill

/-! ## The driver's tails -/

/-- What no fault record moves: what the driver has taken, the end of the trail log, the shed marker, the refetches. -/
abbrev Hw.ringSide (s : Hw) := (s.flt.tail, s.flt.tTail, s.flt.tFlashed, s.flash.shedMarker, s.flt.refetch)

theorem raise_ringSide (s : Hw) (n : Nat) : (s.raise n).ringSide = s.ringSide := by rw [Hw.ringSide, raise_flt, raise_flash]

theorem commitRecord_ringSide (s : Hw) (r : FaultRec) : (s.commitRecord r).ringSide = s.ringSide := by
  unfold Hw.commitRecord
  dsimp only
  split <;> rfl

theorem emitRecord_ringSide (s : Hw) (r : FaultRec) : (s.emitRecord r).ringSide = s.ringSide := by
  have numbered (t : Hw) (p : Prop) [Decidable p] (x : Flt) (same : ({ t with flt := x } : Hw).ringSide = t.ringSide) :
      (if p then t else { t with flt := x }).ringSide = t.ringSide := by
    split
    · rfl
    · exact same
  have held (t : Hw) (l : List FaultRec) (r : FaultRec) (p : Prop) [Decidable p] :
      (if p then { t with flt := { t.flt with heldRecs := l } } else t.commitRecord r).ringSide = t.ringSide := by
    split
    · rfl
    · exact commitRecord_ringSide ..
  unfold Hw.emitRecord
  exact (held _ _ _ _).trans (numbered _ _ _ rfl)

theorem foldl_emitRecord_ringSide (g : FaultRec → FaultRec) (rs : List FaultRec) (s : Hw) :
    (rs.foldl (fun s r => s.emitRecord (g r)) s).ringSide = s.ringSide :=
  rs.foldlRecOn _ (motive := fun t : Hw => t.ringSide = s.ringSide) rfl fun t same _ _ => (emitRecord_ringSide t _).trans same

theorem closeRecovery_ringSide (s : Hw) (n : Nat) : (s.closeRecovery n).ringSide = s.ringSide := by
  unfold Hw.closeRecovery
  split
  · rfl
  · exact foldl_emitRecord_ringSide (fun r => { r with outcome := .uncontained, related := some n }) _ s

theorem stopUncontained_ringSide (s : Hw) (n : Nat) : (s.stopUncontained n).ringSide = s.ringSide := by
  have marked (t : Hw) (same : t.ringSide = s.ringSide) (p : Prop) [Decidable p] (x y : Flt) (z : Stk)
      (hx : ({ t with flt := x } : Hw).ringSide = t.ringSide) (hy : ({ t with flt := y } : Hw).ringSide = t.ringSide) :
      (if p then ({ t with flt := y, stk := z } : Hw) else { t with flt := x }).ringSide = s.ringSide := by
    split
    · exact hy.trans same
    · exact hx.trans same
  unfold Hw.stopUncontained
  exact marked ((s.closeRecovery n).raise 32) ((raise_ringSide ..).trans (closeRecovery_ringSide ..)) _ _ _ _ rfl rfl

theorem judgeHigh_ringSide (s : Hw) : s.judgeHigh.ringSide = s.ringSide := by
  have raised (t : Hw) (p : Prop) [Decidable p] : (if p then t.raise 33 else t).ringSide = t.ringSide := by
    split
    · exact raise_ringSide ..
    · rfl
  unfold Hw.judgeHigh
  exact (raised _ _).trans (raised _ _)

theorem judgeFull_ringSide (s : Hw) : s.judgeFull.ringSide = s.ringSide := by
  have full (t : Hw) (i : RecIn) (n : Nat) (p : Prop) [Decidable p] :
      (if p then ((t.writeRecord i).stopUncontained n).raise 34 else t).ringSide = t.ringSide := by
    split
    · rw [raise_ringSide, stopUncontained_ringSide, Hw.writeRecord, emitRecord_ringSide]
    · rfl
  unfold Hw.judgeFull
  exact (full _ _ _ _).trans (full _ _ _ _)

theorem releaseHeld_ringSide (s : Hw) : s.releaseHeld.ringSide = s.ringSide := by
  unfold Hw.releaseHeld
  split
  · rfl
  · exact List.foldlRecOn _ _ (motive := fun t : Hw => t.ringSide = s.ringSide) rfl fun t same r _ => (commitRecord_ringSide t r).trans same

theorem tailMoved_ringSide (s : Hw) : s.tailMoved.ringSide = s.ringSide := by
  rw [Hw.tailMoved, judgeHigh_ringSide, releaseHeld_ringSide, judgeFull_ringSide, judgeHigh_ringSide]

theorem tailMoved_tail (s : Hw) : s.tailMoved.flt.tail = s.flt.tail := congrArg (·.1) (tailMoved_ringSide s)
theorem tailMoved_tTail (s : Hw) : s.tailMoved.flt.tTail = s.flt.tTail := congrArg (·.2.1) (tailMoved_ringSide s)

theorem record_ringSide (s : Hw) (i : RecIn) : (s.record i).ringSide = s.ringSide := by
  rw [Hw.record, judgeFull_ringSide, judgeHigh_ringSide, Hw.writeRecord, emitRecord_ringSide]

/-- The driver's tails at new places. -/
def Hw.tookTail (s : Hw) (d : W32) : Hw := { s with flt := { s.flt with tail := d } }
def Hw.tookTrailTail (s : Hw) (d : W64) : Hw := { s with flt := { s.flt with tTail := d } }

theorem exec_fltRingTailWrite {s : State} {v : W64} (bar : s.hw.barOpen = true)
    (inside : (v.setWidth 32 - s.hw.flt.tail).toNat ≤ (s.hw.flt.valid - s.hw.flt.tail).toNat) :
    exec (.fltRingTailWrite v) s = .next { s with
      hw := (Hw.tookTail { s.hw with tst := { s.hw.tst with armedKey := false } } (v.setWidth 32)).tailMoved } :=
  act_bar0_to bar (if_pos inside)

theorem exec_fltTrailTailWrite {s : State} {v : W64} (bar : s.hw.barOpen = true) (aligned : v.toNat % 8 = 0)
    (inside : (v - s.hw.flt.tTail).toNat ≤ (s.hw.flt.tValid - s.hw.flt.tTail).toNat) :
    exec (.fltTrailTailWrite v) s = .next { s with
      hw := (Hw.tookTrailTail { s.hw with tst := { s.hw.tst with armedKey := false } } v).tailMoved } :=
  act_bar0_to bar (if_pos ⟨aligned, inside⟩)

/-! ## Telemetry -/

theorem spanStoreAny_good {s : Hw} {src off : Nat} {bs : List Byte} (some' : bs ≠ [])
    (good : s.spanStatus src off bs.length = 0) (inside : off % pageBytes + bs.length ≤ pageBytes) :
    ∃ arbs tng, (s.spanStoreAny src off bs).1 = { s with arbs := arbs, tng := tng, mem := nputList 0 s.mem off bs } := by
  have whole : sub bs (off - off) bs.length = bs := by simp [sub]
  obtain ⟨arbs, tng, stored⟩ := spanStore_good good
  refine ⟨arbs, tng, ?_⟩
  simp only [Hw.spanStoreAny, pageParts_one (List.length_pos_of_ne_nil some') inside, List.foldl_cons, List.foldl_nil, whole, stored]

/-- A place of 64 bytes at a multiple of 64 lies in one page. -/
theorem place64_inside {off k : Nat} (aligned : off % 64 = 0) : (off + k * 64) % pageBytes + 64 ≤ pageBytes := by
  have page : pageBytes = 65536 := rfl
  rw [page]
  omega

theorem exec_telemetry_kept {s : State} {bs : List Byte} (on : s.hw.flt.telEnable = true)
    (kept : s.hw.flt.telDrops (min (at' bs 1 1) 3) = false) :
    exec (.telemetryRecord bs) s = .next { s with hw :=
      let t := (s.hw.spanStoreAny s.hw.spn.rank.toNat
        (addrOff s.hw.flt.telBase.toNat + s.hw.flt.telHead.toNat % s.hw.flt.telRecords * 64) (padTo 64 bs)).1
      { t with flt := { t.flt with telHead := t.flt.telHead + 1 } } } := by
  have call : exec (.telemetryRecord bs) s = execTelemetryRecord bs s := rfl
  rw [call, execTelemetryRecord]
  exact act_eq ((if_neg (by simp [on])).trans (if_neg (by simp [kept])))

theorem exec_telemetry_dropped {s : State} {bs : List Byte} (on : s.hw.flt.telEnable = true)
    (dropped : s.hw.flt.telDrops (min (at' bs 1 1) 3) = true) :
    exec (.telemetryRecord bs) s = .next { s with hw := { s.hw with flt := { s.hw.flt with
      telDrop := nput 0 s.hw.flt.telDrop (min (at' bs 1 1) 3) (satAdd 16 (nget 0 s.hw.flt.telDrop (min (at' bs 1 1) 3)) 1)
      dropFirst := if s.hw.flt.dropsNow.isEmpty then s.hw.stk.time else s.hw.flt.dropFirst
      dropLast := s.hw.stk.time
      dropsNow := nput 0 s.hw.flt.dropsNow (min (at' bs 1 1) 3) (satAdd 32 (nget 0 s.hw.flt.dropsNow (min (at' bs 1 1) 3)) 1) } } } := by
  have call : exec (.telemetryRecord bs) s = execTelemetryRecord bs s := rfl
  rw [call, execTelemetryRecord]
  exact act_eq ((if_neg (by simp [on])).trans (if_pos dropped))

/-- Settles O46: copies to the logs, spilled records, the driver's tails, and telemetry kept or dropped. -/
theorem ringsAndLogs : Obligations.RingsAndLogs := by
  unfold Obligations.RingsAndLogs
  intro s v bs x h low rec'
  refine ⟨fun half one all => ?faults, fun half all some' fits => ?trails, fun e more room found => ?refill,
    fun e last room found => ?refillLast, fun e found more room => ?refillTrail, fun e only first bytes room more => ?refillTrailOnly,
    fun bar => ⟨⟨fun inside => ?tail, fun beyond => ?beyond⟩, fun aligned inside => ?trailTail, fun odd => ?odd⟩,
    fun on => ⟨fun kept base short status => ?kept, fun dropped => ?dropped⟩⟩
  case faults =>
    refine ⟨_, exec_logCopy s false, ?_⟩
    have copied := copyFaults_one (s := s.hw) one
    have half' : s.hw.copyFaults.LowLogs := by rw [copied]; exact half
    dsimp only
    rw [if_neg (by decide), judged_low half', copied]
    exact ⟨rfl, rfl, rfl, rfl⟩
  case trails =>
    refine ⟨_, exec_logCopy s true, ?_⟩
    have copied := copyTrails_some (s := s.hw) some' fits
    have half' : s.hw.copyTrails.LowLogs := by rw [copied]; exact half
    dsimp only
    rw [if_pos rfl, judged_low half', copied]
    exact ⟨rfl, rfl⟩
  case refill =>
    obtain ⟨n, length⟩ := length_of_find found
    obtain ⟨k, mem, goes⟩ := refillFaults_goes n (s.hw.faultBack e.2)
    refine ⟨_, k + 1, act_eq (((congrArg (refillFaults · s.hw) length).trans (refillFaults_succ more room found)).trans goes),
      Nat.le_add_left 1 k, ?_, rfl, rfl⟩
    have sum : x.valid + 1 + BitVec.ofNat 32 k = x.valid + BitVec.ofNat 32 (k + 1) := by
      rw [BitVec.add_assoc, Nat.add_comm k 1, BitVec.ofNat_add]
      rfl
    exact congrArg (fun v => { x with valid := v }) sum
  case refillLast =>
    obtain ⟨n, length⟩ := length_of_find found
    have more : x.head ≠ x.valid := by
      rw [last]
      bv_omega
    refine act_eq (((congrArg (refillFaults · s.hw) length).trans (refillFaults_succ more room found)).trans ?_)
    rw [refillFaults_end (s := s.hw.faultBack e.2) last.symm]
    exact congrArg (fun v => { s.hw.faultBack e.2 with flt := { x with valid := v } }) last.symm
  case refillTrail =>
    obtain ⟨n, length⟩ := length_of_find found
    obtain ⟨k, mem, goes⟩ := refillTrails_goes n (s.hw.trailBack e.2)
    refine ⟨_, e.2.length + k, act_eq (((congrArg (refillTrails · s.hw) length).trans (refillTrails_succ more found room)).trans goes),
      Nat.le_add_right _ k, ?_, rfl, rfl⟩
    have sum : x.tValid + BitVec.ofNat 64 e.2.length + BitVec.ofNat 64 k = x.tValid + BitVec.ofNat 64 (e.2.length + k) := by
      rw [BitVec.add_assoc, BitVec.ofNat_add]
    exact congrArg (fun v => { x with tValid := v }) sum
  case refillTrailOnly =>
    have found : s.hw.flash.trailLog.find? (fun e => decide (e.1 = x.tValid.toNat) && !e.2.isEmpty) = some e := by
      rw [only]
      simp [first, bytes]
    have length : s.hw.flash.trailLog.length = 0 + 1 := by rw [only]; rfl
    exact ⟨_, act_eq ((congrArg (refillTrails · s.hw) length).trans (refillTrails_succ more found room)), rfl, rfl⟩
  case tail =>
    refine ⟨_, exec_fltRingTailWrite bar inside, ?_⟩
    exact tailMoved_tail (h.tookTail (v.setWidth 32))
  case beyond => exact act_bar0_to bar (if_neg (Nat.not_le.2 beyond))
  case trailTail =>
    refine ⟨_, exec_fltTrailTailWrite bar aligned inside, ?_⟩
    exact tailMoved_tTail (h.tookTrailTail v)
  case odd => exact act_bar0_to bar (if_neg fun good => odd good.1)
  case kept =>
    have length : (padTo 64 bs).length = 64 := by simp [padTo, sub]
    obtain ⟨arbs, tng, stored⟩ := spanStoreAny_good (s := s.hw) (bs := padTo 64 bs) (List.ne_nil_of_length_pos (by omega))
      ((congrArg (s.hw.spanStatus s.hw.spn.rank.toNat _) length).trans status)
      ((congrArg (_ + ·) length).le.trans (place64_inside base))
    refine ⟨_, exec_telemetry_kept on kept, ?_⟩
    dsimp only
    rw [stored]
    exact ⟨rfl, rfl⟩
  case dropped =>
    have counted (k v : Nat) : nget 0 (nput 0 x.telDrop k v) k = v := by simp [nget_nput]
    refine ⟨_, exec_telemetry_dropped on dropped, rfl, rfl, ?_⟩
    exact counted ..

end Sys2Proof.Machine
end

section
/-!
# Emergency shed and retention (R344, R354, R365, R366)
-/
namespace Sys2Proof.Machine

/-! ## What the shed sequencer leaves -/

theorem emitRecord_recovery (s : Hw) (r : FaultRec) : (s.emitRecord r).flt.recovery = s.flt.recovery := by
  have committed (t : Hw) (r : FaultRec) : (t.commitRecord r).flt.recovery = t.flt.recovery := by
    unfold Hw.commitRecord
    dsimp only
    split <;> rfl
  unfold Hw.emitRecord
  dsimp only
  split <;> split
  · rfl
  · exact committed ..
  · rfl
  · exact committed ..

/-- A dropped recovery is none, and the stroke and the billet are as they were. -/
theorem dropRecovery_none (s : Hw) : s.dropRecovery.flt.recovery = none ∧ s.dropRecovery.stk = s.stk ∧ s.dropRecovery.running = s.running := by
  unfold Hw.dropRecovery
  split
  · next none' => exact ⟨none', rfl, rfl⟩
  · next v _ =>
    refine List.foldlRecOn _ _ (motive := fun t : Hw => t.flt.recovery = none ∧ t.stk = s.stk ∧ t.running = s.running)
      ⟨rfl, rfl, rfl⟩ fun t same r _ => ?_
    rw [emitRecord_recovery, emitRecord_stk, emitRecord_running]
    exact same

/-- What a ramp leaves of the module as a shed has put it. -/
abbrev Hw.shedPart (s : Hw) := (s.stk, s.running, s.flt, s.fabric, s.tst, s.ports, s.pwr.shed)

theorem foldl_onFld_shedPart (f : Hw → Nat → Field → Field) (l : List Nat) (s : Hw) :
    (l.foldl (fun s n => s.onFld n (f s n)) s).shedPart = s.shedPart :=
  l.foldlRecOn _ (motive := fun t : Hw => t.shedPart = s.shedPart) rfl fun _ same _ _ => same

/-- The work of every field given to its ballast, and no ramp in progress. -/
def Hw.allBallast (s : Hw) : Hw := (List.range 48).foldl (fun s f => s.onFld f fun x =>
  { x with ramping := false, ballast := min ballastMax (x.ballast + s.workPower f) }) s

theorem allBallast_shedPart (s : Hw) : s.allBallast.shedPart = s.shedPart := by
  rw [Hw.allBallast]
  exact foldl_onFld_shedPart (fun s f x => { x with ramping := false, ballast := min ballastMax (x.ballast + s.workPower f) }) _ s

theorem rampAllDown_eq (s : Hw) : s.rampAllDown = Hw.pumpRamps { s.allBallast with
    pwr := { s.allBallast.pwr with working := [], rampQ := s.groupsByHeat.map fun g => (2 * g, 0) } } := by
  unfold Hw.rampAllDown Hw.allBallast
  with_reducible rfl

theorem rampAllDown_shedPart (s : Hw) : s.rampAllDown.shedPart = s.shedPart := by
  have pumped (t : Hw) : t.pumpRamps.shedPart = t.shedPart := by
    refine List.foldlRecOn _ _ (motive := fun u : Hw => u.shedPart = t.shedPart) rfl fun u same e _ => ?_
    dsimp only
    split
    · exact same
    · exact same
  rw [rampAllDown_eq]
  rw [pumped]
  have same := allBallast_shedPart s
  generalize s.allBallast = t at same
  exact same

theorem abandonPark_shedPart (s : Hw) : s.abandonPark.shedPart = s.shedPart := by
  unfold Hw.abandonPark
  split <;> rfl

/-- The module in SHED, before its ports and ramps follow. -/
def Hw.shedNow (s : Hw) : Hw := { s with
  snaps := [], fabric := []
  stk := { s.stk with
    state := .shed, inBeat := false, working := false, uncommitted := none, haltNext := false, haltUncontained := false
    retireAt := none, closing := false }
  flt := { s.flt with actions := [], detoursArmed := [], withdrawArmed := [] }
  tst := s.tst.lock
  pwr := { s.pwr with shed := 1, recordsSecured := false, flowReturned := false } }

theorem emergencyShed_eq {s : Hw} (runs : s.stk.state ≠ .shed) :
    s.emergencyShed = s.dropRecovery.shedNow.disablePorts.abandonPark.rampAllDown := if_neg runs

/-- The module as emergency shed puts it (R365). -/
structure Sheds (s t : Hw) : Prop where
  state : t.stk.state = .shed
  inBeat : t.stk.inBeat = false
  shed : t.pwr.shed = 1
  recovery : t.flt.recovery = none
  actions : t.flt.actions = []
  fabric : t.fabric = []
  unlocked : t.tst.unlocked = false
  ports : ∀ p < 64, (t.port p).state = .disabled
  running : t.running = s.running
  num : t.stk.num = s.stk.num

theorem Sheds.of_part {s t u : Hw} (h : Sheds s t) (same : u.shedPart = t.shedPart) : Sheds s u := by
  simp only [Hw.shedPart, Prod.mk.injEq] at same
  obtain ⟨stk, running, flt, fabric, tst, ports, shed⟩ := same
  have port (p : Nat) : u.port p = t.port p := by rw [Hw.port, ports, Hw.port]
  refine ⟨stk ▸ h.state, stk ▸ h.inBeat, shed.trans h.shed, flt ▸ h.recovery, flt ▸ h.actions, fabric.trans h.fabric,
    tst ▸ h.unlocked, fun p site => ?_, running.trans h.running, stk ▸ h.num⟩
  rw [port]
  exact h.ports p site

theorem emergencyShed_sheds {s : Hw} (runs : s.stk.state ≠ .shed) : Sheds s s.emergencyShed := by
  obtain ⟨recovery, stk, running⟩ := dropRecovery_none s
  have disabled : Sheds s s.dropRecovery.shedNow.disablePorts := by
    have ports (p : Nat) (site : p < 64) := disablePorts_state s.dropRecovery.shedNow site
    obtain ⟨ps, arbs, frame⟩ := disablePorts_frame s.dropRecovery.shedNow
    rw [frame] at ports ⊢
    exact ⟨rfl, rfl, rfl, recovery, rfl, rfl, rfl, ports, running, congrArg (·.num) stk⟩
  rw [emergencyShed_eq runs]
  exact disabled.of_part ((rampAllDown_shedPart _).trans (abandonPark_shedPart _))

/-! ## The triggers (R354, R365) -/

theorem bar0_stk (s : Hw) : (s.bar0 fun h => h).stk = s.stk ∧ (s.bar0 fun h => h).running = s.running := by
  unfold Hw.bar0
  split <;> exact ⟨rfl, rfl⟩

theorem record_runs (s : Hw) (i : RecIn) :
    (s.record i).stk.state = s.stk.state ∧ (s.record i).stk.num = s.stk.num ∧ (s.record i).running = s.running := by
  have same := SameStanding.of_course (record_course s i)
  exact ⟨same.state, same.num, same.running⟩

theorem exec_pwrShed (s : State) (k : W32) : exec (.pwrShed k) s = .next { s with
    hw := if k = 0x5AED0054 then (s.hw.bar0 fun h => h).emergencyShed else s.hw.bar0 fun h => h } := rfl

theorem exec_flowStop {s : State} {samples : List W16} (valid : s.hw.pwr.valid = true) (low : s.hw.pwr.flow.toNat < 1800)
    (all : ∀ v ∈ samples, v.toNat < 1800) (runs : s.hw.stk.state ≠ .shed) :
    ∃ i, exec (.flowStop samples) s = .next { s with hw := (s.hw.record i).emergencyShed } := by
  have call : exec (.flowStop samples) s = execFlowStop samples s := rfl
  have slow : lowFlow s.hw.pwr.flow = true := decide_eq_true low
  have samplesSlow : samples.all lowFlow = true := List.all_eq_true.2 fun v member => decide_eq_true (all v member)
  rw [call, execFlowStop]
  exact ⟨_, act_eq (if_neg (by simp [valid, slow, samplesSlow, runs]))⟩

theorem exec_junctionBackstop_cool {s : State} (cool : s.hw.anyPairAt 105 = false) : exec .junctionBackstop s = .next s := by
  have call : exec .junctionBackstop s = execJunctionBackstop s := rfl
  rw [call, execJunctionBackstop]
  exact act_eq (if_pos (by simp [cool]))

theorem exec_junctionBackstop_sheds {s : State} (hot : s.hw.anyPairAt 105 = true) (awake : s.hw.pwr.shed ≠ 2) :
    exec .junctionBackstop s = .next { s with hw := s.hw.emergencyShed } := by
  have call : exec .junctionBackstop s = execJunctionBackstop s := rfl
  rw [call, execJunctionBackstop]
  exact act_eq ((if_neg (by simp [hot])).trans (if_neg awake))

theorem exec_junctionBackstop_dark {s : State} (hot : s.hw.anyPairAt 105 = true) (retained : s.hw.pwr.shed = 2) :
    exec .junctionBackstop s = .next { s with hw := s.hw.memoryOff } := by
  have call : exec .junctionBackstop s = execJunctionBackstop s := rfl
  rw [call, execJunctionBackstop]
  exact act_eq ((if_neg (by simp [hot])).trans (if_pos retained))

/-! ## Retention (R365, R366) -/

theorem nget_filter_of_false {V : Type} {d : V} (m : NMap V) (p : Nat → Bool) {a : Nat} (gone : p a = false) :
    nget d (m.filter fun e => p e.1) a = d := by
  induction m with
  | nil => rfl
  | cons e m ih =>
    rw [List.filter_cons]
    split
    · next kept =>
      have other : e.1 ≠ a := fun same => by simp [← same, kept] at gone
      exact (if_neg other).trans ih
    · exact ih

/-- Without its rails, direct memory reads as zero. -/
theorem memoryOff_dark (s : Hw) : s.memoryOff.pwr.memOn = 0 ∧ s.memoryOff.pwr.shed = 3 ∧
    ∀ a, a < migBase → nget 0 s.memoryOff.mem a = 0 := by
  refine ⟨rfl, rfl, fun a direct => ?_⟩
  exact nget_filter_of_false s.mem (fun a => decide (a ≥ migBase) && decide ((s.home (pageOf a)).tier ≠ 1))
    (by simp [Nat.not_le.2 direct])

theorem exec_retentionTimeout {s : State} (retained : s.hw.pwr.shed = 2) (gone : s.hw.pwr.flowReturned = false) :
    exec .retentionTimeout s = .next { s with hw := s.hw.memoryOff } := by
  have call : exec .retentionTimeout s = execRetentionTimeout s := rfl
  rw [call, execRetentionTimeout]
  exact act_eq (if_pos (by simp [retained, gone]))

/-! ## The SHED record (R344) -/

/-- The logs hold what the rings held, and the SHED record with it. -/
def Hw.shedWritten (s : Hw) (i : RecIn) : Hw := ((s.copyTrails.copyFaults).record i).copyFaults

theorem exec_shedRecord {s : State} (shed : s.hw.pwr.shed = 1) (first : s.hw.pwr.recordsSecured = false) :
    ∃ i, exec .shedRecord s = .next { s with hw := { s.hw.shedWritten i with
      pwr := { (s.hw.shedWritten i).pwr with shed := 2, recordsSecured := true }
      flash := { (s.hw.shedWritten i).flash with shedMarker := (s.hw.shedWritten i).flash.shedMarker + 1 } } } := by
  have call : exec .shedRecord s = execShedRecord s := rfl
  rw [call, execShedRecord]
  exact ⟨_, act_eq (if_neg (by simp [shed, first]))⟩

theorem shedWritten_written (s : Hw) (i : RecIn) : (s.shedWritten i).flash.shedMarker = s.flash.shedMarker ∧
    (s.shedWritten i).flt.flashed = (s.shedWritten i).flt.head ∧ s.flt.nextSerial < (s.shedWritten i).flt.nextSerial ∧
    (s.shedWritten i).flt.tFlashed = s.flt.tHead := by
  have side := record_ringSide s.copyTrails.copyFaults i
  exact ⟨congrArg (·.2.2.2.1) side, rfl, record_serial_lt s.copyTrails.copyFaults i, congrArg (·.2.2.1) side⟩

/-- Settles O49: the four triggers, the SHED record, and the two ends of retention. -/
theorem emergencyShed : Obligations.EmergencyShed := by
  unfold Obligations.EmergencyShed
  intro s samples sheds dark
  have all {t : Hw} (h : Sheds s.hw t) : sheds { s with hw := t } :=
    ⟨h.state, h.inBeat, h.shed, h.recovery, h.actions, h.fabric, h.unlocked, h.ports, h.running, h.num⟩
  refine ⟨fun runs => ⟨?driver, fun k other => ?otherKey, fun awake hot => ?junction, fun valid low slow => ?flow⟩,
    fun shed first => ?record, fun retained hot => ⟨_, exec_junctionBackstop_dark hot retained, memoryOff_dark s.hw⟩,
    fun cool => ?cool, fun retained gone => ?timeout, fun shed valid flow => ?returned⟩
  case driver =>
    obtain ⟨stk, running⟩ := bar0_stk s.hw
    have h := emergencyShed_sheds (s := s.hw.bar0 fun h => h) (by rw [stk]; exact runs)
    refine ⟨_, exec_pwrShed s _, ?_⟩
    rw [if_pos rfl]
    refine all ?_
    exact ⟨h.state, h.inBeat, h.shed, h.recovery, h.actions, h.fabric, h.unlocked, h.ports, h.running.trans running,
      h.num.trans (congrArg (·.num) stk)⟩
  case otherKey => rw [exec_pwrShed, if_neg other]
  case junction => exact ⟨_, exec_junctionBackstop_sheds hot awake, all (emergencyShed_sheds runs)⟩
  case flow =>
    obtain ⟨i, result⟩ := exec_flowStop valid low slow runs
    obtain ⟨state, num, running⟩ := record_runs s.hw i
    have h := emergencyShed_sheds (s := s.hw.record i) (by rw [state]; exact runs)
    refine ⟨_, result, all ?_⟩
    exact ⟨h.state, h.inBeat, h.shed, h.recovery, h.actions, h.fabric, h.unlocked, h.ports, h.running.trans running,
      h.num.trans num⟩
  case record =>
    obtain ⟨i, result⟩ := exec_shedRecord shed first
    obtain ⟨marker, flashed, serial, trail⟩ := shedWritten_written s.hw i
    exact ⟨_, result, rfl, rfl, congrArg (· + 1) marker, flashed, serial, trail⟩
  case cool => exact exec_junctionBackstop_cool cool
  case timeout => exact ⟨_, exec_retentionTimeout retained gone, memoryOff_dark s.hw⟩
  case returned => exact act_eq (if_pos ⟨shed, valid, flow⟩)

end Sys2Proof.Machine
end

section
/-!
# Broadcast trees (R420-R422)

Passing content on and losing children sends messages and changes who the children are; memory and the count of what is in
stay. `Spreads` says so of one step and of the whole.
-/
namespace Sys2Proof.Machine

/-! ## Stretches of memory -/

theorem ngetList_congr {V : Type} {d : V} {m m' : NMap V} (n q : Nat) (same : ∀ i < n, nget d m (q + i) = nget d m' (q + i)) :
    ngetList d m q n = ngetList d m' q n := by
  induction n generalizing q with
  | zero => rfl
  | succ n ih =>
    rw [ngetList, ngetList, ih (q + 1) fun i below => ?_]
    · congr 1
      exact same 0 (Nat.succ_pos n)
    · have shifted := same (i + 1) (by omega)
      rwa [Nat.add_right_comm, Nat.add_assoc]

/-- A write beside a stretch of memory leaves what the stretch reads as. -/
theorem memRead_memWrite_apart {s : Hw} {off n a : Nat} {bs : List Byte} (apart : off + n ≤ a ∨ a + bs.length ≤ off) :
    (s.memWrite a bs).memRead off n = s.memRead off n := by
  refine ngetList_congr n off fun i below => ?_
  change nget 0 (nputList 0 s.mem a bs) (off + i) = _
  rw [nget_nputList, if_neg (by omega)]

/-! ## Messages -/

/-- A message that is sent changes its port and the arbiters. -/
theorem sendPort_frame (s : Hw) (p : Nat) (m : LMsg) : ∃ ports arbs, s.sendPort p m = { s with ports := ports, arbs := arbs } := by
  rw [Hw.sendPort, Hw.sendPortAt]
  obtain ⟨arbs, same⟩ := arbRaise_arbs (s.onPort p fun x => { x with egress := x.egress ++ [(legrInput m, m.frames, m)] })
    (portField p) 2 (portSite p) (legrInput m) m.frames
  exact ⟨_, arbs, same⟩

theorem sendBcast_frame (s : Hw) (rank : W16) (m : LMsg) : ∃ ports arbs, s.sendBcast rank m = { s with ports := ports, arbs := arbs } := by
  unfold Hw.sendBcast
  split
  · exact sendPort_frame ..
  · exact ⟨s.ports, s.arbs, rfl⟩

theorem sendContent_frame (s : Hw) (t : Nat) (tree rank : W16) (from' n : Nat) :
    ∃ ports arbs, s.sendContent t tree rank from' n = { s with ports := ports, arbs := arbs } := by
  refine List.foldlRecOn _ _ (motive := fun u : Hw => ∃ ports arbs, u = { s with ports := ports, arbs := arbs })
    ⟨s.ports, s.arbs, rfl⟩ ?_
  rintro _ ⟨ports, arbs, rfl⟩ p -
  obtain ⟨ports', arbs', sent⟩ := sendBcast_frame { s with ports := ports, arbs := arbs } rank
    (bcastMsg { s with ports := ports, arbs := arbs } rank tree p.1 p.2.1 false false 0 p.2.2)
  exact ⟨ports', arbs', sent⟩

theorem popAny_frame (s : Hw) (kind : Nat) (is : List Byte → Bool) : ∃ ports, s.popAny kind is = { s with ports := ports } := by
  unfold Hw.popAny
  split
  · exact ⟨_, rfl⟩
  · exact ⟨s.ports, rfl⟩

theorem foldl_sends {α : Type} {f : Hw → α → Hw} (sends : ∀ u x, ∃ ports arbs, f u x = { u with ports := ports, arbs := arbs })
    (l : List α) (s : Hw) : ∃ ports arbs, l.foldl f s = { s with ports := ports, arbs := arbs } := by
  refine l.foldlRecOn f (motive := fun u : Hw => ∃ ports arbs, u = { s with ports := ports, arbs := arbs }) ⟨s.ports, s.arbs, rfl⟩ ?_
  rintro _ ⟨ports, arbs, rfl⟩ x -
  obtain ⟨ports', arbs', sent⟩ := sends { s with ports := ports, arbs := arbs } x
  exact ⟨ports', arbs', sent⟩

/-! ## What spreading content leaves -/

/-- Memory, the counts and the entries are the same, and no child is forgotten. -/
structure Spreads (s t : Hw) : Prop where
  mem : t.mem = s.mem
  received : t.glb.received = s.glb.received
  base : t.glb.treeBase = s.glb.treeBase
  known : ∀ k, ∀ c ∈ s.childrenOf k, ∃ z ∈ t.childrenOf k, z.rank = c.rank

theorem Spreads.refl (s : Hw) : Spreads s s := ⟨rfl, rfl, rfl, fun _ c member => ⟨c, member, rfl⟩⟩

theorem Spreads.trans {s t u : Hw} (h : Spreads s t) (g : Spreads t u) : Spreads s u := by
  refine ⟨g.mem.trans h.mem, g.received.trans h.received, g.base.trans h.base, fun k c member => ?_⟩
  obtain ⟨z, there, rank⟩ := h.known k c member
  obtain ⟨y, last, same⟩ := g.known k z there
  exact ⟨y, last, same.trans rank⟩

theorem Spreads.of_sent {s t : Hw} (sent : ∃ ports arbs, t = { s with ports := ports, arbs := arbs }) : Spreads s t := by
  obtain ⟨ports, arbs, rfl⟩ := sent
  exact ⟨rfl, rfl, rfl, fun _ c member => ⟨c, member, rfl⟩⟩

theorem setChildren_childrenOf (s : Hw) (t : Nat) (cs : List Child) (k : Nat) :
    (s.setChildren t cs).childrenOf k = if k = t then cs else s.childrenOf k := nget_nput ..

theorem setChildren_spreads {s : Hw} {t : Nat} {cs : List Child} (known : ∀ c ∈ s.childrenOf t, ∃ z ∈ cs, z.rank = c.rank) :
    Spreads s (s.setChildren t cs) := by
  refine ⟨rfl, rfl, rfl, fun k c member => ?_⟩
  rw [setChildren_childrenOf]
  split
  · next here => exact known c (here ▸ member)
  · exact ⟨c, member, rfl⟩

theorem mapChildren_spreads (s : Hw) (t : Nat) {f : Child → Child} (same : ∀ c, (f c).rank = c.rank) (more : List Child) :
    Spreads s (s.setChildren t ((s.childrenOf t).map f ++ more)) :=
  setChildren_spreads fun c member => ⟨f c, List.mem_append_left _ (List.mem_map_of_mem member), same c⟩

theorem treeReport_spreads (s : Hw) (tree rank : W16) : Spreads s (s.treeReport tree rank) :=
  ⟨rfl, rfl, rfl, fun _ c member => ⟨c, member, rfl⟩⟩

/-! ## A lost child (R421, R422) -/

/-- A child of an entry marked lost. -/
def Child.lose (child : W16) (c : Child) : Child := if c.rank = child then { c with lost := true } else c

/-- The report of a lost child, up the controller tree and to the parent. -/
def Hw.reportLost (s : Hw) (t : Nat) (tree child : W16) : Hw :=
  let s := (s.setChildren t ((s.childrenOf t).map (Child.lose child))).treeReport tree child
  if s.treeParent t = 0xFFFF then s else s.sendBcast (s.treeParent t) (bcastMsg s (s.treeParent t) tree 0 false false true child [])

/-- The ranks that adopt the children of a lost one. -/
def Hw.adopters (s : Hw) (t : Nat) (child : W16) : List W16 :=
  ((s.treeChildren t).findIdx? fun r => decide (r = child)).elim [] fun i =>
    (s.treeAdoption t i).filter fun r => !((s.childrenOf t).map (·.rank)).contains r

/-- The adopters become children, and receive the content from its start. -/
def Hw.adopt' (s : Hw) (t : Nat) (tree : W16) (rs : List W16) (n : Nat) : Hw :=
  rs.foldl (fun s r => s.sendContent t tree r 0 n)
    (s.setChildren t (s.childrenOf t ++ rs.map fun r => { rank := r, sent := n, acked := 0, lost := false }))

theorem loseChild_eq {s : Hw} {t : Nat} {child : W16} (present : (s.childrenOf t).any (fun c => decide (c.rank = child) && !c.lost) = true)
    (tree : W16) : s.loseChild t tree child =
      (s.reportLost t tree child).adopt' t tree ((s.reportLost t tree child).adopters t child) (s.got t) :=
  if_neg (by simp [present])

theorem loseChild_absent {s : Hw} {t : Nat} {child : W16}
    (absent : (s.childrenOf t).any (fun c => decide (c.rank = child) && !c.lost) = false) (tree : W16) : s.loseChild t tree child = s :=
  if_pos (by simp [absent])

theorem lose_rank (child : W16) (c : Child) : (c.lose child).rank = c.rank := by
  unfold Child.lose
  split <;> rfl

theorem lose_lost {child : W16} {c : Child} (named : c.rank = child) : (c.lose child).lost = true := by
  rw [Child.lose, if_pos named]

/-- Reporting a lost child sends messages beside the report and the mark. -/
theorem reportLost_sends (s : Hw) (t : Nat) (tree child : W16) : ∃ ports arbs, s.reportLost t tree child =
    { (s.setChildren t ((s.childrenOf t).map (Child.lose child))).treeReport tree child with ports := ports, arbs := arbs } := by
  unfold Hw.reportLost
  dsimp only
  split
  · exact ⟨_, _, rfl⟩
  · exact sendBcast_frame ..

theorem adopt'_sends (s : Hw) (t : Nat) (tree : W16) (rs : List W16) (n : Nat) : ∃ ports arbs, s.adopt' t tree rs n =
    { s.setChildren t (s.childrenOf t ++ rs.map fun r => { rank := r, sent := n, acked := 0, lost := false }) with
      ports := ports, arbs := arbs } :=
  foldl_sends (fun u r => sendContent_frame u t tree r 0 n) rs _

theorem reportLost_spreads (s : Hw) (t : Nat) (tree child : W16) : Spreads s (s.reportLost t tree child) := by
  have marked := mapChildren_spreads s t (lose_rank child) []
  rw [List.append_nil] at marked
  exact (marked.trans (treeReport_spreads _ tree child)).trans (.of_sent (reportLost_sends s t tree child))

theorem adopt'_spreads (s : Hw) (t : Nat) (tree : W16) (rs : List W16) (n : Nat) : Spreads s (s.adopt' t tree rs n) :=
  (setChildren_spreads fun c member => ⟨c, List.mem_append_left _ member, rfl⟩).trans (.of_sent (adopt'_sends s t tree rs n))

theorem loseChild_spreads (s : Hw) (t : Nat) (tree child : W16) : Spreads s (s.loseChild t tree child) := by
  cases present : (s.childrenOf t).any (fun c => decide (c.rank = child) && !c.lost) with
  | false => rw [loseChild_absent present]; exact .refl s
  | true => rw [loseChild_eq present]; exact (reportLost_spreads ..).trans (adopt'_spreads ..)

/-- A lost child is reported once, and none of its rank is left that is not lost. -/
theorem loseChild_lost {s : Hw} {t : Nat} {child : W16}
    (present : (s.childrenOf t).any (fun c => decide (c.rank = child) && !c.lost) = true) (tree : W16) :
    (s.loseChild t tree child).glb.up = s.glb.up ++ [.treeReport tree child] ∧
      ∀ z ∈ (s.loseChild t tree child).childrenOf t, z.rank = child → z.lost = true := by
  rw [loseChild_eq present]
  have children : (s.reportLost t tree child).childrenOf t = (s.childrenOf t).map (Child.lose child) := by
    obtain ⟨ports, arbs, same⟩ := reportLost_sends s t tree child
    rw [same]
    exact (setChildren_childrenOf s t _ t).trans (if_pos rfl)
  have up : (s.reportLost t tree child).glb.up = s.glb.up ++ [.treeReport tree child] := by
    obtain ⟨ports, arbs, same⟩ := reportLost_sends s t tree child
    rw [same]
    rfl
  have strangers : ∀ r ∈ (s.reportLost t tree child).adopters t child, r ≠ child := by
    obtain ⟨c, member, named⟩ := List.any_eq_true.1 present
    have known : child ∈ ((s.reportLost t tree child).childrenOf t).map (·.rank) := by
      rw [children, List.map_map]
      refine List.mem_map.2 ⟨c, member, ?_⟩
      have rank : c.rank = child := by simpa using (Bool.and_eq_true_iff.1 named).1
      exact (lose_rank child c).trans rank
    intro r adopter same
    unfold Hw.adopters at adopter
    cases place : ((s.reportLost t tree child).treeChildren t).findIdx? fun r => decide (r = child) with
    | none => simp [place] at adopter
    | some i =>
      rw [place] at adopter
      obtain ⟨-, new⟩ := List.mem_filter.1 adopter
      simp [same, known] at new
  generalize s.reportLost t tree child = u at children up strangers ⊢
  obtain ⟨ports, arbs, adopted⟩ := adopt'_sends u t tree (u.adopters t child) (s.got t)
  rw [adopted]
  refine ⟨up, fun z member named => ?_⟩
  have kids := setChildren_childrenOf u t
    (u.childrenOf t ++ (u.adopters t child).map fun r => { rank := r, sent := s.got t, acked := 0, lost := false }) t
  rw [if_pos rfl] at kids
  have among := kids ▸ (show z ∈ (u.setChildren t _).childrenOf t from member)
  rcases List.mem_append.1 among with old | new
  · rw [children] at old
    obtain ⟨c, -, rfl⟩ := List.mem_map.1 old
    exact lose_lost ((lose_rank child c).symm.trans named)
  · obtain ⟨r, adopter, rfl⟩ := List.mem_map.1 new
    exact absurd named (strangers r adopter)

/-! ## Passing on (R421) -/

theorem loseCutOff_spreads (n : Nat) (s : Hw) (t : Nat) (tree : W16) : Spreads s (Hw.loseCutOff n s t tree) := by
  induction n generalizing s with
  | zero => exact .refl s
  | succ n ih =>
    rw [Hw.loseCutOff]
    split
    · exact .refl s
    · exact (loseChild_spreads ..).trans (ih _)

theorem passOn_spreads (s : Hw) (t : Nat) (tree : W16) (from' n : Nat) : Spreads s (s.passOn t tree from' n) := by
  refine (loseCutOff_spreads 40 s t tree).trans ?_
  unfold Hw.passOn
  dsimp only
  generalize Hw.loseCutOff 40 s t tree = u
  have marked := mapChildren_spreads u t (f := fun c => { c with sent := max c.sent (from' + n) }) (fun _ => rfl) []
  rw [List.append_nil] at marked
  refine marked.trans (.of_sent ?_)
  exact foldl_sends (f := fun v (c : Child) => v.sendContent t tree c.rank from' n)
    (fun v c => sendContent_frame v t tree c.rank from' n) (u.childrenOf t) _

theorem Spreads.got {s t : Hw} (h : Spreads s t) (k : Nat) : t.got k = s.got k := by rw [Hw.got, h.received, Hw.got]

theorem Spreads.treeState {s t : Hw} (h : Spreads s t) (k : Nat) : t.treeState k = s.treeState k := by
  simp only [Hw.treeState, Hw.treeGet, Hw.memNat, Hw.memRead, Hw.treeOff, h.mem, h.base]

theorem Spreads.treeLen {s t : Hw} (h : Spreads s t) (k : Nat) : t.treeLen k = s.treeLen k := by
  simp only [Hw.treeLen, Hw.treeGet, Hw.memNat, Hw.memRead, Hw.treeOff, h.mem, h.base]

theorem setTreeState_treeState (s : Hw) (t : Nat) {v : Nat} (small : v < 256) : (s.setTreeState t v).treeState t = v := by
  have read : ngetList 0 (nputList 0 s.mem (s.treeOff t) (leBytes 1 v)) (s.treeOff t) 1 = leBytes 1 v :=
    ngetList_nputList 0 s.mem (s.treeOff t) (leBytes 1 v)
  change leNat (ngetList 0 (nputList 0 s.mem (s.treeOff t) (leBytes 1 v)) (s.treeOff t) 1) = v
  rw [read]
  simp [leBytes, leNat, Nat.mod_eq_of_lt small]

theorem checkDigest_counts (s : Hw) (t : Nat) (tree : W16) (k : Nat) :
    (s.checkDigest t tree).got k = s.got k ∧ (s.checkDigest t tree).childrenOf k = s.childrenOf k := by
  unfold Hw.checkDigest
  split <;> exact ⟨rfl, rfl⟩

theorem checkDigest_decides (s : Hw) (t : Nat) (tree : W16) :
    (s.checkDigest t tree).treeState t = 3 ∨ (s.checkDigest t tree).treeState t = 4 := by
  unfold Hw.checkDigest
  split
  · exact .inl (setTreeState_treeState s t (v := 3) (by decide))
  · exact .inr (setTreeState_treeState s t (v := 4) (by decide))

/-! ## Content arrives (R421) -/

/-- The count of the content that is in, once more has come at an offset. -/
def gotAfter (old o len : Nat) : Nat := if o ≤ old then max old (o + len) else old

/-- The ack at each MiB and at the end, and the digest at the end. -/
def Hw.answerContent (s : Hw) (t : Nat) (tree parent : W16) (old new : Nat) (last : Bool) : Hw :=
  let full := decide (new ≥ s.treeLen t) && (last || decide (new > old))
  let u := if old / 1048576 < new / 1048576 ∨ full then s.sendBcast parent (bcastMsg s parent tree new false true false 0 []) else s
  if full then u.checkDigest t tree else u

/-- Content is written at its place, counted, passed on and answered; an armed entry begins with it. -/
def Hw.arrives (s : Hw) (t : Nat) (tree parent : W16) (o : Nat) (last : Bool) (data : List Byte) : Hw :=
  let s := if s.treeState t = trArmed then (s.beginTree t).setTreeState t trReceiving else s
  let s := s.memWrite (s.treeDest t + o) data
  let old := s.got t
  let new := gotAfter old o data.length
  ((s.setGot t new).passOn t tree o data.length).answerContent t tree parent old new last

theorem setGot_childrenOf (s : Hw) (t n k : Nat) : (s.setGot t n).childrenOf k = s.childrenOf k := rfl

theorem setGot_got (s : Hw) (t n : Nat) : (s.setGot t n).got t = n := (nget_nput ..).trans (if_pos rfl)

theorem answerContent_got (s : Hw) (t : Nat) (tree parent : W16) (old new : Nat) (last : Bool) :
    (s.answerContent t tree parent old new last).got t = s.got t := by
  unfold Hw.answerContent
  extract_lets full u
  have sent : u.got t = s.got t := by
    simp only [u]
    split
    · exact (Spreads.of_sent (sendBcast_frame ..)).got t
    · rfl
  clear_value u full
  split
  · exact (checkDigest_counts u t tree t).1.trans sent
  · exact sent

/-- Content that is not all in is only acknowledged. -/
theorem answerContent_mem {s : Hw} {t new : Nat} (more : new < s.treeLen t) (tree parent : W16) (old : Nat) (last : Bool) :
    (s.answerContent t tree parent old new last).mem = s.mem := by
  have notFull : (decide (new ≥ s.treeLen t) && (last || decide (new > old))) = false := by simp [Nat.not_le.2 more]
  unfold Hw.answerContent
  simp only [notFull, Bool.false_eq_true, or_false, if_false]
  split
  · exact (Spreads.of_sent (sendBcast_frame ..)).mem
  · rfl

theorem taken_got (s : Hw) (t : Nat) (tree parent : W16) (old new o n : Nat) (last : Bool) :
    (((s.setGot t new).passOn t tree o n).answerContent t tree parent old new last).got t = new := by
  rw [answerContent_got, (passOn_spreads ..).got, setGot_got]

theorem arrives_got (s : Hw) (t : Nat) (tree parent : W16) (o : Nat) (last : Bool) (data : List Byte)
    (notArmed : s.treeState t ≠ trArmed) :
    (s.arrives t tree parent o last data).got t = gotAfter (s.got t) o data.length := by
  unfold Hw.arrives
  rw [if_neg notArmed]
  exact taken_got ..

theorem arrives_begins (s : Hw) (t : Nat) (tree parent : W16) (o : Nat) (last : Bool) (data : List Byte)
    (armed : s.treeState t = trArmed) : (s.arrives t tree parent o last data).got t = gotAfter 0 o data.length := by
  have none' : (((s.beginTree t).setTreeState t trReceiving).memWrite
      (((s.beginTree t).setTreeState t trReceiving).treeDest t + o) data).got t = 0 := setGot_got s t 0
  unfold Hw.arrives
  rw [if_pos armed]
  exact (taken_got ..).trans (congrArg (gotAfter · o data.length) none')

/-- Content that lies beside its entry, and is not the last of it, changes its own place in memory alone. -/
theorem arrives_mem (s : Hw) (t : Nat) (tree parent : W16) (o : Nat) (last : Bool) (data : List Byte)
    (notArmed : s.treeState t ≠ trArmed)
    (apart : s.treeOff t + 256 ≤ s.treeDest t + o ∨ s.treeDest t + o + data.length ≤ s.treeOff t)
    (more : gotAfter (s.got t) o data.length < s.treeLen t) :
    (s.arrives t tree parent o last data).mem = nputList 0 s.mem (s.treeDest t + o) data := by
  have len : (s.memWrite (s.treeDest t + o) data).treeLen t = s.treeLen t :=
    congrArg leNat (memRead_memWrite_apart (s := s) (off := s.treeOff t + 0x10) (n := 8) (by omega))
  have spread := passOn_spreads ((s.memWrite (s.treeDest t + o) data).setGot t (gotAfter (s.got t) o data.length)) t tree o data.length
  unfold Hw.arrives
  rw [if_neg notArmed]
  refine (answerContent_mem ?_ tree parent _ last).trans spread.mem
  exact (more.trans_eq len.symm).trans_eq (spread.treeLen t).symm

section Arrives
variable {s : State} {p : PortIx} {tree : W16} {t : Nat} {off : BitVec 40} {bs : List Byte}
  (link : p.val < 48) (entry : s.hw.treeOf tree = some t)
include link entry

theorem exec_bcastData_taken (notDone : s.hw.treeState t ≠ trDone) (notFailed : s.hw.treeState t ≠ trFailed) :
    exec (.bcastData p tree off false bs) s = .next { s with
      hw := (s.hw.popInbox p.val 7).arrives t tree (s.hw.contentFrom p.val t) off.toNat false bs } := by
  have call : exec (.bcastData p tree off false bs) s = execBcastData p tree off false bs s := rfl
  have here : (s.hw.popInbox p.val 7).treeOf tree = some t := entry
  rw [call, execBcastData]
  refine act_eq ((if_neg (Nat.not_le.2 link)).trans ?_)
  rw [here]
  refine (if_neg notDone).trans ((if_neg notFailed).trans ?_)
  unfold Hw.arrives Hw.answerContent gotAfter
  with_reducible rfl

theorem exec_bcastData_counts (receiving : s.hw.treeState t = trReceiving) :
    ∃ u, exec (.bcastData p tree off false bs) s = .next { s with hw := u } ∧ u.got t = gotAfter (s.hw.got t) off.toNat bs.length ∧
      ((s.hw.treeOff t + 256 ≤ s.hw.treeDest t + off.toNat ∨ s.hw.treeDest t + off.toNat + bs.length ≤ s.hw.treeOff t) →
        gotAfter (s.hw.got t) off.toNat bs.length < s.hw.treeLen t →
        u.mem = nputList 0 s.hw.mem (s.hw.treeDest t + off.toNat) bs) := by
  have notArmed : (s.hw.popInbox p.val 7).treeState t ≠ trArmed := by
    rw [show (s.hw.popInbox p.val 7).treeState t = trReceiving from receiving]
    decide
  refine ⟨_, exec_bcastData_taken link entry (by rw [receiving]; decide) (by rw [receiving]; decide), ?_, fun apart more => ?_⟩
  · exact arrives_got (s.hw.popInbox p.val 7) t tree _ off.toNat false bs notArmed
  · exact arrives_mem (s.hw.popInbox p.val 7) t tree _ off.toNat false bs notArmed apart more

theorem exec_bcastData_begins (armed : s.hw.treeState t = trArmed) :
    ∃ u, exec (.bcastData p tree off false bs) s = .next { s with hw := u } ∧ u.got t = gotAfter 0 off.toNat bs.length :=
  ⟨_, exec_bcastData_taken link entry (by rw [armed]; decide) (by rw [armed]; decide),
    arrives_begins (s.hw.popInbox p.val 7) t tree _ off.toNat false bs armed⟩

theorem exec_bcastData_done (done : s.hw.treeState t = trDone) :
    exec (.bcastData p tree off false bs) s = .next { s with hw := { s.hw.popInbox p.val 7 with
      glb := { s.hw.glb with discarded := satInc s.hw.glb.discarded } } } := by
  have call : exec (.bcastData p tree off false bs) s = execBcastData p tree off false bs s := rfl
  have here : (s.hw.popInbox p.val 7).treeOf tree = some t := entry
  rw [call, execBcastData]
  refine act_eq ((if_neg (Nat.not_le.2 link)).trans ?_)
  rw [here]
  exact if_pos done

end Arrives

/-! ## Roots, acknowledgements, losses -/

/-- A root's entry once it holds the whole content, judged against its digest. -/
def Hw.rootBegun (s : Hw) (t : Nat) : Hw :=
  ((s.beginTree t).setGot t (s.treeLen t)).checkDigest t (BitVec.ofNat 16 (s.treeGet t 4 2))

theorem exec_treeArmed {s : State} {tr : Fin 16} (armed : s.hw.treeState tr.val = 1) (root : s.hw.treeParent tr.val = 0xFFFF) :
    exec (.treeArmed tr) s = .next { s with
      hw := (s.hw.rootBegun tr.val).passOn tr.val (BitVec.ofNat 16 (s.hw.treeGet tr.val 4 2)) 0 ((s.hw.rootBegun tr.val).treeLen tr.val) } := by
  have call : exec (.treeArmed tr) s = execTreeArmed tr s := rfl
  rw [call, execTreeArmed]
  refine act_eq (if_neg fun stop => ?_)
  rcases stop with other | below
  · exact other armed
  · exact below root

theorem beginTree_children (s : Hw) (t : Nat) :
    (s.beginTree t).childrenOf t = (s.treeChildren t).map fun r => { rank := r, sent := 0, acked := 0, lost := false } :=
  (setChildren_childrenOf ..).trans (if_pos rfl)

theorem rootBegun_holds (s : Hw) (t : Nat) : (s.rootBegun t).got t = s.treeLen t ∧
    (s.rootBegun t).childrenOf t = ((s.treeChildren t).map fun r => { rank := r, sent := 0, acked := 0, lost := false }) ∧
    ((s.rootBegun t).treeState t = 3 ∨ (s.rootBegun t).treeState t = 4) := by
  have counts := checkDigest_counts ((s.beginTree t).setGot t (s.treeLen t)) t (BitVec.ofNat 16 (s.treeGet t 4 2)) t
  rw [Hw.rootBegun, counts.1, counts.2]
  refine ⟨setGot_got .., ?_, checkDigest_decides ..⟩
  rw [setGot_childrenOf, beginTree_children]

/-- An acknowledgement as a child's entry takes it. -/
def Child.ack (child : W16) (n : Nat) (c : Child) : Child := if c.rank = child ∧ c.lost = false then { c with acked := max c.acked n } else c

theorem exec_bcastAck {s : State} {tree child : W16} {t : Nat} (entry : s.hw.treeOf tree = some t) (off : BitVec 40) :
    ∃ ports, exec (.bcastAck tree child off) s = .next { s with
      hw := { s.hw with ports := ports }.setChildren t ((s.hw.childrenOf t).map (Child.ack child off.toNat)) } := by
  obtain ⟨ports, popped⟩ := popAny_frame s.hw 7 fun m =>
    bit (at' m 16 8) 57 && decide (at' m 16 2 = tree.toNat) && decide (at' m 2 2 = child.toNat)
  have call : exec (.bcastAck tree child off) s = execBcastAck tree child off s := rfl
  have here : Hw.treeOf { s.hw with ports := ports } tree = some t := entry
  refine ⟨ports, ?_⟩
  rw [call, execBcastAck]
  refine act_eq ?_
  rw [Hw.popTree, popped]
  dsimp only
  rw [here]
  simp only [Bool.not_eq_true']
  rfl

theorem exec_bcastReport (s : State) (tree child rank : W16) :
    ∃ ports, exec (.bcastReport tree child rank) s = .next { s with hw := { s.hw with ports := ports } } := by
  obtain ⟨ports, popped⟩ := popAny_frame s.hw 7 fun m =>
    bit (at' m 16 8) 58 && decide (at' m 16 2 = tree.toNat) && decide (at' m 2 2 = child.toNat)
  have call : exec (.bcastReport tree child rank) s = execBcastReport tree child rank s := rfl
  refine ⟨ports, ?_⟩
  rw [call, execBcastReport]
  exact act_eq popped

theorem exec_treeChildLost {s : State} {tree child : W16} {t : Nat} (entry : s.hw.treeOf tree = some t) {c : Child}
    (member : c ∈ s.hw.childrenOf t) (named : c.rank = child) (there : c.lost = false) (owes : c.acked < c.sent) :
    exec (.treeChildLost tree child) s = .next { s with hw := s.hw.loseChild t tree child } := by
  have call : exec (.treeChildLost tree child) s = execTreeChildLost tree child s := rfl
  rw [call, execTreeChildLost]
  refine act_eq ?_
  rw [entry]
  exact if_pos (List.any_eq_true.2 ⟨c, member, by simp [named, there, owes]⟩)

/-- Settles O39: content of a member, of one that is done, acknowledgements, losses, reports and an armed root. -/
theorem broadcastTrees : Obligations.BroadcastTrees := by
  unfold Obligations.BroadcastTrees
  intro s p tr tree child off bs c h t entry
  refine ⟨fun link => ⟨fun receiving => ?receives, fun armed => ?begins, fun receiving start goes more apart => ?writes⟩,
    fun link done => ⟨_, exec_bcastData_done link entry done, rfl, rfl⟩, ?acks, fun member named there owes => ?loses, ?reports,
    fun armed root => ?root⟩
  case receives =>
    obtain ⟨u, result, got, -⟩ := exec_bcastData_counts (bs := bs) link entry receiving (off := off)
    exact ⟨_, result, got⟩
  case begins =>
    obtain ⟨u, result, got⟩ := exec_bcastData_begins (bs := bs) link entry armed (off := off)
    refine ⟨_, result, got.trans ?_⟩
    by_cases first : off.toNat = 0
    · simp [gotAfter, first]
    · simp [gotAfter, first]
  case writes =>
    have new : gotAfter (h.got t) off.toNat bs.length = off.toNat + bs.length := by
      rw [gotAfter, if_pos start]
      omega
    obtain ⟨u, result, got, mem⟩ := exec_bcastData_counts (bs := bs) link entry receiving (off := off)
    exact ⟨_, result, got.trans new, mem apart (new.trans_lt more)⟩
  case acks =>
    obtain ⟨ports, result⟩ := exec_bcastAck (child := child) entry off
    exact ⟨_, result, rfl, (setChildren_childrenOf ..).trans (if_pos rfl)⟩
  case loses =>
    have present : (h.childrenOf t).any (fun c => decide (c.rank = child) && !c.lost) = true :=
      List.any_eq_true.2 ⟨c, member, by simp [named, there]⟩
    exact ⟨_, exec_treeChildLost entry member named there owes, loseChild_lost present tree⟩
  case reports =>
    obtain ⟨ports, result⟩ := exec_bcastReport s tree child child
    exact ⟨_, result, rfl⟩
  case root =>
    obtain ⟨got, children, state⟩ := rootBegun_holds h t
    have spread := passOn_spreads (h.rootBegun t) t (BitVec.ofNat 16 (h.treeGet t 4 2)) 0 ((h.rootBegun t).treeLen t)
    refine ⟨_, exec_treeArmed armed root, (spread.got t).trans got, fun r named => ?_, ?_⟩
    · exact spread.known t { rank := r, sent := 0, acked := 0, lost := false } (children ▸ List.mem_map_of_mem named)
    · exact (spread.treeState t).symm ▸ state

end Sys2Proof.Machine
end

section
/-!
# FW_UPDATE may write to the logs of the flash (R275, R343, R415)

FW_UPDATE reads its image before it starts. A read inside a frame pool is refused with NO_HOME, which writes a fault record; a
record that comes while earlier ones are spilled goes to the log, and the log is kept in the flash.
-/
namespace Sys2Proof.Machine

/-- An idle module whose region 0 has frame 0 in its pool, and which has one spilled fault record. -/
def spillsNext : State := { hw := {
  glb := { gweku := true }, mbx := { state := .idle, version := 1 }, stk := { state := .idle }
  tng := { sec := some { plan := [], pools := [(0, 1)], resOff := 0, homeOff := 0, homePages := 0, inside := true } }
  flt := { head := 1 } } }

/-- FW_UPDATE of one byte at offset 0 of the module's own range, in that pool. -/
def poolImage : List Byte := leBytes 8 (0xFFFF * 2 ^ 48) ++ leBytes 8 1 ++ [0, 0]

/-- Whether a command leaves the fault log of the flash empty. -/
def leavesLogEmpty : Out → Bool
  | .next t => t.hw.flash.faultLog.isEmpty
  | _ => true

/-- The NO_HOME record of the refused read goes to the log. -/
theorem fwUpdate_writes_log : leavesLogEmpty (exec (.fwUpdate 0 poolImage) spillsNext) = false := by decide +kernel

theorem spillsNext_premises : MailboxReady spillsNext ∧ spillsNext.hw.glb.pldm = none ∧ poolImage.length = 18 ∧
    at' poolImage 0x10 1 ≤ 1 ∧ at' poolImage 0x11 1 = 0 ∧ spillsNext.hw.flash.faultLog.isEmpty = true := by
  unfold MailboxReady
  decide +kernel

/-- Refutes O38: an FW_UPDATE whose image lies in a frame pool, with a fault record spilled, changes the flash: the NO_HOME record of
its read goes to the fault log there. -/
theorem not_maintenanceCommands : ¬ Obligations.MaintenanceCommands := by
  unfold Obligations.MaintenanceCommands
  intro h
  obtain ⟨ready, pldm, length, kind, activate, empty⟩ := spillsNext_premises
  obtain ⟨-, -, -, update⟩ := h.1 spillsNext 0 poolImage _ _ ready
  obtain ⟨t, result, flash, -⟩ := update pldm length kind activate rfl
  have left := fwUpdate_writes_log
  rw [result, leavesLogEmpty, flash, empty] at left
  exact absurd left (by decide)

end Sys2Proof.Machine
end

section
/-!
# What reaches a span engine, and what does not (R288, R310, R312-R317)

Memory, records, links, orders and lost pages leave the cores, the span engines and the data that the host receives alone.
-/
namespace Sys2Proof.Machine

/-! ## Beside the engines -/

/-- Cores, span engines and the data that the host receives. -/
def Hw.engineSide (s : Hw) := (s.cores, s.spn.engines, s.readData)

theorem engineSide_eq {s t : Hw} (cores : t.cores = s.cores) (spn : t.spn = s.spn) (data : t.readData = s.readData) :
    t.engineSide = s.engineSide := by
  rw [Hw.engineSide, cores, spn, data]
  rfl

theorem foldl_engineSide {α : Type} {f : Hw → α → Hw} (step : ∀ s x, (f s x).engineSide = s.engineSide) (l : List α) (s : Hw) :
    (l.foldl f s).engineSide = s.engineSide :=
  l.foldlRecOn f (motive := fun t : Hw => t.engineSide = s.engineSide) rfl fun t same x _ => (step t x).trans same

theorem ite_engineSide {p : Prop} [Decidable p] {s t u : Hw} (h : t.engineSide = s.engineSide)
    (g : u.engineSide = s.engineSide) : (if p then t else u).engineSide = s.engineSide := by
  split
  · exact h
  · exact g

@[simp] theorem record_engineSide (s : Hw) (i : RecIn) : (s.record i).engineSide = s.engineSide :=
  engineSide_eq (record_cores ..) (record_spn ..) (record_readData ..)

@[simp] theorem uncontain_engineSide (s : Hw) (i : RecIn) : (s.uncontain i).engineSide = s.engineSide :=
  engineSide_eq (uncontain_cores ..) (uncontain_spn ..) (uncontain_readData ..)

@[simp] theorem raise_engineSide (s : Hw) (n : Nat) : (s.raise n).engineSide = s.engineSide :=
  engineSide_eq (raise_cores ..) (raise_spn ..) (raise_readData ..)

/-! ## Links and memory -/

@[simp] theorem leashDrop_engineSide (s : Hw) (p : Nat) (recorded : Bool) (header : List Byte) :
    (s.leashDrop p recorded header).engineSide = s.engineSide := by
  unfold Hw.leashDrop
  dsimp only
  split
  · rw [record_engineSide, raise_engineSide]
    rfl
  · rfl

@[simp] theorem sendPort_engineSide (s : Hw) (p : Nat) (m : LMsg) : (s.sendPort p m).engineSide = s.engineSide := by
  obtain ⟨ports, arbs, same⟩ := sendPort_frame s p m
  rw [same]
  rfl

@[simp] theorem popAny_engineSide (s : Hw) (kind : Nat) (is : List Byte → Bool) : (s.popAny kind is).engineSide = s.engineSide := by
  obtain ⟨ports, same⟩ := popAny_frame s kind is
  rw [same]
  rfl

@[simp] theorem arbSet_engineSide (s : Hw) (f kind inst input n : Nat) : (s.arbSet f kind inst input n).engineSide = s.engineSide := by
  unfold Hw.arbSet
  dsimp only
  split
  · exact ite_engineSide rfl rfl
  split
  · obtain ⟨arbs, same⟩ := arbRaise_arbs s f kind inst input n
    rw [same]
    rfl
  · rfl

@[simp] theorem noHome_engineSide (s : Hw) (src off n access : Nat) : (s.noHome src off n access).engineSide = s.engineSide :=
  ite_engineSide (record_engineSide ..) rfl

@[simp] theorem unitTraffic_engineSide (s : Hw) (block off n : Nat) (read : Bool) :
    (s.unitTraffic block off n read).engineSide = s.engineSide := by
  obtain ⟨arbs, same⟩ := unitTraffic_arbs s block off n read
  rw [same]
  rfl

@[simp] theorem markDirty_engineSide (s : Hw) (off n : Nat) : (s.markDirty off n).engineSide = s.engineSide := by
  obtain ⟨arbs, tng, same⟩ := markDirty_frame s off n
  rw [same]
  rfl

@[simp] theorem memWrite_engineSide (s : Hw) (a : Nat) (b : List Byte) : (s.memWrite a b).engineSide = s.engineSide := rfl

@[simp] theorem spanLoad_engineSide (s : Hw) (src off n : Nat) : (s.spanLoad src off n).1.engineSide = s.engineSide := by
  unfold Hw.spanLoad
  dsimp only
  split <;> simp

@[simp] theorem spanStore_engineSide (s : Hw) (src off : Nat) (bs : List Byte) :
    (s.spanStore src off bs).1.engineSide = s.engineSide := by
  unfold Hw.spanStore
  dsimp only
  split <;> simp

@[simp] theorem journalInsert_engineSide (s : Hw) (e : JEntry) : (s.journalInsert e).engineSide = s.engineSide := by
  unfold Hw.journalInsert
  rw [memWrite_engineSide]
  split
  · rfl
  split
  · rfl
  · rfl

@[simp] theorem atomicApply_engineSide (s : Hw) (a : AtomicReq) : (s.atomicApply a).1.engineSide = s.engineSide := by
  unfold Hw.atomicApply
  split
  · rfl
  split
  · rfl
  dsimp only
  split <;> simp

/-! ## Orders and lost pages (R284, R288, R336-R338) -/

@[simp] theorem endPage_engineSide (s : Hw) (req page status : Nat) : (s.endPage req page status).engineSide = s.engineSide := by
  unfold Hw.endPage
  split
  · rfl
  · exact ite_engineSide rfl rfl

@[simp] theorem endOrder_engineSide (s : Hw) (o : Order) (status : Nat) : (s.endOrder o status).engineSide = s.engineSide :=
  endPage_engineSide ..

@[simp] theorem setHome_engineSide (s : Hw) (p : Nat) (h : Home) : (s.setHome p h).engineSide = s.engineSide := by
  unfold Hw.setHome
  dsimp only
  split
  · rfl
  · exact ite_engineSide rfl rfl

@[simp] theorem onHome_engineSide (s : Hw) (p : Nat) (f : Home → Home) : (s.onHome p f).engineSide = s.engineSide :=
  setHome_engineSide ..

@[simp] theorem backHome_engineSide (s : Hw) (o : Order) : (s.backHome o).engineSide = s.engineSide := by
  unfold Hw.backHome
  split
  · exact ite_engineSide (onHome_engineSide ..) rfl
  · exact ite_engineSide (onHome_engineSide ..) rfl
  · rfl

@[simp] theorem dropOrder_engineSide (s : Hw) (o : Order) (status : Nat) : (s.dropOrder o status).engineSide = s.engineSide := by
  have ended : ((if o.phase.inProgress then s.backHome o else s).endOrder o status).engineSide = s.engineSide :=
    (endOrder_engineSide ..).trans (ite_engineSide (backHome_engineSide ..) rfl)
  exact ite_engineSide ended ((arbSet_engineSide ..).trans ended)

@[simp] theorem failFill_engineSide (s : Hw) (w : Nat) : (s.failFill w).engineSide = s.engineSide := by
  unfold Hw.failFill
  refine ite_engineSide ((raise_engineSide ..).trans ?_) ?_
  · exact record_engineSide ..
  · exact record_engineSide ..

@[simp] theorem dropRef_engineSide (s : Hw) (k : KvSec) (i : Nat) : (s.dropRef k i).engineSide = s.engineSide := by
  unfold Hw.dropRef
  exact ite_engineSide rfl rfl

@[simp] theorem evictNode_engineSide (s : Hw) (k : KvSec) (n : Nat) : (s.evictNode k n).engineSide = s.engineSide := by
  unfold Hw.evictNode
  refine (memWrite_engineSide ..).trans ((ite_engineSide rfl (memWrite_engineSide ..)).trans ?_)
  exact foldl_engineSide (fun _ _ => dropRef_engineSide ..) _ s

@[simp] theorem loseKv_engineSide (s : Hw) (p : Nat) : (s.loseKv p).engineSide = s.engineSide := by
  unfold Hw.loseKv
  split
  · exact (foldl_engineSide (fun _ _ => evictNode_engineSide ..) _ _).trans rfl
  · rfl

/-- The loss of a weight page that no beat reads. -/
@[simp] theorem loseWeight_engineSide (s : Hw) (p serial : Nat) : (s.loseWeight p serial none).engineSide = s.engineSide := by
  unfold Hw.loseWeight
  split
  · exact failFill_engineSide ..
  dsimp only
  split
  · exact (show _ = _ from rfl : Hw.engineSide (Hw.expertChange _ _ p false) = Hw.engineSide _).trans (ite_engineSide rfl rfl)
  · exact ite_engineSide rfl rfl
  · next no => cases no

@[simp] theorem pageLost_engineSide (s : Hw) (p : Nat) : (s.pageLost p none).engineSide = s.engineSide := by
  unfold Hw.pageLost
  refine ite_engineSide rfl ?_
  extract_lets t u src v n refetches w
  have dropped : t.engineSide = s.engineSide := foldl_engineSide (fun _ _ => dropOrder_engineSide ..) _ s
  have lost : u.engineSide = s.engineSide := (onHome_engineSide ..).trans dropped
  have raised : v.engineSide = s.engineSide := (raise_engineSide ..).trans lost
  have recorded : w.engineSide = s.engineSide := (record_engineSide ..).trans raised
  clear_value w
  split
  · exact (loseWeight_engineSide ..).trans recorded
  · exact (loseKv_engineSide ..).trans recorded
  · exact (uncontain_engineSide ..).trans recorded
  · exact recorded

@[simp] theorem reapLoans_engineSide (s : Hw) : s.reapLoans.engineSide = s.engineSide :=
  (foldl_engineSide (fun _ _ => pageLost_engineSide ..) _ _).trans rfl

@[simp] theorem loanDone_engineSide (s : Hw) (r : SpanReq) (status : Nat) (old : W64) :
    (s.loanDone r status old).engineSide = s.engineSide :=
  ite_engineSide rfl (ite_engineSide (pageLost_engineSide ..) (ite_engineSide (memWrite_engineSide ..) rfl))

/-- An access of another rank leaves no loan behind. -/
theorem loanDone_of_other {s : Hw} {r : SpanReq} (other : s.ownRank (addrRank r.address) = false) (status : Nat) (old : W64) :
    s.loanDone r status old = s := by
  unfold Hw.loanDone
  exact if_pos (by simp [other])

theorem reapLoans_of_none {s : Hw} (none : s.spn.deadLoans = []) :
    s.reapLoans = { s with spn := { s.spn with deadLoans := [] } } := by
  rw [Hw.reapLoans, none]
  rfl

end Sys2Proof.Machine
end

section
/-!
# What a span engine does to its requests (R309-R317)

Serving, sending and completing keep the list of an engine's requests but for those that complete: none joins, none that has left is
held again, and the sweeps that the engine awaits and the cores' instruction counters stay.
-/
namespace Sys2Proof.Machine

theorem spanEng_setSpanEng (s : Hw) (e : Nat) (x : SpanEng) : (s.setSpanEng e x).spanEng e = x := by
  rw [Hw.spanEng, Hw.setSpanEng, nget_nput, if_pos rfl]

theorem spanEng_of_engineSide {s t : Hw} (same : t.engineSide = s.engineSide) (e : Nat) : t.spanEng e = s.spanEng e :=
  congrArg (fun side : NMap CoreState × NMap SpanEng × List Byte => nget ({} : SpanEng) side.2.1 e) same

theorem core_of_engineSide {s t : Hw} (same : t.engineSide = s.engineSide) (c : Nat) : t.core c = s.core c :=
  congrArg (fun side : NMap CoreState × NMap SpanEng × List Byte => nget ({} : CoreState) side.1 c) same

theorem readData_of_engineSide {s t : Hw} (same : t.engineSide = s.engineSide) : t.readData = s.readData :=
  congrArg (fun side : NMap CoreState × NMap SpanEng × List Byte => side.2.2) same

/-! ## Work of an engine -/

/-- From `s` to `t` engine `e` gained no request, and each it holds has left or is as it was; its sweeps and the cores'
instruction counters are the same. -/
structure SpanWork (e : Nat) (s t : Hw) : Prop where
  reqs : ∀ q ∈ (t.spanEng e).reqs, ∃ p ∈ (s.spanEng e).reqs, p.order = q.order ∧ (q.left = true ∨ q = p)
  sweeps : (t.spanEng e).sweeps = (s.spanEng e).sweeps
  pc : ∀ c, (t.core c).pc = (s.core c).pc

/-- No taken request of an engine is still to leave. -/
def AllGone (x : SpanEng) : Prop := ∀ q ∈ x.reqs, q.taken = false ∨ q.left = true

namespace SpanWork

theorem refl (e : Nat) (s : Hw) : SpanWork e s s := ⟨fun q mem => ⟨q, mem, rfl, .inr rfl⟩, rfl, fun _ => rfl⟩

theorem trans {e : Nat} {s t u : Hw} (first : SpanWork e s t) (second : SpanWork e t u) : SpanWork e s u where
  reqs q mem := by
    obtain ⟨p, mem, order, kept⟩ := second.reqs q mem
    obtain ⟨o, mem', order', kept'⟩ := first.reqs p mem
    refine ⟨o, mem', order'.trans order, ?_⟩
    obtain left | rfl := kept
    · exact .inl left
    · exact kept'
  sweeps := second.sweeps.trans first.sweeps
  pc c := (second.pc c).trans (first.pc c)

theorem of_eq {e : Nat} {s t : Hw} (eng : t.spanEng e = s.spanEng e) (pc : ∀ c, (t.core c).pc = (s.core c).pc) : SpanWork e s t :=
  ⟨by rw [eng]; exact (refl e s).reqs, by rw [eng], pc⟩

theorem of_engineSide {s t : Hw} (same : t.engineSide = s.engineSide) (e : Nat) : SpanWork e s t :=
  of_eq (spanEng_of_engineSide same e) fun c => by rw [core_of_engineSide same c]

theorem foldl {α : Type} {e : Nat} {f : Hw → α → Hw} (l : List α) (step : ∀ t, ∀ x ∈ l, SpanWork e t (f t x)) (s : Hw) :
    SpanWork e s (l.foldl f s) :=
  l.foldlRecOn f (motive := fun t : Hw => SpanWork e s t) (refl e s) fun t work x mem => work.trans (step t x mem)

theorem ite {e : Nat} {p : Prop} [Decidable p] {s t u : Hw} (h : SpanWork e s t) (g : SpanWork e s u) :
    SpanWork e s (if p then t else u) := by
  split
  · exact h
  · exact g

theorem none_of_order {e : Nat} {s t : Hw} (work : SpanWork e s t) {o : Nat} (none : ∀ q ∈ (s.spanEng e).reqs, q.order ≠ o) :
    ∀ q ∈ (t.spanEng e).reqs, q.order ≠ o := by
  intro q mem
  obtain ⟨p, mem, order, -⟩ := work.reqs q mem
  exact order ▸ none p mem

theorem left_of_order {e : Nat} {s t : Hw} (work : SpanWork e s t) {o : Nat}
    (gone : ∀ q ∈ (s.spanEng e).reqs, q.order = o → q.left = true) : ∀ q ∈ (t.spanEng e).reqs, q.order = o → q.left = true := by
  intro q mem same
  obtain ⟨p, mem, order, left | rfl⟩ := work.reqs q mem
  · exact left
  · exact gone q mem same

theorem allGone {e : Nat} {s t : Hw} (work : SpanWork e s t) (gone : AllGone (s.spanEng e)) : AllGone (t.spanEng e) := by
  intro q mem
  obtain ⟨p, mem, -, left | rfl⟩ := work.reqs q mem
  · exact .inr left
  · exact gone q mem

end SpanWork

/-! ## Completion -/

theorem pc_onCore (s : Hw) (c : Nat) {f : CoreState → CoreState} (keeps : ∀ x, (f x).pc = x.pc) (n : Nat) :
    ((s.onCore c f).core n).pc = (s.core n).pc := by
  rw [Hw.onCore, Hw.core, Hw.setCore, nget_nput]
  split
  · next same =>
    rw [keeps, same]
  · rfl

theorem spanDone_pc (x : CoreState) (r : SpanReq) (status : Nat) (data : List Byte) (old : W64) :
    (x.spanDone r status data old).pc = x.pc := by
  rw [CoreState.spanDone, tokDone_eq]

theorem fenceDone_pc (x : CoreState) (f : Fence) : (x.fenceDone f).pc = x.pc := by
  rw [CoreState.fenceDone, tokDone_eq]

theorem onCore_work (e : Nat) (s : Hw) (c : Nat) {f : CoreState → CoreState} (keeps : ∀ x, (f x).pc = x.pc) :
    SpanWork e s (s.onCore c f) :=
  .of_eq rfl fun n => pc_onCore s c keeps n

/-- An engine is put to a state with fewer requests, or with some that have left, and the same sweeps. -/
theorem setSpanEng_work {e : Nat} {s : Hw} {x : SpanEng}
    (reqs : ∀ q ∈ x.reqs, ∃ p ∈ (s.spanEng e).reqs, p.order = q.order ∧ (q.left = true ∨ q = p))
    (sweeps : x.sweeps = (s.spanEng e).sweeps) : SpanWork e s (s.setSpanEng e x) := by
  have put := spanEng_setSpanEng s e x
  exact ⟨by rwa [put], by rw [put, sweeps], fun _ => rfl⟩

theorem setReq_work (e : Nat) (s : Hw) {r : SpanReq} (left : r.left = true) : SpanWork e s (s.setReq e r) := by
  refine setSpanEng_work ?_ rfl
  intro q mem
  obtain ⟨p, inside, rfl⟩ := List.mem_map.1 mem
  refine ⟨p, inside, ?_⟩
  split
  · next same => exact ⟨same, .inl left⟩
  · exact ⟨rfl, .inr rfl⟩

theorem runFences_work (e : Nat) (s : Hw) : SpanWork e s (s.runFences e) := by
  have run : SpanWork e s ((s.spanEng e).fences.foldl
      (fun s f => if f.covers.isEmpty then s.onCore f.core fun c => c.fenceDone f else s) s) :=
    .foldl _ (fun t f _ => .ite (onCore_work e t _ fun _ => fenceDone_pc ..) (.refl e t)) s
  exact run.trans (setSpanEng_work (fun q mem => ⟨q, mem, rfl, .inr rfl⟩) rfl)

theorem windowDone_work (e : Nat) (s : Hw) (r : SpanReq) (status : Nat) (data : List Byte) :
    SpanWork e s (s.windowDone r status data) := by
  have put (t : Hw) (d : List Byte) : SpanWork e t { t with readData := d } := .of_eq rfl fun _ => rfl
  have err (t : Hw) (m : Mbx) : SpanWork e t { t with mbx := m } := .of_eq rfl fun _ => rfl
  have given : SpanWork e s (if r.op = 0 then
      { s with readData := if status = 0 then padTo r.size data else List.replicate r.size 0xFF } else s) :=
    .ite (put ..) (.refl e s)
  exact .ite given (given.trans (err ..))

@[simp] theorem spanFault_engineSide (s : Hw) (r : SpanReq) (status : Nat) : (s.spanFault r status).engineSide = s.engineSide := by
  unfold Hw.spanFault
  dsimp only
  split
  · rw [record_engineSide, raise_engineSide]
    rfl
  split
  · rw [record_engineSide, raise_engineSide]
    rfl
  · rfl

/-- A completed request's core, or the host, has its answer. -/
def Hw.answered (s : Hw) (r : SpanReq) (status : Nat) (data : List Byte) (old : W64) : Hw :=
  if r.core = hostCore then s.windowDone r status data else s.onCore r.core fun c => c.spanDone r status data old

/-- An engine without the requests of an order, which its fences no longer wait for. -/
def SpanEng.ended (x : SpanEng) (o status : Nat) : SpanEng := { x with
  reqs := x.reqs.filter fun q => decide (q.order ≠ o)
  fences := x.fences.map fun f =>
    if f.covers.contains o then { f with covers := f.covers.erase o, worst := max f.worst status } else f }

theorem spanComplete_eq (s : Hw) (e : Nat) (r : SpanReq) (status : Nat) (data : List Byte) (old : W64) :
    s.spanComplete e r status data old = (((s.setSpanEng e ((s.spanEng e).ended r.order status)).answered r status data
      old).spanFault r status).runFences e := rfl

theorem answered_work (e : Nat) (s : Hw) (r : SpanReq) (status : Nat) (data : List Byte) (old : W64) :
    SpanWork e s (s.answered r status data old) :=
  .ite (windowDone_work ..) (onCore_work e s _ fun _ => spanDone_pc ..)

theorem answered_eng (s : Hw) (r : SpanReq) (status : Nat) (data : List Byte) (old : W64) (e : Nat) :
    (s.answered r status data old).spanEng e = s.spanEng e := by
  unfold Hw.answered
  split
  · unfold Hw.windowDone
    dsimp only
    split <;> split <;> rfl
  · rfl

/-- What follows the withdrawal of a completed request. -/
theorem completed_work (e : Nat) (s : Hw) (r : SpanReq) (status : Nat) (data : List Byte) (old : W64) :
    SpanWork e s (((s.answered r status data old).spanFault r status).runFences e) :=
  ((answered_work ..).trans (.of_engineSide (spanFault_engineSide ..) e)).trans (runFences_work ..)

theorem spanComplete_work (e : Nat) (s : Hw) (r : SpanReq) (status : Nat) (data : List Byte) (old : W64) :
    SpanWork e s (s.spanComplete e r status data old) := by
  rw [spanComplete_eq]
  have out : SpanWork e s (s.setSpanEng e ((s.spanEng e).ended r.order status)) :=
    setSpanEng_work (fun q mem => ⟨q, (List.mem_filter.1 mem).1, rfl, .inr rfl⟩) rfl
  exact out.trans (completed_work e _ r status data old)

/-- A completed request is out of its engine. -/
theorem spanComplete_out (e : Nat) (s : Hw) (r : SpanReq) (status : Nat) (data : List Byte) (old : W64) :
    ∀ q ∈ ((s.spanComplete e r status data old).spanEng e).reqs, q.order ≠ r.order := by
  rw [spanComplete_eq]
  refine (completed_work ..).none_of_order ?_
  rw [spanEng_setSpanEng]
  exact fun q mem => of_decide_eq_true (List.mem_filter.1 mem).2

/-! ## Leaving -/

theorem posted_work (e : Nat) (s : Hw) {r : SpanReq} (left : r.left = true) {q : Nat} {m : LMsg} :
    SpanWork e s ((s.setReq e r).sendPort q m) :=
  (setReq_work e s left).trans (.of_engineSide (sendPort_engineSide ..) e)

theorem lost_work (e : Nat) (s : Hw) {r : SpanReq} (left : r.left = true) {p : Nat} {recorded : Bool} {header : List Byte} :
    SpanWork e s ((s.setReq e r).leashDrop p recorded header) :=
  (setReq_work e s left).trans (.of_engineSide (leashDrop_engineSide ..) e)

theorem sendLoan_work (e : Nat) (s : Hw) {r : SpanReq} (left : r.left = true) (addr : Nat) : SpanWork e s (s.sendLoan e r addr) := by
  have dead (t : Hw) (work : SpanWork e s t) (ps : List Nat) :
      SpanWork e s { t with spn := { t.spn with deadLoans := ps } } := 
    work.trans (.of_eq rfl fun _ => rfl)
  unfold Hw.sendLoan
  dsimp only
  split
  · exact dead _ (spanComplete_work ..) _
  split
  · exact dead _ (spanComplete_work ..) _
  split
  · exact .of_engineSide (leashDrop_engineSide ..) e
  · refine posted_work e s ?_
    exact left

theorem serveOwn_work (e : Nat) (s : Hw) {r : SpanReq} (left : r.left = true) : SpanWork e s (s.serveOwn e r) := by
  have loaded (off : Nat) := SpanWork.of_engineSide (spanLoad_engineSide s s.spn.rank.toNat off r.size) e
  have stored (off : Nat) := SpanWork.of_engineSide (spanStore_engineSide s s.spn.rank.toNat off r.data) e
  have applied (a : AtomicReq) := SpanWork.of_engineSide (atomicApply_engineSide s a) e
  unfold Hw.serveOwn
  dsimp only
  split
  · exact (SpanWork.ite (stored _) (.refl e s)).trans (sendLoan_work e _ left _)
  split
  · exact (loaded _).trans (spanComplete_work ..)
  split
  · exact (stored _).trans (spanComplete_work ..)
  · exact (applied _).trans (spanComplete_work ..)

theorem sendReq_work (e : Nat) (s : Hw) {r : SpanReq} (left : r.left = true) : SpanWork e s (s.sendReq e r) := by
  unfold Hw.sendReq
  dsimp only
  split
  · exact spanComplete_work ..
  split
  · exact spanComplete_work ..
  split
  · exact serveOwn_work e s left
  split
  · refine lost_work e s ?_
    exact left
  · refine posted_work e s ?_
    exact left

/-- A request as it leaves: with tag, epoch, generation and first issue. -/
def Hw.leaving (s : Hw) (e : Nat) (r : SpanReq) : SpanReq :=
  { r with left := true, tag := (s.spanEng e).tagCtr.toNat, epoch := s.spn.epoch.toNat, gen := s.spn.gen, firstIssue := s.stk.time }

/-- The engine with a request that leaves, before anything is sent. -/
def Hw.marked (s : Hw) (e : Nat) (r : SpanReq) : Hw :=
  (s.setSpanEng e { s.spanEng e with tagCtr := (s.spanEng e).tagCtr + 1 }).setReq e (s.leaving e r)

theorem leave_eq (s : Hw) (e : Nat) (r : SpanReq) : s.leave e r =
    if (s.marked e r).ownRank (addrRank r.address) then (s.marked e r).serveOwn e (s.leaving e r)
    else (s.marked e r).sendReq e (s.leaving e r) := rfl

theorem marked_work (e : Nat) (s : Hw) (r : SpanReq) : SpanWork e s (s.marked e r) := by
  have tagged : SpanWork e s (s.setSpanEng e { s.spanEng e with tagCtr := (s.spanEng e).tagCtr + 1 }) :=
    setSpanEng_work (fun q mem => ⟨q, mem, rfl, .inr rfl⟩) rfl
  exact tagged.trans (setReq_work e _ rfl)

theorem marked_left (e : Nat) (s : Hw) (r : SpanReq) :
    ∀ q ∈ ((s.marked e r).spanEng e).reqs, q.order = r.order → q.left = true := by
  rw [Hw.marked, Hw.setReq, spanEng_setSpanEng, spanEng_setSpanEng]
  intro q mem order
  obtain ⟨p, -, rfl⟩ := List.mem_map.1 mem
  by_cases same : p.order = r.order
  · exact congrArg SpanReq.left (if_pos same)
  · exact absurd (((congrArg SpanReq.order (if_neg same)).symm.trans order) : p.order = r.order) same

theorem sent_work (e : Nat) (s : Hw) (r : SpanReq) : SpanWork e (s.marked e r) (s.leave e r) := by
  rw [leave_eq]
  exact .ite (serveOwn_work e _ rfl) (sendReq_work e _ rfl)

theorem leave_work (e : Nat) (s : Hw) (r : SpanReq) : SpanWork e s (s.leave e r) := (marked_work e s r).trans (sent_work e s r)

/-- Whatever leaves is no longer held, whether it is still in its engine or not. -/
theorem leave_left (e : Nat) (s : Hw) (r : SpanReq) : ∀ q ∈ ((s.leave e r).spanEng e).reqs, q.order = r.order → q.left = true :=
  (sent_work e s r).left_of_order (marked_left e s r)

/-! ## Running an engine -/

/-- One request's turn to leave. -/
def Hw.turn (s : Hw) (e : Nat) (flags : Bool) (r : SpanReq) : Hw :=
  match (s.spanEng e).reqs.find? fun q => decide (q.order = r.order) with
  | none => s
  | some r => if !r.taken || r.left || s.mustWait (s.spanEng e) r flags then s else s.leave e r

theorem runEngine_eq (s : Hw) (e : Nat) (flags : Bool) :
    s.runEngine e flags = (s.spanEng e).reqs.foldl (fun s r => s.turn e flags r) s := rfl

theorem turn_work (e : Nat) (flags : Bool) (s : Hw) (r : SpanReq) : SpanWork e s (s.turn e flags r) := by
  unfold Hw.turn
  split
  · exact .refl e s
  · exact .ite (.refl e s) (leave_work ..)

theorem runEngine_work (e : Nat) (flags : Bool) (s : Hw) : SpanWork e s (s.runEngine e flags) :=
  .foldl _ (fun t r _ => turn_work e flags t r) s

/-- A turn passes where nothing of that order is still to leave. -/
theorem turn_passes {s : Hw} {e : Nat} {r : SpanReq} (flags : Bool)
    (gone : ∀ q ∈ (s.spanEng e).reqs, q.order = r.order → q.taken = false ∨ q.left = true) : s.turn e flags r = s := by
  unfold Hw.turn
  split
  · rfl
  · next q found =>
    have order := List.find?_some found
    refine if_pos ?_
    obtain untaken | left := gone q (List.mem_of_find?_eq_some found) (of_decide_eq_true order)
    · simp [untaken]
    · simp [left]

theorem turns_pass {s : Hw} {e : Nat} (flags : Bool) (gone : AllGone (s.spanEng e)) (l : List SpanReq) :
    l.foldl (fun s r => s.turn e flags r) s = s := by
  induction l with
  | nil => rfl
  | cons r l ih => rw [List.foldl_cons, turn_passes flags fun q mem _ => gone q mem, ih]

/-- An engine whose requests have all left, or wait for their beat, does nothing. -/
theorem runEngine_passes {s : Hw} {e : Nat} (flags : Bool) (gone : AllGone (s.spanEng e)) : s.runEngine e flags = s :=
  turns_pass flags gone _

/-- With one request still to leave, which need not wait, running the engine lets that one leave and nothing else. -/
theorem runEngine_leaves {s : Hw} {e : Nat} {flags : Bool} {q : SpanReq} (mem : q ∈ (s.spanEng e).reqs) (taken : q.taken = true)
    (held : q.left = false) (free : s.mustWait (s.spanEng e) q flags = false)
    (alone : ∀ r ∈ (s.spanEng e).reqs, r.order = q.order → r = q)
    (others : ∀ r ∈ (s.spanEng e).reqs, r ≠ q → r.taken = false ∨ r.left = true) : s.runEngine e flags = s.leave e q := by
  have turn : s.turn e flags q = s.leave e q := by
    unfold Hw.turn
    split
    · next missing => simpa using List.find?_eq_none.1 missing q mem
    · next r found =>
      obtain rfl := alone r (List.mem_of_find?_eq_some found) (by simpa using List.find?_some found)
      exact if_neg (by simp [taken, held, free])
  have after : AllGone ((s.leave e q).spanEng e) := by
    intro r inside
    obtain ⟨p, inside', order, left | rfl⟩ := (leave_work e s q).reqs r inside
    · exact .inr left
    · by_cases same : r = q
      · exact .inr (leave_left e s q r inside (by rw [same]))
      · exact others r inside' same
  have turns (l : List SpanReq) (sub : ∀ r ∈ l, r ∈ (s.spanEng e).reqs) (has : q ∈ l) :
      l.foldl (fun s r => s.turn e flags r) s = s.leave e q := by
    induction l with
    | nil => cases has
    | cons r l ih =>
      rw [List.foldl_cons]
      by_cases same : r = q
      · rw [same, turn]
        exact turns_pass flags after l
      · have passes : s.turn e flags r = s := turn_passes flags fun p inside order => others p inside fun eq =>
          same (alone r (sub r List.mem_cons_self) (order.symm.trans (by rw [eq])))
        rw [passes]
        exact ih (fun p inside => sub p (List.mem_cons_of_mem _ inside)) ((List.mem_cons.1 has).resolve_left (Ne.symm same))
  exact turns _ (fun _ inside => inside) mem

/-! ## Completion where no fence waits for the request -/

/-- No fence of an engine waits for an order, and each still waits for some. -/
def FencesStand (x : SpanEng) (o : Nat) : Prop := ∀ f ∈ x.fences, o ∉ f.covers ∧ f.covers ≠ []

theorem runFences_stand {s : Hw} {e : Nat} (stand : ∀ f ∈ (s.spanEng e).fences, f.covers ≠ []) :
    s.runFences e = s.setSpanEng e (s.spanEng e) := by
  have kept : ∀ f ∈ (s.spanEng e).fences, f.covers.isEmpty = false := fun f mem => by simpa using stand f mem
  have none : (s.spanEng e).fences.foldl
      (fun s f => if f.covers.isEmpty then s.onCore f.core fun c => c.fenceDone f else s) s = s :=
    List.foldlRecOn (motive := fun t : Hw => t = s) _ _ rfl fun t same f mem => by rw [kept f mem, same]; rfl
  have all : (s.spanEng e).fences.filter (fun f => !f.covers.isEmpty) = (s.spanEng e).fences :=
    List.filter_eq_self.2 fun f mem => by rw [kept f mem]; rfl
  rw [Hw.runFences]
  dsimp only
  rw [none, all]

/-- The engine without the requests of an order. -/
def SpanEng.without (x : SpanEng) (o : Nat) : SpanEng := { x with reqs := x.reqs.filter fun q => decide (q.order ≠ o) }

theorem ended_stand {x : SpanEng} {o : Nat} (stand : FencesStand x o) (status : Nat) : x.ended o status = x.without o := by
  have covers : x.fences.map (fun f =>
      if f.covers.contains o then { f with covers := f.covers.erase o, worst := max f.worst status } else f) = x.fences := by
    conv_rhs => rw [← List.map_id x.fences]
    exact List.map_congr_left fun f mem => if_neg (by simpa using (stand f mem).1)
  rw [SpanEng.ended, covers]
  rfl

theorem spanComplete_stand {s : Hw} {e : Nat} {r : SpanReq} (stand : FencesStand (s.spanEng e) r.order) (status : Nat)
    (data : List Byte) (old : W64) : s.spanComplete e r status data old =
      (((s.setSpanEng e ((s.spanEng e).without r.order)).answered r status data old).spanFault r status).setSpanEng e
        ((s.spanEng e).without r.order) := by
  rw [spanComplete_eq, ended_stand stand]
  generalize same : ((s.setSpanEng e ((s.spanEng e).without r.order)).answered r status data old).spanFault r status = t
  have eng : t.spanEng e = (s.spanEng e).without r.order := by
    rw [← same, spanEng_of_engineSide (spanFault_engineSide ..), answered_eng, spanEng_setSpanEng]
  rw [runFences_stand, eng]
  rw [eng]
  exact fun f mem => (stand f mem).2

end Sys2Proof.Machine
end

section
/-!
# Issue of span requests, and what a completed one leaves (R309-R312, R315)
-/
namespace Sys2Proof.Machine

/-! ## What a completion leaves, where no fence waits for the request -/

theorem spanFault_ok (s : Hw) (r : SpanReq) : s.spanFault r 0 = s := rfl

theorem answered_core {r : SpanReq} (own : r.core ≠ hostCore) (s : Hw) (status : Nat) (data : List Byte) (old : W64) :
    s.answered r status data old = s.onCore r.core fun c => c.spanDone r status data old := if_neg own

theorem answered_host {r : SpanReq} (host : r.core = hostCore) (s : Hw) (status : Nat) (data : List Byte) (old : W64) :
    s.answered r status data old = s.windowDone r status data := if_pos host

section Stand
variable {s : Hw} {e : Nat} {r : SpanReq} (stand : FencesStand (s.spanEng e) r.order)
include stand

theorem spanComplete_reqs (status : Nat) (data : List Byte) (old : W64) : ((s.spanComplete e r status data old).spanEng e).reqs =
    (s.spanEng e).reqs.filter fun q => decide (q.order ≠ r.order) := by
  rw [spanComplete_stand stand, spanEng_setSpanEng]
  rfl

theorem spanComplete_core (own : r.core ≠ hostCore) (status : Nat) (data : List Byte) (old : W64) :
    (s.spanComplete e r status data old).core r.core = (s.core r.core).spanDone r status data old := by
  have put (t : Hw) (x : SpanEng) : (t.setSpanEng e x).core r.core = t.core r.core := rfl
  rw [spanComplete_stand stand, put, core_of_engineSide (spanFault_engineSide ..), answered_core own, Hw.onCore, Hw.core, Hw.setCore,
    nget_nput, if_pos rfl, put]

/-- A completion of a core's request with status OK changes the core and the engine alone. -/
theorem spanComplete_ok (own : r.core ≠ hostCore) (data : List Byte) (old : W64) :
    ∃ cores engines, s.spanComplete e r 0 data old = { s with cores := cores, spn := { s.spn with engines := engines } } := by
  rw [spanComplete_stand stand, spanFault_ok, answered_core own]
  exact ⟨_, _, rfl⟩

end Stand

theorem spanDone_store {r : SpanReq} (store : r.op = 1) (x : CoreState) (status : Nat) (data : List Byte) (old : W64) :
    (x.spanDone r status data old).sram = nput 0 x.sram (r.cmdAddr + 13) (BitVec.ofNat 8 status) := by
  simp [CoreState.spanDone, tokDone_eq, store, isAtomic]

/-! ## A store to this module's own memory -/

/-- A held store to this module's own memory is written, and completes with status OK. -/
theorem serveOwn_store {s : Hw} {e : Nat} {r : SpanReq} (store : r.op = 1) (here : s.loanAddr (addrOff r.address) = none)
    (good : s.spanStatus s.spn.rank.toNat (addrOff r.address) r.data.length = 0) :
    ∃ t : Hw, t.spn = s.spn ∧ t.mem = nputList 0 s.mem (addrOff r.address) r.data ∧ s.serveOwn e r = t.spanComplete e r 0 [] 0 := by
  obtain ⟨arbs, tng, stored⟩ := spanStore_good good
  have status : (s.spanStore s.spn.rank.toNat (addrOff r.address) r.data).2 = 0 := by
    simp only [Hw.spanStore, if_pos good]
  refine ⟨(s.spanStore s.spn.rank.toNat (addrOff r.address) r.data).1, by rw [stored], by rw [stored], ?_⟩
  unfold Hw.serveOwn
  simp only [here, store, Nat.one_ne_zero, if_false, if_true, status]

theorem marked_without (s : Hw) (e : Nat) (r : SpanReq) :
    ((s.marked e r).spanEng e).reqs.filter (fun q => decide (q.order ≠ r.order)) =
      (s.spanEng e).reqs.filter fun q => decide (q.order ≠ r.order) := by
  have reqs : ((s.marked e r).spanEng e).reqs =
      (s.spanEng e).reqs.map fun q => if q.order = r.order then s.leaving e r else q := by
    rw [Hw.marked, Hw.setReq, spanEng_setSpanEng, spanEng_setSpanEng]
    rfl
  rw [reqs]
  induction (s.spanEng e).reqs with
  | nil => rfl
  | cons q l ih =>
    rw [List.map_cons]
    by_cases same : q.order = r.order
    · rw [if_pos same, List.filter_cons_of_neg (by simp [Hw.leaving]), List.filter_cons_of_neg (by simp [same]), ih]
    · rw [if_neg same, List.filter_cons_of_pos (by simp [same]), List.filter_cons_of_pos (by simp [same]), ih]

theorem marked_fences (s : Hw) (e : Nat) (r : SpanReq) : ((s.marked e r).spanEng e).fences = (s.spanEng e).fences := by
  rw [Hw.marked, Hw.setReq, spanEng_setSpanEng, spanEng_setSpanEng]

/-- What a held FLAG store to this module's own memory leaves when it goes. -/
theorem leave_store {s : Hw} {e : Nat} {q : SpanReq} (store : q.op = 1) (own : q.core ≠ hostCore)
    (rank : s.ownRank (addrRank q.address) = true) (here : s.loanAddr (addrOff q.address) = none)
    (good : s.spanStatus s.spn.rank.toNat (addrOff q.address) q.data.length = 0) (stand : FencesStand (s.spanEng e) q.order) :
    ((s.leave e q).spanEng e).reqs = (s.spanEng e).reqs.filter (fun r => decide (r.order ≠ q.order)) ∧
      (s.leave e q).mem = nputList 0 s.mem (addrOff q.address) q.data ∧ (s.leave e q).spn.deadLoans = s.spn.deadLoans ∧
      nget 0 ((s.leave e q).core q.core).sram (q.cmdAddr + 13) = 0 := by
  obtain ⟨t, spn, mem, served⟩ := serveOwn_store (s := s.marked e q) (e := e) (r := s.leaving e q) store here good
  have left : s.leave e q = t.spanComplete e (s.leaving e q) 0 [] 0 := (leave_eq s e q).trans ((if_pos rank).trans served)
  have eng : t.spanEng e = (s.marked e q).spanEng e := congrArg (fun x : Spn => nget ({} : SpanEng) x.engines e) spn
  have dead : t.spn.deadLoans = s.spn.deadLoans := (congrArg Spn.deadLoans spn).trans rfl
  have stand' : FencesStand (t.spanEng e) (s.leaving e q).order := by
    rw [eng, FencesStand, marked_fences]
    exact stand
  obtain ⟨cores, engines, same⟩ := spanComplete_ok stand' own [] 0
  rw [left]
  refine ⟨?_, ?_, ?_, ?_⟩
  · rw [spanComplete_reqs stand', eng]
    exact marked_without s e q
  · rw [same]
    exact mem
  · rw [same]
    exact dead
  · have told := spanComplete_core stand' own 0 [] 0
    have core : (s.leaving e q).core = q.core := rfl
    rw [core] at told
    rw [told, spanDone_store (r := s.leaving e q) store]
    exact (nget_nput ..).trans (if_pos rfl)

/-! ## Issue -/

theorem tokAdd_next (x : CoreState) (t : Nat) : x.next.tokAdd t = { x with
    toks := if t = 0 then x.toks else nput 0 x.toks t (nget 0 x.toks t + 1)
    pc := (x.pc + 1) % 512 } := by
  unfold CoreState.tokAdd
  split <;> rfl

section Spn
variable {s : State} {c : CoreId} {i : Ins}

/-- The request that an SPN instruction's command block asks for. -/
def State.blockOf (s : State) (c : CoreId) (i : Ins) : SpanReq :=
  parseBlock (s.coreOf c) c.toNat (s.hw.spanEng (engineOf c.toNat)).nextOrder i.tok.toNat ((s.coreOf c).sreg i.srcB.toNat).toNat
    s.hw.stk.workStroke s.hw.stk.beat

/-- An engine that has taken in a request. -/
def SpanEng.joined (g : SpanEng) (r : SpanReq) : SpanEng := { g with reqs := g.reqs ++ [r], nextOrder := g.nextOrder + 1 }

/-- A block that breaks a rule (R310). -/
def SpanReq.breaks (r : SpanReq) : Bool := badRequest r.op r.address r.localAddr r.size

/-- A core that has issued a span request. -/
def CoreState.issued (x : CoreState) (t : Nat) : CoreState := x.next.tokAdd t

variable (may : MayIssue s c 10 i { tok := true, srcB := true } (isS i.srcB))
  (inside : ((s.coreOf c).sreg i.srcB.toNat).toNat + 32 ≤ sramSize) (room : (s.coreOf c).tokFull i.tok.toNat = false)
  (places : (s.hw.spanEng (engineOf c.toNat)).reqs.length + (s.hw.spanEng (engineOf c.toNat)).fences.length < 576)
  (unarmed : s.hw.tst.injArm = false)
include may inside room places unarmed

theorem exec_spn : exec (.spn c i) s = .next { s with
    hw := if (s.blockOf c i).breaks then
        (s.hw.onCore c.toNat fun x => x.issued i.tok.toNat).onCore c.toNat fun x => x.spanDone (s.blockOf c i) 5 [] 0
      else (s.hw.onCore c.toNat fun x => x.issued i.tok.toNat).setSpanEng (engineOf c.toNat)
        ((s.hw.spanEng (engineOf c.toNat)).joined (s.blockOf c i)) } := by
  obtain ⟨-, -, clean, regs⟩ := id may
  have place : ((s.hw.core c.toNat).sreg i.srcB.toNat).toNat + 32 ≤ sramSize := inside
  have free : (s.hw.core c.toNat).tokFull i.tok.toNat = false := room
  refine (act_fetch may : execSpn c i s = _).trans ?_
  simp only [clean, regs, Bool.not_true, Bool.false_eq_true, if_false, Nat.not_lt.2 place, free, decide_eq_false (Nat.not_le.2 places),
    Bool.or_self, sramChecked_unarmed unarmed]
  rfl

theorem exec_spn_joins (good : (s.blockOf c i).breaks = false) : exec (.spn c i) s = .next { s with
    hw := (s.hw.setCore c.toNat ((s.coreOf c).issued i.tok.toNat)).setSpanEng (engineOf c.toNat)
      ((s.hw.spanEng (engineOf c.toNat)).joined (s.blockOf c i)) } := by
  rw [exec_spn may inside room places unarmed, good]
  rfl

theorem exec_spn_bad (bad : (s.blockOf c i).breaks = true) : ∃ u, exec (.spn c i) s = .next u ∧
    s.CoreGoes c (((s.coreOf c).issued i.tok.toNat).spanDone (s.blockOf c i) 5 [] 0) u := by
  refine ⟨_, exec_spn may inside room places unarmed, ?_⟩
  have read : (s.hw.onCore c.toNat fun x => x.issued i.tok.toNat).core c.toNat = (s.coreOf c).issued i.tok.toNat :=
    (setCore_core _ _ _ _).trans (if_pos rfl)
  rw [bad, if_pos rfl, Hw.onCore, read]
  exact coreGoes_twice s c _ _

end Spn

/-! ## Release of a held FLAG store -/

theorem exec_flagStoreRelease {s : State} {c : CoreId} {q : SpanReq}
    (leaves : s.hw.runEngine (engineOf c.toNat) true = s.hw.leave (engineOf c.toNat) q) :
    exec (.flagStoreRelease c) s = .next { s with hw := (s.hw.leave (engineOf c.toNat) q).reapLoans } := by
  have call : exec (.flagStoreRelease c) s = execFlagStoreRelease c s := rfl
  rw [call, execFlagStoreRelease]
  exact act_eq (by rw [leaves])

/-- A core's number is never the host's mark. -/
theorem coreId_ne_host (c : CoreId) : c.toNat ≠ hostCore := Nat.ne_of_lt c.isLt

/-- Settles O11: SPN by the fetch rule and the checks of its block, the FLAG store as the one request that is still to leave. -/
theorem spanIssue : Obligations.SpanIssue := by
  unfold Obligations.SpanIssue
  intro s c i x a e g r on
  have issued : on = x.issued i.tok.toNat := (tokAdd_next ..).symm
  clear_value on
  subst issued
  refine ⟨fun may inside room places unarmed =>
    ⟨exec_spn_joins may inside room places unarmed, exec_spn_bad may inside room places unarmed⟩, ?_⟩
  intro q mem core taken held store flag alone others free loans
  have leaves : s.hw.runEngine e true = s.hw.leave e q := runEngine_leaves mem taken held free alone others
  have side : (s.hw.leave e q).reapLoans.engineSide = (s.hw.leave e q).engineSide := reapLoans_engineSide _
  refine ⟨_, exec_flagStoreRelease leaves, ?_, ?_, ?_⟩
  · exact (SpanWork.of_engineSide side e).left_of_order (leave_left e s.hw q)
  · exact ((leave_work e s.hw q).trans (.of_engineSide side e)).pc c.toNat
  · intro rank here good stand
    obtain ⟨reqs, written, dead, status⟩ := leave_store store (core ▸ coreId_ne_host c) rank here good stand
    rw [core] at status
    have reaped := reapLoans_of_none (dead.trans loans)
    refine ⟨?_, ?_, ?_⟩
    · exact (congrArg SpanEng.reqs (spanEng_of_engineSide side e)).trans reqs
    · exact (congrArg Hw.mem reaped).trans written
    · exact (congrArg (fun x => nget 0 x.sram (q.cmdAddr + 13)) (core_of_engineSide side c.toNat)).trans status

end Sys2Proof.Machine
end

section
/-!
# Requests at their target (R305, R310, R312, R314)

A request that leaves a port's buffer is served and answered over the link that the tables name for its rank: serving reads and
writes memory and the journal, and touches neither the ports nor what the tables say.
-/
namespace Sys2Proof.Machine

/-! ## Links towards a node -/

theorem popMsg_state (x : Port) (kind : Nat) (is : List Byte → Bool) : (x.popMsg kind is).state = x.state := by
  unfold Port.popMsg Port.owe
  split
  · split
    · split <;> rfl
    · rfl
  · rfl

/-- Ports carry traffic as before. -/
def SameCarries (s t : Hw) : Prop := ∀ q, (t.port q).carries = (s.port q).carries

theorem onPort_sameCarries {s : Hw} {p : Nat} {f : Port → Port} (keeps : ∀ x, (f x).state = x.state) : SameCarries s (s.onPort p f) := by
  intro q
  rw [Hw.onPort, Hw.port, Hw.setPort, nget_nput]
  split
  · next same => rw [Port.carries, keeps, same]; rfl
  · rfl

theorem popInbox_sameCarries (s : Hw) (p kind : Nat) : SameCarries s (s.popInbox p kind) :=
  onPort_sameCarries fun _ => popMsg_state ..

theorem popAny_sameCarries (s : Hw) (kind : Nat) (is : List Byte → Bool) : SameCarries s (s.popAny kind is) := by
  unfold Hw.popAny
  split
  · exact onPort_sameCarries fun _ => popMsg_state ..
  · exact fun _ => rfl

theorem linkTo_sameCarries {s t : Hw} (same : SameCarries s t) (tb : Tables) (node : Nat) : t.linkTo tb node = s.linkTo tb node := by
  have ports : (fun q => decide (q < 48) && (t.port q).carries) = fun q => decide (q < 48) && (s.port q).carries :=
    funext fun q => by rw [same q]
  simp only [Hw.linkTo, ports]

/-- What a message's path and its header depend on, the ports aside. -/
def Hw.paths (s : Hw) := (s.stk, s.spn.tables, s.spn.gen, s.spn.active, s.spn.previous, s.spn.rank)

theorem tablesOf_paths {s t : Hw} (same : t.paths = s.paths) (gen : Byte) : t.tablesOf gen = s.tablesOf gen := by
  simp only [Hw.paths, Prod.mk.injEq] at same
  obtain ⟨-, tables, current, active, previous, -⟩ := same
  simp only [Hw.tablesOf, tables, current, active, previous]

theorem gen_paths {s t : Hw} (same : t.paths = s.paths) : t.spn.gen = s.spn.gen := congrArg (·.2.2.1) same

theorem rspMsg_paths {s t : Hw} (same : t.paths = s.paths) (rank : W16) (tag : W32) (engine status : Nat) (sweep : Bool)
    (payload : List Byte) : rspMsg t rank tag engine status sweep payload = rspMsg s rank tag engine status sweep payload := by
  simp only [Hw.paths, Prod.mk.injEq] at same
  obtain ⟨stk, -, gen, -, -, own⟩ := same
  simp only [rspMsg, stk, gen, own]

section Way
variable {s : Hw} {tb : Tables} {rank : W16} {node q : Nat} {d : Bool} (tables : s.tablesOf s.spn.gen = some tb)
  (entry : rankEntry tb rank = (node, true, d)) (link : s.linkTo tb node = some q)
include tables entry link

/-- A rank with a valid entry and a usable link is reached over that link. -/
theorem sendRank_link {t : Hw} (same : t.paths = s.paths) (carries : SameCarries s t) (m : LMsg) :
    t.sendRank rank m = t.sendPort q m := by
  have port : t.rankPort rank = some q := by
    simp only [Hw.rankPort, tablesOf_paths same, gen_paths same, tables, Option.bind_some, entry, if_true, linkTo_sameCarries carries,
      link]
  simp only [Hw.sendRank, port]

end Way

/-! ## An answer at its port -/

theorem rspMsg_input (s : Hw) (rank : W16) (tag : W32) (engine : BitVec 7) (status : Nat) (sweep : Bool) (payload : List Byte) :
    legrInput (rspMsg s rank tag engine.toNat status sweep payload) = 1 := by
  have small : 2 ^ 21 + engine.toNat < 2 ^ 43 := by have := engine.isLt; omega
  have low : bit (2 ^ 21 + engine.toNat) 43 = false := Nat.testBit_lt_two_pow small
  simp only [legrInput, rspMsg, low]
  rfl

theorem sendPort_port (s : Hw) (q : Nat) (m : LMsg) :
    (s.sendPort q m).port q = { s.port q with egress := (s.port q).egress ++ [(legrInput m, m.frames, m)] } := by
  rw [Hw.sendPort, Hw.sendPortAt]
  obtain ⟨arbs, same⟩ := arbRaise_arbs (s.onPort q fun x => { x with egress := x.egress ++ [(legrInput m, m.frames, m)] })
    (portField q) 2 (portSite q) (legrInput m) m.frames
  rw [same]
  exact (nget_nput ..).trans (if_pos rfl)

theorem sendPort_kept (s : Hw) (q : Nat) (m : LMsg) :
    (s.sendPort q m).mem = s.mem ∧ (s.sendPort q m).cores = s.cores ∧ (s.sendPort q m).spn = s.spn := by
  obtain ⟨ports, arbs, same⟩ := sendPort_frame s q m
  rw [same]
  exact ⟨rfl, rfl, rfl⟩

/-! ## Serving -/

/-- Serving a request changes neither a port, nor a core, nor the tables. -/
structure Served (s t : Hw) : Prop where
  ports : t.ports = s.ports
  cores : t.cores = s.cores
  paths : t.paths = s.paths

theorem Served.refl (s : Hw) : Served s s := ⟨rfl, rfl, rfl⟩

theorem Served.carries {s t : Hw} (served : Served s t) : SameCarries s t := fun q => by rw [Hw.port, served.ports]; rfl

theorem serve_load {h : Hw} {m : SpanReqMsg} (good : badRequest m.op.toNat m.address.toNat 0 (m.size.toNat + 1) = false)
    (load : m.op = 0) (ok : h.spanStatus m.srcRank.toNat (addrOff m.address.toNat) (m.size.toNat + 1) = 0) :
    ∃ t, h.serve m = (t, h.memRead (addrOff m.address.toNat) (m.size.toNat + 1), 0) ∧ t.mem = h.mem ∧ Served h t := by
  obtain ⟨arbs, same⟩ := unitTraffic_arbs h 209 (addrOff m.address.toNat) (m.size.toNat + 1) true
  refine ⟨h.unitTraffic 209 (addrOff m.address.toNat) (m.size.toNat + 1) true, ?_, by rw [same], by rw [same], by rw [same],
    by rw [same]; rfl⟩
  have kind : m.op.toNat = 0 := by rw [load]; rfl
  rw [kind] at good
  simp [Hw.serve, kind, good, Hw.spanLoad, ok]

theorem noHome_outside {h : Hw} {off n : Nat} (outside : h.inPool off n = false) (src access : Nat) :
    h.noHome src off n access = h := by simp [Hw.noHome, outside]

theorem serve_load_fails {h : Hw} {m : SpanReqMsg} (good : badRequest m.op.toNat m.address.toNat 0 (m.size.toNat + 1) = false)
    (load : m.op = 0) (fails : h.spanStatus m.srcRank.toNat (addrOff m.address.toNat) (m.size.toNat + 1) ≠ 0)
    (outside : h.inPool (addrOff m.address.toNat) (m.size.toNat + 1) = false) :
    h.serve m = (h, List.replicate (m.size.toNat + 1) 0xFF,
      h.spanStatus m.srcRank.toNat (addrOff m.address.toNat) (m.size.toNat + 1)) := by
  have kind : m.op.toNat = 0 := by rw [load]; rfl
  rw [kind] at good
  simp [Hw.serve, kind, good, Hw.spanLoad, fails, noHome_outside outside]

theorem padTo_self {n : Nat} {bs : List Byte} (len : bs.length = n) : padTo n bs = bs := by
  subst len
  simp [padTo, sub]

section Store
variable {h : Hw} {m : SpanReqMsg} (good : badRequest m.op.toNat m.address.toNat 0 (m.size.toNat + 1) = false)
  (store : m.op = 1) (len : m.data.length = m.size.toNat + 1)
include good store len

theorem serve_store (ok : h.spanStatus m.srcRank.toNat (addrOff m.address.toNat) (m.size.toNat + 1) = 0) :
    ∃ t, h.serve m = (t, [], 0) ∧ t.mem = nputList 0 h.mem (addrOff m.address.toNat) m.data ∧ Served h t := by
  rw [← len] at ok
  obtain ⟨arbs, tng, same⟩ := spanStore_good ok
  have status : (h.spanStore m.srcRank.toNat (addrOff m.address.toNat) m.data).2 = 0 := by simp only [Hw.spanStore, if_pos ok]
  refine ⟨(h.spanStore m.srcRank.toNat (addrOff m.address.toNat) m.data).1, ?_, by rw [same], by rw [same], by rw [same],
    by rw [same]; rfl⟩
  have kind : m.op.toNat = 1 := by rw [store]; rfl
  rw [kind] at good
  simp [Hw.serve, kind, good, padTo_self len, status]

theorem serve_store_fails (fails : h.spanStatus m.srcRank.toNat (addrOff m.address.toNat) (m.size.toNat + 1) ≠ 0)
    (outside : h.inPool (addrOff m.address.toNat) (m.size.toNat + 1) = false) :
    h.serve m = (h, [], h.spanStatus m.srcRank.toNat (addrOff m.address.toNat) (m.size.toNat + 1)) := by
  have kind : m.op.toNat = 1 := by rw [store]; rfl
  rw [kind] at good
  simp [Hw.serve, kind, good, padTo_self len, Hw.spanStore, len, fails, noHome_outside outside]

end Store

/-- The atomic that a request message asks for. -/
def atomicOf (m : SpanReqMsg) : AtomicReq :=
  { src := m.srcRank, engine := m.engine.toNat, tag := m.tag, firstIssue := m.firstIssue, op := m.op.toNat
    off := addrOff m.address.toNat, operand := m.operand, compare := m.compare }

theorem serve_atomic {h : Hw} {m : SpanReqMsg} (good : badRequest m.op.toNat m.address.toNat 0 (m.size.toNat + 1) = false)
    (atomic : isAtomic m.op.toNat = true) : h.serve m =
      ((h.atomicApply (atomicOf m)).1, leBytes 8 (h.atomicApply (atomicOf m)).2.1.toNat, (h.atomicApply (atomicOf m)).2.2) := by
  obtain ⟨low, high⟩ : 2 ≤ m.op.toNat ∧ m.op.toNat ≤ 9 := by simpa [isAtomic] using atomic
  have fence : m.op.toNat ≠ 10 := by omega
  have load : m.op.toNat ≠ 0 := by omega
  have store : m.op.toNat ≠ 1 := by omega
  simp [Hw.serve, good, fence, load, store, atomicOf]

/-- The journal's entry of an atomic, as the target looks for it. -/
def Hw.journalled (s : Hw) (src : W16) (engine : Nat) (tag : W32) : Option JEntry :=
  s.spn.journal.find? fun e => decide (e.src = src) && decide (e.engine = engine) && decide (e.tag = tag)

theorem atomicApply_known {h : Hw} {a : AtomicReq} {e : JEntry} (known : h.journalled a.src a.engine a.tag = some e) :
    h.atomicApply a = (h, e.result, 0) := by
  unfold Hw.journalled at known
  simp only [Hw.atomicApply, known]

/-- The entry that a fresh atomic leaves in the journal. -/
def Hw.entryOf (s : Hw) (a : AtomicReq) : JEntry :=
  { src := a.src, engine := a.engine, tag := a.tag, result := BitVec.ofNat 64 (s.memNat a.off (atomicBytes a.op))
    arrival := s.stk.time }

theorem journalInsert_room {h : Hw} (room : h.spn.journal.length < journalMax) (e : JEntry) :
    h.journalInsert e = { h with spn := { h.spn with journal := h.spn.journal ++ [e], jCount := h.spn.jCount + 1 } }.memWrite
      (h.spn.journalBase.toNat + h.spn.jCount % journalMax * 32) e.bytes := by
  unfold Hw.journalInsert
  simp only [if_pos room]

theorem atomicApply_fresh {h : Hw} {a : AtomicReq} (fresh : h.journalled a.src a.engine a.tag = none) (early : h.spn.horizon = none)
    (room : h.spn.journal.length < journalMax) (ok : h.spanStatus a.src.toNat a.off (atomicBytes a.op) = 0) :
    ∃ t, h.atomicApply a = (t, (h.entryOf a).result, 0) ∧ Served h t ∧ t.spn.journal = h.spn.journal ++ [h.entryOf a] ∧
      t.mem = nputList 0 (nputList 0 h.mem a.off (leBytes (atomicBytes a.op)
        (atomicResult a.op (h.entryOf a).result a.operand a.compare).toNat))
        (h.spn.journalBase.toNat + h.spn.jCount % journalMax * 32) (h.entryOf a).bytes := by
  let read := h.unitTraffic 209 a.off (atomicBytes a.op) true
  obtain ⟨arbs, visited⟩ := unitTraffic_arbs h 209 a.off (atomicBytes a.op) true
  obtain ⟨arbs', visited'⟩ := unitTraffic_arbs read 209 a.off (atomicBytes a.op) false
  obtain ⟨arbs'', tng, marked⟩ := markDirty_frame (read.unitTraffic 209 a.off (atomicBytes a.op) false) a.off (atomicBytes a.op)
  generalize touched : (read.unitTraffic 209 a.off (atomicBytes a.op) false).markDirty a.off (atomicBytes a.op) = u at marked
  have frame : u = { h with arbs := arbs'', tng := tng } := by rw [marked, visited']; simp only [read, visited]
  have spn : u.spn = h.spn := by rw [frame]
  refine ⟨(u.memWrite a.off (leBytes (atomicBytes a.op)
    (atomicResult a.op (h.entryOf a).result a.operand a.compare).toNat)).journalInsert (h.entryOf a), ?_, ⟨?_, ?_, ?_⟩, ?_, ?_⟩
  · unfold Hw.journalled at fresh
    have stk : u.stk = h.stk := by rw [frame]
    have never (f : W64 → Bool) : (none : Option W64).any f = false := rfl
    simp only [Hw.atomicApply, fresh, early, never, Bool.false_eq_true, if_false, ok, ne_eq, not_true]
    rw [← touched] at stk ⊢
    simp only [Hw.entryOf, ← stk]
    rfl
  all_goals rw [journalInsert_room (by rw [memWrite_spn, spn]; exact room)]
  · simp only [frame]
    rfl
  · simp only [frame]
    rfl
  · simp only [frame]
    rfl
  · simp only [frame]
    rfl
  · simp only [frame]
    rfl

end Sys2Proof.Machine
end

section
/-!
# Span requests at their target, answers, timeouts and sweeps (R305, R310, R312-R316)
-/
namespace Sys2Proof.Machine

/-! ## A request message -/

section Message
variable {s : State} {p : PortIx} {m : SpanReqMsg}

/-- The message is answered over port `q` with a status and bytes, memory is left as `mem`, and no core changes. -/
def AnswersOver (s : State) (p : PortIx) (m : SpanReqMsg) (q status : Nat) (bs : List Byte) (mem : NMap Byte) : Prop :=
  ∃ t, exec (.spanReq p m) s = .next t ∧ t.hw.mem = mem ∧
    t.hw.port q = { (s.hw.popInbox p.val 0).port q with
      egress := ((s.hw.popInbox p.val 0).port q).egress ++
        [(1, (rspMsg s.hw m.srcRank m.tag m.engine.toNat status false bs).frames,
          rspMsg s.hw m.srcRank m.tag m.engine.toNat status false bs)] } ∧
    t.hw.cores = s.hw.cores

theorem answersOver_of_send {t : Hw} {q status : Nat} {bs : List Byte} {mem : NMap Byte}
    (sent : exec (.spanReq p m) s = .next { s with
      hw := t.sendPort q (rspMsg s.hw m.srcRank m.tag m.engine.toNat status false bs) })
    (served : Served (s.hw.popInbox p.val 0) t) (written : t.mem = mem) : AnswersOver s p m q status bs mem := by
  obtain ⟨kept, cores, -⟩ := sendPort_kept t q (rspMsg s.hw m.srcRank m.tag m.engine.toNat status false bs)
  have port : t.port q = (s.hw.popInbox p.val 0).port q := by rw [Hw.port, served.ports]; rfl
  refine ⟨_, sent, kept.trans written, ?_, cores.trans served.cores⟩
  rw [sendPort_port, rspMsg_input, port]

theorem exec_spanReq_drop {recorded : Bool} (drop : s.hw.ingress 0 m.destRank m.gen m.ttl.toNat = .drop recorded) :
    exec (.spanReq p m) s = .next { s with hw := (s.hw.popInbox p.val 0).leashDrop p.val recorded (spanReqMsg m).bytes } := by
  have call : exec (.spanReq p m) s = execSpanReq p m s := rfl
  rw [call, execSpanReq]
  refine act_eq ?_
  simp only [drop]
  rfl

theorem exec_spanReq_forward {k : Nat} (way : s.hw.ingress 0 m.destRank m.gen m.ttl.toNat = .forward k) :
    exec (.spanReq p m) s = .next { s with hw := (s.hw.popInbox p.val 0).forward k (spanReqMsg m) } := by
  have call : exec (.spanReq p m) s = execSpanReq p m s := rfl
  rw [call, execSpanReq]
  refine act_eq ?_
  simp only [way]
  rfl

theorem exec_spanReq_dead (dead : s.hw.ingress 0 m.destRank m.gen m.ttl.toNat = .dead) :
    exec (.spanReq p m) s = .next { s with
      hw := (s.hw.popInbox p.val 0).sendRank m.srcRank (rspMsg s.hw m.srcRank m.tag m.engine.toNat 1 false []) } := by
  have call : exec (.spanReq p m) s = execSpanReq p m s := rfl
  rw [call, execSpanReq]
  refine act_eq ?_
  simp only [dead]
  rfl

theorem exec_spanReq_own {t : Hw} {bs : List Byte} {status : Nat} (own : s.hw.ingress 0 m.destRank m.gen m.ttl.toNat = .own)
    (reached : s.hw.regionOff (addrOff m.address.toNat) = false) (serve : (s.hw.popInbox p.val 0).serve m = (t, bs, status)) :
    exec (.spanReq p m) s = .next { s with
      hw := t.sendRank m.srcRank (rspMsg t m.srcRank m.tag m.engine.toNat status false bs) } := by
  have call : exec (.spanReq p m) s = execSpanReq p m s := rfl
  rw [call, execSpanReq]
  refine act_eq ?_
  simp only [own, reached, decide_true, Bool.and_false, Bool.false_eq_true, if_false, serve]

section Way
variable {tb : Tables} {node q : Nat} {d : Bool} (tables : s.hw.tablesOf s.hw.spn.gen = some tb)
  (entry : rankEntry tb m.srcRank = (node, true, d)) (link : s.hw.linkTo tb node = some q)
include tables entry link

theorem answers_dead (dead : s.hw.ingress 0 m.destRank m.gen m.ttl.toNat = .dead) : AnswersOver s p m q 1 [] s.hw.mem := by
  refine answersOver_of_send ?_ (.refl _) rfl
  rw [exec_spanReq_dead dead, sendRank_link (t := s.hw.popInbox p.val 0) tables entry link rfl (popInbox_sameCarries s.hw p.val 0)]

variable (own : s.hw.ingress 0 m.destRank m.gen m.ttl.toNat = .own) (reached : s.hw.regionOff (addrOff m.address.toNat) = false)
include own reached

/-- A request that is served here is answered with what serving gives. -/
theorem exec_spanReq_answers {t : Hw} {bs : List Byte} {status : Nat} (serve : (s.hw.popInbox p.val 0).serve m = (t, bs, status))
    (served : Served (s.hw.popInbox p.val 0) t) : exec (.spanReq p m) s = .next { s with
      hw := t.sendPort q (rspMsg s.hw m.srcRank m.tag m.engine.toNat status false bs) } := by
  have paths : t.paths = s.hw.paths := served.paths
  have carries : SameCarries s.hw t := fun k => (served.carries k).trans (popInbox_sameCarries s.hw p.val 0 k)
  rw [exec_spanReq_own own reached serve, rspMsg_paths paths, sendRank_link tables entry link paths carries]

theorem answers_served {t : Hw} {bs : List Byte} {status : Nat} {mem : NMap Byte}
    (serve : (s.hw.popInbox p.val 0).serve m = (t, bs, status)) (served : Served (s.hw.popInbox p.val 0) t)
    (written : t.mem = mem) : AnswersOver s p m q status bs mem :=
  answersOver_of_send (exec_spanReq_answers tables entry link own reached serve served) served written

variable (good : badRequest m.op.toNat m.address.toNat 0 (m.size.toNat + 1) = false)
include good

theorem answers_load (load : m.op = 0)
    (ok : s.hw.spanStatus m.srcRank.toNat (addrOff m.address.toNat) (m.size.toNat + 1) = 0) :
    AnswersOver s p m q 0 (s.hw.memRead (addrOff m.address.toNat) (m.size.toNat + 1)) s.hw.mem := by
  obtain ⟨t, serve, mem, served⟩ := serve_load (h := s.hw.popInbox p.val 0) good load ok
  exact answers_served tables entry link own reached serve served mem

theorem answers_store (store : m.op = 1) (len : m.data.length = m.size.toNat + 1)
    (ok : s.hw.spanStatus m.srcRank.toNat (addrOff m.address.toNat) (m.size.toNat + 1) = 0) :
    AnswersOver s p m q 0 [] (nputList 0 s.hw.mem (addrOff m.address.toNat) m.data) := by
  obtain ⟨t, serve, mem, served⟩ := serve_store (h := s.hw.popInbox p.val 0) good store len ok
  exact answers_served tables entry link own reached serve served mem

theorem exec_spanReq_known (atomic : isAtomic m.op.toNat = true) {e : JEntry}
    (known : s.hw.journalled m.srcRank m.engine.toNat m.tag = some e) : exec (.spanReq p m) s = .next { s with
      hw := (s.hw.popInbox p.val 0).sendPort q
        (rspMsg s.hw m.srcRank m.tag m.engine.toNat 0 false (leBytes 8 e.result.toNat)) } := by
  have serve := serve_atomic (h := s.hw.popInbox p.val 0) good atomic
  rw [atomicApply_known (h := s.hw.popInbox p.val 0) (a := atomicOf m) known] at serve
  exact exec_spanReq_answers tables entry link own reached serve (.refl _)

/-- A fresh atomic is applied, recorded and answered with the old value. -/
theorem answers_fresh (atomic : isAtomic m.op.toNat = true) (fresh : s.hw.journalled m.srcRank m.engine.toNat m.tag = none)
    (early : s.hw.spn.horizon = none) (room : s.hw.spn.journal.length < journalMax)
    (ok : s.hw.spanStatus m.srcRank.toNat (addrOff m.address.toNat) (atomicBytes m.op.toNat) = 0) :
    AnswersOver s p m q 0 (leBytes 8 (s.hw.entryOf (atomicOf m)).result.toNat)
      (nputList 0 (nputList 0 s.hw.mem (addrOff m.address.toNat) (leBytes (atomicBytes m.op.toNat)
        (atomicResult m.op.toNat (s.hw.entryOf (atomicOf m)).result m.operand m.compare).toNat))
        (s.hw.spn.journalBase.toNat + s.hw.spn.jCount % journalMax * 32) (s.hw.entryOf (atomicOf m)).bytes) ∧
    ∃ t, exec (.spanReq p m) s = .next t ∧ t.hw.spn.journal = s.hw.spn.journal ++ [s.hw.entryOf (atomicOf m)] := by
  obtain ⟨t, applied, served, journal, mem⟩ := atomicApply_fresh (h := s.hw.popInbox p.val 0) (a := atomicOf m) fresh early room ok
  have serve := serve_atomic (h := s.hw.popInbox p.val 0) good atomic
  rw [applied] at serve
  refine ⟨answers_served tables entry link own reached serve served mem, _,
    exec_spanReq_answers tables entry link own reached serve served, ?_⟩
  obtain ⟨-, -, spn⟩ := sendPort_kept t q
    (rspMsg s.hw m.srcRank m.tag m.engine.toNat 0 false (leBytes 8 (s.hw.entryOf (atomicOf m)).result.toNat))
  exact (congrArg Spn.journal spn).trans journal

end Way

/-! ## A message that goes on, or goes no further -/

theorem sendPortAt_kept (s : Hw) (q input : Nat) (m : LMsg) :
    (s.sendPortAt q input m).port q = { s.port q with egress := (s.port q).egress ++ [(input, m.frames, m)] } ∧
      (s.sendPortAt q input m).mem = s.mem ∧ (s.sendPortAt q input m).spn = s.spn := by
  rw [Hw.sendPortAt]
  obtain ⟨arbs, same⟩ := arbRaise_arbs (s.onPort q fun x => { x with egress := x.egress ++ [(input, m.frames, m)] })
    (portField q) 2 (portSite q) input m.frames
  rw [same]
  exact ⟨(nget_nput ..).trans (if_pos rfl), rfl, rfl⟩

theorem forward_kept (s : Hw) (q : Nat) (m : LMsg) :
    ((s.forward q m).port q).forwarded = true ∧ (s.forward q m).mem = s.mem ∧ (s.forward q m).spn = s.spn := by
  have marked : (s.onPort q fun x => { x with forwarded := true }).port q = { s.port q with forwarded := true } :=
    (nget_nput ..).trans (if_pos rfl)
  unfold Hw.forward
  obtain ⟨port, mem, spn⟩ := sendPortAt_kept (s.onPort q fun x => { x with forwarded := true }) q 1 { m with ttl := m.ttl - 1 }
  exact ⟨by rw [port, marked], mem, spn⟩

theorem spanReq_dropped {recorded : Bool} (drop : s.hw.ingress 0 m.destRank m.gen m.ttl.toNat = .drop recorded) :
    ∃ t, exec (.spanReq p m) s = .next t ∧ t.hw.spn.dropCnt = s.hw.spn.dropCnt + 1 ∧
      (recorded = true → t.hw.evt.flags.getLsbD 29 = true) := by
  refine ⟨_, exec_spanReq_drop drop, ?_, ?_⟩
  · unfold Hw.leashDrop
    dsimp only
    split
    · rw [record_spn, raise_spn]
      rfl
    · rfl
  · rintro rfl
    exact record_stays _ (raise_bit _ 29)

theorem spanReq_forwarded {k : Nat} (way : s.hw.ingress 0 m.destRank m.gen m.ttl.toNat = .forward k) :
    ∃ t, exec (.spanReq p m) s = .next t ∧ (t.hw.port k).forwarded = true ∧ t.hw.mem = s.hw.mem ∧ t.hw.spn = s.hw.spn := by
  exact ⟨_, exec_spanReq_forward way, forward_kept (s.hw.popInbox p.val 0) k (spanReqMsg m)⟩

end Message

end Sys2Proof.Machine
end

section
/-!
# Answers, timeouts and sweeps at the engine that asked (R310, R313, R316)
-/
namespace Sys2Proof.Machine

theorem spanDone_load {r : SpanReq} (load : r.op = 0) {status : Nat} (judged : status ≠ 5) (x : CoreState) (data : List Byte)
    (old : W64) : (x.spanDone r status data old).sram = nputList 0 (nput 0 x.sram (r.cmdAddr + 13) (BitVec.ofNat 8 status)) r.localAddr
      (if status = 0 then padTo r.size data else List.replicate r.size 0xFF) := by
  simp [CoreState.spanDone, tokDone_eq, load, judged]

/-! ## TARGET_DEAD -/

/-- TARGET_DEAD has been counted and flagged, and no core's instruction counter has moved. -/
structure DeadTold (s t : Hw) : Prop where
  count : t.spn.deadCnt = s.spn.deadCnt + 1
  flag : t.evt.flags.getLsbD 27 = true
  loans : t.spn.deadLoans = s.spn.deadLoans
  rank : t.spn.rank = s.spn.rank
  pc : ∀ c, (t.core c).pc = (s.core c).pc

theorem spanFault_dead (s : Hw) (r : SpanReq) :
    (s.spanFault r 1).spn = { s.spn with deadCnt := s.spn.deadCnt + 1 } ∧ (s.spanFault r 1).evt.flags.getLsbD 27 = true := by
  unfold Hw.spanFault
  dsimp only
  rw [if_pos rfl]
  exact ⟨by rw [record_spn, raise_spn], record_stays _ (raise_bit _ 27)⟩

/-- What the spans of an engine are beside its requests. -/
abbrev Spn.counts (x : Spn) := (x.deadCnt, x.deadLoans, x.rank)

theorem setSpanEng_counts (s : Hw) (e : Nat) (x : SpanEng) : (s.setSpanEng e x).spn.counts = s.spn.counts := rfl

theorem onCore_counts (s : Hw) (c : Nat) (f : CoreState → CoreState) : (s.onCore c f).spn.counts = s.spn.counts := rfl

theorem spanComplete_dead {s : Hw} {e : Nat} {r : SpanReq} (stand : FencesStand (s.spanEng e) r.order) (own : r.core ≠ hostCore)
    (data : List Byte) (old : W64) : DeadTold s (s.spanComplete e r 1 data old) := by
  have work := spanComplete_work e s r 1 data old
  have same := spanComplete_stand stand 1 data old
  rw [answered_core own] at same
  generalize told : (s.setSpanEng e ((s.spanEng e).without r.order)).onCore r.core (fun c => c.spanDone r 1 data old) = t at same
  have counts : t.spn.counts = s.spn.counts := by rw [← told, onCore_counts, setSpanEng_counts]
  obtain ⟨spn, flag⟩ := spanFault_dead t r
  have after : (s.spanComplete e r 1 data old).spn.counts = (s.spn.deadCnt + 1, s.spn.deadLoans, s.spn.rank) := by
    rw [same, setSpanEng_counts, spn]
    exact congrArg (fun x : BitVec 64 × List Nat × W16 => (x.1 + 1, x.2)) counts
  obtain ⟨count, loans, rank⟩ := Prod.mk.inj after |>.imp_right Prod.mk.inj
  refine ⟨count, ?_, loans, rank, work.pc⟩
  rw [same, setSpanEng_evt]
  exact flag

/-- No loan is dead any more. -/
def Hw.noLoans (s : Hw) : Hw := { s with spn := { s.spn with deadLoans := [] } }

theorem reapLoans_noLoans {s : Hw} (none : s.spn.deadLoans = []) : s.reapLoans = s.noLoans := reapLoans_of_none none

theorem noLoans_engineSide (s : Hw) : s.noLoans.engineSide = s.engineSide := rfl

theorem noLoans_mem (s : Hw) : s.noLoans.mem = s.mem := rfl

theorem DeadTold.noLoans {s t : Hw} (told : DeadTold s t) :
    t.noLoans.spn.deadCnt = s.spn.deadCnt + 1 ∧ t.noLoans.evt.flags.getLsbD 27 = true ∧
      ∀ c, (t.noLoans.core c).pc = (s.core c).pc := ⟨told.count, told.flag, told.pc⟩

/-! ## An answer, and a timeout of a request -/

section Request
variable {s : State} {e : Fin 96} {r : SpanReq} {tag : W32}

/-- The state after the message that brings an answer has left its buffer. -/
def State.unboxed (s : State) (e : Fin 96) (tag : W32) : Hw := s.hw.popAny 1 (isSpanRsp e.val tag)

theorem unboxed_spn (s : State) (e : Fin 96) (tag : W32) : (s.unboxed e tag).spn = s.hw.spn := by
  obtain ⟨ports, same⟩ := popAny_frame s.hw 1 (isSpanRsp e.val tag)
  exact (congrArg Hw.spn same).trans rfl

theorem unboxed_eng (s : State) (e : Fin 96) (tag : W32) : (s.unboxed e tag).spanEng e.val = s.hw.spanEng e.val :=
  spanEng_of_engineSide (popAny_engineSide ..) e.val

variable (asked : (s.hw.spanEng e.val).byTag tag = some r)
include asked

theorem exec_spanRsp (status : BitVec 4) (data : List Byte) (old : W64) : exec (.spanRsp e tag status data old) s = .next { s with
    hw := ((((s.unboxed e tag).spanComplete e.val r status.toNat data old).loanDone r status.toNat old).runEngine e.val
      false).reapLoans } := by
  have call : exec (.spanRsp e tag status data old) s = execSpanRsp e tag status data old s := rfl
  have found : ((s.hw.popAny 1 (isSpanRsp e.val tag)).spanEng e.val).byTag tag = some r := (unboxed_eng s e tag).symm ▸ asked
  rw [call, execSpanRsp]
  refine act_eq ?_
  simp only [found]
  rfl

theorem exec_spanTimeout : exec (.spanTimeout e (.request tag)) s = .next { s with
    hw := (((s.hw.spanComplete e.val r 1 [] 0).loanDone r 1 0).runEngine e.val false).reapLoans } := by
  have call : exec (.spanTimeout e (.request tag)) s = execSpanTimeout e (.request tag) s := rfl
  rw [call, execSpanTimeout]
  refine act_eq ?_
  simp only [asked]
  rfl

omit asked in
/-- However it completes, the request is gone for good. -/
theorem completed_gone (h : Hw) (n status : Nat) (data : List Byte) (old old' : W64) (flags : Bool) :
    ∀ q ∈ ((((h.spanComplete n r status data old).loanDone r status old').runEngine n flags).reapLoans.spanEng n).reqs,
      q.order ≠ r.order := by
  have after : SpanWork n (h.spanComplete n r status data old)
      (((h.spanComplete n r status data old).loanDone r status old').runEngine n flags).reapLoans :=
    ((SpanWork.of_engineSide (loanDone_engineSide ..) n).trans (runEngine_work ..)).trans
      (.of_engineSide (reapLoans_engineSide ..) n)
  exact after.none_of_order (spanComplete_out n h r status data old)

omit asked in
/-- With nothing else to leave, what follows a completion for another rank only forgets that no loan is dead. -/
theorem completed_quiet {h : Hw} {n : Nat} (other : h.ownRank (addrRank r.address) = false) (gone : AllGone (h.spanEng n))
    {status : Nat} {data : List Byte} {old old' : W64} (rank : (h.spanComplete n r status data old).spn.rank = h.spn.rank)
    (loans : (h.spanComplete n r status data old).spn.deadLoans = []) :
    (((h.spanComplete n r status data old).loanDone r status old').runEngine n false).reapLoans =
      (h.spanComplete n r status data old).noLoans := by
  have other' : (h.spanComplete n r status data old).ownRank (addrRank r.address) = false := by
    rw [Hw.ownRank, rank]
    exact other
  have after : AllGone ((h.spanComplete n r status data old).spanEng n) := (spanComplete_work ..).allGone gone
  rw [loanDone_of_other other', runEngine_passes false after, reapLoans_noLoans loans]

variable {c : CoreId} (core : r.core = c.toNat) (load : r.op = 0) (loans : s.hw.spn.deadLoans = [])
  (other : s.hw.ownRank (addrRank r.address) = false) (gone : AllGone (s.hw.spanEng e.val))
  (stand : FencesStand (s.hw.spanEng e.val) r.order)
include core load loans other gone stand

/-- The answer to a load of another rank: its core has the data, and nothing is written to memory. -/
theorem spanRsp_load (data : List Byte) (old : W64) : ∃ t, exec (.spanRsp e tag 0 data old) s = .next t ∧
    (t.hw.spanEng e.val).reqs = (s.hw.spanEng e.val).reqs.filter (fun q => decide (q.order ≠ r.order)) ∧
    (t.coreOf c).sram = nputList 0 (nput 0 (s.coreOf c).sram (r.cmdAddr + 13) 0) r.localAddr (padTo r.size data) ∧
    t.hw.mem = s.hw.mem := by
  have own : r.core ≠ hostCore := core ▸ coreId_ne_host c
  have spn := unboxed_spn s e tag
  have eng := unboxed_eng s e tag
  have side : (s.unboxed e tag).engineSide = s.hw.engineSide := popAny_engineSide ..
  have mem : (s.unboxed e tag).mem = s.hw.mem := by
    obtain ⟨ports, same⟩ := popAny_frame s.hw 1 (isSpanRsp e.val tag)
    exact (congrArg Hw.mem same).trans rfl
  have rsp := exec_spanRsp asked 0 data old
  rw [show (0 : BitVec 4).toNat = 0 from rfl] at rsp
  generalize s.unboxed e tag = h at spn eng side mem rsp
  have stand' : FencesStand (h.spanEng e.val) r.order := eng ▸ stand
  obtain ⟨cores, engines, ok⟩ := spanComplete_ok stand' own data old
  have rank : (h.spanComplete e.val r 0 data old).spn.rank = h.spn.rank := by rw [ok]
  have none : (h.spanComplete e.val r 0 data old).spn.deadLoans = [] := by rw [ok]; exact spn ▸ loans
  have other' : h.ownRank (addrRank r.address) = false := by rw [Hw.ownRank, spn]; exact other
  have quiet := completed_quiet (old' := old) other' (eng ▸ gone) rank none
  rw [quiet] at rsp
  refine ⟨_, rsp, ?_, ?_, ?_⟩
  · exact (congrArg SpanEng.reqs (spanEng_of_engineSide (noLoans_engineSide _) e.val)).trans
      ((spanComplete_reqs stand' 0 data old).trans (by rw [eng]))
  · have told := spanComplete_core stand' own 0 data old
    rw [core, core_of_engineSide side] at told
    exact (congrArg CoreState.sram (core_of_engineSide (noLoans_engineSide _) c.toNat)).trans
      ((congrArg CoreState.sram told).trans (spanDone_load load (by decide) ..))
  · exact (noLoans_mem _).trans ((congrArg Hw.mem ok).trans mem)

/-- A load that times out reads all-ones, with TARGET_DEAD. -/
theorem spanTimeout_load : ∃ t, exec (.spanTimeout e (.request tag)) s = .next t ∧
    (t.hw.spanEng e.val).reqs = (s.hw.spanEng e.val).reqs.filter (fun q => decide (q.order ≠ r.order)) ∧
    (t.hw.spn.deadCnt = s.hw.spn.deadCnt + 1 ∧ t.hw.evt.flags.getLsbD 27 = true ∧ (t.coreOf c).pc = (s.coreOf c).pc) ∧
    (t.coreOf c).sram = nputList 0 (nput 0 (s.coreOf c).sram (r.cmdAddr + 13) 1) r.localAddr (List.replicate r.size 0xFF) := by
  have own : r.core ≠ hostCore := core ▸ coreId_ne_host c
  have dead := spanComplete_dead stand own [] 0
  have quiet := completed_quiet (old' := 0) other gone dead.rank (dead.loans.trans loans)
  obtain ⟨count, flag, pc⟩ := dead.noLoans
  have out := exec_spanTimeout asked
  rw [quiet] at out
  refine ⟨_, out, ?_, ⟨count, flag, pc c.toNat⟩, ?_⟩
  · exact (congrArg SpanEng.reqs (spanEng_of_engineSide (noLoans_engineSide _) e.val)).trans (spanComplete_reqs stand 1 [] 0)
  · have told := spanComplete_core stand own 1 [] 0
    rw [core] at told
    exact (congrArg CoreState.sram (core_of_engineSide (noLoans_engineSide _) c.toNat)).trans
      ((congrArg CoreState.sram told).trans (spanDone_load load (by decide) ..))

end Request

/-! ## An answer to the host -/

theorem runFences_readData (s : Hw) (e : Nat) : (s.runFences e).readData = s.readData := by
  refine List.foldlRecOn (motive := fun t : Hw => t.readData = s.readData) _ _ rfl fun t same f _ => ?_
  split
  · exact same
  · exact same

theorem spanComplete_host {r : SpanReq} (host : r.core = hostCore) (load : r.op = 0) (s : Hw) (e : Nat) (data : List Byte) (old : W64) :
    (s.spanComplete e r 0 data old).readData = padTo r.size data := by
  rw [spanComplete_eq, runFences_readData, spanFault_ok, answered_host host]
  simp only [Hw.windowDone, load, if_true]

theorem spanRsp_host {s : State} {e : Fin 96} {r : SpanReq} {tag : W32} (asked : (s.hw.spanEng e.val).byTag tag = some r)
    (host : r.core = hostCore) (load : r.op = 0) (gone : AllGone (s.hw.spanEng e.val)) (data : List Byte) (old : W64) :
    ∃ t, exec (.spanRsp e tag 0 data old) s = .next t ∧ t.hw.readData = padTo r.size data := by
  refine ⟨_, exec_spanRsp asked 0 data old, ?_⟩
  have eng := unboxed_eng s e tag
  generalize s.unboxed e tag = h at eng
  have loan : SpanWork e.val h ((h.spanComplete e.val r 0 data old).loanDone r 0 old) :=
    (spanComplete_work ..).trans (.of_engineSide (loanDone_engineSide ..) e.val)
  have passes := runEngine_passes false (loan.allGone (eng ▸ gone))
  have data' := (readData_of_engineSide (loanDone_engineSide (h.spanComplete e.val r 0 data old) r 0 old)).trans
    (spanComplete_host host load h e.val data old)
  exact (readData_of_engineSide (reapLoans_engineSide _)).trans ((congrArg Hw.readData passes).trans data')

end Sys2Proof.Machine
end

section
/-!
# Sweeps, fences that time out, and the obligation on span traffic (R316, R317)
-/
namespace Sys2Proof.Machine

/-! ## Sweeps -/

/-- A sweep of a rank and an epoch. -/
def Sweep.is (w : Sweep) (rank : W16) (epoch : W32) : Bool := decide (w.rank = rank.toNat) && decide (w.epoch = epoch.toNat)

/-- An engine that no longer awaits a sweep's answer. -/
def SpanEng.swept (x : SpanEng) (rank : W16) (epoch : W32) : SpanEng :=
  { x with sweeps := x.sweeps.filter fun w => !w.is rank epoch }

theorem swept_sweeps (x : SpanEng) (rank : W16) (epoch : W32) :
    ∀ w ∈ (x.swept rank epoch).sweeps, ¬(w.rank = rank.toNat ∧ w.epoch = epoch.toNat) := by
  rintro w mem ⟨sameRank, sameEpoch⟩
  have kept := (List.mem_filter.1 mem).2
  simp [Sweep.is, sameRank, sameEpoch] at kept

/-- An engine's requests that a sweep finds lost. -/
def SpanEng.lost (x : SpanEng) (rank : W16) (epoch : W32) : List SpanReq :=
  x.reqs.filter fun r => r.left && decide (r.via = rank) && decide (r.epoch ≤ epoch.toNat)

/-- An engine's requests that a rank still owes an answer. -/
def SpanEng.owing (x : SpanEng) (rank : W16) : List SpanReq := x.reqs.filter fun r => r.left && decide (r.via = rank)

theorem reissue_work (e : Nat) (s : Hw) {r : SpanReq} (left : r.left = true) : SpanWork e s (s.reissue e r) := by
  have counted : SpanWork e s { s with spn := { s.spn with reissueCnt := s.spn.reissueCnt + 1 } } := .of_eq rfl fun _ => rfl
  unfold Hw.reissue
  refine .ite (spanComplete_work ..) ?_
  extract_lets q spn t u
  have still : q.left = true := left
  clear_value q
  have sent : SpanWork e s u := counted.trans (setReq_work e t still)
  exact sent.trans (.ite (serveOwn_work e u still) (sendReq_work e u still))

theorem spanDead_work (e : Nat) (s : Hw) (r : SpanReq) : SpanWork e s (s.spanDead e r) :=
  (spanComplete_work ..).trans (.of_engineSide (loanDone_engineSide ..) e)

section Sweeping
variable {s : State} {e : Fin 96} {rank : W16} {ep : W32}

/-- The module after a sweep's answer has come. -/
def State.sweptBy (s : State) (e : Fin 96) (rank : W16) (ep : W32) : Hw :=
  (s.hw.popAny 1 (isSweepRsp e.val rank)).setSpanEng e.val ((s.hw.spanEng e.val).swept rank ep)

/-- The module after a sweep's time is up. -/
def State.sweptLate (s : State) (e : Fin 96) (rank : W16) (ep : W32) : Hw :=
  s.hw.setSpanEng e.val ((s.hw.spanEng e.val).swept rank ep)

theorem sweptBy_kept (s : State) (e : Fin 96) (rank : W16) (ep : W32) :
    (s.sweptBy e rank ep).spanEng e.val = (s.hw.spanEng e.val).swept rank ep ∧ (s.sweptBy e rank ep).cores = s.hw.cores ∧
      (s.sweptBy e rank ep).spn.counts = s.hw.spn.counts := by
  obtain ⟨ports, same⟩ := popAny_frame s.hw 1 (isSweepRsp e.val rank)
  rw [State.sweptBy, same]
  exact ⟨spanEng_setSpanEng .., rfl, rfl⟩

theorem any_is_of_awaited {x : SpanEng} (awaited : ∃ w ∈ x.sweeps, w.rank = rank.toNat ∧ w.epoch = ep.toNat) :
    x.sweeps.any (fun w => w.is rank ep) = true := by
  obtain ⟨w, mem, sameRank, sameEpoch⟩ := awaited
  exact List.any_eq_true.2 ⟨w, mem, by simp [Sweep.is, sameRank, sameEpoch]⟩

variable (awaited : ∃ w ∈ (s.hw.spanEng e.val).sweeps, w.rank = rank.toNat ∧ w.epoch = ep.toNat)
include awaited

theorem exec_sweep_awaited : exec (.sweep e rank ep) s = .next { s with
    hw := (((s.hw.spanEng e.val).lost rank ep).foldl (fun t r => t.reissue e.val r) (s.sweptBy e rank ep)).runEngine e.val
      false } := by
  have call : exec (.sweep e rank ep) s = execSweep e rank ep s := rfl
  rw [call, execSweep]
  exact act_eq (if_pos (any_is_of_awaited awaited))

theorem exec_sweepTimeout : exec (.spanTimeout e (.sweep rank ep)) s = .next { s with
    hw := ((((s.hw.spanEng e.val).owing rank).foldl (fun t r => t.spanDead e.val r) (s.sweptLate e rank ep)).runEngine e.val
      false).reapLoans } := by
  have call : exec (.spanTimeout e (.sweep rank ep)) s = execSpanTimeout e (.sweep rank ep) s := rfl
  have some : (!(s.hw.spanEng e.val).sweeps.any fun w => w.is rank ep) = false := by rw [any_is_of_awaited awaited]; rfl
  rw [call, execSpanTimeout]
  exact act_eq (if_neg (ne_true_of_eq_false some))

theorem sweep_swept : ∃ t, exec (.sweep e rank ep) s = .next t ∧
    ∀ w ∈ (t.hw.spanEng e.val).sweeps, ¬(w.rank = rank.toNat ∧ w.epoch = ep.toNat) := by
  refine ⟨_, exec_sweep_awaited awaited, ?_⟩
  have work : SpanWork e.val (s.sweptBy e rank ep)
      ((((s.hw.spanEng e.val).lost rank ep).foldl (fun t r => t.reissue e.val r) (s.sweptBy e rank ep)).runEngine e.val false) := by
    refine (SpanWork.foldl _ (fun t r mem => reissue_work e.val t ?_) _).trans (runEngine_work ..)
    have lost := (List.mem_filter.1 mem).2
    simp only [Bool.and_eq_true] at lost
    exact lost.1.1
  have sweeps := work.sweeps.trans (congrArg SpanEng.sweeps (sweptBy_kept s e rank ep).1)
  exact fun w mem => swept_sweeps _ rank ep w (sweeps ▸ mem)

theorem sweepTimeout_swept : ∃ t, exec (.spanTimeout e (.sweep rank ep)) s = .next t ∧
    ∀ w ∈ (t.hw.spanEng e.val).sweeps, ¬(w.rank = rank.toNat ∧ w.epoch = ep.toNat) := by
  refine ⟨_, exec_sweepTimeout awaited, ?_⟩
  have work : SpanWork e.val (s.sweptLate e rank ep) ((((s.hw.spanEng e.val).owing rank).foldl
      (fun t r => t.spanDead e.val r) (s.sweptLate e rank ep)).runEngine e.val false).reapLoans :=
    ((SpanWork.foldl _ (fun t r _ => spanDead_work e.val t r) _).trans (runEngine_work ..)).trans
      (.of_engineSide (reapLoans_engineSide ..) e.val)
  have sweeps := work.sweeps.trans (congrArg SpanEng.sweeps (spanEng_setSpanEng ..))
  exact fun w mem => swept_sweeps _ rank ep w (sweeps ▸ mem)

/-! ## The last request of an engine, lost -/

omit awaited in
/-- A store that is alone in its engine completes TARGET_DEAD. -/
theorem alone_dead {h : Hw} {n : Nat} {r : SpanReq} {c : CoreId} (reqs : (h.spanEng n).reqs = [r])
    (fences : (h.spanEng n).fences = []) (core : r.core = c.toNat) (store : r.op = 1) :
    DeadTold h (h.spanComplete n r 1 [] 0) ∧ ((h.spanComplete n r 1 [] 0).spanEng n).reqs = [] ∧
      ((h.spanComplete n r 1 [] 0).core c.toNat).sram = nput 0 (h.core c.toNat).sram (r.cmdAddr + 13) 1 := by
  have own : r.core ≠ hostCore := core ▸ coreId_ne_host c
  have stand : FencesStand (h.spanEng n) r.order := fun f mem => absurd (fences ▸ mem) List.not_mem_nil
  have told := spanComplete_core stand own 1 [] 0
  rw [core] at told
  refine ⟨spanComplete_dead stand own [] 0, ?_, (congrArg CoreState.sram told).trans (spanDone_store store ..)⟩
  rw [spanComplete_reqs stand 1 [] 0, reqs]
  simp

omit awaited in
theorem allGone_of_none {x : SpanEng} (none : x.reqs = []) : AllGone x := fun q mem => absurd (none ▸ mem) List.not_mem_nil

variable {r : SpanReq} {c : CoreId} (reqs : (s.hw.spanEng e.val).reqs = [r]) (fences : (s.hw.spanEng e.val).fences = [])
  (core : r.core = c.toNat) (left : r.left = true) (store : r.op = 1) (via : r.via = rank)
include reqs fences core left store via

/-- A request lost a second time completes TARGET_DEAD. -/
theorem sweep_dead (again : r.reissued = true) (due : r.epoch ≤ ep.toNat) : ∃ t, exec (.sweep e rank ep) s = .next t ∧
    (t.hw.spn.deadCnt = s.hw.spn.deadCnt + 1 ∧ t.hw.evt.flags.getLsbD 27 = true ∧ (t.coreOf c).pc = (s.coreOf c).pc) ∧
    (t.hw.spanEng e.val).reqs = [] ∧ (t.coreOf c).sram = nput 0 (s.coreOf c).sram (r.cmdAddr + 13) 1 := by
  obtain ⟨eng, cores, counts⟩ := sweptBy_kept s e rank ep
  have lost : (s.hw.spanEng e.val).lost rank ep = [r] := by
    rw [SpanEng.lost, reqs]
    simp [left, via, due]
  have out := exec_sweep_awaited awaited
  rw [lost, List.foldl_cons, List.foldl_nil] at out
  generalize s.sweptBy e rank ep = h at eng cores counts out
  have here (n : Nat) : h.core n = s.hw.core n := by rw [Hw.core, cores]; rfl
  obtain ⟨told, none, sram⟩ := alone_dead (h := h) (n := e.val) (by rw [eng]; exact reqs) (by rw [eng]; exact fences) core store
  have reissue : h.reissue e.val r = h.spanComplete e.val r 1 [] 0 := if_pos again
  rw [reissue, runEngine_passes false (allGone_of_none none)] at out
  obtain ⟨count, -⟩ := Prod.mk.inj counts
  exact ⟨_, out, ⟨told.count.trans (by rw [count]), told.flag, (told.pc c.toNat).trans (by rw [here]; rfl)⟩, none,
    sram.trans (by rw [here]; rfl)⟩

/-- A request whose rank's sweep times out completes TARGET_DEAD. -/
theorem sweepTimeout_dead (loans : s.hw.spn.deadLoans = []) (other : s.hw.ownRank (addrRank r.address) = false) :
    ∃ t, exec (.spanTimeout e (.sweep rank ep)) s = .next t ∧
    (t.hw.spn.deadCnt = s.hw.spn.deadCnt + 1 ∧ t.hw.evt.flags.getLsbD 27 = true ∧ (t.coreOf c).pc = (s.coreOf c).pc) ∧
    (t.hw.spanEng e.val).reqs = [] ∧ (t.coreOf c).sram = nput 0 (s.coreOf c).sram (r.cmdAddr + 13) 1 := by
  have eng : (s.sweptLate e rank ep).spanEng e.val = (s.hw.spanEng e.val).swept rank ep := spanEng_setSpanEng ..
  have here (n : Nat) : (s.sweptLate e rank ep).core n = s.hw.core n := rfl
  have counts : (s.sweptLate e rank ep).spn.counts = s.hw.spn.counts := rfl
  have owing : (s.hw.spanEng e.val).owing rank = [r] := by
    rw [SpanEng.owing, reqs]
    simp [left, via]
  have out := exec_sweepTimeout awaited
  rw [owing, List.foldl_cons, List.foldl_nil] at out
  generalize s.sweptLate e rank ep = h at eng here counts out
  obtain ⟨count, loans', rank'⟩ := Prod.mk.inj counts |>.imp_right Prod.mk.inj
  obtain ⟨told, none, sram⟩ := alone_dead (h := h) (n := e.val) (by rw [eng]; exact reqs) (by rw [eng]; exact fences) core store
  have other' : (h.spanComplete e.val r 1 [] 0).ownRank (addrRank r.address) = false := by
    rw [Hw.ownRank, told.rank, rank']
    exact other
  have dead : h.spanDead e.val r = h.spanComplete e.val r 1 [] 0 := loanDone_of_other other' 1 0
  rw [dead, runEngine_passes false (allGone_of_none none), reapLoans_noLoans (told.loans.trans (loans'.trans loans))] at out
  obtain ⟨count', flag, pc⟩ := told.noLoans
  have side := noLoans_engineSide (h.spanComplete e.val r 1 [] 0)
  refine ⟨_, out, ⟨count'.trans (by rw [count]), flag, (pc c.toNat).trans (by rw [here]; rfl)⟩, ?_, ?_⟩
  · exact (congrArg SpanEng.reqs (spanEng_of_engineSide side e.val)).trans none
  · exact (congrArg CoreState.sram (core_of_engineSide side c.toNat)).trans (sram.trans (by rw [here]; rfl))

end Sweeping

/-! ## A SWEEP at its target -/

theorem exec_sweep_target {s : State} {e : Fin 96} {rank : W16} {ep : W32} {tb : Tables} {node q : Nat} {d : Bool}
    (free : ¬∃ w ∈ (s.hw.spanEng e.val).sweeps, w.rank = rank.toNat ∧ w.epoch = ep.toNat)
    (tables : s.hw.tablesOf s.hw.spn.gen = some tb) (entry : rankEntry tb rank = (node, true, d))
    (link : s.hw.linkTo tb node = some q) : exec (.sweep e rank ep) s = .next { s with
      hw := (s.hw.popAny 2 (isSweep e.val rank)).sendPort q (rspMsg s.hw rank 0 e.val 0 true []) } := by
  have call : exec (.sweep e rank ep) s = execSweep e rank ep s := rfl
  have none : ¬(s.hw.spanEng e.val).sweeps.any (fun w => w.is rank ep) = true := by
    simpa [Sweep.is] using free
  have paths : (s.hw.popAny 2 (isSweep e.val rank)).paths = s.hw.paths := by
    obtain ⟨ports, same⟩ := popAny_frame s.hw 2 (isSweep e.val rank)
    rw [same]
    rfl
  rw [call, execSweep]
  exact act_eq ((if_neg none).trans (sendRank_link tables entry link paths (popAny_sameCarries s.hw 2 (isSweep e.val rank)) _))

/-! ## A fence that times out (R317) -/

/-- A fence that no longer waits, its open requests taken as TARGET_DEAD. -/
def Fence.timedOut (f : Fence) : Fence := { f with covers := [], worst := max f.worst 1 }

section FenceTimeout
variable {pre post : List Fence} {f : Fence}

theorem map_timedOut (others : ∀ g ∈ pre ++ post, g ≠ f) :
    (pre ++ f :: post).map (fun g => if g = f then f.timedOut else g) = pre ++ f.timedOut :: post := by
  have keep (l : List Fence) (sub : ∀ g ∈ l, g ≠ f) : l.map (fun g => if g = f then f.timedOut else g) = l := by
    conv_rhs => rw [← List.map_id l]
    exact List.map_congr_left fun g mem => if_neg (sub g mem)
  rw [List.map_append, List.map_cons, if_pos rfl, keep pre fun g mem => others g (List.mem_append_left _ mem),
    keep post fun g mem => others g (List.mem_append_right _ mem)]

/-- Of an engine's fences the one that waits for nothing completes. -/
theorem runFences_one {h : Hw} {n : Nat} {g : Fence} (fences : (h.spanEng n).fences = pre ++ g :: post) (done : g.covers = [])
    (stand : ∀ k ∈ pre ++ post, k.covers ≠ []) :
    h.runFences n = (h.onCore g.core fun c => c.fenceDone g).setSpanEng n { h.spanEng n with fences := pre ++ post } := by
  have waits (l : List Fence) (sub : ∀ k ∈ l, k.covers ≠ []) (u : Hw) :
      l.foldl (fun u k => if k.covers.isEmpty then u.onCore k.core fun c => c.fenceDone k else u) u = u :=
    List.foldlRecOn (motive := fun t : Hw => t = u) _ _ rfl fun t same k mem => by
      rw [if_neg (by simpa using sub k mem), same]
  have left (k) (mem : k ∈ pre) := stand k (List.mem_append_left _ mem)
  have right (k) (mem : k ∈ post) := stand k (List.mem_append_right _ mem)
  have rest : (pre ++ g :: post).filter (fun k => !k.covers.isEmpty) = pre ++ post := by
    rw [List.filter_append, List.filter_cons_of_neg (by simp [done]), List.filter_eq_self.2 (by simpa using left),
      List.filter_eq_self.2 (by simpa using right)]
  have run : (pre ++ g :: post).foldl (fun u k => if k.covers.isEmpty then u.onCore k.core fun c => c.fenceDone k else u) h =
      h.onCore g.core fun c => c.fenceDone g := by
    rw [List.foldl_append, waits pre left, List.foldl_cons, if_pos (by simp [done]), waits post right]
  rw [Hw.runFences]
  simp only [fences, run, rest]
  rfl

end FenceTimeout

theorem exec_fenceTimeout {s : State} {e : Fin 96} {c : CoreId} {f : Fence} {pre post : List Fence}
    (fences : (s.hw.spanEng e.val).fences = pre ++ f :: post) (core : f.core = c.toNat)
    (others : ∀ g ∈ pre ++ post, g.covers ≠ [] ∧ ¬(g.core = c.toNat ∧ g.order = f.order)) :
    exec (.spanTimeout e (.fence c f.order)) s = .next { s with
      hw := (s.hw.setSpanEng e.val { s.hw.spanEng e.val with fences := pre ++ f.timedOut :: post }).runFences e.val } := by
  have call : exec (.spanTimeout e (.fence c f.order)) s = execSpanTimeout e (.fence c f.order) s := rfl
  have found : (pre ++ f :: post).find? (fun g => decide (g.core = c.toNat) && decide (g.order = f.order)) = some f := by
    rw [List.find?_append, List.find?_eq_none.2 fun g mem => by simpa using (others g (List.mem_append_left _ mem)).2]
    simp [core]
  have apart : ∀ g ∈ pre ++ post, g ≠ f := fun g mem same => (others g mem).2 (by rw [same]; exact ⟨core, rfl⟩)
  have mapped := map_timedOut apart
  rw [call, execSpanTimeout]
  refine act_eq ?_
  simp only [fences, found]
  rw [← mapped]
  rfl

theorem fenceTimeout {s : State} {e : Fin 96} {c : CoreId} {f : Fence} {pre post : List Fence}
    (fences : (s.hw.spanEng e.val).fences = pre ++ f :: post) (core : f.core = c.toNat)
    (others : ∀ g ∈ pre ++ post, g.covers ≠ [] ∧ ¬(g.core = c.toNat ∧ g.order = f.order)) :
    ∃ t, exec (.spanTimeout e (.fence c f.order)) s = .next t ∧
    (t.hw.spanEng e.val).fences = pre ++ post ∧ (t.hw.spanEng e.val).reqs = (s.hw.spanEng e.val).reqs ∧
    (t.coreOf c).sram = nput 0 (s.coreOf c).sram (f.cmdAddr + 13) (BitVec.ofNat 8 (max f.worst 1)) := by
  refine ⟨_, exec_fenceTimeout fences core others, ?_⟩
  generalize put : s.hw.setSpanEng e.val { s.hw.spanEng e.val with fences := pre ++ f.timedOut :: post } = h
  have eng : h.spanEng e.val = { s.hw.spanEng e.val with fences := pre ++ f.timedOut :: post } := by
    rw [← put, spanEng_setSpanEng]
  have here : h.core c.toNat = s.hw.core c.toNat := by rw [← put]; rfl
  have run := runFences_one (n := e.val) (h := h) (by rw [eng]) rfl fun k mem => (others k mem).1
  have timed : f.timedOut.core = c.toNat := core
  rw [timed] at run
  have told : (h.runFences e.val).core c.toNat = (s.hw.core c.toNat).fenceDone f.timedOut := by
    rw [run, ← here]
    exact (nget_nput ..).trans (if_pos rfl)
  have after : (h.runFences e.val).spanEng e.val = { h.spanEng e.val with fences := pre ++ post } := by
    rw [run, spanEng_setSpanEng]
  refine ⟨congrArg SpanEng.fences after, (congrArg SpanEng.reqs after).trans (by rw [eng]), ?_⟩
  refine (congrArg CoreState.sram told).trans ?_
  rw [CoreState.fenceDone, tokDone_eq]
  rfl

/-! ## Requests that complete are gone -/

theorem spanRsp_gone {s : State} {e : Fin 96} {r : SpanReq} {tag : W32} (asked : (s.hw.spanEng e.val).byTag tag = some r)
    (status : BitVec 4) (data : List Byte) (old : W64) : ∃ t, exec (.spanRsp e tag status data old) s = .next t ∧
      ∀ q ∈ (t.hw.spanEng e.val).reqs, q.order ≠ r.order := by
  have gone := completed_gone (r := r) (s.unboxed e tag) e.val status.toNat data old old false
  exact ⟨_, exec_spanRsp asked status data old, gone⟩

theorem spanTimeout_gone {s : State} {e : Fin 96} {r : SpanReq} {tag : W32} (asked : (s.hw.spanEng e.val).byTag tag = some r) :
    ∃ t, exec (.spanTimeout e (.request tag)) s = .next t ∧ ∀ q ∈ (t.hw.spanEng e.val).reqs, q.order ≠ r.order := by
  have gone := completed_gone (r := r) s.hw e.val 1 [] 0 0 false
  have out := exec_spanTimeout asked
  generalize (((s.hw.spanComplete e.val r 1 [] 0).loanDone r 1 0).runEngine e.val false).reapLoans = u at gone out
  exact ⟨_, out, gone⟩

/-- Settles O29: requests at their target by what serving gives, answers and timeouts by what a completion leaves, sweeps by what
is lost, fences by the one that waits no longer. -/
theorem spanTraffic : Obligations.SpanTraffic := by
  unfold Obligations.SpanTraffic
  refine ⟨?_, ?_⟩
  · intro s p m tb node q d off n status h msg answers known
    refine ⟨fun tables entry link => ⟨answers_dead tables entry link, fun own reached good =>
      ⟨answers_load tables entry link own reached good, ?_, answers_store tables entry link own reached good, ?_, fun atomic =>
        ⟨fun e found => exec_spanReq_known tables entry link own reached good atomic found,
          fun fresh early room ok => answers_fresh tables entry link own reached good atomic fresh early room ok⟩⟩⟩,
      fun r drop => spanReq_dropped drop, fun k way => spanReq_forwarded way⟩
    · exact fun load fails outside => answers_served tables entry link own reached
        (serve_load_fails good load fails outside) (.refl _) rfl
    · exact fun store len fails outside => answers_served tables entry link own reached
        (serve_store_fails good store len fails outside) (.refl _) rfl
  · intro s e c r data old rank ep tag status x y awaited rest gone swept dead
    refine ⟨fun asked => ⟨spanRsp_gone asked status data old, spanTimeout_gone asked, fun core load loans other allGone stand =>
          ⟨spanRsp_load asked core load loans other allGone stand data old,
            spanTimeout_load asked core load loans other allGone stand⟩,
        fun host load allGone => spanRsp_host asked host load allGone data old⟩,
      fun awaits => ⟨sweep_swept awaits, sweepTimeout_swept awaits, fun reqs fences loans core left store via other =>
        ⟨fun again due => sweep_dead awaits reqs fences core left store via again due,
          sweepTimeout_dead awaits reqs fences core left store via loans other⟩⟩,
      fun f pre post fences core others => fenceTimeout fences core others,
      fun tb node d q free tables entry link => exec_sweep_target free tables entry link⟩

end Sys2Proof.Machine
end

section
/-!
# Ports: what states, sending and acknowledgement leave (R295-R300)
-/
namespace Sys2Proof.Machine

/-! ## One port among the ports -/

theorem port_setPort (s : Hw) (p : Nat) (x : Port) : (s.setPort p x).port p = x := (nget_nput ..).trans (if_pos rfl)

theorem port_onPort (s : Hw) (p : Nat) (f : Port → Port) : (s.onPort p f).port p = f (s.port p) := port_setPort ..

theorem port_onPort_other {s : Hw} {p q : Nat} (other : q ≠ p) (f : Port → Port) : (s.onPort p f).port q = s.port q :=
  (nget_nput ..).trans (if_neg other)

theorem port_of_ports {s t : Hw} (same : t.ports = s.ports) (p : Nat) : t.port p = s.port p := by rw [Hw.port, same]; rfl

theorem raise_port (s : Hw) (n p : Nat) : (s.raise n).port p = s.port p := port_of_ports (raise_ports ..) p

theorem record_port (s : Hw) (i : RecIn) (p : Nat) : (s.record i).port p = s.port p := port_of_ports (record_ports ..) p

/-! ## Retrain and fall -/

/-- A port that has lost its link and tries to have it back. -/
def Port.retrained (x : Port) : Port := { x with state := .retraining, version := 0, retrains := x.retrains + 1, resends := 0 }

theorem retrain_port (s : Hw) (p cause : Nat) : (s.retrain p cause).port p = (s.port p).retrained := by
  rw [Hw.retrain, record_port, raise_port, port_onPort]
  rfl

theorem retrain_flag (s : Hw) (p cause : Nat) : (s.retrain p cause).evt.flags.getLsbD 25 = true :=
  record_stays _ (raise_bit _ 25)

/-- A port has fallen DOWN. -/
structure Fallen (s : Hw) (p : Nat) (t : Hw) : Prop where
  state : (t.port p).state = .down
  replay : (t.port p).replay = []
  count : (t.port p).downs = (s.port p).downs + 1
  flag : t.evt.flags.getLsbD 26 = true
  failover : (s.port p).forwarded = true → t.spn.failover = true

theorem portDown_falls (s : Hw) (p : Nat) : Fallen s p (s.portDown p) := by
  have port : (s.portDown p).port p =
      { (s.port p).clear with state := .down, version := 0, downs := (s.port p).downs + 1, forwarded := false } := by
    rw [Hw.portDown, record_port, raise_port]
    exact port_setPort ..
  have spn : (s.portDown p).spn = { s.spn with failover := s.spn.failover || (s.port p).forwarded } := by
    rw [Hw.portDown, record_spn, raise_spn]
    rfl
  refine ⟨by rw [port], by rw [port]; rfl, by rw [port], record_stays _ (raise_bit _ 26), fun forwarded => ?_⟩
  rw [spn, forwarded, Bool.or_true]

/-! ## HELLO -/

/-- The port with its HELLO on the way. -/
def Hw.helloed (s : Hw) (p : Nat) (resume : Bool) : Port :=
  (s.port p).sendCtrl frHello 0 (s.ownHello p resume).head (helloPayload (s.ownHello p resume))

theorem sendHello_eq (s : Hw) (p : Nat) (resume : Bool) : s.sendHello p resume = s.setPort p (s.helloed p resume) := rfl

/-- The bytes of a module's HELLO. -/
def Hw.helloBytes (s : Hw) (p : Nat) (retiring resume : Bool) : List Byte :=
  frameBytes (ctrlHead frHello 0 (s.ownHello p resume).head (helloPayload { s.ownHello p resume with retiring := retiring }))
    (helloPayload { s.ownHello p resume with retiring := retiring })

/-! ## Sending keeps what was held -/

theorem sendAgain_replay (n : Nat) (x : Port) : (x.sendAgain n).replay = x.replay ∧ (x.sendAgain n).outQ = x.outQ := by
  induction n generalizing x with
  | zero => exact ⟨rfl, rfl⟩
  | succ n ih =>
    unfold Port.sendAgain
    split
    · exact ⟨rfl, rfl⟩
    · split
      · exact ⟨rfl, rfl⟩
      · obtain ⟨replay, outQ⟩ := ih { x with
          again := x.again - 1, errReplays := BitVec.ofNat 32 (satAdd 32 x.errReplays.toNat 1)
          txCredit := nput 0 x.txCredit _ (nget 0 x.txCredit _ - 1) }
        exact ⟨replay, outQ⟩

theorem pumpOne_replay (x : Port) : x.replay <+: x.pumpOne.replay := by
  unfold Port.pumpOne
  dsimp only
  split
  · exact List.prefix_refl _
  split
  · exact List.prefix_refl _
  · exact List.prefix_append ..

theorem pump_replay (x : Port) : x.replay <+: x.pump.replay := by
  unfold Port.pump
  dsimp only
  split
  · have again := (sendAgain_replay x.again x).1
    split
    · refine List.foldlRecOn _ _ (motive := fun y : Port => x.replay <+: y.replay) ?_ fun y kept _ _ =>
        kept.trans (pumpOne_replay y)
      rw [again]
    · rw [again]
  · exact List.prefix_refl _

/-- With no message waiting a pump only sends again. -/
theorem pump_quiet {x : Port} (carries : x.carries = true) (none : x.outQ = []) : x.pump = x.sendAgain x.again := by
  have waiting := (sendAgain_replay x.again x).2.trans none
  unfold Port.pump
  simp only [carries, if_true, waiting, List.length_nil, List.range_zero, List.foldl_nil, ite_self]

/-- A port whose partner has acknowledged frames and given credit. -/
def Port.acked (x : Port) (ack : BitVec 12) (vc credit : Nat) : Port :=
  { x with replay := dropAcked ack x.replay
           resends := if (dropAcked ack x.replay).length < x.replay.length then 0 else x.resends
           again := min x.again (dropAcked ack x.replay).length
           txCredit := nput 0 x.txCredit vc (nget 0 x.txCredit vc + credit) }

theorem takeAck_eq (x : Port) (ack : BitVec 12) (vc credit : Nat) : x.takeAck ack vc credit = (x.acked ack vc credit).pump := rfl

theorem takeAck_replay (x : Port) (ack : BitVec 12) (vc credit : Nat) : dropAcked ack x.replay <+: (x.takeAck ack vc credit).replay :=
  pump_replay (x.acked ack vc credit)

theorem takeAck_quiet {x : Port} (carries : x.carries = true) (none : x.outQ = []) (ack : BitVec 12) (vc credit : Nat) :
    (x.takeAck ack vc credit).replay = dropAcked ack x.replay := by
  rw [takeAck_eq, pump_quiet (x := x.acked ack vc credit) carries none]
  exact (sendAgain_replay ..).1

theorem takeAck_credit {x : Port} (carries : x.carries = true) (none : x.outQ = []) (fresh : x.again = 0) (ack : BitVec 12)
    (vc credit : Nat) : nget 0 (x.takeAck ack vc credit).txCredit vc = nget 0 x.txCredit vc + credit := by
  have again : (x.acked ack vc credit).again = 0 := by simp [Port.acked, fresh]
  rw [takeAck_eq, pump_quiet (x := x.acked ack vc credit) carries none, again]
  exact (nget_nput ..).trans (if_pos rfl)

/-- What neither acknowledgement nor sending touches: the receiver's side, and where the link stands. -/
def Port.receiver (x : Port) := (x.state, x.rxNext, x.nakOut, x.sinceAck, x.creditsDue, x.assembly, x.inbox, x.errCrc)

theorem sends_receiver {x y : Port} (sends : x.Sends y) : y.receiver = x.receiver := by rw [sends]; rfl

theorem takeAck_receiver (x : Port) (ack : BitVec 12) (vc credit : Nat) : (x.takeAck ack vc credit).receiver = x.receiver :=
  (sends_receiver (pump_sends (x.acked ack vc credit))).trans rfl

theorem carries_receiver {x y : Port} (same : y.receiver = x.receiver) : y.carries = x.carries := by
  have state : y.state = x.state := congrArg (·.1) same
  rw [Port.carries, state]
  rfl

/-! ## Resends -/

theorem resend_sends (x : Port) : Port.Sends { x with resends := x.resends + 1, again := x.replay.length } x.resend :=
  sendAgain_sends ..

theorem resend_kept (x : Port) : x.resend.replay = x.replay ∧ x.resend.resends = x.resends + 1 ∧ x.resend.state = x.state := by
  refine ⟨(sendAgain_replay ..).1, ?_, ?_⟩
  · rw [resend_sends x]
  · rw [resend_sends x]

theorem resendPort_none {s : Hw} {p : Nat} (none : (s.port p).replay = []) : s.resendPort p = s :=
  if_pos (by rw [none]; rfl)

section Resend
variable {s : Hw} {p : Nat} (left : (s.port p).replay ≠ [])
include left

theorem resendPort_few (few : (s.port p).resends < 7) : s.resendPort p = s.setPort p (s.port p).resend := by
  have resends := (resend_kept (s.port p)).2.1
  have below : decide (((s.onPort p Port.resend).port p).resends ≥ 8) = false := by
    rw [port_onPort, resends]
    exact decide_eq_false (by omega)
  rw [Hw.resendPort, if_neg (by simpa using left)]
  dsimp only
  rw [below, Bool.false_and]
  rfl

theorem resendPort_eighth (many : (s.port p).resends ≥ 7) (up : (s.port p).state = .up) :
    s.resendPort p = (s.onPort p Port.resend).retrain p 2 := by
  obtain ⟨-, resends, state⟩ := resend_kept (s.port p)
  have eight : decide (((s.onPort p Port.resend).port p).resends ≥ 8) = true := by
    rw [port_onPort, resends]
    exact decide_eq_true (by omega)
  have still : decide (((s.onPort p Port.resend).port p).state = .up) = true := by
    rw [port_onPort, state]
    exact decide_eq_true up
  rw [Hw.resendPort, if_neg (by simpa using left)]
  dsimp only
  rw [eight, still]
  rfl

theorem resendPort_replay : ((s.resendPort p).port p).replay = (s.port p).replay := by
  rw [Hw.resendPort, if_neg (by simpa using left)]
  dsimp only
  have kept := (resend_kept (s.port p)).1
  split
  · rw [retrain_port, port_onPort]
    exact kept
  · rw [port_onPort, kept]

end Resend

/-! ## Acknowledgements of this side -/

/-- A scan for the largest finds one that none before it, and none in the list, exceeds. -/
theorem foldl_most (due : Nat → Nat) (l : List Nat) (b : Nat) :
    let m := l.foldl (fun b v => if due v > due b then v else b) b
    (m = b ∨ m ∈ l) ∧ due b ≤ due m ∧ ∀ v ∈ l, due v ≤ due m := by
  induction l generalizing b with
  | nil => exact ⟨.inl rfl, Nat.le_refl _, fun v mem => absurd mem List.not_mem_nil⟩
  | cons v l ih =>
    rw [List.foldl_cons]
    by_cases greater : due v > due b
    · obtain ⟨mem, least, most⟩ := ih v
      rw [if_pos greater]
      exact ⟨.inr (List.mem_cons.2 mem), by omega, List.forall_mem_cons.2 ⟨least, most⟩⟩
    · obtain ⟨mem, least, most⟩ := ih b
      rw [if_neg greater]
      exact ⟨mem.imp_right (List.mem_cons_of_mem _), least, List.forall_mem_cons.2 ⟨by omega, most⟩⟩

theorem dueVc_most (x : Port) : dueVc x < 4 ∧ ∀ w, w < 4 → nget 0 x.creditsDue w ≤ nget 0 x.creditsDue (dueVc x) := by
  obtain ⟨mem, -, most⟩ := foldl_most (fun v => nget 0 x.creditsDue v) (List.range 4) 0
  refine ⟨?_, fun w small => most w (List.mem_range.2 small)⟩
  obtain zero | mem := mem
  · exact Nat.lt_of_le_of_lt (Nat.le_of_eq zero) (by decide)
  · exact List.mem_range.1 mem

/-- A port that has acknowledged and given `n` credits of a channel back. -/
def Port.acknowledged (x : Port) (v n : Nat) : Port :=
  Port.sendCtrl { x with sinceAck := 0, lastAckSent := x.rxNext - 1
                         creditsDue := nput 0 x.creditsDue v (nget 0 x.creditsDue v - n) } frIdle 0
    { ack := x.rxNext - 1, creditVc := Fin.ofNat 4 v, credit := BitVec.ofNat 8 n, crc := 0 } []

theorem sendAck_port (s : Hw) (p : Nat) : (s.sendAck p).port p = (s.port p).acknowledged (dueVc (s.port p))
    (if s.withholds p then 0 else min 255 (nget 0 (s.port p).creditsDue (dueVc (s.port p)))) := port_onPort ..

end Sys2Proof.Machine
end

section
/-!
# The states of a port (R295-R297)
-/
namespace Sys2Proof.Machine

/-! ## A port's own HELLO -/

theorem ownHello_of {s t : Hw} {p : Nat} (rank : t.spn.rank = s.spn.rank) (next : (t.port p).rxNext = (s.port p).rxNext)
    (resume : Bool) : t.ownHello p resume = { s.ownHello p resume with retiring := (t.port p).retire } := by
  simp only [Hw.ownHello, rank, next]

theorem helloed_of {s t : Hw} {p : Nat} (rank : t.spn.rank = s.spn.rank) (next : (t.port p).rxNext = (s.port p).rxNext)
    (resume : Bool) : t.helloed p resume =
      { t.port p with ctrlOut := s.helloBytes p (t.port p).retire resume :: (t.port p).ctrlOut } := by
  rw [Hw.helloed, ownHello_of rank next]
  rfl

/-! ## Commands that change one port -/

section Port
variable {s : State} {p : PortIx} {c : Instr}

/-- A command puts a port to `y`, and changes nothing else but, where it is a BAR0 write, the keys of the test registers. -/
def State.Becomes (s : State) (p : PortIx) (c : Instr) (y : Port) : Prop := ∃ t, exec c s = .next t ∧ t.hw.port p.val = y ∧
  (∀ q, q ≠ p.val → t.hw.port q = s.hw.port q) ∧ t = { s with hw := { s.hw with ports := t.hw.ports, tst := t.hw.tst } }

theorem becomes_of {u : Hw} {y : Port} (out : exec c s = .next { s with hw := u }) (port : u.port p.val = y)
    (others : ∀ q, q ≠ p.val → u.port q = s.hw.port q) (frame : u = { s.hw with ports := u.ports, tst := u.tst }) :
    s.Becomes p c y := by
  refine ⟨_, out, port, others, ?_⟩
  exact congrArg (fun h : Hw => { s with hw := h }) frame

/-- The module as a BAR0 write finds it (R142). -/
def State.keyed (s : State) : Hw := { s.hw with tst := { s.hw.tst with armedKey := false } }

/-- A port changes, and then says HELLO. -/
theorem becomes_hello {h : Hw} {f : Port → Port} {resume : Bool} (keys : h = { s.hw with tst := h.tst })
    (next : (f (s.hw.port p.val)).rxNext = (s.hw.port p.val).rxNext)
    (out : exec c s = .next { s with hw := (h.onPort p.val f).sendHello p.val resume }) :
    s.Becomes p c { f (s.hw.port p.val) with
      ctrlOut := s.hw.helloBytes p.val (f (s.hw.port p.val)).retire resume :: (f (s.hw.port p.val)).ctrlOut } := by
  have port : (h.onPort p.val f).port p.val = f (s.hw.port p.val) := by rw [port_onPort, keys]; rfl
  have rank : (h.onPort p.val f).spn.rank = s.hw.spn.rank := by rw [keys]; rfl
  have said := helloed_of (s := s.hw) (t := h.onPort p.val f) (p := p.val) rank (port ▸ next) resume
  rw [port] at said
  rw [sendHello_eq, said] at out
  refine becomes_of out (port_setPort ..) (fun q other => ?_) ?_
  · refine (nget_nput ..).trans ((if_neg other).trans ((port_onPort_other other f).trans ?_))
    rw [keys]
    rfl
  · rw [keys]
    rfl

theorem exec_linkEnable (bar : s.hw.barOpen = true) (off : (s.hw.port p.val).state = .disabled) :
    exec (.linkEnable p) s = .next { s with
      hw := s.keyed.setPort p.val { s.hw.port p.val with enable := true, state := .training } } := by
  have call : exec (.linkEnable p) s = execLinkEnable p s := rfl
  have training : (if (s.hw.port p.val).state = .disabled then PortSt.training else (s.hw.port p.val).state) = .training :=
    if_pos off
  rw [call, execLinkEnable, act_bar0_of_open bar]
  simp only [Hw.onPort]
  rw [show (Hw.port { s.hw with tst := { s.hw.tst with armedKey := false } } p.val) = s.hw.port p.val from rfl, training]
  rfl

theorem exec_linkDisable (bar : s.hw.barOpen = true) : ∃ t, exec (.linkDisable p) s = .next t ∧
    (t.hw.port p.val).state = .disabled ∧ (t.hw.port p.val).enable = false ∧ (t.hw.port p.val).replay = [] ∧
    (t.hw.port p.val).outQ = [] ∧ (t.hw.port p.val).egress = [] ∧ ∀ q, q ≠ p.val → t.hw.port q = s.hw.port q := by
  have call : exec (.linkDisable p) s = execLinkDisable p s := rfl
  have off : (s.keyed.disablePort p.val).port p.val = (s.hw.port p.val).disable := (disablePort_port ..).trans (if_pos rfl)
  have others (q : Nat) (other : q ≠ p.val) : (s.keyed.disablePort p.val).port q = s.hw.port q :=
    (disablePort_port ..).trans (if_neg other)
  rw [call, execLinkDisable, act_bar0_of_open bar]
  refine ⟨_, rfl, ?_⟩
  change (Hw.port (s.keyed.disablePort p.val) p.val).state = _ ∧ (Hw.port (s.keyed.disablePort p.val) p.val).enable = _ ∧
    (Hw.port (s.keyed.disablePort p.val) p.val).replay = _ ∧ (Hw.port (s.keyed.disablePort p.val) p.val).outQ = _ ∧
    (Hw.port (s.keyed.disablePort p.val) p.val).egress = _ ∧ ∀ q, q ≠ p.val → Hw.port (s.keyed.disablePort p.val) q = _
  rw [off]
  exact ⟨rfl, rfl, rfl, rfl, rfl, others⟩

theorem linkRetire_up (bar : s.hw.barOpen = true) (up : (s.hw.port p.val).state = .up) :
    s.Becomes p (.linkRetire p) { s.hw.port p.val with
      retire := true, state := .retiring, ctrlOut := s.hw.helloBytes p.val true false :: (s.hw.port p.val).ctrlOut } := by
  have call : exec (.linkRetire p) s = execLinkRetire p s := rfl
  have was : decide ((Hw.port { s.hw with tst := { s.hw.tst with armedKey := false } } p.val).state = .up) = true :=
    decide_eq_true up
  refine becomes_hello (h := s.keyed) (f := fun x => { x with retire := true, state := .retiring }) rfl rfl ?_
  rw [call, execLinkRetire, act_bar0_of_open bar]
  simp only [was, if_true]
  rfl

theorem linkRetireCancel_retiring (bar : s.hw.barOpen = true) (retiring : (s.hw.port p.val).state = .retiring) :
    s.Becomes p (.linkRetireCancel p) { s.hw.port p.val with
      retire := false, state := .up, ctrlOut := s.hw.helloBytes p.val false false :: (s.hw.port p.val).ctrlOut } := by
  have call : exec (.linkRetireCancel p) s = execLinkRetireCancel p s := rfl
  have was : decide ((Hw.port { s.hw with tst := { s.hw.tst with armedKey := false } } p.val).state = .retiring) = true :=
    decide_eq_true retiring
  refine becomes_hello (h := s.keyed) (f := fun x => { x with retire := false, state := .up }) rfl rfl ?_
  rw [call, execLinkRetireCancel, act_bar0_of_open bar]
  simp only [was, if_true]
  rfl

theorem linkLock_training (training : (s.hw.port p.val).state = .training) :
    s.Becomes p (.linkLock p) { s.hw.port p.val with
      state := .negotiating
      ctrlOut := s.hw.helloBytes p.val (s.hw.port p.val).retire false :: (s.hw.port p.val).ctrlOut } := by
  have call : exec (.linkLock p) s = execLinkLock p s := rfl
  refine becomes_hello (h := s.hw) (f := fun x => { x with state := .negotiating }) rfl rfl ?_
  rw [call, execLinkLock]
  refine act_eq ?_
  simp only [training]

theorem linkLock_retraining (retraining : (s.hw.port p.val).state = .retraining) :
    s.Becomes p (.linkLock p) { s.hw.port p.val with
      ctrlOut := s.hw.helloBytes p.val (s.hw.port p.val).retire true :: (s.hw.port p.val).ctrlOut } := by
  have call : exec (.linkLock p) s = execLinkLock p s := rfl
  have out : exec (.linkLock p) s = .next { s with hw := s.hw.sendHello p.val true } := by
    rw [call, execLinkLock]
    refine act_eq ?_
    simp only [retraining]
  refine becomes_of out ?_ (fun q other => (nget_nput ..).trans (if_neg other)) rfl
  rw [sendHello_eq, port_setPort]
  rfl

theorem exec_trainingTimeout (training : (s.hw.port p.val).state = .training) : exec (.trainingTimeout p) s = .next { s with
    hw := s.hw.setPort p.val { s.hw.port p.val with state := .failed } } := by
  have call : exec (.trainingTimeout p) s = execTrainingTimeout p s := rfl
  rw [call, execTrainingTimeout]
  refine act_eq ?_
  rw [Hw.onPort, if_pos training]

theorem exec_downRetry (down : (s.hw.port p.val).state = .down) (enable : (s.hw.port p.val).enable = true) :
    exec (.downRetry p) s = .next { s with hw := s.hw.setPort p.val { s.hw.port p.val with state := .training } } := by
  have call : exec (.downRetry p) s = execDownRetry p s := rfl
  rw [call, execDownRetry]
  refine act_eq ?_
  rw [Hw.onPort, if_pos ⟨down, enable⟩]

/-! ## An UP port that loses its link -/

theorem lossOfLock_up (up : (s.hw.port p.val).state = .up) : ∃ t, exec (.lossOfLock p) s = .next t ∧
    t.hw.port p.val = (s.hw.port p.val).retrained ∧ t.hw.evt.flags.getLsbD 25 = true := by
  have call : exec (.lossOfLock p) s = execLossOfLock p s := rfl
  have out : exec (.lossOfLock p) s = .next { s with hw := s.hw.retrain p.val 0 } := by
    rw [call, execLossOfLock]
    exact act_eq (if_pos up)
  exact ⟨_, out, retrain_port .., retrain_flag ..⟩

/-- A port that has counted an uncorrectable codeword. -/
def Port.miscoded (x : Port) : Port := { x with fecUncorrectable := satInc x.fecUncorrectable }

theorem exec_fecUncorrectable_one : exec (.fecUncorrectable p false) s = .next { s with
    hw := s.hw.setPort p.val (s.hw.port p.val).miscoded } := rfl

theorem fecUncorrectable_sixteen (up : (s.hw.port p.val).state = .up) : ∃ t, exec (.fecUncorrectable p true) s = .next t ∧
    t.hw.port p.val = (s.hw.port p.val).miscoded.retrained ∧ t.hw.evt.flags.getLsbD 25 = true := by
  have call : exec (.fecUncorrectable p true) s = execFecUncorrectable p true s := rfl
  have still : ((s.hw.onPort p.val Port.miscoded).port p.val).state = .up := by rw [port_onPort]; exact up
  have out : exec (.fecUncorrectable p true) s = .next { s with hw := (s.hw.onPort p.val Port.miscoded).retrain p.val 1 } := by
    rw [call, execFecUncorrectable]
    exact act_eq (if_pos (by rw [Bool.true_and]; exact decide_eq_true still))
  refine ⟨_, out, ?_, retrain_flag ..⟩
  exact (retrain_port ..).trans (by rw [port_onPort])

theorem retrainTimeout_falls (retraining : (s.hw.port p.val).state = .retraining) :
    ∃ t, exec (.retrainTimeout p) s = .next t ∧ Fallen s.hw p.val t.hw := by
  have call : exec (.retrainTimeout p) s = execRetrainTimeout p s := rfl
  have out : exec (.retrainTimeout p) s = .next { s with hw := s.hw.portDown p.val } := by
    rw [call, execRetrainTimeout]
    exact act_eq (if_pos retraining)
  exact ⟨_, out, portDown_falls ..⟩

end Port

end Sys2Proof.Machine
end

section
/-!
# HELLO and the frames of a link that carries traffic (R297-R301)
-/
namespace Sys2Proof.Machine

/-! ## HELLO -/

/-- Where a link stands, and with whom. -/
def Port.link (x : Port) := (x.state, x.version, x.partnerSerial, x.delayNs, x.rxNext)

theorem sends_link {x y : Port} (sends : x.Sends y) : y.link = x.link := by rw [sends]; rfl

section Hello
variable {s : State} {p : PortIx} {m : HelloMsg}

theorem exec_hello_bad (bad : m.crcOk = false) (listens : (s.hw.port p.val).listens = true) : exec (.hello p m) s = .next { s with
    hw := s.hw.setPort p.val { s.hw.port p.val with errCrc := (s.hw.port p.val).errCrc + 1 } } := by
  have call : exec (.hello p m) s = execHello p m s := rfl
  rw [call, execHello]
  refine act_eq ?_
  simp only [bad, listens, Bool.not_false, if_true]
  rfl

variable (crc : m.crcOk = true)
include crc

theorem exec_hello_up (up : (s.hw.port p.val).state = .up) : exec (.hello p m) s = .next { s with
    hw := s.hw.setPort p.val { s.hw.port p.val with partnerRetiring := m.retiring } } := by
  have call : exec (.hello p m) s = execHello p m s := rfl
  rw [call, execHello]
  refine act_eq ?_
  simp only [crc, up, Bool.not_true, Bool.false_eq_true, if_false]

theorem exec_hello_fails (negotiating : (s.hw.port p.val).state = .negotiating) (unknown : m.versions.getLsbD 0 = false) :
    exec (.hello p m) s = .next { s with hw := s.hw.setPort p.val { s.hw.port p.val with state := .failed } } := by
  have call : exec (.hello p m) s = execHello p m s := rfl
  rw [call, execHello]
  refine act_eq ?_
  simp only [crc, negotiating, unknown, Bool.not_true, Bool.false_and, Bool.false_eq_true, if_false]

/-- A port that has come up with its partner, before it sends. -/
def Port.met (x : Port) (m : HelloMsg) : Port := { x.clear.partner m with
  state := .up, version := 1
  txCredit := (List.range 4).foldl (fun c v => nput 0 c v (m.buffers.getD v 0).toNat) [] }

theorem hello_meets (negotiating : (s.hw.port p.val).state = .negotiating) (known : m.versions.getLsbD 0 = true)
    (role : roleOk p.val m.role = true) : ∃ t, exec (.hello p m) s = .next t ∧
      (t.hw.port p.val).state = .up ∧ (t.hw.port p.val).version = 1 ∧ (t.hw.port p.val).partnerSerial = m.serial ∧
      (t.hw.port p.val).delayNs = m.delayNs ∧ (t.hw.port p.val).rxNext = 0 ∧
      t = { s with hw := { s.hw with ports := t.hw.ports } } := by
  have call : exec (.hello p m) s = execHello p m s := rfl
  have out : exec (.hello p m) s = .next { s with hw := s.hw.setPort p.val ((s.hw.port p.val).met m).pump } := by
    rw [call, execHello]
    refine act_eq ?_
    simp only [crc, negotiating, known, role, Bool.not_true, Bool.and_self, Bool.false_eq_true, if_false, if_true]
    rfl
  have link : ((s.hw.setPort p.val ((s.hw.port p.val).met m).pump).port p.val).link = (.up, 1, m.serial, m.delayNs, 0) := by
    rw [port_setPort, sends_link (pump_sends _)]
    rfl
  simp only [Port.link, Prod.mk.injEq] at link
  obtain ⟨state, version, serial, delay, next⟩ := link
  exact ⟨_, out, state, version, serial, delay, next, rfl⟩

theorem hello_stranger (retraining : (s.hw.port p.val).state = .retraining) (other : m.serial ≠ (s.hw.port p.val).partnerSerial) :
    ∃ t, exec (.hello p m) s = .next t ∧ Fallen s.hw p.val t.hw := by
  have call : exec (.hello p m) s = execHello p m s := rfl
  have out : exec (.hello p m) s = .next { s with hw := s.hw.portDown p.val } := by
    rw [call, execHello]
    refine act_eq ?_
    simp only [crc, retraining, Bool.not_true, Bool.false_eq_true, if_false, ne_eq, other, not_false_eq_true, if_true]
  exact ⟨_, out, portDown_falls ..⟩

/-- A port that has come up again with its partner, before it sends again what is left. -/
def Port.resumed (x : Port) (m : HelloMsg) : Port :=
  { (x.partner m).takeAck (m.nextExpected - 1) 0 0 with state := .up, version := 1, resends := 0 }

theorem hello_resumes (retraining : (s.hw.port p.val).state = .retraining) (same : m.serial = (s.hw.port p.val).partnerSerial)
    (resume : m.resume = true) : ∃ t, exec (.hello p m) s = .next t ∧ (t.hw.port p.val).state = .up ∧
      (t.hw.port p.val).version = 1 ∧ t = { s with hw := { s.hw with ports := t.hw.ports } } := by
  have call : exec (.hello p m) s = execHello p m s := rfl
  have out : exec (.hello p m) s = .next { s with hw := s.hw.setPort p.val ((s.hw.port p.val).resumed m).resend.pump } := by
    rw [call, execHello]
    refine act_eq ?_
    simp only [crc, retraining, same, resume, Bool.not_true, Bool.false_eq_true, if_false, ne_eq, not_true, if_true]
    rfl
  have sends := (resend_sends ((s.hw.port p.val).resumed m)).trans (pump_sends _)
  have link := sends_link sends
  rw [← port_setPort s.hw p.val ((s.hw.port p.val).resumed m).resend.pump] at link
  exact ⟨_, out, congrArg (·.1) link, congrArg (·.2.1) link, rfl⟩

end Hello

/-! ## A DATA frame -/

/-- What a frame makes of the message that is being assembled on its channel. -/
def Port.wholeOf (x : Port) (fr : DataFrame) : List Byte :=
  (if fr.som then [] else nget [] x.assembly fr.vc.val) ++ fr.payload

/-- A port that has taken in the frame it expected. -/
def Port.advanced (x : Port) (fr : DataFrame) : Port :=
  Port.owe { x with
    rxNext := x.rxNext + 1, nakOut := false, sinceAck := x.sinceAck + 1
    assembly := nput [] x.assembly fr.vc.val (if fr.eom then [] else x.wholeOf fr) } fr.vc.val
    (if fr.som then frameCount (nget [] x.assembly fr.vc.val) else 0)

/-- The module with a frame in sequence taken in, and acknowledged where it is due. -/
def Hw.accept (s : Hw) (p : Nat) (fr : DataFrame) : Hw :=
  let t := s.onPort p fun x => x.advanced fr
  if (t.port p).sinceAck ≥ 64 then t.sendAck p else t

/-- The same after the acknowledgement that the frame carries. -/
def Hw.advance (s : Hw) (p : Nat) (fr : DataFrame) : Hw :=
  (s.onPort p fun x => x.takeAck fr.ack fr.creditVc.val fr.credit.toNat).accept p fr

/-- The receiver's place in its sequence, and what it assembles and holds. -/
def Port.intake (x : Port) := (x.rxNext, x.nakOut, x.assembly, x.inbox)

theorem owe_intake (x : Port) (vc n : Nat) : (x.owe vc n).intake = x.intake := by
  unfold Port.owe
  split <;> rfl

theorem takeAck_intake (x : Port) (ack : BitVec 12) (vc credit : Nat) : (x.takeAck ack vc credit).intake = x.intake :=
  congrArg (fun r : PortSt × BitVec 12 × Bool × Nat × NMap Nat × NMap (List Byte) × List (Nat × List Byte) × W32 =>
    (r.2.1, r.2.2.1, r.2.2.2.2.2.1, r.2.2.2.2.2.2.1)) (takeAck_receiver x ack vc credit)

theorem sendAck_intake (s : Hw) (p : Nat) : ((s.sendAck p).port p).intake = (s.port p).intake := by rw [sendAck_port]; rfl

theorem advance_intake (s : Hw) (p : Nat) (fr : DataFrame) : ((s.advance p fr).port p).intake =
    ((s.port p).rxNext + 1, false,
      nput [] (s.port p).assembly fr.vc.val (if fr.eom then [] else (s.port p).wholeOf fr), (s.port p).inbox) := by
  have intake := takeAck_intake (s.port p) fr.ack fr.creditVc.val fr.credit.toNat
  have moved : ((s.port p).takeAck fr.ack fr.creditVc.val fr.credit.toNat |>.advanced fr).intake =
      ((s.port p).rxNext + 1, false,
        nput [] (s.port p).assembly fr.vc.val (if fr.eom then [] else (s.port p).wholeOf fr), (s.port p).inbox) := by
    rw [Port.advanced, owe_intake]
    simp only [Port.intake, Prod.mk.injEq] at intake
    obtain ⟨next, -, assembly, inbox⟩ := intake
    simp only [Port.intake, Port.wholeOf, next, assembly, inbox]
  unfold Hw.advance Hw.accept
  dsimp only
  split
  · rw [sendAck_intake, port_onPort, port_onPort, moved]
  · rw [port_onPort, port_onPort, moved]

theorem advance_mem (s : Hw) (p : Nat) (fr : DataFrame) : (s.advance p fr).mem = s.mem := by
  unfold Hw.advance Hw.accept
  dsimp only
  split <;> rfl

/-! ## A whole message -/

theorem leashDrop_ports (s : Hw) (p : Nat) (recorded : Bool) (header : List Byte) : (s.leashDrop p recorded header).ports = s.ports := by
  unfold Hw.leashDrop
  dsimp only
  split
  · rw [record_ports, raise_ports]
  · rfl

/-- The receiver's place in its sequence, and what it assembles. -/
def Port.assembles (x : Port) := (x.rxNext, x.nakOut, x.assembly)

theorem owe_assembles (x : Port) (vc n : Nat) : (x.owe vc n).assembles = x.assembles := by
  unfold Port.owe
  split <;> rfl

theorem onPort_assembles {s : Hw} {q : Nat} {f : Port → Port} (keeps : ∀ x : Port, (f x).assembles = x.assembles) (p : Nat) :
    ((s.onPort q f).port p).assembles = (s.port p).assembles := by
  by_cases here : p = q
  · rw [here, port_onPort, keeps]
  · rw [port_onPort_other here]

theorem sendPortAt_assembles (s : Hw) (q input : Nat) (m : LMsg) (p : Nat) :
    ((s.sendPortAt q input m).port p).assembles = (s.port p).assembles := by
  rw [Hw.sendPortAt]
  obtain ⟨arbs, same⟩ := arbRaise_arbs (s.onPort q fun x => { x with egress := x.egress ++ [(input, m.frames, m)] })
    (portField q) 2 (portSite q) input m.frames
  rw [same]
  exact onPort_assembles (s := s) (q := q) (f := fun x => { x with egress := x.egress ++ [(input, m.frames, m)] }) (fun _ => rfl) p

theorem forward_assembles (s : Hw) (q : Nat) (m : LMsg) (p : Nat) : ((s.forward q m).port p).assembles = (s.port p).assembles :=
  (sendPortAt_assembles ..).trans (onPort_assembles (f := fun x => { x with forwarded := true }) (fun _ => rfl) p)

/-- A whole message that is taken, goes on or is discarded leaves the sequence and what is being assembled. -/
theorem takeMessage_assembles (s : Hw) (n vc : Nat) (bs : List Byte) (p : Nat) :
    ((s.takeMessage n vc bs).port p).assembles = (s.port p).assembles := by
  have left : ((s.onPort n fun x => x.owe vc (frameCount bs)).port p).assembles = (s.port p).assembles :=
    onPort_assembles (fun x => owe_assembles x vc (frameCount bs)) p
  have dropped (recorded : Bool) (header : List Byte) : (((s.onPort n fun x => x.owe vc (frameCount bs)).leashDrop n recorded
      header).port p).assembles = (s.port p).assembles := by
    rw [port_of_ports (leashDrop_ports ..), left]
  have taken : ((s.onPort n fun x => { x with inbox := x.inbox ++ [(vc, bs)] }).port p).assembles = (s.port p).assembles :=
    onPort_assembles (f := fun x => { x with inbox := x.inbox ++ [(vc, bs)] }) (fun _ => rfl) p
  unfold Hw.takeMessage
  dsimp only
  split
  · split
    · rw [raise_port]
      exact dropped ..
    · exact dropped ..
  split
  · exact taken
  split
  · exact dropped ..
  · exact (forward_assembles ..).trans left
  · exact taken

theorem takeMessage_bellows {s : Hw} {n vc : Nat} {bs : List Byte} (kind : kindOk n (parseLMsg vc bs).kind = true) (bellows : n ≥ 48) :
    ((s.takeMessage n vc bs).port n).inbox = (s.port n).inbox ++ [(vc, bs)] := by
  have taken : s.takeMessage n vc bs = s.onPort n fun x => { x with inbox := x.inbox ++ [(vc, bs)] } := by
    unfold Hw.takeMessage
    simp only [kind, Bool.not_true, Bool.false_eq_true, if_false, if_pos bellows]
  rw [taken, port_onPort]

/-! ## Frames of a port that carries traffic -/

section Frame
variable {s : State} {p : PortIx} {fr : DataFrame} (carries : (s.hw.port p.val).carries = true)
include carries

section Data
variable (unarmed : s.hw.tst.injArm = false)
include unarmed

theorem exec_dataFrame_bad (bad : fr.crcOk = false) : exec (.dataFrame p fr) s = .next { s with
    hw := s.hw.onPort p.val fun x => ({ x with errCrc := x.errCrc + 1 }.owe fr.vc.val 1).nak } := by
  have call : exec (.dataFrame p fr) s = execDataFrame p fr s := rfl
  rw [call, execDataFrame]
  refine act_eq ?_
  simp only [carries, injHit_unarmed unarmed, bad, Bool.not_true, Bool.not_false, Bool.true_or, Bool.false_eq_true, if_false, if_true,
    Option.getD_none]

theorem exec_dataFrame_gap (good : fr.crcOk = true) (gap : fr.seq ≠ (s.hw.port p.val).rxNext) :
    exec (.dataFrame p fr) s = .next { s with
      hw := (s.hw.onPort p.val fun x => x.takeAck fr.ack fr.creditVc.val fr.credit.toNat).onPort p.val
        fun x => (x.owe fr.vc.val 1).nak } := by
  have call : exec (.dataFrame p fr) s = execDataFrame p fr s := rfl
  have next : ((s.hw.onPort p.val fun x => x.takeAck fr.ack fr.creditVc.val fr.credit.toNat).port p.val).rxNext =
      (s.hw.port p.val).rxNext := by
    rw [port_onPort]
    exact congrArg (·.2.1) (takeAck_receiver ..)
  rw [call, execDataFrame]
  refine act_eq ?_
  simp only [carries, injHit_unarmed unarmed, good, Bool.not_true, Option.isSome_none, Bool.or_self, Bool.false_eq_true, if_false,
    Option.getD_none, next, ne_eq, gap, not_false_eq_true, if_true]

theorem exec_dataFrame_next (good : fr.crcOk = true) (seq : fr.seq = (s.hw.port p.val).rxNext) :
    exec (.dataFrame p fr) s = .next { s with
      hw := if fr.eom then (s.hw.advance p.val fr).takeMessage p.val fr.vc.val ((s.hw.port p.val).wholeOf fr)
        else s.hw.advance p.val fr } := by
  have call : exec (.dataFrame p fr) s = execDataFrame p fr s := rfl
  have taken (h : Hw) : h.advance p.val fr = (h.onPort p.val fun x => x.takeAck fr.ack fr.creditVc.val fr.credit.toNat).accept
      p.val fr := rfl
  have receiver : ((s.hw.onPort p.val fun x => x.takeAck fr.ack fr.creditVc.val fr.credit.toNat).port p.val).receiver =
      (s.hw.port p.val).receiver := by
    rw [port_onPort]
    exact takeAck_receiver ..
  simp only [Port.receiver, Prod.mk.injEq] at receiver
  obtain ⟨-, next, -, -, -, assembly, -, -⟩ := receiver
  have whole : ((s.hw.onPort p.val fun x => x.takeAck fr.ack fr.creditVc.val fr.credit.toNat).port p.val).wholeOf fr =
      (s.hw.port p.val).wholeOf fr := by rw [Port.wholeOf, assembly]; rfl
  rw [call, execDataFrame]
  refine act_eq ?_
  simp only [carries, injHit_unarmed unarmed, good, Bool.not_true, Option.isSome_none, Bool.or_self, Bool.false_eq_true, if_false,
    Option.getD_none, next, ne_eq, seq, not_true]
  rw [taken, ← whole]
  generalize s.hw.onPort p.val (fun x => x.takeAck fr.ack fr.creditVc.val fr.credit.toNat) = h
  rfl

end Data

end Frame

end Sys2Proof.Machine
end

section
/-!
# What frames leave, and the obligation on links (R296-R300)
-/
namespace Sys2Proof.Machine

/-! ## A frame that is discarded -/

/-- A discarded frame's port: its NAK is out and its credit owed. -/
theorem refused_port (y : Port) (vc : Nat) : (y.owe vc 1).nak.rxNext = y.rxNext ∧ (y.owe vc 1).nak.nakOut = true ∧
    (y.owe vc 1).nak.inbox = y.inbox ∧ (y.owe vc 1).nak.assembly = y.assembly ∧ (y.owe vc 1).nak.errCrc = y.errCrc ∧
    nget 0 (y.owe vc 1).nak.creditsDue vc = nget 0 y.creditsDue vc + 1 := by
  have owed : nget 0 (y.owe vc 1).creditsDue vc = nget 0 y.creditsDue vc + 1 := by
    rw [Port.owe, if_neg Nat.one_ne_zero]
    dsimp only
    rw [nget_nput, if_pos rfl]
  unfold Port.nak
  split
  · next out => exact ⟨rfl, out, rfl, rfl, rfl, owed⟩
  · exact ⟨rfl, rfl, rfl, rfl, rfl, owed⟩

section Frame
variable {s : State} {p : PortIx} {fr : DataFrame} (carries : (s.hw.port p.val).carries = true)
include carries

section Data
variable (unarmed : s.hw.tst.injArm = false)
include unarmed

theorem dataFrame_bad (bad : fr.crcOk = false) : ∃ t, exec (.dataFrame p fr) s = .next t ∧
    (t.hw.port p.val).errCrc = (s.hw.port p.val).errCrc + 1 ∧ (t.hw.port p.val).rxNext = (s.hw.port p.val).rxNext ∧
    (t.hw.port p.val).nakOut = true ∧ (t.hw.port p.val).inbox = (s.hw.port p.val).inbox ∧
    nget 0 (t.hw.port p.val).creditsDue fr.vc.val = nget 0 (s.hw.port p.val).creditsDue fr.vc.val + 1 := by
  refine ⟨_, exec_dataFrame_bad carries unarmed bad, ?_⟩
  obtain ⟨next, nak, inbox, -, count, credit⟩ :=
    refused_port { s.hw.port p.val with errCrc := (s.hw.port p.val).errCrc + 1 } fr.vc.val
  simp only [port_onPort]
  exact ⟨count, next, nak, inbox, credit⟩

theorem dataFrame_gap (good : fr.crcOk = true) (gap : fr.seq ≠ (s.hw.port p.val).rxNext) :
    ∃ t, exec (.dataFrame p fr) s = .next t ∧ (t.hw.port p.val).rxNext = (s.hw.port p.val).rxNext ∧
    (t.hw.port p.val).nakOut = true ∧ (t.hw.port p.val).inbox = (s.hw.port p.val).inbox ∧
    (t.hw.port p.val).assembly = (s.hw.port p.val).assembly ∧
    nget 0 (t.hw.port p.val).creditsDue fr.vc.val = nget 0 (s.hw.port p.val).creditsDue fr.vc.val + 1 := by
  refine ⟨_, exec_dataFrame_gap carries unarmed good gap, ?_⟩
  have receiver := takeAck_receiver (s.hw.port p.val) fr.ack fr.creditVc.val fr.credit.toNat
  simp only [Port.receiver, Prod.mk.injEq] at receiver
  obtain ⟨-, next, -, -, due, assembly, inbox, -⟩ := receiver
  simp only [port_onPort]
  generalize (s.hw.port p.val).takeAck fr.ack fr.creditVc.val fr.credit.toNat = y at next due assembly inbox
  obtain ⟨next', nak, inbox', assembly', -, credit⟩ := refused_port y fr.vc.val
  exact ⟨next'.trans next, nak, inbox'.trans inbox, assembly'.trans assembly, credit.trans (by rw [due])⟩

theorem dataFrame_next (good : fr.crcOk = true) (seq : fr.seq = (s.hw.port p.val).rxNext) :
    ∃ t, exec (.dataFrame p fr) s = .next t ∧ (t.hw.port p.val).rxNext = (s.hw.port p.val).rxNext + 1 ∧
    (t.hw.port p.val).nakOut = false ∧
    nget [] (t.hw.port p.val).assembly fr.vc.val = (if fr.eom then [] else (s.hw.port p.val).wholeOf fr) ∧
    (fr.eom = false → (t.hw.port p.val).inbox = (s.hw.port p.val).inbox ∧ t.hw.mem = s.hw.mem) ∧
    (fr.eom = true → p.val ≥ 48 → kindOk p.val (parseLMsg fr.vc.val ((s.hw.port p.val).wholeOf fr)).kind = true →
      (t.hw.port p.val).inbox = (s.hw.port p.val).inbox ++ [(fr.vc.val, (s.hw.port p.val).wholeOf fr)]) := by
  refine ⟨_, exec_dataFrame_next carries unarmed good seq, ?_⟩
  have intake := advance_intake s.hw p.val fr
  have mem := advance_mem s.hw p.val fr
  generalize s.hw.advance p.val fr = h at intake mem
  simp only [Port.intake, Prod.mk.injEq] at intake
  obtain ⟨next, nak, assembly, inbox⟩ := intake
  have put : nget [] (h.port p.val).assembly fr.vc.val = (if fr.eom then [] else (s.hw.port p.val).wholeOf fr) := by
    rw [assembly]
    exact (nget_nput ..).trans (if_pos rfl)
  cases eom : fr.eom
  case false =>
    rw [eom] at put
    exact ⟨next, nak, put, fun _ => ⟨inbox, mem⟩, fun no => nomatch no⟩
  case true =>
    rw [eom] at put
    have kept := takeMessage_assembles h p.val fr.vc.val ((s.hw.port p.val).wholeOf fr) p.val
    simp only [Port.assembles, Prod.mk.injEq] at kept
    obtain ⟨next', nak', assembly'⟩ := kept
    refine ⟨next'.trans next, nak'.trans nak, (congrArg (fun m => nget [] m fr.vc.val) assembly').trans put, (fun no => nomatch no),
      fun _ bellows kind => ?_⟩
    exact (takeMessage_bellows kind bellows).trans (by rw [inbox])

end Data

/-! ## Control frames -/

omit carries in
theorem badFrame_eq (h : Hw) (n : Nat) : h.badFrame n = h.setPort n { h.port n with errCrc := (h.port n).errCrc + 1 } := rfl

variable {id : IdleFrame} {next : BitVec 12}

theorem exec_idleFrame_bad (bad : id.crcOk frIdle 0 [] = false) : exec (.idleFrame p id) s = .next { s with
    hw := s.hw.setPort p.val { s.hw.port p.val with errCrc := (s.hw.port p.val).errCrc + 1 } } := by
  have call : exec (.idleFrame p id) s = execIdleFrame p id s := rfl
  rw [call, execIdleFrame]
  refine act_eq ?_
  simp only [carries, bad, Bool.not_true, Bool.not_false, Bool.false_eq_true, if_false, if_true, badFrame_eq]

theorem exec_nakFrame_bad (bad : id.crcOk frNak next.toNat [] = false) : exec (.nakFrame p next id) s = .next { s with
    hw := s.hw.setPort p.val { s.hw.port p.val with errCrc := (s.hw.port p.val).errCrc + 1 } } := by
  have call : exec (.nakFrame p next id) s = execNakFrame p next id s := rfl
  rw [call, execNakFrame]
  refine act_eq ?_
  simp only [carries, bad, Bool.not_true, Bool.not_false, Bool.false_eq_true, if_false, if_true, badFrame_eq]

theorem exec_idleFrame (good : id.crcOk frIdle 0 [] = true) : exec (.idleFrame p id) s = .next { s with
    hw := s.hw.setPort p.val ((s.hw.port p.val).takeAck id.ack id.creditVc.val id.credit.toNat) } := by
  have call : exec (.idleFrame p id) s = execIdleFrame p id s := rfl
  rw [call, execIdleFrame]
  refine act_eq ?_
  simp only [carries, good, Bool.not_true, Bool.false_eq_true, if_false, Hw.onPort]

theorem exec_nakFrame (good : id.crcOk frNak next.toNat [] = true) : exec (.nakFrame p next id) s = .next { s with
    hw := (s.hw.setPort p.val ((s.hw.port p.val).takeAck (next - 1) id.creditVc.val id.credit.toNat)).resendPort p.val } := by
  have call : exec (.nakFrame p next id) s = execNakFrame p next id s := rfl
  rw [call, execNakFrame]
  refine act_eq ?_
  simp only [carries, good, Bool.not_true, Bool.false_eq_true, if_false, Hw.onPort]

theorem idleFrame_acks (good : id.crcOk frIdle 0 [] = true) : ∃ t, exec (.idleFrame p id) s = .next t ∧
    dropAcked id.ack (s.hw.port p.val).replay <+: (t.hw.port p.val).replay ∧
    (t.hw.port p.val).rxNext = (s.hw.port p.val).rxNext ∧ t = { s with hw := s.hw.setPort p.val (t.hw.port p.val) } ∧
    ((s.hw.port p.val).outQ = [] → (t.hw.port p.val).replay = dropAcked id.ack (s.hw.port p.val).replay ∧
      ((s.hw.port p.val).again = 0 → nget 0 (t.hw.port p.val).txCredit id.creditVc.val =
        nget 0 (s.hw.port p.val).txCredit id.creditVc.val + id.credit.toNat)) := by
  refine ⟨_, exec_idleFrame carries good, ?_⟩
  have kept := takeAck_replay (s.hw.port p.val) id.ack id.creditVc.val id.credit.toNat
  have receiver : (Port.takeAck (s.hw.port p.val) id.ack id.creditVc.val id.credit.toNat).rxNext = (s.hw.port p.val).rxNext :=
    congrArg (·.2.1) (takeAck_receiver ..)
  have quiet (none : (s.hw.port p.val).outQ = []) := takeAck_quiet carries none id.ack id.creditVc.val id.credit.toNat
  have credit (none : (s.hw.port p.val).outQ = []) (fresh : (s.hw.port p.val).again = 0) :=
    takeAck_credit carries none fresh id.ack id.creditVc.val id.credit.toNat
  generalize (s.hw.port p.val).takeAck id.ack id.creditVc.val id.credit.toNat = y at kept receiver quiet credit
  simp only [port_setPort]
  exact ⟨kept, receiver, trivial, fun none => ⟨quiet none, credit none⟩⟩

theorem nakFrame_resends (good : id.crcOk frNak next.toNat [] = true) : ∃ t, exec (.nakFrame p next id) s = .next t ∧
    let y := (s.hw.port p.val).takeAck (next - 1) id.creditVc.val id.credit.toNat
    dropAcked (next - 1) (s.hw.port p.val).replay <+: y.replay ∧ (t.hw.port p.val).replay = y.replay ∧
    ((s.hw.port p.val).outQ = [] → y.replay = dropAcked (next - 1) (s.hw.port p.val).replay) ∧
    (y.replay = [] → t.hw.port p.val = y) ∧ (y.replay ≠ [] → y.resends < 7 → t.hw.port p.val = y.resend) ∧
    (y.replay ≠ [] → y.resends ≥ 7 → (s.hw.port p.val).state = .up →
      (t.hw.port p.val).state = .retraining ∧ t.hw.evt.flags.getLsbD 25 = true) := by
  refine ⟨_, exec_nakFrame carries good, ?_⟩
  have kept := takeAck_replay (s.hw.port p.val) (next - 1) id.creditVc.val id.credit.toNat
  have state : (Port.takeAck (s.hw.port p.val) (next - 1) id.creditVc.val id.credit.toNat).state = (s.hw.port p.val).state :=
    congrArg (·.1) (takeAck_receiver ..)
  have quiet (none : (s.hw.port p.val).outQ = []) := takeAck_quiet carries none (next - 1) id.creditVc.val id.credit.toNat
  generalize (s.hw.port p.val).takeAck (next - 1) id.creditVc.val id.credit.toNat = y at kept state quiet
  have port := port_setPort s.hw p.val y
  generalize s.hw.setPort p.val y = h at port
  refine ⟨kept, ?_, quiet, fun none => ?_, fun left few => ?_, fun left many up => ?_⟩
  · by_cases none : (h.port p.val).replay = []
    · rw [resendPort_none none, port]
    · rw [resendPort_replay none, port]
  · rw [resendPort_none (by rw [port]; exact none), port]
  · rw [resendPort_few (by rw [port]; exact left) (by rw [port]; exact few), port_setPort, port]
  · rw [resendPort_eighth (by rw [port]; exact left) (by rw [port]; exact many) (by rw [port]; exact state.trans up)]
    exact ⟨congrArg Port.state (retrain_port ..), retrain_flag ..⟩

/-! ## Timers -/

theorem ackTimer_acks (gives : s.hw.withholds p.val = false) : ∃ t v n, exec (.ackTimer p) s = .next t ∧ v < 4 ∧
    (∀ w, w < 4 → nget 0 (s.hw.port p.val).creditsDue w ≤ nget 0 (s.hw.port p.val).creditsDue v) ∧
    n = min 255 (nget 0 (s.hw.port p.val).creditsDue v) ∧
    (t.hw.port p.val).ctrlOut = frameBytes (ctrlHead frIdle 0
      { ack := (s.hw.port p.val).rxNext - 1, creditVc := Fin.ofNat 4 v, credit := BitVec.ofNat 8 n, crc := 0 } []) [] ::
        (s.hw.port p.val).ctrlOut ∧
    (t.hw.port p.val).sinceAck = 0 ∧
    nget 0 (t.hw.port p.val).creditsDue v + n = nget 0 (s.hw.port p.val).creditsDue v := by
  have call : exec (.ackTimer p) s = execAckTimer p s := rfl
  have out : exec (.ackTimer p) s = .next { s with hw := s.hw.sendAck p.val } := by
    rw [call, execAckTimer]
    exact act_eq (if_pos carries)
  obtain ⟨small, most⟩ := dueVc_most (s.hw.port p.val)
  have port := sendAck_port s.hw p.val
  rw [gives, if_neg Bool.false_ne_true] at port
  refine ⟨_, dueVc (s.hw.port p.val), _, out, small, most, rfl, congrArg Port.ctrlOut port, congrArg Port.sinceAck port, ?_⟩
  have due : nget 0 ((s.hw.sendAck p.val).port p.val).creditsDue (dueVc (s.hw.port p.val)) =
      nget 0 (s.hw.port p.val).creditsDue (dueVc (s.hw.port p.val)) -
        min 255 (nget 0 (s.hw.port p.val).creditsDue (dueVc (s.hw.port p.val))) :=
    (congrArg (fun x : Port => nget 0 x.creditsDue (dueVc (s.hw.port p.val))) port).trans ((nget_nput ..).trans (if_pos rfl))
  rw [due]
  exact Nat.sub_add_cancel (Nat.min_le_right ..)

section Replay
variable (left : (s.hw.port p.val).replay ≠ [])
include left

omit left in
theorem exec_replayTimeout : exec (.replayTimeout p) s = .next { s with hw := s.hw.resendPort p.val } := by
  have call : exec (.replayTimeout p) s = execReplayTimeout p s := rfl
  rw [call, execReplayTimeout]
  exact act_eq (if_pos carries)

theorem replayTimeout_few (few : (s.hw.port p.val).resends < 7) : exec (.replayTimeout p) s = .next { s with
    hw := s.hw.setPort p.val (s.hw.port p.val).resend } := by
  rw [exec_replayTimeout carries, resendPort_few left few]

theorem replayTimeout_eighth (many : (s.hw.port p.val).resends = 7) (up : (s.hw.port p.val).state = .up) :
    ∃ t, exec (.replayTimeout p) s = .next t ∧ (t.hw.port p.val).state = .retraining ∧ t.hw.evt.flags.getLsbD 25 = true := by
  have out := exec_replayTimeout (s := s) (p := p) carries
  rw [resendPort_eighth left (Nat.le_of_eq many.symm) up] at out
  exact ⟨_, out, congrArg Port.state (retrain_port ..), retrain_flag ..⟩

end Replay

end Frame

/-- Settles O28: the states of a port command by command, frames by what each takes in, frees or refuses. -/
theorem linkStatesAndFrames : Obligations.LinkStatesAndFrames := by
  unfold Obligations.LinkStatesAndFrames
  refine ⟨?_, ?_⟩
  · intro s p m x h goes hello becomes
    have fallen (t : State) (falls : Fallen s.hw p.val t.hw) : (t.hw.port p.val).state = .down ∧ (t.hw.port p.val).replay = [] ∧
        (t.hw.port p.val).downs = x.downs + 1 ∧ t.hw.evt.flags.getLsbD 26 = true ∧ (x.forwarded = true → t.hw.spn.failover = true) :=
      ⟨falls.state, falls.replay, falls.count, falls.flag, falls.failover⟩
    refine ⟨fun bar => ⟨exec_linkEnable bar, exec_linkDisable bar, linkRetire_up bar, linkRetireCancel_retiring bar⟩,
      fun training => ⟨linkLock_training training, exec_trainingTimeout training⟩, linkLock_retraining, exec_downRetry,
      fun up => ⟨lossOfLock_up up, exec_fecUncorrectable_one, fecUncorrectable_sixteen up⟩, fun retraining => ⟨?_, fun crc =>
        ⟨fun other => ?_, fun same resume => hello_resumes crc retraining same resume⟩⟩,
      fun negotiating crc => ⟨hello_meets crc negotiating, exec_hello_fails crc negotiating⟩, exec_hello_up, exec_hello_bad⟩
    · obtain ⟨t, out, falls⟩ := retrainTimeout_falls retraining
      exact ⟨t, out, fallen t falls⟩
    · obtain ⟨t, out, falls⟩ := hello_stranger crc retraining other
      exact ⟨t, out, fallen t falls⟩
  · intro s p fr id next x whole counts carries
    have resent := resend_kept x
    exact ⟨fun unarmed => ⟨dataFrame_next carries unarmed, dataFrame_gap carries unarmed, dataFrame_bad carries unarmed⟩,
      idleFrame_acks carries, nakFrame_resends carries, exec_idleFrame_bad carries, exec_nakFrame_bad carries, ackTimer_acks carries,
      fun left => ⟨fun few => ⟨replayTimeout_few carries left few, resent.1, resent.2.1⟩, replayTimeout_eighth carries left⟩⟩

end Sys2Proof.Machine
end

section
/-!
# Tongs requests of one page (R278, R281, R282, R284, R287)

A request that a queue takes gets a number and changes nothing else that an order depends on; an order that finds room and is not
held starts at once.
-/
namespace Sys2Proof.Machine

/-! ## A request is taken -/

/-- A queue has taken a request: its number is used, and the driver's view of its requests may have changed. -/
def Tng.Opens (x y : Tng) : Prop := y = { x with
  nextReq := x.nextReq + 1, merges := y.merges, reqTag := y.reqTag, reqStatus := y.reqStatus, reqDone := y.reqDone, reqs := y.reqs }

/-- The tongs with one order more, the last. -/
def Tng.plus (x : Tng) (o : Order) : Tng := { x with orders := x.orders ++ [o] }

/-- The tongs with an order replaced. -/
def Tng.replaced (x : Tng) (o o' : Order) : Tng := { x with orders := x.orders.map fun q => if q = o then o' else q }

theorem openReq_room {s : Hw} {q : Nat} (room : s.queueLen q < 1024) (r : TongsReq) (pages : List Nat) :
    ∃ y, s.tng.Opens y ∧ y.merges = s.tng.merges ∧ s.openReq q r pages = some ({ s with tng := y }, s.tng.nextReq) := by
  unfold Hw.openReq
  rw [if_neg (Nat.not_le.2 room)]
  dsimp only
  split
  · refine ⟨_, ?_, ?_, rfl⟩
    · rfl
    · rfl
  · refine ⟨_, ?_, ?_, rfl⟩
    · rfl
    · rfl

theorem Tng.Opens.merge {x y : Tng} (opens : x.Opens y) (n : Nat) : x.Opens { y with merges := n } := by
  rw [Tng.Opens] at opens ⊢
  rw [opens]

section Opened
variable {s : Hw} {y : Tng} (opens : s.tng.Opens y)
include opens

/-- A held order takes no room. -/
theorem findRoom_plus {o : Order} (held : o.phase = .held) (tier f w : Nat) :
    Hw.findRoom { s with tng := y.plus o } tier f w = s.findRoom tier f w := by
  have used (tier : Nat) : Hw.usedLocs { s with tng := y.plus o } tier = s.usedLocs tier := by
    rw [opens]
    simp only [Hw.usedLocs, Tng.plus, List.filterMap_append, List.filterMap_cons, List.filterMap_nil, held, List.append_nil]
  have pools : Hw.pool { s with tng := y.plus o } f w = s.pool f w := by rw [opens]; rfl
  have loans (i : Nat) : Hw.loan { s with tng := y.plus o } i = s.loan i := by rw [opens]; rfl
  have host : (y.plus o).hostPages = s.tng.hostPages := by rw [opens]; rfl
  unfold Hw.findRoom
  simp only [used, pools, loans, host]

theorem home_plus (o : Order) (p : Nat) : Hw.home { s with tng := y.plus o } p = s.home p := by
  rw [opens]
  rfl

theorem pageOk_opens (p : Nat) : Hw.pageOk { s with tng := y } p = s.pageOk p := by rw [opens]; rfl

theorem underOrder_opens (p : Nat) : Hw.underOrder { s with tng := y } p = s.underOrder p := by rw [opens]; rfl

theorem home_opens (p : Nat) : Hw.home { s with tng := y } p = s.home p := by rw [opens]; rfl

theorem pageUsable_plus (o : Order) (p : Nat) : Hw.pageUsable { s with tng := y.plus o } p = s.pageUsable p := by
  rw [opens]
  rfl

omit opens in
theorem orderOff_plus (awake : ∀ g, s.deepOff g = false) (bus : s.mayMaster = true) (o o' : Order) :
    Hw.orderOff { s with tng := y.plus o } o' = false := by
  have awake' (g : Nat) : Hw.deepOff { s with tng := y.plus o } g = false := awake g
  have bus' : Hw.orderNoBus { s with tng := y.plus o } o' = false := by
    have master : Hw.mayMaster { s with tng := y.plus o } = true := bus
    rw [Hw.orderNoBus, master]
    rfl
  unfold Hw.orderOff
  rw [bus', awake', awake', Bool.and_false]
  split
  · rw [awake', Bool.and_false]
    rfl
  · rfl

end Opened

/-! ## An order that finds room -/

/-- An order whose copy has begun. -/
def Order.begun (o : Order) (l : W64) : Order := { o with location := l, phase := .copying 0 [], todo := List.range 16 }

/-- A placed page's order, which has nothing to copy. -/
def Order.placed (o : Order) (l : W64) : Order := { o with location := l, phase := .clean 0, todo := [] }

section Start
variable {s : Hw} {o : Order} {l : W64} (on : s.orderOff o = false)
  (room : s.findRoom o.destTier o.destField o.destWafer = some l)
include on room

theorem startOrder_place (kind : o.kind = .place) : s.startOrder o = { s with tng := s.tng.replaced o (o.placed l) } := by
  obtain ⟨queue, req, input, page, k, destTier, destField, destWafer, location, phase, expert, todo⟩ := o
  obtain rfl : k = .place := kind
  unfold Hw.startOrder
  simp only [on, Bool.false_eq_true, if_false, room, if_true]
  rfl

theorem startOrder_clone {src : Nat} (kind : o.kind = .clone src) :
    ∃ arbs, s.startOrder o = { s with arbs := arbs, tng := s.tng.replaced o (o.begun l) } := by
  obtain ⟨arbs, raised⟩ := raisePieces_arbs { s with tng := s.tng.replaced o (o.begun l) } o 16
  have copies : ¬o.kind = .place := by rw [kind]; nofun
  refine ⟨arbs, ?_⟩
  unfold Hw.startOrder
  simp only [on, Bool.false_eq_true, if_false, room, if_neg copies]
  split
  · next move => rw [kind] at move; cases move
  · next evict => rw [kind] at evict; cases evict
  · exact raised

theorem startOrder_move (kind : o.kind = .move) : ∃ arbs, s.startOrder o =
    Hw.onHome { s with arbs := arbs, tng := s.tng.replaced o (o.begun l) } o.page
      fun h => { h with state := .moving, destTier := o.destTier } := by
  obtain ⟨arbs, raised⟩ := raisePieces_arbs { s with tng := s.tng.replaced o (o.begun l) } o 16
  have copies : ¬o.kind = .place := by rw [kind]; nofun
  refine ⟨arbs, ?_⟩
  unfold Hw.startOrder
  simp only [on, Bool.false_eq_true, if_false, room, if_neg copies]
  split
  · exact congrArg (fun t : Hw => t.onHome o.page fun h => { h with state := .moving, destTier := o.destTier }) raised
  · next evict => rw [kind] at evict; cases evict
  · next no _ => exact absurd kind no

end Start

/-! ## Homes -/

/-- A page whose home the table holds. -/
def Hw.kept (s : Hw) (p : Nat) : Prop := ∀ sec, s.tng.sec = some sec → p < sec.homePages

theorem setHome_kept {s : Hw} {p : Nat} (kept : s.kept p) (h : Home) :
    ∃ mem, s.setHome p h = { s with mem := mem, tng := { s.tng with homes := nput {} s.tng.homes p h } } := by
  unfold Hw.setHome
  split
  · exact ⟨s.mem, rfl⟩
  · next sec found =>
    rw [if_pos (kept sec found)]
    exact ⟨_, rfl⟩

theorem onHome_kept {s : Hw} {p : Nat} (kept : s.kept p) (f : Home → Home) :
    (s.onHome p f).tng = { s.tng with homes := nput {} s.tng.homes p (f (s.home p)) } ∧ (s.onHome p f).home p = f (s.home p) ∧
      ∀ g, g ≠ p → (s.onHome p f).home g = s.home g := by
  obtain ⟨mem, same⟩ := setHome_kept kept (f (s.home p))
  rw [Hw.onHome, same]
  exact ⟨rfl, (nget_nput ..).trans (if_pos rfl), fun g other => (nget_nput ..).trans (if_neg other)⟩

/-! ## What a request of one page leaves -/

/-- The request has been taken, and orders of other requests stand. -/
def TakenIn (s : Hw) (t : Hw) : Prop :=
  t.tng.nextReq = s.tng.nextReq + 1 ∧ ∀ x ∈ s.tng.orders, x.req ≠ s.tng.nextReq → x ∈ t.tng.orders

/-- The request stands in the queue as one order. -/
def OneOrder (s : Hw) (q : Nat) (t : Hw) (page : Nat) (kind : OrdKind) (phase : OrdPhase) (l : W64) : Prop :=
  TakenIn s t ∧ ∃ o ∈ t.tng.orders, o.page = page ∧ o.req = s.tng.nextReq ∧ o.queue = q ∧ o.kind = kind ∧ o.phase = phase ∧
    o.location = l

/-- The order of the request, and what it has become, in the tongs of a request just taken. -/
theorem oneOrder_replaced {s t : Hw} {q : Nat} {y : Tng} {o o' : Order} (opens : s.tng.Opens y)
    (orders : t.tng.orders = ((y.plus o).replaced o o').orders) (next : t.tng.nextReq = y.nextReq)
    (req : o.req = s.tng.nextReq) (same : o'.req = o.req ∧ o'.queue = q) :
    OneOrder s q t o'.page o'.kind o'.phase o'.location := by
  have before : y.orders = s.tng.orders := by rw [opens]
  refine ⟨⟨next.trans (by rw [opens]), fun x mem other => ?_⟩, o', ?_, rfl, same.1.trans req, same.2, rfl, rfl, rfl⟩
  all_goals rw [orders, Tng.replaced, Tng.plus]
  · refine List.mem_map.2 ⟨x, List.mem_append_left _ (before ▸ mem), if_neg fun eq => other ?_⟩
    rw [eq, req]
  · exact List.mem_map.2 ⟨o, List.mem_append_right _ (List.mem_singleton.2 rfl), if_pos rfl⟩

end Sys2Proof.Machine
end

section
/-!
# MOVE, PLACE, PREFETCH, CLONE, EVICT and RELEASE of one page (R278, R281, R282, R284, R287)
-/
namespace Sys2Proof.Machine

theorem reqPages_one {r : TongsReq} (one : reqCount r = 1) : reqPages r = [reqPage r] := by
  rw [reqPages, one]
  rfl

/-- The order that a request of a page enters, before it is judged. -/
def entry (q : Nat) (r : TongsReq) (id page : Nat) (kind : OrdKind) (tier f w : Nat) (expert : Option (Nat × Nat)) : Order :=
  { queue := q, req := id, input := r.input.val, page := page, kind := kind, destTier := tier, destField := f, destWafer := w
    location := 0, phase := .held, expert := expert }

section Request
variable {s : State} {q : Fin 96} {r : TongsReq}

/-- Room for a request, no field asleep, and the bus to be mastered. -/
structure QueueOpen (s : Hw) (q : Nat) : Prop where
  queue : s.queueLen q < 1024
  awake : ∀ g, s.deepOff g = false
  bus : s.mayMaster = true

/-! ## MOVE -/

/-- A movable page that lies elsewhere starts to move. -/
theorem judgeMove_starts {h : Hw} {o : Order} (state : (h.home o.page).state = .home) (away : (h.home o.page).tier ≠ o.destTier)
    (free : (h.home o.page).fixed = false)
    (unheld : o.expert.isNone = true → (h.home o.page).pinned = false ∧ h.pageUsable o.page = false) :
    h.judgeMove o = h.startOrder o := by
  have there : o.there (h.home o.page) = false := by simp [Order.there, away]
  have held : (o.expert.isNone && ((h.home o.page).pinned || h.pageUsable o.page)) = false := by
    cases expert : o.expert.isNone
    case false => rfl
    case true =>
      obtain ⟨pinned, unused⟩ := unheld expert
      rw [pinned, unused]
      rfl
  unfold Hw.judgeMove
  simp only [state, there, free, held, Bool.or_self, Bool.false_eq_true, if_false, reduceCtorEq]

/-- A page that a request has just entered starts to move into the room found. -/
theorem entered_moves {h : Hw} {y : Tng} {o : Order} {l : W64} (opens : h.tng.Opens y) (ready : QueueOpen h o.queue)
    (held : o.phase = .held) (kind : o.kind = .move) (kept : h.kept o.page) (state : (h.home o.page).state = .home)
    (free : (h.home o.page).fixed = false) (away : (h.home o.page).tier ≠ o.destTier)
    (unheld : o.expert.isNone = true → (h.home o.page).pinned = false ∧ h.pageUsable o.page = false)
    (room : h.findRoom o.destTier o.destField o.destWafer = some l) :
    ∃ t, Hw.judgeMove { h with tng := y.plus o } o = t ∧ t.tng.orders = ((y.plus o).replaced o (o.begun l)).orders ∧
      t.tng.nextReq = y.nextReq ∧ t.home o.page = { h.home o.page with state := .moving, destTier := o.destTier } ∧
      ∀ g, g ≠ o.page → t.home g = h.home g := by
  have home := home_plus opens o
  have starts := judgeMove_starts (h := { h with tng := y.plus o }) (o := o) (by rw [home]; exact state)
    (by rw [home]; exact away) (by rw [home]; exact free) (by rw [home, pageUsable_plus opens]; exact unheld)
  obtain ⟨arbs, started⟩ := startOrder_move (orderOff_plus ready.awake ready.bus o o)
    ((findRoom_plus opens held ..).trans room) kind
  rw [started] at starts
  generalize put : ({ { h with tng := y.plus o } with arbs := arbs, tng := (y.plus o).replaced o (o.begun l) } : Hw) = v at starts
  have tng : v.tng = (y.plus o).replaced o (o.begun l) := by rw [← put]
  have homes (p : Nat) : v.home p = h.home p := by
    rw [← put]
    exact home p
  have kept' : v.kept o.page := by
    intro sec found
    have same : v.tng.sec = h.tng.sec := by rw [tng, opens]; rfl
    exact kept sec (same ▸ found)
  obtain ⟨after, here, others⟩ := onHome_kept kept' fun g => { g with state := .moving, destTier := o.destTier }
  refine ⟨_, starts, ?_, ?_, ?_, ?_⟩
  · rw [after, tng]
  · rw [after, tng]
    rfl
  · exact here.trans (by rw [homes])
  · exact fun g other => (others g other).trans (homes g)

variable {l : W64} (ready : QueueOpen s.hw q.val)
include ready

section Sized
variable (one : reqCount r = 1) (low : 1 ≤ rBits r 7 5) (high : rBits r 7 5 ≤ 4) (field : rBits r 7 5 = 1 → rBits r 35 30 < 48)
include one low high field

omit ready one in
theorem reach_good : (decide (rBits r 7 5 < 1) || decide (rBits r 7 5 > 4) || (decide (rBits r 7 5 = 1) &&
    decide (rBits r 35 30 ≥ 48))) = false := by
  simp only [Bool.or_eq_false_iff, Bool.and_eq_false_iff, decide_eq_false_iff_not]
  refine ⟨⟨by omega, by omega⟩, ?_⟩
  by_cases near : rBits r 7 5 = 1
  · exact .inr (Nat.not_le.2 (field near))
  · exact .inl near

omit ready in
theorem exec_move_merges (near : rBits r 7 5 = 1) (merges : s.hw.mergeable (reqPage r) (rBits r 35 30) (rBits r 36 36) = true) :
    exec (.move q r) s = .next { s with hw := s.hw.merge q.val r } := by
  have call : exec (.move q r) s = execMove q r s := rfl
  have good := reach_good low high field
  rw [call, execMove]
  refine act_eq ?_
  rw [Hw.moveReq, reqPages_one one]
  simp only [List.isEmpty_cons, Bool.false_or, good, Bool.false_eq_true, if_false]
  exact if_pos (by simp [near, merges])

/-- A MOVE of one page that no order takes there enters one order, which is judged. -/
theorem exec_move_enters (apart : rBits r 7 5 = 1 → s.hw.mergeable (reqPage r) (rBits r 35 30) (rBits r 36 36) = false) :
    ∃ y, s.hw.tng.Opens y ∧ exec (.move q r) s = .next { s with
      hw := Hw.judgeMove { s.hw with
          tng := y.plus (entry q.val r s.hw.tng.nextReq (reqPage r) .move (rBits r 7 5) (rBits r 35 30) (rBits r 36 36) none) }
        (entry q.val r s.hw.tng.nextReq (reqPage r) .move (rBits r 7 5) (rBits r 35 30) (rBits r 36 36) none) } := by
  have call : exec (.move q r) s = execMove q r s := rfl
  have good := reach_good low high field
  have alone : (decide (rBits r 7 5 = 1) && [reqPage r].all fun p => s.hw.mergeable p (rBits r 35 30) (rBits r 36 36)) = false := by
    by_cases near : rBits r 7 5 = 1
    · simp [apart near]
    · simp [near]
  obtain ⟨y, opens, -, opened⟩ := openReq_room ready.queue r [reqPage r]
  refine ⟨y, opens, ?_⟩
  rw [call, execMove]
  refine act_eq ?_
  rw [Hw.moveReq, reqPages_one one]
  simp only [List.isEmpty_cons, Bool.false_or, good, Bool.false_eq_true, if_false, alone, opened]
  rfl

/-- A PLACE of an UNMAPPED page that no order has takes the room found. -/
theorem exec_place_takes (unmapped : (s.hw.home (reqPage r)).state = .unmapped) (named : s.hw.pageOk (reqPage r) = true)
    (free : s.hw.underOrder (reqPage r) = false)
    (room : s.hw.findRoom (rBits r 7 5) (rBits r 35 30) (rBits r 36 36) = some l) :
    ∃ y o, s.hw.tng.Opens y ∧
      o = entry q.val r s.hw.tng.nextReq (reqPage r) .place (rBits r 7 5) (rBits r 35 30) (rBits r 36 36) none ∧
      exec (.place q r) s = .next { s with hw := { s.hw with tng := (y.plus o).replaced o (o.placed l) } } := by
  have call : exec (.place q r) s = execPlace q r s := rfl
  have good := reach_good low high field
  obtain ⟨y, opens, -, opened⟩ := openReq_room ready.queue r [reqPage r]
  refine ⟨y, _, opens, rfl, ?_⟩
  generalize order : entry q.val r s.hw.tng.nextReq (reqPage r) .place (rBits r 7 5) (rBits r 35 30) (rBits r 36 36) none = o
  have started := startOrder_place (s := { s.hw with tng := y.plus o }) (o := o) (l := l)
    (orderOff_plus ready.awake ready.bus o o) ((findRoom_plus opens (by rw [← order]; rfl) ..).trans (by rw [← order]; exact room))
    (by rw [← order]; rfl)
  have entered : (decide ((Hw.home { s.hw with tng := y } (reqPage r)).state ≠ .unmapped) ||
      !Hw.pageOk { s.hw with tng := y } (reqPage r) || Hw.underOrder { s.hw with tng := y } (reqPage r)) = false := by
    rw [home_opens opens, pageOk_opens opens, underOrder_opens opens, unmapped, named, free]
    rfl
  rw [call, execPlace]
  refine act_eq ?_
  rw [reqPages_one one]
  simp only [List.isEmpty_cons, Bool.false_or, good, Bool.false_eq_true, if_false, opened, List.foldl_cons, List.foldl_nil, entered]
  rw [← order] at started ⊢
  exact started

end Sized

/-! ## PREFETCH -/

omit ready in
/-- What is under no order is under none that goes to a place. -/
theorem mergeable_free {h : Hw} {p : Nat} (free : h.underOrder p = false) (f w : Nat) : h.mergeable p f w = false := by
  have none := List.any_eq_false.1 free
  refine List.any_eq_false.2 fun o mem => ?_
  have other : decide (o.page = p) = false := Bool.eq_false_iff.2 (none o mem)
  simp [other]

/-- A PREFETCH of an expert with one page, which lies outside tier 1 under no order, enters one order, which is judged. -/
theorem exec_prefetch_enters {x : ResRec} {pg : Nat} (found : s.hw.resRec (rBits r 15 8) (rBits r 29 16) = some x)
    (valid : x.valid = true) (pages : x.pages = [pg]) (away : (s.hw.home pg).tier ≠ 1) (free : s.hw.underOrder pg = false) :
    ∃ y, s.hw.tng.Opens y ∧ exec (.prefetch q r) s = .next { s with
      hw := Hw.judgeMove { s.hw with
          tng := y.plus (entry q.val r s.hw.tng.nextReq pg .move 1 x.field x.wafer (some (x.layer, x.expert))) }
        (entry q.val r s.hw.tng.nextReq pg .move 1 x.field x.wafer (some (x.layer, x.expert))) } := by
  have call : exec (.prefetch q r) s = execPrefetch q r s := rfl
  obtain ⟨y, opens, -, opened⟩ := openReq_room ready.queue r [pg]
  have record : (s.hw.resRec (rBits r 15 8) (rBits r 29 16)).filter (·.valid) = some x := by
    rw [found]
    simp [valid]
  have gone : x.pages.filter (fun p => decide ((s.hw.home p).tier ≠ 1)) = [pg] := by simp [pages, away]
  have fresh : [pg].filter (fun p => !s.hw.underOrder p) = [pg] := by simp [free]
  have alone : [pg].any (fun p => Hw.mergeable { s.hw with tng := y } p x.field x.wafer) = false := by
    simp [mergeable_free ((underOrder_opens opens pg).trans free)]
  refine ⟨y, opens, ?_⟩
  rw [call, execPrefetch]
  refine act_eq ?_
  simp only [record, gone, fresh, alone, List.isEmpty_cons, Bool.false_eq_true, if_false, opened]
  rfl

/-! ## CLONE -/

/-- A CLONE into an UNMAPPED page that no order has starts to copy into the room found. -/
theorem exec_clone_takes (region : r.w0.getLsbD 53 = true) (field : rBits r 35 30 < 48)
    (source : (s.hw.home (reqPage r)).state = .home) (unmapped : (s.hw.home (bits r.w1.toNat 61 31)).state = .unmapped)
    (named : s.hw.pageOk (bits r.w1.toNat 61 31) = true) (free : s.hw.underOrder (bits r.w1.toNat 61 31) = false)
    (room : s.hw.findRoom 1 (rBits r 35 30) (rBits r 36 36) = some l) :
    ∃ y o arbs, s.hw.tng.Opens y ∧ o = entry q.val r s.hw.tng.nextReq (bits r.w1.toNat 61 31) (.clone (reqPage r)) 1 (rBits r 35 30)
        (rBits r 36 36) none ∧
      exec (.clone q r) s = .next { s with hw := { s.hw with arbs := arbs, tng := (y.plus o).replaced o (o.begun l) } } := by
  have call : exec (.clone q r) s = execClone q r s := rfl
  obtain ⟨y, opens, -, opened⟩ := openReq_room ready.queue r [bits r.w1.toNat 61 31]
  generalize order : entry q.val r s.hw.tng.nextReq (bits r.w1.toNat 61 31) (.clone (reqPage r)) 1 (rBits r 35 30) (rBits r 36 36)
    none = o
  obtain ⟨arbs, started⟩ := startOrder_clone (s := { s.hw with tng := y.plus o }) (o := o) (l := l) (src := reqPage r)
    (orderOff_plus ready.awake ready.bus o o) ((findRoom_plus opens (by rw [← order]; rfl) ..).trans (by rw [← order]; exact room))
    (by rw [← order]; rfl)
  refine ⟨y, o, arbs, opens, rfl, ?_⟩
  rw [call, execClone]
  refine act_eq ?_
  unfold Hw.cloneReq
  simp only [region, if_true, source, reduceCtorEq, if_false, opened]
  refine (if_neg ?_).trans ?_
  · simp [unmapped, named, free, field]
  · rw [← order] at started ⊢
    exact started

/-! ## EVICT and RELEASE -/

/-- The orders of an EVICT, which the boundary judges (R284). -/
def evictions (q : Nat) (r : TongsReq) (id : Nat) : List Order :=
  (reqPages r).map fun p => entry q r id p (.evict (r.w0.getLsbD 4)) (rBits r 7 5) (rBits r 35 30) (rBits r 36 36) none

theorem exec_evict_holds (some : reqPages r ≠ []) (run : rBits r 29 16 = 0x3FFF) (high : rBits r 7 5 ≤ 4) :
    ∃ y, s.hw.tng.Opens y ∧ exec (.evict q r) s = .next { s with hw := { s.hw with
      tng := { y with orders := s.hw.tng.orders ++ evictions q.val r s.hw.tng.nextReq } } } := by
  have call : exec (.evict q r) s = execEvict q r s := rfl
  obtain ⟨y, opens, -, opened⟩ := openReq_room ready.queue r (reqPages r)
  have orders : y.orders = s.hw.tng.orders := by rw [opens]
  have good : ((reqPages r).isEmpty || decide (rBits r 7 5 > 4)) = false := by simp [some, high]
  refine ⟨y, opens, ?_⟩
  rw [call, execEvict]
  refine act_eq ?_
  simp only [run, if_true, good, Bool.false_eq_true, if_false, opened, Hw.enter, orders]
  rfl

theorem exec_release_notes (some : reqPages r ≠ []) : ∃ y, s.hw.tng.Opens y ∧ exec (.release q r) s = .next { s with
    hw := { s.hw with tng := { y with
      releases := s.hw.tng.releases ++ (reqPages r).map fun p => (p, s.hw.tng.nextReq) } } } := by
  have call : exec (.release q r) s = execRelease q r s := rfl
  obtain ⟨y, opens, -, opened⟩ := openReq_room ready.queue r (reqPages r)
  have releases : y.releases = s.hw.tng.releases := by rw [opens]
  have good : (reqPages r).isEmpty = false := by simp [some]
  refine ⟨y, opens, ?_⟩
  rw [call, execRelease]
  refine act_eq ?_
  simp only [good, Bool.false_eq_true, if_false, opened, releases]

end Request

end Sys2Proof.Machine
end

section
/-!
# Rounds of a copy, lost pages, refetches out of time, and the obligation on orders (R279, R288, R289, R337, R374)
-/
namespace Sys2Proof.Machine

/-! ## Rounds of a copy -/

/-- A copy that is given up after its four further rounds: it is judged again at the boundary (R279). -/
def Hw.givenUp (s : Hw) (o : Order) : Hw :=
  let s := { s with tng := { s.tng with abandonCnt := s.tng.abandonCnt + 1 } }
  let s := ((s.backHome o).rejudge o.page).setOrder o { o with phase := .held }
  ((s.tng.reqs.find? fun r => decide (r.id = o.req)).map fun r => s.reqFinal r.tag stAbandoned).getD s

/-- What the end of a round makes of an order (R279). -/
def Hw.roundEnds (s : Hw) (o : Order) (n : Nat) (d : List Nat) : Hw :=
  if s.orderOff o || !o.todo.isEmpty then s
  else if d.isEmpty && decide (n ≤ 4) then s.setOrder o { o with phase := .clean n }
  else if n < 4 then (s.setOrder o { o with phase := .copying (n + 1) [], todo := d }).raisePieces o d.length
  else s.givenUp o

section Copy
variable {s : State} {q : Fin 96} {pg : BitVec 31} {o : Order} {n : Nat} {d : List Nat} (mem : o ∈ s.hw.tng.orders)
  (queue : o.queue = q.val) (page : o.page = pg.toNat) (phase : o.phase = .copying n d)
  (only : ∀ x ∈ s.hw.tng.orders, x.queue = q.val → x.page = pg.toNat → x.phase.inProgress = true → x = o)
include mem queue page phase only

theorem exec_moveCopyDone : exec (.moveCopyDone q pg) s = .next { s with hw := s.hw.roundEnds o n d } := by
  have call : exec (.moveCopyDone q pg) s = execMoveCopyDone q pg s := rfl
  rw [call, execMoveCopyDone]
  refine act_eq ?_
  split
  · next missing =>
    have none := List.find?_eq_none.1 missing o mem
    simp [queue, page, phase] at none
  · next x found =>
    have sat := List.find?_some found
    simp only [Bool.and_eq_true, decide_eq_true_eq] at sat
    obtain ⟨⟨queue', page'⟩, copying⟩ := sat
    have under : x.phase.inProgress = true := by
      cases state : x.phase with
      | copying n d => rfl
      | clean n => rfl
      | _ => rw [state] at copying; cases copying
    obtain rfl := only x (List.mem_of_find?_eq_some found) queue' page' under
    simp only [phase]
    unfold Hw.roundEnds
    refine ite_congr rfl (fun _ => rfl) fun _ => ite_congr rfl (fun _ => rfl) fun _ => ite_congr rfl (fun _ => rfl) fun _ => ?_
    unfold Hw.givenUp
    dsimp only
    split
    · next r reported => rw [reported]; rfl
    · next unreported => rw [unreported]; rfl

/-- A round whose pieces are not all copied, or whose order is held, goes on. -/
theorem moveCopyDone_waits (waits : (s.hw.orderOff o || !o.todo.isEmpty) = true) : exec (.moveCopyDone q pg) s = .next s := by
  rw [exec_moveCopyDone mem queue page phase only, Hw.roundEnds, if_pos waits]

variable (on : s.hw.orderOff o = false) (copied : o.todo = [])
include on copied

theorem moveCopyDone_clean (none : d = []) (few : n ≤ 4) : exec (.moveCopyDone q pg) s = .next { s with
    hw := { s.hw with tng := s.hw.tng.replaced o { o with phase := .clean n } } } := by
  rw [exec_moveCopyDone mem queue page phase only, Hw.roundEnds, if_neg (by simp [on, copied]), if_pos (by simp [none, few])]
  rfl

theorem moveCopyDone_again (some : d ≠ []) (few : n < 4) : exec (.moveCopyDone q pg) s = .next { s with
    hw := Hw.raisePieces { s.hw with tng := s.hw.tng.replaced o { o with phase := .copying (n + 1) [], todo := d } } o
      d.length } := by
  rw [exec_moveCopyDone mem queue page phase only, Hw.roundEnds, if_neg (by simp [on, copied]), if_neg (by simp [some]),
    if_pos few]
  rfl

theorem moveCopyDone_gives (some : d ≠ []) (many : n ≥ 4) : exec (.moveCopyDone q pg) s = .next { s with hw := s.hw.givenUp o } := by
  rw [exec_moveCopyDone mem queue page phase only, Hw.roundEnds, if_neg (by simp [on, copied]), if_neg (by simp [some]),
    if_neg (Nat.not_lt.2 many)]

end Copy

/-- A page whose move is given up is HOME again, its order waits for the boundary, and nothing else of the orders changes. -/
theorem givenUp_leaves {s : Hw} {o : Order} {n : Nat} {d : List Nat} (phase : o.phase = .copying n d) (kept : s.kept o.page)
    (kind : o.kind = .move) (moving : (s.home o.page).state = .moving) (only : ∀ x ∈ s.tng.orders, x.page = o.page → x = o) :
    (s.givenUp o).tng.orders = (s.tng.replaced o { o with phase := .held }).orders ∧
      (s.givenUp o).home o.page = { s.home o.page with state := .home, destTier := 0 } ∧
      (s.givenUp o).tng.abandonCnt = s.tng.abandonCnt + 1 := by
  have kept' : Hw.kept { s with tng := { s.tng with abandonCnt := s.tng.abandonCnt + 1 } } o.page := kept
  have back : Hw.backHome { s with tng := { s.tng with abandonCnt := s.tng.abandonCnt + 1 } } o =
      Hw.onHome { s with tng := { s.tng with abandonCnt := s.tng.abandonCnt + 1 } } o.page
        fun h => { h with state := .home, destTier := 0 } := by
    unfold Hw.backHome
    simp only [kind]
    exact if_pos moving
  obtain ⟨tng, home, -⟩ := onHome_kept kept' fun h => { h with state := .home, destTier := 0 }
  unfold Hw.givenUp
  dsimp only
  rw [back]
  generalize Hw.onHome { s with tng := { s.tng with abandonCnt := s.tng.abandonCnt + 1 } } o.page
    (fun h => { h with state := .home, destTier := 0 }) = t at tng home
  have orders : t.tng.orders = s.tng.orders := by rw [tng]
  have count : t.tng.abandonCnt = s.tng.abandonCnt + 1 := by rw [tng]
  have quiet : t.rejudge o.page = t := by
    have none : t.tng.orders.filter (fun x => decide (x.page = o.page) && decide (x.phase = .held) && decide (x.kind = .move)) = [] := by
      refine List.filter_eq_nil_iff.2 fun x mem => ?_
      rw [orders] at mem
      by_cases here : x.page = o.page
      · rw [only x mem here, phase]
        simp
      · simp [here]
    rw [Hw.rejudge, none]
    rfl
  rw [quiet]
  have put : ∀ r, ((t.setOrder o { o with phase := .held }).reqFinal r stAbandoned).tng.orders =
      (t.setOrder o { o with phase := .held }).tng.orders := fun _ => rfl
  have held : (t.setOrder o { o with phase := .held }).tng.orders = (s.tng.replaced o { o with phase := .held }).orders := by
    rw [Hw.setOrder, Tng.replaced, orders]
  cases (t.setOrder o { o with phase := .held }).tng.reqs.find? fun r => decide (r.id = o.req) with
  | none => exact ⟨held, home, count⟩
  | some r => exact ⟨held, home, count⟩

/-! ## Lost pages -/

/-- A home in flash that cannot be read. -/
theorem exec_flashUncorrectable {s : State} {lp : W32} {p : Nat} {g : Home} (mem : (p, g) ∈ s.hw.tng.homes) (flash : g.tier = 2)
    (mapped : g.state ≠ .unmapped) (here : g.location.toNat = lp.toNat)
    (only : ∀ x ∈ s.hw.tng.homes, x.2.tier = 2 → x.2.state ≠ .unmapped → x.2.location.toNat = lp.toNat → x.1 = p) :
    exec (.flashUncorrectable lp) s = .next { s with hw := s.hw.pageLost p none } := by
  have call : exec (.flashUncorrectable lp) s = execFlashUncorrectable lp s := rfl
  rw [call, execFlashUncorrectable]
  refine act_eq ?_
  split
  · next e found =>
    have sat := List.find?_some found
    simp only [Bool.and_eq_true, decide_eq_true_eq] at sat
    obtain ⟨⟨tier, state⟩, location⟩ := sat
    rw [only e (List.mem_of_find?_eq_some found) tier state location]
  · next missing =>
    have none := List.find?_eq_none.1 missing (p, g) mem
    simp [flash, mapped, here] at none

/-- TNG_LOST has been told (R288). -/
def LossTold (t : Hw) : Prop := t.tng.lost = true ∧ t.evt.flags.getLsbD 23 = true

theorem LossTold.record {t : Hw} (told : LossTold t) (i : RecIn) : LossTold (t.record i) :=
  ⟨by rw [record_tng]; exact told.1, record_stays i told.2⟩

theorem uncontain_stays {s : Hw} {n : Nat} (i : RecIn) (set : s.evt.flags.getLsbD n = true) :
    (s.uncontain i).evt.flags.getLsbD n = true :=
  judgeFull_stays (judgeHigh_stays (stopUncontained_stays _ ((congrArg (·.flags.getLsbD n) (emitRecord_evt s _)).trans set)))

theorem LossTold.uncontain {t : Hw} (told : LossTold t) (i : RecIn) : LossTold (t.uncontain i) :=
  ⟨by rw [uncontain_tng]; exact told.1, uncontain_stays i told.2⟩

theorem LossTold.ite {p : Prop} [Decidable p] {t u : Hw} (yes : LossTold t) (no : LossTold u) : LossTold (if p then t else u) := by
  split
  · exact yes
  · exact no

theorem LossTold.foldl {α : Type} {f : Hw → α → Hw} (step : ∀ t x, LossTold t → LossTold (f t x)) (l : List α) {t : Hw}
    (told : LossTold t) : LossTold (l.foldl f t) :=
  l.foldlRecOn f (motive := LossTold) told fun u still x _ => step u x still

theorem LossTold.failFill {t : Hw} (told : LossTold t) (w : Nat) : LossTold (t.failFill w) := by
  unfold Hw.failFill
  have recorded (x : Wslot) (i : RecIn) : LossTold ((t.setWslot w x).record i) := LossTold.record (t := t.setWslot w x) told i
  exact .ite ⟨by rw [raise_tng]; exact (recorded _ _).1, raise_stays 22 (recorded _ _).2⟩ (recorded _ _)

theorem LossTold.evictNode {t : Hw} (told : LossTold t) (k : KvSec) (n : Nat) : LossTold (t.evictNode k n) := by
  have write (u : Hw) (still : LossTold u) (a : Nat) (b : List Byte) : LossTold (u.memWrite a b) := still
  have drop (u : Hw) (i : Nat) (still : LossTold u) : LossTold (u.dropRef k i) := .ite still still
  have dropped := LossTold.foldl (f := fun s i => s.dropRef k i) drop (t.groupPages k n) told
  unfold Hw.evictNode
  exact write _ (.ite dropped (write _ dropped _ _)) _ _

theorem LossTold.loseKv {t : Hw} (told : LossTold t) (p : Nat) : LossTold (t.loseKv p) := by
  unfold Hw.loseKv
  split
  · exact .foldl (fun u x still => still.evictNode _ x) _ told
  · exact told

theorem LossTold.loseWeight {t : Hw} (told : LossTold t) (p serial : Nat) : LossTold (t.loseWeight p serial none) := by
  unfold Hw.loseWeight
  split
  · exact told.failFill _
  dsimp only
  have refetched : LossTold (if (t.imageWith p).isSome then
      { t with flt := { t.flt with refetch := t.flt.refetch ++ [(p, serial)] } } else t) := .ite told told
  split
  · exact refetched
  · exact refetched
  · next no => cases no

/-- The loss of a page is told, whatever the page held. -/
theorem pageLost_told {s : Hw} {p : Nat} (live : (s.home p).state = .home ∨ (s.home p).state = .moving) :
    LossTold (s.pageLost p none) := by
  unfold Hw.pageLost
  rw [if_neg (by obtain state | state := live <;> simp [state])]
  extract_lets t u src v n refetches w
  have raised : LossTold v := ⟨by simp only [v, raise_tng, src], raise_bit _ 23⟩
  have recorded : LossTold w := raised.record _
  clear_value w
  split
  · exact recorded.loseWeight ..
  · exact recorded.loseKv ..
  · exact recorded.uncontain _
  · exact recorded

end Sys2Proof.Machine
end

section
/-!
# Pages that are lost for good, refetches out of time, and the obligation on orders (R279, R282, R288, R337, R374)
-/
namespace Sys2Proof.Machine

/-! ## The orders of a lost page -/

/-- What giving up an order leaves when its page is not on the move: the table of homes and the count of lost pages. -/
def Hw.homeSide (s : Hw) := (s.tng.homes, s.tng.lostCnt, s.tng.sec)

theorem arbSet_tng (s : Hw) (f kind inst input n : Nat) : (s.arbSet f kind inst input n).tng = s.tng := by
  unfold Hw.arbSet
  dsimp only
  split
  · split
    · rfl
    · rfl
  split
  · obtain ⟨arbs, same⟩ := arbRaise_arbs s f kind inst input n
    rw [same]
  · rfl

theorem endOrder_homeSide (s : Hw) (o : Order) (status : Nat) : (s.endOrder o status).homeSide = s.homeSide := by
  unfold Hw.endOrder Hw.endPage
  split
  · rfl
  · dsimp only
    split
    · rfl
    · rfl

theorem backHome_still {s : Hw} {o : Order} {p : Nat} (source : o.source = some p) (still : (s.home p).state ≠ .moving) :
    s.backHome o = s := by
  unfold Hw.backHome
  split
  · next kind =>
    obtain rfl : o.page = p := by simpa [Order.source, kind] using source
    exact if_neg still
  · next kind =>
    obtain rfl : o.page = p := by simpa [Order.source, kind] using source
    exact if_neg still
  · rfl

theorem dropOrder_homeSide {s : Hw} {o : Order} {p : Nat} (source : o.source = some p) (still : (s.home p).state ≠ .moving)
    (status : Nat) : (s.dropOrder o status).homeSide = s.homeSide := by
  have ended : ((if o.phase.inProgress then s.backHome o else s).endOrder o status).homeSide = s.homeSide := by
    rw [backHome_still source still, ite_self, endOrder_homeSide]
  unfold Hw.dropOrder
  dsimp only
  split
  · exact ended
  · rw [Hw.homeSide, arbSet_tng]
    exact ended

/-- Giving up what reads a page that is not on the move leaves every home. -/
theorem dropReaders_homeSide {s : Hw} {p : Nat} (still : (s.home p).state ≠ .moving) (status : Nat) :
    ((s.tng.orders.filter fun o => decide (o.source = some p)).foldl (fun s o => s.dropOrder o status) s).homeSide =
      s.homeSide := by
  refine List.foldlRecOn _ _ (motive := fun t : Hw => t.homeSide = s.homeSide) rfl fun t same o mem => ?_
  have source : o.source = some p := of_decide_eq_true (List.mem_filter.1 mem).2
  have homes : t.tng.homes = s.tng.homes := by
    simp only [Hw.homeSide, Prod.mk.injEq] at same
    exact same.1
  have here : t.home p = s.home p := by rw [Hw.home, homes]; rfl
  exact (dropOrder_homeSide source (here ▸ still) status).trans same

/-- A HOME page whose data no unit restores is LOST, and counted. -/
theorem pageLost_loses {s : Hw} {p : Nat} (kept : s.kept p) (home : (s.home p).state = .home) (weight : (s.home p).cls ≠ 1)
    (cache : (s.home p).cls ≠ 2) (trained : (s.home p).cls ≠ 3) :
    (s.pageLost p none).home p = { s.home p with state := .lost } ∧ (s.pageLost p none).tng.lostCnt = s.tng.lostCnt + 1 := by
  have side := dropReaders_homeSide (s := s) (p := p) (by simp [home]) stAbandoned
  unfold Hw.pageLost
  rw [if_neg (by simp [home])]
  dsimp only
  generalize (s.tng.orders.filter fun o => decide (o.source = some p)).foldl (fun s o => s.dropOrder o stAbandoned) s = t at side ⊢
  simp only [Hw.homeSide, Prod.mk.injEq] at side
  obtain ⟨homes, count, sec⟩ := side
  have kept' : t.kept p := fun x found => kept x (sec ▸ found)
  have here : t.home p = s.home p := by rw [Hw.home, homes]; rfl
  obtain ⟨tng, lost, -⟩ := onHome_kept kept' fun h => { h with state := .lost }
  have lostCnt : (t.onHome p fun h => { h with state := .lost }).tng.lostCnt = s.tng.lostCnt := by rw [tng, ← count]
  rw [here] at lost
  split
  · next eq => exact absurd eq weight
  · next eq => exact absurd eq cache
  · next eq => exact absurd eq trained
  · rw [Hw.home, record_tng, raise_tng]
    exact ⟨lost, congrArg (· + 1) lostCnt⟩

/-! ## A refetch out of time -/

theorem uncontain_ringSide (s : Hw) (i : RecIn) : (s.uncontain i).ringSide = s.ringSide := by
  rw [Hw.uncontain, judgeFull_ringSide, judgeHigh_ringSide, stopUncontained_ringSide, Hw.writeRecord, emitRecord_ringSide]

theorem uncontain_refetch (s : Hw) (i : RecIn) : (s.uncontain i).flt.refetch = s.flt.refetch := by
  have side := uncontain_ringSide s i
  simp only [Hw.ringSide, Prod.mk.injEq] at side
  exact side.2.2.2.2

theorem uncontain_flag (s : Hw) (i : RecIn) : (s.uncontain i).evt.flags.getLsbD 32 = true :=
  judgeFull_stays (judgeHigh_stays (stopUncontained_flag ..))

/-- A refetch that no longer runs. -/
def Hw.refetchGone (s : Hw) (e : Nat × Nat) : Hw :=
  { s with flt := { s.flt with refetch := s.flt.refetch.filter fun x => decide (x ≠ e) } }

/-- A refetch out of time is forgotten, and its fault is uncontained. -/
theorem exec_refetchTimeout {s : State} {pg : BitVec 31} {k : Nat} (mem : (pg.toNat, k) ∈ s.hw.flt.refetch)
    (only : ∀ x ∈ s.hw.flt.refetch, x.1 = pg.toNat → x = (pg.toNat, k)) :
    exec (.refetchTimeout pg) s = .next { s with
      hw := (s.hw.refetchGone (pg.toNat, k)).uncontain
        ((s.hw.refetchGone (pg.toNat, k)).lostRec pg.toNat .uncontained (some k)) } := by
  have call : exec (.refetchTimeout pg) s = execRefetchTimeout pg s := rfl
  have found : s.hw.flt.refetch.find? (fun e => decide (e.1 = pg.toNat)) = some (pg.toNat, k) := by
    cases first : s.hw.flt.refetch.find? fun e => decide (e.1 = pg.toNat) with
    | none => exact absurd (List.find?_eq_none.1 first _ mem) (by simp)
    | some e =>
      have page : e.1 = pg.toNat := by simpa using List.find?_some first
      exact congrArg some (only e (List.mem_of_find?_eq_some first) page)
  rw [call, execRefetchTimeout]
  refine act_eq ?_
  simp only [found]
  rfl

/-! ## Bus mastering and merging -/

/-- A copy to host memory waits while the module may not master the bus. -/
theorem orderOff_host {s : Hw} {o : Order} (bus : s.mayMaster = false) (host : o.destTier = 4) : s.orderOff o = true := by
  have waits : s.orderNoBus o = true := by simp [Hw.orderNoBus, bus, host]
  simp [Hw.orderOff, waits]

theorem merge_keeps (s : Hw) (q : Nat) (r : TongsReq) : (s.merge q r).tng.merges = s.tng.merges + 1 ∧
    (s.merge q r).tng.orders = s.tng.orders ∧ (s.merge q r).tng.homes = s.tng.homes := by
  unfold Hw.merge Hw.reqEnds
  split
  · exact ⟨rfl, rfl, rfl⟩
  · exact ⟨rfl, rfl, rfl⟩

theorem Tng.Opens.takenIn {s t : Hw} {y : Tng} (opens : s.tng.Opens y) (next : t.tng.nextReq = y.nextReq)
    (orders : ∀ x ∈ y.orders, x ∈ t.tng.orders) : TakenIn s t := by
  have same : y.orders = s.tng.orders := by rw [opens]
  exact ⟨next.trans (by rw [opens]), fun x mem _ => orders x (same ▸ mem)⟩

end Sys2Proof.Machine
end

section
/-!
# Tongs orders: what each request and each copy leaves, and the obligation (R278, R279, R281-R289, R337, R374)
-/
namespace Sys2Proof.Machine

section Request
variable {s : State} {q : Fin 96} {r : TongsReq} {l : W64} (ready : QueueOpen s.hw q.val)
include ready

section Sized
variable (one : reqCount r = 1) (low : 1 ≤ rBits r 7 5) (high : rBits r 7 5 ≤ 4) (field : rBits r 7 5 = 1 → rBits r 35 30 < 48)
include one low high field

/-- A MOVE of one movable page starts its copy. -/
theorem move_starts (kept : s.hw.kept (reqPage r)) (state : (s.hw.home (reqPage r)).state = .home)
    (free : (s.hw.home (reqPage r)).fixed = false) (unpinned : (s.hw.home (reqPage r)).pinned = false)
    (away : (s.hw.home (reqPage r)).tier ≠ rBits r 7 5) (unused : s.hw.pageUsable (reqPage r) = false)
    (apart : rBits r 7 5 = 1 → s.hw.mergeable (reqPage r) (rBits r 35 30) (rBits r 36 36) = false)
    (room : s.hw.findRoom (rBits r 7 5) (rBits r 35 30) (rBits r 36 36) = some l) :
    ∃ t, exec (.move q r) s = .next t ∧ OneOrder s.hw q.val t.hw (reqPage r) .move (.copying 0 []) l ∧
      t.hw.home (reqPage r) = { s.hw.home (reqPage r) with state := .moving, destTier := rBits r 7 5 } ∧
      ∀ g, g ≠ reqPage r → t.hw.home g = s.hw.home g := by
  obtain ⟨y, opens, run⟩ := exec_move_enters ready one low high field apart
  obtain ⟨t, moved, orders, next, here, others⟩ :=
    entered_moves (o := entry q.val r s.hw.tng.nextReq (reqPage r) .move (rBits r 7 5) (rBits r 35 30) (rBits r 36 36) none)
      opens ready rfl rfl kept state free away (fun _ => ⟨unpinned, unused⟩) room
  exact ⟨{ s with hw := t }, run.trans (by rw [moved]), oneOrder_replaced opens orders next rfl ⟨rfl, rfl⟩, here, others⟩

/-- A PLACE of one page takes its room. -/
theorem place_takes (unmapped : (s.hw.home (reqPage r)).state = .unmapped) (named : s.hw.pageOk (reqPage r) = true)
    (free : s.hw.underOrder (reqPage r) = false) (room : s.hw.findRoom (rBits r 7 5) (rBits r 35 30) (rBits r 36 36) = some l) :
    ∃ t, exec (.place q r) s = .next t ∧ OneOrder s.hw q.val t.hw (reqPage r) .place (.clean 0) l ∧
      t.hw.tng.homes = s.hw.tng.homes ∧ t.hw.mem = s.hw.mem := by
  obtain ⟨y, o, opens, rfl, run⟩ := exec_place_takes ready one low high field unmapped named free room
  have homes : y.homes = s.hw.tng.homes := by rw [opens]
  exact ⟨_, run, oneOrder_replaced (o' := (entry q.val r s.hw.tng.nextReq (reqPage r) .place (rBits r 7 5) (rBits r 35 30)
    (rBits r 36 36) none).placed l) opens rfl rfl rfl ⟨rfl, rfl⟩, homes, rfl⟩

end Sized

/-- A PREFETCH of an expert with one page starts its copy. -/
theorem prefetch_starts {x : ResRec} {pg : Nat} (found : s.hw.resRec (rBits r 15 8) (rBits r 29 16) = some x)
    (valid : x.valid = true) (pages : x.pages = [pg]) (kept : s.hw.kept pg) (state : (s.hw.home pg).state = .home)
    (fixed : (s.hw.home pg).fixed = false) (away : (s.hw.home pg).tier ≠ 1) (free : s.hw.underOrder pg = false)
    (room : s.hw.findRoom 1 x.field x.wafer = some l) :
    ∃ t, exec (.prefetch q r) s = .next t ∧ OneOrder s.hw q.val t.hw pg .move (.copying 0 []) l ∧
      (t.hw.home pg).state = .moving := by
  obtain ⟨y, opens, run⟩ := exec_prefetch_enters ready found valid pages away free
  obtain ⟨t, moved, orders, next, here, -⟩ :=
    entered_moves (o := entry q.val r s.hw.tng.nextReq pg .move 1 x.field x.wafer (some (x.layer, x.expert)))
      opens ready rfl rfl kept state fixed away (fun none => nomatch none) room
  exact ⟨{ s with hw := t }, run.trans (by rw [moved]), oneOrder_replaced opens orders next rfl ⟨rfl, rfl⟩,
    congrArg Home.state here⟩

/-- A CLONE starts its copy. -/
theorem clone_starts (region : r.w0.getLsbD 53 = true) (field : rBits r 35 30 < 48)
    (source : (s.hw.home (reqPage r)).state = .home) (unmapped : (s.hw.home (bits r.w1.toNat 61 31)).state = .unmapped)
    (named : s.hw.pageOk (bits r.w1.toNat 61 31) = true) (free : s.hw.underOrder (bits r.w1.toNat 61 31) = false)
    (room : s.hw.findRoom 1 (rBits r 35 30) (rBits r 36 36) = some l) :
    ∃ t, exec (.clone q r) s = .next t ∧
      OneOrder s.hw q.val t.hw (bits r.w1.toNat 61 31) (.clone (reqPage r)) (.copying 0 []) l ∧
      t.hw.tng.homes = s.hw.tng.homes := by
  obtain ⟨y, o, arbs, opens, rfl, run⟩ := exec_clone_takes ready region field source unmapped named free room
  have homes : y.homes = s.hw.tng.homes := by rw [opens]
  exact ⟨_, run, oneOrder_replaced (o' := (entry q.val r s.hw.tng.nextReq (bits r.w1.toNat 61 31) (.clone (reqPage r)) 1
    (rBits r 35 30) (rBits r 36 36) none).begun l) opens rfl rfl rfl ⟨rfl, rfl⟩, homes⟩

variable (some : reqPages r ≠ [])
include some

/-- An EVICT's orders are held. -/
theorem evict_held (run : rBits r 29 16 = 0x3FFF) (high : rBits r 7 5 ≤ 4) :
    ∃ t, exec (.evict q r) s = .next t ∧ TakenIn s.hw t.hw ∧
      t.hw.tng.orders = s.hw.tng.orders ++ evictions q.val r s.hw.tng.nextReq ∧ t.hw.tng.homes = s.hw.tng.homes ∧
      t.hw.mem = s.hw.mem := by
  obtain ⟨y, opens, ran⟩ := exec_evict_holds ready some run high
  have homes : y.homes = s.hw.tng.homes := by rw [opens]
  have orders : y.orders = s.hw.tng.orders := by rw [opens]
  exact ⟨_, ran, opens.takenIn rfl fun x mem => List.mem_append_left _ (orders ▸ mem), rfl, homes, rfl⟩

/-- A RELEASE's pages are noted. -/
theorem release_noted : ∃ t, exec (.release q r) s = .next t ∧ t = { s with hw := { s.hw with tng := t.hw.tng } } ∧
    TakenIn s.hw t.hw ∧
    t.hw.tng.releases = s.hw.tng.releases ++ (reqPages r).map fun p => (p, s.hw.tng.nextReq) := by
  obtain ⟨y, opens, ran⟩ := exec_release_notes ready some
  exact ⟨_, ran, rfl, opens.takenIn rfl fun _ mem => mem, rfl⟩

end Request

/-- A page whose move is given up after its rounds. -/
theorem moveCopyDone_abandons {s : State} {q : Fin 96} {pg : BitVec 31} {o : Order} {n : Nat} {d : List Nat}
    (mem : o ∈ s.hw.tng.orders) (queue : o.queue = q.val) (page : o.page = pg.toNat) (phase : o.phase = .copying n d)
    (only : ∀ x ∈ s.hw.tng.orders, x.queue = q.val → x.page = pg.toNat → x.phase.inProgress = true → x = o)
    (on : s.hw.orderOff o = false) (copied : o.todo = []) (some : d ≠ []) (many : n ≥ 4) (kept : s.hw.kept o.page)
    (kind : o.kind = .move) (moving : (s.hw.home o.page).state = .moving) (alone : ∀ x ∈ s.hw.tng.orders, x.page = o.page → x = o) :
    ∃ t, exec (.moveCopyDone q pg) s = .next t ∧
      t.hw.tng.orders = (s.hw.tng.replaced o { o with phase := .held }).orders ∧
      t.hw.home o.page = { s.hw.home o.page with state := .home, destTier := 0 } ∧
      t.hw.tng.abandonCnt = s.hw.tng.abandonCnt + 1 :=
  ⟨_, moveCopyDone_gives mem queue page phase only on copied some many, givenUp_leaves phase kept kind moving alone⟩

/-- Settles O31, request by request and round by round: a queue that takes a request leaves the orders of the others, and a page's
home changes with its own order alone. -/
theorem tongsOrders : Obligations.TongsOrders := by
  unfold Obligations.TongsOrders
  refine ⟨?_, ?_⟩
  · intro s q r l h p src dst f w tier accepted one kept movable queue awake bus
    have ready : QueueOpen s.hw q.val := ⟨queue, awake, bus⟩
    refine ⟨fun single low high field => ⟨?_, ?_, ?_⟩, ?_, ?_, ?_⟩
    · rintro inTable ⟨state, free, unpinned⟩ away unused apart room
      exact move_starts ready single low high field inTable state free unpinned away unused apart room
    · intro near merges
      exact ⟨_, exec_move_merges single low high field near merges, merge_keeps ..⟩
    · exact fun unmapped named free room => place_takes ready single low high field unmapped named free room
    · rintro x pg found valid pages inTable ⟨state, fixed, -⟩ away free room
      exact prefetch_starts ready found valid pages inTable state fixed away free room
    · exact fun region field source unmapped named free room =>
        clone_starts ready region field source unmapped named free room
    · exact fun some => ⟨fun run high => evict_held ready some run high, release_noted ready some⟩
  · intro s q pg o n d kept now
    refine ⟨fun mem queue page phase only =>
      ⟨fun left => ?_, fun on copied => ⟨?_, ?_, ?_⟩, fun bus host => ?_⟩, ?_, fun k mem only => ?_⟩
    · exact moveCopyDone_waits mem queue page phase only (by simp [left])
    · exact fun none few => moveCopyDone_clean mem queue page phase only on copied none few
    · exact fun some few => moveCopyDone_again mem queue page phase only on copied some few
    · exact fun some many inTable kind moving alone =>
        moveCopyDone_abandons mem queue page phase only on copied some many inTable kind moving alone
    · exact moveCopyDone_waits mem queue page phase only (by rw [orderOff_host bus host, Bool.true_or])
    · rintro lp p g mem rfl flash live here only
      have mapped : (s.hw.home p).state ≠ .unmapped := by
        obtain state | state := live
        · simp [state]
        · simp [state]
      have run := exec_flashUncorrectable mem flash mapped here only
      exact ⟨⟨_, run, pageLost_told live⟩, fun inTable state weight cache trained =>
        ⟨_, run, pageLost_loses inTable state weight cache trained⟩⟩
    · exact ⟨_, exec_refetchTimeout mem only, uncontain_refetch .., (uncontain_reports ..).2, uncontain_flag ..⟩

end Sys2Proof.Machine
end
